-- ==== Sys2Proof/Word.lean ====
section
/-! DEFINITION. The word types of the STG5120: 64-bit registers (R12) and octets. -/

namespace Sys2Proof

/-- A register, an operand or a counter value as a register shows it: 64 bits, bit 0 least significant. -/
abbrev Word := BitVec 64

/-- One octet of a frame, of an operand block or of host memory. -/
abbrev Byte := BitVec 8

end Sys2Proof
end

