-- ==== Sys2Proof/Syntax.lean ====
section
/-! DEFINITION. The commands of the block: one constructor per row of the opcode table, with what the environment
supplies beside the state (the octets of a frame or of an operand block, a measured value, the outcome of a check). -/

namespace Sys2Proof

/-- The 16 bytes of an instruction's slot, the first least significant (Table 4.1). -/
structure Ins where
  slot : BitVec 128
deriving DecidableEq, Repr

/-- What a read of an operand block returns: its octets, or none when the read fails (R186). -/
abbrev Block := Option (List Byte)

/-- A BAR0 write: who makes it (the host over a link, or the MP by its internal path), whether it comes through PF2's BAR0
rather than PF0's, the offset within that BAR, and the octets of the TLP, whose number is its size (R1015, R1016). -/
structure BarWrite where
  mp : Bool
  link : Bool
  pf2 : Bool
  offset : Nat
  data : List Byte
deriving DecidableEq, Repr

/-- What a register write makes the block read outside itself: the 8-byte entries at PEAL_LIST, none when that read fails
(R868), and whether every slot of the failed recorder store verifies (R989). -/
structure WriteEnv where
  pealList : Option (List Nat)
  recPass : Bool
deriving DecidableEq, Repr

/-- A BAR read TLP: link, function, offset and size; `bar2` when it reads PF0's doorbells (Table 16.2). -/
structure BarRead where
  link : Bool
  fn : Nat
  offset : Nat
  size : Nat
  bar2 : Bool := false
deriving DecidableEq, Repr

/-- A doorbell write: the link it came on (or the MP's internal path), its byte offset within the 8-byte location, its
size and its value. -/
structure DbWrite where
  mp : Bool
  link : Bool
  off : Nat
  size : Nat
  value : Nat
deriving DecidableEq, Repr

/-- Who writes a ring register: the MP, or the host over a link. -/
structure Who where
  mp : Bool
  link : Bool
deriving DecidableEq, Repr

/-- How the receive MAC of a port with MM_EN set got a frame (R313): as an ordinary frame or express mPacket, reassembled from
one mPacket and `frags` continuation fragments, as a reassembly it abandoned, or as an mPacket with an unknown SMD. -/
inductive RxMac where
  | plain
  | assembled (frags : Nat)
  | abandoned (frags : Nat)
  | smdErr
deriving DecidableEq, Repr

/-- What the PCS of the port counted since the last frame (Table 5.7, indices 40 to 43 and 47). -/
structure PcsCounts where
  codewords : Nat := 0
  corrected : Nat := 0
  uncorrectable : Nat := 0
  symbols : Nat := 0
  errBlocks : Nat := 0
deriving DecidableEq, Repr

/-- What the wire gave with a frame: octets from the destination address to the FCS, whether the FCS checks, a PCS error
control code or a truncation within it, and the time of its message timestamp point in the port's TS_DOMAIN; how the MAC merge
sublayer got it, what the PCS counted, and, of a frame released early with a SecTAG, its user data as the cipher unit gives it. -/
structure RxFrame where
  octets : List Byte
  fcsErr : Bool
  codeErr : Bool
  rxTime : Nat
  mac : RxMac := .plain
  pcs : PcsCounts := {}
  user : List Byte := []
deriving DecidableEq, Repr

/-- What the header gather releases: a frame the block holds, or the first octets of a frame still arriving at a front port
with the length it will have (R31); whether the Case reads of its lookups A and B slipped (R531); and the ASA locations whose ternary cells answer
its search wrongly (R596); `preempt` that the frame arriving is a preemptable one on a port with MM_EN set, `user` what of its
user data the cipher unit has given in clear. [log 34 DESIGN CHOICE] -/
structure Gather where
  frame : Option Nat
  port : Nat
  octets : List Byte
  length : Nat
  rxTime : Nat
  slipA : Bool
  slipB : Bool
  flipped : List Nat
  preempt : Bool := false
  user : List Byte := []
deriving DecidableEq, Repr

/-- A mailbox request as the MP reads it (R933): its channel, TAG and payload. -/
structure MbxReq where
  channel : Nat
  tag : Nat
  payload : List Byte
deriving DecidableEq, Repr

/-- A memory instance (R1118): one slice, one Case copy, one ASA copy, one copy of an indexed table, or one HBM3E stack. -/
inductive MemUnit where
  | slice (t : Fin 8)
  | caseCopy (k : Fin 4)
  | asaCopy (k : Fin 32)
  | tableCopy (table : Nat) (copy : Fin 4)
  | stack (k : Fin 2)
deriving DecidableEq, Repr

/-- What a KEK-install request carries: the key pair made for it fails its pairwise consistency test, the wrapped key fails its
integrity check, or the key in clear. -/
inductive KekWrap where
  | pairBad
  | bad
  | key (octets : List Byte)
deriving DecidableEq, Repr

/-- Where an uncorrectable error lies (Table 18.10). -/
inductive UeSite where
  /-- A cell (0), link word (1) or frame record (2) of a slice, or of a stack, at an index, and the frame it belongs to. -/
  | cell (deep : Bool) (unit : Nat) (index : Nat) (kind : Fin 3) (frame : Nat)
  /-- A Case location, in one copy or in every copy present. -/
  | caseSlot (copy : Fin 4) (loc : Nat) (every : Bool)
  /-- An entry of the fragment table, in order of its listing. -/
  | fragment (index : Nat)
  /-- Key shadow of an ASA entry. -/
  | asaShadow (table loc : Nat)
  /-- A row of an indexed table in one parity: one of its two copies, or both. -/
  | tableRow (table row : Nat) (parity both : Bool)
  /-- A counter word that a register holds, and one that none holds. -/
  | counterReg (offset : Nat)
  | counterWord (key : Nat)
  /-- A bucket level, a virtual time or tag, a credit, and a pointer. -/
  | bucket (key : Nat)
  | vtime (key : Nat)
  | credit (port : Fin 266) (cls : Fin 8)
  | pointer (key : Nat)
  /-- The link state of an egress queue or VOQ: its egress port, class and queue. -/
  | queueLink (port : Fin 266) (cls : Fin 8) (queue : Fin 9)
  | clave (b : Bool)
  | keyStore
  /-- MP memory; the requests on its mailbox channels as it restarts. -/
  | mpMemory (reqs : List (Nat × Nat × Nat))
  | recorder (store : Fin 4) (slot : Nat)
deriving DecidableEq, Repr

/-- The commands: one constructor per row of the opcode table. [log 5 DESIGN CHOICE] -/
inductive Instr where
  /-- END (R198): END completes once every earlier instruction of its program has completed, and writes its completion record. -/
  | endProg (ring : Fin 64) (ins : Ins)
  /-- QUOIN (R89): Holds later instructions of the ring until every earlier instruction of the ring has completed and its results are in memory. -/
  | quoin (ring : Fin 64) (ins : Ins)
  /-- QUOIN_W (R89): Holds later instructions until every write that the Write Gate accepted earlier has reached its target. -/
  | quoinW (ring : Fin 64) (ins : Ins)
  /-- QUOIN_C (R89): Holds later instructions until earlier CSNAP and Peal captures have finished writing to memory. -/
  | quoinC (ring : Fin 64) (ins : Ins)
  /-- QUOIN_T (R89): Holds later instructions until every timed event due at or before the quoin has taken effect. -/
  | quoinT (ring : Fin 64) (ins : Ins)
  /-- QUOIN_X (R89): Holds later instructions until all other quoin conditions hold and every declared link change has completed its hardware actions. -/
  | quoinX (ring : Fin 64) (ins : Ins)
  /-- SKIPIF (R200): Skips the next SKIP instructions of the program when its condition holds. -/
  | skipif (ring : Fin 64) (ins : Ins)
  /-- NOTE (R205): Posts EV_NOTE carrying a tag and 12 bytes of data. -/
  | note (ring : Fin 64) (ins : Ins)
  /-- GOPEN (R119): Opens the galley and records the issuing ring as its owner. -/
  | gopen (ring : Fin 64) (ins : Ins)
  /-- TW (R207): Places entry images in the galley log, all or nothing. -/
  | tw (ring : Fin 64) (ins : Ins) (block : Block)
  /-- TD (R208): Places deletions of keys, or resets of rows, in the galley log. -/
  | td (ring : Fin 64) (ins : Ins) (block : Block)
  /-- TM (R209): Places masked modifications of entries in the galley log. -/
  | tm (ring : Fin 64) (ins : Ins) (block : Block)
  /-- LOCK (R136): Accepts the galley for imposition and completes at its lock-up. -/
  | lock (ring : Fin 64) (ins : Ins)
  /-- LOCKAT (R141): Accepts the galley for a lock-up at operational time T. -/
  | lockat (ring : Fin 64) (ins : Ins) (block : Block)
  /-- GDROP (R218): Drops the galley, withdrawing any imposed writes and cancelling a pending LOCKAT. -/
  | gdrop (ring : Fin 64) (ins : Ins)
  /-- TRD (R221): Reads table rows, locations or keys in the live parity into a destination block. -/
  | trd (ring : Fin 64) (ins : Ins) (destOk : Bool) (keys : List (List Byte))
  /-- RW (R228): Writes a register through the Write Gate. -/
  | rw (ring : Fin 64) (ins : Ins) (env : WriteEnv)
  /-- RRD (R229): Reads a register, clearing its RS fields. -/
  | rrd (ring : Fin 64) (ins : Ins) (destOk : Bool)
  /-- RMW (R230): Reads a register and writes it under a mask, with no other write to it in between. -/
  | rmw (ring : Fin 64) (ins : Ins) (block : Block) (env : WriteEnv)
  /-- CSNAP (R236): Captures the named counters in one core cycle into a destination block. -/
  | csnap (ring : Fin 64) (ins : Ins) (destOk : Bool)
  /-- CCLR (R239): Clears the named counters in one core cycle, and their latched events when EVENTS is set. -/
  | cclr (ring : Fin 64) (ins : Ins)
  /-- CRD (R237): Reads counters one unit per cycle into a destination block, with optional READ_ACK. -/
  | crd (ring : Fin 64) (ins : Ins) (destOk : Bool)
  /-- WAITT (R80): Holds its ring in WAIT until operational time reaches T. -/
  | waitt (ring : Fin 64) (ins : Ins) (block : Block)
  /-- TSET (R247): Sets a domain's time as a step and increments its step generation. -/
  | tset (ring : Fin 64) (ins : Ins) (block : Block)
  /-- TADJ_STEP (R248): Steps a domain's time by the signed amount. -/
  | tadjStep (ring : Fin 64) (ins : Ins)
  /-- TADJ_SLEW (R778): Adds the amount to the domain's remaining slew, absorbed at SLEW_LIMIT. -/
  | tadjSlew (ring : Fin 64) (ins : Ins)
  /-- TADJ_FREQ (R249): Replaces the domain's frequency offset. -/
  | tadjFreq (ring : Fin 64) (ins : Ins)
  /-- PALLOC (R254): Allocates a pool buffer to the ring, or waits in the pool's wait FIFO. -/
  | palloc (ring : Fin 64) (ins : Ins) (destOk : Bool)
  /-- PFREE (R258): Checks and decrements a buffer's reference count, returning it to its pool at zero. -/
  | pfree (ring : Fin 64) (ins : Ins)
  /-- PREF (R259): Checks and increments a buffer's reference count. -/
  | pref (ring : Fin 64) (ins : Ins)
  /-- KLOAD (R263): Unwraps an SA key under a KEK into the key store. -/
  | kload (ring : Fin 64) (ins : Ins) (block : Block) (unwrapped : Option (List Byte))
  /-- KZERO_SA (R268): Zeroises one SA key. -/
  | kzeroSa (ring : Fin 64) (ins : Ins)
  /-- KZERO_KEK (R400): Zeroises one KEK slot. -/
  | kzeroKek (ring : Fin 64) (ins : Ins)
  /-- KZERO_SA_ALL (R425): Zeroises every SA key. -/
  | kzeroSaAll (ring : Fin 64) (ins : Ins)
  /-- KZERO_ALL (R426): Zeroises the whole key store. -/
  | kzeroAll (ring : Fin 64) (ins : Ins)
  /-- SASW (R269): Schedules a switch of a SecY direction to the next SA at time T. -/
  | sasw (ring : Fin 64) (ins : Ins) (block : Block)
  /-- RING_DOORBELL (R54): A doorbell write sets the ring's tail, or is discarded with DB_ERR. -/
  | ringDoorbell (ring : Fin 64) (w : DbWrite) (opcodes : List Nat)
  /-- RING_FETCH_ERR (R60): A failed command ring read stops the ring. -/
  | ringFetchErr (ring : Fin 64)
  /-- CQ_HEAD_WRITE (R1163): A CQ_HEAD write is taken or discarded, and rearms the ring interrupt. -/
  | cqHeadWrite (ring : Fin 64) (who : Who) (value : Word)
  /-- COMPLETION_RECORD_WRITE (R69): Writes a completion record, or waits while the completion ring is full. -/
  | completionRecordWrite (ring : Fin 64)
  /-- CQ_ERR (R1164): A failed completion record write stops the ring. -/
  | cqErr (ring : Fin 64)
  /-- CQ_STALL (R110): A ring waiting on a full completion ring for over 1 ms posts EV_CQ_STALL. -/
  | cqStall (ring : Fin 64)
  /-- CR_ENABLE (R53): Setting CR_CTRL.ENABLE lets the Claves fetch from the ring or resume a suspended program. -/
  | crEnable (ring : Fin 64) (who : Who) (value : Word)
  /-- CR_DISABLE (R1162): Clearing CR_CTRL.ENABLE suspends the running program after its issued instructions complete. -/
  | crDisable (ring : Fin 64) (who : Who) (value : Word)
  /-- CR_ABORT (R92): A write of CR_CTRL.ABORT aborts the running program. -/
  | crAbort (ring : Fin 64) (who : Who) (value : Word)
  /-- CR_RESET (R98): A write of CR_CTRL.RESET ends the ring's program, drops its open galley and clears its indices. -/
  | crReset (ring : Fin 64) (who : Who) (value : Word)
  /-- GALLEY_TIMEOUT (R125): An open galley idle for GALLEY_TIMEOUT is dropped. -/
  | galleyTimeout
  /-- IMPOSITION_START (R128): Imposition of an accepted galley begins once PREV_STATE is STEADY. -/
  | impositionStart
  /-- IMPOSITION_FAIL (R132): Imposition that finds no room or resources stops, withdraws its writes and fails the LOCK or LOCKAT. -/
  | impositionFail
  /-- LOCKUP (R137): The standby parity becomes live in one core cycle and FORME_GEN increments. -/
  | lockup
  /-- LOCKAT_TIME (R143): Operational time reaches a LOCKAT's T with imposition complete, and lock-up takes place. -/
  | lockatTime
  /-- LOCK_MISSED (R146): At T with imposition incomplete and LATE_OK 0, the imposed writes are withdrawn and the galley returns to OPEN. -/
  | lockMissed
  /-- DRAIN_END (R151): The last holder of the old parity leaves, and catch-up starts. -/
  | drainEnd
  /-- CATCH_UP_END (R161): Catch-up ends, PREV_STATE becomes STEADY and EV_FORME_RETIRED is posted. -/
  | catchUpEnd
  /-- RECIRC_AGED (R156): A recirculation-queued frame reaching RECIRC_RESIDENCY_MAX is removed. -/
  | recircAged (frame : Nat)
  /-- FRAME_RECEIVE (R294): A frame received at the MAC is classified and counted, and its learn request takes effect if it is OK. -/
  | frameReceive (port : Fin 256) (f : RxFrame)
  /-- PFC_FRAME_RECEIVE (R301): A received PFC frame holds or releases the named class queues. -/
  | pfcFrameReceive (port : Fin 256) (f : RxFrame)
  /-- PAUSE_FRAME_RECEIVE (R304): A received pause frame holds every queue of the port. -/
  | pauseFrameReceive (port : Fin 256) (f : RxFrame)
  /-- PAUSE_HOLD_EXPIRE (R301): A received pause or PFC hold runs out and the queue is released. -/
  | pauseHoldExpire (port : Fin 256) (cls : Fin 9)
  /-- RECEIVE_SECY_CHECK (R368): A frame with a receive SecY is checked against Table 6.5 and decrypted or dropped. -/
  | receiveSecyCheck (frame : Nat) (icvOk : Bool) (plain : List Byte)
  /-- STOMP_ICV_DECIDED (R376): Under STOMP, a late ICV failure stomps started copies and drops the rest. -/
  | stompIcvDecided (frame : Nat) (ok : Bool)
  /-- HEADER_GATHER_RELEASE (R31): A frame is released into its ingress pipeline once it holds its parse reach, then is stamped, parsed, looked up and acted on. -/
  | headerGatherRelease (g : Gather)
  /-- FRAG_INSERT_LOST (R477): A fragment insert that has waited 16 cycles is discarded. -/
  | fragInsertLost
  /-- FRAG_HOLD_EXPIRE (R479): A fragment-table entry whose hold has elapsed is removed. -/
  | fragHoldExpire
  /-- FRAG_FLUSH (R484): A write of FRAG_CTRL.FLUSH removes every earlier entry. -/
  | fragFlush (link : Bool) (value : Word)
  /-- LAST_OCTET_WRITTEN (R649): A cut-through frame's last octet reaches the slice and its charge falls to its cell count. -/
  | lastOctetWritten (frame : Nat)
  /-- XOFF_SEND (R307): A class crossing its XOFF threshold sends an XOFF frame. -/
  | xoffSend (port : Fin 256) (cls : Fin 8)
  /-- XOFF_REFRESH (R308): XOFF is resent each time its quanta interval passes while the class stays above XON. -/
  | xoffRefresh (port : Fin 256) (cls : Fin 8)
  /-- XON_SEND (R309): A class falling to its XON threshold sends PFC with quanta 0. -/
  | xonSend (port : Fin 256) (cls : Fin 8)
  /-- SHARED_FETCH (R668): In shared mode an ingress tile serves a waiting fetch on a plane slot. -/
  | sharedFetch (tile : Fin 8) (plane : Fin 4)
  /-- ROUNDS_MATCH (R679): The Rounds matcher computes the tile pairing for one slot on one plane. -/
  | roundsMatch (plane : Fin 4)
  /-- PLANE_CROSSING (R664): A copy's last cell is delivered to the egress transit buffer and its charge is released. -/
  | planeCrossing (copy : Nat)
  /-- CREDIT_ISSUE (R735): The credit engine issues CREDIT_QUANTUM cells to a chosen class. -/
  | creditIssue (port : Fin 266)
  /-- SPILL_COPY (R699): The spill engine completes a frame's copy to the deep store and frees its slice cells. -/
  | spillCopy (tile : Fin 8)
  /-- REFILL (R700): The refill engine brings a frame from the deep store back into the slice. -/
  | refill (tile : Fin 8)
  /-- SCHEDULER_SELECT (R723): An egress port scheduler selects its next frame and charges its shapers. -/
  | schedulerSelect (port : Fin 266) (express : Bool)
  /-- EGRESS_PIPELINE (R604): A copy is stamped with the egress parity, searched, rewritten, tagged, slugged and encrypted. -/
  | egressPipeline (copy : Nat) (secure : List Byte) (flipped : List Nat)
  /-- FRAME_TRANSMIT_END (R347): A frame's last octet leaves the MAC and its counters and timestamp queue entry update. -/
  | frameTransmitEnd (copy : Nat) (txTime : Nat)
  /-- STOMP (R320): A cut-through frame found bad after it started is ended with inverted FCS and an error code. -/
  | stomp (frame : Nat) (cause : Fin 5)
  /-- LAUNCH_LATE (R811): A QT head frame passes its launch time plus tolerance and follows LATE_POLICY. -/
  | launchLate (port : Fin 266)
  /-- MM_VERIFY_FAIL (R315): Three unanswered verify attempts mark MAC merge verification failed. -/
  | mmVerifyFail (port : Fin 256)
  /-- LINK_DOWN (R328): Link-down is declared; the port leaves its groups and its queues are flushed or held. -/
  | linkDown (port : Fin 256) (cause : Fin 3)
  /-- LINK_UP (R327): Link-up is declared after the settle time and the port resumes. -/
  | linkUp (port : Fin 256)
  /-- LINK_HOLD_EXPIRE (R334): A LINK_HOLD that expires with the link down flushes the port's queues. -/
  | linkHoldExpire (port : Fin 256)
  /-- AN_FAIL (R286): Auto-negotiation finds the configured mode not advertised. -/
  | anFail (port : Fin 256) (abilities : Nat)
  /-- PORT_RESET (R326): A write of PORT_CFG.RESET resets the port's PCS and MAC. -/
  | portReset (link : Bool) (port : Fin 256) (value : Word)
  /-- ADMIN_DOWN (R340): Setting ADMIN_DOWN holds the port down with transmit lanes idle. -/
  | adminDown (link : Bool) (port : Fin 256) (value : Word)
  /-- LEARN_OPERATION (R549): The learn engine takes a queued request and inserts, moves or refreshes the entry. -/
  | learnOperation
  /-- REBALANCER_RETRY (R559): The rebalancer retries a failed insert within 256 displacements. -/
  | rebalancerRetry
  /-- AGE_CLOCK_TICK (R560): AGE_CLOCK increments every 100 ms. -/
  | ageClockTick
  /-- AGEING_REMOVAL (R562): The ager removes a learned entry whose age reached AGE_LIMIT. -/
  | ageingRemoval (bd mac : Nat)
  /-- LEARN_FLUSH (R563): A write of LEARN_FLUSH queues a host flush request. -/
  | learnFlush (link : Bool) (value : Word)
  /-- FLUSH_COMPLETE (R565): A flush request removes matching learned entries and posts EV_FDB_FLUSH. -/
  | flushComplete
  /-- CASE_SEED_WRITE (R525): A seed register write takes effect only while the Case is empty. -/
  | caseSeedWrite (link : Bool) (reg : Fin 4) (value : Word)
  /-- GLOBAL_RESERVE_WRITE (R659): A GLOBAL_RESERVE write is discarded when it would overfill a slice. -/
  | globalReserveWrite (link : Bool) (value : Word)
  /-- ASA_REPAIR (R599): Repair rewrites a location's ternary cells from the shadow. -/
  | asaRepair (copy : Fin 32)
  /-- ASA_SWEEP (R601): The key-verification sweep compares a row with its shadow and repairs it. -/
  | asaSweep (differ : List (Nat × Nat × Nat))
  /-- ASA_SHADOW_UE (R602): An uncorrectable shadow error removes the entry from both parities. -/
  | asaShadowUe (table loc : Nat)
  /-- SA_SWITCH (R385): At its switch cycle an SASW makes the next SA current, or fails with E_KEY. -/
  | saSwitch
  /-- SA_RETIRE (R389): A RETIRING receive SA becomes RETIRED after RX_RETIRE_DELAY. -/
  | saRetire (sa : Fin 16384)
  /-- SECY_TX_CUR_WRITE (R383): A SECY_TX_CUR write makes the named SA current. -/
  | secyTxCurWrite (secy : Fin 1024) (value : Word)
  /-- CIPHER_MODE_WRITE (R411): A write changing APPROVED zeroises every SA key. -/
  | cipherModeWrite (operator_ : Fin 16) (value : Word)
  /-- MP_STATUS (R936): Mailbox service returning MP status. -/
  | mpStatus (q : MbxReq) (len : Fin 4089)
  /-- AUTH_CHALLENGE (R404): Mailbox service issuing an authentication challenge. -/
  | authChallenge (q : MbxReq)
  /-- AUTH_RESPONSE (R937): Mailbox service verifying the signed challenge and binding the role. -/
  | authResponse (q : MbxReq) (ring : Fin 60) (ident : Fin 16) (sigOk : Bool)
  /-- LOGOUT (R405): Mailbox service ending a role. -/
  | logout (q : MbxReq) (ring : Fin 60)
  /-- ENROL (R432): Mailbox service enrolling an operator, commissioning on the first. -/
  | enrol (q : MbxReq) (ident : Fin 16) (officer : Bool) (key : List Byte) (ring : Fin 60)
  /-- REMOVE_OPERATOR (R403): Mailbox service removing an operator identity. -/
  | removeOperator (q : MbxReq) (ident : Fin 16)
  /-- KEK_INSTALL (R399): Mailbox service installing a wrapped KEK. -/
  | kekInstall (q : MbxReq) (slot : Fin 64) (kek : KekWrap)
  /-- FW_UPDATE (R423): Mailbox service verifying and writing a firmware image. -/
  | fwUpdate (q : MbxReq) (svn : Fin 65536) (sigsOk : Bool)
  /-- ATTEST (R936): Mailbox service attesting the device. -/
  | attest (q : MbxReq) (len : Fin 4089)
  /-- CMIS_READ (R936): Mailbox service reading optics management data. -/
  | cmisRead (q : MbxReq) (answer : Option (List Byte))
  /-- CMIS_WRITE (R936): Mailbox service writing optics management data. -/
  | cmisWrite (q : MbxReq) (ok : Bool)
  /-- SERDES_DIAG (R936): Mailbox service for SerDes diagnostics. -/
  | serdesDiag (q : MbxReq) (answer : Option (List Byte))
  /-- SERVO_CFG (R936): Mailbox service configuring the PTP servos. -/
  | servoCfg (q : MbxReq) (ok : Bool)
  /-- TELEMETRY_CFG (R936): Mailbox service configuring telemetry. -/
  | telemetryCfg (q : MbxReq) (ok : Bool)
  /-- TIME_DOMAIN_SWITCH (R780): A granted domain switch takes the residual and moves operational time to the new domain. -/
  | timeDomainSwitch
  /-- DOMAIN_SWITCH_DONE (R781): The residual reaches zero and the switch ends. -/
  | domainSwitchDone
  /-- OP_TIME_READ (R774): A read of word 0 of a time register captures word 1. -/
  | opTimeRead (r : BarRead)
  /-- PPS_IN_EDGE (R785): A PPS input edge captures the domain time. -/
  | ppsInEdge (input : Fin 2)
  /-- PPS_IN_LOSS (R787): 1.5 s without an edge marks the PPS input lost. -/
  | ppsInLoss (input : Fin 2)
  /-- PPS_OUT_PULSE (R788): A PPS output pulses as its domain crosses a whole second. -/
  | ppsOutPulse (output : Fin 2)
  /-- REF_LOSS (R790): Loss of the 10 MHz input moves domains to the local oscillator. -/
  | refLoss
  /-- REF_RETURN (R790): Return of the 10 MHz input moves SYNT domains back to it. -/
  | refReturn
  /-- TOD_TRANSMIT (R791): The TOD UART sends the queued message after the PPS edge delay. -/
  | todTransmit (msg : List Byte)
  /-- TOD_RECEIVE (R791): A received TOD character goes to the MP. -/
  | todReceive (msg : List Byte)
  /-- TIMESTAMP_RECORD_WRITE (R802): A TSQ entry drains into its timestamp ring. -/
  | timestampRecordWrite (mpRing : Bool)
  /-- GATE_ENTRY_START (R817): A gate-list entry begins and sets the gates and hold. -/
  | gateEntryStart (port : Fin 256)
  /-- GATE_LIST_CHANGE (R826): An administrative gate list becomes operational at its change time. -/
  | gateListChange (port : Fin 256)
  /-- PEAL_CAPTURE (R869): A Peal occurrence captures its list and writes a slot, or is skipped. -/
  | pealCapture (k : Fin 16)
  /-- PEAL_FAULT (R875): A failed Peal write to host memory disables the schedule. -/
  | pealFault (k : Fin 16) (addr : Nat)
  /-- PEAL_ENABLE (R867): Writing ENABLE 1 reads the list and starts the schedule. -/
  | pealEnable (link : Bool) (k : Fin 16) (value : Word) (entries : Option (List Nat))
  /-- PEAL_DISABLE (R876): Writing ENABLE 0 stops further captures. -/
  | pealDisable (link : Bool) (k : Fin 16) (value : Word)
  /-- MIRROR_SAMPLE_WRITE (R887): A MIRROR_SAMPLE write restarts the counted sampling. -/
  | mirrorSampleWrite (link : Bool) (session : Fin 16) (value : Word)
  /-- STORM_METER_WRITE (R762): A storm meter write sets or keeps its level. -/
  | stormMeterWrite (link : Bool) (port : Fin 256) (meter : Fin 3) (value : Word)
  /-- PERF_EVSEL_WRITE (R860): A change of performance event selection takes effect at the next cycle. -/
  | perfEvselWrite (w : BarWrite)
  /-- RS_READ (R884): A read of a register with RS fields returns and clears them. -/
  | rsRead (r : BarRead)
  /-- NARROW_READ_LOW (R1013): A 4-byte read of a low half latches the upper half. -/
  | narrowReadLow (r : BarRead)
  /-- REGISTER_WRITE (R106): A direct BAR0 write to a register with no row of its own passes the Write Gate. -/
  | registerWrite (w : BarWrite) (env : WriteEnv)
  /-- CLAVE_FAULT (R901): A Clave detects a fault in itself and yields; the standby takes over. -/
  | claveFault (clave : Bool) (cause : Fin 2) (reexec : Fin 9)
  /-- CLAVE_WATCHDOG (R899): A Clave retiring nothing for 4,096 cycles detects a fault. -/
  | claveWatchdog (clave : Bool)
  /-- CLAVE_CORR (R900): A corrected error in Clave state is counted. -/
  | claveCorr (clave : Bool)
  /-- HANDOVER_WINDOW_CLOSE (R906): The duplicate window closes, EV_CLAVE_YIELD is posted and the journal record written. -/
  | handoverWindowClose
  /-- CLAVE_MISMATCH (R912): Unequal Clave outputs stop issue and start a diagnostic. -/
  | claveMismatch (isn : Nat) (output : Nat)
  /-- CLAVE_DIAG_END (R914): The 50 µs diagnostic ends and decides which Clave continues. -/
  | claveDiagEnd (failA failB : Bool)
  /-- CTRL_RESET (R918): A write of CLAVE_CTRL.CTRL_RESET resets the control complex. -/
  | ctrlReset (w : BarWrite)
  /-- CLAVE_SELFTEST_END (R920): A returning Clave's self-test ends and it copies state and shadows, or fails. -/
  | claveSelftestEnd (passA passB : Bool)
  /-- SHADOW_PERIOD_END (R921): A shadow period ends and a returning Clave A takes control. -/
  | shadowPeriodEnd (clave : Bool)
  /-- MP_WATCHDOG (R943): An unserviced MP watchdog restarts the MP. -/
  | mpWatchdog (reqs : List (Nat × Nat × Nat))
  /-- MP_SHED_STEP (R940): Sustained MP load takes the next shed step. -/
  | mpShedStep (util : Nat)
  /-- MP_UNSHED_STEP (R941): Sustained low MP load undoes the last shed step. -/
  | mpUnshedStep (util : Nat)
  /-- MAINT_REQUEST (R946): A maintenance activity request is granted or queued. -/
  | maintRequest (act : Fin 9) (unit : Nat)
  /-- MAINT_ACTIVITY_END (R947): A maintenance activity ends and queued requests may be granted. -/
  | maintActivityEnd (act : Fin 9) (unit : Nat) (failed : Bool) (reason : Nat)
  /-- HOLD_MAX_EXPIRE (R949): A request deferred by HOLD for HOLD_MAX is granted. -/
  | holdMaxExpire (act : Fin 9) (unit : Nat)
  /-- KEY_SELFTEST_PIECE (R952): A piece of the periodic key self-test runs. -/
  | keySelftestPiece (unit : Fin 40) (pass : Bool)
  /-- RECORD_WRITE (R969): The recorder writes a posting to its store and verifies it. -/
  | recordWrite (fromJournal : Bool) (ok1 : Bool) (retry : Fin 3)
  /-- COALESCE_WINDOW_CLOSE (R972): A coalescing window closes and writes its CLOSE record. -/
  | coalesceWindowClose
  /-- HOURS_CELL_WRITE (R964): The operating-hours cell is written once per minute. -/
  | hoursCellWrite
  /-- RECORDER_RETRY (R989): A write of REC_CTRL.RETRY tests the failed block and may restore the recorder. -/
  | recorderRetry (link : Bool) (value : Word) (pass : Bool)
  /-- MBX_GO_BUSY (R935): A GO write while BUSY is discarded with GO_ERR. -/
  | mbxGoBusy (w : BarWrite)
  /-- IRQ_REARM (R1026): A write of IRQ_CTRL.REARM raises the summary vector if a condition remains. -/
  | irqRearm (w : BarWrite)
  /-- WARM_RESET (R1111): A keyed WARM_RESET write empties the data path and returns to HOLD or RUN. -/
  | warmReset (w : BarWrite)
  /-- START (R1088): A START write in HOLD enters RUN. -/
  | start (w : BarWrite)
  /-- BOOT_SAVE (R1099): A keyed SAVE write writes the boot image to the other slot. -/
  | bootSave (w : BarWrite)
  /-- BOOT_SAVE_END (R1099): A boot save completes, is abandoned or fails. -/
  | bootSaveEnd (flashFail : Bool)
  /-- POWER_ON (R1080): VIN valid with PWR_EN high enters POWER and brings up the rails. -/
  | powerOn (cycled : Bool)
  /-- SUPERVISE (R1080): PG assertion enters SUPERVISE. -/
  | supervise (pcycleOk : Bool)
  /-- SELFTEST (R415): Supervision passing enters SELFTEST and runs the self-tests. -/
  | selftest (repaired : Bool) (fail : Option (Fin 10 × Fin 40)) (fwA fwB claveA claveB : Bool)
  /-- LOAD (R1103): Self-tests ending enters LOAD; the boot image is checked and imposed. -/
  | load (decayed : List (Fin 4 × Nat)) (sig0 sig1 : Bool) (decay : Option (Fin 5))
  /-- TRAIN (R1080): LOAD ending enters TRAIN; HBM and SerDes are trained. -/
  | train (stack0 stack1 : Bool) (octets : List (Fin 32))
  /-- HOLD (R1087): TRAIN ending enters HOLD and asserts READY, or RUN under AUTO_START. -/
  | hold
  /-- START_STOP (R1091): A failed start-up check stops the start and asserts FAULT_N. -/
  | startStop (cause : Fin 3) (memory : Nat)
  /-- SHUTDOWN (R1081): PWR_EN low or VIN below VIN_OFF shuts the module down. -/
  | shutdown (vinLost : Bool)
  /-- RAIL_FAULT (R1082): A rail out of regulation, over-voltage, over-current or thermal shutdown turns off and latches the cause. -/
  | railFault (thermal : Bool)
  /-- THERM_WARN (R1139): A sensor crosses its warning threshold and THERM_N changes. -/
  | thermWarn (sensor : Fin 24) (temp : BitVec 16)
  /-- RESET_N (R1084): RESET_N held low begins a cold reset. -/
  | resetN (lowNs : Nat) (taken : Bool)
  /-- ZEROISE_N (R427): ZEROISE_N held low zeroises the whole key store. -/
  | zeroiseN (lowNs : Nat) (taken : Bool)
  /-- TAMPER_MESH (R425): An open or short in the lid mesh zeroises the key store. -/
  | tamperMesh
  /-- BOARD_LOOP (R1136): Two loop mismatches zeroise the key store. -/
  | boardLoop (loop : Fin 2) (mismatch : Bool)
  /-- VKEEP_LOSS (R1133): VKEEP below its minimum without VIN zeroises the key store. -/
  | vkeepLoss
  /-- HOST_FUNDAMENTAL_RESET (R1001): A fundamental reset of link 0 starts a cold reset. -/
  | hostFundamentalReset
  /-- HOST_LINK_DOWN (R1001): A hot reset, link-down or link 1 reset resets that link's functions and rings. -/
  | hostLinkDown (link : Bool) (cause : Fin 3)
  /-- HOST_LINK_UP (R995): A PCIe link comes up. -/
  | hostLinkUp (link : Bool) (speed : Fin 7) (width : Fin 9) (flit msix0 msix1 : Bool)
  /-- FLR_PF0 (R1001): FLR of PF0 resets the link's command rings and busy mailboxes. -/
  | flrPf0 (link : Bool) (reqs : List (Nat × Nat × Nat))
  /-- FLR_PF1 (R1001): FLR of PF1 stops the link's frame rings. -/
  | flrPf1 (link : Bool)
  /-- FLR_PF2 (R1001): FLR of PF2 resets its PCIe state. -/
  | flrPf2 (link : Bool)
  /-- BUS_MASTER_DISABLE (R1001): Clearing Bus Master Enable makes the link's command rings wait. -/
  | busMasterDisable (link : Bool)
  /-- MEM_CE (R1116): A correctable memory error is corrected and written back. -/
  | memCe (unit : MemUnit) (cell : Option (Fin 65536))
  /-- MEM_UE (R1117): An uncorrectable memory error is contained per Table 18.10. -/
  | memUe (site : UeSite)
  /-- CELL_RETIRE (R1119): A twice-corrected cell is retired once its frame releases it. -/
  | cellRetire (tile : Fin 8) (cell : Fin 65536)
  /-- POOL_ENABLE (R1030): A write of ENABLE 1 checks and enables a pool. -/
  | poolEnable (link : Bool) (pool : Fin 16) (value : Word)
  /-- POOL_INIT_DONE (R1032): Pool ledger and free store initialisation completes. -/
  | poolInitDone (pool : Fin 16)
  /-- POOL_DISABLE (R1033): A write of ENABLE 0 disables an idle pool or is rejected. -/
  | poolDisable (link : Bool) (pool : Fin 16) (value : Word)
  /-- PALLOC_TIMEOUT (R256): A waiting PALLOC reaches TIMEOUT_US and leaves the wait FIFO. -/
  | pallocTimeout (ring : Fin 64)
  /-- POOL_FAULT (R1036): A failed free-store access marks the pool faulted. -/
  | poolFault (pool : Fin 16) (addr : Nat)
  /-- HOST_RX_DELIVER (R1057): A host-bound frame holding buffers and slots is written with its descriptors. -/
  | hostRxDeliver (copy : Nat)
  /-- RX_WAIT_EXPIRE (R1061): A frame lacking buffers or slots after RX_WAIT_MAX is dropped. -/
  | rxWaitExpire (copy : Nat)
  /-- RX_DOORBELL (R1073): A receive doorbell advances RX_HEAD or is discarded. -/
  | rxDoorbell (ring : Fin 1024) (w : DbWrite)
  /-- TX_DOORBELL (R1074): A transmit doorbell advances the tail or is discarded. -/
  | txDoorbell (ring : Fin 1024) (w : DbWrite)
  /-- TX_FRAME_FETCH (R1066): A transmit path reads a whole frame from a ring into the T0 slice. -/
  | txFrameFetch (ring : Fin 1024) (descs : List (List Byte)) (octets : List Byte)
  /-- TX_WRITE_BACK (R1069): A transmitted frame's last descriptor is written back. -/
  | txWriteBack (ring : Fin 1024) (first : Nat)
  /-- RING_DMA_FAULT (R1071): A failed frame-ring DMA stops the ring. -/
  | ringDmaFault (tx : Bool) (ring : Fin 1024) (addr : Nat) (descs : List (List Byte))
  /-- RX_RING_ENABLE (R1078): A write of RX_CTRL.ENABLE starts, stops or restarts a receive ring. -/
  | rxRingEnable (link : Bool) (ring : Fin 1024) (value : Word)
  /-- TX_RING_ENABLE (R1076): A write of TX_CTRL.ENABLE starts, stops or restarts a transmit ring. -/
  | txRingEnable (link : Bool) (ring : Fin 1024) (value : Word)
  /-- OP_DOMAIN_WRITE (R779): A write of OP_DOMAIN requests a domain switch. -/
  | opDomainWrite (link : Bool) (value : Word)
  /-- IMPOSITION_COMPLETE (R128): Imposition of an accepted galley finishes and PEND_PHASE becomes IMPOSED, ahead of a LOCKAT's time T. -/
  | impositionComplete
  /-- WAITT_TIME_REACHED (R80): Operational time reaches a waiting WAITT's T, and the WAITT completes and releases its ring. -/
  | waittTimeReached (ring : Fin 64)
  /-- WRITE_GATE_WRITE (R104): A write queued in the Write Gate reaches its target in an update slot or a free Case cycle. -/
  | writeGateWrite (forme : Bool) (env : WriteEnv)
  /-- ENTROPY_TEST_FAIL (R416): A continuous repetition-count or adaptive-proportion test on an entropy sample fails, and the boundary enters ERROR. -/
  | entropyTestFail (test : Fin 2)
  /-- TAMPER_SEL_CHANGE (R1135): The TAMPER_SEL ball takes a level other than the one stored at commissioning, which counts as a board-loop tamper. -/
  | tamperSelChange (level : Bool)
  /-- MP_RESTART_COMPLETE (R943): MP firmware runs again after a watchdog restart, and its rings, servos, P265 traffic and posting queue resume. -/
  | mpRestartComplete
  /-- SERVO_UPDATE (R775): The MP servo of a domain processes a measured offset, writes SERVO_STATE and DOM_OFFSET, and issues its correction. -/
  | servoUpdate (domain : Fin 2) (offset : Int) (state : Fin 5)
  /-- MP_TRANSMIT (R797): The MP sends a frame through port P265 into the recirculation ingress path of tile T1, with its own descriptor fields. -/
  | mpTransmit (octets : List Byte) (flags tag : Nat) (launch : Option Nat)
  /-- BUS_MASTER_ENABLE (R1001): Bus Master Enable of PF0 is set again, and the link's waiting command rings resume fetching and writing records. -/
  | busMasterEnable (link : Bool)
  /-- MSIX_UNMASK (R1022): Host software unmasks an MSI-X table entry, and a pending message for it is sent. -/
  | msixUnmask (link : Bool) (fn : Fin 2) (entry : Fin 1536)
  /-- BAR0_BAD_READ (R1012): A BAR0 read of a size or alignment not served returns 0, sets ACCESS_STATUS.BAD_READ and posts EV_ACCESS_ERR. -/
  | bar0BadRead (r : BarRead)
  /-- PCIE_UNCORR_ERROR (R1028): An uncorrectable error is logged in a function's AER capability and EV_PCIE_UNCORR is posted. -/
  | pcieUncorrError (link : Bool) (fn : Fin 3) (status : Nat)
  /-- MM_VERIFY_RESPONSE (R314): A response to a MAC merge verify mPacket is received, MM_VERIFY becomes SUCCEEDED and preemption becomes active. -/
  | mmVerifyResponse (port : Fin 256)
  /-- JTAG_ACCESS (R414): An access arrives at the JTAG port and is refused for the management-and-security die while APPROVED is 1. -/
  | jtagAccess (mgmtDie : Bool)
  /-- OPTICS_ALARM (R940): An optics cage raises its OPT_INT_N alarm input, and the MP handles it at once whatever the shed step. -/
  | opticsAlarm (cage : Fin 32)
  /-- UNLISTED_OPCODE (R178): An instruction whose OPCODE is not in Table 4.2 issues and completes with E_CHECK. -/
  | unlistedOpcode (ring : Fin 64) (opcode : Fin 256) (ins : Ins)
deriving DecidableEq, Repr


end Sys2Proof
end

