-- ==== Sys2Proof/Decode.lean ====
section
/-! DEFINITION. The command that a word spells by the bits of the opcode table. The table gives no row a bit: a command is
an event at the block's boundary, not a word. -/

namespace Sys2Proof

/-- No row of the table has bits, so no word spells a command. [log 3 DESIGN CHOICE] -/
def decodeTableWord (_nbits _w : Nat) : Option Instr := none

end Sys2Proof
end

