-- ==== Sys2Proof/Machine/Bits.lean ====
section
/-! DEFINITION. Bit fields, byte order (R11) and CRC helpers shared by every family. -/

namespace Sys2Proof.Machine

/-- Bits [hi:lo] of a number, as a number (Table 0.5's bit ranges include both ends). -/
def bits (n hi lo : Nat) : Nat := (n >>> lo) % 2 ^ (hi + 1 - lo)

/-- One bit of a number. -/
def bit (n i : Nat) : Bool := n.testBit i

/-- A number with bits [hi:lo] replaced by the low bits of `v`. -/
def setBits (n hi lo v : Nat) : Nat :=
  (n - ((bits n hi lo) <<< lo)) + ((v % 2 ^ (hi + 1 - lo)) <<< lo)

/-- Field [hi:lo] of a register. -/
def field (w : Word) (hi lo : Nat) : Nat := (w.toNat >>> lo) % 2 ^ (hi + 1 - lo)

/-- The mask of bits [hi:lo]. -/
def fieldMask (hi lo : Nat) : Word := BitVec.ofNat 64 ((2 ^ (hi + 1 - lo) - 1) <<< lo)

/-- A register with field [hi:lo] replaced. -/
def setField (w : Word) (hi lo v : Nat) : Word :=
  (w &&& ~~~ fieldMask hi lo) ||| (BitVec.ofNat 64 ((v % 2 ^ (hi + 1 - lo)) <<< lo))

/-- 0 or 1. -/
def b2n (b : Bool) : Nat := if b then 1 else 0

/-- The number the octets spell, first octet least significant (R11). -/
def leNat : List Byte → Nat
  | [] => 0
  | b :: bs => b.toNat + 256 * leNat bs

/-- `k` octets of a number, least significant first (R11). -/
def leBytes : Nat → Nat → List Byte
  | 0, _ => []
  | k + 1, n => BitVec.ofNat 8 (n % 256) :: leBytes k (n / 256)

/-- The number the octets spell, first octet most significant (network order). -/
def beNat (bs : List Byte) : Nat := bs.foldl (fun a b => a * 256 + b.toNat) 0

/-- `k` octets of a number, most significant first. -/
def beBytes (k n : Nat) : List Byte := (leBytes k n).reverse

/-- Octets `[lo, lo+len)` of a block; octets past its end read 0. -/
def slice (bs : List Byte) (lo len : Nat) : List Byte :=
  let t := (bs.drop lo).take len
  t ++ List.replicate (len - t.length) 0

/-- The little-endian number at octets `[lo, lo+len)`. -/
def leAt (bs : List Byte) (lo len : Nat) : Nat := leNat ((bs.drop lo).take len)

/-- The network-order number at octets `[lo, lo+len)`; octets past the end read 0. -/
def beAt (bs : List Byte) (lo len : Nat) : Nat := beNat (slice bs lo len)

/-- Replace the octets from `lo` on by `new`, the length unchanged. -/
def patch (bs : List Byte) (lo : Nat) (new : List Byte) : List Byte :=
  (bs.take lo ++ new ++ bs.drop (lo + new.length)).take bs.length

/-- The signed value of a `w`-bit number. -/
def signedOf (w n : Nat) : Int := if n % 2 ^ w < 2 ^ (w - 1) then ((n % 2 ^ w : Nat) : Int) else ((n % 2 ^ w : Nat) : Int) - 2 ^ w

/-- An integer as a `w`-bit two's complement number. -/
def toTwos (w : Nat) (z : Int) : Nat := (z % (2 ^ w : Int)).toNat

/-- `w` bits of a number in reverse order. -/
def revBits : Nat → Nat → Nat
  | 0, _ => 0
  | w + 1, n => (n % 2) * 2 ^ w + revBits w (n / 2)

/-- One step of a reflected 32-bit CRC. -/
def crcShift (poly : Nat) : Nat → Nat → Nat
  | 0, c => c
  | k + 1, c => crcShift poly k (if c % 2 = 1 then (c / 2) ^^^ poly else c / 2)

/-- A reflected 32-bit CRC register after the octets. -/
def crcRun (poly : Nat) (c : Nat) (bs : List Byte) : Nat :=
  bs.foldl (fun c b => crcShift poly 8 (c ^^^ b.toNat)) c

/-- CRC-32C (R959): polynomial 0x1EDC6F41 reflected, initial value and final inversion all ones. -/
def crc32c (bs : List Byte) : Nat := (crcRun 0x82F63B78 0xFFFFFFFF bs) ^^^ 0xFFFFFFFF

/-- CRC-32 of the Ethernet polynomial 0x04C11DB7, reflected, initial value and final inversion all ones. -/
def crc32 (bs : List Byte) : Nat := (crcRun 0xEDB88320 0xFFFFFFFF bs) ^^^ 0xFFFFFFFF

/-- The lowest index below `n` that satisfies `p`. -/
def findBelow (n : Nat) (p : Nat → Bool) : Option Nat := (List.range n).find? p

/-- The first index at or after `start`, taken modulo `n`, that satisfies `p`. -/
def findFrom (n start : Nat) (p : Nat → Bool) : Option Nat :=
  ((List.range n).map (fun i => (start + i) % n)).find? p

end Sys2Proof.Machine
end

