-- ==== Sys2Proof/Machine/Slot.lean ====
section
/-! DEFINITION. The 16 octets of an instruction slot and the fields they hold (Table 4.1). -/

namespace Sys2Proof

/-- The slot that 16 octets of a command ring make, the first octet least significant (R177, R11). -/
def Ins.ofBytes (b : List Byte) : Ins := ⟨BitVec.ofNat 128 (Machine.leNat (b.take 16))⟩

/-- OPCODE, byte 0 (Table 4.1). -/
def Ins.opcode (i : Ins) : Nat := Machine.bits i.slot.toNat 7 0

/-- FLAGS, byte 1. -/
def Ins.flags (i : Ins) : Nat := Machine.bits i.slot.toNat 15 8

/-- UNIT, bytes 2 and 3. -/
def Ins.unit (i : Ins) : Nat := Machine.bits i.slot.toNat 31 16

/-- INDEX, bytes 4 to 7. -/
def Ins.index (i : Ins) : Nat := Machine.bits i.slot.toNat 63 32

/-- OPERAND, bytes 8 to 15. -/
def Ins.operand (i : Ins) : Nat := Machine.bits i.slot.toNat 127 64

/-- The slot that holds these fields. -/
def Ins.make (opcode flags unit index operand : Nat) : Ins :=
  ⟨BitVec.ofNat 128 (opcode % 2 ^ 8 + flags % 2 ^ 8 * 2 ^ 8 + unit % 2 ^ 16 * 2 ^ 16 + index % 2 ^ 32 * 2 ^ 32
    + operand % 2 ^ 64 * 2 ^ 64)⟩

/-- The slot with another FLAGS byte. -/
def Ins.withFlags (i : Ins) (flags : Nat) : Ins := Ins.make i.opcode flags i.unit i.index i.operand

end Sys2Proof
end

