-- ==== Sys2Proof/Config.lean ====
section
/-! DEFINITION. What the spec leaves open and no run may fix: constants with no body, so that no proof can use a value
of them. They are applied to the counter of draws that State holds, so each draw is fresh. -/

namespace Sys2Proof

/-- A 64-bit value the spec leaves open: a random draw, an unstated result, an unstated measurement. [log 6 DESIGN CHOICE] -/
opaque Config.freeValue : Nat → BitVec 64

/-- Octets the spec leaves open or leaves to an external standard (a DRBG output, a signature, a report). [log 6 DESIGN CHOICE] -/
opaque Config.freeBytes : Nat → Nat → List Byte

/-- What the OPCODE field of a completion record shows for an opcode of 0x80 or above (R195). [log 101 DESIGN CHOICE] -/
opaque Config.recordOpcode : Nat → BitVec 64

/-- The time, in units of 2^-16 ns, that passes by the 10 MHz input within core cycle n of the local oscillator (R789).
[log 89 DESIGN CHOICE] -/
opaque Config.refUnits : Nat → Nat

/-- The transmit delay of port p, in nanoseconds, from selection to the message timestamp point at the MDI (R810).
[log 119 DESIGN CHOICE] -/
opaque Config.txDelayNs : Nat → Nat

end Sys2Proof
end

