-- ==== Sys2Proof/Machine/Addr.lean ====
section
/-! DEFINITION. BAR0 offsets of the registers by name (R1008 and the register tables of every chapter). -/

namespace Sys2Proof.Machine

-- Global block, Table 16.5
def rDevState : Nat := 0x18
def rDevCtrl : Nat := 0x20
def rResetCause : Nat := 0x28
def rHostCfg : Nat := 0x30
def rHostStatus : Nat := 0x38
def rIrqSummary : Nat := 0x40
def rIrqEnable : Nat := 0x48
def rIrqCtrl : Nat := 0x50
def rRingPending : Nat := 0x58
def rPortPending (w : Nat) : Nat := 0x60 + 8 * w
def rAccessStatus : Nat := 0x80
def rAccessAddr : Nat := 0x88
-- Start-up and power, Tables 18.7, 18.10, 19.x
def rBootCtrl : Nat := 0x100
def rBootStatus : Nat := 0x108
def rErrStatus : Nat := 0x110
def rFaultCause : Nat := 0x118
def rErrCtrl : Nat := 0x120
def rOctetFault : Nat := 0x128
def rMemErrors : Nat := 0x130
def rCellsRetired (t : Nat) : Nat := 0x140 + 8 * t
def rPwrStatus : Nat := 0x200
def rThermCtrl : Nat := 0x208
def rThermStatus : Nat := 0x210
def rTemp (s : Nat) : Nat := 0x280 + 8 * s
-- Mailboxes and MP
def rMbxReq (c : Nat) : Nat := 0x1000 + 0x40 * c
def rMbxRsp (c : Nat) : Nat := 0x1008 + 0x40 * c
def rMbxCtrl (c : Nat) : Nat := 0x1010 + 0x40 * c
def rMbxStatus (c : Nat) : Nat := 0x1018 + 0x40 * c
def rMpStatus : Nat := 0x1400
def rMpShedCfg : Nat := 0x1408
def rMpShedExempt : Nat := 0x1410
def rMpDrop (k : Nat) : Nat := 0x1500 + 8 * k
-- Parser and snare window
def rFragStatus : Nat := 0x2000
def rFragCtrl : Nat := 0x2008
def rSnareCapDrop : Nat := 0x2010
def rSnareHalf : Nat := 0x2018
def rSnarePass (r : Nat) : Nat := 0x2100 + 8 * r
def rSnareDrop (r : Nat) : Nat := 0x2300 + 8 * r
-- Maintenance
def rMaintCtrl : Nat := 0x3000
def rMaintStatus : Nat := 0x3008
def rMaintCfg : Nat := 0x3010
def rMaintDefer : Nat := 0x3018
-- Case window, Table 8.8
def rCaseCtrl : Nat := 0x8000
def rCaseStatus : Nat := 0x8008
def rCaseSeed (i : Nat) : Nat := 0x8010 + 8 * i
def rLearnFlushKey : Nat := 0x8030
def rLearnFlush : Nat := 0x8038
def rLearnBase : Nat := 0x8040
def rLearnCtrl : Nat := 0x8048
def rLearnHead : Nat := 0x8050
def rLearnTail : Nat := 0x8058
def rCaseDrop (k : Nat) : Nat := 0x8100 + 8 * k
def rKeyselA (n : Nat) : Nat := 0x9000 + 16 * n
def rKeyselB (n : Nat) : Nat := 0x9008 + 16 * n
def rPortLearn (p : Nat) : Nat := 0xA000 + 16 * p
def rPortAddrCount (p : Nat) : Nat := 0xA008 + 16 * p
def rGroupAddrCount (g : Nat) : Nat := 0xB400 + 8 * g
def rBdCfg (b : Nat) : Nat := 0x40000 + 8 * b
def rBdAddrCount (b : Nat) : Nat := 0x60000 + 8 * b
-- ASA window, Table 9.11
def rAsaCtrl : Nat := 0xC000
def rAsaStatus : Nat := 0xC008
def rEasaKeysel : Nat := 0xC010
def rLsLive (w : Nat) : Nat := 0xC018 + 8 * w
def rAsaUsed (p : Nat) : Nat := 0xC100 + 8 * p
-- Observation window, Tables 13.7, 13.10, 13.11, 13.13
def rPerfUser : Nat := 0x20000
def rMirrorCfg (m : Nat) : Nat := 0x20100 + 0x40 * m
def rMirrorSample (m : Nat) : Nat := 0x20108 + 0x40 * m
def rMirrorReq (m : Nat) : Nat := 0x20110 + 0x40 * m
def rMirrorCopies (m : Nat) : Nat := 0x20118 + 0x40 * m
def rMirrorDrop (m : Nat) : Nat := 0x20120 + 0x40 * m
def rMirrorHalf : Nat := 0x20500
def rFlowHalfSum (j : Nat) : Nat := 0x20600 + 8 * j
def rPolHalfSum (j : Nat) : Nat := 0x20800 + 8 * j
def rQueueHalf (p : Nat) : Nat := 0x21000 + 8 * p
def rPolHalf (w : Nat) : Nat := 0x22000 + 8 * w
def rPeal (k o : Nat) : Nat := 0x24000 + 0x80 * k + o
def rFlowHalf (w : Nat) : Nat := 0x28000 + 8 * w
def rHwm (p o : Nat) : Nat := 0x80000 + 0x100 * p + o
def rPerf (b o : Nat) : Nat := 0x3C00000 + 0x1000 * b + o
-- Core and traffic-manager windows
def rCoreCtrl : Nat := 0xE000
def rCoreStatus : Nat := 0xE008
def rDeepStatus : Nat := 0xE010
def rRndHalf : Nat := 0xE018
def rRndWithdraw (p : Nat) : Nat := 0xE100 + 8 * p
def rTmPeekSel : Nat := 0x10000
def rStorm (p m : Nat) : Nat := 0x11000 + 32 * p + 8 * m
def rStormDrop (p : Nat) : Nat := 0x11018 + 32 * p
-- Claves and formes
def rClaveCtrl : Nat := 0x100000
def rClaveStatus : Nat := 0x100008
def rClaveLastIsn : Nat := 0x100010
def rClaveLastCause : Nat := 0x100018
def rClaveCorr : Nat := 0x100020
def rFormeCtrl : Nat := 0x100800
def rFormeStatus : Nat := 0x100808
def rFormeGen : Nat := 0x100810
def rLockupTime0 : Nat := 0x100818
def rLockupTime1 : Nat := 0x100820
def rLockupIsn : Nat := 0x100828
def rRetirePending : Nat := 0x100830
-- Command rings, Table 2.1
def rCrBase (n : Nat) : Nat := 0x101000 + 0x100 * n
def rCrCtrl (n : Nat) : Nat := 0x101008 + 0x100 * n
def rCrHead (n : Nat) : Nat := 0x101010 + 0x100 * n
def rCrTail (n : Nat) : Nat := 0x101018 + 0x100 * n
def rCqBase (n : Nat) : Nat := 0x101020 + 0x100 * n
def rCqHead (n : Nat) : Nat := 0x101028 + 0x100 * n
def rCqTail (n : Nat) : Nat := 0x101030 + 0x100 * n
def rCrStatus (n : Nat) : Nat := 0x101038 + 0x100 * n
def rCrLastIsn (n : Nat) : Nat := 0x101040 + 0x100 * n
-- Time block, Table 12.6
def rTimeCtrl : Nat := 0x800000
def rTimeStatus : Nat := 0x800008
def rOpTime0 : Nat := 0x800010
def rOpTime1 : Nat := 0x800018
def rSlewResidual : Nat := 0x800020
def rDomCtrl (d : Nat) : Nat := 0x800100 + 0x40 * d
def rDomStatus (d : Nat) : Nat := 0x800108 + 0x40 * d
def rDomTime0 (d : Nat) : Nat := 0x800110 + 0x40 * d
def rDomTime1 (d : Nat) : Nat := 0x800118 + 0x40 * d
def rDomFreq (d : Nat) : Nat := 0x800120 + 0x40 * d
def rDomOffset (d : Nat) : Nat := 0x800128 + 0x40 * d
def rPpsInCfg (i : Nat) : Nat := 0x800200 + 0x20 * i
def rPpsInCap0 (i : Nat) : Nat := 0x800208 + 0x20 * i
def rPpsInCap1 (i : Nat) : Nat := 0x800210 + 0x20 * i
def rPpsOutCfg (i : Nat) : Nat := 0x800240 + 8 * i
def rRefCfg : Nat := 0x800250
def rTodCfg : Nat := 0x800258
def rTsrBase : Nat := 0x800300
def rTsrCtrl : Nat := 0x800308
def rTsrHead : Nat := 0x800310
def rTsrTail : Nat := 0x800318
def rMpTsrBase : Nat := 0x800340
def rMpTsrHead : Nat := 0x800350
def rMpTsrTail : Nat := 0x800358
def rPortTimeCfg (p : Nat) : Nat := 0x801000 + 0x40 * p
def rTsAdj (p : Nat) : Nat := 0x801008 + 0x40 * p
def rGateStatus (p : Nat) : Nat := 0x801010 + 0x40 * p
def rGateChange0 (p : Nat) : Nat := 0x801018 + 0x40 * p
def rGateChange1 (p : Nat) : Nat := 0x801020 + 0x40 * p
def rTsqLost (p : Nat) : Nat := 0x801028 + 0x40 * p
def rLaunchLate (p : Nat) : Nat := 0x801030 + 0x40 * p
def rLaunchDropped (p : Nat) : Nat := 0x801038 + 0x40 * p
-- Port windows, Table 5.8
def rPort (n o : Nat) : Nat := 0x1000000 + 0x10000 * n + o
def rPortCfg (n : Nat) : Nat := rPort n 0
def rPortStatus (n : Nat) : Nat := rPort n 8
def rLinkCfg (n : Nat) : Nat := rPort n 0x10
def rFcCfg (n : Nat) : Nat := rPort n 0x18
def rFcSa (n : Nat) : Nat := rPort n 0x20
def rMmCfg (n : Nat) : Nat := rPort n 0x28
def rPortEvents (n : Nat) : Nat := rPort n 0x30
def rPortIrqEn (n : Nat) : Nat := rPort n 0x38
def rStatHalf (n w : Nat) : Nat := rPort n (0x100 + 8 * w)
def rStatWrap (n w : Nat) : Nat := rPort n (0x110 + 8 * w)
def rMacStat (n i : Nat) : Nat := rPort n (0x400 + 8 * i)
def rLaneCfg (n j : Nat) : Nat := rPort n (0x800 + 8 * j)
def rLaneStatus (n j : Nat) : Nat := rPort n (0x840 + 8 * j)
def rOctetStatus (n : Nat) : Nat := rPort n 0x880
def rPortDrop (n k : Nat) : Nat := rPort n (0x1000 + 8 * k)
-- Tile windows
def rTileCtr (t k : Nat) : Nat := 0x2000000 + 0x100000 * t + 0x4000 + 8 * k
def rSlice (t j : Nat) : Nat := 0x2000000 + 0x100000 * t + 0x5000 + 8 * j
-- Cipher block, Tables 6.11, 6.14, 6.17, 6.19
def rCipherStatus : Nat := 0x3000000
def rKekStatus : Nat := 0x3000008
def rCipherMode : Nat := 0x3000010
def rMirrorPermit : Nat := 0x3000018
def rTamperStatus : Nat := 0x3000020
def rRingRole (n : Nat) : Nat := 0x3000100 + 8 * n
def rPermitDrop : Nat := 0x3000800
def rSecyCfg (i : Nat) : Nat := 0x3010000 + 0x40 * i
def rSecySa (i : Nat) : Nat := 0x3010008 + 0x40 * i
def rPeerSci (i : Nat) : Nat := 0x3010010 + 0x40 * i
def rSecyTiming (i : Nat) : Nat := 0x3010018 + 0x40 * i
def rTxCur (i : Nat) : Nat := 0x3010020 + 0x40 * i
/-- Window of SA a, transmit or receive. -/
def rSa (rx : Bool) (a o : Nat) : Nat := (if rx then 0x3200000 else 0x3100000) + 0x40 * a + o
def rSecyCtr (i k : Nat) : Nat := 0x3300000 + 0x100 * i + 8 * k
def rTxUnprot (p : Nat) : Nat := 0x3340000 + 0x40 * p
-- Recorder window, Table 15.4
def rRecStatus : Nat := 0x3800000
def rRecCtrl : Nat := 0x3800008
def rEvHead : Nat := 0x3800010
def rJrHead : Nat := 0x3800018
def rVolHead : Nat := 0x3800020
def rColHead : Nat := 0x3800028
def rOpHours : Nat := 0x3800030
def rPowerCycles : Nat := 0x3800038
def rRecWinSel : Nat := 0x3800040
def rRecDrop : Nat := 0x3800048
def rRecCrcBad : Nat := 0x3800050

-- Pool manager and PF1 rings, Table 17.6
def rPoolSummary : Nat := 0x400000
def rLedgerIndex : Nat := 0x400008
def rLedgerEntry : Nat := 0x400010
def rPoolCfg (k : Nat) : Nat := 0x400100 + 0x40 * k
def rPoolBase (k : Nat) : Nat := 0x400108 + 0x40 * k
def rPoolFs (k : Nat) : Nat := 0x400110 + 0x40 * k
def rPoolStatus (k : Nat) : Nat := 0x400118 + 0x40 * k
def rPoolLow (k : Nat) : Nat := 0x400120 + 0x40 * k
/-- PF1 ring registers: receive (`tx` false) or transmit ring r. -/
def rFr (tx : Bool) (r o : Nat) : Nat := (if tx then 0x420000 else 0x410000) + 0x40 * r + o
def rRxDrop (r j : Nat) : Nat := 0x410028 + 8 * j + 0x40 * r
def rRxsel (q : Nat) : Nat := 0x430000 + 8 * q

end Sys2Proof.Machine
end

