-- ==== Sys2Proof/Machine/RegMap.lean ====
section
/-! DEFINITION. The BAR0 register map (R1008 and the register tables of every chapter): for each offset that holds a
register, which bits are RW, W1C, WO and RS (Table 0.5; every other bit is RO) and the reset value. -/

namespace Sys2Proof.Machine

/-- Access masks and reset value of one register. -/
structure RegInfo where
  rw : Nat := 0
  w1c : Nat := 0
  wo : Nat := 0
  rs : Nat := 0
  rst : Nat := 0
deriving DecidableEq, Repr

/-- The mask of bits [hi:lo] as a number. -/
def fm (hi lo : Nat) : Nat := (2 ^ (hi + 1 - lo) - 1) <<< lo

/-- A field value placed at bit `lo`. -/
def at_ (lo v : Nat) : Nat := v <<< lo

/-- VECTOR [47:37], IRQ_EN [36]. -/
def vecMask : Nat := fm 47 36

def regLookup : List (Nat × RegInfo) → Nat → Option RegInfo
  | [], _ => none
  | (o, i) :: t, q => if q = o then some i else regLookup t q

/-- A register with every bit RW. -/
def rwAll : RegInfo := { rw := fm 63 0 }
/-- A register with every bit RO and reset 0. -/
def roAll : RegInfo := {}
/-- A base register under R50: bits [63:12]. -/
def rwBase : RegInfo := { rw := fm 63 12 }

/-- Global registers, Table 16.5, and the start-up and power registers of Tables 18.x and 19.x. -/
def globalRegs : List (Nat × RegInfo) :=
  [(0x00, { rst := 0x51201F4E0101 }), (0x08, roAll), (0x10, roAll), (0x18, roAll),
   (0x20, { wo := fm 63 32 + 3 }), (0x28, roAll),
   (0x30, { rw := fm 40 40 + fm 26 16 + fm 13 8 + 1, rst := at_ 16 512 + at_ 8 30 }),
   (0x38, { w1c := fm 40 40 }), (0x40, roAll), (0x48, rwAll), (0x50, { rw := vecMask, wo := 1 }), (0x58, roAll),
   (0x60, roAll), (0x68, roAll), (0x70, roAll), (0x78, roAll), (0x80, { w1c := fm 4 0 }), (0x88, roAll), (0x90, rwAll)]

/-- Mailbox channel registers, Table 14.7. -/
def mbxRegs : List (Nat × RegInfo) :=
  [(0x00, { rw := fm 63 6 }), (0x08, { rw := fm 63 6 }), (0x10, { rw := vecMask, wo := 1 }), (0x18, { w1c := fm 3 2 })]

/-- MP registers, Table 14.11, from 0x1400. -/
def mpRegs : List (Nat × RegInfo) :=
  [(0x00, roAll), (0x08, { rw := fm 6 0, rst := 85 }), (0x10, rwAll), (0x100, roAll), (0x108, roAll)]

/-- Maintenance registers, Table 14.14, from 0x3000. -/
def maintRegs : List (Nat × RegInfo) :=
  [(0x00, { rw := fm 38 37 + fm 4 3 + fm 1 0, rst := fm 4 3 + fm 1 0 }), (0x08, roAll),
   (0x10, { rw := fm 15 0, rst := 1000 }), (0x18, roAll)]

/-- Core window, Table 10.7, from 0xE000. -/
def coreRegs : List (Nat × RegInfo) :=
  [(0x00, { rw := fm 48 32 + fm 29 12 + fm 1 0, rst := at_ 32 2048 + at_ 12 8192 + 2 }), (0x08, { w1c := 2 }),
   (0x10, roAll), (0x18, { w1c := fm 3 0 }), (0x100, roAll), (0x108, roAll), (0x110, roAll), (0x118, roAll)]

/-- Traffic-manager window, Table 11.6, from 0x1_0000. -/
def tmReg (o : Nat) : Option RegInfo :=
  if o = 0 then some { rw := fm 63 63 + fm 17 0 }
  else if o = 8 ∨ o = 0x10 ∨ o = 0x18 then some roAll
  else if 0x1000 ≤ o ∧ o < 0x1000 + 32 * 256 then
    if (o - 0x1000) % 32 < 24 then some { rw := fm 63 48 + fm 32 32 + fm 25 0 } else some roAll
  else none

/-- Clave and forme registers, Tables 14.2 and 3.5, from 0x0010_0000. -/
def claveRegs : List (Nat × RegInfo) :=
  [(0x00, { rw := 2, wo := 4, rst := 2 }), (0x08, roAll), (0x10, roAll), (0x18, roAll), (0x20, roAll),
   (0x800, { rw := fm 41 32 + fm 15 0, rst := at_ 32 100 + 10000 }), (0x808, roAll), (0x810, roAll), (0x818, roAll),
   (0x820, roAll), (0x828, roAll), (0x830, roAll)]

/-- Registers of command ring n, Table 2.1. -/
def ringRegs (n : Nat) : List (Nat × RegInfo) :=
  [(0x00, rwBase), (0x08, { rw := vecMask + fm 27 24 + fm 8 8 + 1, wo := 6, rst := if 60 ≤ n then 0x110 else 0 }),
   (0x10, roAll), (0x18, roAll), (0x20, rwBase), (0x28, { rw := fm 16 0 }), (0x30, roAll),
   (0x38, { w1c := fm 5 5 + fm 3 0 }), (0x40, roAll)]

/-- Time block, Tables 12.6 and 12.13, from 0x0080_0000. -/
def timeReg (o : Nat) : Option RegInfo :=
  if o < 0x100 then
    regLookup [(0x00, { rw := 1 }), (0x08, roAll), (0x10, roAll), (0x18, roAll), (0x20, roAll)] o
  else if o < 0x180 then
    regLookup [(0x00, { rw := fm 63 63 + fm 40 0, rst := at_ 32 10 }), (0x08, roAll), (0x10, roAll), (0x18, roAll),
      (0x20, roAll), (0x28, roAll)] ((o - 0x100) % 0x40)
  else if o < 0x1000 then
    regLookup [(0x200, { rw := fm 63 61 + fm 57 56 + fm 31 0 }), (0x208, roAll), (0x210, roAll),
      (0x220, { rw := fm 63 61 + fm 57 56 + fm 31 0 }), (0x228, roAll), (0x230, roAll),
      (0x240, { rw := fm 63 63 + fm 57 56 + fm 51 0, rst := at_ 32 100000 }),
      (0x248, { rw := fm 63 63 + fm 57 56 + fm 51 0, rst := at_ 32 100000 }),
      (0x250, { rw := fm 63 63 + 3 }), (0x258, { rw := fm 63 62 + fm 51 32 + fm 3 0, rst := at_ 32 1000 }),
      (0x300, rwBase), (0x308, { rw := vecMask + 1 }), (0x310, { rw := fm 12 0 }), (0x318, roAll),
      (0x340, roAll), (0x348, roAll), (0x350, roAll), (0x358, roAll)] o
  else if o < 0x1000 + 0x40 * 266 then
    let p := (o - 0x1000) / 0x40
    regLookup [(0x00, { rw := fm 63 32 + fm 9 8 + fm 2 0, rst := at_ 48 100 + at_ 32 1000 }), (0x08, rwAll),
      (0x10, { rst := if p < 256 then at_ 48 0x1FF else 0 }), (0x18, roAll), (0x20, roAll), (0x28, roAll), (0x30, roAll),
      (0x38, roAll)] ((o - 0x1000) % 0x40)
  else none

/-- Port window n, Table 5.8. -/
def portReg (n o : Nat) : Option RegInfo :=
  if o < 0x40 then
    regLookup [(0x00, { rw := fm 18 18 + fm 13 0, wo := fm 19 19, rst := 9216 }), (0x08, roAll),
      (0x10, { rw := fm 60 60 + fm 51 32 + fm 23 16 + fm 9 0, rst := at_ 32 1000 }),
      (0x18, { rw := fm 47 32 + fm 15 8 + fm 1 0, rst := at_ 32 0xFFFF }), (0x20, { rw := fm 47 0 }),
      (0x28, { rw := fm 31 24 + fm 17 16 + fm 15 8 + 1, rst := at_ 8 10 }),
      (0x30, { w1c := fm 6 5 + fm 2 0 }), (0x38, rwAll)] o
  else if 0x100 ≤ o ∧ o < 0x120 ∧ o % 8 = 0 then
    some (if o % 16 = 0 then { w1c := fm 63 0 } else { w1c := fm 31 0 })
  else if 0x400 ≤ o ∧ o < 0x700 ∧ o % 8 = 0 then some roAll
  else if 0x800 ≤ o ∧ o < 0x840 ∧ o % 8 = 0 ∧ n % 8 = 0 then some { rw := fm 15 12 + fm 9 8 + fm 1 0 }
  else if 0x840 ≤ o ∧ o < 0x880 ∧ o % 8 = 0 ∧ n % 8 = 0 then some { rs := fm 47 16 }
  else if o = 0x880 ∧ n % 8 = 0 then some roAll
  else if 0x1000 ≤ o ∧ o < 0x1040 ∧ o % 8 = 0 then some roAll
  else none

/-- Tile window t: counters k from 0x4000, slice registers from 0x5000 (Table 10.10). -/
def tileReg (o : Nat) : Option RegInfo :=
  if 0x4000 ≤ o ∧ o < 0x4000 + 8 * 64 ∧ o % 8 = 0 then some roAll
  else if 0x5000 ≤ o ∧ o < 0x5020 ∧ o % 8 = 0 then some roAll
  else none

/-- Recorder window, Table 15.4. -/
def recReg (o : Nat) : Option RegInfo :=
  if o < 0x100 then
    regLookup [(0x00, { w1c := fm 4 4, rst := 3 }), (0x08, { rw := vecMask + fm 35 32 + fm 15 0, wo := fm 16 16, rst := at_ 32 12 + 1000 }),
      (0x10, roAll), (0x18, roAll), (0x20, roAll), (0x28, roAll), (0x30, roAll), (0x38, roAll),
      (0x40, { rw := fm 49 48 + fm 3 0 }), (0x48, roAll), (0x50, roAll)] o
  else if 0x100000 ≤ o ∧ o < 0x200000 ∧ o % 8 = 0 then some roAll
  else none

/-- Parser and snare window, Table 7.14, from 0x2000. -/
def parserReg (o : Nat) : Option RegInfo :=
  if o < 0x20 then regLookup [(0x00, roAll), (0x08, { wo := 1 }), (0x10, roAll), (0x18, { w1c := fm 63 0 })] o
  else if 0x100 ≤ o ∧ o < 0x500 then some roAll
  else none

/-- Case window, Tables 8.8 to 8.13, from 0x8000; the bridge-domain arrays lie at their BAR0 offsets less 0x8000. -/
def caseReg (o : Nat) : Option RegInfo :=
  if o < 0x60 then
    regLookup [(0x00, { rw := fm 52 32 + fm 16 0, rst := at_ 32 65536 + at_ 16 1 + 3000 }), (0x08, { w1c := fm 62 62 }),
      (0x10, rwAll), (0x18, rwAll), (0x20, rwAll), (0x28, rwAll), (0x30, { rw := fm 61 0 }),
      (0x38, { wo := fm 38 36 + fm 31 0 }), (0x40, rwBase), (0x48, { rw := fm 54 36 + fm 27 24 + 1 }),
      (0x50, { rw := fm 16 0 }), (0x58, roAll)] o
  else if o = 0x100 ∨ o = 0x108 ∨ o = 0x110 then some roAll
  else if 0x1000 ≤ o ∧ o < 0x1400 then
    if o % 16 = 0 then
      some { rw := fm 63 14, rst := at_ 54 544 + at_ 44 496 + at_ 34 480 + at_ 30 1 + at_ 28 1 + at_ 14 1 }
    else some { rw := fm 63 24, rst := at_ 54 96 + at_ 44 224 + at_ 34 88 + at_ 24 40 }
  else if 0x2000 ≤ o ∧ o < 0x2000 + 16 * 266 then
    let p := (o - 0x2000) / 16
    if o % 16 = 0 then
      some { rw := fm 63 8 + 1, rst := at_ 46 p + at_ 24 0xFFFFF + at_ 8 1000 + (if p < 256 then 1 else 0) }
    else some roAll
  else if 0x3400 ≤ o ∧ o < 0x3C00 then some roAll
  else if 0x38000 ≤ o ∧ o < 0x58000 then some { rw := fm 61 10 + 1, rst := at_ 40 0xFFFFF + 1 }
  else if 0x58000 ≤ o ∧ o < 0x78000 then some roAll
  else none

/-- ASA window, Table 9.11, from 0xC000. -/
def asaReg (o : Nat) : Option RegInfo :=
  if o < 0x40 then
    regLookup [(0x00, { rw := 1, rst := 1 }), (0x08, roAll), (0x10, { rw := fm 19 0 }), (0x18, roAll), (0x20, roAll),
      (0x28, roAll), (0x30, roAll), (0x38, roAll)] o
  else if 0x100 ≤ o ∧ o < 0x188 then some roAll
  else none

/-- Mirror sessions, half-range bits and Peal schedules (Tables 13.7, 13.11, 13.13) from 0x2_0000, high-water marks
(Table 13.10) from 0x6_0000 and performance pages (Table 13.5) from 0x3BE_0000 of this numbering. -/
def obsReg (o : Nat) : Option RegInfo :=
  if o = 0 then some { rw := fm 63 62 + fm 47 0 }
  else if 0x100 ≤ o ∧ o < 0x500 then
    regLookup [(0x00, { rw := fm 63 32 + fm 17 0 }), (0x08, { rw := fm 23 0 }), (0x10, roAll), (0x18, roAll), (0x20, roAll)]
      (o % 0x40)
  else if o = 0x500 then some { w1c := fm 31 0 }
  else if 0x600 ≤ o ∧ o < 0x880 then some roAll
  else if 0x1000 ≤ o ∧ o < 0x1000 + 8 * 266 then some { w1c := fm 8 0 }
  else if 0x2000 ≤ o ∧ o < 0x4000 then some { w1c := fm 63 0 }
  else if 0x4000 ≤ o ∧ o < 0x4800 then
    regLookup [(0x00, { rw := fm 63 63 + fm 47 36 + fm 22 16 }), (0x08, rwAll), (0x10, { rw := fm 63 32 }),
      (0x18, { rw := fm 39 0 }), (0x20, { rw := fm 63 4 }), (0x28, rwBase), (0x30, { rw := fm 47 32 + fm 11 0 }),
      (0x38, { rw := fm 16 0 }), (0x40, roAll), (0x48, { w1c := fm 2 1 }), (0x50, roAll), (0x58, roAll), (0x60, roAll),
      (0x68, roAll)] (o % 0x80)
  else if 0x8000 ≤ o ∧ o < 0x10000 then some { w1c := fm 63 0 }
  else if 0x60000 ≤ o ∧ o < 0x60000 + 0x100 * 266 then
    if o % 0x100 < 0xA0 then some { rs := fm 47 0 } else none
  else if 0x3BE0000 ≤ o ∧ o < 0x3BE0000 + 43 * 0x1000 then
    let q := (o - 0x3BE0000) % 0x1000
    if q = 0 then some roAll
    else if q = 8 then some { rw := fm 47 36 + fm 7 0 }
    else if q = 0x10 then some { w1c := fm 7 0 }
    else if 0x40 ≤ q ∧ q < 0x80 then some { rw := fm 15 0 }
    else if 0x80 ≤ q ∧ q < 0xC0 then some roAll
    else none
  else none
/-- Cipher block, Tables 6.11, 6.14, 6.17 and 6.19, from 0x0300_0000. -/
def cipherReg (o : Nat) : Option RegInfo :=
  if o < 0x28 then
    regLookup [(0x00, roAll), (0x08, roAll), (0x10, { rw := 1 }), (0x18, { rw := fm 15 0 }), (0x20, { w1c := fm 3 0 })] o
  else if 0x100 ≤ o ∧ o < 0x300 then some { rst := if 0x100 + 8 * 60 ≤ o then 1 else 0 }
  else if o = 0x800 then some roAll
  else if 0x10000 ≤ o ∧ o < 0x20000 then
    regLookup [(0x00, { rw := fm 63 48 + fm 43 24 + fm 16 8, rst := at_ 29 1 + at_ 26 2 }), (0x08, { rw := fm 59 0 }),
      (0x10, rwAll), (0x18, { rw := fm 63 32 + fm 23 0, rst := 10000 }), (0x20, { rw := fm 14 0 })] (o % 0x40)
  else if 0x100000 ≤ o ∧ o < 0x300000 then
    regLookup [(0x00, { rw := fm 9 0 + if o < 0x200000 then fm 17 16 else 0 }), (0x08, roAll), (0x10, roAll), (0x18, roAll), (0x20, roAll),
      (0x28, roAll), (0x30, roAll), (0x38, roAll)] (o % 0x40)
  else if 0x300000 ≤ o ∧ o < 0x340000 then if o % 0x100 < 14 * 8 then some roAll else none
  else if 0x340000 ≤ o ∧ o < 0x340000 + 0x40 * 264 then if o % 0x40 = 0 then some roAll else none
  else none
/-- Pool manager and PF1 rings, Table 17.6, from 0x0040_0000. -/
def poolReg (o : Nat) : Option RegInfo :=
  if o < 0x100 then regLookup [(0x00, roAll), (0x08, { rw := fm 19 0 }), (0x10, roAll)] o
  else if o < 0x500 then
    regLookup [(0x00, { rw := fm 63 32 + fm 20 0 }), (0x08, rwAll), (0x10, rwAll), (0x18, { w1c := fm 62 60 }),
      (0x20, { rw := fm 20 0 })] ((o - 0x100) % 0x40)
  else if 0x10000 ≤ o ∧ o < 0x20000 then
    regLookup [(0x00, rwBase), (0x08, { rw := fm 63 32 + fm 27 24 + 1, rst := at_ 48 1000 }), (0x10, roAll), (0x18, roAll),
      (0x20, { w1c := fm 9 8 }), (0x28, roAll), (0x30, roAll), (0x38, roAll)] (o % 0x40)
  else if 0x20000 ≤ o ∧ o < 0x30000 then
    regLookup [(0x00, rwBase), (0x08, { rw := vecMask + fm 27 24 + 1 }), (0x10, roAll), (0x18, roAll),
      (0x20, { w1c := fm 9 8 })] (o % 0x40)
  else if 0x30000 ≤ o ∧ o < 0x30040 then some { rw := fm 25 16 + fm 3 0 }
  else none
/-- Start-up registers of Tables 18.7, 18.10 and 19.x, from 0x100 of the global block. -/
def bootReg (o : Nat) : Option RegInfo :=
  if o < 0x140 then
    regLookup [(0x100, { rw := 2, wo := fm 63 32 + 1 }), (0x108, { w1c := fm 2 1 }),
      (0x110, { w1c := fm 12 11 + fm 8 8 }), (0x118, roAll),
      (0x120, { rw := fm 47 32 + fm 15 0, rst := at_ 32 1000 + 100 }), (0x128, roAll), (0x130, roAll)] o
  else if o < 0x180 then some roAll
  else regLookup [(0x200, roAll), (0x208, { rw := fm 15 0, rst := at_ 8 90 + 100 }), (0x210, { w1c := 2 })] o |>.or
    (if 0x280 ≤ o ∧ o < 0x280 + 8 * 24 then some roAll else none)

/-- The register at a BAR0 offset (Table 16.3), none where no block assigns one (R1008). [log 1 DESIGN CHOICE] -/
def regInfo (o : Nat) : Option RegInfo :=
  if o % 8 ≠ 0 then none
  else if o < 0x100 then regLookup globalRegs o
  else if o < 0x1000 then bootReg o
  else if o < 0x1200 then regLookup mbxRegs ((o - 0x1000) % 0x40)
  else if o < 0x1400 then none
  else if o < 0x1800 then regLookup mpRegs (o - 0x1400)
  else if o < 0x2000 then none
  else if o < 0x3000 then parserReg (o - 0x2000)
  else if o < 0x4000 then regLookup maintRegs (o - 0x3000)
  else if o < 0x8000 then none
  else if o < 0xC000 then caseReg (o - 0x8000)
  else if o < 0xE000 then asaReg (o - 0xC000)
  else if o < 0x10000 then regLookup coreRegs (o - 0xE000)
  else if o < 0x20000 then tmReg (o - 0x10000)
  else if o < 0x40000 then obsReg (o - 0x20000)
  else if o < 0x80000 then caseReg (o - 0x8000)
  else if o < 0x100000 then
    if (o - 0x80000) / 0x100 < 266 then obsReg (o - 0x20000) else none
  else if o < 0x101000 then regLookup claveRegs (o - 0x100000)
  else if o < 0x105000 then regLookup (ringRegs ((o - 0x101000) / 0x100)) ((o - 0x101000) % 0x100)
  else if o < 0x400000 then none
  else if o < 0x800000 then poolReg (o - 0x400000)
  else if o < 0x1000000 then timeReg (o - 0x800000)
  else if o < 0x2000000 then portReg ((o - 0x1000000) / 0x10000) ((o - 0x1000000) % 0x10000)
  else if o < 0x2800000 then tileReg ((o - 0x2000000) % 0x100000)
  else if o < 0x3000000 then none
  else if o < 0x3800000 then cipherReg (o - 0x3000000)
  else if o < 0x3C00000 then recReg (o - 0x3800000)
  else if o < 0x4000000 then obsReg (o - 0x20000)
  else none

/-- The key of a register's copy for a link: banked registers (Table 16.5) have a second copy for link 1.
[log 7 DEDUCED, 13 DEDUCED] -/
def banked (link : Bool) (o : Nat) : Nat :=
  if link ∧ (o = 0x48 ∨ o = 0x50) then o + 2 ^ 32 else o

/-- The key of a register as a link writes it: the keyed registers DEV_CTRL and BOOT_CTRL have one copy, and keep the link of
the write for ACCESS_ADDR (R1010, R1097, Table 16.5). [log 7 DEDUCED, 13 DEDUCED] -/
def writeKey (link : Bool) (o : Nat) : Nat :=
  if link ∧ (o = 0x20 ∨ o = 0x100) then o + 2 ^ 32 else banked link o

/-- What a register reads after a power-on or cold reset, unless a rule says otherwise. [log 1 DESIGN CHOICE] -/
def resetValue (o : Nat) : Word := BitVec.ofNat 64 ((regInfo (o % 2 ^ 32)).elim 0 (fun i => i.rst))

end Sys2Proof.Machine
end

