-- ==== Sys2Proof/Machine/Codes.lean ====
section
/-! DEFINITION. Status codes (Table 0.7, Tables 3.8, 4.14, 6.x, 10.x), opcodes (Table 4.2) and variants (Table 0.1). -/

namespace Sys2Proof.Machine

/-- The four variants of Table 0.1. -/
inductive Variant where
  | ex | ec | en | hc
deriving DecidableEq, Repr

/-- DEV_CAPS of Table 0.3 (R1). -/
def devCaps : Variant → Word
  | .ex => 0x00000100FF30000E#64
  | .ec => 0x00000100FF00000A#64
  | .en => 0x00000100FF30000C#64
  | .hc => 0x000000800F000002#64

/-- Completion status codes: Table 0.7, 0x20 of the cipher chapter, Table 3.8, R275 and R658. -/
inductive Status where
  | ok | eAddr | eFull | eFormeBusy | eFormeFull | ePerm | eAbsent | eTimePast | eCheck | eKey
  | ePoolAddr | ePoolState | ePoolOwner | ePortMode | eAbort | eTimeout
  | eCipherState | eLockMissed | eNoGalley | eOperand | eHeadroom
deriving DecidableEq, Repr

/-- The number of a status code (R17, R175, R275). -/
def statusCode : Status → Nat
  | .ok => 0x00 | .eAddr => 0x01 | .eFull => 0x02 | .eFormeBusy => 0x03 | .eFormeFull => 0x04 | .ePerm => 0x05
  | .eAbsent => 0x06 | .eTimePast => 0x07 | .eCheck => 0x08 | .eKey => 0x09 | .ePoolAddr => 0x0A
  | .ePoolState => 0x0B | .ePoolOwner => 0x0C | .ePortMode => 0x0D | .eAbort => 0x0E | .eTimeout => 0x0F
  | .eCipherState => 0x20 | .eLockMissed => 0x30 | .eNoGalley => 0x31 | .eOperand => 0x40 | .eHeadroom => 0x50

/-- Opcodes of Table 4.2. -/
def opEnd : Nat := 0x01
def opQuoin : Nat := 0x02
def opSkipif : Nat := 0x08
def opNote : Nat := 0x09
def opGopen : Nat := 0x10
def opTw : Nat := 0x11
def opTd : Nat := 0x12
def opTm : Nat := 0x13
def opLock : Nat := 0x18
def opLockat : Nat := 0x19
def opGdrop : Nat := 0x1A
def opTrd : Nat := 0x20
def opRw : Nat := 0x21
def opRrd : Nat := 0x22
def opRmw : Nat := 0x23
def opCsnap : Nat := 0x30
def opCclr : Nat := 0x31
def opCrd : Nat := 0x32
def opWaitt : Nat := 0x40
def opTset : Nat := 0x41
def opTadj : Nat := 0x42
def opPalloc : Nat := 0x50
def opPfree : Nat := 0x51
def opPref : Nat := 0x52
def opKload : Nat := 0x60
def opKzero : Nat := 0x61
def opSasw : Nat := 0x62

/-- The opcodes Table 4.2 lists (R178). -/
def listedOpcodes : List Nat :=
  [opEnd, opQuoin, opSkipif, opNote, opGopen, opTw, opTd, opTm, opLock, opLockat, opGdrop, opTrd, opRw, opRrd, opRmw,
   opCsnap, opCclr, opCrd, opWaitt, opTset, opTadj, opPalloc, opPfree, opPref, opKload, opKzero, opSasw]

end Sys2Proof.Machine
end

