-- ==== Sys2Proof/Machine/SMap.lean ====
section
/-! DEFINITION. Sparse maps from Nat keys in one canonical form: keys strictly rising, no entry equal to what an
unlisted key reads as. Registers, counters and tables are held so; equal contents are equal lists. -/

namespace Sys2Proof.Machine

/-- A sparse map: a list of key and value pairs, sorted by key. -/
abbrev SMap (α : Type) := List (Nat × α)

/-- The value listed for a key. -/
def smFind {α : Type} : SMap α → Nat → Option α
  | [], _ => none
  | (k, v) :: m, q => if q = k then some v else smFind m q

/-- What a key reads as: its listed value, or the default of that key. -/
def smGet {α : Type} (d : Nat → α) (m : SMap α) (q : Nat) : α := (smFind m q).getD (d q)

/-- Insert or replace the value of a key, keeping the order. -/
def smIns {α : Type} (q : Nat) (x : α) : SMap α → SMap α
  | [] => [(q, x)]
  | (k, v) :: m => if q < k then (q, x) :: (k, v) :: m else if q = k then (q, x) :: m else (k, v) :: smIns q x m

/-- Remove a key. -/
def smDel {α : Type} (q : Nat) : SMap α → SMap α
  | [] => []
  | (k, v) :: m => if q = k then m else (k, v) :: smDel q m

/-- Write a key: a value equal to the default removes the entry, so the form stays canonical. -/
def smSet {α : Type} [DecidableEq α] (d : Nat → α) (m : SMap α) (q : Nat) (x : α) : SMap α :=
  if x = d q then smDel q m else smIns q x m

/-- Keys strictly rising. -/
abbrev SMap.sorted {α : Type} (m : SMap α) : Prop := m.Pairwise (fun a b => a.1 < b.1)

/-- The canonical form: keys strictly rising and no entry equal to the default of its key. -/
abbrev SMap.wf {α : Type} (d : Nat → α) (m : SMap α) : Prop := m.Pairwise (fun a b => a.1 < b.1) ∧ ∀ e ∈ m, e.2 ≠ d e.1

end Sys2Proof.Machine
end

