-- ==== Sys2Proof/Machine/State.lean ====
section
/-! DEFINITION. The state of the block as plain data: registers, tables, queues, frames, keys, time, the recorder and
the queue of waiting commands; the state after reset; why a step can stop. -/

namespace Sys2Proof.Machine

/-- Who performs a direct access: a host PF0 by its link (false: link 0, true: link 1), or the MP. -/
inductive Agent where
  | host (link : Bool)
  | mp
deriving DecidableEq, Repr

/-- What left the module, in order: the environment's view of the block. [log 5 DESIGN CHOICE] -/
inductive Output where
  /-- Octets written to an owner's memory (R79, R997: the order of this list is the order of the stream). -/
  | memWrite (owner : Agent) (addr : Nat) (data : List Byte)
  /-- One MSI-X message: link, function (0 PF0, 1 PF1), entry (R1021). -/
  | msix (link : Bool) (fn : Nat) (entry : Nat)
  /-- The value a BAR0 read returned. -/
  | readData (link : Bool) (offset : Nat) (value : Word)
  /-- A frame that left a front port's MAC; `bad` when it was stomped (R320). -/
  | frameOut (port : Nat) (octets : List Byte) (bad : Bool)
  /-- A fragment of a preempted frame has left a front port's MAC, its mCRC or FCS excluded; `final` the last one (R317, R322). -/
  | fragOut (port : Nat) (octets : List Byte) (final : Bool)
  /-- A verify mPacket (R315). -/
  | verifyOut (port : Nat)
  /-- What a front port's transmit lanes send without frames: 0 electrical idle, 1 the remote fault sequence, 2 idle. -/
  | lanesOut (port : Nat) (kind : Nat)
  /-- Auto-negotiation advertises the configured mode and FEC, and no other (R285). -/
  | advertise (port : Nat) (mode fec : Nat)
  /-- A generated pause or PFC frame (R307 to R311). -/
  | pauseOut (port : Nat) (octets : List Byte)
  /-- A frame delivered to the MP (P265), with its 32-byte receive descriptors, whose places in its ring firmware keeps. -/
  | mpFrame (octets : List Byte) (desc : List Byte)
  /-- A pulse on a PPS output (R788). -/
  | ppsPulse (i : Nat) (widthUs : Nat)
  /-- An optics cage's alarm handled by the MP (R940). -/
  | opticsAlarm (cage : Nat)
  /-- A CMIS write handed to an optics module (R936). -/
  | cmisWrite (payload : List Byte)
  /-- The pool manager wrote the addresses of pool `k`'s buffers, `base + i × size` for i below `count`, in ascending order to
  its free store (R1032). -/
  | freeStore (k base size count : Nat)
  /-- Octets sent by the time-of-day UART (R791). -/
  | tod (octets : List Byte)
  /-- Octets the time-of-day UART received and handed to the MP (R791). -/
  | todToMp (octets : List Byte)
deriving DecidableEq, Repr

/-- A posting to the event recorder: Table 15.2's content as taken at posting (R961). -/
structure Posting where
  code : Nat
  origin : Nat
  data : List Byte
  hours : Nat
  ms : Nat
  pcycle : Nat
  optime : Nat
  gen : Nat
  /-- The core cycle of the posting (LATE_WRITE compares with it). -/
  at_ : Nat
  late : Bool := false
  part : Nat := 0
  close : Bool := false
  rep : Nat := 1
deriving DecidableEq, Repr

/-- An open coalescing window (R970). -/
structure Window where
  code : Nat
  origin : Nat
  data : List Byte
  opened : Nat
  count : Nat
  last : Posting
deriving DecidableEq, Repr

/-- What an issued instruction waits for (WAIT of CR_STATUS.STATE). -/
inductive WaitKind where
  | lock
  /-- WAITT until operational time reaches sec, ns (R80). -/
  | waitt (sec ns : Nat) (late : Bool)
  /-- PALLOC in the wait FIFO of pool k until elapsed cycle `deadline` (R256); destination address. -/
  | palloc (k : Nat) (deadline : Nat) (dest : Nat)
  /-- A quoin of a variant: issue cycle, Write Gate mark, operational time at issue (Table 2.5). -/
  | quoin (variant : Nat) (since : Nat) (mark formeMark : Nat) (sec ns : Nat)
  /-- It is in execution: its effect has not returned yet (R93). -/
  | exec
  /-- A CRD that reads one unit per core cycle (R237): units read, the fields of its instruction, whether its destination can
  be written, the header's octets and the values read so far, and how many. -/
  | crd (done first units set : Nat) (ack : Bool) (dest : Nat) (block : List Byte) (count : Nat)
deriving DecidableEq, Repr

/-- An issued instruction whose completion is still to come. -/
structure Waiting where
  isn : Nat
  opcode : Nat
  flags : Nat
  kind : WaitKind
deriving DecidableEq, Repr

/-- A completion record to be written (Table 4.4, without its phase bit). -/
structure Rec where
  result : Nat
  isn : Nat
  status : Nat
  opcode : Nat
deriving DecidableEq, Repr

/-- What the Claves hold of one command ring beside its registers. -/
structure RingRt where
  /-- Opcodes of the slots from CR_HEAD to CR_TAIL, in order. -/
  slots : List Nat := []
  /-- A program has begun and not ended (R57). -/
  begun : Bool := false
  issued : Nat := 0
  notOk : Nat := 0
  skipped : Nat := 0
  /-- ISN of the first instruction of the program issued, 0 when none. -/
  firstIsn : Nat := 0
  /-- ISN of the last instruction of the program issued, 0 when none. -/
  lastIsn : Nat := 0
  /-- How that instruction completed (R201): none while none issued or it is still incomplete. -/
  lastOk : Option Bool := none
  waiting : Option Waiting := none
  /-- The program aborts once its waiting instruction has completed: the ISN and status that ended it (R91). -/
  abortAfter : Option (Nat × Nat) := none
  /-- Records whose instruction completed, oldest first, not yet written (R69, R71). -/
  records : List Rec := []
  /-- The completion interrupt may be raised (R73). -/
  irqArmed : Bool := true
  /-- Cycle at which the ring began to wait on a full completion ring, and whether EV_CQ_STALL was posted. -/
  stallSince : Option Nat := none
  stallPosted : Bool := false
  /-- A record could not be written: the ring writes none until it is reset (R1164, R61). -/
  cqDead : Bool := false
  /-- A QUOIN.C or QUOIN.X has completed and the ring has not issued since: no capture begins (R89). -/
  capHold : Bool := false
deriving DecidableEq, Repr

/-- One entry of the galley log: table, row (indexed) or key (associative), and the image or a deletion. -/
structure GWrite where
  table : Nat
  row : Nat
  /-- The key of an associative entry (its whole key image as a number), 0 for an indexed row. -/
  key : Nat
  del : Bool
  image : Nat
deriving DecidableEq, Repr

/-- An accepted LOCK or LOCKAT (R128, R141). -/
structure PendLock where
  isn : Nat
  ring : Nat
  origin : Nat
  flags : Nat
  timed : Bool
  lateOk : Bool
  sec : Nat
  ns : Nat
  /-- A forward step of operational time has passed T (R148). -/
  stepLate : Bool := false
  /-- T passed before imposition was complete, LATE_OK 1 (R145). -/
  late : Bool := false
deriving DecidableEq, Repr

/-- One write that imposition, withdrawal or catch-up owes to a table. -/
inductive FormeWrite where
  /-- Imposition: one row's standby copy. -/
  | row (table row image : Nat)
  /-- Imposition: clear the standby bit of the entries a key's write replaces or deletes, then place the new one. -/
  | entry (w : GWrite)
  /-- Catch-up or withdrawal: bring one row's copy of a parity into line with the other. -/
  | syncRow (table row : Nat) (parity : Bool)
  /-- Catch-up or withdrawal: bring one key's validity bits of a parity into line with the other. -/
  | syncKey (table key : Nat) (parity : Bool)
deriving DecidableEq, Repr

/-- A direct or ring write waiting in the Write Gate queue (R104). -/
structure GateWrite where
  offset : Nat
  mask : Word
  value : Word
  origin : Nat
  isn : Nat
  env : WriteEnv
deriving DecidableEq, Repr

/-- A pending SASW (R269). -/
structure Sasw where
  isn : Nat
  ring : Nat
  flags : Nat
  origin : Nat
  secy : Nat
  dir : Bool
  sa : Nat
  sec : Nat
  ns : Nat
  /-- The issuing ring was reset: no record is written (R99). -/
  orphan : Bool := false
  stepLate : Bool := false
deriving DecidableEq, Repr

/-- An entry of the Case (R502 on): static entries carry the two validity bits of the formes. -/
structure CaseEnt where
  loc : Nat
  key : Nat
  slots : Nat
  result : Nat
  v0 : Bool
  v1 : Bool
  learned : Bool
  lastWrite : Nat := 0
deriving DecidableEq, Repr

/-- An entry of an ingress or egress ASA: key shadow, ternary cells and the two validity bits. -/
structure AsaEnt where
  table : Nat
  loc : Nat
  key : Nat
  image : Nat
  v0 : Bool
  v1 : Bool
deriving DecidableEq, Repr

/-- What the ingress actions decided for a frame (R608, Table 10.2). -/
structure Decision where
  /-- DEST resolved (R611, R643): 0 none, 1 port, 2 multicast group, 3 the decision drops the frame. -/
  destKind : Nat := 0
  dest : Nat := 0
  /-- DISP of Table 9.4: 0 none, 1 FORWARD, 2 DROP, 3 SNARE_DIVERT, 4 SNARE_COPY. -/
  disp : Nat := 0
  snare : Option Nat := none
  /-- DEST as Table 8.3 encodes it, before a load-spread group is resolved. -/
  destRaw : Option Nat := none
  tc : Nat := 0
  egressTag : Option Nat := none
  /-- SECY_SEL: none when no row sets it, `some none` for NONE, else the SecY it names (step 1 of R360). -/
  secySel : Option (Option Nat) := none
  /-- The SecY of a Case selector entry (step 2 of R360). -/
  caseSecy : Option Nat := none
  policer : Option Nat := none
  pairCase : Option Nat := none
  pairAsa : Option Nat := none
  mirror : Nat := 0
  slug : Option Nat := none
  /-- Tag operations in the order of R626 (the 40-bit words of Table 9.5). -/
  tagOps : List Nat := []
  l4csum : Nat := 0
  noLearn : Bool := false
  /-- The policer's colour: 0 green, 1 yellow, 2 red (R749). -/
  colour : Nat := 0
deriving DecidableEq, Repr

/-- What the parser found (R445 to R470): status and FRAG as Table 7.6 encodes them, and where each extracted field came
from, for write-back (R621). -/
structure ParseInfo where
  status : Nat := 0
  stick : Nat := 0
  profile : Nat := 0
  frag : Nat := 0
  /-- Extracted fields in order: DEST, width, first bit in the frame (octet × 8 + bit offset). -/
  fields : List (Nat × Nat × Nat) := []
  /-- Templates applied: number, KIND as it acted, base, HDR_LEN. -/
  chain : List (Nat × Nat × Nat × Nat) := []
  /-- Octets from this one on did not come from the frame (R455, R480). -/
  own : Nat := 0
deriving DecidableEq, Repr

/-- Where a frame stands between its MAC and the slice. [log 33 DEDUCED] -/
inductive FrameStage where
  /-- Received at the MAC (stage 2), waiting for stage 3 or the header gather. -/
  | mac
  /-- Released by the cipher unit (stage 3), waiting for the header gather. -/
  | clear
  /-- On its way from a recirculation, host or MP path to stage 5. -/
  | reentry
  /-- Held in the slice of its ingress tile (stage 9 on). -/
  | held
deriving DecidableEq, Repr

/-- A queued learn request (R541, R542): kind 0 insert, 1 move, 2 refresh. -/
structure LearnReq where
  bd : Nat
  mac : Nat
  dest : Nat
  port : Nat
  kind : Nat
deriving DecidableEq, Repr

/-- A fragment insert waiting for its turn (R476, R477): its pipeline, hold in cycles, and since when it waits. -/
structure FragReq where
  key : List Byte
  octs : List Byte
  hold : Nat
  pipe : Nat
  since : Nat
deriving DecidableEq, Repr

/-- A frame inside the device. -/
structure Frame where
  id : Nat
  octets : List Byte
  /-- The ingress port of this pass. -/
  port : Nat
  firstPort : Nat
  rxTime : Nat := 0
  rxGen : Nat := 0
  rxDom : Nat := 0
  /-- The sum of the steps of that domain before the frame arrived (R799). -/
  rxStep : Int := 0
  stage : FrameStage
  parity : Bool := false
  stamped : Bool := false
  /-- Cycle of the first ingress forme stamp (R154). -/
  firstStamp : Nat := 0
  pass : Nat := 0
  flowHash : Nat := 0
  /-- The frame was decrypted by a receive SecY (its number); its SA and PN while the ICV is undecided, and whether a
  failure drops it (row 9 of Table 6.5). -/
  rxSecy : Option Nat := none
  rxSa : Nat := 0
  rxPn : Nat := 0
  rxStrict : Bool := false
  /-- FRAME_LEN of the header vector. -/
  len : Nat := 0
  /-- The header vector as extracted, and as the ingress actions left it. -/
  hv0 : Nat := 0
  hv : Nat := 0
  parse : ParseInfo := {}
  dec : Decision := {}
  /-- The last octet has been written into the slice (R649), and the cycle of that write where it came after admission. -/
  complete : Bool := true
  wroteAt : Nat := 0
  /-- Of a frame admitted while it arrives: the cycle of its admission and the octets it then held (R676). -/
  arrAt : Nat := 0
  arrHeld : Nat := 0
  cells : Nat := 0
  /-- The slice's cells that hold it, the first cell first (R648, R650, R651). -/
  cellIdx : List Nat := []
  charge : Nat := 0
  /-- 0 shared, 1 reserve, 2 headroom (Table 10.5). -/
  region : Nat := 0
  cutThrough : Bool := false
  /-- Stomp cause of Table 5.5, once found bad: 0 FCS, 1 code, 2 length, 3 ICV, 4 memory. -/
  bad : Option Nat := none
  /-- STOMP release: the ICV is still to be decided (R376); of a mirror copy, the frame whose ICV it waits for (R377). -/
  icvPending : Bool := false
  icvOf : Option Nat := none
  /-- Its octets are those that stage 3 decrypted, on this pass or, unless encrypted again, an earlier one (R408). -/
  decrypted : Bool := false
  /-- SecTAG and ICV that stage 3 takes out of a frame still arriving: where the SecTAG stands, the octet after it, and whether
  the user data is encrypted. -/
  rxTag : Option (Nat × Nat × Bool) := none
  /-- It arrives as a preemptable frame on a port with MM_EN set (R313). -/
  rxPre : Bool := false
  fcsErr : Bool := false
  codeErr : Bool := false
  /-- The frame is a mirror session's own copy of an egress copy (R888). -/
  mirrorOf : Option Nat := none
  /-- A mirror copy of octets that stage 3 decrypted or stage 13 is to encrypt (R408). -/
  secret : Bool := false
  /-- Transmit descriptor flags of a host or MP frame (bit 0 TS_REQ, bit 1 ONESTEP) and its TS_TAG. -/
  txFlags : Nat := 0
  txTag : Nat := 0
  launch : Option Nat := none
  /-- The transmit ring and first descriptor index that sent it, for the write-back. -/
  origin : Option (Nat × Nat) := none
  /-- The MP sent it (R801). -/
  fromMp : Bool := false
  /-- Multicast: egress tiles still to be served (R685), and those that the group's mask named at admission (R684). -/
  mask : Nat := 0
  tiles : Nat := 0
  /-- Released before its last octet: still arriving at the MAC (R31, R649). -/
  receiving : Bool := false
  /-- A fragment entry that waits for octets of the frame still to arrive, and where its 16 octets begin (R473). -/
  fragWait : Option (FragReq × Nat) := none
  /-- The learn request that takes effect once the frame is received whole and good (R545). -/
  learn : Option LearnReq := none
deriving DecidableEq, Repr

/-- A frame a transmit ring has sent, until its write-back (R1069). -/
structure TxOut where
  ring : Nat
  /-- Index of its first descriptor, modulo twice the ring size, and how many it has. -/
  first : Nat
  slots : Nat
  /-- Address of the last descriptor, and its word 3 as written. -/
  addr : Nat
  w3 : Nat
  /-- A copy has started transmission; the cause of the first drop (1 DROPPED, 2 LAUNCH_DROPPED, 3 LENGTH, 4 READ_FAULT). -/
  started : Bool := false
  cause : Option Nat := none
  tsLost : Bool := false
  late : Bool := false
  freeErr : Bool := false
  written : Bool := false
deriving DecidableEq, Repr

/-- Where a copy of a frame stands. [log 33 DEDUCED] -/
inductive CopyStage where
  /-- In the egress queue of shared mode, or in its VOQ, cells on die. -/
  | queued
  /-- Assigned to the deep store, cells still staged in the slice (R699). -/
  | staged
  /-- In the deep store. -/
  | deep
  /-- Fetched or granted: crossing its plane. -/
  | crossing
  /-- In the transit buffer and egress queue of its port. -/
  | egress
  /-- Selected by the port scheduler, before stage 12. -/
  | selected
  /-- Through stage 12 and 13, in the MAC. -/
  | mac
  /-- Host-bound: waiting in the PF1 receive path (R1053 on). -/
  | hostWait
deriving DecidableEq, Repr

/-- One copy of a frame toward one egress port. -/
structure Copy where
  id : Nat
  frame : Nat
  port : Nat
  cls : Nat
  /-- Egress queue 0 to 7, 8 for QT. -/
  queue : Nat
  /-- 0 forwarded, 1 snared, 2 mirrored. -/
  kind : Nat := 0
  reason : Nat := 0
  stage : CopyStage
  multicast : Bool := false
  charge : Nat := 0
  region : Nat := 0
  /-- Elapsed cycle of entry into its queue. -/
  enq : Nat := 0
  launch : Option Nat := none
  /-- The octets the MAC sends, once stage 12 and 13 have run. -/
  out : List Byte := []
  /-- Octets of a frame still arriving that stage 12 has used; the rest follow as they arrive. -/
  tailFrom : Option Nat := none
  /-- A checksum update whose octets are among the rest: where they lie, the change of the sum, and whether UDP's (R624). -/
  tailCsum : Option (Nat × Int × Bool) := none
  protectedBy : Option Nat := none
  /-- The SecY encrypts it; of a protected copy still arriving, what the cipher unit gives for the rest, and how many of the next
  octets go in clear (R357). -/
  enc : Bool := false
  secRest : Option (List Byte) := none
  secClear : Nat := 0
  /-- A protected copy's octets before encryption, and how many of its octets leave in clear (R410). -/
  clearPart : Option (List Byte × Nat) := none
  /-- The slot in which its first cell crosses its plane (R676). -/
  crossAt : Nat := 0
  /-- Where the MAC applies a one-step correction: the PTP header and its UDP checksum (R798 to R800). -/
  ptp : Option (Nat × Option Nat) := none
  /-- A cut-through copy past its queue or stage 12 whose last cell has not yet crossed its plane. -/
  cutting : Bool := false
  parity : Bool := false
  /-- The first octet has left the egress MAC. -/
  started : Bool := false
  express : Bool := false
  /-- Transmission of a started copy: octets sent before its present fragment, the cycle that fragment began, whether it stands
  preempted, and how often it has been (R317 to R322). -/
  sentBase : Nat := 0
  runAt : Nat := 0
  /-- The cycle in which its transmission began. -/
  txAt : Nat := 0
  preempted : Bool := false
  preempts : Nat := 0
  late : Bool := false
  waitSince : Nat := 0
deriving DecidableEq, Repr

/-- A token bucket's level, in 2^-32 of its unit, as of a core cycle (R737, R738). -/
structure Bucket where
  level : Int
  cycle : Nat
deriving DecidableEq, Repr

/-- One of the time domains: time in 2^-16 ns and the accumulator's remainders (R768, R778). -/
structure Dom where
  t : Nat := 0
  rem : Int := 0
  slew : Int := 0
  slewRem : Nat := 0
deriving DecidableEq, Repr

/-- A timestamp waiting in a port's TSQ (R801). -/
structure TsEntry where
  t : Nat
  gen : Nat
  tag : Nat
  late : Bool
  domain : Nat
  toMp : Bool
  /-- KIND of Table 12.2: 0 transmit, 1 PPS input 0, 2 PPS input 1. -/
  kind : Nat := 0
deriving DecidableEq, Repr

/-- A flush request (R563 to R565): scope, destination, bridge domain and address; entries last written at or before write
number `since` go. -/
structure FlushReq where
  scope : Nat
  dest : Nat
  bd : Nat
  mac : Nat := 0
  host : Bool
  since : Nat
deriving DecidableEq, Repr

/-- An entry of the fragment table (R472, R473): key, the 16 stored octets, the cycle its hold ends. -/
structure FragEnt where
  key : List Byte
  octs : List Byte
  /-- The cycle of insertion (R478) and the one its hold ends. -/
  since : Nat
  expire : Nat
deriving DecidableEq, Repr

/-- A maintenance activity and the unit it holds (Table 14.12). -/
structure Maint where
  act : Nat
  unit : Nat
  since : Nat
deriving DecidableEq, Repr

/-- An operator enrolled in the boundary (R403, R432). -/
structure Operator where
  ident : Nat
  role : Nat
  pubKey : List Byte
deriving DecidableEq, Repr

/-- A key held for an SA (R263, Table 4.13). -/
structure SaKey where
  key : List Byte
  suite : Nat
  ssci : Nat
  salt : List Byte
deriving DecidableEq, Repr

/-- A Peal schedule's state beside its registers (R864 on): the list it keeps on die (unit ID, first unit, units), the next
occurrence in nanoseconds of operational time, the last SEQ, the occurrences a forward step has passed over and the last of
them (R878), and whether its vector may be raised (R873). -/
structure Peal where
  list : List (Nat × Nat × Nat) := []
  next : Nat := 0
  seq : Nat := 0
  passed : Nat := 0
  sched : Nat := 0
  armed : Bool := true
  /-- The interval of a QUOIN.C has held its due capture back (R871). -/
  held : Bool := false
deriving DecidableEq, Repr

/-- A boot image (R1095, R1096): SAVE_SEQ and FORME_GEN of its manifest, the RW fields of the registers of Table 18.3, the
rows, and the associative entries. -/
structure BootImage where
  seq : Nat
  gen : Nat
  regs : List (Nat × Word)
  rows : List (Nat × Nat)
  case : List CaseEnt
  asa : List AsaEnt
  /-- Its manifest (R1096, Table 18.4). -/
  manifest : List Byte := []
deriving DecidableEq, Repr

/-- What the non-volatile store keeps through power-off: HOST_CFG's stored fields (Table 16.7), commissioning,
the TAMPER_SEL level (R1135), firmware and boot images (R423, R1099). -/
structure NvStore where
  bifurcate : Bool := false
  ringSplit : Nat := 30
  frameSplit : Nat := 512
  commissioned : Bool := false
  /-- CIPHER_MODE.APPROVED (R413) and MIRROR_PERMIT as stored. -/
  approved : Bool := false
  mirrorPermit : Nat := 0
  tamperSel : Bool := false
  /-- TAMPER_STATUS as the VKEEP domain holds it (R429). -/
  tamper : Nat := 0
  /-- Lowest acceptable firmware version (R422), the version in each flash slot (R424), and the slot that runs. -/
  fwMin : Nat := 0
  fwA : Option Nat := some 0
  fwB : Option Nat := some 0
  fwRun : Bool := false
  /-- BOOT_CTRL.AUTO_START (Table 18.13). -/
  autoStart : Bool := false
  /-- Boot image slots 0 and 1; none when a slot holds no manifest whose signature verifies. -/
  boot0 : Option BootImage := none
  boot1 : Option BootImage := none
  /-- Bits of TAMPER_STATUS that zeroisations without VIN have set since the last start (R429). -/
  zeroPend : Nat := 0
  /-- The storage key, in the VKEEP domain, and the private key of the attestation key pair; none until the first start, and
  once erased (R396, R426, R430). -/
  storageKey : Option (List Byte) := none
  attKey : Option (List Byte) := none
deriving DecidableEq, Repr

/-- A past step of a time scale. -/
structure TimeStep where
  scale : Nat
  cycle : Nat
  gen : Nat
  sum : Int
deriving DecidableEq, Repr

/-- Operational time beside its registers (R768 to R784). -/
structure Clock where
  domA : Dom := {}
  domB : Dom := {}
  /-- R of R780, in 2^-16 ns, and its remainder. -/
  resid : Int := 0
  residRem : Nat := 0
  /-- THE MODEL'S OWN: the sum of the steps of domains A and B and of operational time, in 2^-16 ns (R799). -/
  stepA : Int := 0
  stepB : Int := 0
  stepOp : Int := 0
  /-- Operational step generation (R771). -/
  opGen : Nat := 0
  /-- THE MODEL'S OWN: recent steps, the oldest first, of operational time (0) and domains A (1) and B (2): the cycle, and the step
  generation and the sum of the steps before it, so that a time taken before a step keeps its generation (R773). -/
  past : List TimeStep := []
  switchStart : Nat := 0
  servoFirst : SMap Bool := []
deriving DecidableEq, Repr

/-- A value that an action through the Write Gate returned, as its destination block holds it (R908, R910). -/
structure Passed where
  ring : Nat
  isn : Nat
  addr : Nat
  data : List Byte
  cycle : Nat
deriving DecidableEq, Repr

/-- A completion record that a Clave has made (R911). -/
structure MadeRec where
  ring : Nat
  record : Rec
  cycle : Nat
deriving DecidableEq, Repr

/-- The Claves, the command rings and the Write Gate beside their registers. -/
structure Control where
  /-- The next ISN (R66, R67). -/
  isn : Nat := 1
  rings : SMap RingRt := []
  gateQ : List GateWrite := []
  gateIn : Nat := 0
  gateOut : Nat := 0
  /-- What the Write Gate keeps of the actions it has passed in the last 64 core cycles, oldest first (R908, R910). -/
  passed : List Passed := []
  /-- The completion records of the last 64 core cycles, oldest first (R75, R911). -/
  recent : List MadeRec := []
  /-- Issue (R63, R64), per level, normal and urgent: the ring that has the turn and how many instructions it has issued in
  it; and the slots in a row that the urgent level took while a normal ring was ready. -/
  turnN : Nat := 63
  turnU : Nat := 63
  runN : Nat := 16
  runU : Nat := 16
  urgentRun : Nat := 0
  sasws : List Sasw := []
  /-- The active Clave while MODE names a pair or a diagnosis: false A, true B (R896). -/
  active : Bool := false
  /-- A handover whose duplicate window is open: Clave, cause, first re-executed ISN (R906, R907). -/
  claveWindow : Option (Nat × Nat × Nat) := none
  windowAt : Nat := 0
  /-- The ISN whose outputs the comparator found unequal (R912). -/
  diagIsn : Nat := 0
  /-- What the Claves' watchdog last saw of their progress, and in which core cycle (R899). -/
  wdogKey : Nat := 0
  wdogAt : Nat := 0
  /-- Cycles of the last corrected errors of Clave A (0) and B (1), newest first (R900). -/
  claveCorr : SMap (List Nat) := []
  /-- When the shadow period began, and the next ISN then (R921). -/
  shadowSince : Nat := 0
  shadowCount : Nat := 0
  revertFailsA : Nat := 0
  revertFailsB : Nat := 0
deriving DecidableEq, Repr

/-- The galley, the forme in the making and the associative tables. -/
structure FormeSt where
  /-- The Case and the ASAs (R113). -/
  case : List CaseEnt := []
  asa : List AsaEnt := []
  /-- Repair queues of the 32 ASA copies, ingress 0 to 15 and egress 16 to 31: table and location (R597, R603). -/
  asaRepair : SMap (List (Nat × Nat)) := []
  /-- Locations whose ternary cells differ from the key shadow, by copy: table and location (R596 to R601). -/
  asaBad : SMap (List (Nat × Nat)) := []
  /-- Key-verification sweep (R601): update slots since its pass began, those of them that a bank was not given (key copy × 64 +
  bank), and the last update slot it used, plus 1. -/
  sweepRow : Nat := 0
  sweepLag : SMap Nat := []
  sweepSlot : Nat := 0
  /-- The last update slot that a write or a repair used, plus 1, and what used it: the Write Gate's banks, those of the egress
  ASA numbered from 32 on, and copy × 64 + bank of repair (R102, R595). -/
  slotNo : Nat := 0
  slotGate : List Nat := []
  slotFix : List Nat := []
  /-- Banks of the Case that a lookup reads in a core cycle, and that cycle plus 1 (R103). -/
  caseAt : Nat := 0
  caseBusy : List Nat := []
  galley : List GWrite := []
  galleyCycle : Nat := 0
  pendLock : Option PendLock := none
  /-- Why imposition failed: status, result, entries needed, entries free. -/
  impFail : Option (Status × Nat × Nat × Nat) := none
  formeTodo : List FormeWrite := []
  /-- How many of the owed writes have reached their table or been withdrawn. -/
  formeOut : Nat := 0
  /-- The log of the last lock-up, which catch-up applies to the retired parity. -/
  lastLog : List GWrite := []
  lockCycle : Nat := 0
  /-- TRDs reading the old parity are momentary here; frames are counted from `frames` and `copies`. -/
  drainNs : Nat := 0
deriving DecidableEq, Repr

/-- The event recorder and the change journal. -/
structure Recorder where
  /-- Core cycles of operating time (R963), and the power-cycle count (R965). -/
  opCycles : Nat := 0
  pcycle : Nat := 0
  evQ : List Posting := []
  jrQ : List Posting := []
  windows : List Window := []
  /-- Recorder stores: key = store × 2^20 + slot, value = the 64-byte record as a number. -/
  recs : SMap Nat := []
  dropsReported : Nat := 0
  hoursCell : Nat := 0
  recFailed : Nat := 0
  /-- What RETRY left in the slots of a store that no record has overwritten since: the draw of its test pattern, plus 1; 0 where
  there was no RETRY (R989). -/
  pattern : SMap Nat := []
  /-- Slots of `recs` whose record no longer verifies (R983). -/
  recBadSlots : List Nat := []
  /-- For events posted at most once per interval: key code × 2^40 + unit, value cycle of the last posting + 1. -/
  rate : SMap Nat := []
deriving DecidableEq, Repr

/-- The PCIe side beside its registers. -/
structure HostSt where
  /-- Both links: up, bus-master enable of PF0, MSI-X enable of PF0 and PF1. -/
  linkUp0 : Bool := false
  linkUp1 : Bool := false
  busMaster0 : Bool := false
  busMaster1 : Bool := false
  msixEn : SMap Bool := []
  msixMask : SMap Bool := []
  msixPend : SMap Bool := []
  /-- The division of rings in effect (R1003, R1004). -/
  bifNow : Bool := false
  ringSplitNow : Nat := 60
  frameSplitNow : Nat := 1024
  /-- Upper-half latch per function: key link × 4 + fn, value (offset, upper half). -/
  latch : SMap (Nat × Nat) := []
  /-- AER uncorrectable status bits of the functions: key link × 4 + fn. -/
  aer : SMap Nat := []
deriving DecidableEq, Repr

/-- Frames, copies and the ports. -/
structure PathSt where
  frames : List Frame := []
  copies : List Copy := []
  nextFrame : Nat := 0
  nextCopy : Nat := 0
  /-- Received pause and PFC holds: key port × 16 + class, value the cycle the hold ends (0: none). -/
  holds : SMap Nat := []
  holdStart : SMap Nat := []
  /-- XOFF sent and the cycle of the last one: key port × 16 + class. -/
  xoff : SMap Nat := []
  /-- LINK_HOLD: the cycle it ends, per port; and of each hold that a link-up ended while frames of before it remain, the cycle
  of that link-up plus 1 and the frames dropped as too old since (R333). -/
  linkHold : SMap Nat := []
  linkUpAt : SMap (List (Nat × Nat)) := []
  linkDownAt : SMap Nat := []
  /-- One more than the cycle from which a port's PCS has been aligned with no fault, while LINK_UP_SETTLE runs (R327). -/
  settleAt : SMap Nat := []
  frags : List FragEnt := []
  fragQ : List FragReq := []
  /-- The cycle of the last fragment insert, plus 1 (R476). -/
  fragLast : Nat := 0
  /-- Header slots: the cycle of the last release plus 1, its ingress pipeline and the slots taken in it (R27, R495); whose turn
  it is, of a pipeline's two port blocks (R28), and of a recirculation path's two sources (R25). -/
  hdrCycle : Nat := 0
  hdrPipe : Nat := 0
  hdrUsed : SMap Nat := []
  /-- Front ports whose frame still arriving has its header ready and waits for a slot (R27, R28). -/
  hdrWait : SMap Bool := []
  /-- Egress search slots: the cycle of the last traversal plus 1, and the slots taken in it by egress pipeline (R604, R607). -/
  egrCycle : Nat := 0
  egrUsed : SMap Nat := []
  blockTurn : SMap Nat := []
  entryTurn : SMap Nat := []
  /-- What a port's transmit lanes send without frames: 0 electrical idle (R340, R1088), 1 the remote fault sequence (R339), 2 idle. -/
  txSide : SMap Nat := []
  /-- Auto-negotiation and training of a port have completed (R285, R327). -/
  anDone : SMap Bool := []
  /-- Verification of a port: attempts made and the cycle of the last (R315). -/
  mmTry : SMap (Nat × Nat) := []
  /-- Generated flow control frames of a port that wait for the end of the frame in transmission: class and quanta (R310). -/
  ctlQ : SMap (List (Nat × Nat)) := []
deriving DecidableEq, Repr

/-- A matching delivered for a slot on a plane (R679). -/
structure Matched where
  plane : Nat
  slot : Nat
  pairs : List (Nat × List Nat × Bool)
deriving DecidableEq, Repr

/-- A frame holds an ingress tile's sending side and its cohort's receiving sides on a plane, from the slot of its first cell
(R675). -/
structure SideHold where
  plane : Nat
  src : Nat
  dst : List Nat
  frame : Nat
  start : Nat
  /-- Cells of the frame, 0 while it still arrives (R676). -/
  cells : Nat
  /-- The cycle in which its last octet was written, where it arrived while crossing. -/
  wroteAt : Nat := 0
deriving DecidableEq, Repr

/-- What holds for the rest of the core cycle only: the half-range bits that rose in it (R846), the counters a CCLR cleared in it
with their values before (R847), the performance registers written in it with their values before (R860), and the marks that
sojourns raise at its end (R882, R884); and whether a pool operation has been made in it (R1046). -/
structure NowSt where
  half : List (Nat × Nat) := []
  cleared : List ((Nat × Nat × Nat) × Nat) := []
  /-- The registers and counters as the cycle began, once one has: what a counter has gained since is an increment of this cycle
  (R239). -/
  start : Option (SMap Word × SMap Nat) := none
  perfOld : List (Nat × Word) := []
  marks : List (Nat × Nat) := []
  /-- A pool operation has passed the arbitration point (R1046). -/
  poolOp : Bool := false
deriving DecidableEq, Repr

/-- The switch core and the traffic manager. -/
structure CoreSt where
  /-- Matchings on their way to their slot, oldest first: plane, slot, and pairs of an ingress tile with its cohort and whether it
  presents its multicast request (R679, R682). -/
  matchQ : List Matched := []
  /-- The sides that frames hold, the newest last (R675). -/
  holds : List SideHold := []
  credit : SMap Int := []
  /-- GRANT_PTR, ACCEPT_PTR, FETCH_PTR, VOQ_PTR and MC_TURN (R683), by key class × 2^16 + plane × 64 + index. -/
  ptrs : SMap Nat := []
  /-- V, FIN, LAST_FIN and the copy a tag belongs to, for scheduler and credit engine (R723, R734). -/
  vtime : SMap Nat := []
  /-- Buckets of shapers, policers, storm meters and the snare; an unlisted bucket is full. -/
  buckets : SMap (Option Bucket) := []
  /-- VOQs that are spilling: key egress port × 2^14 + source × 8 + class. -/
  spilling : SMap Bool := []
  /-- VOQs whose deep segment the refill engine is bringing back, by the same key (R700). -/
  refilling : SMap Bool := []
  deepDownAt : Nat := 0
  /-- Operational gate lists: row images of table 0x0640 (R816), and the pending change time in ns. -/
  gateOper : SMap Nat := []
  gateChange : SMap Nat := []
  tsq : SMap (List TsEntry) := []
  tsqRr : Nat := 0
  tsqLostArmed : SMap Bool := []
  tsrIrqArmed : Bool := true
  now : NowSt := {}
deriving DecidableEq, Repr

/-- The learn engine. -/
structure LearnSt where
  learnQ : SMap (List LearnReq) := []
  learnRr : Nat := 0
  flushQ : List FlushReq := []
  /-- The rebalancer's queue (R558). -/
  rebal : List LearnReq := []
  /-- AGE_CLOCK (R560) and the cycle of its last increment. -/
  ageClock : Nat := 0
  ageAt : Nat := 0
  /-- Rotating pointers of the buckets (R1169). -/
  bktPtr : SMap Nat := []
  /-- Writes made to learned entries, by which a flush tells older entries from newer ones (R565). -/
  writes : Nat := 0
  learnIrqArmed : Bool := true
deriving DecidableEq, Repr

/-- State of the DRBG: its working state, requests since it was last seeded, and when that was (text under Table 6.8).
[log 88 DEDUCED] -/
structure Drbg where
  state : List Byte
  requests : Nat
  seededAt : Nat
deriving DecidableEq, Repr

/-- The cryptographic boundary: keys, operators and roles. -/
structure CipherSt where
  /-- DRBG state: none until it is instantiated, and once erased (R396, R398, R426). -/
  drbg : Option Drbg := none
  keks : SMap (List Byte) := []
  saKeys : SMap SaKey := []
  /-- SA state beside its registers: a receive SA that has accepted a frame since its KLOAD (R264). -/
  saUsed : SMap Bool := []
  saRetireAt : SMap Nat := []
  operators : List Operator := []
  challenge : SMap (List Byte) := []
  /-- The role bound to a mailbox channel: operator identity × 256 + role (R404). -/
  mbxRole : SMap Nat := []
  /-- Board-loop mismatches in a row, loops A (0) and B (1) (R1136). -/
  loopMiss : SMap Nat := []
deriving DecidableEq, Repr

/-- The management processor, maintenance and observation. -/
structure MpSt where
  /-- The MP runs: from LOAD on, but while it restarts (R943, R1092). -/
  mpUp : Bool := false
  mpRestartAt : Nat := 0
  /-- The last payloads SERVO_CFG and TELEMETRY_CFG accepted (R936). -/
  servoCfg : List Byte := []
  telemetryCfg : List Byte := []
  maintRun : List Maint := []
  maintQ : List Maint := []
  maintHeld : List Maint := []
  /-- The temperature of an HBM3E stack at its last training, in 1/16 degree, once a sample has told it (R953). -/
  hbmTemp : SMap (Option Nat) := []
  /-- The core cycle of the last shed step taken or undone (R940, R941). -/
  shedAt : Nat := 0
  peals : SMap Peal := []
  mirrorCount : SMap Nat := []
  /-- The core cycle of the last power-on, cold or warm reset, from which PERF_CYCLES counts (R856). -/
  perfBase : Nat := 0
deriving DecidableEq, Repr

/-- An entry of a pool's wait FIFO (R1048): a PALLOC of a command ring, or the receive chain of a host-bound copy. -/
structure PoolWait where
  ring : Option Nat
  copy : Nat := 0
  need : Nat
  /-- Ledger entries of the buffers set aside for it (R1049). -/
  got : List Nat := []
  /-- The PALLOC's destination can be written. -/
  destOk : Bool := true
deriving DecidableEq, Repr

/-- A host-bound copy in the receive path: its ring and pool as of its selection (R1053), and the ledger entries of the
buffers it holds once granted (R1057). -/
structure RxChain where
  copy : Nat
  ring : Nat
  pool : Nat
  bufs : Option (List Nat) := none
deriving DecidableEq, Repr

/-- The pool manager and the frame rings. -/
structure PoolSt where
  /-- The buffer ledger (R1037): OWNER, REFS and STATE by ledger entry; 0 is FREE. -/
  ledger : SMap Nat := []
  /-- The wait FIFO of each pool (R1048). -/
  poolWait : SMap (List PoolWait) := []
  /-- Pools whose INIT_BUSY is 1 (R1032). -/
  poolInit : SMap Bool := []
  /-- Copies in the host receive path, in the order of their selection. -/
  rx : List RxChain := []
  txOut : List TxOut := []
  /-- The next slot each transmit ring reads. -/
  txNext : SMap Nat := []
  rxIrqArmed : SMap Bool := []
  txIrqArmed : SMap Bool := []
  /-- Addresses in the on-die cache of each pool (R1035); the other free ones stand in its free store. -/
  cached : SMap Nat := []
  /-- The requester that the arbitration point granted last (R1046): command rings 0 to 63, the receive paths of links 0 and 1,
  the MP receive path, the transmit paths of links 0 and 1. -/
  granted : Nat := 68
  /-- Frees that the transmit paths have yet to make (R1068): ring, first slot of the frame, address. -/
  txFree : List (Nat × Nat × Nat) := []
  /-- The transmit ring that each link's transmit path served last (R1066). -/
  txLast : SMap Nat := []
deriving DecidableEq, Repr

/-- Start-up, power and the package balls. -/
structure PowerSt where
  nv : NvStore := {}
  bootSaving : Option Nat := none
  /-- FAULT_N is asserted (R1120), the cause latched in the VKEEP domain (R1082), and a check has stopped the start (R1091). -/
  fault : Bool := false
  latch : Nat := 0
  stopped : Bool := false
  /-- The cycle at which THERM_N was asserted. -/
  thermSince : Nat := 0
  /-- READY and PG (R1083, R1080). -/
  ready : Bool := false
  pg : Bool := false
  pwrEn : Bool := false
  vinOk : Bool := false
  /-- The level at TAMPER_SEL: tied to VKEEP (R1135). -/
  tamperSel : Bool := false
  /-- Cycles of the corrected errors of a memory instance, newest first (R1118); the cycle of the last correction of a cell
  of packet memory, plus 1, by tile × 2^16 + cell; and its cells to be retired (1) and retired (2) (R1119). -/
  ceTimes : SMap (List Nat) := []
  ceCell : SMap Nat := []
  retired : SMap Nat := []
deriving DecidableEq, Repr

/-- The state of the block: everything the spec gives it, and the queue of waiting commands. -/
structure State where
  /-- Commands waiting, first in, first out. -/
  pending : List Instr := []
  /-- The variant fixed at manufacture (Table 0.1). -/
  variant : Variant := .ex
  /-- DEV_SERIAL, fixed at manufacture. -/
  serial : Word := 0
  /-- THE MODEL'S OWN: how many free values have been drawn (Config.freeValue is applied to it). -/
  fresh : Nat := 0
  /-- Core cycles of elapsed time (625 ps each). -/
  cycle : Nat := 0
  /-- Every register, by BAR0 offset; a register banked per link has its link 1 copy at offset + 2^32. -/
  regs : SMap Word := []
  /-- Counters with no BAR0 register: sets 0x0803, 0x0804 and 0x0806. -/
  ctrs : SMap Nat := []
  /-- Indexed tables, one image per row and parity (R114). -/
  tab0 : SMap Nat := []
  tab1 : SMap Nat := []
  /-- What left the module, newest first. -/
  out : List Output := []
  clk : Clock := {}
  ctl : Control := {}
  forme : FormeSt := {}
  rcd : Recorder := {}
  host : HostSt := {}
  path : PathSt := {}
  core : CoreSt := {}
  learn : LearnSt := {}
  ciph : CipherSt := {}
  mp : MpSt := {}
  pool : PoolSt := {}
  pwr : PowerSt := {}
deriving DecidableEq, Repr

/-- The machine right after power-on reset, before any rail is up: no command waits, and every field stands at the
value the spec states for reset, or at the value the assumption log names. [log 1 DESIGN CHOICE, 3 DESIGN CHOICE] -/
def State.reset : State := {}

/-- Why a step stops with a fault: no command does, so there is no constructor. The spec gives every command an effect in
every state, a command whose event cannot occur changes nothing, and an invalid access is answered on the bus (R1012). -/
inductive Fault where
deriving DecidableEq, Repr

/-- Why a step is refused. -/
inductive Refusal where
  /-- Raised by exec for a command whose meaning is not written. Safe. -/
  | notModelled (mnemonic : String)
deriving DecidableEq, Repr

end Sys2Proof.Machine
end

