-- ==== Sys2Proof/Machine/Ops.lean ====
section
/-! DEFINITION. The named operations every meaning is made of: registers, counters, tables, free values, time,
postings to the recorder, the change journal, interrupts and outputs. -/

namespace Sys2Proof.Machine

-- Registers

/-- The stored value of a register. [log 7 DEDUCED] -/
def rd (s : State) (o : Nat) : Word := smGet resetValue s.regs o

/-- Set a register. [log 7 DEDUCED] -/
def wr (s : State) (o : Nat) (v : Word) : State := { s with regs := smSet resetValue s.regs o v }

/-- A field of a register. -/
def rdF (s : State) (o hi lo : Nat) : Nat := field (rd s o) hi lo

/-- Set a field of a register. -/
def wrF (s : State) (o hi lo v : Nat) : State := wr s o (setField (rd s o) hi lo v)

/-- One bit of a register. -/
def rdB (s : State) (o i : Nat) : Bool := (rd s o).getLsbD i

/-- Set one bit of a register. -/
def wrB (s : State) (o i : Nat) (v : Bool) : State := wrF s o i i (b2n v)

/-- Add to a counter register of `w` bits that sticks at its greatest value (R840). -/
def stickRaw (s : State) (o w n : Nat) : State :=
  wr s o (BitVec.ofNat 64 (min ((rd s o).toNat + n) (2 ^ w - 1)))

/-- Draw a free value: one the spec leaves open. [log 6 DESIGN CHOICE] -/
def draw (s : State) : State × Word := ({ s with fresh := s.fresh + 1 }, Config.freeValue s.fresh)

/-- Put something out of the module. [log 5 DESIGN CHOICE] -/
def emit (s : State) (o : Output) : State := { s with out := o :: s.out }

/-- A counter that has no BAR0 register. -/
def ctrKey (set unit value : Nat) : Nat := set * 2 ^ 24 + unit * 16 + value
def ctr (s : State) (k : Nat) : Nat := smGet (fun _ => 0) s.ctrs k
def setCtr (s : State) (k v : Nat) : State := { s with ctrs := smSet (fun _ => 0) s.ctrs k v }

/-- A half-range bit rises (R840). -/
def raiseHalf (s : State) (half bit_ : Nat) : State :=
  let s := wrB s half bit_ true
  { s with core := { s.core with now := { s.core.now with half := (half, bit_) :: s.core.now.half } } }

/-- Add 1 to a frame counter of 48 bits, which wraps; its half-range bit rises with bit 47 (R839, R840, Table 13.2). -/
def frameCount (s : State) (k half bit_ : Nat) : State :=
  let old := ctr s k
  let s := setCtr s k ((old + 1) % 2 ^ 48)
  if old % 2 ^ 48 = 2 ^ 47 - 1 then raiseHalf s half bit_ else s

/-- The same for a frame counter that a register holds. -/
def frameCountReg (s : State) (o half bit_ : Nat) : State :=
  let old := (rd s o).toNat
  let s := wr s o (BitVec.ofNat 64 ((old + 1) % 2 ^ 48))
  if old % 2 ^ 48 = 2 ^ 47 - 1 then raiseHalf s half bit_ else s

-- Tables

/-- The key of a row in an indexed table. [log 7 DEDUCED] -/
def tkey (table row : Nat) : Nat := table * 2 ^ 20 + row

/-- The image of a row in one parity; every table's reset image is zero (Tables of the owning chapters). [log 77 DEDUCED] -/
def row (s : State) (parity : Bool) (table r : Nat) : Nat :=
  smGet (fun _ => 0) (if parity then s.tab1 else s.tab0) (tkey table r)

/-- Write one parity's copy of a row. -/
def setRow (s : State) (parity : Bool) (table r image : Nat) : State :=
  if parity then { s with tab1 := smSet (fun _ => 0) s.tab1 (tkey table r) image }
  else { s with tab0 := smSet (fun _ => 0) s.tab0 (tkey table r) image }

/-- The live parity (R111). -/
def live (s : State) : Bool := rdB s rFormeStatus 0

/-- A row of the live parity. -/
def liveRow (s : State) (table r : Nat) : Nat := row s (live s) table r

-- The device

def devState (s : State) : Nat := rdF s rDevState 2 0

def stOff : Nat := 0
def stPower : Nat := 1
def stSupervise : Nat := 2
def stSelftest : Nat := 3
def stLoad : Nat := 4
def stTrain : Nat := 5
def stHold : Nat := 6
def stRun : Nat := 7

/-- Tiles present (Table 0.1). -/
def tilePresent (s : State) (t : Nat) : Bool := t < 8 && (s.variant ≠ .hc || t < 4)
def hasCipher (s : State) : Bool := s.variant ≠ .en
def hasDeep (s : State) : Bool := s.variant = .ex || s.variant = .en
def hasDomB (s : State) : Bool := s.variant ≠ .hc

/-- The tile of a port (Table 0.8, R26). -/
def tileOf (p : Nat) : Nat := if p < 256 then p / 32 else if p < 264 then p - 256 else p - 264

/-- A port that exists on this variant (R3): front, recirculation, host or MP. -/
def portPresent (s : State) (p : Nat) : Bool := p < 266 && tilePresent s (tileOf p)

/-- A BAR0 offset of an absent unit (R3 to R5, R349, R836, R1119, R1138, R759). -/
def absentOff (s : State) (o : Nat) : Bool :=
  (s.variant = .hc &&
    ((0x1000000 + 0x10000 * 128 ≤ o && o < 0x2000000) || (0x2400000 ≤ o && o < 0x2800000)
      || (0x800140 ≤ o && o < 0x800180) || (0x801000 + 0x40 * 128 ≤ o && o < 0x801000 + 0x40 * 256)
      || (0x801000 + 0x40 * 260 ≤ o && o < 0x801000 + 0x40 * 264)
      || (0x11000 + 32 * 128 ≤ o && o < 0x11000 + 32 * 256)
      || (0x80000 + 0x100 * 128 ≤ o && o < 0x80000 + 0x100 * 256)
      || (0x80000 + 0x100 * 260 ≤ o && o < 0x80000 + 0x100 * 264)
      || (0xA000 + 16 * 128 ≤ o && o < 0xA000 + 16 * 256) || (0xA000 + 16 * 260 ≤ o && o < 0xA000 + 16 * 264)
      || (0x21000 + 8 * 128 ≤ o && o < 0x21000 + 8 * 256) || (0x21000 + 8 * 260 ≤ o && o < 0x21000 + 8 * 264)
      || (0x3340000 + 0x40 * 128 ≤ o && o < 0x3340000 + 0x40 * 256)
      || (0x3340000 + 0x40 * 260 ≤ o && o < 0x3340000 + 0x40 * 264)
      || (0x3C04000 ≤ o && o < 0x3C08000) || (0x3C18000 ≤ o && o < 0x3C28000)
      || (rPolHalf 512 ≤ o && o < rPolHalf 1024) || (rCellsRetired 4 ≤ o && o < rCellsRetired 8)))
  || (!hasDeep s && ((0x3C2A000 ≤ o && o < 0x3C2B000) || o = rDeepStatus || o = rTemp 18 || o = rTemp 19))
  || (s.variant = .en && 0x3000000 ≤ o && o < 0x3800000)

/-- Which offsets the present start-up state serves (R1085, R1086). [log 53 DEDUCED] -/
def served (s : State) (o : Nat) : Bool :=
  stHold ≤ devState s || (stSelftest ≤ devState s && (o < 0x1000 || (0x3800000 ≤ o && o < 0x3C00000)))

/-- A direct host write reaches a register: served, present, and the link exists. [log 53 DEDUCED] -/
def hostOk (s : State) (link : Bool) (o : Nat) : Bool := served s o && !absentOff s o && (!link || s.host.bifNow)

-- Time

/-- Units of 2^-16 ns in one second. -/
def unitsPerSec : Nat := 65536 * 1000000000

def domOf (s : State) (d : Nat) : Dom := if d = 1 then s.clk.domB else s.clk.domA
def setDom (s : State) (d : Nat) (x : Dom) : State :=
  if d = 1 then { s with clk := { s.clk with domB := x } } else { s with clk := { s.clk with domA := x } }

/-- The domain operational time follows (R769, R770). -/
def opDomain (s : State) : Nat := if hasDomB s then rdF s rTimeStatus 0 0 else 0

/-- Operational time in units of 2^-16 ns: the followed domain's time less the residual (R780). -/
def opTime (s : State) : Nat := ((domOf s (opDomain s)).t - s.clk.resid : Int).toNat

def secOf (t : Nat) : Nat := t / unitsPerSec
def nsOf (t : Nat) : Nat := t / 65536 % 1000000000
def fracOf (t : Nat) : Nat := t % 65536
/-- Whole nanoseconds since the epoch. -/
def nsTotal (t : Nat) : Nat := t / 65536

/-- Word 1 of T128 (Table 0.6). -/
def t128w1 (t gen : Nat) : Nat := nsOf t <<< 32 + fracOf t <<< 16 + gen % 65536

/-- A T128 as 16 octets. -/
def t128Bytes (t gen : Nat) : List Byte := leBytes 8 (secOf t) ++ leBytes 8 (t128w1 t gen)

/-- Seconds and nanoseconds of operational time as one number of nanoseconds; WAITT, LOCKAT and SASW compare
these only (R141, R244, R270). -/
def opNs (s : State) : Nat := nsTotal (opTime s)

/-- T of a block in T128 form, in nanoseconds. [log 108 DESIGN CHOICE] -/
def tNs (sec ns : Nat) : Nat := sec * 1000000000 + ns

/-- Core cycles in a number of nanoseconds (625 ps each), rounded up. -/
def cyclesOfNs (n : Nat) : Nat := (n * 8 + 4) / 5
def nsOfCycles (c : Nat) : Nat := c * 5 / 8
def cyclesPerUs : Nat := 1600
def cyclesPerMs : Nat := 1600000
def cyclesPerSec : Nat := 1600000000

/-- A time of a TS_DOMAIN or PPS DOMAIN selector: 1 A, 2 B, anything else operational, with its step generation. -/
def timeSel (s : State) (d : Nat) : Nat × Nat :=
  if d = 1 then (s.clk.domA.t, rdF s (rDomStatus 0) 63 48)
  else if d = 2 ∧ hasDomB s then (s.clk.domB.t, rdF s (rDomStatus 1) 63 48)
  else (opTime s, s.clk.opGen)

-- Recorder postings and the journal

/-- Octets of event data: values of given widths, packed without gaps and padded with 0 to 20 (Table 15.2). [log 54 DEDUCED] -/
def packData (d : List (Nat × Nat)) : List Byte :=
  let b := d.flatMap (fun x => leBytes x.1 x.2)
  (b ++ List.replicate 20 0).take 20

/-- Operating hours and milliseconds (R963). -/
def hoursOf (c : Nat) : Nat := min (c / (3600 * cyclesPerSec)) (2 ^ 32 - 1)
def msOf (c : Nat) : Nat := c / cyclesPerMs % 3600000

def mkPosting (s : State) (code origin : Nat) (d : List (Nat × Nat)) : Posting :=
  { code := code, origin := origin, data := packData d, hours := hoursOf s.rcd.opCycles, ms := msOf s.rcd.opCycles,
    pcycle := s.rcd.pcycle, optime := opTime s, gen := s.clk.opGen, at_ := s.cycle }

/-- Post an event (R961, R966): when the posting queue is full the posting is dropped and counted. -/
def post (s : State) (code origin : Nat) (d : List (Nat × Nat)) : State :=
  if 8192 ≤ s.rcd.evQ.length then stickRaw s rRecDrop 32 1
  else { s with rcd := { s.rcd with evQ := s.rcd.evQ ++ [mkPosting s code origin d] } }

/-- The origin code of the hardware (R19, R977). [log 55 DEDUCED] -/
def hwOrigin : Nat := 0x4000

/-- Post a hardware event. [log 54 DEDUCED] -/
def postHw (s : State) (code : Nat) (d : List (Nat × Nat)) : State := post s code hwOrigin d

/-- Post an event of some origin at most once per `gap` cycles for a unit. -/
def postRateFrom (s : State) (gap unit code origin : Nat) (d : List (Nat × Nat)) : State :=
  let k := code * 2 ^ 40 + unit
  let l := smGet (fun _ => 0) s.rcd.rate k
  if l = 0 ∨ l + gap ≤ s.cycle + 1 then
    post { s with rcd := { s.rcd with rate := smSet (fun _ => 0) s.rcd.rate k (s.cycle + 1) } } code origin d
  else s

/-- Post a hardware event at most once per `gap` cycles for a unit. [log 54 DEDUCED] -/
def postRate (s : State) (gap unit code : Nat) (d : List (Nat × Nat)) : State := postRateFrom s gap unit code hwOrigin d

/-- Unit ID, unit and position of the counter in a register, as EV_COUNTER_STUCK names it (R842, Table 13.3). -/
def counterName (o : Nat) : Nat × Nat × Nat :=
  if 0x1000000 ≤ o ∧ o < 0x2000000 ∧ 0x1000 ≤ o % 0x10000 ∧ o % 0x10000 < 0x1040 then
    (0x0801, (o - 0x1000000) / 0x10000, (o % 0x10000 - 0x1000) / 8)
  else if 0x11000 ≤ o ∧ o < 0x13000 ∧ o % 32 = 24 then (0x0801, (o - 0x11000) / 32, 8)
  else if 0x801000 ≤ o ∧ o < 0x801000 + 0x40 * 266 ∧ 0x28 ≤ o % 0x40 then (0x0801, (o - 0x801000) / 0x40, 9 + (o % 0x40 - 0x28) / 8)
  else if 0x3340000 ≤ o ∧ o < 0x3340000 + 0x40 * 264 then (0x0801, (o - 0x3340000) / 0x40, 12)
  else if 0x2000000 ≤ o ∧ o < 0x2800000 ∧ 0x4000 ≤ o % 0x100000 ∧ o % 0x100000 < 0x4200 then
    (0x0802, (o - 0x2000000) / 0x100000, (o % 0x100000 - 0x4000) / 8)
  else (0xFFFF, o, 0)

/-- Add to a drop and error counter of `w` bits, which sticks and then posts EV_COUNTER_STUCK once (R839, R842). -/
def stick (s : State) (o w n : Nat) : State :=
  let old := (rd s o).toNat
  let s := stickRaw s o w n
  if w = 32 ∧ old < 2 ^ 32 - 1 ∧ 2 ^ 32 - 1 ≤ old + n then
    let c := counterName o
    postHw s 0x4E01 [(2, c.1), (4, c.2.1), (2, c.2.2)]
  else s

/-- Add 1 to a 32-bit drop and error counter. -/
def bump (s : State) (o : Nat) : State := stick s o 32 1

/-- Journal entries staged: parts 0 (R979). -/
def staged (s : State) : Nat := (s.rcd.jrQ.filter (fun p => p.part = 0)).length

/-- Stage a change-journal entry of one part (R975, R977). -/
def journal (s : State) (kind origin : Nat) (d : List (Nat × Nat)) : State :=
  { s with rcd := { s.rcd with jrQ := s.rcd.jrQ ++ [{ mkPosting s kind origin d with late := decide (1024 ≤ staged s) }] } }

/-- Stage one part of a multi-record entry (R978, R1168). -/
def journalPart (s : State) (kind origin part : Nat) (d : List (Nat × Nat)) : State :=
  { s with rcd := { s.rcd with jrQ := s.rcd.jrQ ++ [{ mkPosting s kind origin d with part := part, late := decide (1024 < staged s) }] } }

/-- The entry of a direct BAR0 write that takes effect (kind 0x0011, R977). -/
def journalDirect (s : State) (origin off : Nat) (v : Word) : State := journal s 0x0011 origin [(8, 0), (4, off), (8, v.toNat)]

-- FAULT_N and ALERT_N

/-- Assert FAULT_N with a cause of Table 18.11; FAULT_CAUSE keeps the first (R1120). -/
def assertFault (s : State) (cause : Nat) : State :=
  let s := if rdF s rFaultCause 3 0 = 0 then wrF s rFaultCause 3 0 cause else s
  { s with pwr := { s.pwr with fault := true } }

/-- ALERT_N is asserted (R1121). -/
def alertOn (s : State) : Bool :=
  s.pwr.fault || (rdF s rErrStatus 12 8 ≠ 0 || rd s rOctetFault ≠ 0#64)
    || rdF s rClaveStatus 10 8 = 5 || rdF s rClaveStatus 10 8 = 6 || rdB s rRecStatus 3

-- Interrupts

/-- The link of device-wide rings and vectors (Table 16.7, R1006). -/
def globalLink (s : State) : Bool := s.host.bifNow && rdB s rHostCfg 40

/-- Raise a vector (R1021 to R1023). -/
def raise (s : State) (link : Bool) (v : Nat) : State :=
  let fn := if v < 512 then 0 else 1
  let e := if v < 512 then v else v - 512
  let k := b2n link * 2 + fn
  if smGet (fun _ => false) s.host.msixEn k then
    if smGet (fun _ => true) s.host.msixMask (k * 4096 + e) then
      { s with host := { s.host with msixPend := smSet (fun _ => false) s.host.msixPend (k * 4096 + e) true } }
    else emit s (.msix link fn e)
  else s

/-- Raise the vector of a register that holds VECTOR [47:37] and IRQ_EN [36]. -/
def raiseReg (s : State) (link : Bool) (o : Nat) : State :=
  if rdB s o 36 then raise s link (rdF s o 47 37) else s

-- Performance counters

/-- Performance counter k of block b adds n events (R858, R859). -/
def perfAdd (s : State) (b k n : Nat) : State :=
  let o := rPerf b (0x80 + 8 * k)
  let v := (rd s o).toNat + n
  let was := rd s (rPerf b 0x10)
  let s := wr s o (BitVec.ofNat 64 (v % 2 ^ 48))
  if v < 2 ^ 48 then s
  else
    let s := wrB s (rPerf b 0x10) k true
    if was = 0#64 then raiseReg s (globalLink s) (rPerf b 8) else s

/-- A performance register as it stood when the core cycle began (R860). -/
def perfSel (s : State) (o : Nat) : Word := ((s.core.now.perfOld.find? (fun x => x.1 = o)).map (·.2)).getD (rd s o)

/-- Event `ev` occurs n times in block b: every enabled counter that selects it counts (R858, R860). [log 52 DESIGN CHOICE] -/
def perf (s : State) (b ev n : Nat) : State :=
  (List.range 8).foldl
    (fun s k => if (perfSel s (rPerf b 8)).getLsbD k ∧ field (perfSel s (rPerf b (0x40 + 8 * k))) 15 0 = ev then perfAdd s b k n else s) s

-- Rings of the host and the MP

/-- The owner of command ring n (R48, R1003). -/
def ringOwner (s : State) (n : Nat) : Agent :=
  if 60 ≤ n then .mp else .host (s.host.bifNow && decide (min s.host.ringSplitNow 60 ≤ n))

/-- Bus Master Enable of the PF0 of an owner's link; the MP's path needs none (R100). -/
def busMaster (s : State) : Agent → Bool
  | .host false => s.host.busMaster0
  | .host true => s.host.busMaster1
  | .mp => true

/-- Set ACCESS_STATUS and ACCESS_ADDR, and post EV_ACCESS_ERR when a bit becomes 1 (Table 16.5, R1017). -/
def accessErr (s : State) (link : Bool) (bit_ off : Nat) : State :=
  let was := rdB s rAccessStatus bit_
  let s1 := wr (wrB s rAccessStatus bit_ true) rAccessAddr (BitVec.ofNat 64 (off % 2 ^ 26 + b2n link <<< 56))
  if was then s1
  else postRate s1 cyclesPerSec 0 0x4C04 [(8, (rd s1 rAccessStatus).toNat), (8, (rd s1 rAccessAddr).toNat)]

def accBadRead : Nat := 0
def accBadWrite : Nat := 1
def accNarrowRs : Nat := 2
def accKeyErr : Nat := 3
def accForeign : Nat := 4

/-- A command that finds the machine as its event cannot find it leaves it as it is. [log 4 DESIGN CHOICE] -/
def onlyIf (c : Bool) (s t : State) : State := if c then t else s

end Sys2Proof.Machine
end

