-- ==== Sys2Proof/Machine/Summary.lean ====
section
/-! DEFINITION. The interrupt summary and the vector it raises (chapter Host Interface and Register Map), with the pool
conditions it shows. -/

namespace Sys2Proof.Machine

-- Ledger entries (R1037)

def lsFree : Nat := 0
def lsReserved : Nat := 1
def lsInUse : Nat := 2
def lsLost : Nat := 3

def ledger (s : State) (e : Nat) : Nat := smGet (fun _ => 0) s.pool.ledger e
def setLedger (s : State) (e v : Nat) : State :=
  { s with pool := { s.pool with ledger := smSet (fun _ => 0) s.pool.ledger e v } }
def leState (v : Nat) : Nat := bits v 1 0
def leRefs (v : Nat) : Nat := bits v 7 2
def leOwner (v : Nat) : Nat := bits v 15 8
def leMake (owner refs st : Nat) : Nat := owner * 256 + refs * 4 + st

-- Pools (R1029, Table 17.7)

def poolEnabled (s : State) (k : Nat) : Bool := rdB s (rPoolCfg k) 63
def poolRegion (s : State) (k : Nat) : Nat := rdF s (rPoolCfg k) 62 61
def poolSize (s : State) (k : Nat) : Nat := 256 * rdF s (rPoolCfg k) 60 52
def poolLedger (s : State) (k : Nat) : Nat := rdF s (rPoolCfg k) 51 32
def poolCount (s : State) (k : Nat) : Nat := rdF s (rPoolCfg k) 20 0
def poolBase (s : State) (k : Nat) : Nat := (rd s (rPoolBase k)).toNat
def poolFaulted (s : State) (k : Nat) : Bool := rdB s (rPoolStatus k) 62
def poolBusy (s : State) (k : Nat) : Bool := smGet (fun _ => false) s.pool.poolInit k
def poolFifo (s : State) (k : Nat) : List PoolWait := smGet (fun _ => []) s.pool.poolWait k
def setFifo (s : State) (k : Nat) (l : List PoolWait) : State :=
  { s with pool := { s.pool with poolWait := smSet (fun _ => []) s.pool.poolWait k l } }

/-- Ledger entries of pool k that are not FREE, in order. -/
def poolTaken (s : State) (k : Nat) : List Nat :=
  (s.pool.ledger.map (fun x => x.1)).filter (fun e => poolLedger s k ≤ e && e < poolLedger s k + poolCount s k)

/-- FREE of POOL_STATUS_k (Table 17.8). [log 67 DEDUCED] -/
def poolFree (s : State) (k : Nat) : Nat := poolCount s k - (poolTaken s k).length

/-- A word whose bits are the values of a predicate below `n`. -/
def maskWord (n : Nat) (p : Nat → Bool) : Nat := (List.range n).foldl (fun m i => if p i then m + 2 ^ i else m) 0

-- Boot slots (R1099)

/-- The newest boot image: its slot. -/
def newestBoot (s : State) : Option Nat :=
  match s.pwr.nv.boot0, s.pwr.nv.boot1 with
  | none, none => none
  | some _, none => some 0
  | none, some _ => some 1
  | some a, some b => some (if a.seq < b.seq then 1 else 0)

def bootSlot (s : State) (k : Nat) : Option BootImage := if k = 1 then s.pwr.nv.boot1 else s.pwr.nv.boot0

def setBootSlot (s : State) (k : Nat) (x : Option BootImage) : State :=
  { s with pwr := { s.pwr with nv := if k = 1 then { s.pwr.nv with boot1 := x } else { s.pwr.nv with boot0 := x } } }

/-- SAVE_SEQ of the newest image, 0 when there is none. -/
def newestSeq (s : State) : Nat := ((newestBoot s).bind (bootSlot s)).elim 0 (fun x => x.seq)

-- The interrupt summary (Table 16.9)

/-- RING_PENDING (Table 16.5). -/
def ringPending (s : State) : Nat := maskWord 60 (fun n => rd s (rCqTail n) ≠ rd s (rCqHead n))

/-- PORT_EVENTS with its two derived bits (Table 5.14). -/
def portEvents (s : State) (p : Nat) : Nat :=
  (rd s (rPortEvents p)).toNat
    + (if rd s (rStatHalf p 0) ≠ 0#64 ∨ rd s (rStatHalf p 1) ≠ 0#64 then 8 else 0)
    + (if rd s (rStatWrap p 0) ≠ 0#64 ∨ rd s (rStatWrap p 1) ≠ 0#64 then 16 else 0)

/-- PORT_PENDING_w (Table 16.5). -/
def portPending (s : State) (w : Nat) : Nat :=
  maskWord 64 (fun i => portEvents s (64 * w + i) &&& (rd s (rPortIrqEn (64 * w + i))).toNat ≠ 0)

/-- A pool's summary condition (Table 17.6). -/
def poolTrouble (s : State) (k : Nat) : Bool :=
  rdF s (rPoolStatus k) 62 60 ≠ 0 || (poolEnabled s k && decide (poolFree s k < rdF s (rPoolLow k) 20 0))

/-- Some PF1 ring has FAULT or DB_ERR set. -/
def frTrouble (s : State) (tx : Bool) : Bool :=
  s.regs.any (fun x => decide (rFr tx 0 0x20 ≤ x.1) && decide (x.1 < rFr tx 1024 0) && x.1 % 0x40 = 0x20
    && (x.2.getLsbD 8 || x.2.getLsbD 9))

/-- POOL_SUMMARY (Table 17.6). -/
def poolSummary (s : State) : Nat :=
  maskWord 16 (poolTrouble s) + b2n (frTrouble s false) * 2 ^ 16 + b2n (frTrouble s true) * 2 ^ 17

/-- TAMPER_LATCHED (Table 6.12). -/
def tamperLatched (s : State) : Bool := rdF s rTamperStatus 3 0 ≠ 0

/-- The link of a command ring and of a mailbox channel (Table 16.7; channels 0 to 3 belong to link 0 in two-link mode). -/
def ringOfLink (s : State) (l : Bool) (n : Nat) : Bool := ringOwner s n = .host l

/-- The link that owns mailbox channel c (R1003). -/
def mbxLink (s : State) (c : Nat) : Bool := s.host.bifNow && decide (4 ≤ c)

/-- IRQ_SUMMARY of a link (R1024, Table 16.9). -/
def irqSummary (s : State) (l : Bool) : Nat :=
  maskWord 15 (fun i =>
    if i = 0 then (List.range 60).any (fun n => ringOfLink s l n && rd s (rCqTail n) ≠ rd s (rCqHead n))
    else if i = 1 then rdF s rLearnTail 16 0 ≠ rdF s rLearnHead 16 0
    else if i = 2 then rdF s rTsrTail 12 0 ≠ rdF s rTsrHead 12 0
    else if i = 3 then (List.range 4).any (fun w => portPending s w ≠ 0)
    else if i = 4 then (List.range 16).any (fun k =>
      rdF s (rPeal k 0x40) 16 0 ≠ rdF s (rPeal k 0x38) 16 0 || rdF s (rPeal k 0x48) 2 1 ≠ 0)
    else if i = 5 then (List.range 43).any (fun b => rdF s (rPerf b 0x10) 7 0 ≠ 0)
    else if i = 6 then (List.range 8).any (fun c => mbxLink s c == l && rdF s (rMbxStatus c) 3 2 ≠ 0)
    else if i = 7 then rdB s rRecStatus 4
    else if i = 8 then poolSummary s ≠ 0
    else if i = 9 then 2 ≤ rdF s rClaveStatus 10 8
    else if i = 10 then 2 ≤ rdF s rCipherStatus 2 0 || tamperLatched s
    else if i = 11 then rdB s rMpStatus 0
    else if i = 12 then rdF s rAccessStatus 4 0 ≠ 0
    else if i = 13 then rdB s rHostStatus 40
    else alertOn s)

/-- IRQ_SUMMARY AND IRQ_ENABLE of a link is not 0, while IRQ_CTRL.EN is 1 (R1025). -/
def summaryOn (s : State) (l : Bool) : Bool :=
  (rd s (banked l rIrqEnable) &&& BitVec.ofNat 64 (irqSummary s l)) ≠ 0#64

/-- Raise IRQ_CTRL.VECTOR of a link. -/
def raiseSummary (s : State) (l : Bool) : State := raise s l (rdF s (banked l rIrqCtrl) 47 37)

/-- R1025 for a link: the enabled summary passes from 0 in `s` to another value in `t`. -/
def linkEdge (s : State) (l : Bool) (t : State) : State :=
  if rdB t (banked l rIrqCtrl) 36 ∧ (l = false ∨ t.host.bifNow) ∧ summaryOn s l = false ∧ summaryOn t l = true then
    raiseSummary t l
  else t

/-- What the command's change from `s` to `t` raises at the root of the summary tree (R1025). -/
def irqEdge (s t : State) : State := linkEdge s true (linkEdge s false t)

/-- The next state of a command that finds `s` and leaves `t`. [log 4 DESIGN CHOICE] -/
def nextOf (s t : State) : Host.Outcome State Fault Refusal := .next (irqEdge s t)

end Sys2Proof.Machine
end

