-- ==== Sys2Proof/Machine/RingOps.lean ====
section
/-! DEFINITION. Command rings: the shared operations of issue, completion, abort, program start and records
(chapter Programming the Device). -/

namespace Sys2Proof.Machine

/-- What the Claves hold of ring n beside its registers. -/
def rt (s : State) (n : Nat) : RingRt := smGet (fun _ => {}) s.ctl.rings n

def setRt (s : State) (n : Nat) (r : RingRt) : State :=
  { s with ctl := { s.ctl with rings := smIns n r s.ctl.rings } }

/-- CR_STATUS.STATE values (Table 2.3). -/
def rsDisabled : Nat := 0
def rsIdle : Nat := 1
def rsRun : Nat := 2
def rsWait : Nat := 3
def rsStopped : Nat := 4
def rsResetting : Nat := 5

def ringState (s : State) (n : Nat) : Nat := rdF s (rCrStatus n) 10 8
def ringEnabled (s : State) (n : Nat) : Bool := rdB s (rCrCtrl n) 0

/-- Slots of ring n (R47). -/
def ringSize (s : State) (n : Nat) : Nat := 2 ^ (rdF s (rCrCtrl n) 27 24 + 8)

/-- The distance from index `a` to index `b` of ring n, modulo twice the ring size. -/
def ringDist (s : State) (n a b : Nat) : Nat := (b + 2 * ringSize s n - a % (2 * ringSize s n)) % (2 * ringSize s n)

def crHead (s : State) (n : Nat) : Nat := rdF s (rCrHead n) 16 0
def crTail (s : State) (n : Nat) : Nat := rdF s (rCrTail n) 16 0
def cqHead (s : State) (n : Nat) : Nat := rdF s (rCqHead n) 16 0
def cqTail (s : State) (n : Nat) : Nat := rdF s (rCqTail n) 16 0

/-- The completion ring is full (R71). -/
def cqFull (s : State) (n : Nat) : Bool := ringDist s n (cqHead s n) (cqTail s n) = ringSize s n

/-- The origin code of an instruction of ring n (R108). -/
def ringOrigin (n : Nat) : Nat := if 60 ≤ n then 0x1000 + n else n

/-- The ring waits for room in its completion ring (R71): the ring is full, and an instruction of a program of the ring or
a record is held up. [log 81 DEDUCED] -/
def waitsRoom (s : State) (n : Nat) : Bool := cqFull s n && ((rt s n).begun || !(rt s n).records.isEmpty)

/-- An instruction that is in execution rather than waiting (R93). -/
def inExec (w : Waiting) : Bool :=
  match w.kind with
  | .exec => true
  | .crd _ _ _ _ _ _ _ _ => true
  | _ => false

/-- Ring n waits or its program has ended: it gives up its turn (R64). -/
def yieldTurn (s : State) (n : Nat) : State :=
  { s with ctl := { s.ctl with
    runU := if s.ctl.turnU = n then 16 else s.ctl.runU
    runN := if s.ctl.turnN = n then 16 else s.ctl.runN } }

/-- CR_STATUS.STATE as the ring's program, wait and completion ring give it (the text under Table 2.3); a ring that waits gives
up its turn (R64). [log 81 DEDUCED, 96 DESIGN CHOICE] -/
def refreshState (s : State) (n : Nat) : State :=
  if ringState s n = rsStopped ∨ ringState s n = rsResetting then s
  else
    let r := rt s n
    let st := if r.waiting.elim false inExec then rsRun
      else if r.waiting.isSome then rsWait
      else if ¬ ringEnabled s n then rsDisabled
      else if waitsRoom s n then rsWait
      else if r.begun then rsRun else rsIdle
    wrF (if st = rsWait then yieldTurn s n else s) (rCrStatus n) 10 8 st

/-- The cycle the ring began to wait on its full completion ring (R110). [log 81 DEDUCED] -/
def stallFrom (s : State) (r : RingRt) : Option Nat := some (r.stallSince.getD s.cycle)

/-- CQ_FULL follows the completion ring (Table 2.3); the stall of R110 is timed from the cycle the ring begins to wait.
[log 81 DEDUCED] -/
def refreshFull (s : State) (n : Nat) : State :=
  let r := rt s n
  if cqFull s n then
    refreshState (setRt (wrB s (rCrStatus n) 4 true) n
      { r with stallSince := if waitsRoom s n then stallFrom s r else none }) n
  else
    refreshState (setRt (wrB s (rCrStatus n) 4 false) n { r with stallSince := none, stallPosted := false }) n

/-- Stop a ring: STATE STOPPED and one status bit (R58 to R61, R1164). -/
def stopRing (s : State) (n bit_ : Nat) : State := wrF (wrB s (rCrStatus n) bit_ true) (rCrStatus n) 10 8 rsStopped

/-- Begin the next program when its END is held, stop a ring that cannot hold one, else stay idle (R57 to R59).
[log 81 DEDUCED] -/
def startProgram (s : State) (n : Nat) : State :=
  let r := rt s n
  if ¬ ringEnabled s n ∨ r.begun ∨ r.waiting.isSome ∨ ringState s n = rsStopped ∨ ringState s n = rsResetting then s
  else
    let e := r.slots.findIdx (fun o => o = opEnd)
    if e < r.slots.length ∧ e < 4096 then
      refreshState (setRt s n { r with
        begun := true, issued := 0, notOk := 0, skipped := 0, firstIsn := 0,
        lastIsn := 0, lastOk := none, abortAfter := none
        stallSince := if cqFull s n then stallFrom s r else r.stallSince }) n
    else if 4096 ≤ r.slots.length ∨ r.slots.length = ringSize s n then
      postHw (stopRing s n 2) 0x8902 [(1, n), (4, crHead s n)]
    else refreshState s n

/-- Take the next ISN (R66). -/
def takeIsn (s : State) : State := { s with ctl := { s.ctl with isn := s.ctl.isn + 1 } }

/-- Move CR_HEAD over `k` slots. -/
def advanceHead (s : State) (n k : Nat) : State :=
  let r := rt s n
  setRt (wrF s (rCrHead n) 16 0 ((crHead s n + k) % (2 * ringSize s n))) n { r with slots := r.slots.drop k }

/-- A record joins those that ring n is to write. [log 92 DEDUCED] -/
def addRec (s : State) (n : Nat) (x : Rec) : State :=
  let r := rt s n
  setRt s n { r with
    records := r.records ++ [x]
    stallSince := if cqFull s n then stallFrom s r else r.stallSince }

/-- Queue a completion record (R69, R72), known for 64 core cycles to a Clave that would write it again (R911).
[log 81 DEDUCED] [log 81 DEDUCED] -/
def queueRec (s : State) (n : Nat) (x : Rec) : State :=
  let s := addRec s n x
  { s with ctl := { s.ctl with
    recent := s.ctl.recent.filter (fun y => decide (s.cycle ≤ y.cycle + 64)) ++ [{ ring := n, record := x, cycle := s.cycle }] } }

/-- End the ring's program: nothing of it remains. -/
def clearProgram (s : State) (n : Nat) : State :=
  let s := yieldTurn s n
  let r := rt s n
  setRt s n { r with
    begun := false, issued := 0, notOk := 0, skipped := 0, firstIsn := 0, lastIsn := 0,
    lastOk := none, abortAfter := none, capHold := false }

/-- Abort the program of ring n (R95): the record takes the next ISN and carries how many instructions did not issue,
`endGone` when END itself was the failing instruction. -/
def abortProgram (s : State) (n evIsn evStatus : Nat) (endGone : Bool) : State :=
  let r := rt s n
  let rem := if endGone then 0 else r.slots.findIdx (fun o => o = opEnd) + 1
  let isn := s.ctl.isn
  let s := queueRec (takeIsn s) n { result := rem, isn := isn, status := statusCode .eAbort, opcode := 0 }
  let s := advanceHead s n rem
  let s := wrF s (rCrStatus n) 63 32 (min (rdF s (rCrStatus n) 63 32 + 1) (2 ^ 32 - 1))
  let s := wrB s (rCrStatus n) 0 true
  let s := postHw s 0x4904 [(1, n), (8, evIsn), (1, evStatus)]
  refreshState (startProgram (clearProgram s n) n) n

/-- The OPCODE field of a record, 7 bits: an opcode that it cannot hold shows as one that the spec leaves open, never 0x00
(R190, R195). [log 101 DESIGN CHOICE] -/
def recOpcode (opcode : Nat) : Nat := if opcode < 128 then opcode else 1 + (Config.recordOpcode opcode).toNat % 127

/-- RPT and CONT of a flags byte (R46). -/
def rptOf (flags : Nat) : Bool := flags.testBit 0
def contOf (flags : Nat) : Bool := flags.testBit 1

/-- Complete an issued instruction of ring n (R69, R91): its record, CR_LAST_ISN, what SKIPIF and END see of it, and
the abort of its program when it failed without CONT (or whatever CONT, when `force`, R83). [log 16 DEDUCED] -/
def completeIns (s : State) (n isn opcode flags : Nat) (st : Status) (result : Nat) (force : Bool) : State :=
  let s := if st ≠ .ok ∨ rptOf flags ∨ opcode = opEnd then
      queueRec s n { result := result, isn := isn, status := statusCode st, opcode := recOpcode opcode }
    else s
  let s := wr s (rCrLastIsn n) (BitVec.ofNat 64 isn)
  let r := rt s n
  let s := setRt s n { r with waiting := none, lastOk := some (st = .ok), notOk := r.notOk + b2n (st ≠ .ok) }
  if st ≠ .ok ∧ (¬ contOf flags ∨ force) then abortProgram s n isn (statusCode st) (opcode = opEnd)
  else
    match r.abortAfter with
    | some (i, c) => abortProgram s n i c (opcode = opEnd)
    | none =>
      if opcode = opEnd then refreshState (startProgram (clearProgram s n) n) n else refreshState s n

/-- What a meaning answers for an instruction that has issued. -/
inductive Verdict where
  /-- It completes with a status and a RESULT. -/
  | done (st : Status) (result : Nat)
  /-- It completes with E_CHECK and its program aborts whatever CONT holds (R83). -/
  | fatal (st : Status) (result : Nat)
  /-- Its ring waits for it. -/
  | wait (k : WaitKind)
  /-- A LOCKAT or SASW has been accepted: the program goes on (R81). -/
  | accepted
deriving DecidableEq, Repr

/-- The Claves issue (R917: not while DIAGNOSING, UNDECIDED, HALTED or RESETTING). -/
def clavesIssue (s : State) : Bool := rdF s rClaveStatus 10 8 < 4

/-- The writes that wait in the Write Gate queue: those withheld, and those of imposition, withdrawal and catch-up that wait
for an update slot or a free cycle (R104). -/
def gateWaiting (s : State) : Nat := s.ctl.gateQ.length + s.forme.formeTodo.length

/-- The owed forme writes that the Write Gate has accepted: its queue holds 1,024 (R105). -/
def formeIn (s : State) : Nat := s.forme.formeOut + min s.forme.formeTodo.length (1024 - s.ctl.gateQ.length)

/-- The Write Gate queue is full (R105). -/
def gateFull (s : State) : Bool := decide (1024 ≤ gateWaiting s)

/-- Instructions that write to the data path through the Write Gate (R105). -/
def dataPathOps : List Nat := [opRw, opRmw, opCclr]

/-- Instructions that write a journal entry (Table 15.3). -/
def journalOps : List Nat := [opLock, opLockat, opGdrop, opRw, opRmw, opCclr, opTset, opTadj, opKload, opKzero, opSasw]

/-- R105 and R979: an instruction that writes the data path or the journal issues only while there is room. [log 10 DEDUCED] -/
def gateRoom (s : State) (opcode : Nat) : Bool :=
  !(dataPathOps.contains opcode && gateFull s) && !(journalOps.contains opcode && decide (960 ≤ staged s))

/-- No capture begins while another ring stands between its QUOIN.C and its next instruction (R89, R871). -/
def captureFree (s : State) (n : Nat) : Bool := (List.range 64).all (fun m => m = n || !(rt s m).capHold)

/-- Ring n could issue an instruction of an opcode: enabled, running, not waiting, the instruction at its head, and room for
what it writes. [log 86 DEDUCED] -/
def couldIssue (s : State) (n opcode : Nat) : Bool :=
  (rt s n).begun && (rt s n).waiting.isNone && ((rt s n).slots.head? == some opcode)
    && ringEnabled s n && (ringState s n == rsRun) && clavesIssue s && busMaster s (ringOwner s n)
    && gateRoom s opcode && (opcode ≠ opCsnap || captureFree s n)

/-- Ring n is ready: it could issue the instruction at its head. -/
def ringReady (s : State) (n : Nat) : Bool := (rt s n).slots.head?.elim false (couldIssue s n)

/-- CR_CTRL.URGENT. -/
def ringUrgent (s : State) (n : Nat) : Bool := rdB s (rCrCtrl n) 8

/-- A level has a ready ring. -/
def levelReady (s : State) (u : Bool) : Bool := (List.range 64).any (fun n => ringUrgent s n == u && ringReady s n)

/-- The level that issues next: urgent first, but every fourth slot to the normal level while both are ready (R63). -/
def issueLevel (s : State) : Bool := levelReady s true && (!levelReady s false || decide (s.ctl.urgentRun < 3))

/-- The ring that issues next: the one that has the turn of its level, for up to 16 instructions, else the next ready ring
after it (R64). [log 86 DEDUCED] -/
def issueNext (s : State) : Option Nat :=
  let u := issueLevel s
  let t := if u then s.ctl.turnU else s.ctl.turnN
  let k := if u then s.ctl.runU else s.ctl.runN
  let ok (n : Nat) : Bool := ringUrgent s n == u && ringReady s n
  if k < 16 ∧ ok t then some t else findFrom 64 ((t + 1) % 64) ok

/-- Ring n issues an instruction of an opcode next. [log 86 DEDUCED] -/
def issueReady (s : State) (n opcode : Nat) : Bool := couldIssue s n opcode && issueNext s == some n

/-- Ring n takes an issue slot of its level (R63, R64). [log 86 DEDUCED] -/
def takeTurn (s : State) (n : Nat) : State :=
  let u := ringUrgent s n
  let k (t r : Nat) : Nat := if t = n ∧ r < 16 then r + 1 else 1
  { s with ctl :=
    if u then { s.ctl with turnU := n, runU := k s.ctl.turnU s.ctl.runU,
                           urgentRun := if levelReady s false then s.ctl.urgentRun + 1 else 0 }
    else { s.ctl with turnN := n, runN := k s.ctl.turnN s.ctl.runN, urgentRun := 0 } }

/-- Issue the instruction at the head of ring n: it takes the next ISN and CR_HEAD moves past it (R66). -/
def issueIns (s : State) (n : Nat) : State :=
  let isn := s.ctl.isn
  let s := perf (advanceHead (takeIsn (takeTurn s n)) n 1) 40 0x0301 1
  let r := rt s n
  setRt s n { r with
    capHold := false, issued := r.issued + 1, lastIsn := isn, firstIsn := if r.firstIsn = 0 then isn else r.firstIsn,
    lastOk := none }

/-- Give an issued instruction its verdict. -/
def settle (s : State) (n isn opcode flags : Nat) : Verdict → State
  | .done st r => completeIns s n isn opcode flags st r false
  | .fatal st r => completeIns s n isn opcode flags st r true
  | .wait k =>
    let w : Waiting := { isn := isn, opcode := opcode, flags := flags, kind := k }
    refreshState (setRt s n { rt s n with waiting := some w }) n
  | .accepted =>
    let r := rt s n
    let s := setRt s n { r with lastOk := some true, waiting := none }
    match r.abortAfter with
    | some (i, c) => abortProgram s n i c false
    | none => refreshState s n

/-- An instruction in execution: what its effect makes fail in its own program aborts that program after it (R91). -/
def inExecution (s : State) (n isn opcode flags : Nat) : State :=
  setRt s n { rt s n with waiting := some { isn := isn, opcode := opcode, flags := flags, kind := .exec } }

/-- Issue an instruction and let its meaning act: `act isn s` answers the state after its effect and its verdict. An
instruction whose effect resets its own ring leaves no record (R98). [log 15 DEDUCED, 86 DEDUCED] -/
def runIns (s : State) (n opcode : Nat) (ins : Ins) (act : Nat → State → State × Verdict) : State :=
  if issueReady s n opcode ∧ ins.opcode = opcode then
    let isn := s.ctl.isn
    let a := act isn (inExecution (issueIns s n) n isn opcode ins.flags)
    if (rt a.1 n).waiting.isSome then settle a.1 n isn opcode ins.flags a.2
    else wr a.1 (rCrLastIsn n) (BitVec.ofNat 64 isn)
  else s

/-- The first failing check, in the order of R1161. [log 11 DEDUCED] -/
def firstFail : List (Bool × Status) → Option Status
  | [] => none
  | (c, st) :: t => if c then some st else firstFail t

/-- Act when no check fails; otherwise complete with the first failing status and RESULT 0, the state unchanged. -/
def guardIns (s : State) (checks : List (Bool × Status)) (act : State → State × Verdict) : State × Verdict :=
  match firstFail checks with
  | some st => (s, .done st 0)
  | none => act s

/-- Post EV_OPERAND_FAULT and complete with E_OPERAND (R186). -/
def operandFault (s : State) (n isn addr : Nat) : State × Verdict :=
  (postHw s 0x4921 [(1, n), (8, isn), (8, addr)], .done .eOperand 0)

/-- Write octets to the memory of ring n's owner (R180, R79). -/
def ownerWrite (s : State) (n addr : Nat) (data : List Byte) : State := emit s (.memWrite (ringOwner s n) addr data)

/-- Write the value that an action through the Write Gate returned, and keep it for a duplicate (R908, R910). [log 92 DEDUCED] -/
def valueWrite (s : State) (n isn addr : Nat) (data : List Byte) : State :=
  let s := ownerWrite s n addr data
  { s with ctl := { s.ctl with
    passed := s.ctl.passed.filter (fun x => decide (s.cycle ≤ x.cycle + 64)) ++ [{ ring := n, isn := isn, addr := addr, data := data, cycle := s.cycle }] } }

/-- Instructions from `isn` on are executed again: the Write Gate drops their actions and hands on the values that the first
copies obtained, so that their destination blocks and completion records are written a second time alike (R75, R908, R910, R911).
[log 92 DEDUCED] [log 92 DEDUCED] -/
def handDuplicates (s : State) (isn : Nat) : State :=
  let s := (s.ctl.recent.filter (fun x => decide (isn ≤ x.record.isn) && decide (s.cycle ≤ x.cycle + 64))).foldl
    (fun s x => addRec s x.ring x.record) s
  (s.ctl.passed.filter (fun x => decide (isn ≤ x.isn) && decide (s.cycle ≤ x.cycle + 64))).foldl
    (fun s x => ownerWrite s x.ring x.addr x.data) s

/-- Complete a LOCKAT or SASW that took effect or failed (R81): a record when R69 calls for one and its ring has not
been reset since (R99), and the abort of its program while that program still runs (R91). [log 16 DEDUCED] -/
def completeTimed (s : State) (n isn opcode flags : Nat) (orphan : Bool) (st : Status) (result : Nat) : State :=
  if orphan then s
  else
    let s := if st ≠ .ok ∨ rptOf flags then
        queueRec s n { result := result, isn := isn, status := statusCode st, opcode := recOpcode opcode }
      else s
    let s := wr s (rCrLastIsn n) (BitVec.ofNat 64 isn)
    let mine := (rt s n).begun && (rt s n).firstIsn ≠ 0 && decide ((rt s n).firstIsn ≤ isn)
    let s := if mine ∧ st ≠ .ok then setRt s n { rt s n with notOk := (rt s n).notOk + 1 } else s
    let r := rt s n
    if st ≠ .ok ∧ ¬ contOf flags ∧ mine then
      if r.waiting.isSome then setRt s n { r with abortAfter := some (isn, statusCode st) }
      else abortProgram s n isn (statusCode st) false
    else s

/-- The octets of a completion record (Table 4.4) with phase bit `ph`. -/
def recBytes (x : Rec) (ph : Bool) : List Byte :=
  leBytes 8 x.result ++ leBytes 6 x.isn ++ leBytes 1 x.status ++ leBytes 1 (b2n ph * 128 + x.opcode % 128)

end Sys2Proof.Machine
end

