-- ==== Sys2Proof/Machine/TimeOps.lean ====
section
/-! DEFINITION. Operational time: the domains' advance, steps, slews, the residual of a domain switch, gate lists
(chapter Operational Time, Timestamps and Timed Forwarding). -/

namespace Sys2Proof.Machine

/-- Units of 2^-16 ns in one core cycle of 625 ps. -/
def unitsPerCycle : Nat := 40960

/-- SLEW_LIMIT of domain d in parts per million (Table 12.8). -/
def slewLimit (s : State) (d : Nat) : Nat := min (max (rdF s (rDomCtrl d) 40 32) 1) 500

/-- Move a signed remainder toward 0 by at most `n`. -/
def toward0 (z : Int) (n : Nat) : Int := if 0 ≤ z then max 0 (z - n) else min 0 (z + n)

/-- Domain d counts against the 10 MHz input (R789): it has not been lost (R790). [log 89 DESIGN CHOICE] -/
def onRef (s : State) (d : Nat) : Bool := rdB s rRefCfg 63 && rdB s rRefCfg d && !rdB s rTimeStatus 6

/-- What domain d counts in this core cycle, in units of 2^-16 ns (R768, R789): the local oscillator's cycle, or the time that
passes by the 10 MHz input meanwhile, which is open. [log 89 DESIGN CHOICE] -/
def domUnits (s : State) (d : Nat) : Nat := if onRef s d then Config.refUnits s.cycle else unitsPerCycle

/-- One core cycle of domain d: its frequency offset (R768, R249) and its slew (R778). -/
def advDom (s : State) (d : Nat) (x : Dom) : Dom :=
  let f := signedOf 64 (rd s (rDomFreq d)).toNat
  let u := domUnits s d
  let num := (u : Int) * f + x.rem
  let den : Int := 65536 * 1000000000
  let inc := (u : Int) + num / den
  let sl := x.slewRem + unitsPerCycle * slewLimit s d
  let step := sl / 1000000
  let left := toward0 x.slew step
  { t := (x.t + inc + (x.slew - left)).toNat
    rem := num % den
    slew := left
    slewRem := if x.slew = 0 then 0 else sl % 1000000 }

/-- One core cycle of elapsed time for the time block (R768, R780). -/
def advTime (s : State) : State :=
  let a := advDom s 0 s.clk.domA
  let b := if hasDomB s then advDom s 1 s.clk.domB else s.clk.domB
  let sl := s.clk.residRem + unitsPerCycle * slewLimit s (opDomain s)
  { s with
    clk := { s.clk with
      domA := a
      domB := b
      resid := toward0 s.clk.resid (sl / 1000000)
      residRem := if s.clk.resid = 0 then 0 else sl % 1000000 } }

-- Gate lists

/-- Entry e of port p's operational list (Table 12.3), words 0 to 3 as one number. -/
def gateEnt (s : State) (p e : Nat) : Nat := smGet (fun _ => 0) s.core.gateOper (p * 1024 + e)

def geInterval (g : Nat) : Nat := max (bits g 31 0) 16
def geGates (g : Nat) : Nat := bits g 40 32
def geOp (g : Nat) : Nat := bits g 43 41
def glBase (g : Nat) : Nat := tNs (bits g 111 64) (bits g 191 160)
def glCycle (g : Nat) : Nat := bits g 159 128
def glEnable (g : Nat) : Bool := g.testBit 255
def glLen (g : Nat) : Nat := bits g 234 224
def glExt (g : Nat) : Nat := bits g 223 192

/-- Which entry of a list holds at offset `off` within a cycle (R816): the last entry stays until the cycle ends. -/
def gateWalk (s : State) (p off : Nat) : Nat → Nat → Nat
  | 0, e => e
  | k + 1, e =>
    let iv := geInterval (gateEnt s p e)
    if off < iv ∨ k = 0 then e else gateWalk s p (off - iv) k (e + 1)

/-- Where the operational time of the lock-up that gave port p its pending change is kept (R821). -/
def kGateLock (p : Nat) : Nat := 9 * 2 ^ 16 + 32 + p

/-- The change of port p's list that is pending comes `z` nanoseconds after a cycle would begin, and that is within CYCLE_EXT: the
cycle does not begin, and the one before it is extended (R826). -/
def gateExtended (s : State) (p : Nat) (z : Int) : Bool :=
  rdB s (rGateStatus p) 62 && decide (0 < z) && decide (z < (glExt (gateEnt s p 0) : Int))

/-- How far port p's operational list is into its cycle (R816), the extension of R826 added: a cycle that began before the
lock-up is not taken back. -/
def gateOff (s : State) (p : Nat) : Nat :=
  let g := gateEnt s p 0
  let c : Int := max (glCycle g) 1
  let off := (((opNs s : Int) - glBase g) % c).toNat
  let start : Int := (opNs s : Int) - off
  let chg : Nat := smGet (fun _ => 0) s.core.gateChange p
  let lock : Nat := smGet (fun _ => 0) s.core.ptrs (kGateLock p)
  if (lock : Int) ≤ start ∧ gateExtended s p ((chg : Int) - start) then off + c.toNat else off

/-- The entry in force on port p at the present operational time. -/
def gateEntryNow (s : State) (p : Nat) : Nat := gateWalk s p (gateOff s p) (glLen (gateEnt s p 0)) 0

/-- Count one event in MAC statistic i of port p, with STAT_HALF and STAT_WRAP (R341 to R343). -/
def macAdd (s : State) (p i n : Nat) : State :=
  let old := rdF s (rMacStat p i) 47 0
  let new := old + n
  let s := wrF s (rMacStat p i) 47 0 (new % 2 ^ 48)
  let s := if ¬ old.testBit 47 ∧ 2 ^ 47 ≤ new then raiseHalf s (rStatHalf p (i / 64)) (i % 64) else s
  if 2 ^ 48 ≤ new then wrB s (rStatWrap p (i / 64)) (i % 64) true else s

/-- Assert or release the hold of port p; each assertion counts in TX_MM_HOLD (R318). -/
def setGateHold (s : State) (p : Nat) (v : Bool) : State :=
  let was := rdB s (rGateStatus p) 61
  let s := wrB s (rGateStatus p) 61 v
  if v ∧ ¬ was then macAdd s p 69 1 else s

/-- Begin entry e on port p (R817). -/
def gateApply (s : State) (p e : Nat) : State :=
  let g := gateEnt s p e
  let s := wrF (wrF s (rGateStatus p) 56 48 (geGates g)) (rGateStatus p) 42 32 e
  if geOp g = 1 then setGateHold s p true else if geOp g = 2 then setGateHold s p false else s

/-- Take the entry that operational time gives (R817, R832). -/
def gateRefresh (s : State) (p : Nat) : State :=
  if rdB s (rGateStatus p) 63 then gateApply s p (gateEntryNow s p) else s

/-- Replace rows of port p in the operational list by those of the live table. -/
def gateCopy (s : State) (p : Nat) : State :=
  let n := max (glLen (liveRow s 0x640 (p * 1024))) (glLen (gateEnt s p 0))
  (List.range (max n 1)).foldl
    (fun s e => { s with
      core := { s.core with
      gateOper := smSet (fun _ => 0) s.core.gateOper (p * 1024 + e) (liveRow s 0x640 (p * 1024 + e)) } }) s

/-- The administrative list of port p becomes operational (R826, R827, R818). -/
def gateTake (s : State) (p : Nat) : State :=
  let s := gateCopy s p
  let s := wrB s (rGateStatus p) 62 false
  let g := gateEnt s p 0
  let s := if geOp g = 1 then s else setGateHold s p false
  if glEnable g then gateApply (wrB s (rGateStatus p) 63 true) p (gateEntryNow (wrB s (rGateStatus p) 63 true) p)
  else
    setGateHold (wrF (wrF (wrB s (rGateStatus p) 63 false) (rGateStatus p) 56 48 0x1FF) (rGateStatus p) 42 32 0) p false

/-- Post EV_GATE_LATE_START (R823, R833). [log 80 DEDUCED] -/
def gateLate (s : State) (p t : Nat) : State :=
  postHw s 0x4801 [(2, p), (8, t / 1000000000), (4, t % 1000000000)]

/-- A lock-up that wrote port p's list fixes its change time (R821 to R823, R828). -/
def gateLockup (s : State) (p : Nat) : State :=
  let g := liveRow s 0x640 (p * 1024)
  let b := glBase g
  let now := opNs s
  let late := b < now
  let c := max (glCycle g) 1
  let t := if late then b + ((now - b) / c + 1) * c else b
  let s := { s with core := { s.core with
    gateChange := smSet (fun _ => 0) s.core.gateChange p t
    ptrs := smSet (fun _ => 0) s.core.ptrs (kGateLock p) now } }
  let s := wr s (rGateChange0 p) (BitVec.ofNat 64 (t / 1000000000))
  let s := wr s (rGateChange1 p) (BitVec.ofNat 64 ((t % 1000000000) <<< 32 + s.clk.opGen))
  let s := wrB s (rGateStatus p) 62 true
  if late then gateLate s p t else s

-- Steps

/-- Ports that hold an operational list or a pending change. -/
def gatePorts (s : State) : List Nat :=
  (List.range 256).filter (fun p => rdB s (rGateStatus p) 63 || rdB s (rGateStatus p) 62)

-- Peal schedules (R866, R878, R879)

def pealOf (s : State) (k : Nat) : Peal := smGet (fun _ => {}) s.mp.peals k
def setPeal (s : State) (k : Nat) (p : Peal) : State :=
  { s with mp := { s.mp with peals := smSet (fun _ => {}) s.mp.peals k p } }

/-- PEAL_PERIOD in nanoseconds. -/
def pealPeriod (s : State) (k : Nat) : Nat := max (rdF s (rPeal k 0x18) 39 0) 1

/-- Give schedule k its next occurrence, in nanoseconds, and show it in PEAL_NEXT. -/
def setPealNext (s : State) (k t : Nat) : State :=
  let s := setPeal s k { pealOf s k with next := t }
  wr (wr s (rPeal k 0x50) (BitVec.ofNat 64 (t / 1000000000))) (rPeal k 0x58) (BitVec.ofNat 64 (t % 1000000000 * 2 ^ 32))

/-- A forward step from `old` to the present time passes over occurrences of schedule k: one capture will stand for them
(R878). [log 18 DEDUCED, 58 DEDUCED] -/
def pealStep (s : State) (k old : Nat) : State × Bool :=
  let p := pealOf s k
  let new := opNs s
  if rdB s (rPeal k 0x48) 0 && decide (old < new) && decide (p.next < new) then
    let n := (new - p.next) / pealPeriod s k
    let last := p.next + n * pealPeriod s k
    (setPealNext (setPeal s k { p with passed := p.passed + n + 1, sched := last }) k (last + pealPeriod s k), true)
  else (s, false)

/-- Operational time has stepped back to `new`: what waits for a later time is pending again, and no longer late (R147, R831). -/
def unpass (s : State) (new : Nat) : State :=
  let ring (s : State) (n : Nat) : State :=
    let r := rt s n
    match r.waiting with
    | some ⟨i, o, f, .waitt sec ns true⟩ =>
      if new < tNs sec ns then setRt s n { r with waiting := some ⟨i, o, f, .waitt sec ns false⟩ } else s
    | _ => s
  let s := (List.range 64).foldl ring s
  let lock (l : PendLock) : PendLock :=
    if l.timed ∧ new < tNs l.sec l.ns then { l with stepLate := false, late := false } else l
  { s with
    forme := { s.forme with pendLock := s.forme.pendLock.map lock }
    ctl := { s.ctl with
      sasws := s.ctl.sasws.map (fun x => if new < tNs x.sec x.ns then { x with stepLate := false } else x) } }

/-- Operational time steps from `old` to the present value: what a forward step passes over is marked late and counted
(R829, R831, R148, R878), gate lists take their new place (R832, R833). [log 18 DEDUCED, 80 DEDUCED] -/
def afterStep (s : State) (old : Nat) (amount : Int) : State :=
  let new := opNs s
  let skips (t : Nat) : Bool := decide (old < t) && decide (t < new)
  let ring (acc : State × Nat) (n : Nat) : State × Nat :=
    let r := rt acc.1 n
    match r.waiting with
    | some ⟨i, o, f, .waitt sec ns _⟩ =>
      if skips (tNs sec ns) then
        (setRt acc.1 n { r with waiting := some ⟨i, o, f, .waitt sec ns true⟩ }, acc.2 + 1)
      else acc
    | _ => acc
  let (s, c) := (List.range 64).foldl ring (s, 0)
  let s := if new < old then unpass s new else s
  let (s, c) := match s.forme.pendLock with
    | some l =>
      if l.timed && skips (tNs l.sec l.ns) then
        ({ s with forme := { s.forme with pendLock := some { l with stepLate := true } } }, c + 1)
      else (s, c)
    | none => (s, c)
  let (s, c) := (List.range 16).foldl (fun (a : State × Nat) k =>
    let r := pealStep a.1 k old
    (r.1, a.2 + b2n r.2)) (s, c)
  let c := c + (s.ctl.sasws.filter (fun x => skips (tNs x.sec x.ns))).length
  let s := { s with
    ctl := { s.ctl with
    sasws := s.ctl.sasws.map (fun x => if skips (tNs x.sec x.ns) then { x with stepLate := true } else x) } }
  let gate (acc : State × Nat) (p : Nat) : State × Nat :=
    let t := smGet (fun _ => 0) acc.1.core.gateChange p
    if rdB acc.1 (rGateStatus p) 62 && skips t then (gateTake (gateLate acc.1 p t) p, acc.2 + 1)
    else (gateRefresh acc.1 p, acc.2)
  let (s, c) := (gatePorts s).foldl gate (s, c)
  if c = 0 then s else postHw s 0x480A [(4, c), (8, toTwos 64 amount)]

/-- The step generation of domain d. -/
def domGen (s : State) (d : Nat) : Nat := rdF s (rDomStatus d) 63 48

/-- The whole second that a PPS output's time, less OFFSET, has reached. -/
def ppsSecond (s : State) (i : Nat) : Int :=
  let c := rd s (rPpsOutCfg i)
  let t := (timeSel s (field c 57 56)).1
  ((t : Int) - signedOf 32 (field c 31 0)) / unitsPerSec

/-- The second of PPS output i is done: no pulse comes for it any more. -/
def ppsDone (s : State) (i : Nat) : State :=
  { s with core := { s.core with ptrs := smSet (fun _ => 0) s.core.ptrs (9 * 2 ^ 16 + 8 + i) ((ppsSecond s i).toNat + 1) } }

/-- After a step of domain d: the outputs that follow it make no pulse for a second boundary jumped over (R788). -/
def ppsStep (s : State) (d : Nat) : State :=
  (List.range 2).foldl (fun s i =>
    let k := rdF s (rPpsOutCfg i) 57 56 % 3
    if k = d + 1 ∨ (k = 0 ∧ opDomain s = d) then ppsDone s i else s) s

/-- A time scale is about to step: what it was is kept while a frame on the wire may have been stamped under it (R773). -/
def notePast (s : State) (k : Nat) : State :=
  let gen := if k = 0 then s.clk.opGen else rdF s (rDomStatus (k - 1)) 63 48
  let sum := if k = 0 then s.clk.stepOp else if k = 1 then s.clk.stepA else s.clk.stepB
  { s with clk := { s.clk with
    past := s.clk.past.filter (fun x => decide (s.cycle < x.cycle + 2 ^ 20)) ++ [{ scale := k, cycle := s.cycle, gen := gen, sum := sum }] } }

/-- Step domain d by a signed amount (R771, R772, R835): its generation increments, EV_TIME_STEP is posted, and
operational time steps with it when it follows d. [log 103 DESIGN CHOICE] -/
def stepDomain (s : State) (d : Nat) (amount : Int) : State :=
  let old := opNs s
  let s := notePast s (d + 1)
  let s := if opDomain s = d then notePast s 0 else s
  let x := domOf s d
  let s := setDom s d { x with t := ((x.t : Int) + amount).toNat }
  let g := (domGen s d + 1) % 65536
  let s := wrF s (rDomStatus d) 63 48 g
  let s := if d = 1 then { s with clk := { s.clk with stepB := s.clk.stepB + amount } }
    else { s with clk := { s.clk with stepA := s.clk.stepA + amount } }
  let s := postHw s 0x0804 [(1, d), (8, toTwos 64 amount), (2, g)]
  if opDomain s = d then
    afterStep (ppsStep { s with clk := { s.clk with opGen := (s.clk.opGen + 1) % 65536, stepOp := s.clk.stepOp + amount } } d) old amount
  else ppsStep s d

/-- The sum of the steps of a TS_DOMAIN selector's time. [log 48 DESIGN CHOICE] -/
def stepSum (s : State) (d : Nat) : Int :=
  if d = 1 then s.clk.stepA else if d = 2 ∧ hasDomB s then s.clk.stepB else s.clk.stepOp

/-- The step generation of a TS_DOMAIN selector's time in a past cycle, and the sum of its steps until then (R773). -/
def timeAt (s : State) (d c : Nat) : Nat × Int :=
  let k := if d = 2 ∧ ¬ hasDomB s then 0 else d
  match s.clk.past.find? (fun x => x.scale = k && decide (c < x.cycle)) with
  | some x => (x.gen, x.sum)
  | none => ((timeSel s d).2, stepSum s d)

/-- Add to the remaining slew of domain d (R778). -/
def slewDomain (s : State) (d : Nat) (amount : Int) : State :=
  let x := domOf s d
  setDom s d { x with slew := x.slew + amount }

/-- How long the remaining slew of domain d lasts, in nanoseconds. [log 17 DEDUCED] -/
def slewNs (s : State) (d : Nat) : Nat := (domOf s d).slew.natAbs * 1000000 / slewLimit s d / 65536

/-- Elapsed, not operational, time passes by one core cycle (Table 12.5's last row and R963). -/
def advCycle (s : State) : State :=
  let s := { s with cycle := s.cycle + 1 }
  if stSupervise ≤ devState s then { s with rcd := { s.rcd with opCycles := s.rcd.opCycles + 1 } } else s

end Sys2Proof.Machine
end

