-- ==== Sys2Proof/Machine/CoreOps.lean ====
section
/-! DEFINITION. Ports, cells and accounts: the shared operations of the port complex, the switch core and the traffic
manager (chapters Lanes, Ports and the MAC; The Switch Core; Scheduling, Shaping and Policing). -/

namespace Sys2Proof.Machine

-- Ports and modes (Table 5.1, Table 5.2)

/-- The size bin of Table 5.7's indices 26 to 35 and 72 to 81. -/
def sizeBin (l : Nat) : Nat :=
  if l ≤ 64 then 0 else if l ≤ 127 then 1 else if l ≤ 255 then 2 else if l ≤ 511 then 3 else if l ≤ 1023 then 4
  else if l ≤ 1518 then 5 else if l ≤ 2047 then 6 else if l ≤ 4095 then 7 else if l ≤ 9216 then 8 else 9

def modeOf (img : Nat) : Nat := bits img 3 0

/-- Lane i of an octet is the lowest lane of a port in a mode (Table 5.1). -/
def lowestLane (mode i : Nat) : Bool :=
  if mode = 1 then i % 8 = 0 else if mode = 2 then i % 4 = 0 else if mode = 3 then i % 2 = 0
  else decide (4 ≤ mode) && decide (mode ≤ 8)

def octetImage (s : State) (n : Nat) : Nat := liveRow s 0x600 n
def portMode (s : State) (p : Nat) : Nat := modeOf (octetImage s (p / 8))

/-- A front port number is active (R279). -/
def portActive (s : State) (p : Nat) : Bool := p < 256 && portPresent s p && lowestLane (portMode s p) (p % 8)
def portEn (s : State) (p : Nat) : Bool := (octetImage s (p / 8)).testBit (16 + p % 8)
def mmEn (s : State) (p : Nat) : Bool := (octetImage s (p / 8)).testBit (24 + p % 8)

/-- Rate of a mode in Mb/s (Table 5.1). -/
def modeRate (m : Nat) : Nat :=
  if m = 1 then 1600000 else if m = 2 then 800000 else if m = 3 then 400000 else if m = 4 then 200000
  else if m = 5 then 100000 else if m = 6 then 50000 else if m = 7 then 25000 else if m = 8 then 10000 else 0

/-- The rate of a port in Mb/s (R689). -/
def portRate (s : State) (p : Nat) : Nat := if p < 256 then modeRate (portMode s p) else 800000

def linkUp (s : State) (p : Nat) : Bool := 256 ≤ p || rdB s (rPortStatus p) 0
def inLinkHold (s : State) (p : Nat) : Bool := p < 256 && rdB s (rPortStatus p) 11

/-- The security boundary holds a front or recirculation port at electrical idle: ERROR in approved mode (R417). -/
def lanesIdle (s : State) (p : Nat) : Bool := p < 264 && rdF s rCipherStatus 2 0 = 2 && rdB s rCipherMode 0

/-- PORT_CFG.MAX_LEN of a front port, 16,383 for other ports (Table 5.9, R649). -/
def maxLen (s : State) (p : Nat) : Nat := if p < 256 then max (rdF s (rPortCfg p) 13 0) 1518 else 16383

/-- FC_MODE (Table 5.12: 3 acts as 0). -/
def fcMode (s : State) (p : Nat) : Nat := let m := rdF s (rFcCfg p) 1 0; if m = 3 then 0 else m
def pfcEn (s : State) (p c : Nat) : Bool := (rdF s (rFcCfg p) 15 8).testBit c

/-- PORT_STATUS bit i of RX_PAUSED or TX_XOFF. -/
def rxPaused (s : State) (p c : Nat) : Bool := p < 256 && rdB s (rPortStatus p) (24 + c)
def txXoff (s : State) (p c : Nat) : Bool := p < 256 && rdB s (rPortStatus p) (32 + c)

/-- A queue is held by received pause or PFC (R301 to R305): QT (8) only under PAUSE. -/
def queueHeld (s : State) (p q : Nat) : Bool :=
  p < 256 && (if q = 8 then fcMode s p = 1 && rdF s (rPortStatus p) 31 24 = 255 else rxPaused s p q)

-- Pipelines (R20 to R26)

/-- Ingress pipeline of a frame that enters at a port: R21, R23 (flow hash of the previous pass), R24. -/
def ingressPipe (p hash : Nat) : Nat :=
  if p < 256 then 2 * (p / 32) + p / 16 % 2
  else if p < 264 then 2 * (p - 256) + hash % 2
  else if p = 264 then 0 else 3

/-- Egress pipeline of a front port (R22). -/
def egressPipe (p : Nat) : Nat := 2 * (p / 32) + p / 16 % 2

/-- The egress pipeline of a copy (R22, R607): a port that no port block serves takes the one its flow hash names. -/
def copyPipe (p h : Nat) : Nat := if p < 256 then egressPipe p else 2 * tileOf p + h % 2

/-- The ingress tile of a frame that enters at a port (R24). -/
def ingressTile (p : Nat) : Nat := if p < 256 then p / 32 else if p < 264 then p - 256 else if p = 264 then 0 else 1

-- Frames and copies

def findFrame (s : State) (id : Nat) : Option Frame := s.path.frames.find? (fun f => f.id = id)
def findCopy (s : State) (id : Nat) : Option Copy := s.path.copies.find? (fun c => c.id = id)

def setFrames (s : State) (l : List Frame) : State := { s with path := { s.path with frames := l } }
def setCopies (s : State) (l : List Copy) : State := { s with path := { s.path with copies := l } }

def putFrame (s : State) (f : Frame) : State := setFrames s (s.path.frames.map (fun x => if x.id = f.id then f else x))
def putCopy (s : State) (c : Copy) : State := setCopies s (s.path.copies.map (fun x => if x.id = c.id then c else x))

/-- Add a frame with the next frame number. -/
def addFrame (s : State) (f : Frame) : State :=
  { s with path := { s.path with
    frames := s.path.frames ++ [{ f with id := s.path.nextFrame }]
    nextFrame := s.path.nextFrame + 1 } }

def addCopy (s : State) (c : Copy) : State :=
  { s with path := { s.path with
    copies := s.path.copies ++ [{ c with id := s.path.nextCopy }]
    nextCopy := s.path.nextCopy + 1 } }

/-- A frame's cells return once no copy and no egress tile still needs them (R664, R685), its last octet has arrived and
its ICV is decided. -/
def reapFrame (s : State) (id : Nat) : State :=
  if s.path.copies.any (fun c => c.frame = id) then s
  else setFrames s (s.path.frames.filter (fun f => !(f.id = id && f.stage = .held && f.mask = 0 && !f.receiving && !f.icvPending)))

/-- CORE_STATUS.MODE: VOQ mode in effect (R654). -/
def voqMode (s : State) : Bool := rdB s rCoreStatus 0

/-- CORE_CTRL.MODE takes effect (R654); a mode other than the last one in effect posts EV_CORE_MODE (Table 10.12).
[log 82 DEDUCED] -/
def takeMode (s : State) : State :=
  let o := b2n (voqMode s)
  let n := b2n (rdB s rCoreCtrl 0)
  let s := wrB s rCoreStatus 0 (rdB s rCoreCtrl 0)
  if o = n then s else postHw s 0x0607 [(1, o), (1, n)]

/-- A copy that still needs its frame's cells in the slice. -/
def copyInSlice (s : State) (c : Copy) : Bool :=
  c.cutting || c.stage = .queued || c.stage = .staged || c.stage = .crossing || (c.stage = .selected && !voqMode s)

/-- The frame's cells return to their region once its last copy has crossed, spilled or been dropped (R664). -/
def releaseCells (s : State) (id : Nat) : State :=
  if s.path.copies.any (fun c => c.frame = id && copyInSlice s c) then s
  else setFrames s (s.path.frames.map (fun f => if f.id = id ∧ f.mask = 0 then { f with charge := 0, cellIdx := [] } else f))

/-- Note something about the transmit-ring frame that a frame came from (R1069). [log 49 DEDUCED] -/
def txMark (s : State) (frame : Nat) (u : TxOut → TxOut) : State :=
  match (findFrame s frame).bind (fun f => f.origin) with
  | none => s
  | some (r, i) => { s with pool := { s.pool with
      txOut := s.pool.txOut.map (fun x => if x.ring = r ∧ x.first = i then u x else x) } }

/-- The cause of a frame's first drop (R1069). -/
def txCause (s : State) (frame k : Nat) : State := txMark s frame (fun x => { x with cause := some (x.cause.getD k) })

/-- A copy is still in its port's queues, its VOQs included. -/
def inQueues (s : State) (c : Copy) : Bool :=
  c.stage = .queued || c.stage = .staged || c.stage = .deep || (voqMode s && (c.stage = .crossing || c.stage = .egress))

/-- EV_LINK_AGED once the last frame enqueued before link-up has left the queues, when one was dropped (R333). -/
def agedDone (s : State) (p : Nat) : State :=
  let l := smGet (fun _ => []) s.path.linkUpAt p
  let left (x : Nat × Nat) : Bool := s.path.copies.any (fun c => c.port = p && inQueues s c && decide (c.enq < x.1))
  let s := { s with path := { s.path with linkUpAt := smSet (fun _ => []) s.path.linkUpAt p (l.filter left) } }
  (l.filter (fun x => !left x && x.2 ≠ 0)).foldl (fun s _ => postHw s 0x0104 [(2, p), (4, (rd s (rPortDrop p 1)).toNat)]) s

/-- The VOQ source index of a frame that enters at a port (R670). -/
def sourceIndex (p : Nat) : Nat := if p < 256 then p else 256 + ingressTile p

def copyPort (s : State) (c : Copy) : Nat := (findFrame s c.frame).elim 0 (fun f => f.port)

/-- The key of a VOQ: egress port, source index, class (R670). -/
def voqKey (e src c : Nat) : Nat := e * 2 ^ 14 + src * 8 + c

def voqSpilling (s : State) (e src c : Nat) : Bool := smGet (fun _ => false) s.core.spilling (voqKey e src c)
def setSpilling (s : State) (e src c : Nat) (v : Bool) : State :=
  { s with core := { s.core with spilling := smSet (fun _ => false) s.core.spilling (voqKey e src c) v } }

/-- The refill engine is bringing this VOQ's deep segment back (R700). -/
def voqRefilling (s : State) (e src c : Nat) : Bool := smGet (fun _ => false) s.core.refilling (voqKey e src c)
def setRefilling (s : State) (e src c : Nat) (v : Bool) : State :=
  { s with core := { s.core with refilling := smSet (fun _ => false) s.core.refilling (voqKey e src c) v } }

/-- The copies of one VOQ, in admission order (R702). -/
def voqCopies (s : State) (e src c : Nat) : List Copy :=
  s.path.copies.filter (fun x => x.port = e && x.cls = c && sourceIndex (copyPort s x) = src
    && (x.stage = .queued || x.stage = .staged || x.stage = .deep))

/-- A VOQ none of whose frames is staged or in the deep store stops spilling (R701). -/
def settleSpill (s : State) (e src c : Nat) : State :=
  if (voqCopies s e src c).any (fun x => x.stage ≠ .queued) then s else setRefilling (setSpilling s e src c false) e src c false

/-- Remove a copy, and the frame once it was the last (R664, R701). -/
def dropCopy (s : State) (c : Copy) : State :=
  let s := txCause s c.frame 1
  let src := sourceIndex (copyPort s c)
  let s := setCopies s (s.path.copies.filter (fun x => x.id ≠ c.id))
  let s := if c.stage = .staged ∨ c.stage = .deep then settleSpill s c.port src c.cls else s
  agedDone (reapFrame (releaseCells s c.frame) c.frame) c.port

/-- The active port that lane j of octet n belongs to (Table 5.1). -/
def lanePort (s : State) (n j : Nat) : Option Nat :=
  let p := (List.range (j + 1)).foldl (fun b i => if lowestLane (portMode s (8 * n)) i then i else b) 0
  if portActive s (8 * n + p) then some (8 * n + p) else none

/-- A lane of port p sends a test pattern (LANE_CFG.PRBS, Table 5.15). -/
def prbsOn (s : State) (p : Nat) : Bool :=
  (List.range 8).any (fun j =>
    let g := rdF s (rLaneCfg (p / 8 * 8) j) 15 12
    decide (1 ≤ g ∧ g ≤ 3) && lanePort s (p / 8) j == some p)

/-- Preemption is active on port p (Table 5.10). -/
def mmActive (s : State) (p : Nat) : Bool := p < 256 && rdB s (rPortStatus p) 17

/-- Update a checksum incrementally at octet `c` by the change of a sum; a UDP checksum of 0 stays 0 (R624). -/
def csumAdd (o : List Byte) (c : Nat) (d : Int) (udp : Bool) : List Byte :=
  let h := beAt o c 2
  if d = 0 ∨ (udp ∧ h = 0) ∨ o.length < c + 2 then o
  else
    let x := ((65535 - h : Int) + d) % 65535
    let v := 65535 - (if x = 0 then 65535 else x.toNat)
    patch o c (beBytes 2 (if udp ∧ v = 0 then 65535 else v))

/-- The octets of a frame that arrive for a copy of it: clear ones as they are, those under a SecY as the cipher unit gives them,
the ICV after the last (R357). `d` is the frame's body as it then stands. -/
def arriveTail (c : Copy) (d : List Byte) : Copy :=
  match c.tailFrom with
  | none => c
  | some k =>
    let d := c.tailCsum.elim d (fun x => csumAdd d x.1 x.2.1 x.2.2)
    let rest := d.drop k
    let add := match c.secRest with
      | none => rest
      | some x =>
        let clear := rest.take c.secClear
        clear ++ (x ++ List.replicate (rest.length + 16) 0).take (rest.length - clear.length + 16)
    let held := match c.tailCsum with
      | some x => if x.1 + 1 = k ∧ ¬ c.enc then c.out.dropLast ++ (d.drop x.1).take 1 else c.out
      | none => c.out
    { c with
      out := held ++ add, clearPart := c.clearPart.map (fun x => (x.1 ++ rest, x.2))
      tailFrom := none, tailCsum := none, secRest := none }

/-- The copy whose octets port p is sending. -/
def lineCopy (s : State) (p : Nat) : Option Copy :=
  s.path.copies.find? (fun c => c.port = p && c.stage = .mac && c.started && !c.preempted)

/-- The preemptable copy of port p that stands preempted. [log 90 DEDUCED] -/
def pausedCopy (s : State) (p : Nat) : Option Copy :=
  s.path.copies.find? (fun c => c.port = p && c.stage = .mac && c.started && c.preempted)

/-- Core cycles that n octets take on the wire of a port. -/
def wireCycles (s : State) (p n : Nat) : Nat := n * 64000 / (5 * max (portRate s p) 1)

/-- Octets of a started copy sent so far, at its port's rate. [log 90 DEDUCED] -/
def sentOctets (s : State) (c : Copy) : Nat :=
  c.sentBase + (if c.preempted then 0 else (s.cycle - c.runAt) * portRate s c.port * 5 / 64000)

/-- Octets that a copy will have sent, FCS included, as far as is known. -/
def wholeOctets (s : State) (c : Copy) : Nat :=
  match c.tailFrom with
  | none => c.out.length + 4
  | some k => c.out.length + ((findFrame s c.frame).elim 0 (fun f => f.len) - k)

/-- R317's point: (1 + ADD_FRAG_SIZE) × 64 octets of the frame have been sent and at least 64 remain. -/
def mayPreempt (s : State) (c : Copy) : Bool :=
  decide ((1 + rdF s (rMmCfg c.port) 17 16) * 64 ≤ sentOctets s c) && decide (sentOctets s c + 64 ≤ wholeOctets s c)

/-- The gate list keeps preemptable frames off the wire: a hold is asserted (R318), or the queue's gate has closed (R820). -/
def preemptHeld (s : State) (c : Copy) : Bool :=
  rdB s (rGateStatus c.port) 61 || !(rdF s (rGateStatus c.port) 56 48).testBit c.queue

/-- A copy of a frame still arriving holds what its egress MAC needs to start: on a port faster than the ingress port,
ceil((1 - Rin / Rout) * MAX_LEN / 256) cells (R693). -/
def macHolds (s : State) (f : Frame) (c : Copy) : Bool :=
  let o := portRate s c.port
  !f.receiving || decide ((o - portRate s f.port) * maxLen s f.port ≤ c.out.length / 256 * 256 * o)

/-- A copy in the MAC may begin transmission (R726): its link is up, its queue not held (R306), it holds what R693 asks, and the
line is free; while preemption is active an express copy may interrupt a preemptable one, and a preemptable one waits for its
stream and for the gate list (R316 to R318). -/
def macReady (s : State) (c : Copy) : Bool :=
  c.stage = .mac && !c.started && linkUp s c.port && !queueHeld s c.port c.queue
    && (findFrame s c.frame).elim true (fun f => f.bad.isNone && macHolds s f c)
    && (match lineCopy s c.port with
        | none => !mmActive s c.port || c.express || ((pausedCopy s c.port).isNone && !rdB s (rGateStatus c.port) 61)
        | some x => mmActive s c.port && c.express && !x.express && mayPreempt s x)

/-- The frames that still arrive at port p end there, bad with a cause of Table 5.5 (R321). -/
def cutOff (s : State) (p cause : Nat) : State :=
  let s := setFrames s (s.path.frames.map (fun f => if f.port = p ∧ f.receiving then
    { f with receiving := false, bad := f.bad.orElse (fun _ => some cause), learn := none } else f))
  setCopies s (s.path.copies.map (fun c => if (findFrame s c.frame).elim false (fun f => f.port = p && f.bad.isSome)
    then arriveTail c [] else c))

/-- Whether the header of the frame arriving at port p waits for a search slot. -/
def setHdrWait (s : State) (p : Nat) (v : Bool) : State :=
  { s with path := { s.path with hdrWait := smSet (fun _ => false) s.path.hdrWait p v } }

/-- A fragment of a copy has left; one that is not the frame's first is a continuation fragment (Table 5.7). -/
def fragSent (s : State) (c : Copy) (o : List Byte) (last : Bool) : State :=
  emit (if c.preempts = 0 then s else macAdd s c.port 68 1) (.fragOut c.port o last)

/-- The MAC preempts a preemptable copy (R317). -/
def preempt (s : State) (c : Copy) : State :=
  let n := sentOctets s c
  putCopy (fragSent s c ((c.out.drop c.sentBase).take (n - c.sentBase)) false)
    { c with preempted := true, sentBase := n, preempts := c.preempts + 1 }

/-- A preempted copy goes on with a continuation fragment. -/
def resume (s : State) (c : Copy) : State := putCopy s { c with preempted := false, runAt := s.cycle }

/-- The last octet of a copy that had been preempted leaves with its final fragment, and the frame counts as preempted (R322, R347). -/
def lastFrag (s : State) (c : Copy) (body : List Byte) : State :=
  if c.preempts = 0 then s else macAdd (fragSent s c (body.drop c.sentBase) true) c.port 70 1

/-- A generated MAC control frame of 64 octets, FCS included (R311). -/
def controlFrame (s : State) (p opcode : Nat) (body : List Byte) : List Byte :=
  let o := beBytes 6 0x0180C2000001 ++ beBytes 6 (rdF s (rFcSa p) 47 0) ++ beBytes 2 0x8808 ++ beBytes 2 opcode ++ body
  let o := o ++ List.replicate (60 - o.length) 0
  o ++ leBytes 4 (crc32 o)

/-- A pause or PFC frame for a class with `q` quanta leaves port p, with its counters (R307 to R311). -/
def controlOut (s : State) (p c q : Nat) : State :=
  let pause := fcMode s p = 1
  let o := if pause then controlFrame s p 0x0001 (beBytes 2 q)
    else controlFrame s p 0x0101 (beBytes 2 (2 ^ c) ++ (List.range 8).flatMap (fun i => beBytes 2 (if i = c then q else 0)))
  let s := emit s (.pauseOut p o)
  let s := macAdd (macAdd (macAdd (macAdd (macAdd (perf s (8 + p / 8) 0x0202 1) p 48 64) p 49 64) p 50 1) p 51 1) p 72 1
  let s := if mmActive s p then macAdd s p 71 1 else s
  let s := if pause then macAdd s p 56 1 else macAdd s p 57 1
  if ¬ pause ∧ 0 < q then macAdd s p (58 + c) 1 else s

/-- The line of port p as a generated frame finds it: free, or freed by preempting the frame in transmission where R317 lets it;
none while it waits (R310, R311). -/
def controlLine (s : State) (p : Nat) : Option State :=
  match lineCopy s p with
  | none => some s
  | some x => if mmActive s p && !x.express && mayPreempt s x then some (preempt s x) else none

def ctlWaiting (s : State) (p : Nat) : List (Nat × Nat) := smGet (fun _ => []) s.path.ctlQ p
def setCtlQ (s : State) (p : Nat) (l : List (Nat × Nat)) : State :=
  { s with path := { s.path with ctlQ := smSet (fun _ => []) s.path.ctlQ p l } }

/-- The generated frames that wait for the line leave ahead of every queued frame (R310, R311). -/
def controlNext (s : State) (p : Nat) : State :=
  if ctlWaiting s p = [] then s
  else (controlLine s p).elim s (fun t => (ctlWaiting s p).foldl (fun s x => controlOut s p x.1 x.2) (setCtlQ t p []))

/-- Generate a pause or PFC frame (R307 to R311); an idle port sends none (R417). -/
def sendControl (s : State) (p c q : Nat) : State :=
  if lanesIdle s p then s else controlNext (setCtlQ s p (ctlWaiting s p ++ [(c, q)])) p

/-- The line of port p goes to the copy that may have it: the gate list and express frames preempt, express frames go first,
then the frame that was preempted, then the next one (R311, R317, R318, R726, R820). -/
def macNext (s : State) (p : Nat) : State :=
  let start (s : State) (x : Bool) : State :=
    match s.path.copies.find? (fun c => c.port = p && c.express == x && macReady s c) with
    | some c =>
      let s := match lineCopy s p with
        | some y => preempt s y
        | none => s
      putCopy s { c with started := true, runAt := s.cycle, txAt := s.cycle }
    | none => s
  if lanesIdle s p then s else
  let s := controlNext s p
  let s := match lineCopy s p with
    | some c => if mmActive s p ∧ ¬ c.express ∧ preemptHeld s c ∧ mayPreempt s c then preempt s c else s
    | none => s
  let s := start s true
  let s := match lineCopy s p, pausedCopy s p with
    | none, some c => if preemptHeld s c ∧ mmActive s p then s else resume s c
    | _, _ => s
  start s false

/-- Remove a frame and all its copies. -/
def removeFrame (s : State) (id : Nat) : State :=
  setFrames (setCopies s (s.path.copies.filter (fun c => c.frame ≠ id))) (s.path.frames.filter (fun f => f.id ≠ id))

-- Cells and accounts (R648, the accounts under R659)

/-- Cells of a frame of L octets (R648). -/
def cellsOf (l : Nat) : Nat := (l + 255) / 256

def sumBy {α : Type} (l : List α) (f : α → Nat) : Nat := l.foldl (fun a x => a + f x) 0

/-- The class an ingress account of port i uses for class c: 0 under PAUSE. -/
def ingressClass (s : State) (i c : Nat) : Nat := if fcMode s i = 1 then 0 else c

def frameCells (s : State) (p : Frame → Bool) : Nat :=
  sumBy (s.path.frames.filter (fun f => f.stage = .held && p f)) (fun f => f.charge)

/-- U(i,c): cells of frames from front port i in class c in the shared and headroom regions. -/
def accU (s : State) (i c : Nat) : Nat :=
  frameCells s (fun f => f.port = i && f.region ≠ 1 && (fcMode s i = 1 || f.dec.tc = c))

/-- H(i,c): their cells in the headroom region. -/
def accH (s : State) (i c : Nat) : Nat :=
  frameCells s (fun f => f.port = i && f.region = 2 && (fcMode s i = 1 || f.dec.tc = c))

/-- S(t), V(t) and the headroom in use of slice t. -/
def accRegion (s : State) (t r : Nat) : Nat := frameCells s (fun f => ingressTile f.port = t && f.region = r)

/-- E(e,c), kept per VOQ in VOQ mode (source `src`), over the copies on die that wait for their crossing; a multicast frame of
VOQ mode uses no egress account (R688). -/
def accE (s : State) (e c src : Nat) : Nat :=
  sumBy (s.path.copies.filter (fun x => x.port = e && x.cls = c && copyInSlice s x && x.stage ≠ .staged
    && (!voqMode s || (!x.multicast && sourceIndex (copyPort s x) = src)))) (fun x => x.charge)

/-- Fields of the admission row (Table 10.4), an instant object. -/
def admRow (s : State) (p c : Nat) : Nat := liveRow s 0x630 (p * 8 + c)
def egLimit (r : Nat) : Nat := min (bits r 63 44) 524288
def headroomOf (r : Nat) : Nat := bits r 43 24
def xoffThr (r : Nat) : Nat := bits r 23 4
def xonThr (r : Nat) : Nat := bits r 127 108
def spillThr (r : Nat) : Nat := bits r 107 88
def refillThr (r : Nat) : Nat := bits r 87 68
def deepLimit (r : Nat) : Nat := bits r 191 164

/-- HR(t) over a table of admission rows and one of port modes: the sum of HEADROOM over the active front ports. -/
def hrOf (adm : Nat → Nat → Nat) (active : Nat → Bool) (t : Nat) : Nat :=
  sumBy ((List.range 32).map (fun k => 32 * t + k))
    (fun p => if active p then sumBy (List.range 8) (fun c => headroomOf (adm p c)) else 0)

def hr (s : State) (t : Nat) : Nat := hrOf (admRow s) (portActive s) t

def globalReserve (s : State) : Nat := rdF s rCoreCtrl 48 32

/-- CELLS_RETIRED_t (R1119). -/
def retiredCells (s : State) (t : Nat) : Nat := rdF s (rCellsRetired t) 10 0

/-- SH(t), the shared region. -/
def sharedSize (s : State) (t : Nat) : Nat := 65536 - retiredCells s t - (globalReserve s + hr s t)

/-- Count in a tile's drop counter k. -/
def tileCount (s : State) (t k : Nat) : State := bump s (rTileCtr t k)

def schedRow (s : State) (p : Nat) : Nat := liveRow s 0x610 p
def qmap (img c : Nat) : Nat := bits img (3 * c + 4) (3 * c + 2)

/-- The class queue of class c on port p (R714). -/
def queueOfClass (s : State) (p c : Nat) : Nat := if p < 264 then (c ^^^ qmap (schedRow s p) c) % 8 else c

/-- The queue a copy enters (R714, R715). -/
def queueFor (s : State) (p c : Nat) (launch : Option Nat) : Nat := if launch.isSome then 8 else queueOfClass s p c

/-- The launch time in ns of a 64-bit launch field: the operational time with those low bits within 2^31 s (R807). -/
def launchNs (s : State) (l : Nat) : Nat :=
  let sec := l / 2 ^ 32 % 2 ^ 32
  let now := secOf (opTime s)
  let base := now / 2 ^ 32 * 2 ^ 32 + sec
  let full := if now + 2 ^ 31 ≤ base ∧ 2 ^ 32 ≤ base then base - 2 ^ 32 else if base + 2 ^ 31 < now then base + 2 ^ 32 else base
  full * 1000000000 + l % 2 ^ 32

/-- LAUNCH_HORIZON in nanoseconds (Table 12.14: 0 acts as 1,000 ms). -/
def launchHorizon (s : State) (p : Nat) : Nat :=
  let h := rdF s (rPortTimeCfg p) 47 32
  (if h = 0 then 1000 else h) * 1000000

/-- Admission or dequeue finds the port usable (R292, R336): a front port active and enabled, its link up or in hold. -/
def portTakes (s : State) (p : Nat) : Bool :=
  portPresent s p && (256 ≤ p || (portActive s p && portEn s p && (linkUp s p || inLinkHold s p)))

/-- A frame leaves queue q: its sojourn raises SOJ_HWM_q and SOJ_HWM_PORT at the end of the core cycle (R883, R884).
[log 59 DEDUCED] -/
def markSojourn (s : State) (c : Copy) : State :=
  let ns := min (nsOfCycles (s.cycle - c.enq)) (2 ^ 48 - 1)
  { s with core := { s.core with now := { s.core.now with
    marks := s.core.now.marks ++ [(rHwm c.port (0x50 + 8 * c.queue), ns), (rHwm c.port 0x98, ns)] } } }

/-- TX_ADJ or RX_ADJ of a port, in 2^-16 ns (R793). -/
def tsAdj (s : State) (p : Nat) (rx : Bool) : Int :=
  if 256 ≤ p then 0 else signedOf 32 (if rx then rdF s (rTsAdj p) 63 32 else rdF s (rTsAdj p) 31 0)

/-- TS_DOMAIN of a port: 3 acts as 0 (Table 12.14). -/
def tsDomain (s : State) (p : Nat) : Nat := rdF s (rPortTimeCfg p) 9 8 % 3

/-- A frame received at a front port with its receive timestamp (R793, R795, R796). [log 48 DESIGN CHOICE] -/
def rxStamp (s : State) (p t : Nat) (f : Frame) : Frame :=
  let x := timeAt s (tsDomain s p) (s.cycle - wireCycles s p f.octets.length)
  { f with rxTime := ((t : Int) + tsAdj s p true).toNat, rxDom := tsDomain s p, rxGen := x.1, rxStep := x.2 }

/-- A mirror copy is dropped (R893). [log 51 DEDUCED] -/
def mirrorDrop (s : State) (m : Nat) : State :=
  let s := bump s (rMirrorDrop m)
  postRate s cyclesPerSec m 0x4E04 [(1, m), (4, (rd s (rMirrorDrop m)).toNat)]

/-- TRUNC octets kept, FCS excluded (R889, Table 13.12). -/
def mirrorTrunc (s : State) (m : Nat) (o : List Byte) : List Byte :=
  let t := rdF s (rMirrorCfg m) 45 32
  if t = 0 then o else o.take (max t 64)

/-- A launch field that drops its frame at QT (R808, R809). -/
def launchBad (s : State) (p l : Nat) : Bool :=
  decide (1000000000 ≤ l % 2 ^ 32) || decide (opNs s + launchHorizon s p < launchNs s l)

/-- Discard the frames a port has queued (R335, R705, R736): counted in LINK_FLUSH, credit set to 0. `cause` 0 hold
expired, 1 LINK_HOLD 0. -/
def flushPort (s : State) (p cause : Nat) : State :=
  let gone := s.path.copies.filter (fun c => c.port = p &&
    (c.stage = .queued || c.stage = .staged || c.stage = .deep || c.stage = .egress || c.stage = .selected || c.stage = .crossing
      || (c.stage = .mac && !c.started)))
  let s := stick s (rPortDrop p 0) 32 gone.length
  let s := gone.foldl dropCopy s
  let s := (List.range 8).foldl (fun s c => { s with core := { s.core with
    credit := smSet (fun _ => 0) s.core.credit (p * 8 + c) 0 } }) s
  let s := wrB s (rPortEvents p) 2 true
  postHw s 0x4103 [(2, p), (1, cause)]

/-- Queue the flush of a port's learned addresses; a second one merges into a pending one (R329, R334, R288, R564). -/
def flushFdb (s : State) (p : Nat) : State :=
  if s.learn.flushQ.any (fun q => !q.host && q.dest = p) then s
  else { s with learn := { s.learn with
    flushQ := s.learn.flushQ ++ [{ scope := 1, dest := p, bd := 0, host := false, since := s.learn.writes }] } }

/-- A request merged into an operation of the same key (R548): the later destination, an insert staying one, and a refresh
changing nothing else. -/
def mergeReq (q r : LearnReq) : LearnReq :=
  if q.bd = r.bd ∧ q.mac = r.mac then
    { q with dest := r.dest, port := r.port, kind := if q.kind = 0 ∨ r.kind = 2 then q.kind else r.kind } else q

/-- Put a learn request into its tile's queue (R545, R546), or merge it into the unfinished operation of its key (R548).
[log 38 DEDUCED] -/
def queueLearn (s : State) (t : Nat) (r : LearnReq) : State :=
  let q := smGet (fun _ => []) s.learn.learnQ t
  if (s.learn.learnQ.flatMap (fun x => x.2) ++ s.learn.rebal).any (fun q => q.bd = r.bd && q.mac = r.mac) then
    { s with learn := { s.learn with
      learnQ := s.learn.learnQ.map (fun x => (x.1, x.2.map (fun q => mergeReq q r)))
      rebal := s.learn.rebal.map (fun q => mergeReq q r) } }
  else if 512 ≤ q.length then
    let s := tileCount s t 8
    postRate s cyclesPerSec 0 0x4403 [(1, t), (4, (rd s (rTileCtr t 8)).toNat)]
  else { s with learn := { s.learn with learnQ := smSet (fun _ => []) s.learn.learnQ t (q ++ [r]) } }

/-- Set or clear a front port's bit in the member liveness mask (R328, R332). -/
def setLiveness (s : State) (p : Nat) (v : Bool) : State := wrB s (0xC018 + 8 * (p / 64)) (p % 64) v

end Sys2Proof.Machine
end

