-- ==== Sys2Proof/Machine/Parse.lean ====
section
/-! DEFINITION. The parser, its templates and composing sticks, the fragment table and the snare meter (chapter Parsing by
Composing Stick, and the Snare). -/

namespace Sys2Proof.Machine

/-- Word i of a table image. -/
def word (img i : Nat) : Nat := (img >>> (64 * i)) % 2 ^ 64

/-- The W bits that begin at wire bit `b` of the octets; octets past the end read 0 (R447, R455). -/
def wireBits (o : List Byte) (b w : Nat) : Nat :=
  let n := (b % 8 + w + 7) / 8
  (beAt o (b / 8) n >>> (8 * n - b % 8 - w)) % 2 ^ w

-- Templates (Tables 7.2 to 7.4)

def tHdrLen (t : Nat) : Nat := bits t 7 0
def tKind (t : Nat) : Nat := bits t 10 8
def tTypeOff (t : Nat) : Nat := bits t 22 16
def tTypeBit (t : Nat) : Nat := bits t 25 23
def tTypeWidth (t : Nat) : Nat := bits t 29 26 + 1
def tTypeValid (t : Nat) : Bool := t.testBit 30

/-- The valid field descriptors of a template, in order: DEST, width, OFFSET × 8 + BITOFF. -/
def tFields (t : Nat) : List (Nat × Nat × Nat) :=
  (List.range 16).filterMap (fun j =>
    let d := (t >>> (64 * 9 + 32 * j)) % 2 ^ 32
    if d.testBit 31 then some (bits d 9 0, bits d 20 14 + 1, bits d 30 24 * 8 + bits d 23 21) else none)

/-- The transition that a type value selects (R446): the lowest-numbered valid one that matches. -/
def tNext (t v : Nat) : Option Nat :=
  ((List.range 8).find? (fun j => (word t (1 + j)).testBit 39 && (v &&& bits (word t (1 + j)) 31 16) == bits (word t (1 + j)) 15 0)).map
    (fun j => bits (word t (1 + j)) 37 32)

/-- The end, in octets from the base, of what a template's header, fields and type field reach (R453). [log 35 DEDUCED] -/
def tEnd (t : Nat) : Nat :=
  let f := (tFields t).foldl (fun m x => max m ((x.2.2 + x.2.1 + 7) / 8)) (tHdrLen t)
  if tTypeValid t then max f ((tTypeOff t * 8 + tTypeBit t + tTypeWidth t + 7) / 8) else f

/-- The octets from the base that a template reads: its header, fields, type field, the fixed octets of its KIND, `after2` when it follows a KIND 2
template directly (R462), and in native mode the 16 octets of R473. [log 35 DEDUCED] -/
def tReads (t : Nat) (after2 native : Bool) : Nat :=
  let f := tEnd t
  let stored := if native then tHdrLen t + 16 else 0
  if tKind t = 1 then max f (max 20 stored) else if tKind t = 2 then max f 40
  else if tKind t = 3 ∧ after2 then max f (max 8 stored) else f

-- Composing sticks (Table 7.5)

def stickValid (k : Nat) : Bool := k.testBit 51
def stickProfile (k : Nat) : Nat := bits k 57 52
def stickTemplates (k : Nat) : List Nat := (List.range (bits k 50 48 + 1)).map (fun i => bits k (6 * i + 5) (6 * i))

/-- The parse reach of a profile in a parity (R442). [log 35 DEDUCED] -/
def parseReach (s : State) (parity : Bool) (profile : Nat) : Nat :=
  let sticks := (List.range 256).map (fun r => row s parity 0x103 r)
  let mine := sticks.filter (fun k => stickValid k && stickProfile k = profile)
  let native := !(row s parity 0x101 profile).testBit 16
  let deep (k : Nat) : Nat :=
    ((stickTemplates k).foldl (fun (a : Nat × Nat × Bool) t =>
      let img := row s parity 0x102 t
      (a.1 + tHdrLen img, max a.2.1 (a.1 + tReads img a.2.2 native), decide (tKind img = 2))) (0, 0, false)).2.1
  if mine = [] then 256 else min (max ((mine.foldl (fun m k => max m (deep k)) 0 + 63) / 64 * 64) 64) 256

/-- The profile of an ingress port (R441). -/
def parseProfile (s : State) (parity : Bool) (p : Nat) : Nat :=
  (findBelow 64 (fun n => (row s parity 0x101 n).testBit (64 + p))).getD 0

/-- The reach that the header gather applies (R31). -/
def gatherReach (s : State) (p : Nat) : Nat :=
  max (parseReach s false (parseProfile s false p)) (parseReach s true (parseProfile s true p))

/-- FRAG_HOLD_US in cycles (Table 7.1). -/
def fragHold (prof : Nat) : Nat := (if bits prof 63 48 = 0 then 2000 else bits prof 63 48) * cyclesPerUs

-- The fragment table (R471 to R478)

/-- The set of a key (R472). -/
def fragSet (key : List Byte) : Nat := crc32c key % 4096

/-- The fragment key of an IPv4 header at a base, and of an IPv6 fragment header whose IPv6 header lies at `b6` (Table 7.10). -/
def fragKey4 (o : List Byte) (b : Nat) : List Byte :=
  beBytes 1 4 ++ slice o (b + 9) 1 ++ beBytes 4 0 ++ slice o (b + 4) 2 ++ beBytes 12 0 ++ slice o (b + 12) 4
    ++ beBytes 12 0 ++ slice o (b + 16) 4
def fragKey6 (o : List Byte) (b6 b : Nat) : List Byte :=
  beBytes 1 6 ++ slice o b 1 ++ beBytes 2 0 ++ slice o (b + 4) 4 ++ slice o (b6 + 8) 16 ++ slice o (b6 + 24) 16

/-- The entry a lookup sees: visible from the cycle after its insertion (R478). -/
def fragFind (s : State) (key : List Byte) : Option FragEnt :=
  s.path.frags.find? (fun e => e.key = key && decide (e.since < s.cycle))

/-- Insert an entry (R474, R475). [log 39 DEDUCED] -/
def fragInsert (s : State) (r : FragReq) : State :=
  let new : FragEnt := { key := r.key, octs := r.octs, since := s.cycle, expire := s.cycle + r.hold }
  let s := { s with path := { s.path with fragLast := s.cycle + 1 } }
  if s.path.frags.any (fun e => e.key = r.key) then
    { s with path := { s.path with
      frags := s.path.frags.map (fun e => if e.key = r.key then { new with since := e.since } else e) } }
  else
    let set_ := s.path.frags.filter (fun e => fragSet e.key = fragSet r.key)
    if set_.length < 4 then { s with path := { s.path with frags := s.path.frags ++ [new] } }
    else
      match set_.find? (fun e => set_.all (fun x => e.expire ≤ x.expire)) with
      | none => s
      | some v =>
        let s := { s with path := { s.path with frags := s.path.frags.filter (fun e => e.key ≠ v.key) ++ [new] } }
        let t := r.pipe / 2
        let s := tileCount s t 6
        postRate s cyclesPerSec 0 0x4303 [(1, t), (4, (rd s (rTileCtr t 6)).toNat), (4, s.path.frags.length)]

/-- Ask for an insert: at once, or behind another (R476); frames come in order of pipeline number within a cycle. -/
def fragAsk (s : State) (r : FragReq) : State :=
  if s.path.fragLast = s.cycle + 1 ∨ ¬ s.path.fragQ.isEmpty then
    { s with path := { s.path with fragQ := s.path.fragQ ++ [r] } }
  else fragInsert s r

/-- One waiting insert per core cycle, the earliest first, of one cycle's the lowest pipeline number first (R476), while it has
waited less than 16 cycles (R477). [log 39 DEDUCED] -/
def fragDrain (s : State) : State :=
  if s.path.fragLast = s.cycle + 1 then s
  else
    match s.path.fragQ.find? (fun r => decide (s.cycle < r.since + 16)) with
    | none => s
    | some r => fragInsert { s with path := { s.path with fragQ := s.path.fragQ.erase r } } r

-- The chain (R445 to R470)

/-- What the parser has found so far. -/
structure Parsing where
  hv : Nat := 0
  fields : List (Nat × Nat × Nat) := []
  chain : List (Nat × Nat × Nat × Nat) := []
  status : Nat := 0
  frag : Nat := 0
  /-- Octets from this one on come from the fragment table. -/
  cut : Option Nat := none
  /-- The entry of a first fragment: its key, where the octets after the L3 header begin, and they (R473). -/
  insert : Option (List Byte × Nat × List Byte) := none
  outer : Bool := false

/-- The IPv6 extension header numbers (R458). -/
def extHeaders : List Nat := [0, 43, 44, 51, 60, 135, 139, 140, 253, 254]

/-- Extract a template's fields at a base (R447, R451). -/
def extract (o : List Byte) (t base : Nat) (a : Parsing) : Parsing :=
  (tFields t).foldl (fun a x =>
    let v := wireBits o (8 * base + x.2.2) x.2.1
    { a with hv := setBits a.hv (x.1 + x.2.1 - 1) x.1 v, fields := a.fields ++ [(x.1, x.2.1, 8 * base + x.2.2)] }) a

/-- The type value of a template at a base (R447, R448). -/
def typeValue (o : List Byte) (t base : Nat) : Nat :=
  if tTypeValid t then wireBits o (8 * base + 8 * tTypeOff t + tTypeBit t) (tTypeWidth t) else 0

/-- Run the chain from template `n` at `base` (R446 to R462, R468 to R482): `o` holds the octets read, `len` the frame's
octets, `compat` FRAG_MODE, `find` the fragment table, `v6` the base of an IPv6 header directly before. -/
def runChain (tmpl : Nat → Nat) (find : List Byte → Option FragEnt) (compat : Bool) (len : Nat) :
    Nat → List Byte → Nat → Nat → Option Nat → Parsing → Parsing
  | 0, _, _, _, _, a => a
  | fuel + 1, o, n, base, v6, a =>
    let t := tmpl n
    let kind := if tKind t = 3 ∧ v6 = none then 0 else tKind t
    if 256 < base + tEnd t then { a with status := 4 }
    else if a.cut = none ∧ len < base + tHdrLen t then { a with status := 3 }
    else
      let a := extract o t base a
      let a := { a with chain := a.chain ++ [(n, kind, base, tHdrLen t)] }
      let next := tNext t (typeValue o t base)
      let oct (i : Nat) : Nat := beAt o (base + i) 1
      let stop : Bool :=
        if kind = 1 then oct 0 ≠ 0x45
        else if kind = 2 then
          if oct 6 = 44 then next.elim true (fun m => tKind (tmpl m) ≠ 3) else extHeaders.contains (oct 6)
        else if kind = 3 then extHeaders.contains (oct 0)
        else false
      if stop then { a with status := 1 }
      else
        let off := if kind = 1 then beAt o (base + 6) 2 % 2 ^ 13 else if kind = 3 then beAt o (base + 2) 2 / 8 else 0
        let more := if kind = 1 then (oct 6).testBit 5 else if kind = 3 then (oct 3).testBit 0 else false
        let isFrag := (kind = 1 ∨ kind = 3) ∧ a.frag = 0 ∧ (more ∨ 0 < off)
        let l3 := base + tHdrLen t
        let key := if kind = 1 then fragKey4 o base else fragKey6 o (v6.getD 0) base
        let go (a : Parsing) (next : Option Nat) (o : List Byte) : Parsing :=
          match next with
          | none => a
          | some m => runChain tmpl find compat len fuel o m l3 (if kind = 2 then some base else none) a
        if ¬ isFrag then go a next o
        else if compat then { a with frag := 3, outer := true }
        else if off = 0 then go { a with frag := 1, insert := some (key, l3, slice o l3 16) } next o
        else
          match find key with
          | some e =>
            let o' := slice o 0 l3 ++ e.octs
            go { extract o' t base { a with fields := a.fields.take (a.fields.length - (tFields t).length) } with frag := 2, cut := some l3 }
              (tNext t (typeValue o' t base)) o'
          | none => { a with frag := 3, outer := true }

/-- The stick of a chain (R464 to R466): its row, or none. -/
def stickOf (s : State) (parity : Bool) (profile : Nat) (chain : List Nat) (prefix_ : Bool) : Option Nat :=
  findBelow 256 (fun r =>
    let k := row s parity 0x103 r
    stickValid k && stickProfile k = profile
      && (if prefix_ then (stickTemplates k).take chain.length == chain else stickTemplates k == chain))

/-- Parse a frame (R438 to R483): its octets exclude the FCS; `flen` is FRAME_LEN. The state takes what the fragment table
and the counters of Table 7.15 take. -/
def parseFrame (s : State) (f : Frame) (pipe : Nat) : State × Frame :=
  let o := f.octets.take (f.len - 4)
  let n := parseProfile s f.parity f.port
  let prof := row s f.parity 0x101 n
  let a := runChain (fun t => row s f.parity 0x102 t) (fragFind s) (prof.testBit 16) (f.len - 4) 8 o (bits prof 13 8) 0 none {}
  let frag := if a.status = 1 then 0 else a.frag
  let tile := pipe / 2
  let st0 := a.status
  let stick := if st0 ≤ 1 then
      stickOf s f.parity n (a.chain.map (fun x => x.1)) (st0 = 1 || frag = 3)
    else none
  let status := if st0 ≤ 1 ∧ stick = none then 2 else st0
  let s := if status = 2 then tileCount s tile 0 else if status = 3 then tileCount s tile 1
    else if status = 4 then tileCount s tile 2 else if status = 1 then tileCount s tile 3 else s
  let s := if a.outer ∧ frag = 3 then tileCount s tile 4 else s
  let asks : Option (FragReq × Nat) := (a.insert.filter (fun _ => status = 0)).map (fun x =>
    ({ key := x.1, octs := x.2.2, hold := fragHold prof, pipe := pipe, since := s.cycle }, x.2.1))
  let later (x : FragReq × Nat) : Bool := f.receiving && decide (f.octets.length < min (x.2 + 16) (f.len - 4))
  let s := (asks.filter (fun x => !later x)).elim s (fun x => fragAsk s x.1)
  let meta_ := f.len % 2 ^ 16 * 2 ^ 32 + f.pass % 8 * 2 ^ 29 + frag * 2 ^ 27 + status * 2 ^ 24
    + (if status ≤ 1 then stick.getD 0 else 0) * 2 ^ 16 + n * 2 ^ 10 + b2n f.rxSecy.isSome * 2 ^ 9 + f.port
  let hv := a.hv + meta_ * 2 ^ 592
  (s, { f with
    hv0 := hv
    hv := hv
    fragWait := asks.filter later
    parse := { status := status, stick := stick.getD 0, profile := n, frag := frag, fields := a.fields, chain := a.chain,
               own := min (a.cut.getD (f.len - 4)) (f.len - 4) } })

-- Fragment-table commands

/-- FRAG_INSERT_LOST (R477): an insert that has waited 16 core cycles is discarded. -/
def execFragInsertLost (s : State) : Host.Outcome State Fault Refusal :=
  nextOf s <|
    match s.path.fragQ.find? (fun r => decide (r.since + 16 ≤ s.cycle)) with
    | none => s
    | some r =>
      let s := { s with path := { s.path with fragQ := s.path.fragQ.erase r } }
      let t := r.pipe / 2
      let s := tileCount s t 5
      postRate s cyclesPerSec 0 0x4304 [(1, t), (4, (rd s (rTileCtr t 5)).toNat)]

/-- FRAG_HOLD_EXPIRE (R479): the first entry whose hold has elapsed is removed. -/
def execFragHoldExpire (s : State) : Host.Outcome State Fault Refusal :=
  nextOf s <|
    match s.path.frags.find? (fun e => decide (e.expire ≤ s.cycle)) with
    | none => s
    | some x => { s with path := { s.path with frags := s.path.frags.filter (fun e => e.key ≠ x.key) } }

/-- A write of FRAG_CTRL with FLUSH 1 (R484). -/
def fragFlush (s : State) : State := { s with path := { s.path with frags := [] } }

-- The snare meter (R490 to R499)

def snareRow (s : State) (r : Nat) : Nat := liveRow s 0x650 r
def snareRate (img : Nat) : Nat := min (bits img 25 0) 50000000
def snareBurst (img : Nat) : Nat := max (bits img 47 32) 1

end Sys2Proof.Machine
end

