-- ==== Sys2Proof/Machine/Asa.lean ====
section
/-! DEFINITION. The associative search arrays: profiles, keys, matching, verification, repair and the sweep; the load-spread
hash and groups (chapter The Associative Search Array and Frame Actions). -/

namespace Sys2Proof.Machine

-- Profiles (Table 9.1)

def prValid (p : Nat) : Bool := p.testBit 63
def prWidth (p : Nat) : Nat := bits p 62 61
def prLsMask (p : Nat) : Nat := bits p 60 57
def prMissRule (p : Nat) : Nat := bits p 56 55
def prMissAction (p : Nat) : Nat := bits p 54 39
def prStickLo (p : Nat) : Nat := bits p 38 31
def prStickHi (p : Nat) : Nat := bits p 30 23
def prParseMask (p : Nat) : Nat := word p 1
def prBanks (p : Nat) : Nat := bits (word p 2) 31 0
def prChunk (p k : Nat) : Nat := (p >>> (192 + 5 * k)) % 32

/-- Value words of an entry of a WIDTH (R585). -/
def asaWords (width : Nat) : Nat := if width = 0 then 3 else if width = 1 then 5 else 10

/-- The profile a frame searches (R579). -/
def asaProfile (s : State) (parity : Bool) (parse stick : Nat) : Option Nat :=
  findBelow 16 (fun p =>
    let d := row s parity 0x310 p
    prValid d && (prParseMask d).testBit parse && decide (prStickLo d ≤ stick) && decide (stick ≤ prStickHi d))

/-- Header-vector chunk j (R581). -/
def chunk (hv j : Nat) : Nat := (hv >>> (32 * j)) % 2 ^ 32

/-- The key of a profile (R581). -/
def asaKey (prof hv : Nat) : Nat :=
  (List.range (5 * 2 ^ prWidth prof)).foldl (fun k i => k + chunk hv (prChunk prof i) * 2 ^ (32 * i)) 0

-- Entries (R584 to R590)

def entValue (img n : Nat) : Nat := img % 2 ^ (64 * n)
def entMask (img n : Nat) : Nat := (img >>> (64 * n)) % 2 ^ (64 * n)
def entPriority (img n : Nat) : Nat := bits (word img (2 * n)) 63 48
def entAction (img n : Nat) : Nat := bits (word img (2 * n)) 15 0

/-- The shadow copy of an entry matches a key in a parity (R584). -/
def shadowMatch (e : AsaEnt) (n key : Nat) (parity : Bool) : Bool :=
  (if parity then e.v1 else e.v0) && (key &&& entMask e.image n) == entValue e.image n

/-- Put an entry among candidates in the order of R590: highest PRIORITY, then lowest location. -/
def rankEnt (n : Nat) (e : AsaEnt) : List AsaEnt → List AsaEnt
  | [] => [e]
  | x :: t =>
    if entPriority x.image n < entPriority e.image n ∨ (entPriority x.image n = entPriority e.image n ∧ e.loc < x.loc) then
      e :: x :: t
    else x :: rankEnt n e t

/-- Queue a location for repair in its copy (R597, R600). -/
def queueRepair (s : State) (copy table loc : Nat) : State :=
  let q := smGet (fun _ => []) s.forme.asaRepair copy
  let tile := copy % 16 / 2
  if 256 ≤ q.length then
    let s := tileCount s tile 19
    postHw s 0x4503 [(1, copy), (4, (rd s (rTileCtr tile 19)).toNat)]
  else { s with forme := { s.forme with asaRepair := smSet (fun _ => []) s.forme.asaRepair copy (q ++ [(table, loc)]) } }

/-- Locations of a copy whose ternary cells differ from the key shadow. [log 41 DESIGN CHOICE] -/
def badCells (s : State) (copy : Nat) : List (Nat × Nat) := smGet (fun _ => []) s.forme.asaBad copy
def setBadCells (s : State) (copy : Nat) (l : List (Nat × Nat)) : State :=
  { s with forme := { s.forme with asaBad := smSet (fun _ => []) s.forme.asaBad copy l } }

/-- Soft errors in the ternary cells of a copy: the cells of these locations differ from the shadow until they are rewritten.
[log 41 DESIGN CHOICE] -/
def breakCells (s : State) (copy : Nat) (l : List (Nat × Nat)) : State :=
  setBadCells s copy (badCells s copy ++ l.filter (fun x => !(badCells s copy).contains x))

/-- A location's cells are written from the shadow (R599, R601). -/
def fixCells (s : State) (copy : Nat) (x : Nat × Nat) : State := setBadCells s copy ((badCells s copy).filter (fun y => y ≠ x))

/-- A location's cells are written in every copy of its table, ingress 0 to 15 or egress 16 to 31 (R129, R603). -/
def writeCells (s : State) (table loc : Nat) : State :=
  (List.range 16).foldl (fun s k => fixCells s (if table = 0x500 then 16 + k else k) (table, loc)) s

/-- One search (R584, R590 to R600) by copy `copy` of `n`-word entries of a table. `flipped` names the locations whose
ternary cells answer this key wrongly, a soft error that the shadow check finds (R596); they stay wrong until they are repaired.
[log 41 DESIGN CHOICE] [log 41 DESIGN CHOICE] -/
def asaSearch (s : State) (copy table n : Nat) (parity : Bool) (key : Nat) (flipped : List Nat) : State × Option AsaEnt :=
  let tile := copy % 16 / 2
  let s := breakCells s copy ((flipped.filter (fun x => s.forme.asa.any (fun e => e.table = table && e.loc = x))).map (fun x => (table, x)))
  let l := (s.forme.asa.filter (fun e => e.table = table &&
      (shadowMatch e n key parity != flipped.contains e.loc))).foldl (fun l e => rankEnt n e l) []
  let four := l.take 4
  let bad := four.filter (fun e => !shadowMatch e n key parity)
  let s := bad.foldl (fun s e =>
    let s := tileCount s tile 17
    let s := queueRepair s copy table e.loc
    postRate s cyclesPerSec copy 0x4501 [(1, copy), (2, table), (4, e.loc)]) s
  match four.find? (fun e => shadowMatch e n key parity) with
  | some w =>
    let tie := l.any (fun e => e.loc ≠ w.loc && entPriority e.image n = entPriority w.image n)
    (if tie then tileCount s tile 16 else s, some w)
  | none =>
    if 4 < l.length then (postHw (tileCount s tile 18) 0x8504 [(1, copy), (2, table)], none) else (s, none)

-- Update slots (R592, R593, R595)

/-- The update slot among the three slots of a core cycle, by its number (R592). [log 94 DEDUCED] -/
def updateSlot (cycle : Nat) : Option Nat :=
  ((List.range 3).find? (fun k => (3 * cycle + k) % 128 = 127)).map (fun k => (3 * cycle + k) / 128)

/-- Slots of a core cycle that may carry a search (R592, R593). -/
def searchSlots (cycle : Nat) : Nat := if (updateSlot cycle).isSome then 2 else 3

-- A lost shadow (R602)

/-- The key shadow of an entry is lost (R602): the entry leaves both parities in every copy. -/
def asaShadowLost (s : State) (table loc : Nat) : State :=
  let s := { s with forme := { s.forme with asa := s.forme.asa.filter (fun e => !(e.table = table && e.loc = loc)) } }
  journal (postHw s 0x8502 [(2, table), (4, loc)]) 0x0060 hwOrigin [(2, table), (4, loc)]

/-- ASA_SHADOW_UE (R602). -/
def execAsaShadowUe (table loc : Nat) (s : State) : Host.Outcome State Fault Refusal :=
  nextOf s <| onlyIf (s.forme.asa.any (fun e => e.table = table && e.loc = loc)) s (asaShadowLost s table loc)

-- The load-spread hash (R636 to R640)

/-- One bit of a CRC-32 that is not reflected (R638). -/
def crcBit (c : Nat) (b : Bool) : Nat :=
  let top := bit c 31 != b
  let c := c * 2 % 2 ^ 32
  if top then c ^^^ 0x04C11DB7 else c

/-- The hash input: bits 639 down to 0 of the masked header vector (R637). -/
def hashBits (img hv : Nat) : List Bool :=
  let m := hv &&& ((img >>> 64) % 2 ^ 640)
  (List.range 640).map (fun i => m.testBit (639 - i))

/-- The 32-bit Toeplitz key window from key bit i on (R639). -/
def keyWindow (img i : Nat) : Nat :=
  (List.range 32).foldl (fun a j => a * 2 + b2n ((word img (11 + (i + j) / 64)).testBit (63 - (i + j) % 64))) 0

/-- The flow hash of a header vector under a field-mask row (R638, R639). -/
def flowHash (img hv : Nat) : Nat :=
  let seed := bits img 31 0
  if img.testBit 63 then
    ((List.range 640).zip (hashBits img hv)).foldl (fun h x => if x.2 then h ^^^ keyWindow img x.1 else h) seed
  else (hashBits img hv).foldl crcBit seed

-- Load-spread groups (R641 to R644)

/-- A port is live for load spreading (R643). -/
def lsLive (s : State) (p : Nat) : Bool :=
  if p < 256 then rdB s (rLsLive (p / 64)) (p % 64) && portEn s p else p < 264 && portPresent s p

/-- Resolve group g for a flow hash (R643): the port and the tag the chosen member sets. -/
def resolveGroup (s : State) (parity : Bool) (g h : Nat) : Option (Nat × Option Nat) :=
  let cand (b : Nat) : List (Nat × Option Nat) :=
    let i := row s parity 0x411 (g * 4096 + b)
    let tag (v : Nat) : Option Nat := if i.testBit 23 then some v else none
    if i.testBit 24 then
      (bits i 8 0, tag (bits i 63 48)) :: (if i.testBit 22 then [(bits i 21 13, tag (bits i 47 32))] else [])
    else []
  (cand (bits h 11 0) ++ cand (bits h 23 12)).find? (fun c => lsLive s c.1)

/-- No member is live (R644). -/
def lsNoLive (s : State) (tile g : Nat) : State :=
  let s := tileCount s tile 28
  postRate s cyclesPerSec g 0x4505 [(2, g), (4, (rd s (rTileCtr tile 28)).toNat)]

end Sys2Proof.Machine
end

