-- ==== Sys2Proof/Machine/Crossbar.lean ====
section
/-! DEFINITION. Admission, the crossing of the planes, the Rounds matcher, credit and the deep store (chapter The Switch
Core). -/

namespace Sys2Proof.Machine

-- Deep store (R695 to R702)

/-- Deep units the device has: 48,896 MiB of 256-byte units. -/
def deepUnits : Nat := 200278016

def deepUsed (s : State) : Nat :=
  sumBy (s.path.copies.filter (fun c => c.stage = .deep || c.stage = .staged)) (fun c => c.charge + 1)

/-- A VOQ that may spill (R695). -/
def mayspill (s : State) (e c : Nat) : Bool :=
  voqMode s && hasDeep s && e < 256 && decide (0 < spillThr (admRow s e c))

/-- A frame of `n` cells is assigned to the deep store (R697): its VOQ spills, or becomes spilling with it, as none does under
DEEP_FAULT (R1093). -/
def assignedDeep (s : State) (e src c n : Nat) : Bool :=
  mayspill s e c && (voqSpilling s e src c
    || (!rdB s rErrStatus 9 && decide (spillThr (admRow s e c) < accE s e c src + n)))

-- Cells of a slice (R648, R650, R651)

/-- Put a number into a rising list. -/
def putNat (x : Nat) : List Nat → List Nat
  | [] => [x]
  | y :: l => if x ≤ y then x :: y :: l else y :: putNat x l

/-- The k-th number from 0 on that a rising list does not hold. [log 104 DESIGN CHOICE] -/
def nthFreeCell : List Nat → Nat → Nat
  | [], k => k
  | u :: l, k => if u ≤ k then nthFreeCell l (k + 1) else k

/-- Cells of slice t that hold a frame. -/
def cellsHeld (s : State) (t : Nat) : List Nat :=
  (s.path.frames.filter (fun f => ingressTile f.port = t)).flatMap (fun f => f.cellIdx)

/-- Cells of slice t that hold a frame or are retired (R1119), rising. -/
def cellsTaken (s : State) (t : Nat) : List Nat :=
  (cellsHeld s t ++ (s.pwr.retired.filter (fun (x : Nat × Nat) => x.1 / 2 ^ 16 = t && x.2 = 2)).map (fun (x : Nat × Nat) => x.1 % 2 ^ 16)).foldl
    (fun l x => putNat x l) []

/-- Take n free cells of a slice: which ones the spec leaves open. [log 104 DESIGN CHOICE] -/
def takeCells (s : State) (t n : Nat) : State × List Nat :=
  let r := (List.range n).foldl (fun (a : State × List Nat × List Nat) _ =>
    let d := draw a.1
    let c := nthFreeCell a.2.1 (d.2.toNat % (65536 - a.2.1.length))
    (d.1, putNat c a.2.1, a.2.2 ++ [c])) (s, cellsTaken s t, [])
  (r.1, r.2.2)

/-- The 256 octets of cell k of a frame, the last one's filled with 0 (R650). -/
def cellData (f : Frame) (k : Nat) : List Byte :=
  let o := (f.octets.drop (256 * k)).take 256
  o ++ List.replicate (256 - o.length) 0

/-- The link word of cell k of a frame (Table 10.1). -/
def linkWord (f : Frame) (k : Nat) : Nat :=
  let last := b2n (decide (f.cellIdx.length ≤ k + 1))
  f.cellIdx.getD (k + 1) 0 + min 256 (f.octets.length - 256 * k) * 2 ^ 24 + last * 2 ^ 33

/-- What cell `i` of slice t holds: its octets and its link word, of the frame it belongs to (R648, R650). -/
def cellAt (s : State) (t i : Nat) : Option (List Byte × Nat) :=
  (s.path.frames.find? (fun f => ingressTile f.port = t && f.cellIdx.contains i)).map (fun f =>
    let k := (f.cellIdx.takeWhile (fun x => x ≠ i)).length
    (cellData f k, linkWord f k))

/-- A frame enters its slice with its first copy and takes its cells there, stored once for all (R648, R649, R669). -/
def enterSlice (s : State) (f : Frame) (region : Nat) : State :=
  if f.stage = .held then s
  else
    let t := ingressTile f.port
    let x := takeCells s t f.charge
    perf (putFrame x.1 { f with stage := .held, region := region, cellIdx := x.2, arrAt := s.cycle, arrHeld := f.octets.length })
      t 0x0105 f.charge

-- Admission (R660, R661)

/-- Post EV_SHARED_FULL and count (R661, R712). -/
def sharedFull (s : State) (t : Nat) : State :=
  let s := tileCount s t 33
  postRate s cyclesPerSec t 0x4601 [(1, t), (4, accRegion s t 0)]

/-- The ingress row of a frame has headroom: PAUSE, or PFC with its enable bit (Table 10.5 row 3). -/
def headroomApplies (s : State) (i c : Nat) : Bool :=
  i < 256 && (fcMode s i = 1 || (fcMode s i = 2 && pfcEn s i c))

/-- Admit a copy of a frame to shared or headroom cells and its queue, or drop and count it (R660, R661). The frame's
`charge` is n of R648 or R649; the ingress row's class is the frame's TC. [log 73 DEDUCED] -/
def admitPlain (s : State) (f : Frame) (x : Copy) : State :=
  let t := ingressTile f.port
  let r := admRow s x.port x.cls
  let src := sourceIndex f.port
  let n := f.charge
  let egOk := decide (accE s x.port x.cls src + n ≤ egLimit r)
  let hc := ingressClass s f.port f.dec.tc
  let enter (reg : Nat) : State :=
    addCopy (enterSlice s f reg) { x with charge := n, region := reg, frame := f.id, enq := s.cycle, stage := .queued }
  if egOk ∧ accRegion s t 0 + n ≤ sharedSize s t then enter 0
  else if (x.port = 264 ∨ x.port = 265) ∧ egOk ∧ accRegion s t 1 + n ≤ globalReserve s then enter 1
  else if headroomApplies s f.port f.dec.tc ∧ accH s f.port hc + n ≤ headroomOf (admRow s f.port hc) then enter 2
  else if headroomApplies s f.port f.dec.tc then
    postRate (tileCount s t 34) cyclesPerSec f.port 0x8604 [(2, f.port), (1, hc), (4, accH s f.port hc)]
  else if ¬ egOk then tileCount s t 32
  else if x.port = 264 ∨ x.port = 265 then tileCount s t 35
  else sharedFull s t

/-- Admit a copy assigned to the deep store, or drop it; a VOQ left with nothing there spills no longer (R698, R701). -/
def admitDeep (s : State) (f : Frame) (x : Copy) : State :=
  let t := ingressTile f.port
  let src := sourceIndex f.port
  let n := f.charge
  let units := sumBy ((voqCopies s x.port src x.cls).filter (fun c => c.stage ≠ .queued)) (fun c => c.charge + 1)
  let deepOk := decide (units + n + 1 ≤ deepLimit (admRow s x.port x.cls)) && decide (deepUsed s + n + 1 ≤ deepUnits)
  if ¬ deepOk then
    let s := settleSpill (tileCount s t 36) x.port src x.cls
    postRate s cyclesPerSec t 0x4602 [(1, t), (2, x.port), (1, x.cls), (4, deepUnits - deepUsed s)]
  else if accRegion s t 0 + n ≤ sharedSize s t then
    addCopy (enterSlice s f 0) { x with charge := n, region := 0, frame := f.id, enq := s.cycle, stage := .staged }
  else sharedFull (settleSpill s x.port src x.cls) t

/-- Admit one copy (R660, R697, R698). -/
def admitCopy (s : State) (f : Frame) (x : Copy) : State :=
  let src := sourceIndex f.port
  if assignedDeep s x.port src x.cls f.charge then admitDeep (setSpilling s x.port src x.cls true) f x else admitPlain s f x

/-- A VOQ-mode multicast frame joins the multicast queue of its class (R688). [log 43 DEDUCED] -/
def admitMulticast (s : State) (f : Frame) (cls mask : Nat) : State :=
  let t := ingressTile f.port
  let q := sumBy (s.path.copies.filter (fun c => c.multicast && c.port = 511 && c.cls = cls && c.stage = .queued
    && ingressTile (copyPort s c) = t)) (fun c => c.charge)
  if q + f.charge ≤ rdF s rCoreCtrl 29 12 then
    let s := enterSlice s { f with mask := mask } 0
    addCopy s { id := 0, frame := f.id, port := 511, cls := cls, queue := 0, stage := .queued, multicast := true,
                charge := f.charge, enq := s.cycle }
  else tileCount s t 37

-- Transit buffers (R653)

/-- The egress pipeline of a copy (R22, R607). -/
def copyEp (s : State) (c : Copy) : Nat := copyPipe c.port ((findFrame s c.frame).elim 0 (fun f => f.flowHash))

/-- The copies that stand for what an egress pipeline's transit buffer holds or has room set aside for: those of a frame that
cross together share its cells (R685 to R687). -/
def transitCopies (s : State) (ep : Nat) : List Copy :=
  (s.path.copies.filter (fun c => c.port < 266 && copyEp s c = ep
    && (c.stage = .crossing || c.stage = .egress || (c.stage = .selected && voqMode s)))).foldl
    (fun l c => if l.any (fun x => x.frame = c.frame && x.crossAt = c.crossAt) then l else c :: l) []

def transitUsed (s : State) (ep : Nat) : Nat := sumBy (transitCopies s ep) (fun c => c.charge)

def transitRoom (s : State) (ep n : Nat) : Bool := decide (transitUsed s ep + n ≤ 1024)

/-- The transit buffer a copy goes to has room for its charge (R653). -/
def copyRoom (s : State) (c : Copy) : Bool := transitRoom s (copyEp s c) c.charge

/-- The crossbar plane of a frame (R33: h[31:30] of its flow hash). -/
def planeOf (f : Frame) : Nat := f.flowHash / 2 ^ 30 % 4

def copyPlane (s : State) (c : Copy) : Nat := (findFrame s c.frame).elim 0 planeOf
def copyTile (s : State) (c : Copy) : Nat := ingressTile (copyPort s c)

/-- A hold takes the slot of cycle x (R675, R676): the slot of the frame's last cell, which for a frame that arrives meanwhile
follows its last write, is not over. -/
def holdsSlot (s : State) (x : Nat) (h : SideHold) : Bool :=
  if h.cells = 0 then (findFrame s h.frame).isSome else decide (x < h.start + h.cells) || decide (x ≤ h.wroteAt)

/-- In the slot of cycle x, a frame holds the sending side of tile t, or the receiving side of tile u, on a plane (R675). -/
def sendBusyAt (s : State) (t p x : Nat) : Bool := s.core.holds.any (fun h => h.plane = p && h.src = t && holdsSlot s x h)
def recvBusyAt (s : State) (u p x : Nat) : Bool := s.core.holds.any (fun h => h.plane = p && h.dst.contains u && holdsSlot s x h)
def sendBusy (s : State) (t p : Nat) : Bool := sendBusyAt s t p s.cycle
def recvBusy (s : State) (u p : Nat) : Bool := recvBusyAt s u p s.cycle

/-- Cells of a frame written to its slice before cycle x (R676): one still arriving comes at its port's rate. -/
def cellsWritten (s : State) (f : Frame) (x : Nat) : Nat :=
  if f.complete && !f.receiving then cellsOf f.octets.length - b2n (decide (x < f.wroteAt))
  else min (f.charge - 1) ((f.arrHeld + (x - f.arrAt) * portRate s f.port * 5 / 64000) / 256)

/-- Cells of a crossing copy that slots before cycle x have delivered (R676). -/
def cellsCrossed (s : State) (f : Frame) (c : Copy) (x : Nat) : Nat := min (x - c.crossAt) (cellsWritten s f (x - 1))

/-- Cells of a copy in the transit buffer: those its crossing has delivered so far (R664). -/
def cellsOver (s : State) (c : Copy) : Nat :=
  if c.stage = .crossing ∨ c.cutting then (findFrame s c.frame).elim 0 (fun f => min c.charge (cellsCrossed s f c s.cycle)) else c.charge

-- Pointers (R683): classes 0 GRANT, 1 ACCEPT, 2 FETCH, 3 MC_TURN, 4 VOQ
def ptr (s : State) (k p i : Nat) : Nat := smGet (fun _ => 0) s.core.ptrs (k * 2 ^ 16 + p * 64 + i)
def setPtr (s : State) (k p i v : Nat) : State :=
  { s with core := { s.core with ptrs := smSet (fun _ => 0) s.core.ptrs (k * 2 ^ 16 + p * 64 + i) v } }

/-- Frame `id` takes the sending side of tile t and the receiving sides of tiles `us` on plane p from this slot on (R675). -/
def holdSides (s : State) (p t : Nat) (us : List Nat) (id : Nat) : State :=
  let n := (findFrame s id).elim 0 (fun f => if f.complete && !f.receiving then cellsOf f.octets.length else 0)
  { s with core := { s.core with
    holds := s.core.holds.filter (holdsSlot s s.cycle) ++ [{ plane := p, src := t, dst := us, frame := id, start := s.cycle, cells := n }] } }

/-- Start copies across their plane, their first cell in this slot; in VOQ mode a cut-through copy enters its egress queue with
it (R694). -/
def startCrossing (s : State) (ids : List Nat) : State :=
  setCopies s (s.path.copies.map (fun c => if ids.contains c.id then { c with stage := .crossing, crossAt := s.cycle } else c))

/-- A copy of a frame that crosses as a short cell (R652). -/
def shortCopy (s : State) (c : Copy) : Bool :=
  (findFrame s c.frame).elim false (fun f => f.complete && !f.receiving && decide (f.octets.length ≤ 128))

-- Shared mode

/-- A fetch waits at ingress tile t on plane p: a selected copy with room to cross (R653, R667). -/
def fetchWaits (s : State) (t p : Nat) (c : Copy) : Bool :=
  c.stage = .selected && copyTile s c = t && copyPlane s c = p && copyRoom s c

/-- The fetch an egress tile has waiting at an ingress tile on a plane. -/
def fetchOf (s : State) (t p u : Nat) : Option Copy :=
  s.path.copies.find? (fun c => fetchWaits s t p c && tileOf c.port = u)

/-- The fetches served with that of copy c: of a multicast frame, every waiting one whose tile answers to `free` (R686). -/
def fetchCohort (s : State) (t p : Nat) (c : Copy) (free : Nat → Bool) : List Copy :=
  if c.multicast then s.path.copies.filter (fun d => d.frame = c.frame && fetchWaits s t p d && free (tileOf d.port)) else [c]

/-- Serve a cohort of fetches in this slot (R667, R675). -/
def serveFetch (s : State) (t p : Nat) (l : List Copy) (frame : Nat) : State :=
  holdSides (startCrossing s (l.map (fun d => d.id))) p t (l.map (fun d => tileOf d.port)) frame

/-- SHARED_FETCH (R667, R668, R677, R686): the ingress tile serves the first fetch at or after FETCH_PTR, with every waiting
fetch of the same multicast frame as one cohort; the next short frame of the pair shares the slot of a short one. -/
def execSharedFetch (tile : Fin 8) (plane : Fin 4) (s : State) : Host.Outcome State Fault Refusal :=
  let t := tile.val
  let p := plane.val
  nextOf s <|
    if voqMode s ∨ sendBusy s t p then s
    else
      match findFrom 8 (ptr s 2 p t) (fun u => (fetchOf s t p u).isSome && !recvBusy s u p) with
      | none => s
      | some u =>
        match fetchOf s t p u with
        | none => s
        | some c =>
          let l := fetchCohort s t p c (fun v => !recvBusy s v p)
          let s1 := serveFetch s t p l c.frame
          let next := if shortCopy s c then
              s1.path.copies.find? (fun d => fetchWaits s1 t p d && tileOf d.port = u && shortCopy s1 d) else none
          let s2 := match next with
            | some d =>
              let both (v : Nat) : Bool := (l.map (fun x => tileOf x.port)).contains v || !recvBusy s1 v p
              perf (serveFetch s1 t p (fetchCohort s1 t p d both) d.frame) t 0x0109 1
            | none => s1
          setPtr s2 2 p t ((u + 1) % 8)

-- VOQ mode

def creditOf (s : State) (e c : Nat) : Int := smGet (fun _ => 0) s.core.credit (e * 8 + c)
def setCredit (s : State) (e c : Nat) (v : Int) : State :=
  { s with core := { s.core with credit := smSet (fun _ => 0) s.core.credit (e * 8 + c) v } }

/-- A copy is the head of its VOQ or multicast queue. -/
def isHead (s : State) (c : Copy) : Bool :=
  if c.multicast && c.port = 511 then
    (s.path.copies.find? (fun x => x.multicast && x.port = 511 && x.cls = c.cls && x.stage = .queued
      && copyTile s x = copyTile s c)).elim false (fun x => x.id = c.id)
  else
    ((voqCopies s c.port (sourceIndex (copyPort s c)) c.cls).head?).elim false (fun x => x.id = c.id)

/-- A copy of a frame marked cut-through that goes on as it arrives: the forwarded one, not a snared or mirrored one (R691, R692). -/
def cutCopy (s : State) (c : Copy) : Bool := c.kind = 0 && !c.multicast && (findFrame s c.frame).elim false (fun f => f.cutThrough)

/-- A copy's frame is complete, or it is marked cut-through (R672, R692, R721). -/
def frameReady (s : State) (c : Copy) : Bool :=
  (findFrame s c.frame).elim false (fun f => f.complete && !f.receiving) || cutCopy s c

/-- A VOQ is eligible toward a plane through its head (R672). -/
def voqEligible (s : State) (p : Nat) (c : Copy) : Bool :=
  c.stage = .queued && !(c.multicast && c.port = 511) && isHead s c && copyPlane s c = p && frameReady s c
    && decide (0 < creditOf s c.port c.cls) && !inLinkHold s c.port && !queueHeld s c.port c.cls
    && copyRoom s c

/-- Ports of the list of multicast group g for tile u (R1159), in one parity. [log 43 DEDUCED] -/
def groupPorts (s : State) (parity : Bool) (g u : Nat) : List Nat :=
  let img := row s parity 0x520 (g * 8 + u)
  ((List.range 32).filter (fun i => img.testBit i)).map (fun i => 32 * u + i)
    ++ (if img.testBit 32 then [256 + u] else [])
    ++ (if img.testBit 33 ∧ u = 0 then [264] else [])
    ++ (if img.testBit 34 ∧ u = 1 then [265] else [])

/-- A multicast queue is eligible toward a plane and a tile through its head (R673). -/
def mcEligible (s : State) (p u : Nat) (c : Copy) : Bool :=
  c.stage = .queued && c.multicast && c.port = 511 && isHead s c && copyPlane s c = p
    && (findFrame s c.frame).elim false (fun f => f.complete && !f.receiving && f.mask.testBit u
      && (groupPorts s (live s) f.dec.dest u).all (fun q => transitRoom s (copyPipe q f.flowHash) c.charge))

/-- The VOQ that tile t starts toward tile u on a plane: the first eligible at or after VOQ_PTR in index order (R674). -/
def voqIndex (s : State) (c : Copy) : Nat := (sourceIndex (copyPort s c) * 266 + c.port) * 8 + c.cls

def nextVoq (s : State) (p t u : Nat) (q : Copy → Bool) : Option Copy :=
  let l := s.path.copies.filter (fun c => copyTile s c = t && c.port < 266 && tileOf c.port = u && voqEligible s p c && q c)
  let v := ptr s 4 p (t * 8 + u)
  let total := 264 * 266 * 8
  l.foldl (fun b c =>
    let d := (voqIndex s c + total - v % total) % total
    match b with
    | none => some c
    | some x => if d < (voqIndex s x + total - v % total) % total then some c else some x) none

def bestVoq (s : State) (p t u : Nat) : Option Copy := nextVoq s p t u (fun _ => true)

def mcHead (s : State) (p t u : Nat) : Option Copy :=
  s.path.copies.find? (fun c => copyTile s c = t && mcEligible s p u c)

/-- Unicast and multicast requests of the matrix of R679. -/
def reqUni (s : State) (p t u : Nat) : Bool := (bestVoq s p t u).isSome
def reqMc (s : State) (p t u : Nat) : Bool := (mcHead s p t u).isSome

/-- The request t presents toward u is the multicast one (R680). -/
def presentsMc (s : State) (p t u : Nat) : Bool := reqMc s p t u && (!reqUni s p t u || ptr s 3 p t = 1)

/-- A matching in the making: matched pairs of ingress tile and cohort, and the free sides. -/
structure Matching where
  pairs : List (Nat × List Nat)
  freeIn : List Bool
  freeOut : List Bool
  grants : List (Nat × Nat)
  accepts : List (Nat × Nat)
deriving DecidableEq, Repr

def listGet (l : List Bool) (i : Nat) : Bool := l.getD i false

/-- One iteration of the matcher (R679, R681): grants from every free egress tile, accepts by every free ingress tile; the request
of t toward u is multicast where `mc t u` holds, and `same t a u` tells that t has a multicast request toward u for the head of
its request toward a; `first` records the pointer moves. -/
def matchIter (req : Nat → Nat → Bool) (mc : Nat → Nat → Bool) (same : Nat → Nat → Nat → Bool) (grantPtr acceptPtr : Nat → Nat) (first : Bool)
    (m : Matching) : Matching :=
  let g (u : Nat) : Option Nat :=
    if listGet m.freeOut u then findFrom 8 (grantPtr u) (fun t => listGet m.freeIn t && req t u) else none
  (List.range 8).foldl
    (fun m' t =>
      if ¬ listGet m.freeIn t then m'
      else
        match findFrom 8 (acceptPtr t) (fun u => g u == some t) with
        | none => m'
        | some a =>
          let cohort := if mc t a then (List.range 8).filter (fun u => u = a || (g u == some t && same t a u)) else [a]
          { pairs := m'.pairs ++ [(t, cohort)]
            freeIn := m'.freeIn.set t false
            freeOut := cohort.foldl (fun l u => l.set u false) m'.freeOut
            grants := if first then m'.grants ++ [(a, (t + 1) % 8)] else m'.grants
            accepts := if first then m'.accepts ++ [(t, (a + 1) % 8)] else m'.accepts }) m

/-- The matching of one slot from its requests (R679): three iterations, pointers moved by the first alone. [log 75 DEDUCED] -/
def rounds (req : Nat → Nat → Bool) (mc : Nat → Nat → Bool) (same : Nat → Nat → Nat → Bool) (grantPtr acceptPtr : Nat → Nat)
    (freeIn freeOut : List Bool) : Matching :=
  let m0 : Matching := { pairs := [], freeIn := freeIn, freeOut := freeOut, grants := [], accepts := [] }
  let m1 := matchIter req mc same grantPtr acceptPtr true m0
  let ap (t : Nat) : Nat := (m1.accepts.find? (fun x => x.1 = t)).elim (acceptPtr t) (·.2)
  let gp (u : Nat) : Nat := (m1.grants.find? (fun x => x.1 = u)).elim (grantPtr u) (·.2)
  matchIter req mc same gp ap false (matchIter req mc same gp ap false m1)

/-- A copy enters its egress queue in VOQ mode (R714 to R716, R808): behind those that entered before, in the queue that its class
or launch time and the live QMAP give. -/
def enterEgress (s : State) (c : Copy) : State :=
  setCopies s (s.path.copies.filter (fun x => x.id ≠ c.id) ++ [{ c with queue := queueFor s c.port c.cls c.launch }])

/-- Start the head of the VOQ that tile t starts toward tile u (R671, R674); a cut-through frame enters its egress queue now. -/
def startVoq (s : State) (p t u : Nat) (c : Copy) : State :=
  let s1 := setCredit s c.port c.cls (creditOf s c.port c.cls - c.charge)
  let s1 := if cutCopy s c then enterEgress (startCrossing s1 [c.id]) { c with stage := .crossing, crossAt := s.cycle }
    else startCrossing s1 [c.id]
  setPtr (holdSides s1 p t [u] c.frame) 4 p (t * 8 + u) ((voqIndex s c + 1) % (264 * 266 * 8))

/-- The second short cell of a slot toward tile u: the next short frame that R674 would start (R677). -/
def startShort (s : State) (p t u : Nat) : State :=
  match nextVoq s p t u (shortCopy s) with
  | some d => perf (startVoq s p t u d) t 0x0109 1
  | none => s

/-- One copy of a multicast frame for a port of an egress tile's list (R153, R292, R687): made as the frame crosses. -/
def replicate (s : State) (f : Frame) (c : Copy) (q : Nat) : State :=
  if 256 ≤ q ∧ q < 264 ∧ 4 ≤ f.pass then tileCount s (ingressTile f.port) 49
  else if ¬ portTakes s q then (if q < 256 then bump s (rPortDrop q 2) else s)
  else
    let l := f.launch.map (launchNs s)
    let stage := if c.stage = .selected then .egress else c.stage
    addCopy s { c with
      port := q, stage := if c.stage = .queued then .crossing else stage, crossAt := if c.stage = .queued then s.cycle else c.crossAt
      enq := s.cycle, launch := l, queue := queueFor s q c.cls l }

/-- Start what tile t presented toward a matched cohort, its multicast request when `mc` (R671, R674, R677, R680, R685): a tile
whose multicast request is for another head, or gone, gets nothing. [log 43 DEDUCED] -/
def startMatch (s : State) (p t : Nat) (cohort : List Nat) (mc : Bool) : State :=
  match cohort with
  | [] => s
  | u :: _ =>
    let s := perf s t 0x0107 cohort.length
    if mc then
      match mcHead s p t u with
      | none => s
      | some c =>
        match findFrame s c.frame with
        | none => s
        | some f =>
          let us := cohort.filter (fun v => (mcHead s p t v).elim false (fun x => x.id = c.id))
          let left := us.foldl (fun m v => if m.testBit v then m - 2 ^ v else m) f.mask
          let s1 := us.foldl (fun s v => (groupPorts s (live s) f.dec.dest v).foldl (fun s q => replicate s f c q) s)
            (holdSides s p t us f.id)
          let s2 := putFrame s1 { f with mask := left }
          let s3 := if left = 0 then dropCopy s2 c else s2
          if shortCopy s c then startShort s3 p t u else s3
    else
      match bestVoq s p t u with
      | none => s
      | some c => if shortCopy s c then startShort (startVoq s p t u c) p t u else startVoq s p t u c

/-- The pairs of a tile and its cohort are delivered for their slot (R682): one whose sending or receiving side a frame has
taken is withdrawn and counted. [log 75 DEDUCED] -/
def deliverPair (s : State) (p : Nat) (x : Nat × List Nat × Bool) : State :=
  let off := x.2.1.filter (fun u => sendBusy s x.1 p || recvBusy s u p)
  let s1 := off.foldl (fun s _ => frameCountReg s (rRndWithdraw p) rRndHalf p) s
  startMatch s1 p x.1 (x.2.1.filter (fun u => !(sendBusy s x.1 p || recvBusy s u p))) x.2.2

/-- The matchings whose slot has come are delivered, oldest first (R679, R682). The pairs of one matching share no side.
[log 75 DEDUCED] -/
def deliverMatches (s : State) : State :=
  let due := s.core.matchQ.filter (fun m => decide (m.slot ≤ s.cycle))
  due.foldl (fun s m => m.pairs.foldl (fun s x => deliverPair s m.plane x) s)
    { s with core := { s.core with matchQ := s.core.matchQ.filter (fun m => decide (s.cycle < m.slot)) } }

/-- The matching of plane p for the slot four cycles ahead, from the requests of this cycle (R679, R680). -/
def matching (s : State) (p : Nat) : Matching :=
  rounds (fun t u => reqUni s p t u || reqMc s p t u) (presentsMc s p)
    (fun t a u => (mcHead s p t a).elim false (fun c => (mcHead s p t u).elim false (fun x => x.id = c.id)))
    (ptr s 0 p) (ptr s 1 p)
    ((List.range 8).map (fun t => !sendBusyAt s t p (s.cycle + 4))) ((List.range 8).map (fun u => !recvBusyAt s u p (s.cycle + 4)))

/-- ROUNDS_MATCH (R679 to R681): the matching for the slot four cycles ahead on one plane, from the requests of this cycle; one a
cycle. [log 75 DEDUCED] -/
def execRoundsMatch (plane : Fin 4) (s : State) : Host.Outcome State Fault Refusal :=
  let p := plane.val
  nextOf s <| onlyIf (voqMode s && !s.core.matchQ.any (fun m => m.plane = p && m.slot = s.cycle + 4)) s <|
    let m := matching s p
    let pairs := m.pairs.map (fun x => (x.1, x.2, x.2.head?.elim false (fun u => presentsMc s p x.1 u)))
    let s := m.grants.foldl (fun s x => setPtr s 0 p x.1 x.2) s
    let s := m.accepts.foldl (fun s x => setPtr s 1 p x.1 x.2) s
    let s := m.pairs.foldl (fun s x => setPtr s 3 p x.1 (1 - ptr s 3 p x.1)) s
    { s with core := { s.core with matchQ := s.core.matchQ ++ [{ plane := p, slot := s.cycle + 4, pairs := pairs }] } }

/-- A copy's cells have had their slots (R32, R676): one a cycle from the first, the last not before its write. -/
def crossed (s : State) (c : Copy) : Bool :=
  (findFrame s c.frame).elim false (fun f => f.complete && !f.receiving
    && decide (c.crossAt + cellsOf f.octets.length ≤ s.cycle) && decide (f.wroteAt < s.cycle))

/-- PLANE_CROSSING (R664, R676): the slot of the last cell has delivered it; a store-and-forward copy, or a cut-through
copy whose last octet has been written. [log 33 DEDUCED] -/
def execPlaneCrossing (copy : Nat) (s : State) : Host.Outcome State Fault Refusal :=
  nextOf s <|
    match findCopy s copy with
    | none => s
    | some c =>
      onlyIf ((c.stage = .crossing || c.cutting) && crossed s c) s <|
        let late := (findFrame s c.frame).elim false (fun f => c.launch.isSome && f.launch.elim false (launchBad s c.port))
        if voqMode s ∧ late then bump (dropCopy (txCause s c.frame 2) c) (rLaunchDropped c.port)
        else if c.cutting then releaseCells (putCopy s { c with cutting := false }) c.frame
        else if voqMode s ∧ ¬ cutCopy s c then releaseCells (enterEgress s { c with stage := .egress }) c.frame
        else releaseCells (putCopy s { c with stage := .egress }) c.frame

/-- SPILL_COPY (R699): the oldest staged copy of the tile reaches the deep store, while it is available (R704). -/
def execSpillCopy (tile : Fin 8) (s : State) : Host.Outcome State Fault Refusal :=
  nextOf s <| onlyIf (rdB s rCoreStatus 2) s <|
    match s.path.copies.find? (fun c => c.stage = .staged && copyTile s c = tile.val) with
    | none => s
    | some c =>
      onlyIf ((findFrame s c.frame).elim false (fun f => f.complete && !f.receiving)) s
        (perf (releaseCells (putCopy s { c with stage := .deep }) c.frame) 42 0x0501 (c.charge + 1))

/-- The head of a VOQ's deep segment that the refill engine would bring back (R700): once E(e,c) has fallen to REFILL, until the
next frame would take it above SPILL. -/
def refillHead (s : State) (t : Nat) : Option Copy :=
  s.path.copies.find? (fun c => c.stage = .deep && copyTile s c = t
    && ((voqCopies s c.port (sourceIndex (copyPort s c)) c.cls).find? (fun x => x.stage ≠ .queued)).elim false
        (fun x => x.id = c.id)
    && (voqRefilling s c.port (sourceIndex (copyPort s c)) c.cls
      || decide (accE s c.port c.cls (sourceIndex (copyPort s c)) ≤ refillThr (admRow s c.port c.cls)))
    && accE s c.port c.cls (sourceIndex (copyPort s c)) + c.charge ≤ spillThr (admRow s c.port c.cls)
    && accRegion s t 0 + c.charge ≤ sharedSize s t)

/-- After a frame came back: the engine goes on with the VOQ while its next deep frame leaves E(e,c) at or below SPILL (R700). -/
def refillOn (s : State) (e src c : Nat) : State :=
  setRefilling s e src c (((voqCopies s e src c).find? (fun x => x.stage ≠ .queued)).elim false (fun x =>
    decide (accE s e c src + x.charge ≤ spillThr (admRow s e c))))

/-- REFILL (R700, R701): the next frame comes back to the shared region; an emptied VOQ stops spilling. -/
def execRefill (tile : Fin 8) (s : State) : Host.Outcome State Fault Refusal :=
  nextOf s <| onlyIf (rdB s rCoreStatus 2) s <|
    match refillHead s tile.val with
    | none => s
    | some c =>
      let src := sourceIndex (copyPort s c)
      let s := perf (putCopy s { c with stage := .queued, region := 0 }) 42 0x0502 (c.charge + 1)
      let x := takeCells s tile.val c.charge
      let s := setFrames x.1 (x.1.path.frames.map (fun f =>
        if f.id = c.frame then { f with charge := c.charge, region := 0, cellIdx := x.2 } else f))
      settleSpill (refillOn s c.port src c.cls) c.port src c.cls

/-- LAST_OCTET_WRITTEN (R649): every charge made for the frame falls to its cell count, and what the credit account paid
beyond it comes back (R671). -/
def execLastOctetWritten (frame : Nat) (s : State) : Host.Outcome State Fault Refusal :=
  nextOf s <|
    match findFrame s frame with
    | none => s
    | some f =>
      onlyIf (!f.complete && !f.receiving && f.stage = .held) s <|
        let n := cellsOf f.octets.length
        let back (s : State) (c : Copy) : State :=
          if voqMode s ∧ c.frame = frame ∧ c.stage ≠ .queued ∧ c.stage ≠ .staged ∧ c.stage ≠ .deep ∧ c.port < 266 ∧ n < c.charge then
            setCredit s c.port c.cls (creditOf s c.port c.cls + (c.charge - n : Nat))
          else s
        let s := s.path.copies.foldl back s
        let s := setCopies s (s.path.copies.map (fun c => if c.frame = frame then { c with charge := min c.charge n } else c))
        let s := { s with core := { s.core with
          holds := s.core.holds.map (fun h => if h.frame = frame ∧ h.cells = 0 then { h with cells := n, wroteAt := s.cycle + 1 } else h) } }
        releaseCells (putFrame s { f with
          complete := true, cells := n, charge := min f.charge n, cellIdx := f.cellIdx.take n, wroteAt := s.cycle + 1 }) frame

/-- STOMP (R320 to R325, R323): a frame found bad after copies started. Each started copy is stomped, one to a recirculation
port coming back bad; a copy not started is dropped; the cause is counted once at the ingress port. A memory error stomps a
cut-through copy only; others that started have crossed and go on (R706). Causes in the order of Table 5.5. -/
def stompFrame (s : State) (f : Frame) (cause : Nat) : State :=
  let l := s.path.copies.filter (fun c => c.frame = f.id)
  let started := l.filter (fun c => c.started && (cause ≠ 4 || cutCopy s c))
  let kept := l.any (fun c => c.started && !(cause ≠ 4 || cutCopy s c))
  let s := (l.filter (fun c => !c.started)).foldl dropCopy s
  let stomp (s : State) (c : Copy) : State :=
    let c := arriveTail c []
    let n := c.out.length
    let body := if c.protectedBy.isSome then c.out.take (n - 16) ++ (c.out.drop (n - 16)).map (fun b => ~~~ b) else c.out
    let s := if 256 ≤ c.port then cutOff s c.port 0
      else
        let s := perf s (8 + c.port / 8) 0x0202 1
        let s := macAdd (macAdd (macAdd (macAdd s c.port 66 1) c.port 51 1) c.port 49 (n + 4)) c.port (72 + sizeBin (n + 4)) 1
        let s := if c.express ∧ mmActive s c.port then macAdd s c.port 71 1 else s
        emit (lastFrag s c body) (.frameOut c.port (body ++ (leBytes 4 (crc32 body)).map (fun b => ~~~ b)) true)
    macNext (dropCopy (txMark s c.frame (fun x => { x with started := true })) c) c.port
  let s := started.foldl stomp s
  let s := if started = [] ∨ 256 ≤ f.port then s else bump s (rPortDrop f.port (3 + cause))
  if kept then s else removeFrame s f.id

/-- A frame whose ICV failed under STOMP (R376, R377): started copies are stomped and the cause counts; copies to P256 to P265
and those the MAC holds are dropped at once, the others as they are dequeued. -/
def icvFailed (s : State) (f : Frame) : State :=
  let l := s.path.copies.filter (fun c => c.frame = f.id)
  let later (c : Copy) : Bool := !c.started && inQueues s c && (decide (c.port < 256) || c.port = 511)
  if l.any later then
    let s := setCopies s (s.path.copies.filter (fun c => !(c.frame = f.id && later c)))
    let s := stompFrame s f 3
    setFrames (setCopies s (s.path.copies ++ l.filter later)) (s.path.frames ++ [{ f with bad := some 3, icvPending := false, learn := none }])
  else stompFrame s f 3

/-- STOMP (R320 to R325): a frame found bad, once it has arrived to its end; a memory error stomps it then too (R706, R707). -/
def execStomp (frame : Nat) (cause : Fin 5) (s : State) : Host.Outcome State Fault Refusal :=
  nextOf s <|
    match findFrame s frame with
    | none => s
    | some f =>
      onlyIf (f.stage = .held && (f.bad = some cause.val && cause.val ≠ 3 || (f.bad.isNone && cause.val = 4))) s <|
        if f.receiving then putFrame s { f with bad := some 4, learn := none } else stompFrame s f cause.val

/-- The tile whose GLOBAL_RESERVE + HR would pass 57,344 with a reserve of `g` (R658, R659). -/
def reserveFails (s : State) (g : Nat) : Option Nat :=
  findBelow 8 (fun t => tilePresent s t && decide (57344 < g + hr s t))

/-- A write of CORE_CTRL (R654, R659): answers whether GLOBAL_RESERVE was rejected; the rejected write is discarded. -/
def coreCtrlWrite (s : State) (mask value : Word) : State × Bool :=
  let m := mask &&& (fieldMask 48 32 ||| fieldMask 29 12 ||| fieldMask 1 0)
  let v := (rd s rCoreCtrl &&& ~~~ m) ||| (value &&& m)
  match (if field v 48 32 = globalReserve s then none else reserveFails s (field v 48 32)) with
  | some t => (postHw (wrB s rCoreStatus 1 true) 0x4608 [(4, field v 48 32), (1, t)], true)
  | none => (wr s rCoreCtrl v, false)

end Sys2Proof.Machine
end

