-- ==== Sys2Proof/Machine/Sched.lean ====
section
/-! DEFINITION. Buckets, shapers, policers, storm meters, the egress scheduler and the credit engine (chapter Scheduling,
Shaping and Policing). -/

namespace Sys2Proof.Machine

-- Buckets (R737 to R741)

/-- 2^-32 of a level unit, 1/256 octet, per octet. -/
def octetUnits : Int := 256 * 2 ^ 32

/-- A rate in kb/s as R739 takes it. -/
def effRate (r : Nat) : Nat := if r = 0 then 0 else if r < 8 then 8 else min r 1600000000

/-- INC of R738, in 2^-32 of a level unit per core cycle. -/
def bucketInc (rate : Nat) : Nat := effRate rate * 2 ^ 32 / 50000

/-- The level of a bucket now: unlisted buckets are full (R758). -/
def bucketLevel (s : State) (k inc : Nat) (cap : Int) : Int :=
  match smGet (fun _ => none) s.core.buckets k with
  | none => cap
  | some b => min cap (b.level + (inc : Int) * (s.cycle - b.cycle : Nat))

def setBucket (s : State) (k : Nat) (b : Option Bucket) : State :=
  { s with core := { s.core with buckets := smSet (fun _ => none) s.core.buckets k b } }

/-- Take an amount from a bucket when its level is 0 or above (R741). -/
def chargeBucket (s : State) (k inc : Nat) (cap amount : Int) : State :=
  let l := bucketLevel s k inc cap
  if 0 ≤ l then setBucket s k (some { level := l - amount, cycle := s.cycle }) else s

/-- Fix a bucket's level at the present cycle, before its rate changes (R555, R755, R762). -/
def fixBucket (s : State) (k inc : Nat) (cap : Int) : State :=
  match smGet (fun _ => none) s.core.buckets k with
  | none => s
  | some _ => setBucket s k (some { level := bucketLevel s k inc cap, cycle := s.cycle })

/-- Keys: shaper row r, policer i, storm meter; committed 0, peak 1. -/
def kShaper (r w : Nat) : Nat := 1 * 2 ^ 20 + r * 2 + w
def kPolicer (i w : Nat) : Nat := 2 * 2 ^ 20 + i * 2 + w
def kStorm (p m : Nat) : Nat := 4 * 2 ^ 20 + p * 4 + m
def kSnare (r : Nat) : Nat := 5 * 2 ^ 20 + r
def kHostCap : Nat := 6 * 2 ^ 20

/-- The move bucket of port p, its gain per core cycle, its greatest level and one token (R555). -/
def kMove (p : Nat) : Nat := 7 * 2 ^ 20 + p
def moveInc (s : State) (p : Nat) : Nat := rdF s (rPortLearn p) 23 8
def moveUnit : Int := 1600000000
def moveCap : Int := 16 * moveUnit

/-- Rate, burst and level of bucket w (0 committed, 1 peak) of a shaper or policer row image (Tables 11.3, 11.4). -/
def rowRate (img w : Nat) : Nat := if w = 0 then bits img 30 0 else bits img 94 64
def rowBurst (img w : Nat) : Int := ((if w = 0 then bits img 55 32 else bits img 119 96 : Nat) : Int)
def rowMode (img : Nat) : Nat := bits img 191 190
def rowOverhead (img : Nat) : Int := signedOf 7 (bits img 188 182)
def rowLevel (s : State) (k img w : Nat) : Int := bucketLevel s k (bucketInc (rowRate img w)) (rowBurst img w * octetUnits)

/-- The charged length of a frame at a row (R740). -/
def chargedLen (img len : Nat) : Nat := (max 1 ((len : Int) + rowOverhead img)).toNat

def chargeRow (s : State) (k img w len : Nat) : State :=
  chargeBucket s k (bucketInc (rowRate img w)) (rowBurst img w * octetUnits) ((chargedLen img len : Int) * octetUnits)

/-- The wire time in ns of a length charged under the port shaper row (R819). -/
def wireNs (s : State) (p len : Nat) : Nat :=
  chargedLen (liveRow s 0x620 (p * 10 + 9)) len * 8000 / max (portRate s p) 1

def isExpress (s : State) (p q : Nat) : Bool := q = 8 || (rdF s (rMmCfg p) 31 24).testBit q

-- Policers (R748 to R753)

def policerRow (s : State) (i : Nat) : Nat := liveRow s 0x621 i

/-- Meter a frame at policer i: the state with its buckets charged, and the colour 0 green, 1 yellow, 2 red (R749).
[log 42 DEDUCED] -/
def policerMeter (s : State) (i len hv : Nat) : State × Nat :=
  let img := policerRow s i
  let m := rowMode img
  let x := bits hv (bits img 176 167 + 1) (bits img 176 167)
  let inC := if m = 2 then (if x = 0 then 0 else if x = 1 then 1 else 2) else 0
  if m = 0 then (s, 0)
  else if inC = 2 ∨ rowLevel s (kPolicer i 1) img 1 < 0 then (s, 2)
  else if inC = 1 ∨ rowLevel s (kPolicer i 0) img 0 < 0 then (chargeRow s (kPolicer i 1) img 1 len, 1)
  else (chargeRow (chargeRow s (kPolicer i 0) img 0 len) (kPolicer i 1) img 1 len, 0)

/-- Count the colour in set 0x0804 (R751). -/
def countColour (s : State) (i c : Nat) : State :=
  frameCount s (ctrKey 0x0804 i c) (rPolHalf (i / 64)) (i % 64)

-- Storm meters (R759 to R762)

def stormRate (w : Word) : Nat := min (field w 25 0) 50000000
def stormBurst (w : Word) : Int := ((max (field w 63 48) 1 : Nat) : Int)
def stormInc (w : Word) : Nat := stormRate w * 2 ^ 32 / 1600000000

/-- A frame meets storm meter m of port p: it passes, or counts in STORM_DROP (R761, R765, R767). -/
def stormMeter (s : State) (p m : Nat) : State × Bool :=
  let w := rd s (rStorm p m)
  if ¬ w.getLsbD 32 then (s, true)
  else
    let cap := stormBurst w * 2 ^ 32
    let l := bucketLevel s (kStorm p m) (stormInc w) cap
    if 2 ^ 32 ≤ l then (setBucket s (kStorm p m) (some { level := l - 2 ^ 32, cycle := s.cycle }), true)
    else
      let s := bump s (rStormDrop p)
      (postRate s cyclesPerSec p 0x4701 [(2, p), (1, m), (4, (rd s (rStormDrop p)).toNat)], false)

/-- A write of a storm meter register (R762): BURST refills, RATE and ENABLE keep the level. -/
def stormWrite (s : State) (p m : Nat) (mask value : Word) : State :=
  let old := rd s (rStorm p m)
  let k := mask &&& (fieldMask 63 48 ||| fieldMask 32 32 ||| fieldMask 25 0)
  let new := (old &&& ~~~ k) ||| (value &&& k)
  let s := if field old 63 48 = field new 63 48 then fixBucket s (kStorm p m) (stormInc old) (stormBurst old * 2 ^ 32)
    else setBucket s (kStorm p m) none
  wr s (rStorm p m) new

-- Queues (R713 to R722)

def spCount (img : Nat) : Nat := bits img 1 0
def weightOf (img q : Nat) : Nat :=
  max (if q < 5 then bits img (64 + 12 * q + 11) (64 + 12 * q) else bits img (128 + 12 * (q - 5) + 11) (128 + 12 * (q - 5))) 1
def creditQuantum (img : Nat) : Nat := min (max (bits img 55 48) 4) 64
def creditTarget (img : Nat) : Nat := if bits img 47 37 = 0 then 64 else min (bits img 47 37) 1024

/-- The stage in which copies stand in an egress queue: R666 in shared mode, the egress tile in VOQ mode. -/
def queueStage (s : State) : CopyStage := if voqMode s then .egress else .queued

/-- A cut-through copy whose cells are crossing: it goes on before they all have (R694, R721). [log 47 DEDUCED] -/
def cuts (s : State) (c : Copy) : Bool := c.stage = .crossing && cutCopy s c

/-- The copies in queue q of port p, in its order (R666, R715). -/
def queueCopies (s : State) (p q : Nat) : List Copy :=
  s.path.copies.filter (fun c => c.port = p && c.queue = q && (c.stage = queueStage s || (voqMode s && cuts s c)))

/-- The head of a queue: the first, for QT the least launch time, order of entry among equals. -/
def queueHead (s : State) (p q : Nat) : Option Copy :=
  if q = 8 then
    (queueCopies s p q).foldl (fun b c => match b with
      | none => some c
      | some x => if c.launch.getD 0 < x.launch.getD 0 then some c else some x) none
  else (queueCopies s p q).head?

def copyLen (s : State) (c : Copy) : Nat := (findFrame s c.frame).elim 0 (fun f => f.len)

/-- The spans of one cycle of a gate list, its entries given by `ent`: start and gates (R816). -/
def gateSpans (ent : Nat → Nat) : List (Nat × Nat) :=
  let cyc := max (glCycle (ent 0)) 1
  let entry (acc : Nat × List (Nat × Nat)) (e : Nat) : Nat × List (Nat × Nat) :=
    if acc.1 < cyc then (acc.1 + geInterval (ent e), acc.2 ++ [(acc.1, geGates (ent e))]) else acc
  ((List.range (glLen (ent 0))).foldl entry (0, [])).2

/-- The starts, in a cycle of a gate list, of the spans that have gate q closed. -/
def gateCloses (ent : Nat → Nat) (q : Nat) : List Nat :=
  ((gateSpans ent).filter (fun x => !x.2.testBit q)).map (·.1)

/-- Nanoseconds until the pending change of port p's list, none where there is none. -/
def gateRest (s : State) (p : Nat) : Option Nat :=
  if rdB s (rGateStatus p) 62 then some (smGet (fun _ => 0) s.core.gateChange p - opNs s) else none

/-- Nanoseconds until gate q of port p next closes, none when it stays open (R819): by the operational list up to a pending
change, with the extension of R826, and by the new list from the change on. -/
def gateClosing (s : State) (p q : Nat) : Option Nat :=
  let rest := gateRest s p
  let own := if rdB s (rGateStatus p) 63 then
      let cyc := max (glCycle (gateEnt s p 0)) 1
      let off := gateOff s p
      let next := cyc - off
      let starts := gateCloses (gateEnt s p) q
      let more := if cyc ≤ off ∨ rest.elim false (fun r => gateExtended s p ((r : Int) - next)) then []
        else starts.map (· + next)
      (((starts.filter (fun x => off < x)).map (· - off) ++ more).filter (fun x => rest.elim true (fun r => decide (x < r)))).head?
    else none
  let new := rest.elim none (fun r =>
    let ent (e : Nat) : Nat := liveRow s 0x640 (p * 1024 + e)
    if glEnable (ent 0) then
      let cyc := max (glCycle (ent 0)) 1
      let off := (((opNs s + r : Int) - glBase (ent 0)) % (cyc : Int)).toNat
      let starts := gateCloses ent q
      (((starts.filter (fun x => off ≤ x)).map (· - off) ++ starts.map (· + (cyc - off))).head?).map (· + r)
    else none)
  own <|> new

/-- The gate of queue q is open for the head (R721, R819, R820). -/
def gateOpen (s : State) (p q len : Nat) : Bool :=
  256 ≤ p || ((rdF s (rGateStatus p) 56 48).testBit q &&
    (match gateClosing s p q with
     | none => true
     | some t =>
       let need := if mmActive s p ∧ ¬ isExpress s p q then
           ((1 + rdF s (rMmCfg p) 17 16) * 64 + 20) * 8000 / max (portRate s p) 1
         else wireNs s p len
       decide (need ≤ t)))

def shaperRow (s : State) (p q : Nat) : Nat := liveRow s 0x620 (p * 10 + q)
def shaperOk (s : State) (p q : Nat) : Bool :=
  let img := shaperRow s p q
  rowMode img = 0 || decide (0 ≤ rowLevel s (kShaper (p * 10 + q) 1) img 1)

def launchTol (s : State) (p : Nat) : Nat := rdF s (rPortTimeCfg p) 63 48

/-- A QT head is late (R811): operational time has passed its launch time plus LAUNCH_TOL. -/
def launchLate (s : State) (p : Nat) (c : Copy) : Bool :=
  c.late || c.launch.elim false (fun l => decide (l + launchTol s p < opNs s))

/-- A frame of QT is late at its selection (R811): what is sent now crosses the MDI after its launch time plus LAUNCH_TOL.
[log 119 DESIGN CHOICE] -/
def missesLaunch (s : State) (p : Nat) (c : Copy) : Bool :=
  c.late || c.launch.elim false (fun l => decide (l + launchTol s p < opNs s + Config.txDelayNs p))

/-- The line of P265 carries at most 10 Gb/s in each direction (R931): the cycle from which it takes its next frame, into the
switch (`inward`) or out of it. -/
def kMpLine (inward : Bool) : Nat := 9 * 2 ^ 16 + 24 + b2n inward

/-- [log 120 DEDUCED] -/
def mpLineFree (s : State) (inward : Bool) : Bool := decide (smGet (fun _ => 0) s.core.ptrs (kMpLine inward) ≤ s.cycle)

/-- A frame of n octets takes P265's line: 0.8 ns an octet. [log 120 DEDUCED] -/
def mpLineTake (s : State) (inward : Bool) (n : Nat) : State :=
  { s with core := { s.core with
    ptrs := smSet (fun _ => 0) s.core.ptrs (kMpLine inward) (s.cycle + (n * 32 + 24) / 25) } }

/-- The queue of a port is eligible (R721). [log 119 DESIGN CHOICE] -/
def queueEligible (s : State) (p q : Nat) : Bool :=
  match queueHead s p q with
  | none => false
  | some c =>
    (voqMode s || frameReady s c)
    && (p < 256 || (findFrame s c.frame).elim true (fun f => !f.icvPending))
    && !((p = 264 || p = 265) && s.path.copies.any (fun x => x.port = p && x.queue = q && (x.stage = .hostWait || x.stage = .selected)))
    && (p ≠ 265 || mpLineFree s false)
    && !queueHeld s p q && linkUp s p && !inLinkHold s p && gateOpen s p q (copyLen s c)
    && shaperOk s p q && shaperOk s p 9
    && (q ≠ 8 || c.late || c.launch.elim true (fun l => decide (l ≤ opNs s + Config.txDelayNs p)))

/-- The COMMITTED tier (R722). -/
def committed (s : State) (p q : Nat) : Bool :=
  let img := shaperRow s p q
  rowMode img = 2 && decide (0 ≤ rowLevel s (kShaper (p * 10 + q) 0) img 0)

-- Virtual time (R723 to R730): kind 0 scheduler, 1 credit engine
def vKey (kind p j : Nat) : Nat := kind * 2 ^ 20 + p * 64 + j
def vGet (s : State) (k : Nat) : Nat := smGet (fun _ => 0) s.core.vtime k
def vSet (s : State) (k v : Nat) : State := { s with core := { s.core with vtime := smSet (fun _ => 0) s.core.vtime k v } }
def kV (kind p : Nat) : Nat := vKey kind p 0
def kFin (kind p q : Nat) : Nat := vKey kind p (1 + q)
def kLast (kind p q : Nat) : Nat := vKey kind p (17 + q)
def kTag (kind p q : Nat) : Nat := vKey kind p (33 + q)

/-- a is at or after b as 64-bit values compared by signed difference (R725). -/
def v64Ge (a b : Nat) : Bool := decide ((a + 2 ^ 64 - b % 2 ^ 64) % 2 ^ 64 < 2 ^ 63)

/-- The tag of a head of charged length L (R723). -/
def headTag (s : State) (kind p q len weight : Nat) : Nat :=
  let v := vGet s (kV kind p)
  let l := vGet s (kLast kind p q)
  ((if v64Ge v l then v else l) + len * 65536 / weight) % 2 ^ 64

/-- Keep the tags of the weighted queues up to date, and LAST_FIN of every queue that is not eligible (R724, R725, R729): `elig q`
gives the identity of an eligible queue's head. -/
def retag (s : State) (kind p : Nat) (k : Nat) (elig : Nat → Option Nat) (len : Nat → Nat) (weight : Nat → Nat) : State :=
  (List.range 8).foldl
    (fun s q =>
      match elig q with
      | some id =>
        if 8 - k ≤ q ∨ vGet s (kTag kind p q) = id + 1 then s
        else vSet (vSet s (kFin kind p q) (headTag s kind p q (len q) (weight q))) (kTag kind p q) (id + 1)
      | none =>
        let s := vSet s (kTag kind p q) 0
        if v64Ge (vGet s (kV kind p)) (vGet s (kLast kind p q)) then vSet s (kLast kind p q) (vGet s (kV kind p)) else s) s

/-- The weighted queue of least FIN, the highest among equals (R723). -/
def leastFin (s : State) (kind p : Nat) (set_ : List Nat) : Option Nat :=
  set_.foldl (fun b q => match b with
    | none => some q
    | some x => if v64Ge (vGet s (kFin kind p x)) (vGet s (kFin kind p q)) then some q else some x) none

/-- The choice of R723 among class queues: strict ones from Q7 down, then the tiers. -/
def chooseQueue (s : State) (kind p k : Nat) (elig : Nat → Bool) (com : Nat → Bool) : Option Nat :=
  match ((List.range k).map (fun i => 7 - i)).find? elig with
  | some q => some q
  | none =>
    let w := (List.range (8 - k)).filter elig
    match leastFin s kind p (w.filter com) with
    | some q => some q
    | none => leastFin s kind p w

/-- V and LAST_FIN after a weighted queue is served (R723). -/
def servedBy (s : State) (kind p k q : Nat) : State :=
  if q < 8 - k then
    let f := vGet s (kFin kind p q)
    vSet (vSet (vSet s (kV kind p) f) (kLast kind p q) f) (kTag kind p q) 0
  else s

/-- Charge the shapers of a selected frame (R744, R745). -/
def chargeShapers (s : State) (p q len : Nat) : State :=
  let img := shaperRow s p q
  let r := p * 10 + q
  let s := if rowMode img = 1 ∨ rowMode img = 2 then chargeRow s (kShaper r 1) img 1 len else s
  let s := if rowMode img = 2 then chargeRow s (kShaper r 0) img 0 len else s
  let pi := shaperRow s p 9
  if rowMode pi = 1 then chargeRow s (kShaper (p * 10 + 9) 1) pi 1 len else s

/-- MAX_RESIDENCY in microseconds (Table 5.11). -/
def maxResidency (s : State) (p : Nat) : Nat := min (max (rdF s (rLinkCfg p) 51 32) 1) 1000000

/-- A frame enqueued before the link-up that ended a hold has stayed too long (R333). -/
def aged (s : State) (p : Nat) (c : Copy) : Bool :=
  p < 256 && (smGet (fun _ => []) s.path.linkUpAt p).any (fun x => decide (c.enq < x.1)) && decide (maxResidency s p * cyclesPerUs < s.cycle - c.enq)

/-- Drop a QT frame that is late under LATE_POLICY DROP, or count one that is sent late (R812, R813, R838). -/
def launchCount (s : State) (p : Nat) (drop : Bool) : State :=
  let o := if drop then rLaunchDropped p else rLaunchLate p
  let s := bump s o
  postRate s cyclesPerSec p 0x4803 [(2, p), (1, b2n drop), (4, (rd s o).toNat)]

/-- The stream a copy belongs to is free: at most one selected frame per stream waits for the MAC (R726). -/
def streamFree (s : State) (p : Nat) (express : Bool) : Bool :=
  !s.path.copies.any (fun c => c.port = p && !c.started && (!mmActive s p || c.express == express)
    && (c.stage = .selected || c.stage = .mac || (c.stage = .crossing && !voqMode s) || (c.stage = .egress && !voqMode s)))

/-- Serve the head of queue q of port p: copies of a frame whose ICV failed (R376), aged and removed-port frames are dropped at dequeue (R333, R292), a late QT
frame follows LATE_POLICY (R811 to R813), any other is selected (R744, R850). -/
def serveQueue (s : State) (p k q : Nat) (c : Copy) : State :=
  let len := copyLen s c
  let s := markSojourn (if q = 8 then s else servedBy s 0 p k q) c
  if (findFrame s c.frame).elim false (fun f => f.bad = some 3) then dropCopy s c
  else if p < 256 ∧ ¬ (portActive s p ∧ portEn s p) then bump (dropCopy s c) (rPortDrop p 2)
  else if aged s p c then
    let s := bump s (rPortDrop p 1)
    dropCopy { s with
      path := { s.path with
      linkUpAt := smSet (fun _ => []) s.path.linkUpAt p ((smGet (fun _ => []) s.path.linkUpAt p).map (fun x =>
        if c.enq < x.1 then (x.1, x.2 + 1) else x)) } } c
  else
    let late := q = 8 && missesLaunch s p c
    if late ∧ rdB s (rPortTimeCfg p) 0 then launchCount (dropCopy (txCause s c.frame 2) c) p true
    else
      let s := if late ∧ ¬ c.late then launchCount s p false else s
      let s := chargeShapers s p q len
      let s := if p = 265 then mpLineTake s false len else s
      let s := frameCount s (ctrKey 0x0806 p q) (rQueueHalf p) q
      agedDone (putCopy s { c with stage := .selected, late := late, express := isExpress s p q, cutting := cuts s c }) p

/-- The head tags of port p's weighted queues (R724). -/
def retagPort (s : State) (p : Nat) : State :=
  let img := schedRow s p
  let head (q : Nat) : Option Nat := if queueEligible s p q then (queueHead s p q).map (·.id) else none
  let lenOf (q : Nat) : Nat := (queueHead s p q).elim 0 (fun c => chargedLen (shaperRow s p 9) (copyLen s c))
  retag s 0 p (spCount img) head lenOf (weightOf img)

/-- SCHEDULER_SELECT (R721 to R729, R744): one stream selects among the port's queues, two while preemption is active. -/
def execSchedulerSelect (port : Fin 266) (express : Bool) (s : State) : Host.Outcome State Fault Refusal :=
  let p := port.val
  nextOf s <| onlyIf (devState s = stRun && portPresent s p && streamFree s p express && !lanesIdle s p) s <|
    let img := schedRow s p
    let k := spCount img
    let mine (q : Nat) : Bool := !mmActive s p || isExpress s p q == express
    let elig (q : Nat) : Bool := mine q && queueEligible s p q
    let s1 := retagPort s p
    if elig 8 then (queueHead s p 8).elim s1 (fun c => serveQueue s1 p k 8 c)
    else
      match chooseQueue s1 0 p k elig (committed s1 p) with
      | none => s1
      | some q => (queueHead s p q).elim s1 (fun c => serveQueue s1 p k q c)

/-- LAUNCH_LATE (R811 to R813): the QT head, not yet selected, has passed its launch time plus LAUNCH_TOL. -/
def execLaunchLate (port : Fin 266) (s : State) : Host.Outcome State Fault Refusal :=
  let p := port.val
  nextOf s <|
    match queueHead s p 8 with
    | none => s
    | some c =>
      onlyIf (!c.late && launchLate s p c) s <|
        if rdB s (rPortTimeCfg p) 0 then launchCount (dropCopy (txCause (markSojourn s c) c.frame 2) c) p true
        else launchCount (putCopy s { c with late := true }) p false

-- Credit (R731 to R736)

def demand (s : State) (p c : Nat) : Bool :=
  s.path.copies.any (fun x => x.port = p && x.cls = c && (x.stage = .queued || x.stage = .staged || x.stage = .deep))

def backlog (s : State) (p c : Nat) : Nat :=
  sumBy (s.path.copies.filter (fun x => x.port = p && x.cls = c && (x.stage = .egress || x.stage = .selected || x.stage = .crossing)))
    (cellsOver s)

/-- Class c of port p is credit-eligible (R733). -/
def creditEligible (s : State) (p c : Nat) : Bool :=
  demand s p c && decide (creditOf s p c ≤ 0) && decide (backlog s p c < creditTarget (schedRow s p))
    && linkUp s p && !inLinkHold s p && !queueHeld s p (queueOfClass s p c)

/-- The class that maps to queue q (R714, R718). -/
def classOfQueue (s : State) (p q : Nat) : Nat := (findBelow 8 (fun c => queueOfClass s p c = q)).getD q

/-- The tags of port p's credit engine (R724, R735). -/
def retagCredit (s : State) (p : Nat) : State :=
  let img := schedRow s p
  let elig (q : Nat) : Bool := creditEligible s p (classOfQueue s p q)
  let head (q : Nat) : Option Nat := if elig q then some (vGet s (vKey 1 p 61)) else none
  retag s 1 p (spCount img)
    (fun q => if elig q then (if vGet s (kTag 1 p q) ≠ 0 then some (vGet s (kTag 1 p q) - 1) else head q) else none)
    (fun _ => creditQuantum img * 256) (weightOf img)

/-- Ports whose queues or classes have a tag. -/
def taggedPorts (s : State) : List Nat :=
  (s.core.vtime.filter (fun x => decide (33 ≤ x.1 % 64) && decide (x.1 % 64 < 49))).map (fun x => x.1 % 2 ^ 20 / 64)

/-- The tags of every port that holds a copy or has a tag, as its queues now stand (R724, R725, R729, R734). -/
def retagAll (s : State) : State :=
  let ports := (s.path.copies.map (fun c => c.port) ++ taggedPorts s).foldl (fun l p => if p < 266 ∧ ¬ l.contains p then p :: l else l) []
  ports.foldl (fun s p => if voqMode s then retagCredit (retagPort s p) p else retagPort s p) s

/-- CREDIT_ISSUE (R733 to R735): the chosen class receives CREDIT_QUANTUM cells, at most one issue per 4 cycles. -/
def execCreditIssue (port : Fin 266) (s : State) : Host.Outcome State Fault Refusal :=
  let p := port.val
  nextOf s <| onlyIf (voqMode s && portPresent s p && decide (vGet s (vKey 1 p 60) ≤ s.cycle)) s <|
    let img := schedRow s p
    let k := spCount img
    let elig (q : Nat) : Bool := creditEligible s p (classOfQueue s p q)
    let s := retagCredit s p
    match chooseQueue s 1 p k elig (committed s p) with
    | none => s
    | some q =>
      let c := classOfQueue s p q
      let s := servedBy s 1 p k q
      let s := setCredit s p c (creditOf s p c + creditQuantum img)
      vSet (vSet s (vKey 1 p 60) (s.cycle + 4)) (vKey 1 p 61) (vGet s (vKey 1 p 61) + 1)

end Sys2Proof.Machine
end

