-- ==== Sys2Proof/Machine/Case.lean ====
section
/-! DEFINITION. The Case: locations, hashing, lookups, insertion with displacement, learned entries, their counts and
records (chapter The Case: Exact Match and Address Learning). -/

namespace Sys2Proof.Machine

-- Hashing (R522 to R524)

/-- K′ of R522: the XOR of the 96-bit segments of a key of `w` slots. -/
def hashInput (key w : Nat) : Nat := (List.range w).foldl (fun h i => h ^^^ (key >>> (96 * i)) % 2 ^ 96) 0

/-- H_i of R523 for a 128-bit seed. -/
def hashH (seed k : Nat) : Nat :=
  (List.range 96).foldl (fun h i => if k.testBit i then h ^^^ (seed >>> (i + 1)) % 2 ^ 32 else h) 0

def caseSeed (s : State) (i : Nat) : Nat := (rd s (rCaseSeed (2 * i))).toNat + (rd s (rCaseSeed (2 * i + 1))).toNat * 2 ^ 64

/-- The two buckets of a key, numbered bank × 4,096 + row (R524). -/
def bucketsOf (s1 s2 key w : Nat) : Nat × Nat :=
  let k := hashInput key w
  let a := hashH s1 k
  let b := hashH s2 k
  let ba := a % 64
  let bb := if b % 64 = ba then ba ^^^ 32 else b % 64
  (ba * 4096 + bits a 17 6, bb * 4096 + bits b 17 6)

/-- The two buckets of a key under the seeds in force. -/
def caseBuckets (s : State) (key w : Nat) : Nat × Nat := bucketsOf (caseSeed s 0) (caseSeed s 1) key w

-- Entries

def entLive (e : CaseEnt) (parity : Bool) : Bool := if parity then e.v1 else e.v0

/-- The entry a lookup hits in a parity: the one in the first bucket when both hold one (R526, R527). -/
def caseLookup (s : State) (parity : Bool) (key w : Nat) : Option CaseEnt :=
  let l := s.forme.case.filter (fun e => e.key = key && e.slots = w && entLive e parity)
  match l.find? (fun e => e.loc / 4 = (caseBuckets s key w).1) with
  | some e => some e
  | none => l.head?

/-- Banks of the Case that lookups read in this core cycle (R103). -/
def caseBusyNow (s : State) : List Nat := if s.forme.caseAt = s.cycle + 1 then s.forme.caseBusy else []

/-- A lookup of a key reads the banks of its two buckets. -/
def caseRead (s : State) (k : Option (Nat × Nat)) : State :=
  match k with
  | none => s
  | some (key, w) =>
    let b := caseBuckets s key w
    { s with forme := { s.forme with caseAt := s.cycle + 1, caseBusy := [b.1 / 4096, b.2 / 4096] ++ caseBusyNow s } }

/-- Banks in which two contents of the Case differ. [log 105 DEDUCED] -/
def caseTouched (a b : List CaseEnt) : List Nat :=
  (a.filter (fun e => !b.contains e) ++ b.filter (fun e => !a.contains e)).map (fun e => e.loc / 16384)

/-- A write of the Case that takes s to t finds no lookup in its banks (R103). [log 105 DEDUCED] -/
def caseOpen (s t : State) : Bool := caseBusyNow s = [] || !(caseTouched s.forme.case t.forme.case).any (fun b => (caseBusyNow s).contains b)

/-- A write of the Case that takes s to t waits while a lookup reads one of its banks (R103, R104). [log 105 DEDUCED] -/
def caseTurn (s t : State) : State := if caseOpen s t then t else s

/-- Slots `[g, g+w)` of a bucket hold no entry (R540: an entry listed has a validity bit). -/
def slotsFree (c : List CaseEnt) (b g w : Nat) : Bool :=
  !c.any (fun e => decide (e.loc < b * 4 + g + w) && decide (b * 4 + g < e.loc + e.slots))

/-- A group of slots that a displacement path is emptying: its bucket, first slot and slots. -/
abbrev Emptying := List (Nat × Nat × Nat)

/-- Slots `[g, g+w)` of a bucket lie outside the groups being emptied. -/
def untouched (r : Emptying) (b g w : Nat) : Bool :=
  !r.any (fun x => x.1 = b && decide (x.2.1 < g + w) && decide (g < x.2.1 + x.2.2))

/-- The lowest aligned group of w free slots of a bucket (R534), none of them being emptied for another entry. -/
def freeGroup (c : List CaseEnt) (r : Emptying) (b w : Nat) : Option Nat :=
  ((List.range 4).filter (fun g => g % w = 0)).find? (fun g => slotsFree c b g w && untouched r b g w)

def bktPtr (p : SMap Nat) (b : Nat) : Nat := smGet (fun _ => 0) p b

/-- Make room for w slots in bucket b by displacement (R535 to R539): the pointers advance whether or not a path is found;
`n` counts the moves made, at most `limit`; `r` are the groups that the path so far empties, which no further move fills or
empties again. The answer holds the store after the moves and the group freed. -/
def makeRoom (s1 s2 limit : Nat) : Nat → List CaseEnt → SMap Nat → Emptying → Nat → Nat → Nat →
    SMap Nat × Option (List CaseEnt × Nat × Nat)
  | 0, _, p, _, _, _, _ => (p, none)
  | fuel + 1, c, p, r, n, b, w =>
    let g := bktPtr p b / w * w
    let p := smSet (fun _ => 0) p b ((bktPtr p b + w) % 4)
    let victims := c.filter (fun e => decide (e.loc < b * 4 + g + w) && decide (b * 4 + g < e.loc + e.slots))
    let r' := (b, g, w) :: r
    let one (a : SMap Nat × Option (List CaseEnt × Nat)) (v : CaseEnt) : SMap Nat × Option (List CaseEnt × Nat) :=
      match a.2 with
      | none => a
      | some (c, n) =>
        if limit ≤ n then (a.1, none)
        else
          let k := bucketsOf s1 s2 v.key v.slots
          let o := if v.loc / 4 = k.1 then k.2 else k.1
          let put (c : List CaseEnt) (h : Nat) : List CaseEnt :=
            c.map (fun e => if e = v then { e with loc := o * 4 + h } else e)
          match freeGroup c r' o v.slots with
          | some h => (a.1, some (put c h, n + 1))
          | none =>
            match makeRoom s1 s2 limit fuel c a.1 ((b, v.loc % 4, v.slots) :: r') (n + 1) o v.slots with
            | (p, none) => (p, none)
            | (p, some (c, n, h)) => (p, some (put c h, n))
    if ¬ untouched r b g w ∨ victims.any (fun v => !untouched r b (v.loc % 4) v.slots) then (p, none)
    else
      match victims.foldl one (p, some (c, n)) with
      | (p, none) => (p, none)
      | (p, some (c, n)) => (p, some (c, n, g))

/-- Put an entry into the store list in order of location. -/
def putEnt (e : CaseEnt) : List CaseEnt → List CaseEnt
  | [] => [e]
  | x :: t => if e.loc < x.loc then e :: x :: t else x :: putEnt e t

def setCase (s : State) (c : List CaseEnt) : State := { s with forme := { s.forme with case := c } }

/-- Insert an entry within a displacement limit (R534 to R539, R1169): false when no path exists. -/
def caseInsert (s : State) (limit : Nat) (e : CaseEnt) : State × Bool :=
  let k := caseBuckets s e.key e.slots
  let put (s : State) (b g : Nat) : State := setCase s (putEnt { e with loc := b * 4 + g } s.forme.case)
  match freeGroup s.forme.case [] k.1 e.slots with
  | some g => (put s k.1 g, true)
  | none =>
    match freeGroup s.forme.case [] k.2 e.slots with
    | some g => (put s k.2 g, true)
    | none =>
      let r := makeRoom (caseSeed s 0) (caseSeed s 1) limit (limit + 1) s.forme.case s.learn.bktPtr [] 0 k.1 e.slots
      let s := { s with learn := { s.learn with bktPtr := r.1 } }
      match r.2 with
      | none => (s, false)
      | some (c, _, g) => (put (setCase s c) k.1 g, true)

/-- Occupied slots: learned, or static (Table 8.8). -/
def caseSlots (s : State) (learned : Bool) : Nat := sumBy (s.forme.case.filter (fun e => e.learned = learned)) (fun e => e.slots)

/-- Free entries available for imposition (R540). -/
def caseFree (s : State) : Nat :=
  1048576 - (caseSlots s true + caseSlots s false) - min (rdF s rCaseCtrl 52 32) 1048576

-- Learned entries (R508, R510, R541 to R557)

/-- The FDB key of a bridge domain and address (Table 8.1). -/
def fdbKey (bd mac : Nat) : Nat := 1 * 2 ^ 92 + (bd % 2 ^ 14) * 2 ^ 78 + mac % 2 ^ 48
def keyBd (k : Nat) : Nat := bits k 91 78
def keyMac (k : Nat) : Nat := bits k 47 0
def entDest (e : CaseEnt) : Nat := bits e.result 17 0
def entAge (e : CaseEnt) : Nat := bits e.result 47 32

/-- LEARN_DEST of a port (Table 8.12: DKIND 2 or 3 acts as the port). -/
def learnDest (s : State) (p : Nat) : Nat :=
  let d := rdF s (rPortLearn p) 63 46
  if 2 ^ 17 ≤ d then p else d

def learnedFind (s : State) (bd mac : Nat) : Option CaseEnt := s.forme.case.find? (fun e => e.learned && e.key = fdbKey bd mac)

/-- Learned entries with a destination, and in a bridge domain (R552). -/
def destCount (s : State) (d : Nat) : Nat := (s.forme.case.filter (fun e => e.learned && entDest e = d)).length
def bdCount (s : State) (b : Nat) : Nat := (s.forme.case.filter (fun e => e.learned && keyBd e.key = b)).length

/-- Requests still queued, which count as learned (R553): those that answer to `p`. -/
def queuedReqs (s : State) (p : LearnReq → Bool) : Nat :=
  ((s.learn.learnQ.flatMap (fun x => x.2) ++ s.learn.rebal).filter p).length

/-- ADDR_LIMIT of the port's register and of the bridge domain's (R553). -/
def portLimit (s : State) (p : Nat) : Nat := rdF s (rPortLearn p) 43 24
def bdLimit (s : State) (b : Nat) : Nat := rdF s (rBdCfg b) 59 40

/-- LIMIT_ACTION: 3 acts as 2. -/
def limitAction (v : Nat) : Nat := min v 2

/-- The effective AGE_LIMIT (Table 8.9); 0 when ageing is off. -/
def ageLimit (s : State) : Nat :=
  let a := rdF s rCaseCtrl 15 0
  if a = 0 then 0 else if a < 10 then 10 else min a 32767

/-- The age of an entry (R542, R561). -/
def ageOf (s : State) (e : CaseEnt) : Nat := (s.learn.ageClock + 65536 - entAge e) % 65536

-- Learn records (R566 to R568, Table 8.6)

def learnSize (s : State) : Nat := 2 ^ (min (rdF s rLearnCtrl 27 24) 8 + 8)

/-- Write a learn record of a KIND. -/
def learnRecord (s : State) (kind bd mac old new : Nat) : State :=
  if ¬ rdB s rLearnCtrl 0 ∨ ¬ rdB s rLearnCtrl (48 + kind) then s
  else
    let S := learnSize s
    let h := rdF s rLearnHead 16 0
    let t := rdF s rLearnTail 16 0
    if (t + 2 * S - h % (2 * S)) % (2 * S) = S then
      let s := bump s (rCaseDrop 1)
      postRate s cyclesPerSec 0 0x4404 [(4, (rd s (rCaseDrop 1)).toNat)]
    else
      let w0 := bd % 2 ^ 14 * 2 ^ 48 + mac % 2 ^ 48
      let w1 := s.learn.ageClock * 2 ^ 44 + old % 2 ^ 18 * 2 ^ 26 + new % 2 ^ 18 * 2 ^ 8 + b2n (decide (t % (2 * S) < S)) * 128 + kind
      let s := emit s (.memWrite (.host (globalLink s)) ((rd s rLearnBase).toNat + 16 * (t % S)) (leBytes 8 w0 ++ leBytes 8 w1))
      let s := wrF s rLearnTail 16 0 ((t + 1) % (2 * S))
      if rdB s rLearnCtrl 36 ∧ s.learn.learnIrqArmed then
        raiseReg { s with learn := { s.learn with learnIrqArmed := false } } (globalLink s) rLearnCtrl
      else s

-- Changes to learned entries

/-- The next write number of a learned entry (R565). -/
def nextWrite (s : State) : State := { s with learn := { s.learn with writes := s.learn.writes + 1 } }

/-- A learned result: AGE now and DEST (Table 8.2). -/
def learnedResult (s : State) (dest : Nat) : Nat := s.learn.ageClock % 65536 * 2 ^ 32 + dest % 2 ^ 18

/-- Rewrite a learned entry's DEST and AGE in one write (R551, R170). -/
def rewriteLearned (s : State) (e : CaseEnt) (dest : Nat) : State :=
  let s := nextWrite s
  setCase s (s.forme.case.map (fun x => if x.loc = e.loc then
    { x with result := learnedResult s dest, lastWrite := s.learn.writes } else x))

/-- Remove a learned entry from both parities (R167). -/
def removeEnt (s : State) (e : CaseEnt) : State := setCase s (s.forme.case.filter (fun x => x.loc ≠ e.loc))

/-- A static entry of the key in a parity. -/
def staticIn (s : State) (parity : Bool) (key : Nat) : Bool :=
  s.forme.case.any (fun e => !e.learned && e.key = key && e.slots = 1 && entLive e parity)

/-- A move into a port takes a token from its move bucket, when that holds one (R555). A token is 1.6 × 10^9 of the bucket's
units, so that the bucket gains MOVE_RATE of them in a core cycle. -/
def moveToken (s : State) (p : Nat) : Option State :=
  let l := bucketLevel s (kMove p) (moveInc s p) moveCap
  if l < moveUnit then none else some (setBucket s (kMove p) (some { level := l - moveUnit, cycle := s.cycle }))

/-- A move adopts the key, a refresh renews its AGE (R549, R551). An insert that has become a move takes a token like one, and is
dropped where R556 denies it. -/
def learnOnto (s : State) (e : CaseEnt) (r : LearnReq) : State :=
  let move (s : State) : State := learnRecord (rewriteLearned s e r.dest) 1 r.bd r.mac (entDest e) r.dest
  if entDest e = r.dest ∨ r.kind = 2 then rewriteLearned s e (entDest e)
  else if r.kind = 1 then move s
  else if portLimit s r.port ≤ destCount s r.dest then s
  else (moveToken s r.port).elim s move

/-- An insert that cannot be placed (R559). -/
def tableFull (s : State) (r : LearnReq) : State :=
  let s := postRate (bump s (rCaseDrop 0)) cyclesPerSec 0 0x4401 [(2, r.bd), (8, r.mac)]
  learnRecord s 5 r.bd r.mac 0 r.dest

/-- Insert a key that no entry holds (R534, R557 to R559, R167, R169); `retry` is the rebalancer's. -/
def learnInsert (s : State) (r : LearnReq) (retry : Bool) : State :=
  let key := fdbKey r.bd r.mac
  let r := { r with kind := 0 }
  if staticIn s (live s) key then s
  else if portLimit s r.port ≤ destCount s r.dest ∨ bdLimit s r.bd ≤ bdCount s r.bd then
    learnRecord (bump s (rCaseDrop 2)) 4 r.bd r.mac 0 r.dest
  else
    let s := nextWrite s
    let standby := !staticIn s (!live s) key
    let x := caseInsert s (if retry then 256 else 16)
      { loc := 0, key := key, slots := 1, result := learnedResult s r.dest, learned := true, lastWrite := s.learn.writes
        v0 := !live s || standby, v1 := live s || standby }
    if x.2 then learnRecord x.1 0 r.bd r.mac 0 r.dest
    else if retry ∨ 64 ≤ x.1.learn.rebal.length then tableFull x.1 r
    else { x.1 with learn := { x.1.learn with rebal := x.1.learn.rebal ++ [r] } }

/-- One operation of the learn engine on the entry as it then stands (R549). -/
def learnAct (s : State) (r : LearnReq) (retry : Bool) : State :=
  match learnedFind s r.bd r.mac with
  | some e => learnOnto s e r
  | none => learnInsert s r retry

end Sys2Proof.Machine
end

