-- ==== Sys2Proof/Machine/Cipher.lean ====
section
/-! DEFINITION. The line cipher: SecY selection, SecTAGs, receive checks, SA and PN state, roles and zeroisation (chapter The
Line Cipher and the Cryptographic Boundary). -/

namespace Sys2Proof.Machine

-- Boundary state (Table 6.12)

def bsSelftest : Nat := 0
def bsOperational : Nat := 1
def bsError : Nat := 2
def bsZeroised : Nat := 3

def boundary (s : State) : Nat := rdF s rCipherStatus 2 0
def setBoundary (s : State) (v : Nat) : State := wrF s rCipherStatus 2 0 v
def approved (s : State) : Bool := rdB s rCipherMode 0
def commissioned (s : State) : Bool := rdB s rCipherStatus 4

/-- APPROVED, its copy and its stored value change together (Table 6.12, R413). -/
def setApproved (s : State) (v : Bool) : State :=
  let s := wrB (wrB s rCipherMode 0 v) rCipherStatus 3 v
  { s with pwr := { s.pwr with nv := { s.pwr.nv with approved := v } } }

def setCommissioned (s : State) (v : Bool) : State :=
  let s := wrB s rCipherStatus 4 v
  { s with pwr := { s.pwr with nv := { s.pwr.nv with commissioned := v } } }

/-- The cipher units work (R418). -/
def cipherRuns (s : State) : Bool := hasCipher s && boundary s ≠ bsError

-- SAs (Tables 6.17, 6.18)

def saEmpty : Nat := 0
def saLoaded : Nat := 1
def saCurrent : Nat := 2
def saRetiring : Nat := 3
def saRetired : Nat := 4
def saExhausted : Nat := 5

def saKeyIx (rx : Bool) (a : Nat) : Nat := b2n rx * 16384 + a
def saState (s : State) (rx : Bool) (a : Nat) : Nat := rdF s (rSa rx a 8) 2 0
def setSaState (s : State) (rx : Bool) (a v : Nat) : State := wrF s (rSa rx a 8) 2 0 v
def saKey (s : State) (rx : Bool) (a : Nat) : Option SaKey := smFind s.ciph.saKeys (saKeyIx rx a)
def saHasKey (s : State) (rx : Bool) (a : Nat) : Bool := (saKey s rx a).isSome
/-- A suite with extended packet numbers. -/
def saXpn (s : State) (rx : Bool) (a : Nat) : Bool := 2 ≤ rdF s (rSa rx a 8) 11 8
def saPn (s : State) (rx : Bool) (a : Nat) : Nat := (rd s (rSa rx a 0x10)).toNat
def saLow (s : State) (a : Nat) : Nat := (rd s (rSa true a 0x18)).toNat

/-- Add to a cipher counter register that wraps at `w` bits (R435). -/
def wrapAdd (s : State) (o w n : Nat) : State := wr s o (BitVec.ofNat 64 (((rd s o).toNat + n) % 2 ^ w))

-- SecY counters (Table 6.19): index 0 to 13
def secyFrame (s : State) (i k : Nat) : State := wrapAdd s (rSecyCtr i k) 48 1
def secyDrop (s : State) (i k : Nat) : State := bump s (rSecyCtr i k)

-- Receive SecY rows (Tables 6.14 to 6.16)

/-- The outer tag's VID, 0 without one (R365). -/
def isVlan (o : List Byte) (b : Nat) : Bool := beAt o b 2 = 0x8100 || beAt o b 2 = 0x88A8
def outerVid (o : List Byte) : Nat := if isVlan o 12 then beAt o 14 2 % 4096 else 0

/-- The receive SecY of a frame (R365): by port and VID, then by port and MATCH_ANY, the lowest row first. -/
def rxSecyOf (s : State) (p : Nat) (o : List Byte) : Option Nat :=
  if ¬ hasCipher s ∨ 264 ≤ p then none
  else
    let on (i : Nat) : Bool := rdB s (rSecyCfg i) 31 && rdF s (rSecyCfg i) 16 8 = p
    match findBelow 1024 (fun i => on i && rdF s (rSecyCfg i) 43 32 = outerVid o) with
    | some i => some i
    | none => findBelow 1024 (fun i => on i && rdB s (rSecyCfg i) 30)

def validate (s : State) (i : Nat) : Nat := min (rdF s (rSecyCfg i) 27 26) 2
/-- RELEASE is STOMP; APPROVED makes it act as AUTH (R407). -/
def stompRelease (s : State) (i : Nat) : Bool := rdB s (rSecyCfg i) 28 && !approved s

/-- The octet at which an EtherType stands after up to `n` VLAN tags. -/
def afterTags (o : List Byte) (n : Nat) : Nat :=
  if 1 ≤ n ∧ isVlan o 12 then (if 2 ≤ n ∧ isVlan o 16 then 20 else 16) else 12

/-- The mapping field of AN n (Table 6.16): VALID and the SA. -/
def anMap (s : State) (i n : Nat) : Option Nat :=
  if rdB s (rSecySa i) (15 * n + 14) then some (rdF s (rSecySa i) (15 * n + 13) (15 * n)) else none

/-- REPLAY_WINDOW (R372). -/
def replayWindow (s : State) (i a : Nat) : Nat :=
  let w := rdF s (rSecyTiming i) 63 32
  if saXpn s true a then min w (2 ^ 30) else w

/-- The PN of a frame: for an XPN suite its upper half is recovered from the lowest acceptable PN (R372). [log 31 PRESUMED] -/
def recoverPn (s : State) (a pn : Nat) : Nat :=
  if saXpn s true a then
    let l := saLow s a
    let h := l / 2 ^ 32
    (if 2 ^ 31 ≤ l % 2 ^ 32 ∧ pn < 2 ^ 31 then h + 1 else h) % 2 ^ 32 * 2 ^ 32 + pn
  else pn

/-- The PN state after an accepted frame (R369). [log 111 DESIGN CHOICE, 117 DESIGN CHOICE] -/
def acceptPn (s : State) (i a pn : Nat) : State :=
  let s := wr s (rSa true a 0x10) (BitVec.ofNat 64 (max (saPn s true a) (pn + 1)))
  let low := max (saLow s a) (pn + 1 - replayWindow s i a)
  let s := wr s (rSa true a 0x18) (BitVec.ofNat 64 low)
  { s with ciph := { s.ciph with saUsed := smSet (fun _ => false) s.ciph.saUsed (saKeyIx true a) true } }

/-- Where a frame's SecTAG stands and what it holds. -/
structure SecTag where
  off : Nat
  tci : Nat
  sl : Nat
  pn : Nat
  sci : Option Nat
  /-- First octet after the SecTAG. -/
  data : Nat

def tagV (t : SecTag) : Bool := t.tci.testBit 7
def tagEs (t : SecTag) : Bool := t.tci.testBit 6
def tagSc (t : SecTag) : Bool := t.tci.testBit 5
def tagScb (t : SecTag) : Bool := t.tci.testBit 4
def tagE (t : SecTag) : Bool := t.tci.testBit 3
def tagC (t : SecTag) : Bool := t.tci.testBit 2
def tagAn (t : SecTag) : Nat := t.tci % 4

/-- The SecTAG at octet `b` (Table 6.1). -/
def secTagAt (o : List Byte) (b : Nat) : SecTag :=
  let tci := beAt o (b + 2) 1
  { off := b, tci := tci, sl := beAt o (b + 3) 1, pn := beAt o (b + 4) 4,
    sci := if tci.testBit 5 then some (beAt o (b + 8) 8) else none, data := b + (if tci.testBit 5 then 16 else 8) }

/-- Row 4 of Table 6.5; `n` is the frame's length without its FCS. [log 32 DEDUCED] -/
def badTag (t : SecTag) (n : Nat) : Bool :=
  let user := n - (t.data + 16)
  tagV t || (tagEs t && tagSc t) || (tagSc t && tagScb t) || decide (48 ≤ t.sl) || (tagC t && !tagE t) || t.pn = 0
    || decide (n < t.data + 16) || (if t.sl = 0 then decide (user < 48) else user ≠ t.sl)

/-- Row 5: the SCI, explicit, or implicit from the source address under ES, or the peer's own. [log 31 PRESUMED] -/
def sciOk (s : State) (i : Nat) (o : List Byte) (t : SecTag) : Bool :=
  let peer := (rd s (rPeerSci i)).toNat
  match t.sci with
  | some x => x = peer
  | none => if tagEs t then beAt o 6 6 * 2 ^ 16 + (if tagScb t then 0 else 1) = peer else true

/-- The octets of a frame with its SecTAG and ICV removed and its user data replaced, FCS recomputed. -/
def stripTag (o : List Byte) (t : SecTag) (user : List Byte) : List Byte :=
  let b := o.take t.off ++ user
  b ++ leBytes 4 (crc32 b)

/-- What stage 3 decides for a frame (R368). -/
inductive RxVerdict where
  /-- Passed as given, with its octets. -/
  | pass (octets : List Byte) (decrypted : Bool)
  | drop
  /-- Released before its ICV is decided (R375): SA, PN, whether a failure drops it, and its SecTAG. -/
  | pending (octets : List Byte) (sa pn : Nat) (strict : Bool) (tag : Nat × Nat × Bool)
  /-- Released without a check of its ICV while it arrives (row 8 under STOMP): its SecTAG. -/
  | strip (octets : List Byte) (tag : Nat × Nat × Bool)
  /-- Of a frame still arriving: only the whole frame decides. -/
  | whole

/-- Count an accepted frame on its SA (Table 6.19). [log 32 DEDUCED] -/
def rxOk (s : State) (a len : Nat) : State := wrapAdd (wrapAdd s (rSa true a 0x20) 48 1) (rSa true a 0x28) 64 len

/-- Row 9: RX_NOT_VALID and its event (Table 6.20). -/
def rxNotValid (s : State) (i a pn : Nat) : State :=
  postRate (bump s (rSa true a 0x38)) cyclesPerSec i 0x4205 [(2, i), (2, a), (8, pn)]

/-- The checks of Table 6.5 for a frame of SecY i, of `n` octets without its FCS, of which `o` are there: with the FCS, or
`early`, the first of a frame still arriving. `icvOk` and `plain` are what the cipher unit computes: whether the ICV verifies, and
the user data in clear. [log 32 DEDUCED, 111 DESIGN CHOICE] -/
def rxCheck (s : State) (i : Nat) (o : List Byte) (n : Nat) (early icvOk : Bool) (plain : List Byte) : State × RxVerdict :=
  let b := afterTags o (min (rdF s (rSecyCfg i) 25 24) 2)
  let e := beAt o b 2
  if e ≠ 0x88E5 then
    let by_ := rdF s (rSecyCfg i) 63 48
    if e = 0x888E ∨ (by_ ≠ 0 ∧ e = by_) then (secyFrame s i 0, .pass o false)
    else if validate s i = 2 then (secyDrop s i 3, .drop)
    else (secyFrame s i 1, .pass o false)
  else
    let t := secTagAt o b
    if badTag t n then (secyDrop s i 4, .drop)
    else if ¬ sciOk s i o t then (secyDrop s i 5, .drop)
    else
      match anMap s i (tagAn t) with
      | none => (secyDrop s i 6, .drop)
      | some a =>
        let st := saState s true a
        let pn := recoverPn s a t.pn
        let len := n - (t.data + 16)
        let user := if tagC t then (if early then plain.take (min len (o.length - t.data)) else plain)
          else if early then (o.drop t.data).take len else slice o t.data len
        let strip := if early then o.take t.off ++ user else stripTag o t user
        let strict := decide (validate s i = 2) || tagC t
        if st = saEmpty ∨ st = saRetired ∨ ¬ cipherRuns s then (secyDrop s i 6, .drop)
        else if rdB s (rSecyCfg i) 29 ∧ pn < saLow s a then (secyDrop s i 7, .drop)
        else if validate s i = 0 ∧ ¬ tagC t then 
          (if early ∧ ¬ stompRelease s i then (s, .whole)
          else (secyFrame s i 2, if early then .strip strip (t.off, t.data, false) else .pass strip false))
        else if stompRelease s i then (s, .pending strip a pn strict (t.off, t.data, tagC t))
        else if early then (s, .whole)
        else if ¬ icvOk ∧ strict then (rxNotValid s i a pn, .drop)
        else if ¬ icvOk then
          (acceptPn (wrapAdd s (rSa true a 0x30) 48 1) i a pn, .pass strip false)
        else (acceptPn (rxOk s a o.length) i a pn, .pass strip true)

-- Transmit (R354 to R363, R379 to R384)

def bindRow (s : State) (parity : Bool) (p : Nat) : Nat := if p < 264 then row s parity 0x530 p else 0
def secyRow (s : State) (parity : Bool) (i : Nat) : Nat := row s parity 0x531 i
def syPort (r : Nat) : Nat := bits r 8 0
def syValid (r : Nat) : Bool := r.testBit 9
def syClear (r : Nat) : Nat := bits r 15 14
def syOffset (r : Nat) : Nat := if bits r 17 16 = 1 then 30 else if bits r 17 16 = 2 then 50 else 0
def syEncrypt (r : Nat) : Bool := r.testBit 18
def sySci (r : Nat) : Bool := r.testBit 19
def syEs (r : Nat) : Bool := r.testBit 20
def syScb (r : Nat) : Bool := r.testBit 21
def syOneStep (r : Nat) : Bool := r.testBit 22
def syBypass (r : Nat) : Nat := bits r 47 32
def sySciValue (r : Nat) : Nat := bits r 127 64
def syThreshold (r : Nat) : Nat := bits r 191 128

/-- The transmit SecY of a copy on port p (R360, R361): the state with TX_SECY_REMAP counted, and the SecY. `chosen` is the
result of steps 1 and 2: none when they give nothing, `some none` for NONE. -/
def txSecy (s : State) (parity : Bool) (p : Nat) (chosen : Option (Option Nat)) : State × Option Nat :=
  let b := bindRow s parity p
  let bound : Option Nat := if b.testBit 16 then some (bits b 9 0) else none
  match chosen with
  | none => (s, bound)
  | some none => (s, none)
  | some (some i) =>
    let r := secyRow s parity i
    if syPort r = p ∧ syValid r then (s, some i) else (secyFrame s i 13, bound)

/-- The current transmit SA of a SecY (R379). -/
def currentSa (s : State) (i : Nat) : Option Nat :=
  if rdB s (rTxCur i) 14 ∧ saHasKey s false (rdF s (rTxCur i) 13 0) then some (rdF s (rTxCur i) 13 0) else none

/-- What stage 13 does with a copy. -/
inductive TxVerdict where
  | clear
  | drop
  /-- Protected: the octets without FCS, whether they are encrypted; of a copy still arriving, what the cipher unit gives for the
  rest and how many of the next octets go in clear; the octets before encryption, and how many leave in clear. -/
  | prot (octets : List Byte) (encrypted : Bool) (rest : Option (List Byte)) (restClear : Nat) (clear : List Byte × Nat)

/-- The SecTAG a SecY inserts (R354 to R356, Table 6.1). [log 32 DEDUCED] -/
def makeTag (r an pn user : Nat) (sci : Nat) : List Byte :=
  let sc := sySci r
  let tci := b2n (!sc && syEs r) * 64 + b2n sc * 32 + b2n (!sc && syScb r) * 16 + b2n (syEncrypt r) * 12 + an % 4
  beBytes 2 0x88E5 ++ beBytes 1 tci ++ beBytes 1 (if user < 48 then user else 0) ++ beBytes 4 (pn % 2 ^ 32)
    ++ (if sc then beBytes 8 sci else [])

/-- Protect a copy under SecY i (R356 to R359, R379 to R382). `secure` is what the cipher unit computes: the user data it
encrypts (after CONF_OFFSET, R357) and the ICV. `o` is what is there of the copy's `total` octets, FCS excluded; `limit` is the
egress length limit. [log 32 DEDUCED, 113 DESIGN CHOICE, 115 DESIGN CHOICE] -/
def protect (s : State) (parity : Bool) (i : Nat) (o secure : List Byte) (total limit : Nat) : State × TxVerdict :=
  let r := secyRow s parity i
  let b := afterTags o (syClear r)
  let e := beAt o b 2
  let user := total - b
  let grown := total + (if sySci r then 32 else 24) + 4
  if e = 0x888E ∨ (syBypass r ≠ 0 ∧ e = syBypass r) then (secyFrame s i 8, .clear)
  else if limit < grown then (secyDrop s i 11, .drop)
  else
    match (if cipherRuns s then currentSa s i else none) with
    | none => (secyDrop s i 9, .drop)
    | some a =>
      if saState s false a = saExhausted then (secyDrop s i 10, .drop)
      else
        let pn := saPn s false a
        let top := if saXpn s false a then 2 ^ 64 - 1 else 2 ^ 32 - 1
        let s := wr s (rSa false a 0x10) (BitVec.ofNat 64 (pn + 1))
        let s := if pn = top then postHw (setSaState s false a saExhausted) 0x8202 [(2, i), (2, a)] else s
        let s := if ¬ rdB s (rSa false a 8) 4 ∧ syThreshold r ≤ pn + 1 then
            postHw (wrB s (rSa false a 8) 4 true) 0x4201 [(2, i), (2, a), (8, pn + 1)]
          else s
        let s := wrapAdd (wrapAdd s (rSa false a 0x20) 48 1) (rSa false a 0x28) 64 (total + 4)
        let s := if syEncrypt r then wrapAdd s (rSa false a 0x30) 48 1 else s
        let tag := makeTag r (rdF s (rSa false a 0) 17 16) pn user (sySciValue r)
        let k := if syEncrypt r then min (syOffset r) user else user
        let have_ := o.length - b
        let more := o.length < total
        let body := (o.drop b).take k ++ (secure ++ List.replicate (user + 16) 0).take (if more then have_ - k else user - k + 16)
        (s, .prot (o.take b ++ tag ++ body) (syEncrypt r) (if more then some (secure.drop (have_ - k)) else none) (k - have_)
          (o.take b ++ tag ++ o.drop b, b + tag.length + k))

-- Settings approved mode overrides (R407, R409)

/-- What R407 overrides while APPROVED is 1: unit and setting, 0 RELEASE, 1 ONESTEP_PROT, 2 a session without permit. -/
def forceList (s : State) : List (Nat × Nat) :=
  if ¬ approved s then []
  else
    ((List.range 1024).filter (fun i => rdB s (rSecyCfg i) 31 && rdB s (rSecyCfg i) 28)).map (fun i => (i, 0))
      ++ ((List.range 1024).filter (fun i => syValid (secyRow s (live s) i) && syOneStep (secyRow s (live s) i))).map (fun i => (i, 1))
      ++ ((List.range 16).filter (fun m => rdB s (rMirrorCfg m) 63 && !rdB s rMirrorPermit m)).map (fun m => (m, 2))

/-- Post EV_APPROVED_FORCE for each override that a change began (R409). -/
def forceEvents (before s : State) : State :=
  let old := forceList before
  ((forceList s).filter (fun x => !old.contains x)).foldl (fun s x => postHw s 0x4206 [(2, x.1), (1, x.2)]) s

-- Roles (R403 to R406)

/-- The role of ring n: 0 none, 1 user, 2 crypto officer; rings 60 to 63 hold the user role. -/
def ringRole (s : State) (n : Nat) : Nat := if 60 ≤ n then 1 else rdF s (rRingRole n) 1 0
def ringOperator (s : State) (n : Nat) : Nat := if 60 ≤ n then 0 else rdF s (rRingRole n) 11 8

/-- Bind a role to ring n, or end it with role 0 (Table 6.20). -/
def bindRole (s : State) (n role ident : Nat) : State :=
  if 60 ≤ n then s
  else postHw (wr s (rRingRole n) (BitVec.ofNat 64 (if role = 0 then 0 else ident % 16 * 256 + role))) 0x020E
    [(1, n), (1, role), (1, ident)]

/-- End the role of ring n, if it holds one. -/
def endRole (s : State) (n : Nat) : State := if 60 ≤ n ∨ ringRole s n = 0 then s else bindRole s n 0 (ringOperator s n)

def endAllRoles (s : State) : State :=
  let s := (List.range 60).foldl endRole s
  { s with ciph := { s.ciph with mbxRole := [] } }

-- Zeroisation (R425, R426)

/-- Zeroise one SA: its key, its state and its PN state; SUITE stays that of the last KLOAD (Table 6.18). [log 88 DEDUCED] -/
def zeroSa (s : State) (rx : Bool) (a : Nat) : State :=
  let s := { s with ciph := { s.ciph with
    saKeys := smDel (saKeyIx rx a) s.ciph.saKeys
    saRetireAt := smSet (fun _ => 0) s.ciph.saRetireAt a (if rx then 0 else smGet (fun _ => 0) s.ciph.saRetireAt a) } }
  let s := wr s (rSa rx a 8) (rd s (rSa rx a 8) &&& fieldMask 11 8)
  wr (wr s (rSa rx a 0x10) 0) (rSa rx a 0x18) 0

/-- Zeroise every SA key: the state and how many keys there were. -/
def zeroAllSa (s : State) : State × Nat :=
  (s.ciph.saKeys.foldl (fun s x => zeroSa s (decide (16384 ≤ x.1)) (x.1 % 16384)) s, s.ciph.saKeys.length)

def kekHeld (s : State) (k : Nat) : Bool := rdB s rKekStatus k

/-- Empty a KEK slot (R400, R401): the state and the keys zeroised. -/
def zeroKek (s : State) (k : Nat) : State × Nat :=
  ({ wrB s rKekStatus k false with ciph := { s.ciph with keks := smDel k s.ciph.keks } }, b2n (kekHeld s k))

/-- Whether more than the VKEEP domain runs (R428, R429): from SUPERVISE on. [log 68 DEDUCED] -/
def powered (s : State) : Bool := decide (stSupervise ≤ devState s)

/-- Zeroise the whole key store (R426, R405, R429): the row of Table 6.10 counted from 0, and the operator where known. With
the attestation key pair gone, no boot slot verifies (Table 18.8); APPROVED that becomes 0 posts EV_MODE_CHANGE.
[log 68 DEDUCED, 79 DEDUCED, 88 DEDUCED] -/
def zeroStore (s : State) (path operator_ : Nat) : State × Nat :=
  let n := s.ciph.saKeys.length + s.ciph.keks.length + b2n s.pwr.nv.storageKey.isSome + b2n s.pwr.nv.attKey.isSome
  let s := (zeroAllSa s).1
  let s := endAllRoles s
  let s := { s with
    ciph := { s.ciph with saKeys := [], keks := [], operators := [], challenge := [], drbg := none }
    pwr := { s.pwr with nv := { s.pwr.nv with boot0 := none, boot1 := none, storageKey := none, attKey := none } } }
  let s := wr s rKekStatus 0
  let s := if powered s ∧ approved s then postHw s 0x0207 [(1, 0), (1, operator_)] else s
  let s := setBoundary (setApproved (setCommissioned s false) false) bsZeroised
  (if powered s then postHw s 0xC20A [(1, path), (1, operator_)] else s, n)

/-- Write a journal record of a zeroisation (Table 15.3); the operator that R402 asks for follows the table's fields.
[log 79 DEDUCED] -/
def journalZero (s : State) (origin isn scope kek sa n operator_ : Nat) : State :=
  journal s 0x0041 origin [(8, isn), (1, scope), (1, kek), (2, sa), (4, n), (1, operator_)]

-- SA switch and the current transmit SA

/-- A transmit SA has used the greatest PN of its suite (R381). [log 30 DEDUCED] -/
def saSpent (s : State) (a : Nat) : Bool :=
  if saXpn s false a then saPn s false a = 0 else decide (2 ^ 32 ≤ saPn s false a)

/-- Make an SA current for a SecY's transmit direction (R383, R386): the previous SA becomes LOADED; an SA that has used its
last PN is EXHAUSTED whenever it is current (R381). [log 30 DEDUCED] -/
def makeCurrent (s : State) (i a : Nat) : State :=
  let prev := rdF s (rTxCur i) 13 0
  let s := if rdB s (rTxCur i) 14 ∧ saState s false prev ≠ saEmpty ∧ prev ≠ a then setSaState s false prev saLoaded else s
  let s := wr s (rTxCur i) (BitVec.ofNat 64 (2 ^ 14 + a))
  setSaState s false a (if saSpent s a then saExhausted else saCurrent)

/-- A write of SECY_TX_CUR (R383): E_KEY for an EMPTY SA, E_CHECK for an SA of another SecY. [log 116 DESIGN CHOICE] -/
def txCurWrite (s : State) (i : Nat) (mask value : Word) : State × Option Status :=
  let m := mask &&& fieldMask 14 0
  let v := (rd s (rTxCur i) &&& ~~~ m) ||| (value &&& m)
  let a := field v 13 0
  if v.getLsbD 14 then
    if saState s false a = saEmpty then (s, some .eKey)
    else if rdF s (rSa false a 0) 9 0 ≠ i then (s, some .eCheck)
    else (makeCurrent s i a, none)
  else
    let prev := rdF s (rTxCur i) 13 0
    let s := if rdB s (rTxCur i) 14 ∧ saState s false prev = saCurrent then setSaState s false prev saLoaded else s
    (wr s (rTxCur i) v, none)

/-- A write of CIPHER_MODE (R411, R412): a change of APPROVED zeroises every SA key. -/
def cipherModeWrite (s : State) (mask value : Word) (operator_ : Nat) : State × Option Status :=
  let v := if mask.getLsbD 0 then value.getLsbD 0 else approved s
  if mask.getLsbD 0 ∧ v ∧ ¬ (boundary s = bsOperational ∧ commissioned s) then (s, some .eCipherState)
  else if v = approved s then (s, none)
  else
    let z := zeroAllSa s
    let t := setApproved z.1 v
    let t := postHw t 0x0207 [(1, b2n v), (1, operator_)]
    let t := journalZero t hwOrigin 0 5 0 0 z.2 operator_
    (forceEvents s t, none)

end Sys2Proof.Machine
end

