-- ==== Sys2Proof/Machine/Actions.lean ====
section
/-! DEFINITION. Frame actions: key selection, learning requests, decisions, rewrites, the snare meter, mirror requests and
admission: stages 5 to 9 of a frame (chapters The Case, The Associative Search Array and Frame Actions, Parsing by Composing
Stick, and the Snare). -/

namespace Sys2Proof.Machine

-- Action rows (Table 9.4)

def acDisp (i : Nat) : Nat := bits i 63 61
def acReason (i : Nat) : Nat := bits i 60 55
def acDestMode (i : Nat) : Nat := bits i 54 53
def acDest (i : Nat) : Nat := bits i 52 35
def acRwOp (i k : Nat) : Nat := bits (word i (4 + 2 * k)) 63 62
def acRwPos (i k : Nat) : Nat := bits (word i (4 + 2 * k)) 61 52
def acRwWidth (i k : Nat) : Nat := bits (word i (4 + 2 * k)) 51 46 + 1
def acRwValue (i k : Nat) : Nat := word i (5 + 2 * k)
def acTagOp (i k : Nat) : Nat := bits (word i (2 + k)) 39 0

/-- One rewrite of a row (R620). -/
def rewrite1 (i k hv : Nat) : Nat :=
  let p := acRwPos i k
  let w := acRwWidth i k
  if acRwOp i k = 1 then setBits hv (p + w - 1) p (acRwValue i k)
  else if acRwOp i k = 2 then setBits hv (p + w - 1) p (bits hv (p + w - 1) p + acRwValue i k)
  else hv

/-- The rewrites of a row, RW0 then RW1 (R620). -/
def rewrites (i hv : Nat) : Nat := rewrite1 i 1 (rewrite1 i 0 hv)

/-- A working decision: the frame's decision, the header vector and which tile counter a DROP counts in. -/
structure Work where
  d : Decision := {}
  hv : Nat := 0
  dropK : Nat := 22

/-- A snare replaces an earlier snare only when its reason is lower-numbered (R609). -/
def setSnare (w : Work) (disp reason : Nat) : Work :=
  match w.d.snare with
  | some r => if reason < r then { w with d := { w.d with disp := disp, snare := some reason } } else w
  | none => { w with d := { w.d with disp := disp, snare := some reason } }

/-- Apply one row's field groups (R609, Table 9.4); `asa` when it is the ASA's row or the profile's MISS_ACTION. -/
def applyRow (i : Nat) (asa : Bool) (w : Work) : Work :=
  let w1 := word i 1
  let w2 := word i 2
  let disp := acDisp i
  let w := if disp = 1 then { w with d := { w.d with disp := 1, snare := none } }
    else if disp = 2 then { w with d := { w.d with disp := 2, snare := none }, dropK := 22 }
    else if disp = 3 ∨ disp = 4 then setSnare w disp (acReason i)
    else w
  let d := w.d
  let d := if acDestMode i = 1 ∨ (acDestMode i = 2 ∧ d.destRaw = none) then { d with destRaw := some (acDest i) } else d
  let d := if i.testBit 34 then { d with tc := bits i 33 31 } else d
  let d := if i.testBit 30 then { d with noLearn := true } else d
  let d := if bits i 29 28 = 1 then { d with secySel := some (some (bits i 27 18)) }
    else if bits i 29 28 = 2 then { d with secySel := some none } else d
  let d := if i.testBit 17 then { d with egressTag := some (bits i 15 0) } else d
  let d := if w1.testBit 63 then { d with policer := some (bits w1 62 47) } else d
  let d := if w1.testBit 46 then
      (if asa then { d with pairAsa := some (bits w1 45 28) } else { d with pairCase := some (bits w1 45 28) }) else d
  let d := { d with mirror := d.mirror ||| bits w1 27 12 }
  let d := if w2.testBit 63 then { d with slug := some (bits w1 11 0) } else d
  let d := if bits w2 62 61 ≠ 0 then { d with l4csum := bits w2 62 61 } else d
  let ops := [acTagOp i 0, acTagOp i 1].filter (fun t => bits t 39 37 ≠ 0)
  { w with d := { d with tagOps := d.tagOps ++ ops }, hv := rewrites i w.hv }

-- Keys (R516 to R521)

/-- A field of the header vector at a position; bits above 639 read 0. -/
def hvField (hv pos w : Nat) : Nat := ((hv % 2 ^ 640) >>> pos) % 2 ^ w

/-- The bridge domain (R517). -/
def frameBd (a : Word) (hv : Nat) : Nat :=
  let c := if a.getLsbD 33 then hvField hv (field a 43 34) 14 else hvField hv (field a 43 34) 12
  if c = 0 then field a 27 14 else c

/-- The FLOW4 or FLOW6 key (Table 8.1, R519, R520), and its slots. -/
def flowKey (b : Word) (vrf hv : Nat) (v4 : Bool) : Nat × Nat :=
  let dst := hvField hv (field b 63 54) 128
  let src := hvField hv (field b 53 44) 128
  let proto := hvField hv (field b 43 34) 8
  let l4 := hvField hv (field b 33 24) 32
  if v4 then
    (4 * 2 ^ 188 + vrf * 2 ^ 176 + proto * 2 ^ 168 + l4 * 2 ^ 136 + src % 2 ^ 32 * 2 ^ 32 + dst % 2 ^ 32, 2)
  else (5 * 2 ^ 380 + vrf * 2 ^ 368 + proto * 2 ^ 360 + l4 * 2 ^ 328 + src * 2 ^ 128 + dst, 4)

/-- The address family of R519: IPv4 when the high 96 bits of the destination are 0. -/
def isV4 (b : Word) (hv : Nat) : Bool := decide (hvField hv (field b 63 54) 128 < 2 ^ 32)

/-- The key of lookup A by A_KIND, with its slots (R520); none for no lookup. -/
def keyA (s : State) (prof hv : Nat) : Option (Nat × Nat) :=
  let a := rd s (rKeyselA prof)
  let b := rd s (rKeyselB prof)
  let bd := frameBd a hv
  let vrf := rdF s (rBdCfg bd) 39 28
  let k := field a 32 30
  let dst := hvField hv (field b 63 54) 128
  if k = 1 then some (fdbKey bd (hvField hv (field a 63 54) 48), 1)
  else if k = 2 then
    if isV4 b hv then some (2 * 2 ^ 92 + vrf * 2 ^ 80 + dst, 1) else some (3 * 2 ^ 188 + vrf * 2 ^ 176 + dst, 2)
  else if k = 3 then some (flowKey b vrf hv (isV4 b hv))
  else none

/-- The key of lookup B by B_KIND (R521). -/
def keyB (s : State) (prof hv : Nat) : Option (Nat × Nat) :=
  let a := rd s (rKeyselA prof)
  let b := rd s (rKeyselB prof)
  let bd := frameBd a hv
  let k := field a 29 28
  if k = 1 then some (fdbKey bd (hvField hv (field a 53 44) 48), 1)
  else if k = 2 then some (flowKey b (rdF s (rBdCfg bd) 39 28) hv (isV4 b hv))
  else none

-- Learning in the pipeline (R541 to R556)

/-- LIMIT_ACTION of a denied frame with EV_LEARN_LIMIT (R554, Table 8.15). -/
def learnDenied (s : State) (tile k p bd act : Nat) : State × Nat × Option LearnReq :=
  (postRate (tileCount s tile k) cyclesPerSec p 0x0402 [(2, p), (2, bd), (1, act)], act, none)

/-- What lookup B's result asks of the learn engine: the LIMIT_ACTION the frame takes, and its request. [log 36 DEDUCED] -/
def learnCheck (s : State) (tile p bd mac : Nat) (hit : Option CaseEnt) : State × Nat × Option LearnReq :=
  let d := learnDest s p
  let on := rdB s rCaseCtrl 16 && rdB s (rPortLearn p) 0 && rdB s (rBdCfg bd) 0
  let req (k : Nat) : LearnReq := { bd := bd, mac := mac, dest := d, port := p, kind := k }
  let bad := decide (mac = 0) || mac.testBit 40
  let s := if on ∧ bad then tileCount s tile 12 else s
  let learns := on && !bad
  let overPort := decide (portLimit s p ≤ destCount s d + queuedReqs s (fun r => r.kind ≠ 2 && r.dest = d))
  let overBd := decide (bdLimit s bd ≤ bdCount s bd + queuedReqs s (fun r => r.kind = 0 && r.bd = bd))
  let pAct := limitAction (rdF s (rPortLearn p) 45 44)
  let bAct := limitAction (rdF s (rBdCfg bd) 61 60)
  match hit with
    | none =>
      if ¬ learns then (s, 0, none)
      else if overPort ∨ overBd then
        learnDenied s tile 9 p bd (max (if overPort then pAct else 0) (if overBd then bAct else 0))
      else (s, 0, some (req 0))
    | some e =>
      if ¬ e.learned then (if entDest e ≠ d then tileCount s tile 11 else s, 0, none)
      else if entDest e = d then
        if 0 < ageLimit s ∧ ageLimit s / 2 ≤ ageOf s e then (s, 0, some (req 2)) else (s, 0, none)
      else if ¬ learns then (s, 0, none)
      else
        match (if overPort then none else moveToken s p) with
        | none => learnDenied s tile 10 p bd pAct
        | some s => (s, 0, some (req 1))

-- Flow counter pairs (R851 to R854)

/-- Increment flow counter pair n by a frame of `len` octets. -/
def countPair (s : State) (n len : Nat) : State :=
  let s := frameCount s (ctrKey 0x0803 n 1) (rFlowHalf (n / 64)) (n % 64)
  setCtr s (ctrKey 0x0803 n 0) ((ctr s (ctrKey 0x0803 n 0) + len) % 2 ^ 64)

def countPairs (s : State) (a b : Option Nat) (len : Nat) : State :=
  let s := match a with
    | some n => countPair s n len
    | none => s
  match b with
  | some n => if a = some n then s else countPair s n len
  | none => s

-- Admission of copies

/-- A copy of a frame toward a port, before admission. -/
def mkCopy (s : State) (f : Frame) (p cls kind reason : Nat) (launch : Bool) : Copy :=
  let l := if launch then f.launch.map (launchNs s) else none
  { id := 0, frame := f.id, port := p, cls := cls, queue := queueFor s p cls l, kind := kind, reason := reason,
    stage := .queued, launch := l, parity := f.parity }

/-- Admit one copy (R660), after the pass limit (R153), the checks at entry to QT in shared mode (R808, R809) and those of
the port (R292, R336). -/
def offerCopy (s : State) (id : Nat) (x : Copy) : State :=
  match findFrame s id with
  | none => s
  | some f =>
    if 256 ≤ x.port ∧ x.port < 264 ∧ x.kind ≠ 1 ∧ 4 ≤ f.pass then txCause (tileCount s (ingressTile f.port) 49) id 1
    else if ¬ voqMode s ∧ x.launch.isSome ∧ f.launch.elim false (launchBad s x.port) then txCause (bump s (rLaunchDropped x.port)) id 2
    else if ¬ portTakes s x.port then txCause (if x.port < 256 then bump s (rPortDrop x.port 2) else s) id 1
    else
      let s1 := admitCopy s f x
      if s1.path.nextCopy = s.path.nextCopy then txCause s1 id 1 else s1

/-- The egress port is idle (R690). -/
def portIdle (s : State) (p : Nat) : Bool := !s.path.copies.any (fun c => c.port = p)

/-- A unicast frame is cut-through toward a port (R691). [log 47 DEDUCED] -/
def cutThroughOk (s : State) (f : Frame) (p : Nat) : Bool :=
  rdB s rCoreCtrl 1 && p < 264 && decide (portRate s f.port ≤ portRate s p) && portIdle s p
    && !assignedDeep s p (sourceIndex f.port) f.dec.tc f.charge
    && (!voqMode s || decide (0 < creditOf s p f.dec.tc))

/-- The snare meter (R490 to R499): a copy of the frame goes to the host, the MP or nowhere. [log 37 DEDUCED] -/
def snareMeter (s : State) (id r : Nat) : State :=
  let img := snareRow s r
  let inc := snareRate img * 2 ^ 32 / 1600000000
  let cap : Int := (snareBurst img : Int) * 2 ^ 32
  let l := bucketLevel s (kSnare r) inc cap
  if snareRate img = 0 ∨ l < 2 ^ 32 then
    let s := bump s (rSnareDrop r)
    postRate s cyclesPerSec r 0x0302 [(1, r), (4, (rd s (rSnareDrop r)).toNat)]
  else
    let s := setBucket s (kSnare r) (some { level := l - 2 ^ 32, cycle := s.cycle })
    let s := frameCountReg s (rSnarePass r) rSnareHalf r
    let tc := bits img 50 48
    let dest := bits img 52 51
    let copy (s : State) (p : Nat) : State :=
      match findFrame s id with
      | none => s
      | some f => offerCopy s id (mkCopy s f p tc 1 r false)
    if dest = 0 then
      let hInc := 50000000 * 2 ^ 32 / 1600000000
      let h := bucketLevel s kHostCap hInc (4096 * 2 ^ 32)
      if h < 2 ^ 32 then
        let s := bump s rSnareCapDrop
        postRate s cyclesPerSec 0 0x4301 [(4, (rd s rSnareCapDrop).toNat)]
      else copy (setBucket s kHostCap (some { level := h - 2 ^ 32, cycle := s.cycle })) 264
    else if dest = 1 then
      if ¬ s.mp.mpUp then bump s (rMpDrop 1)
      else if 2 ≤ rdF s rMpStatus 2 1 ∧ ¬ rdB s rMpShedExempt r then bump s (rMpDrop 0)
      else copy s 265
    else s

-- Mirror sessions (R885 to R893)

/-- One request to session m (R886, R887): whether it makes a copy. [log 6 DESIGN CHOICE] -/
def mirrorRequest (s : State) (m : Nat) : State × Bool :=
  let c := rd s (rMirrorCfg m)
  if ¬ c.getLsbD 63 ∨ 2 ≤ field c 17 16 then (s, false)
  else
    let s := frameCountReg s (rMirrorReq m) rMirrorHalf (2 * m)
    let n := rdF s (rMirrorSample m) 23 0
    let k := smGet (fun _ => 0) s.mp.mirrorCount m + 1
    let s := { s with mp := { s.mp with mirrorCount := smSet (fun _ => 0) s.mp.mirrorCount m k } }
    let r : State × Bool :=
      if n ≤ 1 then (s, true)
      else if c.getLsbD 61 then
        let x := draw s
        (x.1, x.2.toNat % n = 0)
      else (s, k % n = 0)
    if r.2 then (frameCountReg r.1 (rMirrorCopies m) rMirrorHalf (2 * m + 1), true) else (r.1, false)

/-- Send session m's copy of a frame (R888 to R893): the copy takes its own store of the octets (FCS excluded), enters with
the ingress tile of the frame and is admitted like any other copy; a drop counts only in MIRROR_DROP.
[log 100 DESIGN CHOICE, 112 DESIGN CHOICE, 114 DESIGN CHOICE] -/
def mirrorCopy (s : State) (m : Nat) (f : Frame) (o : List Byte) (protected_ : Bool) : State :=
  let o := mirrorTrunc s m o
  let c := rd s (rMirrorCfg m)
  let dest : Option Nat :=
    if field c 17 16 = 0 then some (field c 15 0)
    else (resolveGroup s f.parity (field c 15 0 % 256) f.flowHash).map (fun x => x.1)
  let b := o ++ leBytes 4 (crc32 o)
  match dest with
  | none => mirrorDrop s m
  | some p =>
    let s0 := addFrame s { f with
      octets := b, stage := .reentry, mirrorOf := some m, dec := { tc := field c 48 46 }, complete := !f.receiving
      charge := if f.receiving then cellsOf (maxLen s f.port) else cellsOf b.length, cells := cellsOf b.length, len := b.length
      icvPending := f.icvPending && decide (256 ≤ p), icvOf := if f.icvPending ∧ 256 ≤ p then some f.id else none
      secret := protected_, cutThrough := false, launch := none, rxTag := none, mask := 0, tiles := 0, cellIdx := []
      learn := none, fragWait := none, origin := none, rxSecy := none }
    let id := s.path.nextFrame
    let x : Copy := { id := 0, frame := id, port := p, cls := field c 48 46, queue := queueOfClass s p (field c 48 46), kind := 2,
                      reason := m, stage := .queued, parity := f.parity }
    let s1 := match findFrame s0 id with
      | some g => if portTakes s p ∧ ¬ (256 ≤ p ∧ p < 264 ∧ 4 ≤ f.pass) then admitCopy s0 g x else s0
      | none => s0
    if s1.path.copies.any (fun y => y.frame = id) then s1
    else
      -- R893: a drop at admission counts in no counter of R661 and posts none of its events.
      mirrorDrop (removeFrame { s0 with core := s1.core } id) m

/-- The mirror requests of a mask for a frame (R886). -/
def mirrorMask (s : State) (mask : Nat) (f : Frame) (o : List Byte) (protected_ : Bool) : State :=
  (List.range 16).foldl (fun s m =>
    if mask.testBit m then
      let r := mirrorRequest s m
      if ¬ r.2 then r.1 else mirrorCopy r.1 m f o protected_
    else s) s

end Sys2Proof.Machine
end

