-- ==== Sys2Proof/Machine/Images.lean ====
section
/-! DEFINITION. The tables of Table 4.3 and the checks of their entry images: what a TW or TM rejects with E_CHECK or
E_ABSENT (chapter Ermel Instruction Reference and the chapters that own the tables). -/

namespace Sys2Proof.Machine

-- Tables (Table 4.3)

/-- Rows and image length in octets of an indexed table. -/
def indexedTable (t : Nat) : Option (Nat × Nat) :=
  (List.lookup t
    [(0x101, 64, 48), (0x102, 64, 136), (0x103, 256, 8), (0x310, 16, 40), (0x400, 65536, 64), (0x410, 16, 176),
     (0x411, 1048576, 8), (0x420, 65536, 8), (0x510, 65536, 64), (0x511, 4096, 72), (0x520, 524288, 8), (0x530, 264, 8),
     (0x531, 1024, 24), (0x600, 32, 8), (0x610, 266, 24), (0x620, 2660, 24), (0x621, 65536, 24), (0x630, 2128, 24),
     (0x640, 262144, 32), (0x650, 64, 8)])

def isAsa (t : Nat) : Bool := (decide (0x300 ≤ t) && decide (t < 0x310)) || t = 0x500
def isCase (t : Nat) : Bool := t = 0x200

/-- A table ID of Table 4.3 (R192). -/
def tableListed (t : Nat) : Bool := (indexedTable t).isSome || isAsa t || isCase t

/-- A port of an absent tile. -/
def portAbsent (s : State) (p : Nat) : Bool := decide (p < 266) && !portPresent s p

/-- A row of an absent unit (R194, R283, R353, R1159). -/
def rowAbsent (s : State) (t r : Nat) : Bool :=
  if t = 0x530 then !hasCipher s || portAbsent s r
  else if t = 0x531 then !hasCipher s
  else if t = 0x600 then !tilePresent s (r / 4)
  else if t = 0x610 then portAbsent s r
  else if t = 0x620 then portAbsent s (r / 10)
  else if t = 0x621 then !tilePresent s (r / 8192)
  else if t = 0x630 then portAbsent s (r / 8)
  else if t = 0x640 then portAbsent s (r / 1024)
  else if t = 0x520 then !tilePresent s (r % 8)
  else false

-- Checks of fields

/-- Bits [hi:lo] of word w are 0. -/
def zeroAt (img w hi lo : Nat) : Bool := bits (word img w) hi lo = 0

/-- A DEST that R511 rejects (Table 8.3). -/
def destBad (d : Nat) : Bool :=
  let k := bits d 17 16
  let v := bits d 15 0
  (k = 0 && decide (265 < v)) || (k = 1 && decide (255 < v)) || (k = 3 && v ≠ 0)

/-- A DEST of an absent port. -/
def destAbsent (s : State) (d : Nat) : Bool := bits d 17 16 = 0 && portAbsent s (bits d 15 0)

/-- Parse profile (Table 7.1). -/
def badProfile (i : Nat) : Bool :=
  !(zeroAt i 0 47 41 && zeroAt i 0 31 18 && zeroAt i 0 15 14 && zeroAt i 0 7 0 && zeroAt i 5 63 10)

/-- Extraction template (R444, Tables 7.2 to 7.4). -/
def badTemplate (i : Nat) : Bool :=
  !(zeroAt i 0 63 31 && zeroAt i 0 15 11) || decide (128 < tHdrLen i) || decide (3 < tKind i)
    || (List.range 8).any (fun j =>
      let w := word i (1 + j)
      bits w 63 40 ≠ 0 || w.testBit 38
        || (w.testBit 39 && (bits w 15 0 &&& bits w 31 16 ≠ bits w 15 0
          || (tTypeValid i && decide (2 ^ tTypeWidth i ≤ bits w 31 16)))))
    || (List.range 16).any (fun j =>
      let d := (i >>> (64 * 9 + 32 * j)) % 2 ^ 32
      bits d 13 10 ≠ 0 || (d.testBit 31 && decide (591 < bits d 9 0 + bits d 20 14)))

/-- Composing stick (Table 7.5). -/
def badStick (i : Nat) : Bool := bits i 63 58 ≠ 0 || decide (2 ^ (6 * (bits i 50 48 + 1)) ≤ bits i 47 0)

/-- Tag operation (Table 9.5). -/
def badTagOp (t : Nat) : Bool :=
  let op := bits t 39 37
  if op ≤ 2 then bits t 36 0 ≠ 0
  else if op = 3 then bits t 36 33 ≠ 0 || bits t 31 16 ≠ 0
  else if op = 4 then bits t 36 32 ≠ 0 || t.testBit 8
  else true

/-- Rewrite k of an action row (Table 9.4, R614); with OP 0 there is no rewrite. [log 84 DEDUCED] -/
def badRewrite (i k : Nat) : Bool :=
  acRwOp i k = 3 || bits (word i (4 + 2 * k)) 45 0 ≠ 0
    || decide (591 < acRwPos i k + acRwWidth i k - 1) || decide (2 ^ acRwWidth i k ≤ acRwValue i k)

/-- Action row (R614), its DEST and rewrites checked whether or not DEST_MODE and OP use them. [log 84 DEDUCED] -/
def badAction (i : Nat) : Bool :=
  let d := acDisp i
  decide (5 ≤ d) || (if d = 3 ∨ d = 4 then decide (acReason i < 16) else acReason i ≠ 0) || acDestMode i = 3
    || destBad (acDest i) || bits i 29 28 = 3 || i.testBit 16 || bits (word i 2) 62 61 = 3
    || !(zeroAt i 2 60 40 && zeroAt i 3 63 40) || badTagOp (acTagOp i 0) || badTagOp (acTagOp i 1)
    || badRewrite i 0 || badRewrite i 1

/-- Egress action row (R615). -/
def badEgress (i : Nat) : Bool :=
  badAction i || decide (2 < acDisp i) || bits i 54 18 ≠ 0 || bits i 17 0 ≠ 0 || bits (word i 1) 63 47 ≠ 0

/-- Slug (Table 9.6, R631). -/
def badSlug (i : Nat) : Bool :=
  let len := bits i 6 0
  !(zeroAt i 0 63 57 && zeroAt i 0 31 9 && !i.testBit 7) || decide (64 < len)
    || (i.testBit 39 && decide (len < bits i 38 32 + 20)) || (i.testBit 47 && decide (len < bits i 46 40 + 40))
    || (i.testBit 55 && decide (len < bits i 54 48 + 8)) || i >>> (64 + 8 * len) ≠ 0

/-- Load-spread bucket (Table 9.9, R642). -/
def badBucket (i : Nat) : Bool := bits i 31 25 ≠ 0 || bits i 12 9 ≠ 0 || decide (263 < bits i 8 0) || decide (263 < bits i 21 13)

/-- Multicast port list (R1159). -/
def badPortList (r i : Nat) : Bool := bits i 63 35 ≠ 0 || (i.testBit 33 && r % 8 ≠ 0) || (i.testBit 34 && r % 8 ≠ 1)

/-- FEC values of a mode (Table 5.3). -/
def fecOk (mode fec : Nat) : Bool :=
  if mode = 0 then fec = 0 else if mode ≤ 6 then fec = 3 else if mode = 7 then decide (fec ≤ 2) else decide (fec ≤ 1)

/-- Port mode (Table 5.2, R281). -/
def badMode (i : Nat) : Bool :=
  let m := modeOf i
  bits i 63 32 ≠ 0 || bits i 15 9 ≠ 0 || decide (8 < m) || !fecOk m (bits i 7 4)
    || (List.range 8).any (fun j => (i.testBit (16 + j) && !lowestLane m j) || (i.testBit (24 + j) && !i.testBit (16 + j)))

/-- Scheduler row (Table 11.1, R718). -/
def badSched (i : Nat) : Bool :=
  !(zeroAt i 0 63 56 && zeroAt i 0 36 26 && zeroAt i 1 63 60 && zeroAt i 2 63 36)
    || (List.range 8).any (fun c => (List.range c).any (fun d => c ^^^ qmap i c = d ^^^ qmap i d))

/-- The two rate words that shapers and policers share (Table 11.3). -/
def badRates (i : Nat) : Bool := !(zeroAt i 0 63 56 && !i.testBit 31 && zeroAt i 1 63 56 && !i.testBit 95)

/-- Shaper row (R743). -/
def badShaper (r i : Nat) : Bool :=
  badRates i || !zeroAt i 2 53 0 || rowMode i = 3 || (rowMode i = 2 && r % 10 = 9)

/-- Policer row (R747). -/
def badPolicer (i : Nat) : Bool :=
  let w := word i 2
  badRates i || !zeroAt i 2 38 0 || rowMode i = 3 || (rowMode i = 2 && decide (638 < bits w 48 39))
    || (!w.testBit 52 && bits w 51 49 ≠ 0)

/-- Admission row (R656). -/
def badAdmission (i : Nat) : Bool :=
  !(zeroAt i 0 3 0 && zeroAt i 1 3 0 && zeroAt i 2 35 0) || decide (65536 < headroomOf i) || decide (xoffThr i < xonThr i)
    || (spillThr i ≠ 0 && decide (spillThr i ≤ refillThr i))

/-- Gate entry (Table 12.3, R815). -/
def badGate (r i : Nat) : Bool :=
  !(zeroAt i 0 63 44 && zeroAt i 1 63 48 && zeroAt i 3 62 43) || decide (2 < geOp i)
    || decide (1000000000 ≤ bits (word i 2) 63 32)
    || (glEnable i && (decide (glCycle i < 1000) || glLen i = 0 || decide (1024 < glLen i)))
    || (r % 1024 ≠ 0 && i >>> 64 ≠ 0)

/-- E_CHECK of an indexed image that depends on nothing but itself and its row. [log 19 DEDUCED] -/
def badRow (t r i : Nat) : Bool :=
  if t = 0x101 then badProfile i
  else if t = 0x102 then badTemplate i
  else if t = 0x103 then badStick i
  else if t = 0x400 then badAction i
  else if t = 0x410 then !(zeroAt i 0 62 32 && zeroAt i 21 31 0)
  else if t = 0x411 then badBucket i
  else if t = 0x420 then bits i 63 8 ≠ 0
  else if t = 0x510 then badEgress i
  else if t = 0x511 then badSlug i
  else if t = 0x520 then badPortList r i
  else if t = 0x530 then bits i 63 18 ≠ 0 || bits i 15 10 ≠ 0
  else if t = 0x531 then !(zeroAt i 0 63 48 && zeroAt i 0 31 23 && zeroAt i 0 13 10) || bits i 17 16 = 3 || bits i 15 14 = 3
    || decide (263 < syPort i)
  else if t = 0x600 then badMode i
  else if t = 0x610 then badSched i
  else if t = 0x620 then badShaper r i
  else if t = 0x621 then badPolicer i
  else if t = 0x630 then badAdmission i
  else if t = 0x640 then badGate r i
  else if t = 0x650 then bits i 63 53 ≠ 0 || bits i 31 26 ≠ 0 || bits i 52 51 = 3
  else false

/-- An indexed image refers to an absent unit (R7, R616, R642, R1158). [log 26 DEDUCED] -/
def rowRefersAbsent (s : State) (t i : Nat) : Bool :=
  if t = 0x101 then (List.range 266).any (fun p => (i >>> 64).testBit p && portAbsent s p)
  else if t = 0x400 ∨ t = 0x510 then
    (acDestMode i ≠ 0 && destAbsent s (acDest i)) || (bits i 29 28 ≠ 0 && !hasCipher s)
      || ((word i 1).testBit 63 && !tilePresent s (bits (word i 1) 62 47 / 8192))
  else if t = 0x411 then portAbsent s (bits i 8 0) || portAbsent s (bits i 21 13)
  else if t = 0x420 then (List.range 8).any (fun u => i.testBit u && !tilePresent s u)
  else if t = 0x531 then portAbsent s (syPort i)
  else false

-- ASA profiles (R577) and entries (R585, R586)

/-- Aligned groups of the profile's width that lie wholly in a bank mask, and no part of another (R577). -/
def banksAligned (width banks : Nat) : Bool :=
  let g := 2 ^ width
  (List.range (32 / g)).all (fun k => let m := bits banks (g * k + g - 1) (g * k); m = 0 || m = 2 ^ g - 1)

/-- E_CHECK of a profile definition; `other` lists the banks of the other valid profiles (R577). -/
def badAsaProfile (i other : Nat) : Bool :=
  !(zeroAt i 0 22 0 && zeroAt i 2 63 32 && zeroAt i 4 63 36) || prWidth i = 3 || prMissRule i = 3
    || decide (prStickHi i < prStickLo i) || (List.range 20).any (fun k => decide (19 < prChunk i k))
    || !banksAligned (prWidth i) (prBanks i) || (prValid i && prBanks i &&& other ≠ 0)

/-- An ASA image of n value words (160 bits when n is 3) holds no bit it must not (R585, R586): its form, then its key. -/
def badAsaKey (n img : Nat) : Bool :=
  n = 3 && (decide (2 ^ 160 ≤ entValue img n) || decide (2 ^ 160 ≤ entMask img n))
def badAsaImage (n img : Nat) : Bool :=
  badAsaKey n img || entValue img n &&& entMask img n ≠ entValue img n || bits (word img (2 * n)) 47 16 ≠ 0

-- Case images (R508 to R512, R1170)

/-- A Case image taken apart: its key words, key and result word; none where its TYPE does not fit its width (R213). -/
structure CaseImg where
  words : Nat
  key : Nat
  result : Nat
deriving DecidableEq, Repr

/-- Slots of a key width in words. -/
def caseSlotsOf (words : Nat) : Nat := if words = 2 then 1 else if words = 3 then 2 else 4

/-- Key bits that Table 8.1 marks 0, and bits above the width. -/
def badCaseKey (words key : Nat) : Bool :=
  if words = 2 then
    let t := bits key 127 92
    !((t = 1 && bits key 77 48 = 0) || (t = 2 && bits key 79 32 = 0))
  else if words = 3 then
    let t := bits key 191 188
    !((t = 3 && bits key 175 128 = 0) || (t = 4 && bits key 135 64 = 0))
  else !(bits key 383 380 = 5 && bits key 327 256 = 0)

/-- The width of a padded image (R1170). -/
def paddedWords (img : Nat) : Option Nat :=
  if bits img 383 380 = 5 then some 6
  else if bits img 191 188 = 3 ∨ bits img 191 188 = 4 then some 3
  else if bits img 95 92 = 1 ∨ bits img 95 92 = 2 then some 2
  else none

/-- Take an image of `words` key words apart. -/
def caseImg (words img : Nat) : CaseImg :=
  { words := words, key := img % 2 ^ (64 * words), result := word img words }

/-- The image of an instruction with WIDTH `width` (R512): the form that `value` fixes. -/
def caseImage (width value img : Nat) : Option CaseImg :=
  if width < 3 then some (caseImg (if width = 0 then 2 else if width = 1 then 3 else 6) img)
  else (paddedWords value).map (fun w => caseImg w img)

/-- Octets of one image of an instruction with WIDTH `width` (R512). [log 23 DEDUCED] -/
def caseImgLen (width : Nat) : Nat := if width = 0 then 24 else if width = 1 then 32 else 56

/-- Result word that Table 8.2 or R511 rejects. -/
def badCaseResult (key words r : Nat) : Bool :=
  let fdb := words = 2 && bits key 95 92 = 1
  bits r 63 48 ≠ 0 || bits r 20 18 ≠ 0 || destBad (bits r 17 0) || (if fdb then bits r 47 32 ≠ 0 else bits r 31 21 ≠ 0)

/-- A Case result that refers to an absent unit (R7). [log 26 DEDUCED] -/
def caseRefersAbsent (s : State) (key words r : Nat) : Bool :=
  destAbsent s (bits r 17 0) || (words = 2 && bits key 95 92 = 1 && r.testBit 31 && !hasCipher s)

/-- The image of a Case entry as its TRD and its log entry hold it (R512). -/
def caseWhole (words key result : Nat) : Nat := key + result * 2 ^ (64 * words)

/-- Key words of a Case entry of `slots`. -/
def wordsOfSlots (slots : Nat) : Nat := if slots = 1 then 2 else if slots = 2 then 3 else 6

/-- Key words of a Case key, by its TYPE (R1170). -/
def wordsOfKey (key : Nat) : Nat := (paddedWords key).getD 2

end Sys2Proof.Machine
end

