-- ==== Sys2Proof/Machine/Keys.lean ====
section
/-! DEFINITION. Key and SA instructions, the timed SA switch, and writes of SECY_TX_CUR and CIPHER_MODE (chapters Ermel
Instruction Reference and The Line Cipher and the Cryptographic Boundary). -/

namespace Sys2Proof.Machine

/-- INDEX of KLOAD and SASW: [16] DIR, [13:0] SA, every other bit 0 (Table 4.12). -/
def saIndexOk (x : Nat) : Bool := x < 2 ^ 17 && bits x 15 14 = 0
def saIndexDir (x : Nat) : Bool := x.testBit 16
def saIndexSa (x : Nat) : Nat := bits x 13 0

/-- The boundary refuses cipher services (R419). -/
def cipherStopped (s : State) : Bool := boundary s = bsError || boundary s = bsZeroised

/-- A receive SA is the one at CUR_AN of some SecY (Table 6.18). -/
def rxAtCurAn (s : State) (a : Nat) : Bool :=
  (List.range 1024).any (fun i => anMap s i (rdF s (rSecySa i) 63 62) == some a)

/-- An SA is in use (R264). -/
def saInUse (s : State) (rx : Bool) (a : Nat) : Bool :=
  if rx then smGet (fun _ => false) s.ciph.saUsed (saKeyIx true a)
  else (List.range 1024).any (fun i => rdB s (rTxCur i) 14 && rdF s (rTxCur i) 13 0 = a)

/-- The KLOAD operand block (Table 4.13) holds no value this manual rejects: SUITE, SSCI, SALT and the bytes marked 0. -/
def kloadBlockOk (b : List Byte) : Bool :=
  let suite := leAt b 2 1
  let len := leAt b 0 2
  suite ≤ 3 && leAt b 3 1 = 0 && leAt b 20 4 = 0 && (2 ≤ suite || (leAt b 4 4 = 0 && leAt b 8 12 = 0))
    && leAt b (32 + min len 40) (40 - min len 40) = 0

/-- Load a key into an SA (R263, R371, Table 6.18). -/
def loadSa (s : State) (rx : Bool) (a kek : Nat) (b key : List Byte) : State :=
  let suite := leAt b 2 1
  let pn := max (leAt b 24 8) 1
  let s := { s with ciph := { s.ciph with
    saKeys := smIns (saKeyIx rx a) { key := key, suite := suite, ssci := leAt b 4 4, salt := slice b 8 12 } s.ciph.saKeys
    saUsed := smSet (fun _ => false) s.ciph.saUsed (saKeyIx rx a) false } }
  let st := if rx ∧ rxAtCurAn s a then saCurrent else saLoaded
  let s := wr s (rSa rx a 8) (BitVec.ofNat 64 (kek * 2 ^ 16 + suite * 2 ^ 8 + st))
  wr (wr s (rSa rx a 0x10) (BitVec.ofNat 64 pn)) (rSa rx a 0x18) (BitVec.ofNat 64 (if rx then pn else 0))

/-- KLOAD (R263 to R266, R274, R419). `unwrapped` is the key that the unwrapping gives, none when its integrity check
fails. -/
def execKload (ring : Fin 64) (ins : Ins) (block : Block) (unwrapped : Option (List Byte)) (s : State) :
    Host.Outcome State Fault Refusal :=
  let n := ring.val
  let rx := saIndexDir ins.index
  let a := saIndexSa ins.index
  nextOf s <| runIns s n opKload ins fun isn s =>
    guardIns s [(decide (8 ≤ ins.flags) || decide (64 ≤ ins.unit) || !saIndexOk ins.index || ins.operand % 16 ≠ 0, .eCheck),
        (!hasCipher s, .eAbsent), (ringRole s n ≠ 1, .ePerm), (cipherStopped s, .eCipherState)] fun s =>
      match block with
      | none => operandFault s n isn ins.operand
      | some b =>
        let suite := leAt b 2 1
        let lenOk := leAt b 0 2 = (if suite % 2 = 0 then 24 else 40)
        match firstFail [(!kloadBlockOk b, .eCheck), (!kekHeld s ins.unit || !lenOk || saInUse s rx a, .eKey)], unwrapped with
        | some st, _ => (s, .done st 0)
        | none, none => (s, .done .eKey 0)
        | none, some k =>
          (journal (loadSa s rx a ins.unit b k) 0x0040 (ringOrigin n) [(8, isn), (1, ins.unit), (1, b2n rx), (2, a), (1, suite)],
            .done .ok ins.index)

/-- What KZERO of a SCOPE zeroises: the state and the number of keys. -/
def kzeroAct (s : State) (scope : Nat) (ins : Ins) (operator_ : Nat) : State × Nat :=
  if scope = 0 then
    (zeroSa s (saIndexDir ins.index) (saIndexSa ins.index), b2n (saHasKey s (saIndexDir ins.index) (saIndexSa ins.index)))
  else if scope = 1 then zeroKek s ins.unit
  else if scope = 2 then zeroAllSa s
  else zeroStore s 1 operator_

/-- KZERO of a SCOPE (R267, R268, R274, R402, R419, R425). -/
def kzero (scope n : Nat) (ins : Ins) (s : State) : State :=
  runIns s n opKzero ins fun isn s =>
    guardIns s [(decide (16 ≤ ins.flags) || (if scope = 1 then decide (64 ≤ ins.unit) else ins.unit ≠ 0)
          || (if scope = 0 then !saIndexOk ins.index else ins.index ≠ 0)
          || ins.operand ≠ (if scope = 3 then 0x5A45524F else 0), .eCheck),
        (!hasCipher s, .eAbsent), (ringRole s n ≠ (if scope = 1 ∨ scope = 3 then 2 else 1), .ePerm),
        (scope ≠ 3 && cipherStopped s, .eCipherState)] fun s =>
      let z := kzeroAct s scope ins (ringOperator s n)
      (journalZero z.1 (ringOrigin n) isn scope (if scope = 1 then ins.unit else 0)
        (if scope = 0 then saIndexSa ins.index else 0) z.2 (ringOperator s n), .done .ok z.2)

/-- KZERO_SA (R268): SCOPE 0. [log 78 DEDUCED] -/
def execKzeroSa (ring : Fin 64) (ins : Ins) (s : State) : Host.Outcome State Fault Refusal := nextOf s (kzero 0 ring.val ins s)

/-- KZERO_KEK (R400, R401): SCOPE 1. -/
def execKzeroKek (ring : Fin 64) (ins : Ins) (s : State) : Host.Outcome State Fault Refusal := nextOf s (kzero 1 ring.val ins s)

/-- KZERO_SA_ALL (R425): SCOPE 2. -/
def execKzeroSaAll (ring : Fin 64) (ins : Ins) (s : State) : Host.Outcome State Fault Refusal :=
  nextOf s (kzero 2 ring.val ins s)

/-- KZERO_ALL (R267, R426): SCOPE 3. -/
def execKzeroAll (ring : Fin 64) (ins : Ins) (s : State) : Host.Outcome State Fault Refusal := nextOf s (kzero 3 ring.val ins s)

-- SASW

/-- Pending SASW and LOCKAT instructions (R82). -/
def pendingTimed (s : State) : Nat := s.ctl.sasws.length + b2n (s.forme.pendLock.elim false (fun l => l.timed))

/-- The AN under which a SecY maps a receive SA (R387, R388). -/
def anOf (s : State) (i a : Nat) : Option Nat := findBelow 4 (fun n => anMap s i n == some a)

/-- Remove a pending SASW and complete it. [log 30 DEDUCED] -/
def finishSasw (s : State) (x : Sasw) (st : Status) (result : Nat) : State :=
  completeTimed { s with ctl := { s.ctl with sasws := s.ctl.sasws.filter (fun y => y.isn ≠ x.isn) } }
    x.ring x.isn opSasw x.flags x.orphan st result

/-- SASW (R269 to R273, R387, R82). [log 11 DEDUCED, 98 DESIGN CHOICE] -/
def execSasw (ring : Fin 64) (ins : Ins) (block : Block) (s : State) : Host.Outcome State Fault Refusal :=
  let n := ring.val
  let rx := saIndexDir ins.index
  let a := saIndexSa ins.index
  nextOf s <| runIns s n opSasw ins fun isn s =>
    guardIns s [(decide (4 ≤ ins.flags) || decide (1024 ≤ ins.unit) || !saIndexOk ins.index || ins.operand % 16 ≠ 0, .eCheck),
        (!hasCipher s, .eAbsent), (ringRole s n ≠ 1, .ePerm), (cipherStopped s, .eCipherState)] fun s =>
      match block with
      | none => operandFault s n isn ins.operand
      | some b =>
        let sec := leAt b 0 8
        let ns := leAt b 12 4
        guardIns s [(rx && (anOf s ins.unit a).isNone, .eCheck), (decide (1024 ≤ pendingTimed s), .eFull),
            (!saHasKey s rx a, .eKey), (decide (tNs sec ns < opNs s), .eTimePast)] fun s =>
          let s := match s.ctl.sasws.find? (fun x => x.secy = ins.unit && x.dir == rx) with
            | some x => finishSasw s x .eAbort 0
            | none => s
          ({ s with ctl := { s.ctl with sasws := s.ctl.sasws ++
            [{ isn := isn, ring := n, flags := ins.flags, origin := ringOrigin n, secy := ins.unit, dir := rx, sa := a,
               sec := sec, ns := ns }] } }, .accepted)

/-- A receive SASW takes effect (R388, R389): CUR_AN moves, the SA it named becomes RETIRING. [log 30 DEDUCED] -/
def rxSwitch (s : State) (i a an : Nat) : State × Nat :=
  let old := anMap s i (rdF s (rSecySa i) 63 62)
  let s := wrF s (rSecySa i) 63 62 an
  let s := match old with
    | some p =>
      if p ≠ a ∧ saState s true p ≠ saEmpty then
        let s := setSaState s true p saRetiring
        { s with ciph := { s.ciph with
          saRetireAt := smSet (fun _ => 0) s.ciph.saRetireAt p (s.cycle + rdF s (rSecyTiming i) 23 0 * cyclesPerUs) } }
      else s
    | none => s
  (setSaState s true a saCurrent, old.getD 0)

/-- The pending SASW of least T, the first accepted among equals, once operational time has reached it (R385, R391). -/
def saswDue (s : State) : Option Sasw :=
  (s.ctl.sasws.filter (fun x => decide (tNs x.sec x.ns ≤ opNs s))).foldl (fun b x => match b with
    | none => some x
    | some y => if tNs x.sec x.ns < tNs y.sec y.ns then some x else some y) none

/-- The SASW that is due takes effect (R385 to R388, R391, R392, R395, R272). -/
def saSwitchNow (s : State) : State :=
    match saswDue s with
    | none => s
    | some x =>
      let late := if x.stepLate then (opNs s - tNs x.sec x.ns) % 2 ^ 63 else 0
      let done (s : State) (prev : Nat) : State :=
        let s := finishSasw s x .ok (b2n x.stepLate * 2 ^ 63 + late)
        let s := postHw s 0x0203 [(2, x.secy), (1, b2n x.dir), (2, prev), (2, x.sa), (8, late)]
        journal s 0x0044 x.origin [(8, x.isn), (2, x.secy), (1, b2n x.dir), (2, prev), (2, x.sa)]
      if ¬ saHasKey s x.dir x.sa then finishSasw s x .eKey 0
      else if x.dir then
        match anOf s x.secy x.sa with
        | none => finishSasw s x .eCheck 0
        | some an => let r := rxSwitch s x.secy x.sa an; done r.1 r.2
      else done (makeCurrent s x.secy x.sa) (rdF s (rTxCur x.secy) 13 0)

/-- SA_SWITCH (R385, R388). [log 80 DEDUCED] -/
def execSaSwitch (s : State) : Host.Outcome State Fault Refusal := nextOf s (saSwitchNow s)

/-- The SecY of an SA window (Table 6.17). -/
def saSecy (s : State) (rx : Bool) (a : Nat) : Nat := rdF s (rSa rx a 0) 9 0

/-- SA_RETIRE (R389): RX_RETIRE_DELAY has passed since the switch. -/
def execSaRetire (sa : Fin 16384) (s : State) : Host.Outcome State Fault Refusal :=
  let a := sa.val
  let t := smGet (fun _ => 0) s.ciph.saRetireAt a
  nextOf s <| onlyIf (saState s true a = saRetiring && decide (t ≤ s.cycle)) s <|
    let s := { s with ciph := { s.ciph with saRetireAt := smSet (fun _ => 0) s.ciph.saRetireAt a 0 } }
    postHw (setSaState s true a saRetired) 0x0204 [(2, saSecy s true a), (2, a)]

/-- SECY_TX_CUR_WRITE (R383): a ring's write has passed the Write Gate. -/
def execSecyTxCurWrite (secy : Fin 1024) (value : Word) (s : State) : Host.Outcome State Fault Refusal :=
  nextOf s <| onlyIf (hasCipher s && !cipherStopped s) s (txCurWrite s secy.val (BitVec.allOnes 64) value).1

/-- CIPHER_MODE_WRITE (R411, R412): a crypto officer's RW reaches CIPHER_MODE; `operator` is its identity. -/
def execCipherModeWrite (operator_ : Fin 16) (value : Word) (s : State) : Host.Outcome State Fault Refusal :=
  nextOf s <| onlyIf (hasCipher s && !cipherStopped s) s (cipherModeWrite s (BitVec.allOnes 64) value operator_.val).1

end Sys2Proof.Machine
end

