-- ==== Sys2Proof/Machine/Galley.lean ====
section
/-! DEFINITION. The galley: its state, its log, the view of a table as the live forme and the galley would leave it, and the
placing of writes in it (chapters Formes, Lock-up and the Coherent State and Ermel Instruction Reference). -/

namespace Sys2Proof.Machine

-- FORME_STATUS (Table 3.7)

def gsNone : Nat := 0
def gsOpen : Nat := 1
def gsPending : Nat := 2
def galleyState (s : State) : Nat := rdF s rFormeStatus 10 8
def setGalleyState (s : State) (v : Nat) : State := wrF s rFormeStatus 10 8 v
def galleyOwner (s : State) : Nat := rdF s rFormeStatus 29 24
def ownerGone (s : State) : Bool := rdB s rFormeStatus 16
def pendPhase (s : State) : Nat := rdF s rFormeStatus 12 11
def setPhase (s : State) (v : Nat) : State := wrF s rFormeStatus 12 11 v
def prevState (s : State) : Nat := rdF s rFormeStatus 5 4
def setPrev (s : State) (v : Nat) : State := wrF s rFormeStatus 5 4 v
def formeGen (s : State) : Nat := (rd s rFormeGen).toNat

/-- Replace the galley log; GALLEY_WRITES follows it. -/
def setLog (s : State) (l : List GWrite) : State :=
  wrF { s with forme := { s.forme with galley := l } } rFormeStatus 50 32 l.length

/-- The galley returns to NONE and its log is gone. -/
def galleyNone (s : State) : State := setGalleyState (setLog (wrB s rFormeStatus 16 false) []) gsNone

/-- A galley-class instruction of the owner restarts GALLEY_TIMEOUT (R125). -/
def touchGalley (s : State) (n : Nat) : State :=
  if galleyOwner s = n then { s with forme := { s.forme with galleyCycle := s.cycle } } else s

/-- The checks of R121 and R122 in their order. [log 107 DESIGN CHOICE] -/
def galleyChecks (s : State) (n : Nat) : List (Bool × Status) :=
  [(galleyState s = gsNone, .eNoGalley), (galleyOwner s ≠ n, .ePerm), (galleyState s = gsPending, .eFormeBusy)]

-- The log (R124)

/-- Two writes name the same row or key. -/
def sameTarget (a b : GWrite) : Bool := a.table = b.table && a.row = b.row && a.key = b.key

/-- A later write replaces an earlier one and stands at its own place in log order (R124). -/
def logPut (l : List GWrite) (w : GWrite) : List GWrite := l.filter (fun x => !sameTarget x w) ++ [w]

def logRow (l : List GWrite) (t r : Nat) : Option GWrite := l.find? (fun w => w.table = t && w.row = r)
def logKey (l : List GWrite) (t key : Nat) : Option GWrite := l.find? (fun w => w.table = t && w.key = key)

/-- A row of an indexed table as the live forme and a log would leave it. -/
def rowWith (s : State) (l : List GWrite) (t r : Nat) : Nat := (logRow l t r).elim (liveRow s t r) (fun w => w.image)

/-- The live static entry of a Case key (R515). -/
def staticEnt (s : State) (key : Nat) : Option CaseEnt :=
  s.forme.case.find? (fun e => !e.learned && e.key = key && entLive e (live s))

def asaLive (e : AsaEnt) (parity : Bool) : Bool := if parity then e.v1 else e.v0

/-- The live entry of an ASA table's key. -/
def asaEnt (s : State) (t key : Nat) : Option AsaEnt :=
  s.forme.asa.find? (fun e => e.table = t && e.key = key && asaLive e (live s))

/-- The image held under a key as the live forme and a log would leave its table (R212). -/
def imageWith (s : State) (l : List GWrite) (t key : Nat) : Option Nat :=
  match logKey l t key with
  | some w => if w.del then none else some w.image
  | none =>
    if isCase t then (staticEnt s key).map (fun e => caseWhole (wordsOfSlots e.slots) e.key e.result)
    else (asaEnt s t key).map (fun e => e.image)

-- ASA profiles as the live forme and the log would leave them

def profileWith (s : State) (l : List GWrite) (t : Nat) : Nat := rowWith s l 0x310 (t - 0x300)

/-- Value words of the images of an ASA table (R585, R603). -/
def asaN (s : State) (l : List GWrite) (t : Nat) : Nat := if t = 0x500 then 3 else asaWords (prWidth (profileWith s l t))

/-- Octets of one entry image of a table for an instruction with the given INDEX. -/
def imageLen (s : State) (l : List GWrite) (t index : Nat) : Nat :=
  match indexedTable t with
  | some x => x.2
  | none => if isCase t then caseImgLen (index % 4) else 8 * (2 * asaN s l t + 1)

/-- Banks of the other valid profiles (R577). [log 22 DEDUCED] -/
def otherBanks (s : State) (l : List GWrite) (r : Nat) : Nat :=
  (List.range 16).foldl (fun m p => if p ≠ r ∧ prValid (rowWith s l 0x310 p) then m ||| prBanks (rowWith s l 0x310 p) else m) 0

/-- R578: the change to profile row r is not one that its entries or the galley forbid. [log 22 DEDUCED] -/
def profileHeld (s : State) (l : List GWrite) (r new : Nat) : Bool :=
  let old := rowWith s l 0x310 r
  let takes := (prValid old && !prValid new) || prWidth old ≠ prWidth new || prBanks old &&& prBanks new ≠ prBanks old
  takes && (s.forme.asa.any (fun e => e.table = 0x300 + r) || l.any (fun w => w.table = 0x300 + r))

-- Placing entries

/-- What one entry of an instruction gives: a write for the log, or why it fails. -/
inductive EntryResult where
  | put (w : GWrite)
  | fail (st : Status)
deriving DecidableEq, Repr

/-- The check of an indexed image, `after` being the log with every entry of the instruction in it. [log 22 DEDUCED] -/
def checkRow (s : State) (before after : List GWrite) (t r i : Nat) : Option Status :=
  if badRow t r i ∨ (t = 0x310 ∧ (badAsaProfile i (otherBanks s after r) ∨ profileHeld s before r i)) then some .eCheck
  else if rowRefersAbsent s t i then some .eAbsent
  else none

/-- Masked replacement (R209). -/
def maskInto (old mask value bitsN : Nat) : Nat :=
  (old &&& (2 ^ bitsN - 1 - mask % 2 ^ bitsN)) ||| (value &&& mask % 2 ^ bitsN)

/-- A write of an associative image (TW). -/
def assocWrite (s : State) (l : List GWrite) (t index img : Nat) : EntryResult :=
  if isCase t then
    match caseImage (index % 4) img img with
    | none => .fail .eCheck
    | some c =>
      if badCaseKey c.words c.key ∨ badCaseResult c.key c.words c.result
          ∨ (index % 4 = 3 ∧ img ≠ caseWhole c.words c.key c.result) then .fail .eCheck
      else if caseRefersAbsent s c.key c.words c.result then .fail .eAbsent
      else .put { table := t, row := 0, key := c.key, del := false, image := caseWhole c.words c.key c.result }
  else
    let n := asaN s l t
    if badAsaImage n img ∨ (t ≠ 0x500 ∧ ¬ prValid (profileWith s l t)) then .fail .eCheck
    else .put { table := t, row := 0, key := img % 2 ^ (128 * n), del := false, image := img }

/-- A deletion of an associative key (TD): only the key of the image is read (R208). -/
def assocDelete (s : State) (l : List GWrite) (t index img : Nat) : EntryResult :=
  let gone (key : Nat) : EntryResult :=
    if (imageWith s l t key).isNone then .fail .eAddr
    else .put { table := t, row := 0, key := key, del := true, image := key }
  if isCase t then
    match caseImage (index % 4) img img with
    | none => .fail .eCheck
    | some c => if badCaseKey c.words c.key then .fail .eCheck else gone c.key
  else
    let n := asaN s l t
    if badAsaKey n img then .fail .eCheck else gone (img % 2 ^ (128 * n))

/-- A masked modification of an associative entry (TM, R209, R210, R586). [log 11 DEDUCED] -/
def assocModify (s : State) (l : List GWrite) (t index mask value : Nat) : EntryResult :=
  if isCase t then
    match caseImage (index % 4) value value, caseImage (index % 4) value mask with
    | some v, some m =>
      if badCaseKey v.words v.key ∨ m.key ≠ 0 then .fail .eCheck
      else
        let held := imageWith s l t v.key
        let r := maskInto (word (held.getD 0) v.words) m.result v.result 64
        if badCaseResult v.key v.words r then .fail .eCheck
        else if caseRefersAbsent s v.key v.words r then .fail .eAbsent
        else if held.isNone then .fail .eAddr
        else .put { table := t, row := 0, key := v.key, del := false, image := caseWhole v.words v.key r }
    | _, _ => .fail .eCheck
  else
    let n := asaN s l t
    let key := value % 2 ^ (128 * n)
    if badAsaKey n value ∨ mask % 2 ^ (128 * n) ≠ 0 ∨ (t ≠ 0x500 ∧ ¬ prValid (profileWith s l t)) then .fail .eCheck
    else
      let held := imageWith s l t key
      let img := maskInto (held.getD 0 / 2 ^ (128 * n) * 2 ^ (128 * n) + key) mask value (128 * n + 64)
      if badAsaImage n img then .fail .eCheck else if held.isNone then .fail .eAddr
      else .put { table := t, row := 0, key := key, del := false, image := img }

/-- Place the entries of an associative instruction one after another: the log, or the first that fails (R211). -/
def placeAssoc (f : List GWrite → Nat → EntryResult) : List Nat → Nat → List GWrite → List GWrite ⊕ (Status × Nat)
  | [], _, l => .inl l
  | x :: t, i, l =>
    match f l x with
    | .fail st => .inr (st, i)
    | .put w => placeAssoc f t (i + 1) (logPut l w)

/-- Place rows of an indexed table: the log, or the first entry that fails (R211). -/
def placeRows (s : State) (l : List GWrite) (t : Nat) (rows : List (Nat × Nat)) : List GWrite ⊕ (Status × Nat) :=
  let after := rows.foldl (fun l x => logPut l { table := t, row := x.1, key := 0, del := false, image := x.2 }) l
  match (rows.zip (List.range rows.length)).findSome? (fun x => (checkRow s l after t x.1.1 x.1.2).map (fun st => (st, x.2))) with
  | some f => .inr f
  | none => .inl after

/-- Finish a TW, TD or TM (R123, R211, R214). -/
def placed (s : State) (r : List GWrite ⊕ (Status × Nat)) : State × Verdict :=
  match r with
  | .inr (st, i) => (s, .done st i)
  | .inl l =>
    if 262144 < l.length then (s, .done .eFull 0)
    else (setLog s l, .done .ok l.length)

/-- Entry i of an operand block of images of `len` octets. -/
def blockImage (b : List Byte) (len i : Nat) : Nat := leAt b (len * i) len

end Sys2Proof.Machine
end

