-- ==== Sys2Proof/Machine/Ports.lean ====
section
/-! DEFINITION. Commands of the ports and the MAC: reception, pause and PFC, MAC merge, link state (chapter Lanes, Ports
and the MAC). -/

namespace Sys2Proof.Machine

-- Reception

/-- Receive classes of Table 5.4, by the index of their counter in Table 5.7. -/
def rxClass (max_ : Nat) (f : RxFrame) : Nat :=
  let l := f.octets.length
  let err := f.fcsErr || f.codeErr
  if l < 64 ∧ err then 22
  else if l < 64 then 21
  else if max_ < l ∧ err then 24
  else if max_ < l then 23
  else if f.codeErr then 20
  else if f.fcsErr then 19
  else 2

/-- The length/type field of a frame. -/
def etherType (o : List Byte) : Nat := beAt o 12 2

/-- R295: a length field that does not match the data. -/
def lenErr (o : List Byte) : Bool :=
  let t := etherType o
  let n := o.length - 18
  t < 1536 && !(t = n || (o.length = 64 && t < n))

def isGroup (o : List Byte) : Bool := (o.head?.elim 0 (·.toNat)) % 2 = 1
def isBcast (o : List Byte) : Bool := beAt o 0 6 = 2 ^ 48 - 1

/-- MAC statistics of a received frame (Tables 5.4 and 5.7, R294 to R296). -/
def rxCount (s : State) (p : Nat) (f : RxFrame) : State :=
  let c := rxClass (maxLen s p) f
  let l := f.octets.length
  let s := macAdd (macAdd (macAdd s p 3 1) p c 1) p 1 l
  let s := if c = 2 ∨ c = 19 ∨ c = 20 then macAdd s p (26 + sizeBin l) 1 else s
  if c ≠ 2 then s
  else
    let s := macAdd s p 0 l
    let s := if lenErr f.octets then macAdd s p 25 1 else s
    let t := etherType f.octets
    let s := if t = 0x8100 ∨ t = 0x88A8 then macAdd s p 7 1 else s
    if t = 0x8808 then s
    else macAdd s p (if isBcast f.octets then 6 else if isGroup f.octets then 5 else 4) 1

/-- The cycles that `q` quanta of 512 bit times last at a rate in Mb/s (R301). -/
def quantaCycles (q rate : Nat) : Nat := (q * 512 * 1600 + rate - 1) / max rate 1

/-- The nanoseconds that this cycle completes of every hold count in TX_PAUSED_NS (Table 5.7, indices 82 to 90; R347). -/
def countHolds (s : State) : State :=
  s.path.holds.foldl (fun s x =>
    let e := s.cycle - smGet (fun _ => 0) s.path.holdStart x.1
    macAdd s (x.1 / 16) (82 + x.1 % 16) (nsOfCycles e - nsOfCycles (e - 1))) s

/-- A hold ends: its class shows held no longer. -/
def holdEnd (s : State) (p c : Nat) : State :=
  let k := p * 16 + c
  if smGet (fun _ => 0) s.path.holds k = 0 then s
  else
    let s := { s with path := { s.path with holds := smSet (fun _ => 0) s.path.holds k 0 } }
    if c = 8 then wrF s (rPortStatus p) 31 24 0 else wrB s (rPortStatus p) (24 + c) false

/-- Begin or replace the hold of class c (8: the whole port) for `q` quanta (R301 to R304). -/
def holdBegin (s : State) (p c q : Nat) : State :=
  let k := p * 16 + c
  if q = 0 then holdEnd s p c
  else
    let fresh := smGet (fun _ => 0) s.path.holds k = 0
    let e := s.cycle + quantaCycles q (portRate s p)
    let s := { s with path := { s.path with
      holds := smSet (fun _ => 0) s.path.holds k e
      holdStart := if fresh then smSet (fun _ => 0) s.path.holdStart k s.cycle else s.path.holdStart } }
    if c = 8 then wrF s (rPortStatus p) 31 24 255 else wrB s (rPortStatus p) (24 + c) true

/-- A PFC frame's effect (R301 to R303, R305), with its counters. -/
def pfcAct (s : State) (p : Nat) (o : List Byte) : State :=
  let s := macAdd s p 9 1
  let v := beAt o 16 2
  let one (s : State) (i : Nat) : State :=
    if v.testBit i then
      let q := beAt o (18 + 2 * i) 2
      let s := if 0 < q then macAdd s p (10 + i) 1 else s
      if fcMode s p = 2 ∧ pfcEn s p i then holdBegin s p i q else s
    else s
  (List.range 8).foldl one s

/-- A pause frame's effect (R304), with its counter. -/
def pauseAct (s : State) (p : Nat) (o : List Byte) : State :=
  let s := macAdd s p 8 1
  if fcMode s p = 1 then holdBegin s p 8 (beAt o 16 2) else s

/-- A port that passes frames: the device runs, the number is active, its link is up (R1087, R292). -/
def portRuns (s : State) (p : Nat) : Bool := devState s = stRun && portActive s p && portEn s p && linkUp s p

/-- Consume a MAC control frame in stage 2 (R299). -/
def macControl (s : State) (p : Nat) (o : List Byte) : State :=
  let op := beAt o 14 2
  if op = 0x0101 then pfcAct s p o else if op = 0x0001 then pauseAct s p o else macAdd s p 18 1

/-- The stomp cause of Table 5.5 that a receive class gives a frame already forwarded. -/
def stompCauseOf (c : Nat) : Option Nat :=
  if c = 19 then some 0 else if c = 20 then some 1 else if c = 23 ∨ c = 24 then some 2 else none

/-- What a started copy sends of a frame received in class c: all but the FCS; all that came before a code error ended the
frame; and of a frame too long, the octets up to MAX_LEN (R320, R321). [log 34 DESIGN CHOICE] -/
def sentPart (s : State) (p c : Nat) (o : List Byte) : List Byte :=
  if c = 20 then o else if c = 23 ∨ c = 24 then o.take (maxLen s p) else o.take (o.length - 4)

/-- A mirror copy taken from a frame still arriving gets the octets to its end, or is dropped with a bad one (R889, R893). -/
def mirrorArrive (s : State) (g : Frame) (m : Nat) (good : Bool) (o : List Byte) : State :=
  if ¬ good then mirrorDrop (removeFrame s g.id) m
  else
    let o := mirrorTrunc s m (o.take (o.length - 4))
    let b := o ++ leBytes 4 (crc32 o)
    let n := cellsOf b.length
    let s := setCopies s (s.path.copies.map (fun c => if c.frame = g.id then { c with charge := min c.charge n } else c))
    putFrame s { g with
      octets := b, len := b.length, receiving := false, complete := true, cells := n, charge := min g.charge n }

/-- The PCS counters of a port (Table 5.7, indices 40 to 43 and 47). [log 118 DESIGN CHOICE] -/
def pcsCount (s : State) (p : Nat) (x : PcsCounts) : State :=
  macAdd (macAdd (macAdd (macAdd (macAdd (perf s (8 + p / 8) 0x0205 x.corrected) p 40 x.codewords) p 41 x.corrected) p 42 x.uncorrectable)
    p 43 x.symbols) p 47 x.errBlocks

/-- The frame arrives as a preemptable one: the receive MAC of a port with MM_EN set takes both kinds (R313). [log 90 DEDUCED] -/
def rxPreempt (s : State) (p : Nat) : RxMac → Bool
  | .assembled _ => mmEn s p
  | .abandoned _ => mmEn s p
  | _ => false

/-- The MAC merge counters of a received frame (Table 5.7, indices 36 to 39). -/
def mmCount (s : State) (p : Nat) (m : RxMac) : State :=
  if ¬ mmEn s p then s
  else
    match m with
    | .plain => s
    | .assembled n => macAdd (macAdd s p 36 1) p 39 n
    | .abandoned n => macAdd (macAdd s p 37 1) p 39 n
    | .smdErr => macAdd s p 38 1

/-- The octets of a frame released early, as they stand at its end: without the SecTAG and ICV that stage 3 takes out (R375). -/
def arrived (x : Frame) (f : RxFrame) : List Byte :=
  match x.rxTag with
  | none => f.octets
  | some (off, data, enc) =>
    let user := if enc then f.user else slice f.octets data (f.octets.length - 4 - (data + 16))
    let b := f.octets.take off ++ user
    b ++ leBytes 4 (crc32 b)

/-- The part of a frame's body that started copies send (R320, R321). [log 34 DESIGN CHOICE] -/
def sentBody (s : State) (p c : Nat) (x : Frame) (o : List Byte) : List Byte :=
  if x.rxTag.isNone then sentPart s p c o else o.take (min (o.length - 4) (if c = 23 ∨ c = 24 then maxLen s p else o.length))

/-- The frame of port p released early whose octets still arrive. -/
def arrivingFrame (s : State) (p : Nat) (pre : Bool) : Option Frame :=
  s.path.frames.find? (fun x => x.port = p && x.receiving && x.mirrorOf.isNone && x.rxPre == pre)

/-- The rest of a frame released early has arrived, in class c of Table 5.4 (R294, R320, R321, R545). [log 34 DESIGN CHOICE] -/
def frameWhole (s : State) (p c : Nat) (x : Frame) (f : RxFrame) : State :=
  let o := arrived x f
  let x := { x with octets := o, receiving := false, cells := cellsOf o.length, bad := x.bad.orElse (fun _ => stompCauseOf c) }
  let s := putFrame s (if x.icvPending ∧ c = 2 then { x with fragWait := none } else { x with learn := none, fragWait := none })
  let s := setCopies s (s.path.copies.map (fun y => if y.frame = x.id then arriveTail y (sentBody s p c x o) else y))
  let s := (s.path.frames.filter (fun g => g.port = p && g.receiving && g.rxPre == x.rxPre)).foldl (fun s g =>
    g.mirrorOf.elim s (fun m => mirrorArrive s g m (c = 2) o)) s
  let s := x.fragWait.elim s (fun r => fragAsk s { r.1 with octs := slice (o.take (o.length - 4)) r.2 16, since := s.cycle })
  let s := (s.path.copies.filter (fun y => y.frame = x.id)).foldl (fun s y => macNext s y.port) s
  let s := reapFrame s x.id
  match x.learn with
  | some r => if c = 2 ∧ ¬ x.icvPending then queueLearn s (ingressTile p) r else s
  | none => s

/-- A frame received to its end at the MAC of port p (R294, R299, R313, R545): the frame of its kind released early is completed
or found bad, any other good frame waits for stage 3 or the header gather. A reassembly that was abandoned brings no frame.
[log 34 DESIGN CHOICE, 90 DEDUCED] [log 34 DESIGN CHOICE, 118 DESIGN CHOICE] -/
def macReceive (s : State) (p : Nat) (f : RxFrame) : State :=
  let s := mmCount (pcsCount s p f.pcs) p f.mac
  let pre := rxPreempt s p f.mac
  let lost := mmEn s p && (match f.mac with
    | .abandoned _ => true
    | _ => false)
  if mmEn s p ∧ f.mac = .smdErr then s
  else
  let c := if lost then 20 else rxClass (maxLen s p) f
  let s := if lost then s else perf (rxCount s p f) (8 + p / 8) 0x0201 1
  match arrivingFrame s p pre with
  | some x => frameWhole s p c x f
  | none =>
    let s := setHdrWait s p false
    if c ≠ 2 then s
    else if etherType f.octets = 0x8808 then macControl s p f.octets
    else addFrame s (rxStamp s p f.rxTime { id := 0, octets := f.octets, port := p, firstPort := p, stage := .mac })

/-- The port's lanes work: the device runs, the port is active, enabled and not held down (R1088, R340, R417, R1094). -/
def portRunning (s : State) (p : Nat) : Bool :=
  devState s = stRun && portActive s p && portEn s p && !rdB s (rPortCfg p) 18 && !lanesIdle s p && !rdB s rOctetFault (p / 8)

/-- FRAME_RECEIVE (R294 to R297, R299, R545); on a link that is down only the PCS counts (R347). -/
def execFrameReceive (port : Fin 256) (f : RxFrame) (s : State) : Host.Outcome State Fault Refusal :=
  nextOf s <| if portRuns s port.val then macReceive s port.val f
    else onlyIf (portRunning s port.val) s (pcsCount s port.val f.pcs)

/-- A MAC control frame of an opcode, received good. -/
def isControl (f : RxFrame) (op : Nat) : Bool := etherType f.octets = 0x8808 && beAt f.octets 14 2 = op

/-- PFC_FRAME_RECEIVE (R299, R301 to R303, R305). -/
def execPfcFrameReceive (port : Fin 256) (f : RxFrame) (s : State) : Host.Outcome State Fault Refusal :=
  nextOf s <| onlyIf (portRuns s port.val && isControl f 0x0101) s (macReceive s port.val f)

/-- PAUSE_FRAME_RECEIVE (R299, R304). -/
def execPauseFrameReceive (port : Fin 256) (f : RxFrame) (s : State) : Host.Outcome State Fault Refusal :=
  nextOf s <| onlyIf (portRuns s port.val && isControl f 0x0001) s (macReceive s port.val f)

/-- PAUSE_HOLD_EXPIRE (R301): class 0 to 7, or 8 for a pause hold of the port. -/
def execPauseHoldExpire (port : Fin 256) (cls : Fin 9) (s : State) : Host.Outcome State Fault Refusal :=
  let k := port.val * 16 + cls.val
  let e := smGet (fun _ => 0) s.path.holds k
  nextOf s <| onlyIf (e ≠ 0 && e ≤ s.cycle) s (macNext (holdEnd s port.val cls.val) port.val)

-- Generated flow control

/-- TX_QUANTA (Table 5.12: 0 acts as 1). -/
def txQuanta (s : State) (p : Nat) : Nat := max (rdF s (rFcCfg p) 47 32) 1

/-- The class generates flow control on this port: PFC with its enable bit, or PAUSE with class 0 as the whole port. -/
def fcGenerates (s : State) (p c : Nat) : Bool :=
  (fcMode s p = 2 && pfcEn s p c) || (fcMode s p = 1 && c = 0)

/-- TX_XOFF bits a class stands for: all of them under PAUSE. -/
def setXoff (s : State) (p c : Nat) (v : Bool) : State :=
  if fcMode s p = 1 then wrF s (rPortStatus p) 39 32 (if v then 255 else 0) else wrB s (rPortStatus p) (32 + c) v

/-- [log 73 DEDUCED] -/
def xoffSend (s : State) (p c : Nat) : State :=
  let s := setXoff (sendControl s p c (txQuanta s p)) p c true
  { s with path := { s.path with xoff := smSet (fun _ => 0) s.path.xoff (p * 16 + c) (s.cycle + 1) } }

/-- XOFF_SEND (R307, R663): U(i,c) has crossed XOFF and no XOFF stands. -/
def execXoffSend (port : Fin 256) (cls : Fin 8) (s : State) : Host.Outcome State Fault Refusal :=
  let p := port.val
  let c := cls.val
  nextOf s <| onlyIf (portRuns s p && fcGenerates s p c && !txXoff s p c
      && decide (xoffThr (admRow s p (ingressClass s p c)) < accU s p c)) s (xoffSend s p c)

/-- XOFF_REFRESH (R308): TX_QUANTA × 256 bit times since the last, the class still above XON. -/
def execXoffRefresh (port : Fin 256) (cls : Fin 8) (s : State) : Host.Outcome State Fault Refusal :=
  let p := port.val
  let c := cls.val
  let last := smGet (fun _ => 0) s.path.xoff (p * 16 + c)
  nextOf s <| onlyIf (portRuns s p && fcGenerates s p c && txXoff s p c && last ≠ 0
      && decide (last - 1 + (txQuanta s p * 256 * 1600 + portRate s p - 1) / max (portRate s p) 1 ≤ s.cycle)
      && decide (xonThr (admRow s p (ingressClass s p c)) < accU s p c)) s (xoffSend s p c)

/-- XON_SEND (R309): the class has fallen to its XON threshold. -/
def execXonSend (port : Fin 256) (cls : Fin 8) (s : State) : Host.Outcome State Fault Refusal :=
  let p := port.val
  let c := cls.val
  nextOf s <| onlyIf (portRuns s p && fcGenerates s p c && txXoff s p c
      && decide (accU s p c ≤ xonThr (admRow s p (ingressClass s p c)))) s <|
    let s := setXoff (sendControl s p c 0) p c false
    { s with path := { s.path with xoff := smSet (fun _ => 0) s.path.xoff (p * 16 + c) 0 } }

-- Link state

/-- LINK_HOLD in milliseconds (Table 5.11). -/
def linkHoldMs (s : State) (p : Nat) : Nat := min (rdF s (rLinkCfg p) 9 0) 1000

/-- A frame in transmission at link-down is lost (R338). -/
def abortTx (s : State) (p : Nat) : State :=
  let l := s.path.copies.filter (fun c => c.port = p && c.stage = .mac && c.started)
  l.foldl (fun s c => macAdd (dropCopy s c) p 67 1) s

/-- Every received hold ends and every XOFF state is cleared (R312). -/
def clearFlowControl (s : State) (p : Nat) : State :=
  let s := (List.range 9).foldl (fun s c => holdEnd s p c) s
  let s := setCtlQ (wrF s (rPortStatus p) 39 32 0) p []
  { s with path := { s.path with
    xoff := (List.range 8).foldl (fun m c => smSet (fun _ => 0) m (p * 16 + c) 0) s.path.xoff } }

/-- What port p's transmit lanes send without frames (R339, R340). [log 91 DEDUCED] -/
def setSide (s : State) (p k : Nat) : State :=
  if smGet (fun _ => 0) s.path.txSide p = k then s
  else emit { s with path := { s.path with txSide := smSet (fun _ => 0) s.path.txSide p k } } (.lanesOut p k)

/-- At link-down (R339, R340): electrical idle under ADMIN_DOWN and a lock-up, the remote fault sequence where the receive side has
lost alignment or has a local fault, else idle. Causes: R1166's list. [log 91 DEDUCED] -/
def downSide (s : State) (p cause : Nat) (hold0 : Bool) : State :=
  setSide s p (if hold0 && cause ≠ 2 || cause = 3 || !portEn s p || rdB s (rPortCfg p) 18 || lanesIdle s p then 0
    else if cause = 2 then 2 else 1)

/-- Auto-negotiation is set for port p's octet (Table 5.2). [log 91 DEDUCED] -/
def anSet (s : State) (p : Nat) : Bool := (octetImage s (p / 8)).testBit 8

/-- A port that may come up begins: with AN set, auto-negotiation and training of the configured mode and FEC, which alone it
advertises (R285). -/
def beginPort (s : State) (p : Nat) : State :=
  if ¬ portRunning s p ∨ rdB s (rPortStatus p) 0 ∨ prbsOn s p then s
  else
    let s := if smGet (fun _ => 0) s.path.txSide p = 0 then setSide s p 1 else s
    if anSet s p then
      emit { s with path := { s.path with anDone := smSet (fun _ => false) s.path.anDone p false } }
        (.advertise p (portMode s p) (bits (octetImage s (p / 8)) 7 4))
    else s

/-- The PCS after what took the link down, by R1166's list of causes: a fault names itself, ADMIN_DOWN leaves the receive
side as it is, the other causes end alignment. The settle time of R327 begins again. [log 73 DEDUCED] -/
def pcsState (s : State) (p cause : Nat) : State :=
  let s := { s with path := { s.path with settleAt := smSet (fun _ => 0) s.path.settleAt p 0 } }
  if cause = 1 then wrF s (rPortStatus p) 10 9 1
  else if cause = 2 then wrF s (rPortStatus p) 10 9 2
  else if cause = 3 then s
  else wrF s (rPortStatus p) 10 8 0

/-- Entries into a fault (Table 5.7, indices 44 and 45). -/
def faultCount (s : State) (p cause : Nat) : State :=
  if cause = 1 then macAdd s p 44 1 else if cause = 2 then macAdd s p 45 1 else s

/-- A frame cut off at link-down is a truncated frame (row 5 of Table 5.4). -/
def truncated (s : State) (p : Nat) : State :=
  (s.path.frames.filter (fun f => f.port = p && f.receiving && f.mirrorOf.isNone)).foldl (fun s f =>
    rxCount s p { octets := f.octets, fcsErr := false, codeErr := true, rxTime := f.rxTime }) s

/-- Declare link-down of port p (R328 to R331, R312, R338); `hold0` treats LINK_HOLD as 0 (R288, R290, R340), `fdb`
flushes its learned addresses whatever FDB_FLUSH_ON_DOWN holds (R288). Causes: R1166's list. -/
def linkDown (s : State) (p cause : Nat) (hold0 fdb : Bool) : State :=
  let s := wrB s (rPortStatus p) 0 false
  let s := downSide (pcsState s p cause) p cause hold0
  let s := wrF s (rPortStatus p) 19 17 0
  let s := { s with path := { s.path with mmTry := smSet (fun _ => (0, 0)) s.path.mmTry p (0, 0) } }
  let s := macAdd (wrB s (rPortEvents p) 0 true) p 46 1
  let s := faultCount s p cause
  let s := postHw s 0x4101 [(2, p), (1, cause)]
  let s := setLiveness s p false
  let s := clearFlowControl (abortTx s p) p
  let s := truncated s p
  let s := setHdrWait (cutOff s p 1) p false
  let s := { s with path := { s.path with linkDownAt := smSet (fun _ => 0) s.path.linkDownAt p s.cycle } }
  if 0 < linkHoldMs s p ∧ ¬ hold0 then
    let s := wrB s (rPortStatus p) 11 true
    { s with path := { s.path with
      linkHold := smSet (fun _ => 0) s.path.linkHold p (s.cycle + linkHoldMs s p * cyclesPerMs) } }
  else
    let s := flushPort s p 1
    if fdb ∨ rdB s (rLinkCfg p) 60 then flushFdb s p else s

/-- A hold that runs ends with a flush (R334; R340 for ADMIN_DOWN during a hold). -/
def holdExpire (s : State) (p cause : Nat) : State :=
  let s := flushPort (wrB s (rPortStatus p) 11 false) p cause
  if rdB s (rLinkCfg p) 60 then flushFdb s p else s

/-- Take a port down if its link is up; a link already down stays so (R331), but a cause that treats LINK_HOLD as 0
ends a running hold (R340), and one that flushes learned addresses does so (R288). [log 73 DEDUCED] -/
def takeDown (s : State) (p cause : Nat) (hold0 fdb : Bool) : State :=
  if rdB s (rPortStatus p) 0 then linkDown s p cause hold0 fdb
  else
    let s := downSide (pcsState s p cause) p cause hold0
    let s := if hold0 ∧ rdB s (rPortStatus p) 11 then holdExpire s p 1 else s
    if fdb then flushFdb s p else s

/-- Link-up can be declared (R327), no test pattern taking the port down (Table 5.15). -/
def linkUpOk (s : State) (p : Nat) : Bool := portRunning s p && !rdB s (rPortStatus p) 0 && !prbsOn s p

/-- LINK_UP_SETTLE has passed since the PCS became aligned with no fault (R327). -/
def linkSettled (s : State) (p : Nat) : Bool :=
  let ms := rdF s (rLinkCfg p) 23 16
  let a := smGet (fun _ => 0) s.path.settleAt p
  ms = 0 || (a ≠ 0 && decide (a - 1 + ms * cyclesPerMs ≤ s.cycle))

/-- The PCS of port p becomes aligned with no fault: the settle time begins (R327). -/
def settleBegin (s : State) (p : Nat) : State :=
  if smGet (fun _ => 0) s.path.settleAt p ≠ 0 then s
  else { wrF s (rPortStatus p) 10 8 1 with path := { s.path with
    settleAt := smSet (fun _ => 0) s.path.settleAt p (s.cycle + 1) } }

/-- LINK_DOWN (R326, R328 to R331): causes 0 to 2 are the link's own. On a link that is down already the fault shows in
PORT_STATUS and the settle time begins again (R327, R331). -/
def execLinkDown (port : Fin 256) (cause : Fin 3) (s : State) : Host.Outcome State Fault Refusal :=
  let p := port.val
  nextOf s <|
    if rdB s (rPortStatus p) 0 then beginPort (linkDown s p cause.val false false) p
    else onlyIf (portRunning s p) s (beginPort (faultCount (downSide (pcsState s p cause.val) p cause.val false) p cause.val) p)

/-- A verify mPacket goes out, the `k`th of its verification (R315). -/
def verifySend (s : State) (p k : Nat) : State :=
  if lanesIdle s p then s else
  emit { s with path := { s.path with mmTry := smSet (fun _ => (0, 0)) s.path.mmTry p (k, s.cycle) } } (.verifyOut p)

/-- Verification of port p begins, or preemption is active at once with VERIFY_DIS (R314, R315). -/
def mmStart (s : State) (p : Nat) : State :=
  if ¬ mmEn s p then s
  else if rdB s (rMmCfg p) 0 then wrF s (rPortStatus p) 19 17 1
  else verifySend (wrF s (rPortStatus p) 19 17 2) p 1

/-- VERIFY_TIME has passed since the last attempt (R315, Table 5.13). -/
def verifyWaited (s : State) (p : Nat) : Bool :=
  decide ((smGet (fun _ => (0, 0)) s.path.mmTry p).2 + min (max (rdF s (rMmCfg p) 15 8) 1) 128 * cyclesPerMs ≤ s.cycle)

/-- Ports whose verification has waited in vain try again, three times in all (R315). -/
def verifyTick (s : State) : State :=
  s.path.mmTry.foldl (fun s x =>
    if rdF s (rPortStatus x.1) 19 18 = 1 ∧ x.2.1 < 3 ∧ verifyWaited s x.1 then verifySend s x.1 (x.2.1 + 1) else s) s

/-- With AN set, the PCS aligns only once auto-negotiation and training have completed (R285, R327). [log 91 DEDUCED] -/
def anComplete (s : State) (p : Nat) : State :=
  if anSet s p then
    wrB { s with path := { s.path with anDone := smSet (fun _ => false) s.path.anDone p true } } (rPortStatus p) 16 false
  else s

/-- LINK_UP (R327, R332, R314, R312): the PCS is aligned with no fault, and where AN is set auto-negotiation has completed. When
this has held for LINK_UP_SETTLE the link is up; until then the settle time runs. [log 73 DEDUCED] -/
def execLinkUp (port : Fin 256) (s : State) : Host.Outcome State Fault Refusal :=
  let p := port.val
  nextOf s <| onlyIf (linkUpOk s p) s <| let s := setSide (anComplete s p) p 2
    if ¬ linkSettled s p then settleBegin s p else
    let down := s.cycle - smGet (fun _ => 0) s.path.linkDownAt p
    let s := { s with path := { s.path with settleAt := smSet (fun _ => 0) s.path.settleAt p 0 } }
    let s := wrF (wrB s (rPortStatus p) 0 true) (rPortStatus p) 10 8 1
    let s := wrB s (rPortStatus p) 16 false
    let s := wrB s (rPortEvents p) 1 true
    let s := postHw s 0x0102 [(2, p), (8, down / cyclesPerUs)]
    let s := setLiveness s p true
    let s := if rdB s (rPortStatus p) 11 then
        { wrB s (rPortStatus p) 11 false with path := { s.path with
          linkUpAt := smSet (fun _ => []) s.path.linkUpAt p (smGet (fun _ => []) s.path.linkUpAt p ++ [(s.cycle + 1, 0)]) } }
      else s
    let s := mmStart s p
    macNext ((List.range 8).foldl (fun s c =>
      if fcGenerates s p c ∧ xoffThr (admRow s p (ingressClass s p c)) < accU s p c then xoffSend s p c else s) s) p

/-- LINK_HOLD_EXPIRE (R334): the hold runs out with the link down. -/
def execLinkHoldExpire (port : Fin 256) (s : State) : Host.Outcome State Fault Refusal :=
  let p := port.val
  nextOf s <| onlyIf (rdB s (rPortStatus p) 11 && !rdB s (rPortStatus p) 0
      && smGet (fun _ => 0) s.path.linkHold p ≤ s.cycle) s (holdExpire s p 0)

/-- AN_FAIL (R286): the link stays down, and negotiation begins again. -/
def execAnFail (port : Fin 256) (abilities : Nat) (s : State) : Host.Outcome State Fault Refusal :=
  let p := port.val
  nextOf s <| onlyIf (devState s = stRun && portActive s p && portEn s p && anSet s p
      && !rdB s (rPortStatus p) 0 && !smGet (fun _ => false) s.path.anDone p) s <|
    beginPort (postHw (wrB (wrB s (rPortStatus p) 16 true) (rPortEvents p) 6 true) 0x4106 [(2, p), (8, abilities)]) p

/-- MM_VERIFY_FAIL (R315): three attempts have brought no response. -/
def execMmVerifyFail (port : Fin 256) (s : State) : Host.Outcome State Fault Refusal :=
  let p := port.val
  nextOf s <| onlyIf (rdB s (rPortStatus p) 0 && mmEn s p && rdF s (rPortStatus p) 19 18 = 1
      && decide (3 ≤ (smGet (fun _ => (0, 0)) s.path.mmTry p).1) && verifyWaited s p) s <|
    postHw (wrB (wrF s (rPortStatus p) 19 17 6) (rPortEvents p) 5 true) 0x4105 [(2, p)]

/-- MM_VERIFY_RESPONSE (R314): verification succeeds and preemption becomes active. -/
def execMmVerifyResponse (port : Fin 256) (s : State) : Host.Outcome State Fault Refusal :=
  let p := port.val
  nextOf s <| onlyIf (rdB s (rPortStatus p) 0 && mmEn s p && rdF s (rPortStatus p) 19 18 = 1) s
    (wrF s (rPortStatus p) 19 17 5)

/-- A write of PORT_CFG (Table 5.9): MAX_LEN, ADMIN_DOWN (R340) and RESET (R326). -/
def portCfgWrite (s : State) (p : Nat) (mask value : Word) : State :=
  let m := mask &&& (fieldMask 18 18 ||| fieldMask 13 0)
  let was := rdB s (rPortCfg p) 18
  let s := wr s (rPortCfg p) ((rd s (rPortCfg p) &&& ~~~ m) ||| (value &&& m))
  let s := if rdB s (rPortCfg p) 18 ∧ ¬ was then takeDown s p 3 true false else s
  let s := if was ∧ ¬ rdB s (rPortCfg p) 18 then beginPort s p else s
  if (value &&& mask).getLsbD 19 then beginPort (takeDown s p 4 false false) p else s

end Sys2Proof.Machine
end

