-- ==== Sys2Proof/Machine/Claves.lean ====
section
/-! DEFINITION. The Claves: faults, handover, disagreement, return to service (chapter Claves, the Management Processor
and Maintenance). The comparator and the duplicate filter leave one copy of every effect (R898, R908). -/

namespace Sys2Proof.Machine

/-- CLAVE_STATUS.MODE values (Table 14.4). -/
def cmPairedA : Nat := 0
def cmPairedB : Nat := 1
def cmSingleA : Nat := 2
def cmSingleB : Nat := 3
def cmDiagnosing : Nat := 4
def cmUndecided : Nat := 5
def cmHalted : Nat := 6
def cmResetting : Nat := 7

def claveMode (s : State) : Nat := rdF s rClaveStatus 10 8
def setClaveMode (s : State) (m : Nat) : State := wrF s rClaveStatus 10 8 m

/-- A_STATE or B_STATE: 0 OK, 1 SELFTEST, 2 SHADOW, 3 FAILED. -/
def claveState (s : State) (c : Bool) : Nat := if c then rdF s rClaveStatus 3 2 else rdF s rClaveStatus 1 0
def setClaveState (s : State) (c : Bool) (v : Nat) : State :=
  if c then wrF s rClaveStatus 3 2 v else wrF s rClaveStatus 1 0 v

/-- MODE naming the one Clave that runs. -/
def cmSingle (c : Bool) : Nat := if c then cmSingleB else cmSingleA

/-- The last running Clave yields (R905). -/
def claveHalt (s : State) (cause : Nat) : State :=
  postHw (setClaveMode s cmHalted) 0xC934 [(1, cause)]

/-- A revert failure (R924, R925): `shadow` tells a mismatch in the shadow period from a failed self-test. -/
def revertFail (s : State) (c : Bool) (shadow : Bool) : State :=
  let s := wrF s rClaveStatus 47 40 (min (rdF s rClaveStatus 47 40 + 1) 255)
  let n := (if c then s.ctl.revertFailsB else s.ctl.revertFailsA) + 1
  let s := if c then { s with ctl := { s.ctl with revertFailsB := n } } else { s with ctl := { s.ctl with revertFailsA := n } }
  let s := setClaveState s c (if 3 ≤ n then 3 else 1)
  let s := setClaveMode s (cmSingle (!c))
  let s := wr s rClaveLastCause (BitVec.ofNat 64 (b2n c <<< 8 + 6))
  postHw s 0x4937 [(1, b2n c), (1, b2n shadow)]

/-- Clave c yields (R901 to R905): a handover when it was active and the other's state is OK, the other alone when it was
standby, HALTED when it was the only one. `reexec` instructions are executed again, at most 8 (R903).
[log 60 DEDUCED, 92 DEDUCED] -/
def claveYield (s : State) (c : Bool) (cause reexec : Nat) : State :=
  let m := claveMode s
  let paired := m = cmPairedA ∨ m = cmPairedB ∨ m = cmDiagnosing
  if claveState s c = 2 then revertFail s c true
  else
    let s := wr s rClaveLastCause (BitVec.ofNat 64 (b2n c <<< 8 + cause))
    if paired ∧ s.ctl.active = c ∧ claveState s (!c) = 0 then
      let isn := s.ctl.isn - min reexec 8
      let s := setClaveState (setClaveMode s (cmSingle (!c))) c 1
      let s := wr s rClaveLastIsn (BitVec.ofNat 64 isn)
      handDuplicates { s with ctl := { s.ctl with active := !c, claveWindow := some (b2n c, cause, isn), windowAt := s.cycle } } isn
    else if paired ∧ s.ctl.active ≠ c then
      setClaveState (setClaveMode s (cmSingle (!c))) c 1
    else if m = cmSingle c ∨ (paired ∧ s.ctl.active = c) then claveHalt (setClaveState s c 1) cause
    else s

/-- Clave c runs and can detect a fault in itself. -/
def claveRuns (s : State) (c : Bool) : Bool :=
  let m := claveMode s
  m = cmPairedA || m = cmPairedB || m = cmSingle c

/-- CLAVE_FAULT (R899, R901 to R905): cause 0 an uncorrectable state error, 1 a control-flow signature. -/
def execClaveFault (clave : Bool) (cause : Fin 2) (reexec : Fin 9) (s : State) : Host.Outcome State Fault Refusal :=
  nextOf s <| onlyIf (claveRuns s clave) s (claveYield s clave (cause.val + 1) reexec.val)

/-- A ring is in RUN and not waiting. -/
def ringsRun (s : State) : Bool := (List.range 64).any (fun n => ringState s n = rsRun)

/-- What changes whenever an instruction retires: the next ISN and the rings that wait. -/
def progress (s : State) : Nat :=
  s.ctl.isn * 2 ^ 64 + (List.range 64).foldl (fun a n => a * 2 + b2n (rt s n).waiting.isSome) 0

/-- One core cycle of the Claves' watchdog (R899): it starts again when an instruction retires, or no ring runs. -/
def wdogTick (s : State) : State :=
  if ringsRun s ∧ progress s = s.ctl.wdogKey then s else { s with ctl := { s.ctl with wdogKey := progress s, wdogAt := s.cycle } }

/-- CLAVE_WATCHDOG (R899): no instruction has retired for 4,096 core cycles while at least one ring was in RUN and not waiting. -/
def execClaveWatchdog (clave : Bool) (s : State) : Host.Outcome State Fault Refusal :=
  nextOf s <| onlyIf (claveRuns s clave && ringsRun s && progress s = s.ctl.wdogKey && decide (s.ctl.wdogAt + 4096 ≤ s.cycle)) s
    (claveYield s clave 3 0)

/-- CLAVE_CORR (R900): counted and reported; 16 within 1 s are a fault. -/
def execClaveCorr (clave : Bool) (s : State) : Host.Outcome State Fault Refusal :=
  nextOf s <| onlyIf (claveRuns s clave) s <|
    let k := b2n clave
    let (hi, lo) := if clave then (63, 32) else (31, 0)
    let n := min (rdF s rClaveCorr hi lo + 1) (2 ^ 32 - 1)
    let s := wrF s rClaveCorr hi lo n
    let times := (s.cycle :: smGet (fun _ => []) s.ctl.claveCorr k).take 16
    let s := { s with ctl := { s.ctl with claveCorr := smSet (fun _ => []) s.ctl.claveCorr k times } }
    let s := postRate s cyclesPerSec k 0x0936 [(1, k), (4, n)]
    match times[15]? with
    | some t => if s.cycle ≤ t + cyclesPerSec then
        claveYield { s with ctl := { s.ctl with claveCorr := smSet (fun _ => []) s.ctl.claveCorr k [] } } clave 4 0 else s
    | none => s

/-- The window of a handover closes (R906): the journal record, EV_CLAVE_YIELD and HANDOVERS. -/
def windowClose (s : State) : State :=
    match s.ctl.claveWindow with
    | none => s
    | some (c, cause, isn) =>
      let s := { s with ctl := { s.ctl with claveWindow := none } }
      let s := wrF s rClaveStatus 63 48 (min (rdF s rClaveStatus 63 48 + 1) 0xFFFF)
      let s := journal s 0x0050 hwOrigin [(1, c), (1, cause), (8, isn)]
      postHw s 0x8930 [(1, c), (1, cause), (8, isn)]

/-- HANDOVER_WINDOW_CLOSE (R906). -/
def execHandoverWindowClose (s : State) : Host.Outcome State Fault Refusal := nextOf s (windowClose s)

/-- A window closes 32 core cycles from the detection at the latest (R907). -/
def windowTick (s : State) : State :=
  if s.ctl.claveWindow.isSome ∧ s.ctl.windowAt + 32 ≤ s.cycle then windowClose s else s

/-- CLAVE_MISMATCH (R912, R920, R924). -/
def execClaveMismatch (isn : Nat) (output : Nat) (s : State) : Host.Outcome State Fault Refusal :=
  nextOf s <| onlyIf (claveMode s = cmPairedA || claveMode s = cmPairedB) s <|
    if claveState s false = 2 then revertFail s false true
    else if claveState s true = 2 then revertFail s true true
    else postHw (setClaveMode { s with ctl := { s.ctl with diagIsn := isn } } cmDiagnosing) 0x4931 [(8, isn), (4, output)]

/-- CLAVE_DIAG_END (R913 to R916): the instruction whose output was withheld is executed again. -/
def execClaveDiagEnd (failA failB : Bool) (s : State) : Host.Outcome State Fault Refusal :=
  nextOf s <| onlyIf (claveMode s = cmDiagnosing) s <|
    if failA && failB then claveHalt (wr s rClaveLastCause (BitVec.ofNat 64 5)) 5
    else if failA then claveYield s false 5 (s.ctl.isn - s.ctl.diagIsn)
    else if failB then claveYield s true 5 (s.ctl.isn - s.ctl.diagIsn)
    else postHw (setClaveMode s cmUndecided) 0xC932 [(8, s.ctl.diagIsn)]

/-- A returning Clave's self-test ends (R919, R920, R924). [log 60 DEDUCED] -/
def claveReturn (s : State) (c : Bool) (pass : Bool) : State :=
  if claveState s c ≠ 1 ∨ claveMode s ≠ cmSingle (!c) ∨ ¬ rdB s rClaveCtrl 1 then s
  else if pass then
    let s := setClaveMode (setClaveState s c 2) (if c then cmPairedA else cmPairedB)
    { s with ctl := { s.ctl with shadowSince := s.cycle, shadowCount := s.ctl.isn } }
  else revertFail s c false

/-- The control reset's self-tests end (R918 step 4, R925). [log 60 DEDUCED] -/
def ctrlResetEnd (s : State) (passA passB : Bool) : State :=
  let m := if passA && passB then cmPairedA else if passA then cmSingleA else if passB then cmSingleB else cmHalted
  let s := setClaveState (setClaveState (setClaveMode s m) false (if passA then 0 else 3)) true (if passB then 0 else 3)
  let s := { s with ctl := { s.ctl with revertFailsA := 0, revertFailsB := 0, active := !passA && passB } }
  postHw (journal s 0x0052 hwOrigin [(1, m)]) 0x4935 [(1, m)]

/-- CLAVE_SELFTEST_END (R918, R920). -/
def execClaveSelftestEnd (passA passB : Bool) (s : State) : Host.Outcome State Fault Refusal :=
  nextOf s <|
    if claveMode s = cmResetting then ctrlResetEnd s passA passB
    else claveReturn (claveReturn s false passA) true passB

/-- SHADOW_PERIOD_END (R921 to R923). -/
def execShadowPeriodEnd (clave : Bool) (s : State) : Host.Outcome State Fault Refusal :=
  nextOf s <| onlyIf (claveState s clave = 2 &&
      (s.ctl.shadowCount + 1024 ≤ s.ctl.isn || s.ctl.shadowSince + 100 * cyclesPerMs ≤ s.cycle)) s <|
    let n := s.ctl.isn - s.ctl.shadowCount
    let s := setClaveState s clave 0
    if clave then s
    else
      let s := { setClaveMode s cmPairedA with ctl := { s.ctl with active := false } }
      postHw (journal s 0x0051 hwOrigin [(8, s.ctl.isn)]) 0x0933 [(8, n)]

end Sys2Proof.Machine
end

