-- ==== Sys2Proof/Machine/Maint.lean ====
section
/-! DEFINITION. The MP's load shedding and the maintenance arbiter (chapter Claves, the Management Processor and
Maintenance). -/

namespace Sys2Proof.Machine

/-- MP_SHED_CFG.THRESHOLD, 20 to 100 (Table 14.11). -/
def shedThreshold (s : State) : Nat := min (max (rdF s rMpShedCfg 6 0) 20) 100

def shedStep (s : State) : Nat := rdF s rMpStatus 2 1

/-- MP_SHED_STEP (R940, R942): utilisation above the threshold for 100 ms takes the next step, each 100 ms after the one before. -/
def execMpShedStep (util : Nat) (s : State) : Host.Outcome State Fault Refusal :=
  nextOf s <| onlyIf (s.mp.mpUp && decide (shedThreshold s < util) && decide (util ≤ 100) && decide (shedStep s < 3)
      && (shedStep s = 0 || decide (s.mp.shedAt + 100 * cyclesPerMs ≤ s.cycle))) s <|
    let s := { s with mp := { s.mp with shedAt := s.cycle } }
    let s := wrF s rMpStatus 63 56 util
    let s := if rdB s rMpStatus 0 then s else postHw (wrB s rMpStatus 0 true) 0x4A01 [(1, util)]
    let n := shedStep s + 1
    postHw (wrF s rMpStatus 2 1 n) 0x4A02 [(1, n), (1, 0)]

/-- MP_UNSHED_STEP (R941, R942): utilisation 10 points below the threshold for 1 s undoes the last step. -/
def execMpUnshedStep (util : Nat) (s : State) : Host.Outcome State Fault Refusal :=
  nextOf s <| onlyIf (s.mp.mpUp && decide (util + 10 < shedThreshold s) && decide (0 < shedStep s)
      && decide (s.mp.shedAt + 1000 * cyclesPerMs ≤ s.cycle)) s <|
    let s := { s with mp := { s.mp with shedAt := s.cycle } }
    let n := shedStep s
    let s := wrF (wrF s rMpStatus 63 56 util) rMpStatus 2 1 (n - 1)
    let s := if n = 1 then wrB s rMpStatus 0 false else s
    postHw s 0x4A02 [(1, n), (1, 1)]

/-- OPTICS_ALARM (Table 14.10): alarms on the optics GPIO are handled at once, whatever the shed step. -/
def execOpticsAlarm (cage : Fin 32) (s : State) : Host.Outcome State Fault Refusal :=
  nextOf s <| onlyIf s.mp.mpUp s (emit s (.opticsAlarm cage.val))

/-- Table 14.12's conflicts. -/
def maintConflict (a u b v : Nat) : Bool :=
  ((a = 1 && b = 6) || (a = 6 && b = 1) || (a = 2 && b = 4) || (a = 4 && b = 2) || (a = 5 && b = 5)) && u = v

/-- MAINT_CTRL's EN bit of an activity that has one (Table 14.14); ASA_SWEEP has its own in ASA_CTRL. -/
def maintEnabled (s : State) (a : Nat) : Bool :=
  if a = 0 ∨ a = 1 ∨ a = 3 ∨ a = 4 then rdB s rMaintCtrl a else if a = 2 then rdB s rAsaCtrl 0 else true

/-- MAINT_STATUS follows the arbiter's lists. -/
def maintStatus (s : State) : State :=
  let run := s.mp.maintRun.foldl (fun m x => m ||| 2 ^ x.act) 0
  let que := (s.mp.maintQ ++ s.mp.maintHeld).foldl (fun m x => m ||| 2 ^ x.act) 0
  let sw := b2n (rdB s rTimeStatus 2) <<< 8
  wr s rMaintStatus (BitVec.ofNat 64 (que <<< 32 + (run ||| sw)))

/-- The deep store becomes unavailable or available (R704, R953). -/
def deepDown (s : State) (cause : Nat) : State :=
  if rdB s rCoreStatus 2 then
    postHw { wrB s rCoreStatus 2 false with core := { s.core with deepDownAt := s.cycle } } 0x4605 [(1, cause)]
  else s
def deepUp (s : State) : State :=
  if rdB s rCoreStatus 2 ∨ ¬ hasDeep s ∨ rdB s rErrStatus 9 then s
  else postHw (wrB s rCoreStatus 2 true) 0x0606 [(8, (s.cycle - s.core.deepDownAt) / cyclesPerUs)]

/-- Grant an activity (R946): retraining makes the deep store unavailable (R953). -/
def maintGrant (s : State) (a u : Nat) : State :=
  let s := { s with mp := { s.mp with maintRun := s.mp.maintRun ++ [{ act := a, unit := u, since := s.cycle }] } }
  maintStatus (if a = 6 then deepDown s 0 else s)

/-- The running activity that a request conflicts with. -/
def maintBlock (s : State) (a u : Nat) : Option Maint := s.mp.maintRun.find? (fun x => maintConflict a u x.act x.unit)

/-- Count and report a deferral (R946): `by_` is the activity that deferred it, or 9 for HOLD. -/
def maintDefer (s : State) (a u by_ : Nat) : State :=
  maintStatus (postHw (stick s rMaintDefer 32 1) 0x0A10 [(1, a), (4, u), (1, by_)])

/-- A request joins the arbiter's queue. -/
def maintWait (s : State) (a u : Nat) : State :=
  maintStatus { s with mp := { s.mp with maintQ := s.mp.maintQ ++ [{ act := a, unit := u, since := s.cycle }] } }

/-- Grant a request, or queue it behind the activity it conflicts with (R946, R947); `told` of one whose deferral has been
reported, which happens once. -/
def maintAsk (s : State) (a u : Nat) (told : Bool) : State :=
  match maintBlock s a u with
  | none => maintGrant s a u
  | some x => if told then maintWait s a u else maintDefer (maintWait s a u) a u x.act

/-- A profile holds an ASA bank in a parity (Table 14.12). -/
def bankHeld (s : State) (b : Nat) : Bool :=
  (List.range 16).any (fun r => [false, true].any (fun par =>
    prValid (row s par 0x310 r) && (prBanks (row s par 0x310 r)).testBit b))

/-- An activity's unit exists on this variant (R3, R8): an octet, a stack, the key store, domain B; a bank under test is one that
no profile holds in either parity (Table 14.12). -/
def maintPresent (s : State) (a u : Nat) : Bool :=
  if a = 4 then decide (u < 32) && !bankHeld s u
  else if a = 5 then tilePresent s (u / 4) else if a = 1 ∨ a = 6 then hasDeep s && decide (u < 2)
  else if a = 7 then hasCipher s else if a = 8 then hasDomB s else true

/-- A request of an activity for a unit (R945, R946, R949). -/
def maintRequest (s : State) (a unit : Nat) : State :=
  onlyIf (maintEnabled s a && maintPresent s a unit) s <|
    if (a = 5 ∨ a = 6) ∧ rdB s rMaintCtrl (32 + a) then
      maintDefer { s with mp := { s.mp with maintHeld := s.mp.maintHeld ++ [{ act := a, unit := unit, since := s.cycle }] } }
        a unit 9
    else maintAsk s a unit false

/-- MAINT_REQUEST (R945, R946, R949). -/
def execMaintRequest (act : Fin 9) (unit : Nat) (s : State) : Host.Outcome State Fault Refusal :=
  nextOf s (maintRequest s act.val unit)

/-- Retraining of stack k is requested, unless it is under way or asked for (R953). [log 94 DEDUCED] -/
def retrain (s : State) (k : Nat) : State :=
  if (s.mp.maintRun ++ s.mp.maintQ ++ s.mp.maintHeld).any (fun x => x.act = 6 && x.unit = k) then s else maintRequest s 6 k

/-- A sample of stack k's temperature asks for retraining once it is 10 °C from that of the last training (R953).
[log 94 DEDUCED] -/
def hbmSample (s : State) (k temp : Nat) : State :=
  match smGet (fun _ => none) s.mp.hbmTemp k with
  | none => { s with mp := { s.mp with hbmTemp := smSet (fun _ => none) s.mp.hbmTemp k (some temp) } }
  | some t => if 160 ≤ (signedOf 16 temp - signedOf 16 t).natAbs then retrain s k else s

/-- Grant queued requests that conflict with nothing running, in order of arrival (R946). -/
def maintDrain (s : State) : State :=
  s.mp.maintQ.foldl
    (fun s x => match if maintEnabled s x.act && maintPresent s x.act x.unit then maintBlock s x.act x.unit else some x with
      | none => maintGrant { s with mp := { s.mp with maintQ := s.mp.maintQ.erase x } } x.act x.unit
      | some _ => s) s

/-- An activity ends with a result: 0 done, 1 cancelled (R950, Table 14.15). [log 94 DEDUCED] -/
def maintEnd (s : State) (a u result : Nat) : State :=
  let s := { s with mp := { s.mp with maintRun := s.mp.maintRun.filter (fun x => !(x.act = a && x.unit = u)) } }
  let s := if 3 ≤ a ∧ a ≠ 8 then postHw s 0x0A11 [(1, a), (4, u), (1, result)] else s
  let s := if a = 6 ∧ (s.mp.maintRun.all (fun x => x.act ≠ 6)) then deepUp s else s
  let stopped := decide (a < 3) && s.mp.maintQ.any (fun x => maintConflict x.act x.unit a u)
  let s := if a = 6 then { s with mp := { s.mp with hbmTemp := smSet (fun _ => none) s.mp.hbmTemp u (some (rdF s (rTemp (18 + u)) 15 0)) } }
    else s
  let s := maintDrain s
  maintStatus (if stopped then maintWait s a u else s)

/-- MAINT_ACTIVITY_END (R947, R953, R954): a continuous activity that stops for a request takes its turn behind it; a failure
posts EV_MAINT_FAIL, and a stack that fails retraining keeps the deep store unavailable (R1093). -/
def execMaintActivityEnd (act : Fin 9) (unit : Nat) (failed : Bool) (reason : Nat) (s : State) :
    Host.Outcome State Fault Refusal :=
  let a := act.val
  nextOf s <| onlyIf (s.mp.maintRun.any (fun x => x.act = a && x.unit = unit)) s <|
    if failed then
      let s := if a = 6 then postHw (wrB s rErrStatus 9 true) 0x8D06 [(1, unit), (1, 0)] else s
      let s := { s with mp := { s.mp with maintRun := s.mp.maintRun.filter (fun x => !(x.act = a && x.unit = unit)) } }
      maintStatus (maintDrain (postHw s 0x8A12 [(1, a), (4, unit), (4, reason)]))
    else maintEnd s a unit 0

/-- HOLD_MAX in milliseconds (Table 14.14). -/
def holdMax (s : State) : Nat := min (rdF s rMaintCfg 15 0) 10000

/-- HOLD_MAX_EXPIRE (R949). -/
def execHoldMaxExpire (act : Fin 9) (unit : Nat) (s : State) : Host.Outcome State Fault Refusal :=
  let a := act.val
  nextOf s <|
    match s.mp.maintHeld.find? (fun x => x.act = a && x.unit = unit) with
    | none => s
    | some x =>
      onlyIf (x.since + holdMax s * cyclesPerMs ≤ s.cycle) s <|
        maintAsk { s with mp := { s.mp with maintHeld := s.mp.maintHeld.erase x } } a unit true

end Sys2Proof.Machine
end

