-- ==== Sys2Proof/Machine/PoolOps.lean ====
section
/-! DEFINITION. The pool manager's shared operations: the ledger, the wait FIFOs, grants, frees and the host receive path
(chapter The Pool Manager and Frame Transfer to the Host). -/

namespace Sys2Proof.Machine

/-- Pool k grants buffers: enabled, initialised, not faulted (R1032, R1036). -/
def poolGrants (s : State) (k : Nat) : Bool := poolEnabled s k && !poolBusy s k && !poolFaulted s k

/-- The address of the buffer with ledger entry e of pool k (R1029). -/
def bufAddr (s : State) (k e : Nat) : Nat := poolBase s k + (e - poolLedger s k) * poolSize s k

/-- The nth ledger entry of pool k that is FREE. -/
def nthFree (s : State) (k n : Nat) : Nat := (poolTaken s k).foldl (fun e t => if t ≤ e then e + 1 else e) (poolLedger s k + n)

/-- Addresses in the on-die cache of pool k. -/
def cachedIn (s : State) (k : Nat) : Nat := smGet (fun _ => 0) s.pool.cached k
def setCached (s : State) (k v : Nat) : State := { s with pool := { s.pool with cached := smSet (fun _ => 0) s.pool.cached k v } }

/-- A cache of n addresses out of f free ones after its refill or its spill (R1035). -/
def cacheLevel (n f : Nat) : Nat := if n < 16 then n + min 32 (f - n) else if 48 < n then n - 32 else n

/-- The cache of pool k, which holds n addresses, refills and spills, unless its free store fails (R1035, R1036). -/
def cacheSettle (s : State) (k n : Nat) : State := setCached s k (if poolFaulted s k then n else cacheLevel n (poolFree s k))

/-- Ledger entry e of pool k becomes FREE, and its address goes to the cache; in a faulted pool whose cache is full its free
store may not take the address, and the buffer is LOST (R1036). -/
def putBack (s : State) (k e : Nat) : State :=
  if poolFaulted s k ∧ 64 ≤ cachedIn s k then
    let d := draw s
    setLedger d.1 e (if d.2.getLsbD 0 then leMake 0 0 lsLost else 0)
  else cacheSettle (setLedger s e 0) k (cachedIn s k + 1)

/-- Take one FREE buffer out of pool k, in an order the spec leaves open (R1035), and give it a ledger value.
[log 6 DESIGN CHOICE] -/
def takeBuf (s : State) (k v : Nat) : State × Nat :=
  let d := draw s
  let e := nthFree s k (d.2.toNat % max (poolFree s k) 1)
  (cacheSettle (perf (setLedger d.1 e v) 41 0x0401 1) k (cachedIn s k - 1), e)

/-- The link a PF1 ring belongs to (R1003). -/
def frameLink (s : State) (r : Nat) : Bool := s.host.bifNow && decide (min s.host.frameSplitNow 1024 ≤ r)

/-- A command ring's memory holds a REGION (R1044). -/
def ringMemory (s : State) (n region : Nat) : Bool :=
  match ringOwner s n with
  | .mp => region = 2 || region = 3
  | .host l => region = b2n l

-- Waiting and grants (R1048 to R1052)

/-- The head entry has all it needs (R1051): the PALLOC completes, or the receive chain holds its buffers (R1058).
[log 67 DEDUCED] -/
def poolGrant (s : State) (k : Nat) (w : PoolWait) : State :=
  match w.ring with
  | none => { s with
      pool := { s.pool with
      rx := s.pool.rx.map (fun x => if x.copy = w.copy then { x with bufs := some w.got } else x) } }
  | some n =>
    match (rt s n).waiting, w.got with
    | some x, e :: _ =>
      match x.kind with
      | .palloc _ _ dest =>
        let a := bufAddr s k e
        if dest ≠ 0 ∧ ¬ w.destOk then
          let o := operandFault (putBack s k e) n x.isn dest
          completeIns o.1 n x.isn x.opcode x.flags .eOperand 0 false
        else
          let s := setLedger s e (leMake n 1 lsInUse)
          let s := if dest ≠ 0 then valueWrite s n x.isn dest (leBytes 8 a) else s
          completeIns s n x.isn x.opcode x.flags .ok a false
      | _ => s
    | _, _ => s

/-- Set free buffers aside for the head entry (R1049). -/
def poolFill (s : State) (k : Nat) (w : PoolWait) : State × PoolWait :=
  (List.range (min (w.need - w.got.length) (poolFree s k))).foldl (fun a _ =>
    let t := takeBuf a.1 k (leMake 0 0 lsReserved)
    (t.1, { a.2 with got := a.2.got ++ [t.2] })) (s, w)

/-- Serve the wait FIFO of pool k from its head, at most `fuel` grants (R1049, R1051). [log 67 DEDUCED] -/
def poolServe : Nat → State → Nat → State
  | 0, s, _ => s
  | fuel + 1, s, k =>
    match poolFifo s k with
    | [] => s
    | w :: t =>
      if poolGrants s k then
        let r := poolFill s k w
        if w.need ≤ r.2.got.length then poolServe fuel (poolGrant (setFifo r.1 k t) k r.2) k
        else setFifo r.1 k (r.2 :: t)
      else s

/-- Serve a pool until its head entry has to wait; the FIFO holds at most 128 entries (R1048). -/
def poolRun (s : State) (k : Nat) : State := poolServe 130 s k

/-- Buffers set aside for an entry that leaves: they pass to the next entry, and what it does not need is FREE (R1052). -/
def poolPass (s : State) (k : Nat) (got : List Nat) : State :=
  match poolFifo s k with
  | [] => got.foldl (fun s e => putBack s k e) s
  | w :: t =>
    let n := w.need - w.got.length
    let s := setFifo s k ({ w with got := w.got ++ got.take n } :: t)
    poolRun ((got.drop n).foldl (fun s e => putBack s k e) s) k

/-- The entry that satisfies `p` leaves the FIFO of pool k (R1052). -/
def poolLeave (s : State) (k : Nat) (p : PoolWait → Bool) : State :=
  match (poolFifo s k).find? p with
  | none => s
  | some w => poolPass (setFifo s k ((poolFifo s k).filter (fun x => !p x))) k w.got

/-- The waiting PALLOC of ring n leaves its wait FIFO (R1052). -/
def pallocLeave (s : State) (n : Nat) : State :=
  (List.range 16).foldl (fun s k => poolLeave s k (fun w => w.ring == some n)) s

/-- A buffer comes back to pool k (R1041, R1049). [log 6 DESIGN CHOICE] -/
def returnBuf (s : State) (k e : Nat) : State := poolRun (putBack s k e) k

-- Frees and references (R1038 to R1042)

/-- The pool in whose address range an address lies, among the enabled pools of a memory. -/
def poolAt (s : State) (mem : Nat → Bool) (addr : Nat) : Option Nat :=
  findBelow 16 (fun k => poolEnabled s k && mem (poolRegion s k) && decide (poolBase s k ≤ addr)
    && decide (addr < poolBase s k + poolCount s k * poolSize s k))

/-- The checks of R1039: the pool and ledger entry, or the status of the first that fails. -/
def bufCheck (s : State) (mem rights : Nat → Bool) (addr : Nat) : Status × Nat × Nat :=
  match poolAt s mem addr with
  | none => (.ePoolAddr, 0, 0)
  | some k =>
    let off := addr - poolBase s k
    let e := poolLedger s k + off / max (poolSize s k) 1
    if off % max (poolSize s k) 1 ≠ 0 then (.ePoolAddr, 0, 0)
    else if leState (ledger s e) ≠ lsInUse then (.ePoolState, k, e)
    else if ¬ rights (leOwner (ledger s e)) then (.ePoolOwner, k, e)
    else (.ok, k, e)

/-- The event of a failed free (R1040). -/
def freeEvent (s : State) (st : Status) (origin addr e : Nat) : State :=
  if st = .ePoolState then post s 0x8C20 origin [(2, origin), (8, addr)]
  else if st = .ePoolOwner then post s 0x8C21 origin [(2, origin), (8, addr), (1, leOwner (ledger s e))]
  else post s 0x8C22 origin [(2, origin), (8, addr)]

/-- Free a buffer (R1039 to R1041): the state, the status and the reference count after it. -/
def freeBuf (s : State) (mem rights : Nat → Bool) (origin addr : Nat) : State × Status × Nat :=
  let c := bufCheck s mem rights addr
  if c.1 ≠ .ok then (freeEvent s c.1 origin addr c.2.2, c.1, 0)
  else
    let v := ledger s c.2.2
    if leRefs v ≤ 1 then (returnBuf (perf s 41 0x0402 1) c.2.1 c.2.2, .ok, 0)
    else (setLedger s c.2.2 (leMake (leOwner v) (leRefs v - 1) lsInUse), .ok, leRefs v - 1)

/-- Owners whose buffers a command ring may free or reference (R1038, Table 17.2). -/
def ringRights (s : State) (n owner : Nat) : Bool :=
  owner = n ||
    (match ringOwner s n with
     | .mp => (0x3C ≤ owner && owner ≤ 0x3F) || owner = 0x42
     | .host l => owner = 0x40 + b2n l)

-- PF1 rings (R1072 to R1078)

def frDisabled : Nat := 0
def frRun : Nat := 1
def frStopped : Nat := 2

def frState (s : State) (tx : Bool) (r : Nat) : Nat := rdF s (rFr tx r 0x20) 1 0
def setFrState (s : State) (tx : Bool) (r v : Nat) : State := wrF s (rFr tx r 0x20) 1 0 v
def frSize (s : State) (tx : Bool) (r : Nat) : Nat := 2 ^ (rdF s (rFr tx r 8) 27 24 + 8)
def frHead (s : State) (tx : Bool) (r : Nat) : Nat := rdF s (rFr tx r 0x10) 16 0
def frTail (s : State) (tx : Bool) (r : Nat) : Nat := rdF s (rFr tx r 0x18) 16 0
def frDist (s : State) (tx : Bool) (r a b : Nat) : Nat := (b + 2 * frSize s tx r - a % (2 * frSize s tx r)) % (2 * frSize s tx r)

/-- Raise a frame ring's vector, once until its doorbell is written (R1075). -/
def frRaise (s : State) (tx : Bool) (r : Nat) : State :=
  let armed := smGet (fun _ => true) (if tx then s.pool.txIrqArmed else s.pool.rxIrqArmed) r
  if rdB s (rFr tx r 8) 36 ∧ armed then
    let s := raise s (frameLink s r) (rdF s (rFr tx r 8) 47 37)
    if tx then { s with pool := { s.pool with txIrqArmed := smSet (fun _ => true) s.pool.txIrqArmed r false } }
    else { s with pool := { s.pool with rxIrqArmed := smSet (fun _ => true) s.pool.rxIrqArmed r false } }
  else s

/-- A frame ring's doorbell rearms its vector (R1075). -/
def frArm (s : State) (tx : Bool) (r : Nat) : State :=
  if tx then { s with pool := { s.pool with txIrqArmed := smSet (fun _ => true) s.pool.txIrqArmed r true } }
  else { s with pool := { s.pool with rxIrqArmed := smSet (fun _ => true) s.pool.rxIrqArmed r true } }

-- The receive paths (R1053 to R1064)

/-- Receive rings from 1,024 on are the MP's, one for each queue of P265 (R1064). [log 50 DESIGN CHOICE] -/
def mpRing (r : Nat) : Bool := decide (1024 ≤ r)

/-- The origin of a PF1 ring's events: of a receive ring, of the MP's receive path, of a transmit ring (the text under Table 17.10).
[log 55 DEDUCED] -/
def frOrigin (tx : Bool) (r : Nat) : Nat := if tx then 0x4800 + r else if mpRing r then 0x4C00 else 0x4400 + r

/-- A receive ring takes frames: it is in RUN; MP firmware keeps its own running. -/
def rxUp (s : State) (r : Nat) : Bool := mpRing r || frState s false r = frRun

/-- The place of a ring's receive path in the order of R1046: the links', then the MP's. -/
def rxPath (s : State) (r : Nat) : Nat := if mpRing r then 66 else 64 + b2n (frameLink s r)

/-- Who owns a receive ring's memory (R1044), and the OWNER of the buffers delivered to it (Table 17.1). -/
def rxAgent (s : State) (r : Nat) : Agent := if mpRing r then .mp else .host (frameLink s r)
def rxOwner (s : State) (r : Nat) : Nat := if mpRing r then 0x42 else 0x40 + b2n (frameLink s r)

/-- The pool of the MP's rings: the first enabled one of REGION 2 (R1044); 16, no pool, where there is none.
[log 50 DESIGN CHOICE] -/
def mpPool (s : State) : Nat := (findBelow 16 (fun k => poolEnabled s k && poolRegion s k = 2)).getD 16

/-- A frame that a ring loses counts in its drop counter j (R1060, R1061); those of the MP's rings are not in BAR0 (R1064).
[log 50 DESIGN CHOICE] -/
def rxLost (s : State) (r j : Nat) : State :=
  if mpRing r then setCtr s (ctrKey 0xF00 r j) (min (ctr s (ctrKey 0xF00 r j) + 1) (2 ^ 32 - 1)) else bump s (rRxDrop r j)
def rxLostCount (s : State) (r j : Nat) : Nat := if mpRing r then ctr s (ctrKey 0xF00 r j) else (rd s (rRxDrop r j)).toNat

/-- The ring of a frame from Qq of P264 (R1053). -/
def rxRing (s : State) (q h : Nat) : Nat :=
  let r := rd s (rRxsel q)
  (field r 25 16 + h % 1024 % 2 ^ (min (field r 3 0) 10)) % 1024

/-- Octets a chain's copy delivers. -/
def chainLen (s : State) (x : RxChain) : Nat := (findCopy s x.copy).elim 0 (fun c => c.out.length)

/-- Buffers a chain needs (R1054). -/
def chainNeed (s : State) (x : RxChain) : Nat :=
  (chainLen s x + poolSize s x.pool - 1) / max (poolSize s x.pool) 1

/-- A chain's request stands in a wait FIFO. -/
def chainWaits (s : State) (copy : Nat) : Bool :=
  (List.range 16).any (fun k => (poolFifo s k).any (fun w => w.ring.isNone && w.copy = copy))

/-- The chain whose request receive path p makes next: none while it holds an entry (R1048). -/
def rxWants (s : State) (p : Nat) : Option RxChain :=
  if s.pool.rx.any (fun x => rxPath s x.ring = p && chainWaits s x.copy) then none
  else s.pool.rx.find? (fun x => rxPath s x.ring = p && x.bufs.isNone && poolEnabled s x.pool)

/-- Receive path p puts its next request into its pool's FIFO; it holds one entry at a time (R1048, R1055). -/
def rxAsk (s : State) (p : Nat) : State :=
    match rxWants s p with
    | none => s
    | some x =>
      let s := poolRun (setFifo s x.pool (poolFifo s x.pool ++ [{ ring := none, copy := x.copy, need := chainNeed s x }])) x.pool
      if chainWaits s x.copy then perf s 41 0x0403 1 else s

/-- A copy for P264 has been selected (R1053, R1055, R1060). -/
def rxStart (s : State) (c : Copy) (hash : Nat) : State :=
  let r := rxRing s c.queue hash
  if frState s false r ≠ frRun then dropCopy (rxLost s r 2) c
  else
    let s := putCopy s { c with stage := .hostWait, waitSince := s.cycle }
    { s with pool := { s.pool with rx := s.pool.rx ++ [{ copy := c.id, ring := r, pool := rdF s (rFr false r 8) 35 32 }] } }

/-- A copy for P265 has been selected (R943, R1064): lost while the MP restarts. [log 50 DESIGN CHOICE] -/
def mpStart (s : State) (c : Copy) : State :=
  if ¬ s.mp.mpUp then bump (dropCopy s c) (rMpDrop 1)
  else
    let s := putCopy s { c with stage := .hostWait, waitSince := s.cycle }
    { s with pool := { s.pool with rx := s.pool.rx ++ [{ copy := c.id, ring := 1024 + c.queue, pool := mpPool s }] } }

/-- Drop a waiting chain and its copy; its buffers and set-asides return (R1052, R1061). -/
def rxDrop (s : State) (x : RxChain) : State :=
  let s := { s with pool := { s.pool with rx := s.pool.rx.filter (fun y => y.copy ≠ x.copy) } }
  let s := match findCopy s x.copy with
    | some c => dropCopy s c
    | none => s
  match x.bufs with
  | some l => poolPass s x.pool l
  | none => poolLeave s x.pool (fun w => w.ring.isNone && w.copy = x.copy)

-- The transmit paths' frees and the arbitration point (R1046, R1068)

/-- A free that the transmit path of a ring makes (R1068): one that fails sets FREE_ERR. -/
def txFreeOne (s : State) (r first addr : Nat) : State :=
  let l := b2n (frameLink s r)
  let q := freeBuf s (fun g => g = l) (fun o => o = 0x40 + l) (frOrigin true r) addr
  if q.2.1 = .ok then q.1
  else { q.1 with
    pool := { q.1.pool with
    txOut := q.1.pool.txOut.map (fun x => if x.ring = r ∧ x.first = first then { x with freeErr := true } else x) } }

/-- The next free of the transmit path of link l. -/
def txWants (s : State) (l : Bool) : Option (Nat × Nat × Nat) := s.pool.txFree.find? (fun x => frameLink s x.1 == l)

/-- Path p, 64 to 68, has a request at the arbitration point (R1046). -/
def pathWants (s : State) (p : Nat) : Bool :=
  if p < 67 then (rxWants s p).isSome else (txWants s (p == 68)).isSome

/-- The request of path p is granted. -/
def pathGrant (s : State) (p : Nat) : State :=
  let s := { s with pool := { s.pool with granted := p } }
  if p < 67 then rxAsk s p
  else match txWants s (p == 68) with
    | some (r, first, addr) => txFreeOne { s with pool := { s.pool with txFree := s.pool.txFree.erase (r, first, addr) } } r first addr
    | none => s

/-- Command ring n is granted: the paths whose turn lies between the last grant and ring n go first (R1046, R1047). -/
def ringGrant (s : State) (n : Nat) : State :=
  let before := if n ≤ s.pool.granted then (List.range 69).filter (fun p => decide (max s.pool.granted 63 < p)) else []
  let s := before.foldl (fun s p => if pathWants s p then pathGrant s p else s) s
  { s with pool := { s.pool with granted := n }, core := { s.core with now := { s.core.now with poolOp := true } } }

/-- One core cycle of the arbitration point (R1046): a path's request, where no ring's has passed. -/
def poolTick (s : State) : State :=
  if s.core.now.poolOp then s
  else match ((List.range 69).map (fun i => (s.pool.granted + 1 + i) % 69)).find? (fun p => decide (64 ≤ p) && pathWants s p) with
    | some p => pathGrant s p
    | none => s

end Sys2Proof.Machine
end

