-- ==== Sys2Proof/Machine/RecOps.lean ====
section
/-! DEFINITION. The event recorder's shared operations: record images, stores, coalescing windows, failure
(chapter The Event Recorder and the Change Journal). -/

namespace Sys2Proof.Machine

/-- RECORDER_STATE: 0 NORMAL, 1 DEGRADED, 2 LOST, 3 STARTING (Table 15.5). -/
def recState (s : State) : Nat := rdF s rRecStatus 1 0

/-- Stores: 0 event ring, 1 journal, 2 volatile ring, 3 Colophon area; records each holds (Table 15.1). -/
def storeSize (k : Nat) : Nat := if k = 2 then 4096 else if k = 3 then 128 else 262144

def storeHead (k : Nat) : Nat := if k = 0 then rEvHead else if k = 1 then rJrHead else if k = 2 then rVolHead else rColHead

/-- SEQ of the newest record and slot of the next record of a store (Table 15.4). -/
def storeSeq (s : State) (k : Nat) : Nat := rdF s (storeHead k) 63 32
def storeNext (s : State) (k : Nat) : Nat := rdF s (storeHead k) 17 0

/-- The bytes 0 to 59 of a record (Table 15.2). -/
def recordBody (p : Posting) (seq : Nat) : List Byte :=
  leBytes 4 p.hours ++ leBytes 4 p.ms ++ leBytes 4 p.pcycle ++ leBytes 4 seq ++ t128Bytes p.optime p.gen
    ++ leBytes 2 p.origin ++ leBytes 2 p.code ++ leBytes 2 p.rep
    ++ leBytes 2 (p.part * 16 + b2n p.late * 8 + b2n (p.part ≠ 0) * 2 + b2n p.close) ++ p.data

/-- The 64 octets of a record: its body and the CRC-32C of it (R959). -/
def recordBytes (p : Posting) (seq : Nat) : List Byte :=
  let b := recordBody p seq
  b ++ leBytes 4 (crc32c b)

/-- Put a record into the next slot of a store (R957, R962). -/
def putRecord (s : State) (k : Nat) (p : Posting) : State :=
  let seq := (storeSeq s k + 1) % 2 ^ 32
  let slot := storeNext s k
  let s := { s with rcd := { s.rcd with
    recs := smSet (fun _ => 0) s.rcd.recs (k * 2 ^ 20 + slot) (leNat (recordBytes p seq))
    recBadSlots := s.rcd.recBadSlots.filter (fun x => x ≠ k * 2 ^ 20 + slot) } }
  wr s (storeHead k) (BitVec.ofNat 64 (seq <<< 32 + (slot + 1) % storeSize k))

/-- R991: NEW and the vector, for an event record of an enabled severity. -/
def recNotify (s : State) (code : Nat) : State :=
  if (rdF s rRecCtrl 35 32).testBit (code / 2 ^ 14 % 4) then
    let was := rdB s rRecStatus 4
    let s := wrB s rRecStatus 4 true
    if was then s else raiseReg s (globalLink s) rRecCtrl
  else s

/-- The recorder degrades (R985): EV_RECORDER_FAILED into the Colophon area, DEGRADED, the vector whatever SEV_MASK
holds, ALERT_N. `colOk` tells whether the Colophon write verified; when not, R987: LOST and FAULT_N. -/
def recDegrade (s : State) (store slot : Nat) (colOk : Bool) : State :=
  let s := if colOk then recNotify (putRecord s 3 (mkPosting s 0xCB01 hwOrigin [(1, store), (4, slot)])) 0xCB01 else s
  let s := wrB (wrF s rRecStatus 1 0 (if colOk then 1 else 2)) rRecStatus 3 true
  let s := raiseReg s (globalLink s) rRecCtrl
  let s := { s with rcd := { s.rcd with recFailed := store } }
  if colOk then s else assertFault s 6

/-- A record while the recorder is not NORMAL (R986, R987): the volatile ring, and the Colophon area for an event of fault
severity, whose write verifies or not. -/
def writeDegraded (s : State) (k : Nat) (p : Posting) (ok : Bool) : State :=
  let s := putRecord s 2 p
  if recState s = 1 ∧ k = 0 ∧ p.code / 2 ^ 14 = 3 then
    if ok then putRecord s 3 p else assertFault (wrF s rRecStatus 1 0 2) 6
  else s

/-- Write a record of store `k` where RECORDER_STATE sends it (R969, R985 to R987): `ok1` and `ok2` are the two
read-backs, `col` whether the Colophon area's verifies when these fail. [log 74 DEDUCED] -/
def writeTo (s : State) (k : Nat) (p : Posting) (ok1 ok2 col : Bool) : State :=
  let s :=
    if recState s = 0 then
      if ok1 || ok2 then putRecord s k p
      else writeDegraded (recDegrade s k (storeNext s k) col) k p col
    else writeDegraded s k p (ok1 || ok2)
  if k = 0 then recNotify s p.code else s

/-- The window of a posting's CODE, ORIGIN and DATA (R970). -/
def sameEvent (w : Window) (p : Posting) : Bool := w.code = p.code && w.origin = p.origin && w.data = p.data

/-- The CLOSE record of a window that counted (R972), and none when its count is 0. -/
def closeWindow (s : State) (w : Window) (ok1 ok2 col : Bool) : State :=
  if w.count = 0 then s else writeTo s 0 { w.last with close := true, rep := w.count } ok1 ok2 col

/-- COALESCE_MS in cycles (Table 15.6). -/
def coalesceCycles (s : State) : Nat := min (max (rdF s rRecCtrl 15 0) 10) 60000 * cyclesPerMs

/-- Handle one event posting: counted in its window, or written at once with a new window (R970 to R973). -/
def handleEvent (s : State) (p : Posting) (ok1 ok2 col : Bool) : State :=
  let mine (w : Window) : Bool := sameEvent w p && decide (s.cycle < w.opened + coalesceCycles s)
  match s.rcd.windows.find? mine with
  | some w =>
    let w' := { w with count := w.count + 1, last := p }
    let rest := s.rcd.windows.filter (fun x => !mine x)
    if 65535 ≤ w'.count then
      closeWindow { s with rcd := { s.rcd with windows := rest } } w' ok1 ok2 col
    else
      { s with rcd := { s.rcd with windows := s.rcd.windows.map (fun x => if mine x then w' else x) } }
  | none =>
    let full := 32 ≤ s.rcd.windows.length
    let s := match s.rcd.windows.head? with
      | some w => if full then closeWindow { s with rcd := { s.rcd with windows := s.rcd.windows.drop 1 } } w ok1 ok2 col else s
      | none => s
    let nw : Window := { code := p.code, origin := p.origin, data := p.data, opened := s.cycle, count := 0, last := p }
    writeTo { s with rcd := { s.rcd with windows := s.rcd.windows ++ [nw] } } 0 p ok1 ok2 col

/-- Close every open window before a reset or shutdown proceeds (R1160). -/
def closeAllWindows (s : State) : State :=
  s.rcd.windows.foldl (fun s w => closeWindow s w true true true) { s with rcd := { s.rcd with windows := [] } }

/-- Windows whose COALESCE_MS has passed close, oldest first, while the MP runs (R972, R1160). -/
def windowsTick (s : State) : State :=
  let due (w : Window) : Bool := decide (w.opened + coalesceCycles s ≤ s.cycle)
  if ¬ s.mp.mpUp ∨ ¬ s.rcd.windows.any due then s
  else (s.rcd.windows.filter due).foldl (fun s w => closeWindow s w true true true)
    { s with rcd := { s.rcd with windows := s.rcd.windows.filter (fun w => !due w) } }

/-- Mark a posting written more than 10 ms after its posting (Table 15.2, R968). -/
def markLate (s : State) (p : Posting) : Posting := { p with late := p.late || decide (p.at_ + 10 * cyclesPerMs < s.cycle) }

end Sys2Proof.Machine
end

