-- ==== Sys2Proof/Machine/TimeCmds.lean ====
section
/-! DEFINITION. Commands of the time block: domain switches, time reads, PPS, reference, time of day, timestamp rings,
gate lists and the servo (chapter Operational Time, Timestamps and Timed Forwarding). -/

namespace Sys2Proof.Machine

/-- The residual as SLEW_RESIDUAL shows it (Table 12.6). -/
def residWord (s : State) : Nat := if rdB s rTimeStatus 2 then toTwos 64 s.clk.resid else 0

/-- A write of TIME_CTRL (R779, R770): the other domain's number requests a switch. -/
def timeCtrlWrite (s : State) (mask value : Word) : State :=
  if ¬ mask.getLsbD 0 then s
  else
    let v := value.getLsbD 0
    if v ∧ ¬ hasDomB s then s
    else
      let s := wrB s rTimeCtrl 0 v
      wrB s rTimeStatus 3 (b2n v ≠ opDomain s)

/-- TIME_DOMAIN_SWITCH (R780, R784): the arbiter grants the requested switch; no activity conflicts with it. -/
def execTimeDomainSwitch (s : State) : Host.Outcome State Fault Refusal :=
  nextOf s <| onlyIf (rdB s rTimeStatus 3 && hasDomB s) s <|
    let new := rdF s rTimeCtrl 0 0
    let r : Int := ((domOf s new).t : Int) - opTime s
    let s := wrB (wrB (wrF s rTimeStatus 0 0 new) rTimeStatus 2 true) rTimeStatus 3 false
    let s := { s with clk := { s.clk with resid := r, residRem := 0, switchStart := s.cycle } }
    postHw (wrB s rMaintStatus 8 true) 0x0805 [(1, new), (8, toTwos 64 r)]

/-- DOMAIN_SWITCH_DONE (R781). -/
def execDomainSwitchDone (s : State) : Host.Outcome State Fault Refusal :=
  nextOf s <| onlyIf (rdB s rTimeStatus 2 && s.clk.resid = 0) s <|
    let s := wrB (wrB s rTimeStatus 2 false) rMaintStatus 8 false
    postHw s 0x0806 [(1, rdF s rTimeStatus 0 0), (8, (s.cycle - s.clk.switchStart) / cyclesPerUs)]

/-- The hidden word 1 of PPS capture i, which a read of word 0 places in PPS_IN_CAP_1 (Table 12.6). [log 7 DEDUCED] -/
def rPpsHidden (i : Nat) : Nat := rPpsInCap1 i + 2 ^ 34

/-- Reading word 0 of a time register captures its word 1 (R774): the state after, and word 0. -/
def readTime0 (s : State) (o : Nat) : State × Word :=
  if o = rOpTime0 then
    (wr s rOpTime1 (BitVec.ofNat 64 (t128w1 (opTime s) s.clk.opGen)), BitVec.ofNat 64 (secOf (opTime s)))
  else if o = rDomTime0 0 ∨ o = rDomTime0 1 then
    let d := if o = rDomTime0 1 then 1 else 0
    let t := (domOf s d).t
    (wr s (rDomTime1 d) (BitVec.ofNat 64 (t128w1 t (domGen s d))), BitVec.ofNat 64 (secOf t))
  else if o = rPpsInCap0 0 then (wr s (rPpsInCap1 0) (rd s (rPpsHidden 0)), rd s o)
  else if o = rPpsInCap0 1 then (wr s (rPpsInCap1 1) (rd s (rPpsHidden 1)), rd s o)
  else (s, rd s o)

/-- The word-0 registers of R774. -/
def isTime0 (o : Nat) : Bool :=
  o = rOpTime0 || o = rDomTime0 0 || o = rDomTime0 1 || o = rPpsInCap0 0 || o = rPpsInCap0 1

-- Time inputs and outputs

/-- The TSQ of a port; PPS captures bound for the host timestamp ring wait at 300 + input. -/
def tsqOf (s : State) (p : Nat) : List TsEntry := smGet (fun _ => []) s.core.tsq p
def setTsq (s : State) (p : Nat) (l : List TsEntry) : State :=
  { s with core := { s.core with tsq := smSet (fun _ => []) s.core.tsq p l } }

/-- The domain number of a timestamp record (Table 12.2): 3 acts as 0. -/
def domSel (d : Nat) : Nat := if d = 3 then 0 else d

/-- PPS_IN_EDGE (R785): the selected time plus ADJ is captured; TO_RING also writes it to the host timestamp ring. -/
def execPpsInEdge (input : Fin 2) (s : State) : Host.Outcome State Fault Refusal :=
  let i := input.val
  let c := rd s (rPpsInCfg i)
  nextOf s <| onlyIf (c.getLsbD 63) s <|
    let (t, g) := timeSel s (field c 57 56)
    let t := ((t : Int) + signedOf 32 (field c 31 0)).toNat
    let s := wr (wr s (rPpsInCap0 i) (BitVec.ofNat 64 (secOf t))) (rPpsHidden i) (BitVec.ofNat 64 (t128w1 t g))
    let s := wrB s rTimeStatus (4 + i) false
    let s := { s with core := { s.core with ptrs := smSet (fun _ => 0) s.core.ptrs (9 * 2 ^ 16 + i) s.cycle } }
    if c.getLsbD 61 then
      setTsq s (300 + i) (tsqOf s (300 + i) ++
        [{ t := t, gen := g, tag := 0, late := false, domain := domSel (field c 57 56), toMp := false, kind := 1 + i }])
    else s

/-- PPS_IN_LOSS (R787): 1.5 s without an active edge on an enabled input. [log 57 DEDUCED] -/
def execPpsInLoss (input : Fin 2) (s : State) : Host.Outcome State Fault Refusal :=
  let i := input.val
  nextOf s <| onlyIf (rdB s (rPpsInCfg i) 63 && !rdB s rTimeStatus (4 + i)
      && smGet (fun _ => 0) s.core.ptrs (9 * 2 ^ 16 + i) + 2400000000 ≤ s.cycle) s <|
    postHw (wrB s rTimeStatus (4 + i) true) 0x4808 [(1, i)]

/-- WIDTH of a PPS output in microseconds (Table 12.11). -/
def ppsWidth (s : State) (i : Nat) : Nat := min (max (rdF s (rPpsOutCfg i) 51 32) 1) 500000

/-- The core cycle, plus 1, of the last edge of PPS output 0 that no message has followed yet (R791). -/
def kTodEdge : Nat := 9 * 2 ^ 16 + 16

/-- PPS_OUT_PULSE (R788): the output's time crosses a whole second while running, within the last core cycle. [log 57 DEDUCED] -/
def execPpsOutPulse (output : Fin 2) (s : State) : Host.Outcome State Fault Refusal :=
  let i := output.val
  let c := rd s (rPpsOutCfg i)
  let t := (timeSel s (field c 57 56)).1
  let z := ((t : Int) - signedOf 32 (field c 31 0)) % unitsPerSec
  nextOf s <| onlyIf (c.getLsbD 63 && decide (z < 2 * unitsPerCycle) &&
      smGet (fun _ => 0) s.core.ptrs (9 * 2 ^ 16 + 8 + i) ≠ (ppsSecond s i).toNat + 1) s <|
    let s := if i = 0 then { s with core := { s.core with ptrs := smSet (fun _ => 0) s.core.ptrs kTodEdge (s.cycle + 1) } } else s
    emit (ppsDone s i) (.ppsPulse i (ppsWidth s i))

/-- REF_LOSS (R790): domains fall back to the local oscillator without a step. -/
def execRefLoss (s : State) : Host.Outcome State Fault Refusal :=
  nextOf s <| onlyIf (rdB s rRefCfg 63 && !rdB s rTimeStatus 6) s <| postHw (wrB s rTimeStatus 6 true) 0x4809 []

/-- REF_RETURN (R790): domains whose SYNT bit is 1 go back to the input without a step. -/
def execRefReturn (s : State) : Host.Outcome State Fault Refusal :=
  nextOf s <| onlyIf (rdB s rTimeStatus 6) s (wrB s rTimeStatus 6 false)

/-- TOD_TRANSMIT (R791): the queued message leaves TX_DELAY after the edge of PPS output 0, one message an edge. -/
def execTodTransmit (msg : List Byte) (s : State) : Host.Outcome State Fault Refusal :=
  let e := smGet (fun _ => 0) s.core.ptrs kTodEdge
  nextOf s <| onlyIf (rdB s rTodCfg 63 && rdB s (rPpsOutCfg 0) 63 && s.mp.mpUp && e ≠ 0
      && decide (e + rdF s rTodCfg 51 32 * cyclesPerUs ≤ s.cycle + 1)) s <|
    emit { s with core := { s.core with ptrs := smSet (fun _ => 0) s.core.ptrs kTodEdge 0 } } (.tod msg)

/-- TOD_RECEIVE (R791): received characters go to the MP. -/
def execTodReceive (msg : List Byte) (s : State) : Host.Outcome State Fault Refusal :=
  nextOf s <| onlyIf (rdB s rTodCfg 62) s (emit s (.todToMp msg))

-- Timestamp rings

/-- The octets of a timestamp record (Table 12.2). -/
def tsRecord (e : TsEntry) (p : Nat) (ph : Bool) : List Byte :=
  t128Bytes e.t e.gen ++ leBytes 8 ((if e.kind = 0 then p else 0) <<< 32 + e.tag % 2 ^ 32)
    ++ leBytes 8 (b2n ph * 128 + b2n e.late * 64 + e.domain % 4 * 16 + e.kind % 8)

/-- Base of a timestamp ring's registers: the MP's, or the host's (Table 12.6). -/
def tsrBase (mpRing : Bool) : Nat := if mpRing then rMpTsrBase else rTsrBase

/-- A timestamp ring takes a record: it is enabled and not full (R805, R806). -/
def tsrOpen (s : State) (mpRing : Bool) : Bool :=
  rdB s (tsrBase mpRing + 8) 0
    && decide ((rdF s (tsrBase mpRing + 0x18) 12 0 + 8192 - rdF s (tsrBase mpRing + 0x10) 12 0) % 8192 ≠ 4096)

/-- The next port, round robin, whose TSQ's head can drain; its record goes to the ring named, none when its turn is the other
ring's (R802). [log 57 DEDUCED] -/
def tsqNext (s : State) (mpRing : Bool) : Option Nat :=
  (findFrom 302 (s.core.tsqRr + 1) (fun p => match tsqOf s p with
    | e :: _ => tsrOpen s e.toMp
    | [] => false)).filter (fun p => match tsqOf s p with
    | e :: _ => e.toMp == mpRing
    | [] => false)

/-- The core cycle, plus 1, in which the rings last took a record (R802). -/
def kTsrCycle : Nat := 9 * 2 ^ 16 + 20

/-- TIMESTAMP_RECORD_WRITE (R801, R802, R805, R806): one record drains from a TSQ, in round-robin order of port, one a core
cycle over both rings; a full ring makes its TSQs wait. -/
def execTimestampRecordWrite (mpRing : Bool) (s : State) : Host.Outcome State Fault Refusal :=
  let b := tsrBase mpRing
  let tail := rdF s (b + 0x18) 12 0
  nextOf s <| onlyIf (smGet (fun _ => 0) s.core.ptrs kTsrCycle ≠ s.cycle + 1) s <|
    match tsqNext s mpRing with
    | none => s
    | some p =>
      match tsqOf s p with
      | [] => s
      | e :: q =>
          let owner : Agent := if mpRing then .mp else .host (globalLink s)
          let s := emit s (.memWrite owner ((rd s b).toNat + 32 * (tail % 4096)) (tsRecord e p (tail < 4096)))
          let s := wrF s (b + 0x18) 12 0 ((tail + 1) % 8192)
          let s := setTsq s p q
          let s := if q = [] then
              { s with core := { s.core with tsqLostArmed := smSet (fun _ => true) s.core.tsqLostArmed p true } } else s
          let s := { s with core := { s.core with tsqRr := p, ptrs := smSet (fun _ => 0) s.core.ptrs kTsrCycle (s.cycle + 1) } }
          if ¬ mpRing ∧ s.core.tsrIrqArmed ∧ rdB s rTsrCtrl 36 then
            raiseReg { s with core := { s.core with tsrIrqArmed := false } } (globalLink s) rTsrCtrl
          else s

-- Gate lists

/-- GATE_ENTRY_START (R816, R817): the entry that operational time gives begins on port p. -/
def execGateEntryStart (port : Fin 256) (s : State) : Host.Outcome State Fault Refusal :=
  nextOf s (gateRefresh s port.val)

/-- GATE_LIST_CHANGE (R826, R827): the change time has come. -/
def execGateListChange (port : Fin 256) (s : State) : Host.Outcome State Fault Refusal :=
  let p := port.val
  nextOf s <| onlyIf (rdB s (rGateStatus p) 62 && smGet (fun _ => 0) s.core.gateChange p ≤ opNs s) s (gateTake s p)

-- Servo

/-- SERVO_STATE of a domain becomes `v`; a change posts EV_SERVO_STATE (R777). -/
def servoState (s : State) (d v : Nat) : State :=
  let old := rdF s (rDomStatus d) 2 0
  let s := wrF s (rDomStatus d) 2 0 v
  if old = v then s else postHw s 0x4807 [(1, d), (1, old), (1, v)]

/-- A correction of the MP servo as the TADJ of a MODE that it is, with its journal entry (R775, R776). [log 56 DEDUCED] -/
def servoAdjust (s : State) (d mode : Nat) (amount : Int) : State :=
  journal (takeIsn s) 0x0030 (ringOrigin 60) [(8, s.ctl.isn), (1, d), (1, mode), (8, toTwos 64 amount)]

/-- SERVO_UPDATE (R775 to R777): the measured offset is the domain's time less its source's, in 2^-16 ns. The first
offset, and one beyond a STEP_THRESHOLD other than 0, is corrected by a step, every other by a slew; the correction is an
instruction of the MP's ring 60. [log 56 DEDUCED] -/
def execServoUpdate (domain : Fin 2) (offset : Int) (state : Fin 5) (s : State) : Host.Outcome State Fault Refusal :=
  let d := domain.val
  nextOf s <| onlyIf (rdB s (rDomCtrl d) 63 && s.mp.mpUp && (d = 0 || hasDomB s)) s <|
    let s := servoState (wr s (rDomOffset d) (BitVec.ofNat 64 (toTwos 64 offset))) d state.val
    let thr := rdF s (rDomCtrl d) 31 0
    let first := !smGet (fun _ => false) s.clk.servoFirst d
    let step := first || (thr ≠ 0 && decide (thr * 65536 < offset.natAbs))
    let s := { s with clk := { s.clk with servoFirst := smSet (fun _ => false) s.clk.servoFirst d true } }
    if offset = 0 then s
    else
      if step then servoAdjust (stepDomain s d (-offset)) d 0 (-offset)
      else
        let s := servoAdjust (slewDomain s d (-offset)) d 1 (-offset)
        let x := draw s
        let ppb : Int := (x.2.toNat % 65536000001 : Nat) - 32768000000
        servoAdjust (wr x.1 (rDomFreq d) (BitVec.ofNat 64 (toTwos 64 ppb))) d 2 ppb

end Sys2Proof.Machine
end

