-- ==== Sys2Proof/Machine/RegRead.lean ====
section
/-! DEFINITION. What a read of a register returns: stored registers, and those that show a part of the state as it then
stands (the register tables of every chapter); the effects of a read. -/

namespace Sys2Proof.Machine

-- Retirement (R151)

/-- The frames that hold the old parity while it drains: recirculating frames, and copies not wholly through the egress
pipeline. [log 77 DEDUCED] -/
def retirePending (s : State) : Nat :=
  if rdF s rFormeStatus 5 4 = 0 then 0
  else
    let old := !live s
    let recirc (f : Frame) : Bool :=
      ((f.stage = .reentry || f.stage = .clear) && decide (256 ≤ f.port) && decide (f.port < 264))
      || s.path.copies.any (fun c => c.frame = f.id && decide (256 ≤ c.port) && decide (c.port < 264))
      || (f.stage = .held && f.dec.destKind = 2
        && (List.range 8).any (fun u => f.mask.testBit u && (groupPorts s (live s) f.dec.dest u).contains (256 + u)))
    (s.path.frames.filter (fun f => f.stamped && f.parity == old && recirc f)).length
      + (s.path.copies.filter (fun c => c.stage = .mac && c.tailFrom.isSome && c.parity == old)).length

-- Registers that show other state

/-- TM_PEEK's level of a bucket in 1/256 octet (Table 11.6). -/
def peekLevel (z : Int) : Nat := toTwos 64 (z / 2 ^ 32)

/-- TM_PEEK_C and TM_PEEK_P (Table 11.6, R764). -/
def tmPeek (s : State) (w : Nat) : Nat :=
  let i := rdF s rTmPeekSel 17 0
  if rdB s rTmPeekSel 63 then
    if 2660 ≤ i ∨ ¬ portPresent s (i / 10) then 0 else peekLevel (rowLevel s (kShaper i w) (liveRow s 0x620 i) w)
  else if 65536 ≤ i ∨ ¬ tilePresent s (i / 8192) then 0
  else peekLevel (rowLevel s (kPolicer i w) (policerRow s i) w)

/-- TM_PEEK_CREDIT (Table 11.6). -/
def tmPeekCredit (s : State) : Nat :=
  let i := rdF s rTmPeekSel 17 0
  if rdB s rTmPeekSel 63 ∧ i < 2660 ∧ i % 10 < 8 ∧ voqMode s ∧ portPresent s (i / 10) then toTwos 64 (creditOf s (i / 10) (i % 10))
  else 0

/-- Cells in the transit buffer of egress pipeline e (Table 10.10). -/
def transitCells (s : State) (e : Nat) : Nat :=  sumBy (transitCopies s e) (cellsOver s)

/-- Slice registers of tile t (Table 10.10). -/
def sliceReg (s : State) (t j : Nat) : Nat :=
  if j = 0 then
    let used := accRegion s t 0 + accRegion s t 1 + accRegion s t 2
    accRegion s t 0 * 2 ^ 32 + (65536 - retiredCells s t - used)
  else if j = 1 then accRegion s t 2 * 2 ^ 32 + accRegion s t 1
  else if j = 2 then
    let src (k : Nat) : Nat := k / 8 % 2048
    let tile (k : Nat) : Nat := if src k < 256 then src k / 32 else src k - 256
    (s.core.spilling.filter (fun x => x.2 && tile x.1 = t)).length * 2 ^ 32
      + sumBy (s.path.copies.filter (fun c => c.stage = .staged && ingressTile (copyPort s c) = t)) (fun c => c.charge)
  else transitCells s (2 * t + 1) * 2 ^ 32 + transitCells s (2 * t)

/-- Whether a base bank's group of an ASA entry belongs to profile p: its width in 160-bit units (Table 9.11). -/
def asaUnits (s : State) (table : Nat) : Nat :=
  if table = 0x500 then 1 else 2 ^ min (prWidth (liveRow s 0x310 (table - 0x300))) 2

/-- ASA_USED_p (Table 9.11). -/
def asaUsed (s : State) (p : Nat) : Nat :=
  let t := if p = 16 then 0x500 else 0x300 + p
  let cap := if p = 16 then 16384 else
    let d := liveRow s 0x310 p
    if prValid d then 2048 * ((List.range 32).filter (fun b => (prBanks d).testBit b)).length else 0
  cap * 2 ^ 32 + (s.forme.asa.filter (fun e => e.table = t)).length * asaUnits s t

/-- CIPHER_STATUS with its derived bits (Table 6.12). -/
def cipherStatus (s : State) : Nat :=
  (rd s rCipherStatus).toNat + b2n (tamperLatched s) * 64 + b2n (decide (forceList s ≠ [])) * 32

/-- POOL_STATUS_k (Table 17.8). -/
def poolStatus (s : State) (k : Nat) : Nat :=
  (rd s (rPoolStatus k)).toNat + b2n (poolBusy s k) * 2 ^ 63
    + (if poolEnabled s k then poolFree s k * 2 ^ 32 else 0) + (poolFifo s k).length * 2 ^ 16

/-- One 8-byte word of the recorder aperture (R990, Table 15.4); what RETRY's test pattern left is open. -/
def apertureWord (s : State) (o : Nat) : Nat :=
  let k := rdF s rRecWinSel 49 48
  let page := rdF s rRecWinSel 3 0
  let slot := page * 16384 + o / 64
  if storeSize k ≤ slot ∨ (2 ≤ k ∧ page ≠ 0) then 0
  else
    let r := smGet (fun _ => 0) s.rcd.recs (k * 2 ^ 20 + slot)
    let p := smGet (fun _ => 0) s.rcd.pattern k
    bits (if r = 0 ∧ p ≠ 0 then leNat (Config.freeBytes (p - 1) (64 + slot)) else r) (o % 64 * 8 + 63) (o % 64 * 8)

/-- ERR_STATUS with its derived bits (Table 18.15). -/
def errStatus (s : State) : Nat :=
  (rd s rErrStatus).toNat + b2n (rd s rOctetFault ≠ 0#64) * 1024 + b2n (alertOn s) * 2 + b2n s.pwr.fault

/-- HOST_CFG: GLOBAL_LINK and the stored fields (Table 16.7). -/
def hostCfg (s : State) : Nat :=
  rdF s rHostCfg 40 40 * 2 ^ 40 + s.pwr.nv.frameSplit * 2 ^ 16 + s.pwr.nv.ringSplit * 2 ^ 8 + b2n s.pwr.nv.bifurcate

/-- What the registers below 0x4000 that show other state read; none for the others. -/
def viewLow (s : State) (l : Bool) (o : Nat) : Option Nat :=
  if o = 0x08 then some (devCaps s.variant).toNat
  else if o = 0x10 then some s.serial.toNat
  else if o = rHostCfg then some (hostCfg s)
  else if o = rHostStatus then some ((rd s rHostStatus).toNat + b2n s.host.bifNow * 2 ^ 32)
  else if o = rIrqSummary then some (irqSummary s l)
  else if o = rRingPending then some (ringPending s)
  else if 0x60 ≤ o ∧ o < 0x80 then some (portPending s ((o - 0x60) / 8))
  else if o = rErrStatus then some (errStatus s)
  else if o = rBootCtrl then some (b2n s.pwr.nv.autoStart * 2)
  else if o = rBootStatus then some ((rd s o).toNat + newestSeq s * 2 ^ 32 + (newestBoot s).getD 0 * 2 ^ 24)
  else if o = rFragStatus then some s.path.frags.length
  else none

/-- The same for the table and memory windows. -/
def viewTables (s : State) (o : Nat) : Option Nat :=
  if o = rCaseStatus then
    some ((rd s o).toNat + caseSlots s true * 2 ^ 32 + caseSlots s false + b2n (s.learn.flushQ.any (fun q => q.host)) * 2 ^ 63)
  else if 0xA000 ≤ o ∧ o < 0xA000 + 16 * 266 ∧ o % 16 = 8 then some (destCount s ((o - 0xA000) / 16))
  else if 0xB400 ≤ o ∧ o < 0xBC00 then some (destCount s (0x10000 + (o - 0xB400) / 8))
  else if 0x60000 ≤ o ∧ o < 0x80000 then some (bdCount s ((o - 0x60000) / 8))
  else if o = rAsaStatus then some ((rd s o).toNat + s.forme.asaRepair.foldl (fun m x => max m x.2.length) 0 * 2 ^ 32)
  else if 0xC018 ≤ o ∧ o < 0xC040 then some (maskWord 64 (fun i => lsLive s (64 * ((o - 0xC018) / 8) + i)))
  else if 0xC100 ≤ o ∧ o < 0xC188 then some (asaUsed s ((o - 0xC100) / 8))
  else if o = rDeepStatus then
    some (if hasDeep s ∧ ¬ rdB s rErrStatus 9 then deepUsed s * 2 ^ 32 + (deepUnits - deepUsed s) else 0)
  else if o = 0x10008 then some (tmPeek s 0)
  else if o = 0x10010 then some (tmPeek s 1)
  else if o = 0x10018 then some (tmPeekCredit s)
  else if 0x20600 ≤ o ∧ o < 0x20800 then
    some (maskWord 64 (fun i => rd s (rFlowHalf (64 * ((o - 0x20600) / 8) + i)) ≠ 0#64))
  else if 0x20800 ≤ o ∧ o < 0x20880 then
    some (maskWord 64 (fun i => rd s (rPolHalf (64 * ((o - 0x20800) / 8) + i)) ≠ 0#64))
  else if o = rRetirePending then some (retirePending s)
  else if o = rPoolSummary then some (poolSummary s)
  else if o = rLedgerEntry then some (ledger s (rdF s rLedgerIndex 19 0))
  else if 0x400100 ≤ o ∧ o < 0x400500 ∧ (o - 0x400100) % 0x40 = 0x18 then some (poolStatus s ((o - 0x400100) / 0x40))
  else if o = rSlewResidual then some (residWord s)
  else none

/-- The same for the port, tile, cipher, recorder and performance windows. In the window of an inactive port number RO fields
and counters read 0 (R349). -/
def viewHigh (s : State) (o : Nat) : Option Nat :=
  if o < 0x2000000 then
    let p := (o - 0x1000000) / 0x10000
    let q := o % 0x10000
    if ¬ portActive s p then some (rd s o &&& BitVec.ofNat 64 ((regInfo o).elim 0 (fun i => i.rw ||| i.w1c))).toNat
    else if q = 8 then some ((rd s o).toNat + b2n (portActive s p) * 2)
    else if q = 0x30 then some (portEvents s p)
    else if q = 0x880 ∧ p % 8 = 0 then some (bits (octetImage s (p / 8)) 31 0)
    else none
  else if o < 0x2800000 then
    let q := o % 0x100000
    if 0x5000 ≤ q ∧ q < 0x5020 then some (sliceReg s ((o - 0x2000000) / 0x100000) ((q - 0x5000) / 8)) else none
  else if o = rCipherStatus then some (cipherStatus s)
  else if o = rOpHours then some (hoursOf s.rcd.opCycles * 2 ^ 22 + msOf s.rcd.opCycles)
  else if o = rPowerCycles then some s.rcd.pcycle
  else if 0x3900000 ≤ o ∧ o < 0x3A00000 then some (apertureWord s (o - 0x3900000))
  else if 0x3C00000 ≤ o ∧ o < 0x3C00000 + 43 * 0x1000 ∧ o % 0x1000 = 0 then some ((s.cycle - s.mp.perfBase) % 2 ^ 64)
  else none

/-- The value a read of a register finds, with bits that no read returns (WO) at 0. [log 66 DESIGN CHOICE] -/
def readReg (s : State) (l : Bool) (o : Nat) : Word :=
  match (if o < 0x4000 then viewLow s l o else if o < 0x1000000 then viewTables s o else viewHigh s o) with
  | some v => BitVec.ofNat 64 v
  | none =>
    if isTime0 o then (readTime0 s o).2
    else rd s (banked l o) &&& ~~~ BitVec.ofNat 64 ((regInfo o).elim 0 (fun i => i.wo))


/-- A LANE_STATUS register (Table 5.8). [log 83 DESIGN CHOICE] -/
def isLaneStatus (o : Nat) : Bool :=
  0x1000000 ≤ o && o < 0x2000000 && 0x840 ≤ o % 0x10000 && o % 0x10000 < 0x880 && o / 0x10000 % 8 = 0

/-- LANE_STATUS_j (Table 5.16): the lanes of an aligned port have signal, clock and adaptation; what else the lane detects,
and what the checker finds while PRBS is on, comes from outside. [log 83 DESIGN CHOICE] -/
def laneStatus (s : State) (o : Nat) : State × Word :=
  let n := (o - 0x1000000) / 0x10000
  let j := (o % 0x10000 - 0x840) / 8
  let test := decide (1 ≤ rdF s (rLaneCfg n j) 15 12 ∧ rdF s (rLaneCfg n j) 15 12 ≤ 3)
  let aligned := (lanePort s (n / 8) j).elim false (fun p => rdB s (rPortStatus p) 8)
  let open_ : Word := (if aligned then 0#64 else fieldMask 2 0) ||| (if test then fieldMask 47 16 ||| fieldMask 3 3 else 0#64)
  if ¬ portActive s n then (s, 0#64)
  else
    let r := draw s
    (r.1, (r.2 &&& open_) ||| (if aligned then 7#64 else 0#64))

/-- What a read that clears no RS field finds; PWR_STATUS is a measurement the spec gives no value for.
[log 6 DESIGN CHOICE, 66 DESIGN CHOICE] [log 83 DESIGN CHOICE] -/
def look (s : State) (l : Bool) (o : Nat) : State × Word :=
  if o = rPwrStatus then draw s else if isLaneStatus o then laneStatus s o else (s, readReg s l o)

/-- A whole read of a register: RS fields clear, word 0 of a time captures word 1 (R14, R774, R884).
[log 6 DESIGN CHOICE, 66 DESIGN CHOICE] -/
def readEffect (s : State) (l : Bool) (o : Nat) : State × Word :=
  if isTime0 o then readTime0 s o
  else
    let v := look s l o
    let rs := (regInfo o).elim 0 (fun i => i.rs)
    if rs = 0 then v else (wr v.1 o (rd v.1 o &&& ~~~ BitVec.ofNat 64 rs), v.2)

end Sys2Proof.Machine
end

