-- ==== Sys2Proof/Machine/Forme.lean ====
section
/-! DEFINITION. Imposition, withdrawal, lock-up, the drain and catch-up (chapter Formes, Lock-up and the Coherent State). -/

namespace Sys2Proof.Machine

-- Validity bits of a key (R113, R129, R160)

def setEnt (e : CaseEnt) (parity v : Bool) : CaseEnt := if parity then { e with v1 := v } else { e with v0 := v }
def setAsaEnt (e : AsaEnt) (parity v : Bool) : AsaEnt := if parity then { e with v1 := v } else { e with v0 := v }

/-- Free the locations whose validity bits are both 0 (R130). [log 38 DEDUCED] -/
def dropDeadCase (s : State) : State := setCase s (s.forme.case.filter (fun e => e.v0 || e.v1))
def setAsa (s : State) (l : List AsaEnt) : State := { s with forme := { s.forme with asa := l } }
def dropDeadAsa (s : State) : State := setAsa s (s.forme.asa.filter (fun e => e.v0 || e.v1))

/-- Clear a parity's bit of the Case entries of a key: static entries, and learned ones too when a static entry takes the key
(R129, R168). -/
def clearKey (s : State) (key : Nat) (parity learned : Bool) : State :=
  dropDeadCase (setCase s (s.forme.case.map (fun e => if e.key = key ∧ (learned ∨ ¬ e.learned) then setEnt e parity false else e)))

/-- Bring one parity's bits of a Case key into line with the other (R160, R150, R168, R169): a learned entry that loses its last
bit leaves with a learn record of KIND 6. -/
def syncKey (s : State) (key : Nat) (parity : Bool) : State :=
  let gone := s.forme.case.filter (fun e => e.key = key && e.learned && !entLive e (!parity))
  let s := dropDeadCase (setCase s (s.forme.case.map (fun e => if e.key = key then setEnt e parity (entLive e (!parity)) else e)))
  gone.foldl (fun s e => learnRecord s 6 (keyBd e.key) (keyMac e.key) (entDest e) 0) s

/-- Set one validity bit of the ASA entry at a location (R129, R160). -/
def asaBit (s : State) (t loc : Nat) (parity v : Bool) : State :=
  dropDeadAsa (setAsa s (s.forme.asa.map (fun e => if e.table = t ∧ e.loc = loc then setAsaEnt e parity v else e)))

-- Placement in an ASA (R588, R589)

/-- Aligned bank groups of a table: base bank and banks each. -/
def asaGroups (s : State) (l : List GWrite) (t : Nat) : List Nat × Nat :=
  if t = 0x500 then (List.range 8, 1)
  else
    let d := profileWith s l t
    let g := 2 ^ min (prWidth d) 2
    (((List.range (32 / g)).map (fun k => g * k)).filter (fun b => (prBanks d).testBit b), g)

/-- The lowest row of a group of `g` banks from base bank b that no entry occupies. -/
def freeRow (s : State) (t b g : Nat) : Option Nat :=
  let used := s.forme.asa.filter (fun e => (e.table = 0x500) == (t = 0x500) && decide (b ≤ e.loc / 2048) && decide (e.loc / 2048 < b + g))
  findBelow 2048 (fun r => used.all (fun e => e.loc % 2048 ≠ r))

/-- Entries that the current imposition has placed in a group: those not live yet. -/
def placedIn (s : State) (t b : Nat) : Nat :=
  (s.forme.asa.filter (fun e => e.table = t && e.loc / 2048 = b && !asaLive e (live s))).length

/-- The location R589 gives the next entry of a table. -/
def asaPlace (s : State) (l : List GWrite) (t : Nat) : Option Nat :=
  let g := asaGroups s l t
  let cand := g.1.filter (fun b => (freeRow s t b g.2).isSome)
  let least := cand.foldl (fun m b => min m (placedIn s t b)) 262145
  match cand.find? (fun b => placedIn s t b = least) with
  | none => none
  | some b => (freeRow s t b g.2).map (fun r => b * 2048 + r)

/-- Put an ASA entry in order of table and location. -/
def putAsaEnt (e : AsaEnt) : List AsaEnt → List AsaEnt
  | [] => [e]
  | x :: t => if e.table < x.table ∨ (e.table = x.table ∧ e.loc < x.loc) then e :: x :: t else x :: putAsaEnt e t

-- Capacity (R131)

/-- Units of one entry of an associative table: Case entries, or 160-bit units. -/
def widthUnits (s : State) (l : List GWrite) (t key : Nat) : Nat :=
  if isCase t then caseSlotsOf (wordsOfKey key) else (asaGroups s l t).2

/-- Entries a galley needs of a table. -/
def formeNeed (s : State) (t : Nat) : Nat :=
  let l := s.forme.galley
  sumBy (l.filter (fun w => w.table = t && !w.del)) (fun w => widthUnits s l t w.key)

/-- Entries free for it (R130, R540). -/
def formeFree (s : State) (t : Nat) : Nat :=
  let l := s.forme.galley
  if isCase t then caseFree s
  else
    let g := asaGroups s l t
    2048 * g.1.length * g.2 - (s.forme.asa.filter (fun e => e.table = t)).length * g.2

/-- The table of a galley that lacks room, in log order (R132). [log 109 DESIGN CHOICE] -/
def formeFull (s : State) : Option Nat :=
  (s.forme.galley.find? (fun w => (isCase w.table || isAsa w.table) && !w.del
    && decide (formeFree s w.table < formeNeed s w.table))).map (fun w => w.table)

/-- Lane octet o would have more than 4 MM_EN bits, or a MODE on a faulty octet (R134, R282, R1094). -/
def octetFails (s : State) (o : Nat) : Bool :=
  match logRow s.forme.galley 0x600 o with
  | none => false
  | some w => decide (4 < ((List.range 8).filter (fun j => w.image.testBit (24 + j))).length)
      || (modeOf w.image ≠ 0 && rdB s rOctetFault o)

/-- HR(t) as the galley would leave it (R658). -/
def hrWith (s : State) (t : Nat) : Nat :=
  let l := s.forme.galley
  hrOf (fun p c => rowWith s l 0x630 (p * 8 + c))
    (fun p => decide (p < 256) && portPresent s p && lowestLane (modeOf (rowWith s l 0x600 (p / 8))) (p % 8)) t

def touchesHr (s : State) : Bool := s.forme.galley.any (fun w => w.table = 0x600 || w.table = 0x630)

/-- Why imposition cannot succeed: status, RESULT, entries needed and free. [log 99 DESIGN CHOICE] -/
def impositionFault (s : State) : Option (Status × Nat × Nat × Nat) :=
  match formeFull s with
  | some t => some (.eFormeFull, t, formeNeed s t, formeFree s t)
  | none =>
    match findBelow 32 (octetFails s) with
    | some o => some (.ePortMode, o, 0, 0)
    | none =>
      if ¬ touchesHr s then none
      else (findBelow 8 (fun t => tilePresent s t && decide (57344 < globalReserve s + hrWith s t))).map
        (fun t => (.eHeadroom, t, 0, 0))

-- Writes of imposition, withdrawal and catch-up

/-- The standby parity. -/
def standby (s : State) : Bool := !live s

/-- Imposition of one Case write (R129, R168). -/
def imposeEntry (s : State) (w : GWrite) : State :=
  let par := standby s
  let s := clearKey s w.key par (!w.del)
  if w.del then s
  else
    let k := wordsOfKey w.key
    let x := caseInsert s 256
      { loc := 0, key := w.key, slots := caseSlotsOf k, result := bits (word w.image k) 47 0, learned := false, v0 := !par, v1 := par }
    if x.2 then x.1
    else { x.1 with forme := { x.1.forme with impFail := some (.eFormeFull, w.table, formeNeed s w.table, formeFree s w.table) } }

/-- Numbers of the banks that an entry of `n` banks at a location occupies: those of the egress ASA from 32 on. -/
def asaBanks (t loc n : Nat) : List Nat := (List.range n).map (fun k => (if t = 0x500 then 32 else 0) + loc / 2048 + k)

/-- A Write Gate write of an ASA takes an update slot in each of these banks, and goes to each tile's copies (R102, R135,
R574, Table 13.6). -/
def slotPerf (s : State) (banks : List Nat) : State :=
  (List.range 8).foldl (fun s k => if tilePresent s k then perf s k 0x010A 1 else s) (perf s 40 0x0304 banks.length)

/-- The next write of the Write Gate for one ASA write of a galley (R129, R135): it clears the standby bit of an entry with the
key, one update slot in the base bank, or places the new entry, one in each bank of it. Answers the banks that the write takes,
the state after it, and whether more is to do. -/
def asaImpose (s : State) (w : GWrite) : List Nat × State × Bool :=
  let par := standby s
  match s.forme.asa.find? (fun e => e.table = w.table && e.key = w.key && asaLive e par) with
  | some e =>
    let b := asaBanks w.table e.loc 1
    (b, asaBit (slotPerf s b) w.table e.loc par false, true)
  | none =>
    if w.del then ([], s, false)
    else
      match asaPlace s s.forme.galley w.table with
      | some loc =>
        let b := asaBanks w.table loc (asaGroups s s.forme.galley w.table).2
        (b, writeCells (setAsa (slotPerf s b)
          (putAsaEnt { table := w.table, loc := loc, key := w.key, image := w.image, v0 := !par, v1 := par } s.forme.asa)) w.table loc, false)
      | none =>
        ([], { s with forme := { s.forme with impFail := some (.eFormeFull, w.table, formeNeed s w.table, formeFree s w.table) } }, false)

/-- The next write that brings one ASA key's bits of a parity into line with the other: one bit, one update slot. -/
def asaSync (s : State) (t key : Nat) (par : Bool) : List Nat × State × Bool :=
  match s.forme.asa.find? (fun e => e.table = t && e.key = key && asaLive e par != asaLive e (!par)) with
  | some e =>
    let b := asaBanks t e.loc 1
    (b, asaBit (slotPerf s b) t e.loc par (asaLive e (!par)), true)
  | none => ([], s, false)

/-- The next write of the Write Gate for what imposition, withdrawal or catch-up owes: the ASA banks it takes, the state after it,
and whether the same item owes more. -/
def formeNext (s : State) (w : FormeWrite) : List Nat × State × Bool :=
  match w with
  | .row t r img => ([], setRow s (standby s) t r img, false)
  | .entry g =>
    if s.forme.impFail.isSome then ([], s, false)
    else if isCase g.table then ([], imposeEntry s g, false)
    else asaImpose s g
  | .syncRow t r par => ([], setRow s par t r (row s (!par) t r), false)
  | .syncKey t k par => if isCase t then ([], syncKey s k par, false) else asaSync s t k par

/-- What repair, `copy` × 64 + bank, or the Write Gate has used of update slot n. -/
def slotUsed (s : State) (n : Nat) : List Nat := if s.forme.slotNo = n + 1 then s.forme.slotGate else []
def slotFixed (s : State) (n : Nat) : List Nat := if s.forme.slotNo = n + 1 then s.forme.slotFix else []

/-- The Write Gate has these banks now (R102, Table 9.2): with none of them it needs no update slot; else the slot is one of its 15
in 16 and nothing has used it there. [log 94 DEDUCED] -/
def slotOpen (s : State) (banks : List Nat) : Bool :=
  match banks, updateSlot s.cycle with
  | [], _ => true
  | _, none => false
  | l, some n => n % 16 ≠ 15 && s.forme.sweepSlot ≠ n + 1
      && l.all (fun b => !(slotUsed s n).contains b && !(slotFixed s n).any (fun x => x % 64 = b))

/-- The Write Gate uses these banks in the update slot. -/
def useGate (s : State) (banks : List Nat) : State :=
  match banks, updateSlot s.cycle with
  | [], _ => s
  | _, none => s
  | l, some n => { s with forme := { s.forme with slotNo := n + 1, slotGate := l ++ slotUsed s n, slotFix := slotFixed s n } }

/-- One write that reaches its table in this cycle, with whether the item owes more; none while it waits for an update slot, or for a
cycle in which no lookup uses its Case bank (R102 to R104). [log 24 DESIGN CHOICE] -/
def formeTake (s : State) (w : FormeWrite) : Option (State × Bool) :=
  let r := formeNext s w
  if slotOpen s r.1 && caseOpen s r.2.1 then some (useGate r.2.1 r.1, r.2.2) else none

/-- All that one item owes, in as many cycles as it takes. -/
def formeWrite : Nat → State → FormeWrite → State
  | 0, s, _ => s
  | n + 1, s, w =>
    let r := formeNext s w
    if r.2.2 then formeWrite n r.2.1 w else r.2.1

/-- Replace the owed writes; those that leave without replacement have been made or withdrawn. -/
def setTodo (s : State) (l : List FormeWrite) : State :=
  { s with forme := { s.forme with
    formeTodo := l, formeOut := s.forme.formeOut + (s.forme.formeTodo.length - l.length) } }

/-- The owed writes in order, each once it may reach its table, up to the first that waits (R104). [log 24 DESIGN CHOICE] -/
def takeTodo : List FormeWrite → State → State
  | [], s => setTodo s []
  | w :: l, s =>
    match formeTake s w with
    | none => setTodo s (w :: l)
    | some (t, true) => setTodo t (w :: l)
    | some (t, false) => takeTodo l t

/-- Every owed write that may reach its table in this cycle does so. [log 24 DESIGN CHOICE] -/
def runTodo (s : State) : State := takeTodo s.forme.formeTodo s

/-- These writes reach their tables, in as many cycles as they take. -/
def makeAll (s : State) (l : List FormeWrite) : State :=
  l.foldl (fun s w => formeWrite (s.forme.asa.length + 2) s w) (setTodo s [])

/-- The writes that impose a log; rows of ASA profiles come before entries of their profiles. [log 24 DESIGN CHOICE] -/
def imposeList (l : List GWrite) : List FormeWrite :=
  (l.filter (fun w => (indexedTable w.table).isSome)).map (fun w => .row w.table w.row w.image)
    ++ (l.filter (fun w => (indexedTable w.table).isNone)).map (fun w => .entry w)

/-- The writes that bring parity `par` of everything a log names into line with the other parity. [log 24 DESIGN CHOICE] -/
def syncList (l : List GWrite) (par : Bool) : List FormeWrite :=
  l.map (fun w => if (indexedTable w.table).isSome then .syncRow w.table w.row par else .syncKey w.table w.key par)

/-- Withdraw the imposed writes: the standby parity again equals the live one (R150). A galley that waits for a retirement
has imposed nothing, and what catch-up owes stays owed (R128, R162). -/
def withdraw (s : State) : State :=
  let s := if pendPhase s = 0 then s else makeAll s (syncList s.forme.galley (standby s))
  { s with forme := { s.forme with impFail := none } }

-- Imposition (R128 to R134, R951)

/-- BANK_TEST of a bank that the galley gives to a profile ends at once (R951). -/
def endBankTests (s : State) : State :=
  let added := s.forme.galley.foldl (fun m w => if w.table = 0x310 then m ||| prBanks w.image else m) 0
  (s.mp.maintRun.filter (fun x => x.act = 4 && added.testBit x.unit)).foldl (fun s x => maintEnd s 4 x.unit 0) s

/-- IMPOSITION_START (R128, R129). [log 24 DESIGN CHOICE] -/
def execImpositionStart (s : State) : Host.Outcome State Fault Refusal :=
  nextOf s <| onlyIf (galleyState s = gsPending && s.forme.pendLock.isSome && prevState s = 0 && pendPhase s = 0) s <|
    let s := setPhase (endBankTests s) 1
    match impositionFault s with
    | some f => { s with forme := { s.forme with impFail := some f } }
    | none => setTodo s (imposeList s.forme.galley)

/-- Take the pending LOCK or LOCKAT away and complete it (R139, R81). [log 25 DEDUCED] -/
def finishLock (s : State) (l : PendLock) (st : Status) (result : Nat) : State :=
  let gone := ownerGone s
  let s := { s with forme := { s.forme with pendLock := none } }
  if l.timed then completeTimed s l.ring l.isn opLockat l.flags gone st result
  else completeIns s l.ring l.isn opLock l.flags st result false

/-- Post EV_FORME_FULL (R132). -/
def postFull (s : State) (f : Status × Nat × Nat × Nat) : State :=
  if f.1 = .eFormeFull then postHw s 0x4914 [(2, f.2.1), (4, f.2.2.1), (4, f.2.2.2)] else s

/-- The galley goes back to OPEN with its log, its timeout starting again (R117, R146). [log 25 DEDUCED] -/
def galleyReopen (s : State) : State :=
  let s := setPhase (setGalleyState (withdraw s) gsOpen) 0
  { s with forme := { s.forme with galleyCycle := s.cycle } }

/-- IMPOSITION_FAIL (R132 to R134, R658): the writes made are withdrawn and the LOCK or LOCKAT completes. -/
def execImpositionFail (s : State) : Host.Outcome State Fault Refusal :=
  nextOf s <|
    let t := if galleyState s = gsPending ∧ pendPhase s = 1 then runTodo s else s
    match t.forme.impFail, t.forme.pendLock with
    | some f, some l =>
      finishLock (postFull (galleyReopen t) f) l f.1 f.2.1
    | _, _ => s

/-- A LOCKAT misses its T (R146): the imposed writes are withdrawn and it completes with E_LOCK_MISSED. -/
def lockMissed (s : State) (l : PendLock) : State :=
  postHw (finishLock (galleyReopen s) l .eLockMissed 0) 0x8916 [(8, l.isn), (8, l.sec), (4, l.ns)]

/-- IMPOSITION_COMPLETE (R128): every write has reached the standby parity. A LOCKAT whose T has passed meanwhile locks up
late (R145), or with LATE_OK 0 has missed it (R146). -/
def imposed (s : State) : State :=
  let t := runTodo s
  if t.forme.impFail.isSome ∨ t.forme.formeTodo ≠ [] then s
  else
    let s := setPhase t 2
    match s.forme.pendLock with
    | some l =>
      if l.timed ∧ ¬ l.lateOk ∧ ¬ l.stepLate ∧ tNs l.sec l.ns < opNs s then lockMissed s l
      else if l.timed ∧ tNs l.sec l.ns < opNs s then { s with forme := { s.forme with pendLock := some { l with late := true } } } else s
    | none => s

def execImpositionComplete (s : State) : Host.Outcome State Fault Refusal :=
  nextOf s <| onlyIf (galleyState s = gsPending && pendPhase s = 1 && s.forme.impFail.isNone) s (imposed s)

-- Lock-up

/-- The octets one log entry adds to the CRC of R1167. [log 23 DEDUCED] -/
def logBytes (s : State) (l : List GWrite) (w : GWrite) : List Byte :=
  let len := match indexedTable w.table with
    | some x => x.2
    | none => if isCase w.table then 8 * (wordsOfKey w.key + 1) else 8 * (2 * asaN s l w.table + 1)
  leBytes 2 w.table ++ leBytes 1 (b2n w.del) ++ leBytes 4 w.row ++ leBytes len w.image

/-- The CRC-32C over the galley log (R1167). -/
def logCrc (s : State) (l : List GWrite) : Nat := if l = [] then 0 else crc32c (l.flatMap (logBytes s l))

/-- Table IDs a log names with the writes for each, in order of table ID (R140). -/
def logTables (l : List GWrite) : List (Nat × Nat) :=
  ((List.range 0x700).filter (fun t => l.any (fun w => w.table = t))).map (fun t => (t, (l.filter (fun w => w.table = t)).length))

/-- Parts of the lock-up's journal entry after the first: four table counts each (R978, R140). -/
def countParts : Nat → List (Nat × Nat) → List (List (Nat × Nat))
  | 0, _ => []
  | _ + 1, [] => []
  | k + 1, x :: l => ((x :: l).take 4).flatMap (fun y => [(2, y.1), (3, y.2)]) :: countParts k ((x :: l).drop 4)

/-- The journal entry of a lock-up (R140, R978). -/
def journalLock (s : State) (gen : Nat) (l : PendLock) (log : List GWrite) : State :=
  let s := journal s 0x0001 l.origin [(8, gen), (8, l.isn), (4, logCrc s log)]
  let parts := countParts 64 (logTables log)
  (parts.zip (List.range parts.length)).foldl (fun s x => journalPart s 0x0002 l.origin (x.2 + 1) x.1) s

/-- Lock-up resets or keeps the two buckets of a shaper or policer row (R755 to R757), `zero` being its RESET_POLICY. -/
def lockBuckets (s : State) (k : Nat → Nat) (old new : Nat) (zero : Bool) : State :=
  let ratesOff (i : Nat) : Nat := i - bits i 30 0 - bits i 94 64 * 2 ^ 64
  if old = new then s
  else if old = 0 then setBucket (setBucket s (k 0) none) (k 1) none
  else if ratesOff old = ratesOff new then
    (List.range 2).foldl (fun s w => fixBucket s (k w) (bucketInc (rowRate old w)) (rowBurst old w * octetUnits)) s
  else (List.range 2).foldl (fun s w => setBucket s (k w) (if zero then some { level := 0, cycle := s.cycle } else none)) s

/-- Lock-up resets or keeps the bucket of a snare reason, which holds nothing while its RATE is 0 (R492, R499 to R501). -/
def lockSnare (s : State) (r old new : Nat) : State :=
  let cap (i : Nat) : Int := (max (bits i 47 32) 1 * 2 ^ 32 : Nat)
  let inc (i : Nat) : Nat := min (bits i 25 0) 50000000 * 2 ^ 32 / 1600000000
  if bits new 25 0 = 0 then setBucket s (kSnare r) (some { level := 0, cycle := s.cycle })
  else if bits old 47 32 ≠ bits new 47 32 then setBucket s (kSnare r) none
  else if bits old 25 0 = 0 then setBucket s (kSnare r) (some { level := 0, cycle := s.cycle })
  else fixBucket s (kSnare r) (inc old) (cap old)

/-- What lock-up does to the buckets of the rows a log writes. -/
def lockBucketRow (s : State) (w : GWrite) : State :=
  let old := liveRow s w.table w.row
  if w.table = 0x620 then lockBuckets s (kShaper w.row) old w.image (!(word w.image 2).testBit 61)
  else if w.table = 0x621 then lockBuckets s (kPolicer w.row) old w.image ((word w.image 2).testBit 61)
  else if w.table = 0x650 then lockSnare s w.row old w.image
  else s

/-- MAC statistics and their bits of a port number return to 0 (R289). -/
def clearStats (s : State) (p : Nat) : State :=
  let s := (List.range 96).foldl (fun s i => wr s (rMacStat p i) 0#64) s
  (List.range 2).foldl (fun s w => wr (wr s (rStatHalf p w) 0#64) (rStatWrap p w) 0#64) s

/-- MODE or FEC differ (R288). -/
def modeChange (old new : Nat) : Bool := bits old 7 0 ≠ bits new 7 0

/-- Before the parity inverts: ports that lock-up takes down (R288, R290), with link-down cause lock-up. -/
def lockPortsDown (s : State) (w : GWrite) : State :=
  let old := liveRow s 0x600 w.row
  let change := modeChange old w.image
  (List.range 8).foldl (fun s j =>
    let p := 8 * w.row + j
    if portActive s p ∧ (change ∨ old.testBit 8 ≠ w.image.testBit 8 ∨ old.testBit (16 + j) ≠ w.image.testBit (16 + j)) then
      takeDown s p 5 true change
    else s) s

/-- After it: statistics, EV_PORT_MODE, a readaptation that ends, MAC merge verification, and training of the ports that may come up
(R288, R289, R291, R350, R950). -/
def lockPortsAfter (s : State) (w : GWrite) (old : Nat) : State :=
  let change := modeChange old w.image
  let s := if change then (List.range 8).foldl (fun s j => clearStats s (8 * w.row + j)) s else s
  let s := if change ∧ s.mp.maintRun.any (fun x => x.act = 5 && x.unit = w.row) then maintEnd s 5 w.row 1 else s
  let s := (List.range 8).foldl (fun s j =>
    let p := 8 * w.row + j
    if old.testBit (24 + j) ≠ w.image.testBit (24 + j) ∧ rdB s (rPortStatus p) 0 then
      mmStart { wrF s (rPortStatus p) 19 17 0 with path := { s.path with mmTry := smSet (fun _ => (0, 0)) s.path.mmTry p (0, 0) } } p
    else s) s
  let s := (List.range 8).foldl (fun s j =>
    if change ∨ old.testBit 8 ≠ w.image.testBit 8 ∨ old.testBit (16 + j) ≠ w.image.testBit (16 + j) then beginPort s (8 * w.row + j) else s) s
  if old = w.image then s else postHw s 0x0107 [(1, w.row), (8, old), (8, w.image)]

/-- A port's gate list changes at most once per lock-up (R821). -/
def lockGates (s : State) (log : List GWrite) : State :=
  ((List.range 256).filter (fun p => log.any (fun w => w.table = 0x640 && w.row / 1024 = p))).foldl gateLockup s

/-- Queues that join the weighted group take a head tag (R729): their stored tag is forgotten, so the computation
in the lock-up cycle makes it under R724. -/
def lockSched (s : State) (w : GWrite) (old : Nat) : State :=
  if spCount w.image < spCount old then
    (List.range (8 - spCount w.image)).foldl (fun s q => if 8 - spCount old ≤ q then vSet s (kTag 0 w.row q) 0 else s) s
  else s

/-- A multicast copy that has not reached stage 12. -/
def relinks (f : Frame) (c : Copy) : Bool := c.frame = f.id && c.multicast && c.stage ≠ .mac && c.stage ≠ .hostWait

/-- A port that enters the list of tile u gets a copy of a multicast frame: from the slice in shared mode while its cells stand
there, else made by the tile from a copy it holds (R684, R687). -/
def relinkAdd (s : State) (f : Frame) (u p : Nat) : State :=
  if ¬ voqMode s ∧ f.charge ≠ 0 then offerCopy s f.id { mkCopy s f p f.dec.tc 0 0 true with multicast := true }
  else
    match s.path.copies.find? (fun c => relinks f c && decide (c.port < 266) && tileOf c.port = u && c.stage ≠ .queued) with
    | some c => replicate s f c p
    | none => s

/-- One multicast frame at a lock-up that changes its tile's port list: a copy that has not reached stage 12 stays only if the
list its stamp will name holds its port, and a port that enters the list gets a copy (R684, R687). [log 43 DEDUCED] -/
def relinkTile (s : State) (f : Frame) (u : Nat) : State :=
  let old := groupPorts s (standby s) f.dec.dest u
  let new := groupPorts s (live s) f.dec.dest u
  let gone := s.path.copies.filter (fun c => relinks f c && old.contains c.port && !new.contains c.port)
  gone.foldl dropCopy ((new.filter (fun p => !old.contains p)).foldl (fun s p => relinkAdd s f u p) s)

/-- The multicast frames on their way follow the port lists of the parity that has become live (R684). [log 43 DEDUCED] -/
def relinkMulticast (s : State) : State :=
  (s.path.frames.filter (fun f => f.stage = .held && f.dec.destKind = 2 && s.path.copies.any (fun c => c.frame = f.id))).foldl
    (fun s f => ((List.range 8).filter (fun u => f.tiles.testBit u)).foldl (fun s u => relinkTile s f u) s) s

/-- Lock-up (R137 to R140, R216): LIVE inverts, FORME_GEN increments, instant objects act, the LOCK or LOCKAT completes. -/
def lockupNow (s : State) (l : PendLock) (late : Bool) : State :=
  let log := s.forme.galley
  let before := s
  let was (t r : Nat) : Nat := liveRow before t r
  let tags := log.any (fun w => w.table = 0x610 || w.table = 0x620)
  let s := if tags then retagAll s else s
  let modes := log.filter (fun w => w.table = 0x600)
  let s := log.foldl lockBucketRow s
  let s := modes.foldl lockPortsDown s
  let s := wrB s rFormeStatus 0 (!live s)
  let gen := formeGen s + 1
  let s := wr s rFormeGen (BitVec.ofNat 64 gen)
  let s := wr (wr s rLockupTime0 (BitVec.ofNat 64 (secOf (opTime s)))) rLockupTime1 (BitVec.ofNat 64 (t128w1 (opTime s) s.clk.opGen))
  let s := wr s rLockupIsn (BitVec.ofNat 64 l.isn)
  let s := modes.foldl (fun s w => lockPortsAfter s w (was 0x600 w.row)) s
  let s := (log.filter (fun w => w.table = 0x610)).foldl (fun s w => lockSched s w (was 0x610 w.row)) s
  let s := if tags then retagAll s else s
  let s := lockGates s log
  let s := if log.any (fun w => w.table = 0x520) then relinkMulticast s else s
  let s := forceEvents before s
  let s := journalLock s gen l log
  let s := postHw s 0x0910 [(8, gen), (8, l.isn), (1, b2n late)]
  let s := if late ∧ ¬ l.stepLate then postHw s 0x4912 [(8, gen), (8, opNs s - tNs l.sec l.ns)] else s
  let s := { s with forme := { s.forme with lastLog := log, lockCycle := s.cycle } }
  let s := setPhase (setPrev s 1) 0
  let s := finishLock s l .ok (b2n late * 2 ^ 63 + gen)
  galleyNone s

/-- A boot save that runs is abandoned by a lock-up (cause 0) or a warm reset (1) (R1100). -/
def abandonSave (s : State) (cause : Nat) : State :=
  match s.pwr.bootSaving with
  | none => s
  | some _ =>
    postHw (wrB (wrB { s with pwr := { s.pwr with bootSaving := none } } rBootStatus 3 false) rBootStatus 1 true) 0x4D04 [(1, cause)]

/-- Accepted, imposed and due: a LOCK at once, a LOCKAT that is late (R136, R145, R148). [log 80 DEDUCED] -/
def lockDue (_ : State) (l : PendLock) : Bool := !l.timed || l.late || l.stepLate

/-- LOCKUP (R136, R137, R145, R148): imposition is complete, and the LOCK or late LOCKAT locks up in the next cycle. -/
def execLockup (s : State) : Host.Outcome State Fault Refusal :=
  nextOf s <|
    let t := if galleyState s = gsPending ∧ pendPhase s = 1 ∧ s.forme.impFail.isNone then imposed s else s
    match t.forme.pendLock with
    | none => t
    | some l =>
      onlyIf (galleyState t = gsPending && pendPhase t = 2 && lockDue t l) s
        (abandonSave (lockupNow t l (l.timed && (l.late || l.stepLate))) 0)

/-- Operational time has reached T of a LOCKAT with imposition complete: lock-up (R143). -/
def lockatNow (s : State) : State :=
    match s.forme.pendLock with
    | none => s
    | some l =>
      onlyIf (l.timed && galleyState s = gsPending && pendPhase s = 2 && decide (tNs l.sec l.ns ≤ opNs s)) s
        (abandonSave (lockupNow s l (l.late || l.stepLate)) 0)

/-- LOCKAT_TIME (R143). [log 80 DEDUCED] -/
def execLockatTime (s : State) : Host.Outcome State Fault Refusal := nextOf s (lockatNow s)

/-- Operational time has reached T of a LOCKAT with imposition incomplete and LATE_OK 0 (R146). -/
def lockMissedNow (s : State) : State :=
    match s.forme.pendLock with
    | none => s
    | some l =>
      onlyIf (l.timed && !l.lateOk && !l.stepLate && galleyState s = gsPending && pendPhase s ≠ 2
          && decide (tNs l.sec l.ns ≤ opNs s)) s (lockMissed s l)

/-- LOCK_MISSED (R146). [log 25 DEDUCED] -/
def execLockMissed (s : State) : Host.Outcome State Fault Refusal := nextOf s (lockMissedNow s)

-- Retirement (R151 to R161)

/-- DRAIN_END (R118, R151, R160). -/
def execDrainEnd (s : State) : Host.Outcome State Fault Refusal :=
  nextOf s <| onlyIf (prevState s = 1 && retirePending s = 0) s <|
    let s := setTodo (setPrev s 2) (syncList s.forme.lastLog (standby s))
    { s with forme := { s.forme with drainNs := nsOfCycles (s.cycle - s.forme.lockCycle) } }

/-- CATCH_UP_END (R160, R161). [log 24 DESIGN CHOICE] -/
def execCatchUpEnd (s : State) : Host.Outcome State Fault Refusal :=
  nextOf s <|
    let t := runTodo s
    onlyIf (prevState s = 2 && t.forme.formeTodo = []) s <|
    let s := setPrev t 0
    postHw { s with forme := { s.forme with lastLog := [] } } 0x0911 [(8, formeGen s - 1), (8, s.forme.drainNs)]

/-- GALLEY_TIMEOUT (R125). -/
def execGalleyTimeout (s : State) : Host.Outcome State Fault Refusal :=
  nextOf s <| onlyIf (galleyState s = gsOpen
      && decide (s.forme.galleyCycle + max (rdF s rFormeCtrl 15 0) 1 * cyclesPerMs ≤ s.cycle)) s <|
    galleyNone (postHw s 0x4913 [(1, galleyOwner s), (4, s.forme.galley.length)])

end Sys2Proof.Machine
end

