-- ==== Sys2Proof/Machine/GalleyCmds.lean ====
section
/-! DEFINITION. Galley instructions and TRD (chapters Formes, Lock-up and the Coherent State and Ermel Instruction
Reference). -/

namespace Sys2Proof.Machine

/-- UNIT, INDEX and OPERAND that Tables 4.5 and 4.6 mark 0. -/
def allZero (ins : Ins) : Bool := ins.unit = 0 && ins.index = 0 && ins.operand = 0

/-- GOPEN (R119, R120). -/
def execGopen (ring : Fin 64) (ins : Ins) (s : State) : Host.Outcome State Fault Refusal :=
  let n := ring.val
  nextOf s <| runIns s n opGopen ins fun _ s =>
    let s := touchGalley s n
    guardIns s [(decide (4 ≤ ins.flags) || !allZero ins, .eCheck), (galleyState s ≠ gsNone, .eFormeBusy)] fun s =>
      let s := wrF (setGalleyState (setLog s []) gsOpen) rFormeStatus 29 24 n
      ({ wrB s rFormeStatus 16 false with forme := { s.forme with galleyCycle := s.cycle } }, .done .ok 0)

/-- COUNTM1 + 1 (Table 4.6). -/
def entryCount (ins : Ins) : Nat := bits ins.flags 7 2 + 1

/-- INDEX of an associative table that Table 4.6 does not allow. -/
def badAssocIndex (ins : Ins) : Bool := if isCase ins.unit then decide (4 ≤ ins.index) else ins.index ≠ 0

/-- The checks of R121, R122 and, for the SecY tables, of Table 6.8, which opens them to the user role. -/
def tableRights (s : State) (n t : Nat) : List (Bool × Status) :=
  (galleyChecks s n).take 2 ++ ((t = 0x530 || t = 0x531) && ringRole s n ≠ 1, .ePerm) :: (galleyChecks s n).drop 2

/-- Steps 1 to 3 of R1161 for TW, TD and TM, with `len` octets of operand block. [log 11 DEDUCED, 26 DEDUCED] -/
def tableChecks (s : State) (n : Nat) (ins : Ins) (len : Nat) : List (Bool × Status) :=
  let rows := indexedTable ins.unit
  let k := entryCount ins
  [(decide (256 ≤ ins.flags) || (tableListed ins.unit && rows.isNone && badAssocIndex ins), .eCheck),
   (ins.operand % 16 ≠ 0 || (tableListed ins.unit && decide (16384 < len)), .eCheck),
   (!tableListed ins.unit || rows.elim false (fun x => decide (x.1 < ins.index + k)), .eAddr),
   (rows.isSome && (List.range k).any (fun i => rowAbsent s ins.unit (ins.index + i)), .eAbsent)] ++ tableRights s n ins.unit

/-- The position of the first row that R193 or R194 refuses (R211); 0 for any other status. [log 11 DEDUCED] -/
def badRowAt (s : State) (ins : Ins) (st : Status) : Nat :=
  match indexedTable ins.unit with
  | none => 0
  | some x => (findBelow (entryCount ins) (fun i =>
      if st = .eAddr then decide (x.1 ≤ ins.index + i) else st = .eAbsent && rowAbsent s ins.unit (ins.index + i))).getD 0

/-- Act when no check of TW, TD or TM fails; a row that fails names its position (R211). -/
def guardRows (s : State) (ins : Ins) (checks : List (Bool × Status)) (act : State → State × Verdict) : State × Verdict :=
  match firstFail checks with
  | some st => (s, .done st (badRowAt s ins st))
  | none => act s

/-- TW (R207, R211 to R214, R123, R124). -/
def execTw (ring : Fin 64) (ins : Ins) (block : Block) (s : State) : Host.Outcome State Fault Refusal :=
  let n := ring.val
  nextOf s <| runIns s n opTw ins fun isn s =>
    let s := touchGalley s n
    let l := s.forme.galley
    let t := ins.unit
    let k := entryCount ins
    let len := imageLen s l t ins.index
    guardRows s ins (tableChecks s n ins (k * len)) fun s =>
      match block with
      | none => operandFault s n isn ins.operand
      | some b =>
        let imgs := (List.range k).map (blockImage b len)
        if (indexedTable t).isSome then
          placed s (placeRows s l t ((List.range k).map (fun i => (ins.index + i, blockImage b len i))))
        else placed s (placeAssoc (fun l x => assocWrite s l t ins.index x) imgs 0 l)

/-- TD (R208, R211, R212). -/
def execTd (ring : Fin 64) (ins : Ins) (block : Block) (s : State) : Host.Outcome State Fault Refusal :=
  let n := ring.val
  nextOf s <| runIns s n opTd ins fun isn s =>
    let s := touchGalley s n
    let l := s.forme.galley
    let t := ins.unit
    let k := entryCount ins
    let indexed := (indexedTable t).isSome
    let len := if indexed then 0 else imageLen s l t ins.index
    guardRows s ins ((indexed && ins.operand ≠ 0, Status.eCheck) :: tableChecks s n ins (k * len)) fun s =>
      if indexed then
        placed s (.inl ((List.range k).foldl
          (fun l i => logPut l { table := t, row := ins.index + i, key := 0, del := false, image := 0 }) l))
      else
        match block with
        | none => operandFault s n isn ins.operand
        | some b =>
          placed s (placeAssoc (fun l x => assocDelete s l t ins.index x) ((List.range k).map (blockImage b len)) 0 l)

/-- TM (R209 to R212, R586, R587). -/
def execTm (ring : Fin 64) (ins : Ins) (block : Block) (s : State) : Host.Outcome State Fault Refusal :=
  let n := ring.val
  nextOf s <| runIns s n opTm ins fun isn s =>
    let s := touchGalley s n
    let l := s.forme.galley
    let t := ins.unit
    let k := entryCount ins
    let len := imageLen s l t ins.index
    guardRows s ins (tableChecks s n ins (k * 2 * len)) fun s =>
      match block with
      | none => operandFault s n isn ins.operand
      | some b =>
        let mask (i : Nat) : Nat := blockImage b len (2 * i)
        let value (i : Nat) : Nat := blockImage b len (2 * i + 1)
        if (indexedTable t).isSome then
          placed s (placeRows s l t ((List.range k).map (fun i =>
            (ins.index + i, maskInto (rowWith s l t (ins.index + i)) (mask i) (value i) (8 * len)))))
        else placed s (placeAssoc (fun l i => assocModify s l t ins.index (mask i) (value i)) (List.range k) 0 l)

-- LOCK, LOCKAT, GDROP

/-- Ports with GATE_PAST_POLICY REJECT whose list the galley writes with a base time before `t` (R824). -/
def gatesPast (s : State) (t : Nat) : Bool :=
  let l := s.forme.galley
  (List.range 256).any (fun p => rdB s (rPortTimeCfg p) 1 && l.any (fun w => w.table = 0x640 && w.row / 1024 = p)
    && decide (glBase (rowWith s l 0x640 (p * 1024)) < t))

/-- Accept the galley for imposition (R128). -/
def acceptLock (s : State) (l : PendLock) : State :=
  let s := setPhase (setGalleyState s gsPending) 0
  { s with forme := { s.forme with pendLock := some l, impFail := none } }

/-- LOCK (R128, R136, R215, R824). -/
def execLock (ring : Fin 64) (ins : Ins) (s : State) : Host.Outcome State Fault Refusal :=
  let n := ring.val
  nextOf s <| runIns s n opLock ins fun isn s =>
    let s := touchGalley s n
    guardIns s ((decide (4 ≤ ins.flags) || !allZero ins, Status.eCheck) :: galleyChecks s n
        ++ [(gatesPast s (opNs s), .eTimePast)]) fun s =>
      (acceptLock s { isn := isn, ring := n, origin := ringOrigin n, flags := ins.flags, timed := false, lateOk := false,
                      sec := 0, ns := 0 }, .wait .lock)

/-- LOCKAT (R141, R142, R144, R82, R824): the program goes on once it is accepted (R81). -/
def execLockat (ring : Fin 64) (ins : Ins) (block : Block) (s : State) : Host.Outcome State Fault Refusal :=
  let n := ring.val
  nextOf s <| runIns s n opLockat ins fun isn s =>
    guardIns s ((decide (8 ≤ ins.flags) || ins.unit ≠ 0 || ins.index ≠ 0 || ins.operand % 16 ≠ 0, Status.eCheck)
        :: galleyChecks s n) fun s =>
      match block with
      | none => operandFault s n isn ins.operand
      | some b =>
        let sec := leAt b 0 8
        let ns := leAt b 12 4
        guardIns s [(decide (1024 ≤ pendingTimed s), .eFull),
            (decide (tNs sec ns < opNs s) || gatesPast s (tNs sec ns), .eTimePast)] fun s =>
          (acceptLock s { isn := isn, ring := n, origin := ringOrigin n, flags := ins.flags, timed := true,
                          lateOk := ins.flags.testBit 2, sec := sec, ns := ns }, .accepted)

/-- A pending LOCKAT is cancelled: it completes with E_ABORT, unless its ring has been reset (R127). -/
def cancelLock (s : State) : State :=
  match s.forme.pendLock with
  | none => s
  | some l => finishLock s l .eAbort 0

/-- GDROP (R121, R127, R218). -/
def execGdrop (ring : Fin 64) (ins : Ins) (s : State) : Host.Outcome State Fault Refusal :=
  let n := ring.val
  nextOf s <| runIns s n opGdrop ins fun _ s =>
    let s := touchGalley s n
    guardIns s [(decide (4 ≤ ins.flags) || !allZero ins, .eCheck), (galleyState s = gsNone, .eNoGalley),
        (galleyOwner s ≠ n && !ownerGone s, .ePerm)] fun s =>
      (setPhase (galleyNone (cancelLock (if galleyState s = gsPending then withdraw s else s))) 0, .done .ok 0)

-- TRD

/-- Octets of one entry image in a TRD slot (R221, R513). -/
def trdImageLen (s : State) (t : Nat) : Nat :=
  match indexedTable t with
  | some x => x.2
  | none => if isCase t then 56 else 8 * (2 * asaN s [] t + 1)

/-- A row as TRD returns it (R225, R440, R657). -/
def trdRow (s : State) (t r : Nat) : Nat :=
  let img := liveRow s t r
  if t = 0x101 then setBits img 40 32 (parseReach s (live s) r)
  else if t = 0x630 ∧ ¬ hasDeep s then setBits img (64 + 43) (64 + 4) 0 % 2 ^ 128
  else img

/-- One slot: its status word and image (R221, R588, R514). -/
def trdSlot (s : State) (t i : Nat) : List Byte :=
  let len := trdImageLen s t
  let slot (valid learned : Bool) (img : Nat) : List Byte := leBytes 8 (b2n learned * 2 + b2n valid) ++ leBytes len img
  if (indexedTable t).isSome then slot true false (trdRow s t i)
  else if isCase t then
    match s.forme.case.find? (fun e => e.loc = i && entLive e (live s)) with
    | some e => slot true e.learned (caseWhole (wordsOfSlots e.slots) e.key e.result)
    | none => slot false false 0
  else
    match s.forme.asa.find? (fun e => e.table = t && e.loc = i && asaLive e (live s)) with
    | some e => slot true false e.image
    | none => slot false false 0

/-- One slot of a read by key: found in the live parity, or the key image unchanged (R223). -/
def trdKeySlot (s : State) (k : List Byte) : List Byte :=
  let img := leNat (k.take 56)
  match (caseImage 3 img img).bind (fun c => s.forme.case.find? (fun e => e.key = c.key && entLive e (live s))) with
  | some e => leBytes 8 (b2n e.learned * 2 + 1) ++ leBytes 56 (caseWhole (wordsOfSlots e.slots) e.key e.result)
  | none => leBytes 8 0 ++ slice k 0 56

/-- Locations or rows of a table (R193). -/
def trdSize (t : Nat) : Nat :=
  match indexedTable t with
  | some x => x.1
  | none => if isCase t then 1048576 else if t = 0x500 then 16384 else 65536

/-- A key image whose TYPE none of the three widths of R1170 fits (R223). -/
def trdKeyBad (k : List Byte) : Bool :=
  let img := leNat (k.take 56)
  (caseImage 3 img img).isNone

/-- TRD (R171 to R173, R221 to R225). `destOk` tells whether the destination block can be read and written, `keys` the key
images that host software placed in its slots. [log 77 DEDUCED] -/
def execTrd (ring : Fin 64) (ins : Ins) (destOk : Bool) (keys : List (List Byte)) (s : State) :
    Host.Outcome State Fault Refusal :=
  let n := ring.val
  nextOf s <| runIns s n opTrd ins fun isn s =>
    let t := ins.unit
    let k := entryCount ins
    let byKey := ins.index.testBit 31
    let first := bits ins.index 30 0
    let listed := tableListed t
    guardIns s [(decide (256 ≤ ins.flags) || (byKey && (!isCase t || first ≠ 0)) || ins.operand % 16 ≠ 0
          || (listed && decide (65568 < 32 + k * (8 + trdImageLen s t))), .eCheck),
        (!listed || (!byKey && decide (trdSize t < first + k)), .eAddr),
        ((indexedTable t).isSome && (List.range k).any (fun i => rowAbsent s t (first + i)), .eAbsent)] fun s =>
      if ¬ destOk then operandFault s n isn ins.operand
      else if byKey ∧ (List.range k).any (fun i => trdKeyBad (keys.getD i [])) then (s, .done .eCheck 0)
      else
      let slots := if byKey then (List.range k).flatMap (fun i => trdKeySlot s (keys.getD i []))
        else (List.range k).flatMap (fun i => trdSlot s t (first + i))
      (ownerWrite s n ins.operand (leBytes 8 (formeGen s) ++ leBytes 8 isn ++ leBytes 8 k ++ leBytes 8 0 ++ slots),
        .done .ok (formeGen s))

end Sys2Proof.Machine
end

