-- ==== Sys2Proof/Machine/CaseCmds.lean ====
section
/-! DEFINITION. Commands of the learn engine, the ager, the rebalancer and the seeds (chapter The Case: Exact Match and
Address Learning). -/

namespace Sys2Proof.Machine

/-- LEARN_OPERATION (R547 to R551): the learn engine takes the next queued request in round-robin order of tiles.
[log 38 DEDUCED] -/
def execLearnOperation (s : State) : Host.Outcome State Fault Refusal :=
  nextOf s <| caseTurn s <|
    match findFrom 8 s.learn.learnRr (fun t => !(smGet (fun _ => []) s.learn.learnQ t).isEmpty) with
    | none => s
    | some t =>
      match smGet (fun _ => []) s.learn.learnQ t with
      | [] => s
      | r :: rest =>
        learnAct { s with learn := { s.learn with
          learnQ := smSet (fun _ => []) s.learn.learnQ t rest
          learnRr := (t + 1) % 8 } } r false

/-- REBALANCER_RETRY (R558, R559). -/
def execRebalancerRetry (s : State) : Host.Outcome State Fault Refusal :=
  nextOf s <| caseTurn s <|
    match s.learn.rebal with
    | [] => s
    | r :: rest => learnAct { s with learn := { s.learn with rebal := rest } } r true

/-- AGE_CLOCK_TICK (R560): every 100 ms of elapsed time. -/
def execAgeClockTick (s : State) : Host.Outcome State Fault Refusal :=
  nextOf s <| onlyIf (s.learn.ageAt + 100 * cyclesPerMs ≤ s.cycle) s
    { s with learn := { s.learn with
      ageClock := (s.learn.ageClock + 1) % 65536
      ageAt := s.learn.ageAt + 100 * cyclesPerMs } }

/-- AGEING_REMOVAL (R561, R562): a learned entry whose age has reached AGE_LIMIT leaves both parities. -/
def execAgeingRemoval (bd mac : Nat) (s : State) : Host.Outcome State Fault Refusal :=
  nextOf s <| caseTurn s <|
    match learnedFind s bd mac with
    | none => s
    | some e =>
      onlyIf (0 < ageLimit s && decide (ageLimit s ≤ ageOf s e)) s <|
        learnRecord (removeEnt s e) 2 bd mac (entDest e) 0

/-- A write of LEARN_FLUSH queues a request: SCOPE is below 5 and fewer than 16 of the host's wait (R563, Table 8.8).
[log 106 DEDUCED] -/
def learnFlushTaken (s : State) (value : Word) : Bool :=
  decide (field value 38 36 < 5) && decide ((s.learn.flushQ.filter (fun q => q.host)).length < 16)

/-- A write of LEARN_FLUSH (R563, Table 8.8). [log 20 DEDUCED] -/
def learnFlushWrite (s : State) (value : Word) : State :=
  let sc := field value 38 36
  if 5 ≤ sc then s
  else if 16 ≤ (s.learn.flushQ.filter (fun q => q.host)).length then wrB s rCaseStatus 62 true
  else
    { s with learn := { s.learn with flushQ := s.learn.flushQ ++
      [{ scope := sc, dest := field value 17 0, bd := if sc = 4 then rdF s rLearnFlushKey 61 48 else field value 31 18,
         mac := rdF s rLearnFlushKey 47 0, host := true, since := s.learn.writes }] } }

/-- A learned entry matches a flush (Table 8.8's SCOPE) and was last written before the request was queued (R565).
[log 38 DEDUCED] -/
def flushMatch (q : FlushReq) (e : CaseEnt) : Bool :=
  e.learned && decide (e.lastWrite ≤ q.since) &&
  (if q.scope = 0 then true
   else if q.scope = 1 then entDest e = q.dest
   else if q.scope = 2 then keyBd e.key = q.bd
   else if q.scope = 3 then entDest e = q.dest && keyBd e.key = q.bd
   else e.key = fdbKey q.bd q.mac)

/-- FLUSH_COMPLETE (R565): the oldest request's entries leave both parities, and EV_FDB_FLUSH is posted. -/
def execFlushComplete (s : State) : Host.Outcome State Fault Refusal :=
  nextOf s <| caseTurn s <|
    match s.learn.flushQ with
    | [] => s
    | q :: rest =>
      let gone := s.forme.case.filter (flushMatch q)
      let s := { s with learn := { s.learn with flushQ := rest } }
      let s := setCase s (s.forme.case.filter (fun e => !flushMatch q e))
      let s := gone.foldl (fun s e => learnRecord s 3 (keyBd e.key) (keyMac e.key) (entDest e) 0) s
      postRate s cyclesPerSec (if (q.scope = 1 ∨ q.scope = 3) ∧ q.dest < 266 then q.dest + 1 else 0) 0x0405
        [(1, q.scope), (4, q.dest), (2, q.bd), (4, gone.length)]

/-- A write of seed register i is taken only while the Case holds no occupied slot (R525). -/
def seedWritable (s : State) : Bool := caseSlots s true + caseSlots s false = 0

def seedWrite (s : State) (i : Nat) (mask value : Word) : State :=
  if seedWritable s then wr s (rCaseSeed i) ((rd s (rCaseSeed i) &&& ~~~ mask) ||| (value &&& mask)) else s

end Sys2Proof.Machine
end

