-- ==== Sys2Proof/Machine/RecorderCmds.lean ====
section
/-! DEFINITION. Recorder commands (chapter The Event Recorder and the Change Journal). -/

namespace Sys2Proof.Machine

/-- RECORD_WRITE (R966 to R969, R971, R985 to R987): MP firmware writes the oldest staged journal part or handles the
oldest event posting; while the MP restarts, or the recorder is STARTING, postings wait. After a drop, room brings one
EV_RECORDER_DROP record. `ok1` is the first read-back; `retry` tells of the second write: 0 it verifies, 1 it does not, 2 nor
does the write to the Colophon area. [log 74 DEDUCED] -/
def execRecordWrite (fromJournal : Bool) (ok1 : Bool) (retry : Fin 3) (s : State) : Host.Outcome State Fault Refusal :=
  let ok2 := decide (retry.val = 0)
  let col := decide (retry.val < 2)
  nextOf s <|
    if ¬ s.mp.mpUp ∨ recState s = 3 then s
    else if fromJournal then
      match s.rcd.jrQ with
      | [] => s
      | p :: q => writeTo { s with rcd := { s.rcd with jrQ := q } } 1 (markLate s p) ok1 ok2 col
    else
      match s.rcd.evQ with
      | [] => s
      | p :: q =>
        let s := handleEvent { s with rcd := { s.rcd with evQ := q } } (markLate s p) ok1 ok2 col
        let d := (rd s rRecDrop).toNat
        if d ≠ s.rcd.dropsReported then
          let s := writeTo s 0 (mkPosting s 0x4B02 hwOrigin [(4, d - s.rcd.dropsReported)]) ok1 ok2 col
          { s with rcd := { s.rcd with dropsReported := d } }
        else s

/-- COALESCE_WINDOW_CLOSE (R972): the oldest window whose COALESCE_MS has passed closes. -/
def execCoalesceWindowClose (s : State) : Host.Outcome State Fault Refusal :=
  nextOf s <|
    match s.rcd.windows with
    | [] => s
    | w :: ws =>
      onlyIf (w.opened + coalesceCycles s ≤ s.cycle && s.mp.mpUp) s <|
        closeWindow { s with rcd := { s.rcd with windows := ws } } w true true true

/-- HOURS_CELL_WRITE (R964): the operating-hours cell takes the elapsed operating time, once per minute. -/
def execHoursCellWrite (s : State) : Host.Outcome State Fault Refusal :=
  nextOf s <| onlyIf (stSupervise ≤ devState s && s.rcd.hoursCell + 60 * cyclesPerSec ≤ s.rcd.opCycles) s
    { s with rcd := { s.rcd with hoursCell := s.rcd.opCycles } }

/-- A write of REC_CTRL: its RW fields, and RETRY (R989), which leaves a test pattern in every slot of the failed store; `pass` tells
whether every slot verified. -/
def recCtrlWrite (s : State) (mask value : Word) (pass : Bool) : State :=
  let v := (rd s rRecCtrl &&& ~~~ mask) ||| (value &&& mask)
  let s := wrF (wrF s rRecCtrl 47 32 (field v 47 36 <<< 4 + field v 35 32)) rRecCtrl 15 0 (field v 15 0)
  if (value &&& mask).getLsbD 16 ∧ recState s = 1 then
    let k := s.rcd.recFailed
    let s := { s with
      fresh := s.fresh + 1
      rcd := { s.rcd with
        pattern := smSet (fun _ => 0) s.rcd.pattern k (s.fresh + 1)
        recs := s.rcd.recs.filter (fun x => x.1 / 2 ^ 20 ≠ k)
        recBadSlots := s.rcd.recBadSlots.filter (fun x => x / 2 ^ 20 ≠ k) } }
    if pass then
      let s := recNotify (putRecord s 3 (mkPosting s 0x0B05 hwOrigin [(1, k), (4, storeSize k)])) 0x0B05
      wrB (wrF s rRecStatus 1 0 0) rRecStatus 3 false
    else s
  else s

end Sys2Proof.Machine
end

