-- ==== Sys2Proof/Machine/Counters.lean ====
section
/-! DEFINITION. Counter sets and the instructions CSNAP, CRD and CCLR (chapters Ermel Instruction Reference; Counters,
Peals, High-Water Marks and Mirrors). -/

namespace Sys2Proof.Machine

/-- Units of a counter set, values per unit, and whether an instruction names one unit only (Tables 4.9 and 13.3).
[log 27 DEDUCED] -/
def setInfo (id : Nat) : Option (Nat × Nat × Bool) :=
  if id = 0x0800 then some (256, 96, true)
  else if id = 0x0801 then some (266, 16, true)
  else if id = 0x0802 then some (8, 64, true)
  else if id = 0x0803 then some (262144, 2, false)
  else if id = 0x0804 then some (65536, 3, false)
  else if id = 0x0805 then some (48, 9, true)
  else if id = 0x0806 then some (266, 9, false)
  else none

/-- A unit of a set that this variant lacks (R3, R6). -/
def setUnitAbsent (s : State) (id u : Nat) : Bool :=
  if id = 0x0802 then !tilePresent s u
  else if id = 0x0803 then false
  else if id = 0x0804 then !tilePresent s (u / 8192)
  else if id = 0x0805 then absentOff s (rPerf u 0)
  else portAbsent s u

/-- Value i of unit u, as a read returns it (R844, Table 13.3). -/
def ctrValue (s : State) (id u i : Nat) : Nat :=
  if id = 0x0800 then (rd s (rMacStat u i)).toNat
  else if id = 0x0801 then
    if i < 8 then (rd s (rPortDrop u i)).toNat
    else if i = 12 then (if u < 264 then (rd s (rTxUnprot u)).toNat else 0)
    else if 256 ≤ u then 0
    else if i = 8 then (rd s (rStormDrop u)).toNat
    else if i = 9 then (rd s (rTsqLost u)).toNat
    else if i = 10 then (rd s (rLaunchLate u)).toNat
    else if i = 11 then (rd s (rLaunchDropped u)).toNat
    else 0
  else if id = 0x0802 then (rd s (rTileCtr u i)).toNat
  else if id = 0x0805 then
    if 43 ≤ u then 0
    else if i = 0 then (readReg s false (rPerf u 0)).toNat else (rd s (rPerf u (0x80 + 8 * (i - 1)))).toNat
  else ctr s (ctrKey id u i)

/-- Give one counter a value (R239). -/
def setValue (s : State) (id u i v : Nat) : State :=
  let put (o : Nat) : State := wr s o (BitVec.ofNat 64 v)
  if id = 0x0800 then put (rMacStat u i)
  else if id = 0x0801 then
    if i < 8 then put (rPortDrop u i)
    else if i = 12 ∧ u < 264 then put (rTxUnprot u)
    else if 256 ≤ u then s
    else if i = 8 then put (rStormDrop u)
    else if i = 9 then put (rTsqLost u)
    else if i = 10 then put (rLaunchLate u)
    else if i = 11 then put (rLaunchDropped u)
    else s
  else if id = 0x0802 then put (rTileCtr u i)
  else if id = 0x0805 then if 43 ≤ u ∨ i = 0 then s else put (rPerf u (0x80 + 8 * (i - 1)))
  else setCtr s (ctrKey id u i) v

/-- The increments of counters that fall in this core cycle: what each has gained since the cycle began, or since a CCLR of the
cycle cleared it (R239). -/
def cycleGain (s : State) (l : List (Nat × Nat × Nat)) : List Nat :=
  l.map (fun x =>
    let v := ctrValue s x.1 x.2.1 x.2.2
    if s.core.now.cleared.any (fun y => y.1 = x) then v
    else match s.core.now.start with
      | none => 0
      | some b =>
        let v0 := ctrValue { s with regs := b.1, ctrs := b.2 } x.1 x.2.1 x.2.2
        if v0 ≤ v then v - v0 else v)

/-- Clear a half-range bit; a capture leaves one that rose in this very cycle (R846). -/
def clearHalf (s : State) (cclr : Bool) (o b : Nat) : State :=
  if !cclr && s.core.now.half.contains (o, b) then s else wrB s o b false

/-- Clear the half-range bit of value i of unit u, and with `wrap` its wrap bit too (R239, R344, R345, R841). -/
def clearLatched (s : State) (id u i : Nat) (wrap : Bool) : State :=
  if id = 0x0800 then
    let s := clearHalf s wrap (rStatHalf u (i / 64)) (i % 64)
    if wrap then wrB s (rStatWrap u (i / 64)) (i % 64) false else s
  else if id = 0x0803 then if i = 1 then clearHalf s wrap (rFlowHalf (u / 64)) (u % 64) else s
  else if id = 0x0804 then clearHalf s wrap (rPolHalf (u / 64)) (u % 64)
  else if id = 0x0805 then if wrap ∧ 0 < i ∧ u < 43 then wrB s (rPerf u 0x10) (i - 1) false else s
  else if id = 0x0806 then clearHalf s wrap (rQueueHalf u) i
  else s

/-- The values that units `first` to `first + k - 1` of a set name, in the order of Table 13.3. -/
def setPlaces (id first k per : Nat) : List (Nat × Nat × Nat) :=
  (List.range k).flatMap (fun u => (List.range per).map (fun i => (id, first + u, i)))

def placeValues (s : State) (l : List (Nat × Nat × Nat)) : List Nat := l.map (fun x => ctrValue s x.1 x.2.1 x.2.2)

/-- The values of a CSNAP or a Peal capture: of a counter that a CCLR reached in this cycle, the value before the clear (R847). -/
def captureValues (s : State) (l : List (Nat × Nat × Nat)) : List Nat :=
  l.map (fun x => ((s.core.now.cleared.find? (fun y => y.1 = x)).map (·.2)).getD (ctrValue s x.1 x.2.1 x.2.2))

/-- Clear the latched bits of a list of counters. -/
def clearAllLatched (s : State) (l : List (Nat × Nat × Nat)) (wrap : Bool) : State :=
  l.foldl (fun s x => clearLatched s x.1 x.2.1 x.2.2 wrap) s

-- CSNAP, CRD, CCLR (R233 to R242)

def ciFirst (ins : Ins) : Nat := bits ins.index 19 0
def ciUnits (ins : Ins) : Nat := bits ins.index 31 20 + 1

/-- The checks of a counter instruction; `flagMax` bounds FLAGS and `block` says that it writes a destination block.
[log 11 DEDUCED] -/
def ctrChecks (s : State) (ins : Ins) (flagMax : Nat) (block : Bool) : List (Bool × Status) :=
  let one : Bool := (setInfo ins.unit).elim false (fun x => x.2.2 && ciUnits ins ≠ 1)
  let long : Bool := (setInfo ins.unit).elim false (fun x => decide (65568 < 32 + 8 * x.2.1 * ciUnits ins))
  let range : Bool := (setInfo ins.unit).elim true (fun x => decide (x.1 < ciFirst ins + ciUnits ins))
  [(decide (flagMax ≤ ins.flags) || one || (if block then ins.operand % 16 ≠ 0 || long else ins.operand ≠ 0), .eCheck),
   (range, .eAddr),
   ((List.range (ciUnits ins)).any (fun u => setUnitAbsent s ins.unit (ciFirst ins + u)), .eAbsent)]

/-- The counters a counter instruction names. -/
def ctrPlaces (ins : Ins) : List (Nat × Nat × Nat) :=
  setPlaces ins.unit (ciFirst ins) (ciUnits ins) ((setInfo ins.unit).elim 0 (fun x => x.2.1))

/-- The header of a capture of `count` values (R235). -/
def captureHead (s : State) (isn count : Nat) : List Byte :=
  t128Bytes (opTime s) s.clk.opGen ++ leBytes 8 isn ++ leBytes 8 count

/-- The block of a capture (R235). -/
def captureBlock (s : State) (isn : Nat) (values : List Nat) : List Byte :=
  captureHead s isn values.length ++ values.flatMap (leBytes 8)

/-- CSNAP (R233 to R236, R240, R241): every value in one core cycle; no half-range bit is cleared (R841). -/
def execCsnap (ring : Fin 64) (ins : Ins) (destOk : Bool) (s : State) : Host.Outcome State Fault Refusal :=
  let n := ring.val
  nextOf s <| runIns s n opCsnap ins fun isn s =>
    guardIns s (ctrChecks s ins 4 true) fun s =>
      if ¬ destOk then operandFault s n isn ins.operand
      else
        let v := captureValues s (ctrPlaces ins)
        (valueWrite s n isn ins.operand (captureBlock s isn v), .done .ok v.length)

/-- CRD reads unit `u` of a set (R237): its values, and with READ_ACK their half-range bits cleared (R238). [log 28 DEDUCED] -/
def crdUnit (s : State) (set u : Nat) (ack : Bool) : State × List Byte :=
  let l := setPlaces set u 1 ((setInfo set).elim 0 (fun x => x.2.1))
  (if ack then clearAllLatched s l false else s, (placeValues s l).flatMap (leBytes 8))

/-- The units that a CRD has still to read, in order: the state and the whole block. -/
def crdRest (s : State) (set : Nat) (ack : Bool) (block : List Byte) (units : List Nat) : State × List Byte :=
  units.foldl (fun x u => let r := crdUnit x.1 set u ack; (r.1, x.2 ++ r.2)) (s, block)

/-- A CRD reads its next unit; after the last its block is written and it completes (R237). [log 28 DEDUCED] -/
def crdPoll (s : State) (n : Nat) : State :=
  match (rt s n).waiting with
  | some ⟨isn, op, flags, .crd done first units set ack dest block count⟩ =>
    let r := crdUnit s set (first + done) ack
    let b := block ++ r.2
    if done + 1 < units then
      setRt r.1 n { rt r.1 n with waiting := some ⟨isn, op, flags, .crd (done + 1) first units set ack dest b count⟩ }
    else completeIns (valueWrite r.1 n isn dest b) n isn op flags .ok count false
  | _ => s

/-- CRD (R233 to R235, R237, R238, R241): the first unit in this cycle, each further one in the following cycle.
[log 28 DEDUCED] -/
def execCrd (ring : Fin 64) (ins : Ins) (destOk : Bool) (s : State) : Host.Outcome State Fault Refusal :=
  let n := ring.val
  nextOf s <| runIns s n opCrd ins fun isn s =>
    guardIns s (ctrChecks s ins 8 true) fun s =>
      if ¬ destOk then operandFault s n isn ins.operand
      else
        let count := (ctrPlaces ins).length
        let ack := ins.flags.testBit 2
        let r := crdUnit s ins.unit (ciFirst ins) ack
        let b := captureHead s isn count ++ r.2
        if ciUnits ins = 1 then (valueWrite r.1 n isn ins.operand b, .done .ok count)
        else (r.1, .wait (.crd 1 (ciFirst ins) (ciUnits ins) ins.unit ack ins.operand b count))

end Sys2Proof.Machine
end

