-- ==== Sys2Proof/Machine/Peals.lean ====
section
/-! DEFINITION. Peal schedules (chapter Counters, Peals, High-Water Marks and Mirrors). -/

namespace Sys2Proof.Machine

def pealSlots (s : State) (k : Nat) : Nat := rdF s (rPeal k 0x30) 47 32
def pealPages (s : State) (k : Nat) : Nat := rdF s (rPeal k 0x30) 11 0
def pealHead (s : State) (k : Nat) : Nat := rdF s (rPeal k 0x38) 16 0
def pealTail (s : State) (k : Nat) : Nat := rdF s (rPeal k 0x40) 16 0
def pealEnabled (s : State) (k : Nat) : Bool := rdB s (rPeal k 0) 63
def pealActive (s : State) (k : Nat) : Bool := rdB s (rPeal k 0x48) 0

/-- A list entry (R865): unit ID, first unit, units; its low 16 bits are 0. -/
def pealEntry (w : Nat) : Nat × Nat × Nat := (bits w 63 48, bits w 35 16, bits w 47 36 + 1)

/-- A list entry that R868 rejects; bits marked 0 that are not 0 make it invalid too. -/
def pealEntryBad (s : State) (w : Nat) : Bool :=
  let e := pealEntry w
  match setInfo e.1 with
  | none => true
  | some x => bits w 15 0 ≠ 0 || decide (x.1 < e.2.1 + e.2.2) || (x.2.2 && e.2.2 ≠ 1)
      || (List.range e.2.2).any (fun u => setUnitAbsent s e.1 (e.2.1 + u))

/-- Values a list totals. -/
def pealTotal (l : List (Nat × Nat × Nat)) : Nat :=
  sumBy l (fun e => e.2.2 * (setInfo e.1).elim 0 (fun x => x.2.1))

/-- The registers of schedule k are outside their ranges for a list of `v` values (R868). -/
def pealRegsBad (s : State) (k v : Nat) : Bool :=
  let len := rdF s (rPeal k 0) 22 16
  let p := rdF s (rPeal k 0x18) 39 0
  len = 0 || decide (64 < len) || pealSlots s k = 0 || decide (p < 1000000) || decide (1000000000000 < p)
    || decide (1000000000 ≤ rdF s (rPeal k 0x10) 63 32) || decide (1048576 < v) || decide (pealPages s k * 4096 < 72 + 8 * v)

/-- EV_PEAL_FAULT (Table 13.14): 0 LIST_ERR, 1 FAULT; the failing entry or address. -/
def pealFaultEvent (s : State) (k kind at_ : Nat) : State := postHw s 0x8E03 [(1, k), (1, kind), (8, at_)]

/-- The first occurrence at or after operational time (R867). -/
def pealFirst (s : State) (k : Nat) : Nat :=
  let b := tNs (rd s (rPeal k 8)).toNat (rdF s (rPeal k 0x10) 63 32)
  let now := opNs s
  if now ≤ b then b else b + (now - b + pealPeriod s k - 1) / pealPeriod s k * pealPeriod s k

/-- A write of 1 to ENABLE (R867, R868): `entries` are the 8-byte entries read from PEAL_LIST, none when the read fails.
[log 58 DEDUCED] -/
def pealEnable (s : State) (k : Nat) (entries : Option (List Nat)) : State :=
  let len := rdF s (rPeal k 0) 22 16
  let fail (s : State) (at_ : Nat) : State :=
    pealFaultEvent (wrB (wrB s (rPeal k 0) 63 false) (rPeal k 0x48) 1 true) k 0 at_
  match entries with
  | none => fail s (rd s (rPeal k 0x20)).toNat
  | some l =>
    let l := l.take len
    let list := l.map pealEntry
    let bad := l.findIdx (pealEntryBad s)
    if bad < l.length ∨ l.length < len ∨ pealRegsBad s k (pealTotal list) then fail s bad
    else
      let s := setPeal (wrB s (rPeal k 0) 63 true) k { pealOf s k with list := list, seq := 0, passed := 0, sched := 0, held := false }
      wrB (setPealNext s k (pealFirst s k)) (rPeal k 0x48) 0 true

/-- A write of 0 to ENABLE (R876); a slot is always complete here. -/
def pealDisable (s : State) (k : Nat) : State := wrB (wrB s (rPeal k 0) 63 false) (rPeal k 0x48) 0 false

/-- A write of PEAL_CTRL takes effect: of a schedule in operation only one that clears ENABLE (R864). [log 106 DEDUCED] -/
def pealCtrlTaken (s : State) (k : Nat) (mask value : Word) : Bool :=
  !pealEnabled s k || (mask.getLsbD 63 && !value.getLsbD 63)

/-- A write of PEAL_CTRL (R864, R867, R876): while ENABLE is 1 only ENABLE is taken. -/
def pealCtrlWrite (s : State) (k : Nat) (mask value : Word) (entries : Option (List Nat)) : State :=
  let o := rPeal k 0
  let m := mask &&& (fieldMask 63 63 ||| fieldMask 47 36 ||| fieldMask 22 16)
  let v := (rd s o &&& ~~~ m) ||| (value &&& m)
  if pealEnabled s k then if v.getLsbD 63 then s else pealDisable s k
  else
    let s := wr s o (setField v 63 63 0)
    if v.getLsbD 63 then pealEnable s k entries else s

/-- A write of another register of schedule k (R864, R873). -/
def pealRegWrite (s : State) (k o : Nat) (mask value : Word) : State :=
  let w := (regInfo o).elim 0 (fun i => i.rw)
  let m := mask &&& BitVec.ofNat 64 w
  let v := (rd s o &&& ~~~ m) ||| (value &&& m)
  if o = rPeal k 0x38 then setPeal (wr s o v) k { pealOf s k with armed := true }
  else if pealEnabled s k then s else wr s o v

/-- The counters a schedule's list names, in order. -/
def pealPlaces (p : Peal) : List (Nat × Nat × Nat) :=
  p.list.flatMap (fun e => setPlaces e.1 e.2.1 e.2.2 ((setInfo e.1).elim 0 (fun x => x.2.1)))

/-- The octets of a slot before its trailer (Table 13.8). -/
def pealSlot (s : State) (seq : Nat) (late : Bool) (passed sched : Nat) (values : List Nat) : List Byte :=
  t128Bytes (opTime s) s.clk.opGen ++ leBytes 8 seq ++ leBytes 8 (b2n late * 2 ^ 63 + passed) ++ leBytes 8 values.length
    ++ t128Bytes (sched * 65536) s.clk.opGen ++ leBytes 8 0 ++ values.flatMap (leBytes 8)

/-- Schedule k has an occurrence to capture: operational time has reached it, or a step has passed over it. -/
def pealDue (s : State) (k : Nat) : Bool :=
  pealActive s k && (decide (0 < (pealOf s k).passed) || decide ((pealOf s k).next ≤ opNs s))

/-- What one capture takes: whether it is late, the occurrences it stands for, the last of them; and the schedule after
it. [log 58 DEDUCED] -/
def pealTake (s : State) (k : Nat) : State × Bool × Nat × Nat :=
  let p := pealOf s k
  if 0 < p.passed then (setPeal s k { p with passed := 0, held := false }, true, p.passed, p.sched)
  else (setPealNext (setPeal s k { p with held := false }) k (p.next + pealPeriod s k), p.held, 1, p.next)

/-- The slot address of the next capture. -/
def pealAddr (s : State) (k : Nat) : Nat :=
  (rd s (rPeal k 0x28)).toNat + pealTail s k % max (pealSlots s k) 1 * (pealPages s k * 4096)

/-- The ring of schedule k holds no free slot (R870). -/
def pealFull (s : State) (k : Nat) : Bool :=
  let m := 2 * max (pealSlots s k) 1
  (pealTail s k + m - pealHead s k % m) % m = pealSlots s k

/-- An occurrence is skipped (R870). [log 58 DEDUCED] -/
def pealSkip (s : State) (k : Nat) : State :=
  let s := bump s (rPeal k 0x60)
  postRate s cyclesPerSec k 0x4E02 [(1, k), (4, (rd s (rPeal k 0x60)).toNat)]

/-- One capture (R869, R871 to R874, R878): `failAt` is the host address at which its write fails (R875). -/
def pealCapture (s : State) (k : Nat) (failAt : Option Nat) : State :=
  let a := pealAddr s k
  let t := pealTake s k
  let s := t.1
  let p := pealOf s k
  if pealFull s k then pealSkip s k
  else
    let l := pealPlaces p
    let seq := p.seq + 1
    let body := pealSlot s seq t.2.1 t.2.2.1 t.2.2.2 (captureValues s l)
    let s := setPeal (clearAllLatched s l false) k { p with seq := seq }
    let s := if t.2.1 then bump s (rPeal k 0x68) else s
    let owner := Agent.host (globalLink s)
    match failAt with
    | some f =>
      let s := emit s (.memWrite owner a (body.take (f - a)))
      pealFaultEvent (wrB (pealDisable s k) (rPeal k 0x48) 2 true) k 1 f
    | none =>
      let s := emit s (.memWrite owner a (body ++ leBytes 8 seq))
      let s := wrF s (rPeal k 0x40) 16 0 ((pealTail s k + 1) % (2 * max (pealSlots s k) 1))
      if rdB s (rPeal k 0) 36 ∧ (pealOf s k).armed then
        raiseReg (setPeal s k { pealOf s k with armed := false }) (globalLink s) (rPeal k 0)
      else s

/-- Due captures that the interval of a QUOIN.C holds back are marked (R871). -/
def pealHold (s : State) : State :=
  if captureFree s 64 then s
  else (List.range 16).foldl (fun s k => if pealDue s k then setPeal s k { pealOf s k with held := true } else s) s

/-- PEAL_CAPTURE (R869 to R874, R878): in the interval of a QUOIN.C no capture begins (R89, R871). -/
def execPealCapture (k : Fin 16) (s : State) : Host.Outcome State Fault Refusal :=
  nextOf s <| onlyIf (pealDue s k.val) s <|
    if captureFree s 64 then pealCapture s k.val none else pealHold s

/-- PEAL_FAULT (R875): the write of a due capture fails at a host address. -/
def execPealFault (k : Fin 16) (addr : Nat) (s : State) : Host.Outcome State Fault Refusal :=
  nextOf s <| onlyIf (pealDue s k.val && !pealFull s k.val && captureFree s 64) s (pealCapture s k.val (some addr))

end Sys2Proof.Machine
end

