-- ==== Sys2Proof/Machine/Ingress.lean ====
section
/-! DEFINITION. Stages 3 to 9 of a frame: the receive SecY, the header gather, the forme stamp, the decision and admission
(chapters Architecture and the Path of a Frame, and those of each stage). -/

namespace Sys2Proof.Machine

-- Stage 3

/-- An older frame of the same port, no mirror copy, answers to `q`. -/
def olderOn (s : State) (f : Frame) (q : Frame → Bool) : Bool :=
  s.path.frames.any (fun g => g.port = f.port && g.mirrorOf.isNone && decide (g.id < f.id) && q g)

/-- The frame has not reached stage 5. -/
def waits (f : Frame) : Bool := f.stage = .mac || f.stage = .clear || f.stage = .reentry

/-- A frame that stage 3 takes: received at a front port, or back from a recirculation port. -/
def beforeStage3 (f : Frame) : Bool := (f.stage = .mac || f.stage = .reentry) && !f.receiving && f.mirrorOf.isNone

/-- Stage 3 checks the frames of a port in their order of arrival, and decides one before it goes on (R373). [log 33 DEDUCED] -/
def stage3Turn (s : State) (f : Frame) : Bool :=
  !olderOn s f (fun g => g.icvPending || (beforeStage3 g && (rxSecyOf s g.port g.octets).isSome))

/-- Stage 3 decrypts a frame of a front port (Table 13.6). -/
def decryptPerf (s : State) (p : Nat) : State := if p < 256 then perf s (8 + p / 8) 0x0203 1 else s

/-- RECEIVE_SECY_CHECK (R365 to R375): a whole frame with a receive SecY is checked; `icvOk` and `plain` are what the cipher
unit computes, whether the ICV verifies and the user data in clear. -/
def execReceiveSecyCheck (frame : Nat) (icvOk : Bool) (plain : List Byte) (s : State) : Host.Outcome State Fault Refusal :=
  nextOf s <|
    match findFrame s frame with
    | none => s
    | some f =>
      match rxSecyOf s f.port f.octets with
      | none => s
      | some i =>
        onlyIf (beforeStage3 f && stage3Turn s f) s <|
          let r := rxCheck s i f.octets (f.octets.length - 4) false icvOk plain
          match r.2 with
          | .drop => removeFrame r.1 frame
          | .whole => s
          | .strip _ _ => s
          | .pass o dec => putFrame (if dec then decryptPerf r.1 f.port else r.1) { f with
              octets := o, stage := .clear, rxSecy := if dec then some i else none, decrypted := f.decrypted || dec }
          | .pending o a pn strict tag => putFrame (decryptPerf r.1 f.port) { f with
              octets := o, stage := .clear, rxSecy := some i, rxSa := a, rxPn := pn, rxStrict := strict, icvPending := true
              decrypted := true, rxTag := some tag }

/-- The learn request of a frame whose fate is decided goes to its tile's queue, or is discarded (R545, R378). -/
def settleLearn (s : State) (f : Frame) (good : Bool) : State :=
  match f.learn with
  | none => s
  | some r =>
    let s := putFrame s { f with learn := none }
    if good then queueLearn s (ingressTile f.port) r else s

/-- Mirror copies to P256 to P265 that wait for the ICV of a frame are released, or dropped with it (R377, R378).
[log 114 DESIGN CHOICE] -/
def settleMirrors (s : State) (id : Nat) (good : Bool) : State :=
  (s.path.frames.filter (fun g => g.icvOf = some id)).foldl (fun s g =>
    if good then reapFrame (putFrame s { g with icvPending := false, icvOf := none }) g.id
    else g.mirrorOf.elim s (fun m => mirrorDrop (removeFrame s g.id) m)) s

/-- The octets of a frame as it came, its SecTAG, ICV and FCS included. -/
def cameWith (f : Frame) : Nat := f.octets.length + f.rxTag.elim 0 (fun t => t.2.1 - t.1 + 16)

/-- STOMP_ICV_DECIDED (R376 to R378, rows 9 to 11 of Table 6.5): the ICV of a frame released under STOMP is decided, once it has
arrived; a failure that drops the frame stomps its started copies. -/
def execStompIcvDecided (frame : Nat) (ok : Bool) (s : State) : Host.Outcome State Fault Refusal :=
  nextOf s <|
    match findFrame s frame with
    | none => s
    | some f =>
      onlyIf (f.icvPending && !f.receiving && f.icvOf.isNone) s <|
        let i := f.rxSecy.getD 0
        let a := f.rxSa
        let g := { f with icvPending := false }
        if ok then
          reapFrame (settleLearn (putFrame (settleMirrors (acceptPn (rxOk s a (cameWith f)) i a f.rxPn) frame true) g) g true) frame
        else if f.rxStrict then
          icvFailed (settleLearn (putFrame (settleMirrors (rxNotValid s i a f.rxPn) frame false) g) g false) { g with learn := none }
        else
          let s := acceptPn (wrapAdd s (rSa true a 0x30) 48 1) i a f.rxPn
          reapFrame (settleLearn (putFrame (settleMirrors s frame true) g) g false) frame

-- Stages 5 to 7

/-- RECIRC_RESIDENCY_MAX in core cycles (Table 3.11). -/
def residencyMax (s : State) : Nat := min (max (rdF s rFormeCtrl 41 32) 10) 1000 * cyclesPerUs

/-- A frame too old counts in RECIRC_AGED of its tile (R155 to R157). -/
def recircAgedCount (s : State) (t : Nat) : State :=
  let s := tileCount s t 48
  postRate s cyclesPerMs t 0x4915 [(1, t), (4, (rd s (rTileCtr t 48)).toNat)]

/-- A recirculated frame too old is dropped (R155). -/
def recircAgedDrop (s : State) (id t : Nat) : State :=
  let s := match findFrame s id with
    | some f => if f.receiving then putFrame s { f with stage := .held, charge := 0 } else removeFrame s id
    | none => s
  recircAgedCount s t

/-- Step 1 of R608: DEST from the Case, or from R532 and R533. -/
def caseStep (s : State) (kindA : Nat) (bd dst : Nat) (a b : Option CaseEnt) (kindB : Nat) (w : Work) : Work :=
  let d := w.d
  if kindB = 2 ∧ b.isSome then { w with d := { d with destRaw := b.map entDest } }
  else
    match a with
    | some e => { w with d := { d with destRaw := some (entDest e) } }
    | none =>
      if kindA ≠ 1 then w
      else
        let flood : Work := { w with d := { d with destRaw := some (2 * 2 ^ 16 + rdF s (rBdCfg bd) 27 12) } }
        if dst.testBit 40 then flood
        else
          let u := min (rdF s (rBdCfg bd) 11 10) 2
          if u = 0 then flood
          else if u = 1 then setSnare w 3 5
          else { w with d := { d with disp := 2, snare := none }, dropK := 13 }

/-- ACTION of a HOST or FLOW result (Table 8.2). -/
def entAction48 (e : CaseEnt) : Nat := bits e.result 47 32

/-- Steps 2 to 4 of R608 (R610): the rows of the Case hits, then the ASA's. `asa` is the action row of the ASA winner, the
miss treatment, or none when no profile qualifies (R580). -/
def actionSteps (s : State) (parity : Bool) (kindA kindB : Nat) (a b : Option CaseEnt) (w : Work) : Work :=
  let w := match a with
    | some e => if 2 ≤ kindA ∧ entAction48 e ≠ 0 then applyRow (row s parity 0x400 (entAction48 e)) false w else w
    | none => w
  match b with
  | some e => if kindB = 2 ∧ entAction48 e ≠ 0 then applyRow (row s parity 0x400 (entAction48 e)) false w else w
  | none => w

/-- The ASA's part of a decision (R579, R580, R610). -/
def asaStep (s : State) (f : Frame) (pipe : Nat) (flipped : List Nat) (w : Work) : State × Work :=
  match asaProfile s f.parity f.parse.profile f.parse.stick with
  | none => (s, setSnare w 3 4)
  | some p =>
    let prof := row s f.parity 0x310 p
    let r := asaSearch s pipe (0x300 + p) (asaWords (prWidth prof)) f.parity (asaKey prof f.hv0) flipped
    match r.2 with
    | some e => (r.1, applyRow (row s f.parity 0x400 (entAction e.image (asaWords (prWidth prof)))) true w)
    | none =>
      if prMissRule prof = 0 then (r.1, applyRow (row s f.parity 0x400 (prMissAction prof)) true w)
      else if prMissRule prof = 1 then (r.1, setSnare w 3 4)
      else (r.1, { w with d := { w.d with disp := 2, snare := none }, dropK := 20 })

/-- The flow hash of a frame (R640, R580): the field-mask row of its ASA profile, or row 0. -/
def frameHash (s : State) (f : Frame) : Nat :=
  let m := match asaProfile s f.parity f.parse.profile f.parse.stick with
    | some p => if f.parse.status ≤ 1 then prLsMask (row s f.parity 0x310 p) else 0
    | none => 0
  flowHash (row s f.parity 0x410 m) f.hv0

/-- A lookup whose Case reads were not all served within 10 core cycles (R531). -/
def caseSlip (s : State) (tile : Nat) (late : Bool) : State :=
  if ¬ late then s
  else
    let s := tileCount s tile 14
    postRate s cyclesPerSec 0 0x4406 [(1, tile), (4, (rd s (rTileCtr tile 14)).toNat)]

/-- What stages 6 to 8 decide: the state, the working decision, the learn request and whether LIMIT_ACTION drops the frame
(1) or snares it (2). [log 36 DEDUCED] -/
def decideFrame (s : State) (f : Frame) (pipe : Nat) (slip : Bool × Bool) (flipped : List Nat) :
    State × Work × Option LearnReq × Nat :=
  let tile := pipe / 2
  let w0 : Work := { d := {}, hv := f.hv0 }
  if 2 ≤ f.parse.status then (s, setSnare w0 3 (f.parse.status - 2), none, 0)
  else
    let ka := rd s (rKeyselA f.parse.profile)
    let kindA := field ka 32 30
    let kindB := field ka 29 28
    let s := caseSlip s tile (slip.1 && (keyA s f.parse.profile f.hv0).isSome)
    let s := caseSlip s tile (slip.2 && (keyB s f.parse.profile f.hv0).isSome)
    let bd := frameBd ka f.hv0
    let dst := hvField f.hv0 (field ka 63 54) 48
    let src := hvField f.hv0 (field ka 53 44) 48
    let s := caseRead (caseRead s (keyA s f.parse.profile f.hv0)) (keyB s f.parse.profile f.hv0)
    let a := (keyA s f.parse.profile f.hv0).bind (fun k => caseLookup s f.parity k.1 k.2)
    let b := (keyB s f.parse.profile f.hv0).bind (fun k => caseLookup s f.parity k.1 k.2)
    let w := caseStep s kindA bd dst a b kindB w0
    let w := match a with
      | some e => if kindA = 1 ∧ e.result.testBit 31 then { w with d := { w.d with caseSecy := some (bits e.result 30 21) } } else w
      | none => w
    let w := actionSteps s f.parity kindA kindB a b w
    let x := asaStep s f pipe flipped w
    let l := if kindB = 1 then learnCheck x.1 tile f.port bd src b else (x.1, 0, none)
    let w := x.2
    let w := if f.parse.status = 1 ∧ (row l.1 f.parity 0x101 f.parse.profile).testBit 17 then
        { w with d := { w.d with disp := 3, snare := some 3 } } else w
    (l.1, w, (if w.d.noLearn then none else l.2.2), l.2.1)

/-- Where a decision sends its frame (R611, R643, R644, R684, R1158): the state with the drop counted, and the decision with
destKind 3 when it drops the frame and 0 when it forwards nothing; R611 is of DISP FORWARD or none. [log 85 DEDUCED] -/
def resolveDest (s : State) (f : Frame) (tile : Nat) (w : Work) : State × Decision :=
  let d := w.d
  let lost (s : State) : State × Decision := (s, { d with destKind := if d.disp = 4 then 0 else 3 })
  if d.disp = 2 then (tileCount s tile w.dropK, { d with destKind := 3 })
  else if d.disp = 3 then (s, { d with destKind := 0 })
  else
    let count (k : Nat) : State := if d.disp = 4 then s else tileCount s tile k
    match d.destRaw with
    | none => lost (count 21)
    | some x =>
      let k := bits x 17 16
      let v := bits x 15 0
      if k = 0 then (s, { d with destKind := 1, dest := v })
      else if k = 1 then
        match resolveGroup s f.parity (v % 256) f.flowHash with
        | some (p, tag) => (s, { d with destKind := 1, dest := p, egressTag := tag.orElse (fun _ => d.egressTag) })
        | none => lost (lsNoLive s tile (v % 256))
      else if k = 2 then
        if bits (row s f.parity 0x420 v) 7 0 = 0 then (tileCount s tile 21, { d with destKind := 0 })
        else (s, { d with destKind := 2, dest := v })
      else lost (count 22)

/-- The decision itself drops its frame: DISP DROP, or under R611. -/
def decidesDrop (d : Decision) : Bool :=
  d.disp = 2 || (decide (d.disp < 3 || 4 < d.disp) && d.destRaw.elim true (fun x => bits x 17 16 = 3))

-- The end of stage 8 and stage 9

/-- The storm meter a flooded frame of a front port meets (R759): 0 BC, 1 MC, 2 UUC; the state and whether it passes.
[log 37 DEDUCED] -/
def stormStep (s : State) (f : Frame) (d : Decision) : State × Bool :=
  if f.port < 256 ∧ d.destKind = 2 then
    stormMeter s f.port (if isBcast f.octets then 0 else if isGroup f.octets then 1 else 2)
  else (s, true)

/-- A frame whose decision names a policer of another tile (R612). -/
def policerMiss (s : State) (tile : Nat) (d : Decision) : State :=
  d.policer.elim s (fun i => if i / 8192 = tile then s else tileCount s tile 23)

/-- Policing at the end of stage 8 (R748 to R753): the decision with its colour and class, none for a red drop.
[log 42 DEDUCED] -/
def policeStep (s : State) (f : Frame) (tile : Nat) (w : Work) (d : Decision) : State × Option Decision :=
  match d.policer with
  | none => (s, some d)
  | some i =>
    if i / 8192 ≠ tile ∨ d.destKind = 3 then (s, some d)
    else
      let img := policerRow s i
      let m := policerMeter s i f.len w.hv
      let s := countColour m.1 i m.2
      let d := { d with colour := m.2, tc := if m.2 = 1 ∧ img.testBit 180 then bits img 179 177 else d.tc }
      if m.2 = 2 ∧ ¬ img.testBit 181 then
        let s := tileCount s tile 40
        (postRate s cyclesPerSec tile 0x0702 [(1, tile), (2, i), (4, (rd s (rTileCtr tile 40)).toNat)], none)
      else (s, some d)

/-- Offer the forwarded copies of a frame (R660, R669, R684, R688, R691). -/
def forwardStep (s : State) (f : Frame) (d : Decision) : State :=
  if d.destKind = 1 then
    let g := { f with cutThrough := cutThroughOk s f d.dest }
    let s := if g.cutThrough then perf s (ingressTile f.port) 0x0108 1 else s
    offerCopy (putFrame s g) f.id (mkCopy s g d.dest d.tc 0 0 true)
  else if d.destKind = 2 then
    let mask := bits (row s f.parity 0x420 d.dest) 7 0
    let s := putFrame s { f with tiles := mask }
    if voqMode s then admitMulticast s f d.tc mask
    else
      ((List.range 8).filter (fun u => mask.testBit u)).foldl (fun s u =>
        (groupPorts s (live s) d.dest u).foldl (fun s p =>
          offerCopy s f.id { mkCopy s f p d.tc 0 0 true with multicast := true }) s) s
  else s

/-- A frame that stage 9 leaves without a copy is gone, unless it still arrives or awaits its ICV. -/
def settleFrame (s : State) (id : Nat) : State :=
  match findFrame s id with
  | none => s
  | some f =>
    if s.path.copies.any (fun c => c.frame = id) then s
    else if f.receiving ∨ f.icvPending then putFrame s { f with stage := .held, charge := 0 }
    else removeFrame s id

/-- From the decision to admission: the end of stage 8 in order, then stage 9. [log 36 DEDUCED, 37 DEDUCED] -/
def finishIngress (s : State) (f : Frame) (tile : Nat) (w : Work) (learn : Option LearnReq) (limit : Nat) : State :=
  let w := if limit = 2 ∧ w.d.disp ≠ 2 then setSnare w 3 6 else w
  let r := if limit = 1 ∧ ¬ decidesDrop w.d then (s, w.d) else resolveDest s f tile w
  let d := if limit = 1 then { r.2 with disp := 2, snare := none, destKind := 3 } else r.2
  let wait := f.receiving || f.icvPending
  let f := { f with hv := w.hv, dec := d, learn := if wait then learn else none }
  let s := putFrame r.1 f
  let s := match learn with
    | some q => if wait then s else queueLearn s tile q
    | none => s
  let s := policerMiss (countPairs s d.pairCase d.pairAsa f.len) tile d
  let st := stormStep s f d
  if ¬ st.2 then settleFrame st.1 f.id
  else
    let pl := policeStep st.1 f tile w d
    match pl.2 with
    | none => settleFrame pl.1 f.id
    | some d =>
      let f := { f with dec := d }
      let s := putFrame pl.1 f
      let s := mirrorMask s d.mirror f (f.octets.take (if f.receiving then f.octets.length else f.octets.length - 4)) f.decrypted
      let s := match d.snare with
        | some r => if d.disp = 3 ∨ d.disp = 4 then snareMeter s f.id r else s
        | none => s
      settleFrame (forwardStep s ((findFrame s f.id).getD f) d) f.id

/-- Stages 5 to 9 of a frame the header gather releases. -/
def ingress (s : State) (f : Frame) (slip : Bool × Bool) (flipped : List Nat) : State :=
  let tile := ingressTile f.port
  if 0 < f.pass ∧ residencyMax s < s.cycle - f.firstStamp then recircAgedDrop s f.id tile
  else
    let f := if f.stamped then f else { f with parity := live s, stamped := true, firstStamp := s.cycle }
    let pipe := ingressPipe f.port f.flowHash
    let s := perf s (pipe / 2) (0x0101 + pipe % 2) 1
    let p := parseFrame s f pipe
    let f := p.2
    let f := { f with flowHash := frameHash p.1 f }
    let s := putFrame p.1 f
    let x := decideFrame s f pipe slip flipped
    finishIngress x.1 f tile x.2.1 x.2.2.1 x.2.2.2

/-- A held frame the header gather may release: past stage 3, or with nothing for stage 3 to do (R366). -/
def headerReady (s : State) (f : Frame) : Bool :=
  f.mirrorOf.isNone && (f.stage = .clear || (beforeStage3 f && (rxSecyOf s f.port f.octets).isNone))

/-- The frames of a port go in their order. -/
def gatherReady (s : State) (f : Frame) : Bool := headerReady s f && !olderOn s f waits

/-- The other headers ready for a search slot, each by its port and flow hash: those of frames held, and of frames still arriving
that an earlier cycle left without a slot. -/
def readyHeads (s : State) (f : Frame) : List (Nat × Nat) :=
  (s.path.frames.filter (fun g => g.id ≠ f.id && gatherReady s g)).map (fun g => (g.port, g.flowHash))
    ++ (s.path.hdrWait.filter (fun x => x.2 && x.1 ≠ f.port)).map (fun x =>
      (x.1, ((lineCopy s x.1).bind (fun c => findFrame s c.frame)).elim 0 (·.flowHash)))

/-- Header slots of a pipeline taken in this core cycle. -/
def slotsTaken (s : State) (pipe : Nat) : Nat := if s.path.hdrCycle = s.cycle + 1 then smGet (fun _ => 0) s.path.hdrUsed pipe else 0

/-- A header has its turn: of a cycle's headers those of the lower-numbered pipelines come first (R495, R665, R750), a pipeline
takes a search slot each (R592 to R594), front ports first (R27), its two port blocks in turn (R28), and a recirculation ingress path takes its
sources in turn (R25). [log 33 DEDUCED] -/
def headerTurn (s : State) (f : Frame) : Bool :=
  let pipe := ingressPipe f.port f.flowHash
  let heads := (readyHeads s f).filter (fun x => ingressPipe x.1 x.2 = pipe)
  let taken := slotsTaken s pipe
  !(s.path.hdrCycle = s.cycle + 1 && decide (pipe < s.path.hdrPipe)) && decide (taken < searchSlots s.cycle) &&
  if f.port < 256 then
    smGet (fun _ => 0) s.path.blockTurn pipe = f.port / 8 % 2
      || !heads.any (fun x => decide (x.1 < 256) && x.1 / 8 % 2 ≠ f.port / 8 % 2)
  else
    decide (taken + (heads.filter (fun x => decide (x.1 < 256))).length < searchSlots s.cycle)
      && (smGet (fun _ => 0) s.path.entryTurn (ingressTile f.port) = b2n (decide (264 ≤ f.port))
        || !(readyHeads s f).any (fun x => decide (256 ≤ x.1) && ingressTile x.1 = ingressTile f.port
          && decide (264 ≤ x.1) != decide (264 ≤ f.port)))

/-- A header takes its slot, and the turn passes on. [log 33 DEDUCED] -/
def takeSlot (s : State) (f : Frame) : State :=
  let pipe := ingressPipe f.port f.flowHash
  let s := setHdrWait s f.port false
  let used := smSet (fun _ => 0) (if s.path.hdrCycle = s.cycle + 1 then s.path.hdrUsed else []) pipe (slotsTaken s pipe + 1)
  if f.port < 256 then
    { s with path := { s.path with hdrCycle := s.cycle + 1, hdrPipe := pipe, hdrUsed := used
                                   blockTurn := smSet (fun _ => 0) s.path.blockTurn pipe (1 - f.port / 8 % 2) } }
  else
    { s with path := { s.path with hdrCycle := s.cycle + 1, hdrPipe := pipe, hdrUsed := used
                                   entryTurn := smSet (fun _ => 0) s.path.entryTurn (ingressTile f.port) (1 - b2n (decide (264 ≤ f.port))) } }

/-- Charges of R648 and R649, before admission. -/
def withCharge (s : State) (f : Frame) : Frame :=
  { f with charge := if f.receiving then cellsOf (maxLen s f.port) else cellsOf f.octets.length, cells := cellsOf f.octets.length }

/-- The frame arriving is a preemptable one (R313). -/
def gatherPre (s : State) (g : Gather) : Bool := mmEn s g.port && g.preempt

/-- A frame as it returns from a recirculation port with octets `o` (R23, R153, R163). -/
def returned (f : Frame) (c : Copy) (o : List Byte) : Frame :=
  { f with
    octets := o, port := c.port, stage := .reentry, pass := f.pass + 1, rxSecy := none, rxSa := 0, rxPn := 0, rxStrict := false
    decrypted := f.decrypted && !c.enc, rxTag := none, rxPre := false, icvOf := none
    len := 0, hv0 := 0, hv := 0, parse := {}, dec := {}, complete := true, cells := 0, charge := 0, region := 0, cutThrough := false
    cellIdx := [], wroteAt := 0, arrAt := 0, arrHeld := 0, tiles := 0
    bad := none, icvPending := false, mirrorOf := none, secret := false, mask := 0, receiving := false, learn := none
    fragWait := none }

/-- A port can release the first octets of a frame still arriving: no frame of the port is before it. -/
def earlyFree (s : State) (p : Nat) (pre : Bool) : Bool :=
  !s.path.frames.any (fun f => f.port = p && f.mirrorOf.isNone && (waits f || f.receiving && f.rxPre == pre))

/-- The frame whose first octets the header gather of a port holds while the rest arrives (R31, R299, R649): one that a front port
receives, no MAC control frame, or the one that a recirculation port is sending. [log 34 DESIGN CHOICE] -/
def arriving (s : State) (g : Gather) : Option Frame :=
  if g.port < 256 then
    if portRuns s g.port ∧ etherType g.octets ≠ 0x8808 ∧ 64 ≤ g.octets.length ∧ g.octets.length < g.length ∧ earlyFree s g.port (gatherPre s g) then
      some (rxStamp s g.port g.rxTime { id := s.path.nextFrame, octets := g.octets, port := g.port, firstPort := g.port, stage := .clear,
                                        len := g.length, receiving := true, complete := false, rxPre := gatherPre s g })
    else none
  else
    match lineCopy s g.port with
    | none => none
    | some c =>
      match findFrame s c.frame with
      | none => none
      | some f =>
        let o := c.out.take (sentOctets s c)
        let n := max (wholeOctets s c) 64
        if g.port < 264 ∧ c.ptp = none ∧ 64 ≤ o.length ∧ o.length < n ∧ earlyFree s g.port false then
          some { returned f c o with id := s.path.nextFrame, stage := .clear, len := n, receiving := true, complete := false }
        else none

/-- A frame still arriving as stage 3 lets it go on (R366, R375), with stage 3's counts; none where only the whole frame decides.
`user` is the user data in clear of an encrypted frame: what has arrived of it, or of a recirculated frame all of it.
[log 34 DESIGN CHOICE] [log 34 DESIGN CHOICE] -/
def earlyFrame (s : State) (f : Frame) (user : List Byte) : Option (State × Frame) :=
  match rxSecyOf s f.port f.octets with
  | none => some (s, f)
  | some i =>
    if ¬ stage3Turn s f then none
    else
      let r := rxCheck s i f.octets (f.len - 4) true false user
      let cutLen (tag : Nat × Nat × Bool) : Nat := f.len - (tag.2.1 - tag.1) - 16
      match r.2 with
      | .pass o _ => some (r.1, { f with octets := o })
      | .strip o tag => some (r.1, { f with octets := o, len := cutLen tag, rxTag := some tag })
      | .pending o a pn strict tag => some (decryptPerf r.1 f.port, { f with
          octets := o, len := cutLen tag, rxSecy := some i, rxSa := a, rxPn := pn, rxStrict := strict
          icvPending := true, decrypted := true, rxTag := some tag })
      | .drop => none
      | .whole => none

/-- HEADER_GATHER_RELEASE (R31 and stages 5 to 9 of Table 1.3): a frame that holds the lesser of its length and the reach that
applies, in its turn; the header of a frame still arriving that gets no slot waits for one (R27, R28). [log 33 DEDUCED] -/
def execHeaderGatherRelease (g : Gather) (s : State) : Host.Outcome State Fault Refusal :=
  nextOf s <| onlyIf (devState s = stRun) s <|
    match g.frame with
    | some id =>
      match findFrame s id with
      | none => s
      | some f =>
        onlyIf (gatherReady s f && headerTurn s f) s
          (ingress (takeSlot s f) (withCharge s { f with len := f.octets.length }) (g.slipA, g.slipB) g.flipped)
    | none =>
      match (arriving s g).bind (fun f => earlyFrame s f g.user) with
      | none => s
      | some (s', f) =>
        onlyIf (decide (min f.len (gatherReach s g.port) ≤ f.octets.length)) s <|
          if headerTurn s f then ingress (addFrame (takeSlot s' f) f) (withCharge s f) (g.slipA, g.slipB) g.flipped
          else setHdrWait s f.port true

/-- RECIRC_AGED (R156, R157): a frame in a recirculation queue whose age has reached RECIRC_RESIDENCY_MAX is removed. -/
def execRecircAged (frame : Nat) (s : State) : Host.Outcome State Fault Refusal :=
  nextOf s <|
    match findFrame s frame with
    | none => s
    | some f =>
      let inQueue := s.path.copies.filter (fun c => c.frame = frame && decide (256 ≤ c.port) && decide (c.port < 264)
        && (c.stage = .queued || c.stage = .egress || c.stage = .crossing))
      let tiles := if f.stage = .reentry ∧ 0 < f.pass then [ingressTile f.port]
        else (List.range 8).filter (fun t => inQueue.any (fun c => c.port = 256 + t))
      onlyIf (decide (residencyMax s ≤ s.cycle - f.firstStamp) && f.stamped && !tiles.isEmpty) s <|
        let s := inQueue.foldl dropCopy s
        tiles.foldl recircAgedCount (if f.stage = .reentry then removeFrame s frame else s)

end Sys2Proof.Machine
end

