-- ==== Sys2Proof/Machine/Egress.lean ====
section
/-! DEFINITION. Stages 12 to 14 of a copy: the egress search, write-back, tag operations, slugs, protection, transmission
and timestamps. -/

namespace Sys2Proof.Machine

-- Write-back (R620 to R624)

/-- Give the bits of a mask their values in the n octets from `lo` on, those below `own` only (R622). -/
def putOctets (o : List Byte) (lo n mask val own : Nat) : List Byte :=
  let oct (v k : Nat) : Byte := BitVec.ofNat 8 (v >>> (8 * (n - 1 - k)))
  (o.take lo) ++ (((List.range n).zip ((o.drop lo).take n)).map (fun x =>
    if lo + x.1 < own then (x.2 &&& ~~~ oct mask x.1) ||| (oct val x.1 &&& oct mask x.1) else x.2)) ++ o.drop (lo + n)

/-- Write the changed bits of one field back; a bit that a later field covers belongs to that field (R621, R451). -/
def writeField (o : List Byte) (own hv0 hv : Nat) (later : List (Nat × Nat × Nat)) (x : Nat × Nat × Nat) : List Byte :=
  let w := x.2.1
  let cover := later.foldl (fun m y => m ||| ((2 ^ y.2.1 - 1) <<< y.1)) 0
  let chg := bits (hv0 ^^^ hv) (x.1 + w - 1) x.1 &&& ((2 ^ w - 1) ^^^ bits cover (x.1 + w - 1) x.1)
  let b := x.2.2
  let n := (b % 8 + w + 7) / 8
  let at_ (v : Nat) : Nat := v <<< (8 * n - b % 8 - w)
  if chg = 0 then o else putOctets o (b / 8) n (at_ chg) (at_ (bits hv (x.1 + w - 1) x.1)) own

/-- Write every changed extraction-area bit back (R621, R622). -/
def writeFields (own hv0 hv : Nat) : List (Nat × Nat × Nat) → List Byte → List Byte
  | [], o => o
  | x :: t, o => writeFields own hv0 hv t (writeField o own hv0 hv t x)

/-- The ones' complement sum of octets as 16-bit words, folded. -/
def sum16 (o : List Byte) : Nat :=
  let n := (o.length + 1) / 2
  (List.range n).foldl (fun a i => let x := a + beAt o (2 * i) 2; if x < 65536 then x else x - 65535) 0

/-- Octets of a header differ. -/
def octetsDiffer (a b : List Byte) (lo n : Nat) : Bool := !((a.drop lo).take n == (b.drop lo).take n)

/-- An IPv4 header's checksum recomputed at `b` over `n` octets. -/
def ip4Checksum (o : List Byte) (b n : Nat) : List Byte :=
  let z := patch o (b + 10) (beBytes 2 0)
  patch z (b + 10) (beBytes 2 (65535 - sum16 (slice z b n)))

/-- Recompute the IPv4 checksum of every KIND 1 header that write-back changed (R623). -/
def fixIp4 (old : List Byte) (chain : List (Nat × Nat × Nat × Nat)) (o : List Byte) : List Byte :=
  chain.foldl (fun o x =>
    let n := max (beAt old x.2.2.1 1 % 16 * 4) 20
    if x.2.1 = 1 ∧ octetsDiffer old o x.2.2.1 n then ip4Checksum o x.2.2.1 n else o) o

/-- What changed octets of `[lo, lo+n)` add to a ones' complement sum, modulo 65,535. -/
def sumDelta (a b : List Byte) (lo n : Nat) : Int :=
  (List.range n).foldl (fun d i =>
    d + (if i % 2 = 0 then 256 else 1) * ((beAt b (lo + i) 1 : Int) - (beAt a (lo + i) 1 : Int))) 0

/-- The L3 template of a chain with its addresses, and the template that follows it (R624, R470). [log 44 PRESUMED] -/
def l3Of : List (Nat × Nat × Nat × Nat) → Option ((Nat × Nat) × (Nat × Nat))
  | (_, 1, b, _) :: (_, _, c, h) :: _ => some ((b + 12, 8), (c, h))
  | (_, 2, b, _) :: (_, 3, _, _) :: (_, _, c, h) :: _ => some ((b + 8, 32), (c, h))
  | (_, 2, b, _) :: (_, k, c, h) :: t => if k = 3 then l3Of t else some ((b + 8, 32), (c, h))
  | _ :: t => l3Of t
  | [] => none

/-- The TCP or UDP checksum update of R624, L4_CSUM 1 TCP, 2 UDP: where the checksum lies, and the change of the sum. -/
def l4Update (l4 frag : Nat) (old : List Byte) (chain : List (Nat × Nat × Nat × Nat)) (o : List Byte) : Option (Nat × Int × Bool) :=
  if (l4 ≠ 1 ∧ l4 ≠ 2) ∨ 2 ≤ frag then none
  else
    match l3Of chain with
    | none => none
    | some ((a, an), (b, h)) =>
      let c := b + (if l4 = 1 then 16 else 6)
      some (c, sumDelta old o a an + sumDelta old (patch o c ((old.drop c).take 2)) b h, l4 = 2)

/-- [log 44 PRESUMED] -/
def fixL4 (u : Option (Nat × Int × Bool)) (o : List Byte) : List Byte := u.elim o (fun x => csumAdd o x.1 x.2.1 x.2.2)

-- Tag operations (R625 to R629)

/-- The octet after the last VLAN tag, where the EtherType stands. -/
def etherAt (o : List Byte) : Nat → Nat → Nat
  | 0, b => b
  | k + 1, b => if isVlan o b then etherAt o k (b + 4) else b

/-- [log 44 PRESUMED] -/
def isMpls (o : List Byte) (b : Nat) : Bool := beAt o b 2 = 0x8847 || beAt o b 2 = 0x8848

/-- What a tag operation does: the octets, none when the copy is dropped (R629); whether a pop missed (R627). [log 44 PRESUMED] -/
def tagApply (op : Nat) (o : List Byte) : Option (List Byte) × Bool :=
  let k := bits op 39 37
  let e := etherAt o o.length 12
  let cut (b n : Nat) : List Byte := o.take b ++ o.drop (b + n)
  let ins (b : Nat) (x : List Byte) : List Byte := o.take b ++ x ++ o.drop b
  if k = 1 then (if isVlan o 12 then (some (cut 12 4), false) else (some o, true))
  else if k = 2 then
    if ¬ isMpls o e then (some o, true)
    else if ¬ (beAt o (e + 4) 1).testBit 0 then (some (cut (e + 2) 4), false)
    else
      let n := beAt o (e + 6) 1 / 16
      if n = 4 then (some (patch (cut (e + 2) 4) e (beBytes 2 0x0800)), false)
      else if n = 6 then (some (patch (cut (e + 2) 4) e (beBytes 2 0x86DD)), false)
      else (none, false)
  else if k = 3 then
    (some (ins 12 (beBytes 2 (if op.testBit 32 then 0x88A8 else 0x8100) ++ beBytes 2 (bits op 15 0))), false)
  else if k = 4 then
    let s := if isMpls o e then 0 else 1
    let l := beBytes 4 (bits op 31 12 * 4096 + bits op 11 9 * 512 + s * 256 + bits op 7 0)
    let o' := ins (e + 2) l
    (some (if s = 1 then patch o' e (beBytes 2 0x8847) else o'), false)
  else (some o, false)

/-- Apply a copy's tag operations (R626): the first three, each later one counted; none when the copy is dropped. -/
def tagOps (s : State) (tile : Nat) (ops : List Nat) (o : List Byte) : State × Option (List Byte) :=
  let one (a : State × Option (List Byte)) (op : Nat) : State × Option (List Byte) :=
    match a.2 with
    | none => a
    | some o =>
      let r := tagApply op o
      let s := if r.2 then tileCount a.1 tile 25 else a.1
      match r.1 with
      | none => (tileCount s tile 26, none)
      | some o => (s, some o)
  let r := (ops.take 3).foldl one (s, some o)
  ((List.range (ops.length - 3)).foldl (fun s _ => tileCount s tile 24) r.1, r.2)

-- Slugs (R630 to R633)

/-- [log 45 UNVERIFIED] -/
def slugLen (i : Nat) : Nat := min (bits i 6 0) 64

/-- Push a slug image (R630, R632, R633); `h` is the flow hash. [log 45 UNVERIFIED] -/
def slugPush (i h : Nat) (o : List Byte) : List Byte :=
  let n := slugLen i
  if n = 0 then o
  else
    let at_ := if i.testBit 8 then 12 else 0
    let data := (List.range n).map (fun k => BitVec.ofNat 8 (i >>> (64 + 8 * k)))
    let o := o.take at_ ++ data ++ o.drop at_
    let len (off : Nat) : Nat := o.length - (at_ + off)
    let u := at_ + bits i 54 48
    let o := if i.testBit 56 then patch o u (beBytes 2 (0xC000 + h % 2 ^ 14)) else o
    let o := if i.testBit 55 then patch (patch o (u + 4) (beBytes 2 (len (bits i 54 48)))) (u + 6) (beBytes 2 0) else o
    let o := if i.testBit 47 then patch o (at_ + bits i 46 40 + 4) (beBytes 2 (len (bits i 46 40))) else o
    if i.testBit 39 then ip4Checksum (patch o (at_ + bits i 38 32 + 2) (beBytes 2 (len (bits i 38 32)))) (at_ + bits i 38 32) 20 else o

-- PTP recognition (R792)

/-- The PTP header of a PTP event message, and its UDP checksum. -/
def ptpFind (o : List Byte) : Option (Nat × Option Nat) :=
  let b := afterTags o 2
  let e := beAt o b 2
  let ip := b + 2
  let r : Option (Nat × Option Nat) :=
    if e = 0x88F7 then some (ip, none)
    else if e = 0x0800 ∧ beAt o ip 1 = 0x45 ∧ beAt o (ip + 9) 1 = 17 ∧ beAt o (ip + 22) 2 = 319 then some (ip + 28, some (ip + 26))
    else if e = 0x86DD ∧ beAt o ip 1 / 16 = 6 ∧ beAt o (ip + 6) 1 = 17 ∧ beAt o (ip + 42) 2 = 319 then some (ip + 48, some (ip + 46))
    else none
  r.filter (fun x => decide (x.1 < o.length) && decide (beAt o x.1 1 % 16 ≤ 3))

/-- Write PTP octets with the UDP checksum updated (R798, R799). -/
def ptpPatch (o : List Byte) (c : Option Nat) (lo : Nat) (new : List Byte) : List Byte :=
  let o' := patch o lo new
  match c with
  | none => o'
  | some c => csumAdd o' c (sumDelta o o' (lo - (lo + c) % 2) (new.length + 1)) true

/-- The correction of R798 (`one`) and R799 (`res`, the residence time in 2^-16 ns) by a transmit timestamp.
[log 48 DESIGN CHOICE] -/
def ptpCorrect (o : List Byte) (at_ : Nat × Option Nat) (one : Bool) (res : Option Int) (tx : Nat) : List Byte :=
  let cf : Int := signedOf 64 (beAt o (at_.1 + 8) 8) + (if one then (fracOf tx : Int) else 0) + res.getD 0
  let o := if one then ptpPatch o at_.2 (at_.1 + 34) (beBytes 6 (secOf tx) ++ beBytes 4 (nsOf tx)) else o
  ptpPatch o at_.2 (at_.1 + 8) (beBytes 8 (toTwos 64 cf))

-- Stage 12

/-- The egress row's part of Table 9.4 (R609, R615, R632). -/
structure EgressRow where
  drop : Bool := false
  hv : Nat := 0
  pair : Option Nat := none
  mirror : Nat := 0
  slug : Option Nat := none
  l4 : Nat := 0
  ops : List Nat := []

def egressRow (i hv : Nat) (d : Decision) : EgressRow :=
  let w1 := word i 1
  let w2 := word i 2
  { drop := acDisp i = 2, hv := rewrites i hv, pair := if w1.testBit 46 then some (bits w1 45 28) else none
    mirror := bits w1 27 12, slug := if w2.testBit 63 then some (bits w1 11 0) else d.slug
    l4 := if bits w2 62 61 ≠ 0 then bits w2 62 61 else d.l4csum
    ops := d.tagOps ++ [acTagOp i 0, acTagOp i 1].filter (fun t => bits t 39 37 ≠ 0) }

/-- The egress key (R605, Table 9.3). -/
def egressKey (s : State) (hv p tc : Nat) (tag : Option Nat) (multi prot : Bool) : Nat :=
  let sel (k : Nat) : Nat := let v := rdF s rEasaKeysel (5 * k + 4) (5 * k); if 19 < v then 0 else v
  (List.range 4).foldl (fun a k => a + chunk hv (sel k) * 2 ^ (32 * k + 32))
    (tag.getD 0 * 2 ^ 16 + p * 2 ^ 7 + tc * 2 ^ 4 + b2n multi * 8 + b2n prot * 4)

/-- The frame's octets without FCS, as far as they have arrived. -/
def bodyOf (f : Frame) : List Byte := if f.receiving then f.octets else f.octets.take (f.octets.length - 4)

/-- The egress length limit (R635). -/
def egressLimit (s : State) (p : Nat) : Nat := maxLen s p

/-- Drop a copy at stage 12 or 13; a mirror copy counts in MIRROR_DROP (R893). -/
def egressDrop (s : State) (c : Copy) : State :=
  let s := dropCopy s c
  if c.kind = 2 then mirrorDrop s c.reason else s

/-- Whether R798 or R799 asks for a correction of a frame on port p. -/
def wantsOneStep (s : State) (f : Frame) (p : Nat) : Bool :=
  f.txFlags.testBit 1 || (decide (p < 256) && rdB s (rPortTimeCfg p) 2 && decide (f.firstPort < 256))

/-- Octets of a frame's body that are still to arrive. -/
def tailLen (f : Frame) : Nat := if f.receiving then f.len - 4 - f.octets.length else 0

/-- Hand a copy to its MAC, which starts it when it may (R693, R726), or to the receive path of the host or the MP (stages 13 and 14
entry). [log 50 DESIGN CHOICE] -/
def handOver (s : State) (f : Frame) (c : Copy) (o : List Byte) (prot : Option Nat) (ptp : Option (Nat × Option Nat)) : State :=
  let c := { c with
    out := o, protectedBy := prot, ptp := ptp, cutting := c.cutting || decide (c.stage = CopyStage.crossing)
    tailFrom := if f.receiving then some f.octets.length else none }
  if c.port = 264 then rxStart s c f.flowHash
  else if c.port = 265 then mpStart s c
  else macNext (putCopy s { c with stage := .mac, started := false }) c.port

/-- The receive descriptor of a delivered frame (Table 17.4). -/
def rxDesc (f : Frame) (c : Copy) (addr bytes nbuf : Nat) (first last phase : Bool) : List Byte :=
  leBytes 8 addr ++ leBytes 8 (nsOf f.rxTime + fracOf f.rxTime * 2 ^ 32 + f.rxGen % 65536 * 2 ^ 48)
    ++ leBytes 8 (f.flowHash % 2 ^ 32 + secOf f.rxTime % 2 ^ 32 * 2 ^ 32)
    ++ leBytes 8 (c.out.length % 2 ^ 14 + (nbuf - 1) % 64 * 2 ^ 16 + f.port * 2 ^ 22 + bytes * 2 ^ 32
        + (if c.kind = 1 then c.reason else 0) % 64 * 2 ^ 49 + c.queue % 8 * 2 ^ 55 + f.rxDom % 4 * 2 ^ 58
        + b2n (decide (c.kind = 1)) * 2 ^ 60 + b2n last * 2 ^ 61 + b2n first * 2 ^ 62 + b2n phase * 2 ^ 63)

/-- Stage 13 of a copy that holds octets `o` (R354 to R363, R379 to R384, R407 to R410). [log 51 DEDUCED, 113 DESIGN CHOICE] -/
def stage13 (s : State) (parity : Bool) (f : Frame) (c : Copy) (o secure : List Byte) (secy : Option Nat) : State :=
    let ptp := if c.kind = 0 ∧ c.port < 264 ∧ wantsOneStep s f c.port then ptpFind o else none
    match secy with
    | none =>
      if (bindRow s parity c.port).testBit 17 then
        (if c.kind = 2 then egressDrop s c else dropCopy (bump s (rTxUnprot c.port)) c)
      else if c.kind = 2 ∧ f.secret ∧ approved s ∧ ¬ rdB s rMirrorPermit c.reason then egressDrop (bump s rPermitDrop) c
      else handOver s f c o none ptp
    | some i =>
      let r := protect s parity i o secure (o.length + tailLen f) (egressLimit s c.port)
      match r.2 with
      | .drop => egressDrop r.1 c
      | .clear => handOver r.1 f c o none ptp
      | .prot x enc rest restClear clear =>
        let row_ := secyRow s parity i
        let inside := !approved s && syOneStep row_
        let grow := if sySci row_ then 16 else 8
        let b := afterTags o (syClear row_)
        let sh (k : Nat) : Nat := if k < b then k else k + grow
        let at_ := if inside then ptp.map (fun p => (sh p.1, p.2.map sh)) else none
        let s := if ptp.isSome ∧ ¬ inside then secyFrame r.1 i 12 else r.1
        let s := if enc ∧ c.port < 256 then perf s (8 + c.port / 8) 0x0204 1 else s
        handOver s f { c with enc := enc, secRest := rest, secClear := restClear, clearPart := some clear } x (some i) at_

/-- What stage 12 makes of a forwarded copy: the state, its octets (none when dropped), the octets an egress mirror copies, its
transmit SecY, its egress mirror mask, and whether it carries a slug. -/
structure Stage12 where
  s : State
  octets : Option (List Byte)
  full : List Byte
  secy : Option Nat
  mirror : Nat
  slug : Bool
  /-- A checksum whose octets have not all arrived (R624). -/
  csum : Option (Nat × Int × Bool) := none

/-- The egress search of a copy (R604, R605), with the SecY that applies to it. -/
def egressSearch (s : State) (parity : Bool) (f : Frame) (c : Copy) (prot : Bool) (flipped : List Nat) : State × Option AsaEnt :=
  let pipe := copyPipe c.port f.flowHash
  asaSearch s (16 + pipe) 0x500 3 parity (egressKey s f.hv c.port c.cls f.dec.egressTag c.multicast prot) flipped

/-- Stage 12 of a forwarded copy (R604 to R635). -/
def stage12 (s : State) (parity : Bool) (f : Frame) (c : Copy) (flipped : List Nat) : Stage12 :=
  let d := f.dec
  let p := c.port
  let tile := copyPipe p f.flowHash / 2
  let chosen : Option (Option Nat) := match d.secySel with
    | some x => some x
    | none => d.caseSecy.map some
  let t : State × Option Nat := if p < 264 ∧ hasCipher s then txSecy s parity p chosen else (s, none)
  let r := egressSearch t.1 parity f c t.2.isSome flipped
  let img : Nat := match r.2 with
    | some e => row s parity 0x510 (entAction e.image 3)
    | none => d.egressTag.elim 0 (fun g => row s parity 0x510 g)
  let e := egressRow img f.hv d
  let s := countPairs r.1 none e.pair f.len
  let o0 := bodyOf f
  let o := fixIp4 o0 f.parse.chain (writeFields f.parse.own f.hv0 e.hv f.parse.fields o0)
  let u := l4Update e.l4 f.parse.frag o0 f.parse.chain o
  let later := u.filter (fun x => f.receiving && x.2.1 ≠ 0 && decide (o0.length < x.1 + 2))
  let o := fixL4 u o
  let x := tagOps s tile e.ops o
  let pushes := e.slug.elim false (fun n => decide (0 < slugLen (row s parity 0x511 n)))
  let slugged (o : List Byte) : List Byte := e.slug.elim o (fun n => slugPush (row s parity 0x511 n) f.flowHash o)
  if e.drop then
    { s := tileCount s tile 22, octets := none, full := x.2.elim o slugged, secy := t.2, mirror := e.mirror, slug := pushes }
  else
  match x.2 with
  | none => { s := x.1, octets := none, full := o, secy := t.2, mirror := e.mirror, slug := false }
  | some o =>
    let o := slugged o
    if egressLimit s p < o.length + tailLen f + 4 ∧ (pushes ∨ 256 ≤ p) then
      { s := tileCount x.1 tile 27, octets := none, full := o, secy := t.2, mirror := e.mirror, slug := pushes }
    else { s := x.1, octets := some o, full := o, secy := t.2, mirror := e.mirror, slug := pushes, csum := later }

/-- Stage 13 is to encrypt a copy that holds octets `o` (R357, R359, R408). -/
def encrypts (s : State) (parity : Bool) (secy : Option Nat) (o : List Byte) : Bool :=
  secy.elim false (fun i =>
    let r := secyRow s parity i
    let e := beAt o (afterTags o (syClear r)) 2
    syEncrypt r && e ≠ 0x888E && !(syBypass r ≠ 0 && e = syBypass r))

/-- A copy that stage 12 can take now: selected, and in shared mode across its plane; a cut-through copy still arriving only
when nothing about it needs the whole frame. -/
def egressReady (s : State) (c : Copy) : Bool :=
  if voqMode s then c.stage = .selected else (c.stage = .egress || cuts s c)

/-- A copy makes its egress search now: no mirror copy (R890), and one still arriving only where nothing needs the whole frame. -/
def egressSearches (s : State) (c : Copy) : Bool :=
  egressReady s c && c.kind ≠ 2 && (findFrame s c.frame).elim false (fun f =>
    !f.receiving || (c.kind = 0 && (let r := stage12 s (live s) f { c with parity := live s } []; r.mirror = 0 && !r.slug)))

/-- Slots of an egress pipeline taken in this core cycle. -/
def egressTaken (s : State) (pipe : Nat) : Nat := if s.path.egrCycle = s.cycle + 1 then smGet (fun _ => 0) s.path.egrUsed pipe else 0

/-- A copy gets a search slot of its pipeline in this cycle: front ports first (R592, R593, R604, R607). -/
def egressTurn (s : State) (f : Frame) (c : Copy) : Bool :=
  let pipe := copyPipe c.port f.flowHash
  let front := s.path.copies.filter (fun x => decide (x.port < 256) && x.id ≠ c.id && egressPipe x.port = pipe && egressSearches s x)
  c.kind = 2 || decide (egressTaken s pipe + (if c.port < 256 then 0 else front.length) < searchSlots s.cycle)

def takeEgress (s : State) (f : Frame) (c : Copy) : State :=
  let pipe := copyPipe c.port f.flowHash
  if c.kind = 2 then s
  else { s with path := { s.path with
    egrUsed := smSet (fun _ => 0) (if s.path.egrCycle = s.cycle + 1 then s.path.egrUsed else []) pipe (egressTaken s pipe + 1)
    egrCycle := s.cycle + 1 } }

/-- EGRESS_PIPELINE (stages 12 and 13; R604, R619, R890, R891). `secure` is what the cipher unit computes for a protected
copy; `flipped` names ASA locations whose ternary cells answer wrongly (R596). [log 33 DEDUCED, 47 DEDUCED] -/
def execEgressPipeline (copy : Nat) (secure : List Byte) (flipped : List Nat) (s : State) : Host.Outcome State Fault Refusal :=
  nextOf s <|
    match findCopy s copy with
    | none => s
    | some c =>
      match findFrame s c.frame with
      | none => s
      | some f =>
        let parity := live s
        let c := { c with parity := parity }
        if ¬ egressReady s c ∨ ¬ egressTurn s f c then s
        else if c.kind = 1 then
          if f.receiving then s
          else stage13 (egressSearch (takeEgress s f c) parity f c false flipped).1 parity f c (bodyOf f) secure none
        else if c.kind = 2 then
          if f.receiving then s
          else
            let img := row s parity 0x511 (rdF s (rMirrorCfg c.reason) 60 49)
            let on := rdB s (rMirrorCfg c.reason) 62
            let o := if on then slugPush img f.flowHash (bodyOf f) else bodyOf f
            if egressLimit s c.port < o.length + 4 ∧ on ∧ 0 < slugLen img then egressDrop s c
            else
              let secy := if c.port < 264 ∧ hasCipher s then (txSecy s parity c.port none).2 else none
              stage13 s parity f c o secure secy
        else
          let r := stage12 s parity f c flipped
          if f.receiving ∧ (r.mirror ≠ 0 ∨ r.slug) then s
          else
            let secret := f.decrypted || r.octets.elim false (encrypts s parity r.secy)
            let s := takeEgress r.s f c
            let s := if r.mirror = 0 then s else mirrorMask s r.mirror f r.full secret
            match r.octets with
            | none => dropCopy s c
            | some o => stage13 s parity f { c with tailCsum := r.csum } o secure r.secy

-- Transmission

/-- Count a frame that has left port p (Table 5.7, R342, R347). -/
def txCount (s : State) (p : Nat) (o : List Byte) (express : Bool) : State :=
  let l := o.length
  let s := macAdd (macAdd (macAdd (macAdd (perf s (8 + p / 8) 0x0202 1) p 48 l) p 49 l) p 50 1) p 51 1
  let t := etherType o
  let s := if t = 0x8808 then s else macAdd s p (if isBcast o then 54 else if isGroup o then 53 else 52) 1
  let s := if t = 0x8100 ∨ t = 0x88A8 then macAdd s p 55 1 else s
  let s := if express then macAdd s p 71 1 else s
  macAdd s p (72 + sizeBin l) 1

/-- A transmit timestamp enters the TSQ of its port, or is lost (R797, R801, R803, R804). [log 48 DESIGN CHOICE] -/
def tsqPut (s : State) (f : Frame) (c : Copy) (t : Nat) : State :=
  let p := c.port
  let q := smGet (fun _ => []) s.core.tsq p
  if q.length < 32 then
    let e : TsEntry := { t := t, gen := (timeAt s (tsDomain s p) c.txAt).1, tag := f.txTag, late := c.late, domain := tsDomain s p, toMp := f.fromMp }
    let s := if q.isEmpty then { s with core := { s.core with tsqLostArmed := smSet (fun _ => true) s.core.tsqLostArmed p true } } else s
    { s with core := { s.core with tsq := smSet (fun _ => []) s.core.tsq p (q ++ [e]) } }
  else
    let s := txMark (bump s (rTsqLost p)) f.id (fun x => { x with tsLost := true })
    if smGet (fun _ => true) s.core.tsqLostArmed p then
      postHw { s with core := { s.core with tsqLostArmed := smSet (fun _ => true) s.core.tsqLostArmed p false } } 0x4802
        [(2, p), (4, (rd s (rTsqLost p)).toNat)]
    else s

/-- FRAME_TRANSMIT_END (R347, R797 to R804, R1069): the last octet of a copy has left; `txTime` is the time of its message
timestamp point in the port's TS_DOMAIN, before TX_ADJ. [log 46 PRESUMED] -/
def execFrameTransmitEnd (copy : Nat) (txTime : Nat) (s : State) : Host.Outcome State Fault Refusal :=
  nextOf s <|
    match findCopy s copy with
    | none => s
    | some c =>
      match findFrame s c.frame with
      | none => s
      | some f =>
        onlyIf (c.stage = .mac && c.started && !c.cutting && !c.preempted && !f.receiving && f.complete && !f.icvPending && f.bad.isNone && !lanesIdle s c.port) s <|
          let p := c.port
          let tx := ((txTime : Int) + tsAdj s p false).toNat
          let res : Option Int := if p < 256 ∧ rdB s (rPortTimeCfg p) 2 ∧ f.firstPort < 256 then
              some ((tx : Int) - f.rxTime - ((timeAt s (tsDomain s p) c.txAt).2 - f.rxStep)) else none
          let o := match c.ptp with
            | some a =>
              let x := c.clearPart.getD (c.out, c.out.length)
              (ptpCorrect x.1 a (f.txFlags.testBit 1) res tx).take x.2 ++ c.out.drop x.2
            | none => c.out
          let o := o ++ List.replicate (60 - o.length) 0
          let o := o ++ leBytes 4 (crc32 o)
          let s := txMark s f.id (fun x => { x with started := true, late := x.late || c.late })
          if 256 ≤ p then
            let s := match arrivingFrame s p false with
              | some x => frameWhole s p 2 x { octets := o, fcsErr := false, codeErr := false, rxTime := 0
                                               user := x.octets.drop (x.rxTag.elim 0 (·.1)) }
              | none => addFrame (setHdrWait s p false) (returned f c o)
            macNext (dropCopy s c) p
          else
            let s := txCount s p o (c.express && mmActive s p)
            let s := lastFrag s c (o.take (o.length - 4))
            let s := emit s (.frameOut p o false)
            let s := if f.txFlags.testBit 0 then tsqPut s f c tx else s
            macNext (dropCopy s c) p

-- The MP's own frames

/-- MP_TRANSMIT (R24, R797, R801): the MP's frame enters the recirculation ingress path of tile T1. `flags` are TS_REQ and
ONESTEP, `tag` its TS_TAG, `launch` its launch field. -/
def execMpTransmit (octets : List Byte) (flags tag : Nat) (launch : Option Nat) (s : State) : Host.Outcome State Fault Refusal :=
  nextOf s <| onlyIf (s.mp.mpUp && devState s = stRun && decide (60 ≤ octets.length) && decide (octets.length ≤ 16379)
      && mpLineFree s true) s
    (addFrame (mpLineTake s true (octets.length + 4))
      { id := 0, octets := octets ++ leBytes 4 (crc32 octets), port := 265, firstPort := 265, stage := .reentry,
        txFlags := flags % 4, txTag := tag % 2 ^ 32, launch := launch, fromMp := true,
        rxTime := opTime s, rxGen := s.clk.opGen })

end Sys2Proof.Machine
end

