-- ==== Sys2Proof/Machine/Pool.lean ====
section
/-! DEFINITION. Pool and frame-ring commands (chapters Ermel Instruction Reference; The Pool Manager and Frame Transfer to
the Host). -/

namespace Sys2Proof.Machine

-- PALLOC, PFREE, PREF (R253 to R260)

/-- The enabled pools of a smallest-fit PALLOC: REGION 2 for an MP ring, the ring's host memory otherwise (R1045). -/
def fitPool (s : State) (n k : Nat) : Bool :=
  poolEnabled s k && (match ringOwner s n with
    | .mp => poolRegion s k = 2
    | .host l => poolRegion s k = b2n l)

/-- The pool of the smallest size at or above BYTES, the lowest number among equals (R1045). -/
def smallestFit (s : State) (n bytes : Nat) : Option Nat :=
  (List.range 16).foldl (fun best k =>
    if fitPool s n k ∧ bytes ≤ poolSize s k then
      match best with
      | none => some k
      | some b => if poolSize s k < poolSize s b then some k else some b
    else best) none

/-- The pool a PALLOC draws on: named, or the smallest fit; none when not configured (R257, R1043, R1045). -/
def pallocPool (s : State) (n unit bytes : Nat) : Option Nat :=
  if unit = 0x0CFF then smallestFit s n bytes
  else if poolEnabled s (unit - 0x0C00) ∧ ringMemory s n (poolRegion s (unit - 0x0C00)) then some (unit - 0x0C00) else none

/-- PALLOC (R254 to R257, R1043, R1045, R1047, R1050). [log 67 DEDUCED, 102 DESIGN CHOICE, 110 DESIGN CHOICE] -/
def execPalloc (ring : Fin 64) (ins : Ins) (destOk : Bool) (s : State) : Host.Outcome State Fault Refusal :=
  let n := ring.val
  let bytes := bits ins.index 16 0
  let tmo := bits ins.index 31 17
  let listed : Bool := ins.unit = 0x0CFF || (0x0C00 ≤ ins.unit && ins.unit ≤ 0x0C0F)
  nextOf s <| runIns s n opPalloc ins fun isn s =>
    guardIns s [(decide (4 ≤ ins.flags) || ins.operand % 16 ≠ 0
          || (ins.unit = 0x0CFF && (bytes = 0 || decide (65536 < bytes))) || (listed && ins.unit ≠ 0x0CFF && bytes ≠ 0), .eCheck),
        (!listed, .eAddr)] fun s =>
      let s := ringGrant s n
      match pallocPool s n ins.unit bytes with
      | none => (s, .done .eAddr 0)
      | some k =>
        if poolGrants s k ∧ poolFifo s k = [] ∧ 0 < poolFree s k then
          if ins.operand ≠ 0 ∧ ¬ destOk then operandFault s n isn ins.operand
          else
            let t := takeBuf s k (leMake n 1 lsInUse)
            let a := bufAddr s k t.2
            (if ins.operand ≠ 0 then valueWrite t.1 n isn ins.operand (leBytes 8 a) else t.1, .done .ok a)
        else if tmo = 0 then (s, .done .eFull 0)
        else
          (perf (setFifo s k (poolFifo s k ++ [{ ring := some n, need := 1, destOk := destOk }])) 41 0x0403 1,
            .wait (.palloc k (s.cycle + tmo * cyclesPerUs) ins.operand))

/-- The PALLOC of ring n whose TIMEOUT_US has passed completes without a buffer (R256, R1052). -/
def pallocExpire (s : State) (n : Nat) : State :=
  match (rt s n).waiting with
  | some w =>
    match w.kind with
    | .palloc _ deadline _ =>
      onlyIf (deadline ≤ s.cycle) s (completeIns (pallocLeave s n) n w.isn w.opcode w.flags .eTimeout 0 false)
    | _ => s
  | none => s

/-- PALLOC_TIMEOUT (R256, R1052): TIMEOUT_US passes without a buffer. -/
def execPallocTimeout (ring : Fin 64) (s : State) : Host.Outcome State Fault Refusal := nextOf s (pallocExpire s ring.val)

/-- PFREE and PREF hold nothing but OPERAND (Table 4.11). -/
def poolFieldsBad (ins : Ins) : Bool := decide (4 ≤ ins.flags) || ins.unit ≠ 0 || ins.index ≠ 0

/-- PFREE (R258, R1038 to R1041, R1049, R1051). -/
def execPfree (ring : Fin 64) (ins : Ins) (s : State) : Host.Outcome State Fault Refusal :=
  let n := ring.val
  nextOf s <| runIns s n opPfree ins fun _ s =>
    guardIns s [(poolFieldsBad ins, .eCheck)] fun s =>
      let s := ringGrant s n
      let r := freeBuf s (ringMemory s n) (ringRights s n) (ringOrigin n) ins.operand
      (r.1, .done r.2.1 r.2.2)

/-- PREF (R259, R260, R1042). -/
def execPref (ring : Fin 64) (ins : Ins) (s : State) : Host.Outcome State Fault Refusal :=
  let n := ring.val
  nextOf s <| runIns s n opPref ins fun _ s =>
    guardIns s [(poolFieldsBad ins, .eCheck)] fun s =>
      let s := ringGrant s n
      let c := bufCheck s (ringMemory s n) (ringRights s n) ins.operand
      let v := ledger s c.2.2
      if c.1 ≠ .ok then (s, .done c.1 0)
      else if 63 ≤ leRefs v then (s, .done .eFull 0)
      else (setLedger s c.2.2 (leMake (leOwner v) (leRefs v + 1) lsInUse), .done .ok (leRefs v + 1))

-- Pool configuration (R1030 to R1033)

/-- Two ranges of numbers overlap. -/
def overlap (a n b m : Nat) : Bool := decide (a < b + m) && decide (b < a + n)

/-- The conditions of R1030 for pool k as configured. [log 67 DEDUCED] -/
def poolCfgOk (s : State) (k : Nat) : Bool :=
  let size := poolSize s k
  decide (256 ≤ size) && decide (size ≤ 65536) && decide (1 ≤ poolCount s k) && decide (poolCount s k ≤ 1048576)
    && decide (poolBase s k % 4096 = 0) && decide ((rd s (rPoolFs k)).toNat % 4096 = 0)
    && decide (poolLedger s k + poolCount s k ≤ 1048576)
    && (List.range 16).all (fun j => j = k || !poolEnabled s j ||
        (!overlap (poolLedger s k) (poolCount s k) (poolLedger s j) (poolCount s j)
          && (poolRegion s j ≠ poolRegion s k
            || !overlap (poolBase s k) (poolCount s k * size) (poolBase s j) (poolCount s j * poolSize s j))))
    && (poolRegion s k ≠ 3 || (hasDeep s && decide (poolBase s k + poolCount s k * size ≤ 2 ^ 28)))

/-- Enable pool k: every ledger entry FREE, every address in the free store, INIT_BUSY 1; what waits holds nothing (R1032). -/
def poolEnable (s : State) (k : Nat) : State :=
  let gone := poolTaken s k
  let s := wrB s (rPoolCfg k) 63 true
  { s with
    pool := { s.pool with
    ledger := s.pool.ledger.filter (fun x => !gone.contains x.1)
    poolWait := smSet (fun _ => []) s.pool.poolWait k ((poolFifo s k).map (fun w => { w with got := [] }))
    cached := smSet (fun _ => 0) s.pool.cached k 0
    poolInit := smSet (fun _ => false) s.pool.poolInit k true } }

/-- An enabled receive ring names pool k (R1033). -/
def poolNamed (s : State) (k : Nat) : Bool :=
  (List.range 1024).any (fun r => rdB s (rFr false r 8) 0 && rdF s (rFr false r 8) 35 32 = k)

/-- POOL_CFG_k's pool may be disabled (R1033). -/
def poolMayEnd (s : State) (k : Nat) : Bool :=
  poolFaulted s k || (poolFree s k = poolCount s k && (poolFifo s k).isEmpty && !poolNamed s k)

/-- A write of POOL_CFG_k takes effect: of an enabled pool only one that disables it, when it may be (R1031, R1033).
[log 106 DEDUCED] -/
def poolCfgTaken (s : State) (k : Nat) (mask value : Word) : Bool :=
  !poolEnabled s k || (mask.getLsbD 63 && !value.getLsbD 63 && poolMayEnd s k)

/-- A write of POOL_CFG_k (R1030 to R1033). -/
def poolCfgWrite (s : State) (k : Nat) (mask value : Word) : State :=
  let m := mask &&& (fieldMask 63 32 ||| fieldMask 20 0)
  let v := (rd s (rPoolCfg k) &&& ~~~ m) ||| (value &&& m)
  if poolEnabled s k then
    if v.getLsbD 63 then s
    else if poolMayEnd s k then
      let s := wrB s (rPoolCfg k) 63 false
      { s with pool := { s.pool with poolInit := smSet (fun _ => false) s.pool.poolInit k false } }
    else wrB s (rPoolStatus k) 60 true
  else
    let s := wr s (rPoolCfg k) (setField v 63 63 0)
    if ¬ v.getLsbD 63 then s
    else if poolCfgOk s k then poolEnable s k
    else wrB s (rPoolStatus k) 61 true

/-- A write of POOL_BASE_k or POOL_FS_BASE_k, discarded while the pool is enabled (R1031). -/
def poolBaseWrite (s : State) (k o : Nat) (mask value : Word) : State :=
  if poolEnabled s k then s else wr s o ((rd s o &&& ~~~ mask) ||| (value &&& mask))

/-- POOL_INIT_DONE (R1032): the free store holds every buffer address, and waiting requests are served. -/
def execPoolInitDone (pool : Fin 16) (s : State) : Host.Outcome State Fault Refusal :=
  let k := pool.val
  nextOf s <| onlyIf (poolEnabled s k && poolBusy s k) s <|
    let s := { s with pool := { s.pool with poolInit := smSet (fun _ => false) s.pool.poolInit k false } }
    poolRun (cacheSettle (emit s (.freeStore k (poolBase s k) (poolSize s k) (poolCount s k))) k 0) k

/-- POOL_FAULT (R1036): an access to the free store fails at an address. -/
def execPoolFault (pool : Fin 16) (addr : Nat) (s : State) : Host.Outcome State Fault Refusal :=
  let k := pool.val
  nextOf s <| onlyIf (poolEnabled s k) s <|
    postHw (wrB s (rPoolStatus k) 62 true) 0x8C24 [(1, k), (8, addr)]

-- Frames to the host

/-- The receive chain of a copy. -/
def chainOf (s : State) (copy : Nat) : Option RxChain := s.pool.rx.find? (fun x => x.copy = copy)

/-- Free descriptor slots of a receive ring (R1055, R1073); MP firmware keeps room in its own. [log 50 DESIGN CHOICE] -/
def rxSlots (s : State) (r : Nat) : Nat :=
  if mpRing r then 2 ^ 16 else frSize s false r - frDist s false r (frHead s false r) (frTail s false r)

/-- Write one buffer's octets (R1057) and leave its ledger entry IN_USE, owned by the ring's link or the MP (R1058, R1064). -/
def rxBuf (s : State) (r k e : Nat) (data : List Byte) : State :=
  setLedger (emit s (.memWrite (rxAgent s r) (bufAddr s k e) data)) e (leMake (rxOwner s r) 1 lsInUse)

/-- The descriptors of a chain go into ring r from slot `t0` on, the tail advances and the vector is raised (R1057, R1070, R1075). -/
def rxDescs (s : State) (r : Nat) (desc : Nat → Bool → List Byte) (n : Nat) : State :=
  let t0 := frTail s false r
  let S := frSize s false r
  let base := (rd s (rFr false r 0)).toNat
  let s := (List.range n).foldl (fun s i =>
    let t := (t0 + i) % (2 * S)
    emit s (.memWrite (.host (frameLink s r)) (base + 32 * (t % S)) (desc i (t < S)))) s
  frRaise (wrF s (rFr false r 0x18) 16 0 ((t0 + n) % (2 * S))) false r

/-- Write a chain that holds its buffers and its slots (R1057 to R1059, R1063, R1064). [log 52 DESIGN CHOICE] -/
def rxWrite (s : State) (x : RxChain) (f : Frame) (c : Copy) (l : List Nat) : State :=
  let r := x.ring
  let size := poolSize s x.pool
  let n := l.length
  let idx := (List.range n).zip l
  let part (i : Nat) : List Byte := (c.out.drop (i * size)).take size
  let addrs := l.map (bufAddr s x.pool)
  let desc (i : Nat) (phase : Bool) : List Byte :=
    rxDesc f c (addrs.getD i 0) (part i).length n (i = 0) (i + 1 = n) phase
  let s := idx.foldl (fun s a => rxBuf s r x.pool a.2 (part a.1)) s
  let s := if mpRing r then emit s (.mpFrame c.out ((List.range n).flatMap (fun i => desc i true)))
    else
      perf (perf (rxDescs s r desc n) 41 0x0404 1) 41 0x0405 (n + sumBy (List.range n) (fun i => ((part i).length + 63) / 64))
  let s := txMark s f.id (fun y => { y with started := true })
  let s := { s with pool := { s.pool with rx := s.pool.rx.filter (fun y => y.copy ≠ x.copy) } }
  dropCopy s c

/-- RX_WAIT_MAX of a ring in cycles (Table 17.9: 0 acts as 1); the MP's rings keep its reset value. [log 50 DESIGN CHOICE] -/
def rxWaitMax (s : State) (r : Nat) : Nat := if mpRing r then 1000 * cyclesPerUs else max (rdF s (rFr false r 8) 63 48) 1 * cyclesPerUs

/-- HOST_RX_DELIVER (R1054, R1057 to R1059, R1063, R1064, R1075). -/
def execHostRxDeliver (copy : Nat) (s : State) : Host.Outcome State Fault Refusal :=
  nextOf s <|
    match chainOf s copy, findCopy s copy with
    | some x, some c =>
      match x.bufs, findFrame s c.frame with
      | some l, some f =>
        onlyIf (devState s = stRun && rxUp s x.ring && decide (l.length ≤ rxSlots s x.ring)) s (rxWrite s x f c l)
      | _, _ => s
    | _, _ => s

/-- The wait of a frame that lacks its buffers (cause 0) or slots (cause 1) ends when its time has passed (R1061, R1052). -/
def rxExpire (s : State) (copy : Nat) : State :=
  match chainOf s copy, findCopy s copy with
  | some x, some c =>
    let r := x.ring
    let cause := b2n x.bufs.isSome
    onlyIf (c.waitSince + rxWaitMax s r ≤ s.cycle
        && (x.bufs.isNone || decide (rxSlots s r < (x.bufs.getD []).length) || !rxUp s r)) s <|
      let s := rxLost s r cause
      let s := postRateFrom s cyclesPerSec r 0x4C23 (frOrigin false r) [(2, r), (1, cause), (4, rxLostCount s r cause)]
      rxDrop s x
  | _, _ => s

/-- RX_WAIT_EXPIRE (R1061, R1052). -/
def execRxWaitExpire (copy : Nat) (s : State) : Host.Outcome State Fault Refusal := nextOf s (rxExpire s copy)

/-- What the pool manager's waits and the arbitration point do in a core cycle: waits whose time has passed end, waiting entries
are served, and one path's request is granted (R256, R1046, R1061). -/
def poolCycle (s : State) : State :=
  let s := (List.range 64).foldl pallocExpire s
  let s := (s.pool.rx.map (fun x => x.copy)).foldl rxExpire s
  poolTick ((List.range 16).foldl (fun s k => if poolFifo s k = [] then s else poolRun s k) s)

-- Doorbells (R1073 to R1075, R1020, R1005)

/-- A PF1 doorbell write that reaches ring r of its link, or the state after it has been turned away. -/
def frDoorbell (s : State) (tx : Bool) (r : Nat) (w : DbWrite) (act : State → Nat → State) : State :=
  let off := (if tx then 0x400000 else 0) + r * 0x1000
  if devState s < stHold then s
  else if ¬ ((w.size = 8 ∧ w.off = 0) ∨ (w.size = 4 ∧ w.off = 0)) then accessErr s w.link accBadWrite (off + w.off)
  else if frameLink s r ≠ w.link then accessErr s w.link accForeign off
  else act s (w.value % 2 ^ 17 % (2 * frSize s tx r))

def frDbErr (s : State) (tx : Bool) (r : Nat) : State := wrB s (rFr tx r 0x20) 9 true

/-- RX_DOORBELL (R1073): the new RX_HEAD, neither behind RX_HEAD nor ahead of RX_TAIL. [log 97 DESIGN CHOICE] -/
def execRxDoorbell (ring : Fin 1024) (w : DbWrite) (s : State) : Host.Outcome State Fault Refusal :=
  let r := ring.val
  nextOf s <| frDoorbell s false r w fun s v =>
    if frDist s false r (frHead s false r) v ≤ frDist s false r (frHead s false r) (frTail s false r) then
      frArm (wrF s (rFr false r 0x10) 16 0 v) false r
    else frDbErr s false r

/-- TX_DOORBELL (R1074): the new tail, neither behind TX_TAIL nor more than one ring size ahead of TX_HEAD.
[log 97 DESIGN CHOICE] -/
def execTxDoorbell (ring : Fin 1024) (w : DbWrite) (s : State) : Host.Outcome State Fault Refusal :=
  let r := ring.val
  nextOf s <| frDoorbell s true r w fun s v =>
    let d := frDist s true r (frHead s true r) v
    if frDist s true r (frHead s true r) (frTail s true r) ≤ d ∧ d ≤ frSize s true r then
      frArm (wrF s (rFr true r 0x18) 16 0 v) true r
    else frDbErr s true r

-- Frames from the host (R1065 to R1071)

/-- Word w of a 32-byte descriptor. -/
def descWord (d : List Byte) (w : Nat) : Nat := leAt d (8 * w) 8
def descFirst (d : List Byte) : Bool := (descWord d 3).testBit 62
def descLast (d : List Byte) : Bool := (descWord d 3).testBit 61
def descBytes (d : List Byte) : Nat := bits (descWord d 2) 16 0

/-- The descriptors after the first of a run: up to one with LAST, before one with FIRST (R1065, R1067). -/
def runRest : List (List Byte) → List (List Byte)
  | [] => []
  | d :: t => if descFirst d then [] else if descLast d then [d] else d :: runRest t

/-- The run at the head of a ring's descriptors. -/
def runOf : List (List Byte) → List (List Byte)
  | [] => []
  | d :: t => if descLast d then [d] else d :: runRest t

/-- The run keeps R1065: FIRST and LAST at its ends, 1 to 64 descriptors, 60 to 16,383 octets. -/
def runOk (run : List (List Byte)) : Bool :=
  let total := sumBy run descBytes
  (run.head?.elim false descFirst) && (run.getLast?.elim false descLast) && decide (run.length ≤ 64)
    && run.all (fun d => decide (1 ≤ descBytes d) && decide (descBytes d ≤ 65536)) && decide (60 ≤ total) && decide (total ≤ 16383)

/-- The next slot a transmit ring reads. -/
def txNext (s : State) (r : Nat) : Nat := smGet (fun _ => 0) s.pool.txNext r
def setTxNext (s : State) (r v : Nat) : State :=
  { s with pool := { s.pool with txNext := smSet (fun _ => 0) s.pool.txNext r v } }

/-- Note a run as read from ring r, and move past it. -/
def txTake (s : State) (r : Nat) (run : List (List Byte)) (cause : Option Nat) : State :=
  let i := txNext s r
  let S := frSize s true r
  let last := (i + run.length - 1) % (2 * S)
  let s := setTxNext s r ((i + run.length) % (2 * S))
  { s with
      pool := { s.pool with
      txOut := s.pool.txOut ++ [{
      ring := r, first := i, slots := run.length, addr := (rd s (rFr true r 0)).toNat + 32 * (last % S)
      w3 := (run.getLast?.map (fun d => descWord d 3)).getD 0, cause := cause }] } }

/-- The frees that a run's descriptors ask for go to the arbitration point (R1068). -/
def txFrees (s : State) (r : Nat) (first : Nat) (run : List (List Byte)) : State :=
  let l := (run.filter (fun d => (descWord d 3).testBit 57)).map (fun d => (r, first, descWord d 0))
  { s with pool := { s.pool with txFree := s.pool.txFree ++ l } }

/-- A transmit ring has descriptors to read. -/
def txReady (s : State) (r : Nat) : Bool :=
  devState s = stRun && frState s true r = frRun && decide (0 < frDist s true r (txNext s r) (frTail s true r))

/-- The ready ring that the transmit path of link l serves next: round robin, after the one it served last (R1066). -/
def txTurn (s : State) (l : Bool) : Option Nat :=
  let last := smGet (fun _ => 1023) s.pool.txLast (b2n l)
  ((List.range 1024).map (fun i => (last + 1 + i) % 1024)).find? (fun r => frameLink s r == l && txReady s r)

/-- Ring r has the turn of its link's transmit path. -/
def txServed (s : State) (r : Nat) : Bool := txReady s r && txTurn s (frameLink s r) == some r

/-- TX_FRAME_FETCH (R1065 to R1068, R24): `descs` are the descriptors from the next slot on, `octets` what their buffers
hold in order. [log 49 DEDUCED] -/
def execTxFrameFetch (ring : Fin 1024) (descs : List (List Byte)) (octets : List Byte) (s : State) :
    Host.Outcome State Fault Refusal :=
  let r := ring.val
  let run := runOf (descs.take (frDist s true r (txNext s r) (frTail s true r)))
  nextOf s <| onlyIf (txServed s r && !run.isEmpty) s <|
    let s := { s with pool := { s.pool with txLast := smSet (fun _ => 1023) s.pool.txLast (b2n (frameLink s r)) r } }
    if ¬ runOk run then txTake s r run (some 3)
    else
      let i := txNext s r
      let d := run.headD []
      let o := slice octets 0 (sumBy run descBytes)
      let w3 := descWord d 3
      let s := txFrees (txTake s r run none) r i run
      addFrame s
        { id := 0, octets := o ++ leBytes 4 (crc32 o), port := 264, firstPort := 264, stage := .reentry, origin := some (r, i)
          txFlags := b2n (w3.testBit 60) + 2 * b2n (w3.testBit 59), txTag := bits (descWord d 2) 63 32
          launch := if w3.testBit 58 then some (descWord d 1) else none }

/-- Word 3 as written back (Table 17.5). [log 49 DEDUCED] -/
def txStatus (x : TxOut) : Nat := if x.started then 0 else x.cause.getD 1
def txW3 (x : TxOut) : Nat :=
  2 ^ 63 + bits x.w3 62 56 * 2 ^ 56 + txStatus x * 2 ^ 52 + b2n x.tsLost * 2 ^ 51 + b2n x.late * 2 ^ 50 + b2n x.freeErr * 2 ^ 49

/-- TX_HEAD passes every leading frame of the ring that has been written back (R1070). -/
def txAdvance (s : State) (r : Nat) : State :=
  let done := (s.pool.txOut.filter (fun x => x.ring = r)).takeWhile (fun x => x.written)
  let s := { s with pool := { s.pool with txOut := s.pool.txOut.filter (fun x => !(done.contains x)) } }
  wrF s (rFr true r 0x10) 16 0 ((frHead s true r + sumBy done (fun x => x.slots)) % (2 * frSize s true r))

/-- No copy of the frame read from a slot of ring r is left inside the device. -/
def txGone (s : State) (r first : Nat) : Bool := s.path.frames.all (fun f => f.origin ≠ some (r, first))

/-- TX_WRITE_BACK (R1069, R1070, R1075): of the frame whose first descriptor stood at `first`. -/
def execTxWriteBack (ring : Fin 1024) (first : Nat) (s : State) : Host.Outcome State Fault Refusal :=
  let r := ring.val
  nextOf s <|
    match s.pool.txOut.find? (fun x => x.ring = r && x.first = first && !x.written) with
    | none => s
    | some x =>
      onlyIf (txGone s r first && s.pool.txFree.all (fun y => y.1 ≠ r || y.2.1 ≠ first)) s <|
        let s := emit s (.memWrite (.host (frameLink s r)) (x.addr + 24) (leBytes 8 (txW3 x)))
        let s := { s with
          pool := { s.pool with
          txOut := s.pool.txOut.map (fun y => if y = x then { y with written := true } else y) } }
        frRaise (txAdvance s r) true r

/-- RING_DMA_FAULT (R1062, R1071): a DMA of frame ring r fails at an address. `descs` are the descriptors read of the frame
being sent, none when they could not be read. [log 67 DEDUCED] -/
def execRingDmaFault (tx : Bool) (ring : Fin 1024) (addr : Nat) (descs : List (List Byte)) (s : State) :
    Host.Outcome State Fault Refusal :=
  let r := ring.val
  let fault (s : State) : State :=
    post (wrB (setFrState s tx r frStopped) (rFr tx r 0x20) 8 true) 0x8C25 (frOrigin tx r) [(1, b2n tx), (2, r), (8, addr)]
  nextOf s <|
    if tx then
      let run := runOf (descs.take (frDist s true r (txNext s r) (frTail s true r)))
      onlyIf (txServed s r) s (fault (if run.isEmpty then s else txTake s r run (some 4)))
    else
      match s.pool.rx.find? (fun x => x.ring = r && x.bufs.isSome) with
      | none => s
      | some x =>
        onlyIf (frState s false r = frRun && decide ((x.bufs.getD []).length ≤ rxSlots s r)) s (fault (rxDrop s x))

-- Ring control (R1072, R1076, R1078)

/-- The fields of an RX_CTRL or TX_CTRL write other than ENABLE; SIZE_LOG2 as R51 and R1072 allow. -/
def frFields (s : State) (tx : Bool) (r : Nat) (v : Word) : State :=
  let o := rFr tx r 8
  let s := if tx then wrF s o 47 36 (field v 47 36) else wrF s o 63 32 (field v 63 32)
  if rdB s o 0 ∨ 9 ≤ field v 27 24 then s else wrF s o 27 24 (field v 27 24)

/-- ENABLE of a ring becomes 0: its frames not yet started to be written or read are discarded (R1076). [log 67 DEDUCED] -/
def frDisable (s : State) (tx : Bool) (r : Nat) : State :=
  let s := setFrState (wrB s (rFr tx r 8) 0 false) tx r frDisabled
  if tx then
    let k := frDist s true r (txNext s r) (frTail s true r)
    if k = 0 then s
    else
      let i := txNext s r
      let s := setTxNext s r (frTail s true r)
      txAdvance { s with
        pool := { s.pool with
        txOut := s.pool.txOut ++ [{
        ring := r, first := i, slots := k, addr := 0, w3 := 0, written := true }] } } r
  else (s.pool.rx.filter (fun x => x.ring = r)).foldl rxDrop s

/-- An enabled pool of the memory of receive ring r's link is named (R1078, Table 17.9). -/
def rxPoolOk (s : State) (r k : Nat) : Bool := poolEnabled s k && decide (poolRegion s k = b2n (frameLink s r))

/-- A write of RX_CTRL_r or TX_CTRL_r takes effect (R1078). [log 106 DEDUCED] -/
def frCtrlTaken (s : State) (tx : Bool) (r : Nat) (mask value : Word) : Bool :=
  let v := (rd s (rFr tx r 8) &&& ~~~ mask) ||| (value &&& mask)
  !v.getLsbD 0 || tx || rxPoolOk s r (field v 35 32)

/-- A write of RX_CTRL_r or TX_CTRL_r (R1076, R1078). -/
def frCtrlWrite (s : State) (tx : Bool) (r : Nat) (mask value : Word) : State :=
  let o := rFr tx r 8
  let v := (rd s o &&& ~~~ mask) ||| (value &&& mask)
  if v.getLsbD 0 then
    if ¬ tx ∧ ¬ rxPoolOk s r (field v 35 32) then wrB s (rFr tx r 0x20) 8 true
    else
      let was := rdB s o 0
      let s := wrB (frFields s tx r v) o 0 true
      if was then s else setFrState s tx r frRun
  else
    let was := rdB s o 0
    let s := if was then frDisable s tx r else s
    frFields s tx r v

/-- A write of RX_BASE_r or TX_BASE_r, discarded while the ring is enabled (R51, R1072). -/
def frBaseWrite (s : State) (tx : Bool) (r : Nat) (mask value : Word) : State :=
  let o := rFr tx r 0
  let m := mask &&& fieldMask 63 12
  if rdB s (rFr tx r 8) 0 then s else wr s o ((rd s o &&& ~~~ m) ||| (value &&& m))

end Sys2Proof.Machine
end

