-- ==== Sys2Proof/Machine/Rings.lean ====
section
/-! DEFINITION. Command-ring commands: doorbells, fetch errors, completion records, enable, disable (chapter
Programming the Device). -/

namespace Sys2Proof.Machine

/-- The agent a Who names. -/
def whoAgent (w : Who) : Agent := if w.mp then .mp else .host w.link

/-- A direct write to a register of ring n is taken: the offset is served and the ring belongs to the writer. -/
def ringWriteOk (s : State) (w : Who) (n : Nat) : Bool := (w.mp || served s (rCrBase n)) && ringOwner s n = whoAgent w

/-- A write to a ring that another agent owns is discarded and sets FOREIGN (R49, R1005). -/
def foreignRing (s : State) (w : Who) (off : Nat) : State :=
  if w.mp ∨ ¬ served s off then s else accessErr s w.link accForeign off

/-- Post EV_RING_DB_ERR and set DB_ERR (R56, R1163). -/
def dbErr (s : State) (n v : Nat) : State := postHw (wrB s (rCrStatus n) 3 true) 0x4903 [(1, n), (8, v)]

/-- The doorbell value `v` lies at most one ring size ahead of CR_HEAD and not behind CR_TAIL (R56). -/
def doorbellOk (s : State) (n v : Nat) : Bool :=
  (ringDist s n (crHead s n) (crTail s n) ≤ ringDist s n (crHead s n) v && ringDist s n (crHead s n) v ≤ ringSize s n)

/-- Take a doorbell: the new slots' opcodes join the ring, CR_TAIL moves, and a held program may begin (R54, R57).
[log 3 DESIGN CHOICE] -/
def takeDoorbell (s : State) (n v : Nat) (opcodes : List Nat) : State :=
  let k := ringDist s n (crTail s n) v
  let r := rt s n
  let new := (opcodes ++ List.replicate k 0).take k
  startProgram (setRt (wrF s (rCrTail n) 16 0 v) n { r with slots := r.slots ++ new }) n

/-- RING_DOORBELL (R54 to R56, R49, R1020, R1086). The opcodes are those of the slots the doorbell covers.
[log 3 DESIGN CHOICE] -/
def execRingDoorbell (ring : Fin 64) (w : DbWrite) (opcodes : List Nat) (s : State) : Host.Outcome State Fault Refusal :=
  let n := ring.val
  let who : Who := { mp := w.mp, link := w.link }
  let v := w.value % 2 ^ 17 % (2 * ringSize s n)
  nextOf s <|
    if ¬ w.mp ∧ devState s < stHold then s
    else if ¬ w.mp ∧ ¬ ((w.size = 8 ∧ w.off = 0) ∨ (w.size = 4 ∧ w.off = 0)) then
      accessErr s w.link accBadWrite (n * 0x1000 + w.off)
    else if ringOwner s n ≠ whoAgent who then foreignRing s who (n * 0x1000)
    else if doorbellOk s n v then takeDoorbell s n v opcodes
    else dbErr s n w.value

/-- RING_FETCH_ERR (R60): a ring that would fetch stops. A ring of the MP reads no PCIe (R100). [log 95 DESIGN CHOICE] -/
def execRingFetchErr (ring : Fin 64) (s : State) : Host.Outcome State Fault Refusal :=
  let n := ring.val
  nextOf s <| onlyIf (n < 60 && ringEnabled s n && ringState s n ≠ rsStopped && !(rt s n).slots.isEmpty) s <|
    postHw (stopRing s n 1) 0x8901 [(1, n), (4, crHead s n % ringSize s n)]

/-- The value lies in the window of R1163. -/
def cqHeadOk (s : State) (n v : Nat) : Bool :=
  ringDist s n (cqHead s n) v ≤ ringDist s n (cqHead s n) (cqTail s n)

/-- A write of CQ_HEAD: taken and rearming the ring interrupt, or discarded (R1163, R73). [log 97 DESIGN CHOICE] -/
def cqHeadWrite (s : State) (n : Nat) (mask value : Word) : State :=
  let v := ((rd s (rCqHead n) &&& ~~~ mask) ||| (value &&& mask)).toNat
  let h := v % 2 ^ 17
  if cqHeadOk s n h then
    let s := wrF s (rCqHead n) 16 0 (h % (2 * ringSize s n))
    refreshFull (setRt s n { rt s n with irqArmed := true }) n
  else dbErr s n v

/-- Write the oldest queued record of ring n (R69 to R73, Table 4.4). [log 97 DESIGN CHOICE] -/
def writeRecord (s : State) (n : Nat) (x : Rec) : State :=
  let S := ringSize s n
  let t := cqTail s n
  let r := rt s n
  let s := ownerWrite s n ((rd s (rCqBase n)).toNat + 16 * (t % S)) (recBytes x (t % (2 * S) < S))
  let s := wrF s (rCqTail n) 16 0 ((t + 1) % (2 * S))
  let s := setRt s n { r with records := r.records.drop 1 }
  let s := refreshFull s n
  if rdB s (rCrCtrl n) 36 ∧ r.irqArmed then
    let l := match ringOwner s n with
      | .host b => b
      | .mp => false
    setRt (if n < 60 then raise s l (rdF s (rCrCtrl n) 47 37) else s) n { rt s n with irqArmed := false }
  else s

/-- COMPLETION_RECORD_WRITE (R69 to R73): the oldest record is written; a full completion ring makes it wait, and no
record is lost. -/
def execCompletionRecordWrite (ring : Fin 64) (s : State) : Host.Outcome State Fault Refusal :=
  let n := ring.val
  nextOf s <|
    match (rt s n).records with
    | [] => s
    | x :: _ =>
      if (rt s n).cqDead ∨ ¬ busMaster s (ringOwner s n) then s
      else if cqFull s n then refreshFull s n
      else writeRecord s n x

/-- CQ_ERR (R1164): the record counts as not written, CQ_TAIL stays, and the ring stops. -/
def execCqErr (ring : Fin 64) (s : State) : Host.Outcome State Fault Refusal :=
  let n := ring.val
  nextOf s <| onlyIf (n < 60 && !(rt s n).records.isEmpty && !(rt s n).cqDead && !cqFull s n) s <|
    postHw (stopRing (setRt s n { rt s n with cqDead := true }) n 5) 0x8906 [(1, n), (4, cqTail s n)]

/-- CQ_STALL (R110, Table 2.7): once per stall, after more than 1 ms. -/
def execCqStall (ring : Fin 64) (s : State) : Host.Outcome State Fault Refusal :=
  let n := ring.val
  let r := rt s n
  nextOf s <|
    match r.stallSince with
    | none => s
    | some c =>
      onlyIf (cqFull s n && !r.stallPosted && c + cyclesPerMs < s.cycle) s <|
        postHw (setRt s n { r with stallPosted := true }) 0x0905 [(1, n), (4, cqHead s n)]

/-- The program of ring n is suspended (R1162): begun, not ended, ENABLE 0. -/
def suspended (s : State) (n : Nat) : Bool := !ringEnabled s n && (rt s n).begun

/-- The RW fields of a CR_CTRL write other than ENABLE: VECTOR, IRQ_EN, URGENT, and SIZE_LOG2 under R47 and R51. -/
def crCtrlFields (s : State) (n : Nat) (v : Word) : State :=
  let s := wrF s (rCrCtrl n) 47 36 (field v 47 36)
  let s := wrF s (rCrCtrl n) 8 8 (field v 8 8)
  if ringEnabled s n ∨ suspended s n ∨ 9 ≤ field v 27 24 then s else wrF s (rCrCtrl n) 27 24 (field v 27 24)

/-- ENABLE of a CR_CTRL write (R53, R1162): enabling resumes or starts, disabling suspends. -/
def crSetEnable (s : State) (n : Nat) (e : Bool) : State :=
  if e then startProgram (refreshFull (wrB s (rCrCtrl n) 0 true) n) n
  else refreshFull (wrB s (rCrCtrl n) 0 false) n

end Sys2Proof.Machine
end

