-- ==== Sys2Proof/Machine/RingReset.lean ====
section
/-! DEFINITION. Abort and reset of a command ring, and the writes of CR_CTRL (chapter Programming the Device). -/

namespace Sys2Proof.Machine

/-- The waiting instruction of ring n ends its wait: a LOCK stops imposition and withdraws what it imposed, a PALLOC leaves
its wait FIFO (R92, R98 step 2, R150, R1052). A CRD in execution completes its reads. -/
def endWaiting (s : State) (n : Nat) : State :=
  match (rt s n).waiting with
  | none => s
  | some w =>
    if w.opcode = opLock then
      { galleyReopen s with forme := { (galleyReopen s).forme with pendLock := none } }
    else if w.opcode = opPalloc then pallocLeave s n
    else
      match w.kind with
      | .crd done first units set ack dest block _ =>
        let r := crdRest s set ack block ((List.range (units - done)).map (fun i => first + done + i))
        wr (ownerWrite r.1 n dest r.2) (rCrLastIsn n) (BitVec.ofNat 64 w.isn)
      | _ => s

/-- The record that a ring in WAIT for room in its completion ring holds back last: that of its current instruction; a disabled
ring is not in WAIT (R1162). [log 87 DEDUCED] -/
def heldRec (s : State) (n : Nat) : Option Rec := if cqFull s n ∧ ringEnabled s n then (rt s n).records.getLast? else none

/-- An instruction that waits for room in its completion ring completes with E_ABORT and its program aborts (R92, the text
under Table 2.3). [log 87 DEDUCED] -/
def abortHeld (s : State) (n : Nat) (x : Rec) : State :=
  let r := rt s n
  let y : Rec := { x with result := 0, status := statusCode .eAbort }
  let t := setRt s n { r with records := r.records.dropLast ++ [y] }
  if x.opcode = opEnd then abortProgram t n x.isn (statusCode .eAbort) true
  else if r.begun ∧ x.isn = r.lastIsn then abortProgram t n x.isn (statusCode .eAbort) false
  else if r.begun then abortProgram s n r.lastIsn (statusCode .eAbort) false
  else s

/-- Abort the program of ring n (R92, R93, R1162): a waiting instruction completes with E_ABORT first, and one in execution
completes normally. [log 87 DEDUCED] -/
def ringAbort (s : State) (n : Nat) : State :=
  let r := rt s n
  match r.waiting with
  | some w =>
    if inExec w then setRt s n { r with abortAfter := some (w.isn, statusCode .eAbort) }
    else completeIns (endWaiting s n) n w.isn w.opcode w.flags .eAbort 0 true
  | none =>
    match heldRec s n with
    | some x => abortHeld s n x
    | none => if r.begun then abortProgram s n r.lastIsn (statusCode .eAbort) false else s

/-- Reset ring n (R98, R99, R126); its role ends (R405). [log 15 DEDUCED] -/
def ringReset (s : State) (n : Nat) : State :=
  let s := wrF s (rCrStatus n) 10 8 rsResetting
  let s := endWaiting s n
  let s := if galleyState s = gsOpen ∧ galleyOwner s = n then setPhase (galleyNone s) 0
    else if galleyState s = gsPending ∧ galleyOwner s = n then wrB s rFormeStatus 16 true else s
  let s := { s with
    ctl := { s.ctl with
      recent := s.ctl.recent.filter (fun x => x.ring ≠ n)
      sasws := s.ctl.sasws.map (fun x => if x.ring = n then { x with orphan := true } else x) } }
  let s := wr (wr (wr (wr s (rCrHead n) 0#64) (rCrTail n) 0#64) (rCqHead n) 0#64) (rCqTail n) 0#64
  let s := wrB (wrB s (rCrCtrl n) 0 false) (rCrStatus n) 4 false
  endRole (setRt (wrF s (rCrStatus n) 10 8 rsDisabled) n {}) n

/-- Reset every ring that satisfies `p`. -/
def ringsReset (s : State) (p : Nat → Bool) : State := ((List.range 64).filter p).foldl ringReset s

/-- A write of CR_CTRL: RESET overrides what else the write asks; ABORT acts after ENABLE (R92, R98, R1162). -/
def crCtrlWrite (s : State) (n : Nat) (mask value : Word) : State :=
  let v := (rd s (rCrCtrl n) &&& ~~~ mask) ||| (value &&& mask)
  let s := crCtrlFields s n v
  if (value &&& mask).getLsbD 1 then ringReset s n
  else
    let s := crSetEnable s n (v.getLsbD 0)
    if (value &&& mask).getLsbD 2 then ringAbort s n else s

end Sys2Proof.Machine
end

