-- ==== Sys2Proof/Machine/Resets.lean ====
section
/-! DEFINITION. Start, warm reset, boot save, temperature and the first-use values (chapters Start-up, Reset and Error
Containment; Power, Thermal and Package). -/

namespace Sys2Proof.Machine

def setDevState (s : State) (v : Nat) : State := wrF s rDevState 2 0 v
def setResetCause (s : State) (v : Nat) : State := wrF s rResetCause 2 0 v

/-- Elapsed milliseconds since the last reset. -/
def msSinceReset (s : State) : Nat := (s.cycle - s.mp.perfBase) / cyclesPerMs

/-- HOLD becomes RUN (R1088, R1089), by START (0) or AUTO_START (1), and the enabled ports leave electrical idle. -/
def startRun (s : State) (auto : Nat) : State :=
  (List.range 256).foldl beginPort (postHw (setDevState s stRun) 0x0D01 [(1, auto), (4, msSinceReset s)])

/-- The journal entry of a reset: kind 0 cold, 1 warm, 2 zeroise (Table 15.3). -/
def journalReset (s : State) (kind : Nat) : State := journal s 0x0070 hwOrigin [(1, kind)]

-- Counters and marks that a reset clears (R843, Table 13.1)

/-- Counter and latched registers below 0x0100_0000. -/
def counterLow (o : Nat) : Bool :=
  o = rSnareCapDrop || o = rSnareHalf || (decide (0x2100 ≤ o) && decide (o < 0x2500))
    || o = rMpDrop 0 || o = rMpDrop 1
    || (decide (0x8100 ≤ o) && decide (o < 0x8118))
    || o = rRndHalf || (decide (0xE100 ≤ o) && decide (o < 0xE120))
    || (decide (0x11000 ≤ o) && decide (o < 0x13000) && o % 32 = 24)
    || (decide (0x20100 ≤ o) && decide (o < 0x20500) && decide (0x10 ≤ o % 0x40))
    || o = rMirrorHalf || (decide (0x21000 ≤ o) && decide (o < 0x24000)) || (decide (0x28000 ≤ o) && decide (o < 0x30000))
    || (decide (0x24000 ≤ o) && decide (o < 0x24800) && (o % 0x80 = 0x60 || o % 0x80 = 0x68))
    || (decide (0x80000 ≤ o) && decide (o < 0x100000))
    || (decide (0x410000 ≤ o) && decide (o < 0x420000) && decide (0x28 ≤ o % 0x40))
    || (decide (0x801000 ≤ o) && decide (o < 0x810000) && decide (0x28 ≤ o % 0x40))

/-- The same from 0x0100_0000 on. -/
def counterHigh (o : Nat) : Bool :=
  if o < 0x2000000 then
    let q := o % 0x10000
    (decide (0x100 ≤ q) && decide (q < 0x700)) || decide (0x1000 ≤ q)
  else if o < 0x2800000 then decide (0x4000 ≤ o % 0x100000) && decide (o % 0x100000 < 0x4200)
  else if o < 0x3800000 then
    o = rPermitDrop || (decide (0x3100000 ≤ o) && decide (o < 0x3300000) && decide (0x20 ≤ o % 0x40))
      || decide (0x3300000 ≤ o)
  else decide (0x3C00000 ≤ o) && (o % 0x1000 = 0x10 || (decide (0x80 ≤ o % 0x1000) && decide (o % 0x1000 < 0xC0)))

/-- [log 27 DEDUCED] -/
def isCounterReg (o : Nat) : Bool := if o < 0x1000000 then counterLow o else decide (o < 0x4000000) && counterHigh o

/-- Every counter, half-range bit, wrap bit, PERF_OVF bit and high-water mark becomes 0 (R843). [log 27 DEDUCED] -/
def clearCounters (s : State) : State :=
  { s with
    regs := s.regs.filter (fun x => !isCounterReg x.1)
    ctrs := [] }

-- First use (R1107, Table 18.7)

/-- Every frame in the data path goes, without count (Table 18.9); a transmit-ring frame not yet sent is written back as
dropped, and the receive chains' buffers return to their pools. [log 71 DEDUCED] -/
def emptyPath (s : State) : State :=
  let s := s.pool.rx.foldl (fun s x => match x.bufs with
    | none => poolLeave s x.pool (fun w => w.ring.isNone && w.copy == x.copy)
    | some l => l.foldl (fun s e => returnBuf s x.pool e) s) s
  let out := s.pool.txOut.map (fun x => if x.started ∨ x.written then x else { x with cause := some (x.cause.getD 1) })
  { s with
    path := { s.path with frames := [], copies := [], frags := [], fragQ := [], fragLast := 0, hdrWait := [], ctlQ := [], linkUpAt := [] }
    pool := { s.pool with rx := [], txOut := out } }

/-- The values of Table 18.7 other than the path's and the counters': receive SA windows are not among them here. -/
def firstUse (s : State) : State :=
  let s := { s with
    core := { s.core with
      ptrs := s.core.ptrs.filter (fun x => decide (9 * 2 ^ 16 ≤ x.1)), credit := [], matchQ := [], vtime := [], buckets := []
      spilling := [], refilling := [], holds := [], now := {} }
    learn := { s.learn with learnQ := [], learnRr := 0, flushQ := [], rebal := [], ageClock := 0, ageAt := s.cycle }
    clk := { s.clk with servoFirst := [] }
    mp := { s.mp with mirrorCount := [], perfBase := s.cycle } }
  setCase s (s.forme.case.filter (fun e => !e.learned))

/-- Every Peal schedule stops (R877). -/
def stopPeals (s : State) : State := (List.range 16).foldl (fun s k => if pealEnabled s k then pealDisable s k else s) s

/-- One front port at step 1 of a warm reset (R1111, R1165): its lanes go to electrical idle, no flush is made, and a hold that
runs ends. [log 71 DEDUCED, 71 DEDUCED] -/
def warmDown (s : State) (p : Nat) : State :=
  let s := { wrB s (rPortStatus p) 11 false with
    path := { s.path with
      linkHold := smSet (fun _ => 0) s.path.linkHold p 0
      mmTry := smSet (fun _ => (0, 0)) s.path.mmTry p (0, 0) } }
  let s := setSide (pcsState s p 6) p 0
  if rdB s (rPortStatus p) 0 then
    let s := wrF (wrB s (rPortStatus p) 0 false) (rPortStatus p) 19 17 0
    let s := postHw (wrB s (rPortEvents p) 0 true) 0x4101 [(2, p), (1, 6)]
    let s := clearFlowControl (setLiveness s p false) p
    { s with path := { s.path with linkDownAt := smSet (fun _ => 0) s.path.linkDownAt p s.cycle } }
  else s

/-- A drain under way ends and the catch-up completes (Table 18.9 step 3). -/
def finishRetire (s : State) : State :=
  let s := if prevState s = 1 then
      let s := setTodo (setPrev s 2) (syncList s.forme.lastLog (standby s))
      { s with forme := { s.forme with drainNs := nsOfCycles (s.cycle - s.forme.lockCycle) } }
    else s
  if prevState s = 2 then
    let s := setPrev (makeAll s s.forme.formeTodo) 0
    postHw { s with forme := { s.forme with lastLog := [] } } 0x0911 [(8, formeGen s - 1), (8, s.forme.drainNs)]
  else s

/-- A warm reset (R1109, R1111, R1165), whole: accepted in HOLD and RUN (R1110), it returns to the state it found, and in RUN
the enabled ports train again. [log 71 DEDUCED] -/
def warmReset (s : State) : State :=
  let st := devState s
  let s := closeAllWindows s
  let s := postHw (journalReset (setResetCause s 3) 1) 0x0D0A [(1, st)]
  let s := abandonSave s 1
  let s := (List.range 256).foldl warmDown s
  let s := finishRetire (emptyPath s)
  let s := takeMode (stopPeals (firstUse (clearCounters s)))
  if st = stRun then (List.range 256).foldl beginPort s else s

-- The boot save (R1097 to R1102)

/-- A keyed SAVE write (R1098, R1099): the other slot's manifest is erased first. -/
def saveStart (s : State) : State :=
  if devState s < stHold ∨ formeGen s = 0 ∨ rdB s rBootStatus 3 ∨ boundary s = bsError then wrB s rBootStatus 2 true
  else
    let k := match newestBoot s with
      | some 0 => 1
      | _ => 0
    let s := setBootSlot s k none
    wrB { s with pwr := { s.pwr with bootSaving := some k } } rBootStatus 3 true

-- Temperature (R1138, R1139, Table 19.13)

/-- Sensor k in 1/16 degree. -/
def tempOf (s : State) (k : Nat) : Int := signedOf 16 (rdF s (rTemp k) 15 0)

/-- The lowest sensor at or above its warning threshold. -/
def thermHot (s : State) : Option Nat :=
  let die := min (rdF s rThermCtrl 7 0) 105
  let hbm := min (rdF s rThermCtrl 15 8) 95
  findBelow 20 (fun k => if k < 18 then decide ((16 * die : Int) ≤ tempOf s k) else hasDeep s && decide ((16 * hbm : Int) ≤ tempOf s k))

/-- The greatest of some sensors in whole degrees, as an 8-bit field. -/
def thermMax (s : State) (l : List Nat) : Nat :=
  match l with
  | [] => 0
  | k :: t => toTwos 8 ((t.foldl (fun m j => max m (tempOf s j)) (tempOf s k)) / 16)

/-- THERM_STATUS and THERM_N follow the sensors and thresholds. -/
def thermRefresh (s : State) : State :=
  let s := wrF s rThermStatus 63 56 (thermMax s (List.range 18))
  let s := wrF s rThermStatus 55 48 (if hasDeep s then thermMax s [18, 19] else 0)
  let s := wrF s rThermStatus 47 40 (thermMax s [20, 21, 22, 23])
  match thermHot s with
  | some k =>
    if rdB s rThermStatus 0 then s
    else
      let s := { s with pwr := { s.pwr with thermSince := s.cycle } }
      postHw (wrF s rThermStatus 1 0 3) 0x4D20 [(1, k), (2, rdF s (rTemp k) 15 0)]
  | none =>
    if rdB s rThermStatus 0 then
      postHw (wrB s rThermStatus 0 false) 0x0D21 [(8, (s.cycle - s.pwr.thermSince) / cyclesPerMs)]
    else s

end Sys2Proof.Machine
end

