-- ==== Sys2Proof/Machine/RegWrite.lean ====
section
/-! DEFINITION. What a write of a register does, whoever makes it: RW, W1C and WO fields, and the effects the register
tables of every chapter give a write. -/

namespace Sys2Proof.Machine

/-- What became of a write: it took effect, it changed nothing, or it was discarded with the status that an RW or RMW then
completes with. -/
inductive WOut where
  | took
  | quiet
  | bad (st : Status)
deriving DecidableEq, Repr

/-- A write took effect, or it was discarded. [log 106 DEDUCED] -/
def tookIf (b : Bool) : WOut := if b then .took else .quiet

/-- The value of a register after a write of its RW and W1C fields (R14). [log 20 DEDUCED] -/
def mergeReg (i : RegInfo) (old mask value : Word) : Word :=
  let m := mask &&& BitVec.ofNat 64 i.rw
  ((old &&& ~~~ m) ||| (value &&& m)) &&& ~~~ (value &&& mask &&& BitVec.ofNat 64 i.w1c)

/-- A write of a register with no effect beyond its fields. -/
def plainWrite (s : State) (o : Nat) (mask value : Word) : State :=
  match regInfo (o % 2 ^ 32) with
  | none => s
  | some i => wr s o (mergeReg i (rd s o) mask value)

/-- The key of a device command does not match: the write is discarded (R1010, R1097). -/
def keyErr (s : State) (o : Nat) : State × WOut := (accessErr s (decide (2 ^ 32 ≤ o)) accKeyErr (o % 2 ^ 32), .quiet)

/-- A write of DEV_CTRL (R1010, R1011, R1110). [log 21 DEDUCED] -/
def devCtrlWrite (s : State) (o : Nat) (v : Word) : State × WOut :=
  if v.getLsbD 1 then
    if field v 63 32 ≠ 0x5741524D then keyErr s o
    else if stHold ≤ devState s then (warmReset s, .took) else (s, .quiet)
  else if v.getLsbD 0 ∧ devState s = stHold then (startRun s 0, .took)
  else (s, .quiet)

/-- A write of HOST_CFG: GLOBAL_LINK at once, the stored fields into the store (Table 16.7). -/
def hostCfgWrite (s : State) (mask value : Word) : State :=
  let m := mask &&& (fieldMask 40 40 ||| fieldMask 26 16 ||| fieldMask 13 8 ||| 1#64)
  let v := (BitVec.ofNat 64 (hostCfg s) &&& ~~~ m) ||| (value &&& m)
  let s := wrB s rHostCfg 40 (v.getLsbD 40)
  { s with pwr := { s.pwr with nv := { s.pwr.nv with
    bifurcate := v.getLsbD 0, ringSplit := field v 13 8, frameSplit := field v 26 16 } } }

/-- A write of IRQ_CTRL (R1026). -/
def irqCtrlWrite (s : State) (o : Nat) (mask value : Word) : State :=
  let s := plainWrite s o mask value
  let l := decide (2 ^ 32 ≤ o)
  if (value &&& mask).getLsbD 0 ∧ rdB s o 36 ∧ summaryOn s l then raiseSummary s l else s

/-- A write of BOOT_CTRL (R1097, Table 18.13). -/
def bootCtrlWrite (s : State) (o : Nat) (mask value : Word) : State × WOut :=
  let v := value &&& mask
  if v.getLsbD 0 ∧ field v 63 32 ≠ 0x53415645 then keyErr s o
  else
    let s := if mask.getLsbD 1 then
        { s with pwr := { s.pwr with nv := { s.pwr.nv with autoStart := v.getLsbD 1 } } } else s
    (if v.getLsbD 0 then saveStart s else s, .took)

/-- A write of MBX_CTRL of channel c (R934, R935). -/
def mbxCtrlWrite (s : State) (c : Nat) (mask value : Word) : State × WOut :=
  if (value &&& mask).getLsbD 0 then
    if rdB s (rMbxStatus c) 1 then (wrB s (rMbxStatus c) 3 true, .quiet)
    else (wrB (plainWrite s (rMbxCtrl c) mask value) (rMbxStatus c) 1 true, .took)
  else (plainWrite s (rMbxCtrl c) mask value, .took)

/-- A write of MAINT_CTRL: requests that a cleared HOLD bit deferred are granted or queued (R949), and queued ones whose activity is
enabled again are granted (Table 14.14). -/
def maintCtrlWrite (s : State) (mask value : Word) : State :=
  let s := plainWrite s rMaintCtrl mask value
  let free := s.mp.maintHeld.filter (fun x => !rdB s rMaintCtrl (32 + x.act))
  maintStatus (maintDrain (free.foldl
    (fun s x => maintAsk { s with mp := { s.mp with maintHeld := s.mp.maintHeld.erase x } } x.act x.unit true) s))

/-- A write of the registers below 0x4000. -/
def lowWrite (s : State) (o : Nat) (mask value : Word) : State × WOut :=
  let b := o % 2 ^ 32
  if b = rDevCtrl then devCtrlWrite s o (value &&& mask)
  else if b = rHostCfg then (hostCfgWrite s mask value, .took)
  else if b = rIrqCtrl then (irqCtrlWrite s o mask value, .took)
  else if b = rBootCtrl then bootCtrlWrite s o mask value
  else if b = rThermCtrl then (thermRefresh (plainWrite s b mask value), .took)
  else if 0x1000 ≤ b ∧ b < 0x1200 ∧ b % 0x40 = 0x10 then mbxCtrlWrite s ((b - 0x1000) / 0x40) mask value
  else if b = rFragCtrl then (if (value &&& mask).getLsbD 0 then (fragFlush s, .took) else (s, .quiet))
  else if b = rMaintCtrl then (maintCtrlWrite s mask value, .took)
  else if b = rIrqEnable then (plainWrite s o mask value, .took)
  else (plainWrite s b mask value, .took)

/-- A write of LEARN_RING_CTRL: R47 and R51 (R567). -/
def learnCtrlWrite (s : State) (mask value : Word) : State :=
  let t := plainWrite s rLearnCtrl mask value
  if rdB s rLearnCtrl 0 ∨ 9 ≤ rdF t rLearnCtrl 27 24 then wrF t rLearnCtrl 27 24 (rdF s rLearnCtrl 27 24) else t

/-- A write of the Case, ASA, core, traffic-manager and observation windows. -/
def windowWrite (s : State) (o : Nat) (mask value : Word) (env : WriteEnv) : State × WOut :=
  if 0x8010 ≤ o ∧ o < 0x8030 then
    if seedWritable s then (seedWrite s ((o - 0x8010) / 8) mask value, .took) else (s, .bad .eCheck)
  else if o = rLearnFlush then (learnFlushWrite s (value &&& mask), tookIf (learnFlushTaken s (value &&& mask)))
  else if rPortLearn 0 ≤ o ∧ o < rPortLearn 266 ∧ o % 16 = 0 then
    let p := (o - rPortLearn 0) / 16
    (plainWrite (fixBucket s (kMove p) (moveInc s p) moveCap) o mask value, .took)
  else if o = rLearnBase then if rdB s rLearnCtrl 0 then (s, .quiet) else (plainWrite s o mask value, .took)
  else if o = rLearnCtrl then (learnCtrlWrite s mask value, .took)
  else if o = rLearnHead then
    let s := plainWrite s o mask value
    ({ s with learn := { s.learn with learnIrqArmed := true } }, .took)
  else if o = rCoreCtrl then
    let r := coreCtrlWrite s mask value
    (r.1, if r.2 then .bad .eHeadroom else .took)
  else if 0x11000 ≤ o ∧ o < 0x13000 ∧ o % 32 = 24 then (s, .took)
  else if 0x11000 ≤ o ∧ o < 0x13000 then (stormWrite s ((o - 0x11000) / 32) (o % 32 / 8) mask value, .took)
  else if 0x20100 ≤ o ∧ o < 0x20500 ∧ o % 0x40 = 0 then (forceEvents s (plainWrite s o mask value), .took)
  else if 0x20100 ≤ o ∧ o < 0x20500 ∧ o % 0x40 = 8 then
    let s := plainWrite s o mask value
    ({ s with mp := { s.mp with mirrorCount := smSet (fun _ => 0) s.mp.mirrorCount ((o - 0x20100) / 0x40) 0 } }, .took)
  else if 0x24000 ≤ o ∧ o < 0x24800 then
    let k := (o - 0x24000) / 0x80
    if o % 0x80 = 0 then (pealCtrlWrite s k mask value env.pealList, tookIf (pealCtrlTaken s k mask value))
    else if o % 0x80 = 0x48 then if pealEnabled s k then (s, .quiet) else (plainWrite s o mask value, .took)
    else if o % 0x80 ≠ 0x38 ∧ pealEnabled s k then (s, .quiet)
    else (pealRegWrite s k o mask value, .took)
  else (plainWrite s o mask value, .took)

/-- A control reset (R918 steps 1 to 3; both Claves run their self-tests): `flush` lets the writes already accepted reach their targets.
[log 61 DEDUCED] -/
def ctrlReset (s : State) (flush : State → State) : State :=
  flush (ringsReset (setClaveState (setClaveState (setClaveMode s cmResetting) false 1) true 1) (fun _ => true))

/-- A write of CLAVE_CTRL (R918, R926). -/
def claveCtrlWrite (s : State) (mask value : Word) (flush : State → State) : State :=
  let s := plainWrite s rClaveCtrl mask value
  if (value &&& mask).getLsbD 2 then ctrlReset s flush else s

/-- A write of a command ring's register (R50, R51, R1163). -/
def ringRegWrite (s : State) (n o : Nat) (mask value : Word) : State × WOut :=
  if o = rCrCtrl n then (crCtrlWrite s n mask value, .took)
  else if o = rCqHead n then (cqHeadWrite s n mask value, .took)
  else if (o = rCrBase n ∨ o = rCqBase n) ∧ (ringEnabled s n ∨ suspended s n) then (s, .quiet)
  else (plainWrite s o mask value, .took)

/-- A write of the pool manager's registers and the PF1 rings' (R1031, R1072). -/
def poolRegWrite (s : State) (o : Nat) (mask value : Word) : State × WOut :=
  if 0x400100 ≤ o ∧ o < 0x400500 then
    let k := (o - 0x400100) / 0x40
    if o % 0x40 = 0 then (poolCfgWrite s k mask value, tookIf (poolCfgTaken s k mask value))
    else if o % 0x40 = 8 ∨ o % 0x40 = 0x10 then
      if poolEnabled s k then (s, .quiet) else (poolBaseWrite s k o mask value, .took)
    else (plainWrite s o mask value, .took)
  else if 0x410000 ≤ o ∧ o < 0x430000 then
    let tx := decide (0x420000 ≤ o)
    let r := (o - 0x410000) % 0x10000 / 0x40
    if o % 0x40 = 0 then if rdB s (rFr tx r 8) 0 then (s, .quiet) else (frBaseWrite s tx r mask value, .took)
    else if o % 0x40 = 8 then (frCtrlWrite s tx r mask value, tookIf (frCtrlTaken s tx r mask value))
    else (plainWrite s o mask value, .took)
  else (plainWrite s o mask value, .took)

/-- A write of DOM_CTRL_d: a servo that is enabled has no offset yet (R776). -/
def domCtrlWrite (s : State) (o : Nat) (mask value : Word) : State :=
  let d := (o - 0x800100) / 0x40
  let t := plainWrite s o mask value
  if rdB t o 63 ∧ ¬ rdB s o 63 then
    { t with clk := { t.clk with servoFirst := smSet (fun _ => false) t.clk.servoFirst d false } }
  else t

/-- A write of PPS_IN_CFG_i: an input that is enabled has seen no edge since (R787). -/
def ppsInWrite (s : State) (o : Nat) (mask value : Word) : State :=
  let i := (o - 0x800200) / 0x20
  let t := plainWrite s o mask value
  if rdB t o 63 ∧ ¬ rdB s o 63 then
    { t with core := { t.core with ptrs := smSet (fun _ => 0) t.core.ptrs (9 * 2 ^ 16 + i) t.cycle } }
  else t

/-- A write of the time block (R779, R806). -/
def timeWrite (s : State) (o : Nat) (mask value : Word) : State × WOut :=
  if o = rTimeCtrl then
    if value.getLsbD 0 ∧ mask.getLsbD 0 ∧ ¬ hasDomB s then (s, .quiet) else (timeCtrlWrite s mask value, .took)
  else if o = rDomCtrl 0 ∨ o = rDomCtrl 1 then (domCtrlWrite s o mask value, .took)
  else if o = rPpsInCfg 0 ∨ o = rPpsInCfg 1 then (ppsInWrite s o mask value, .took)
  else if o = rTsrBase ∧ rdB s rTsrCtrl 0 then (s, .quiet)
  else if o = rTsrHead then
    let s := plainWrite s o mask value
    ({ s with core := { s.core with tsrIrqArmed := true } }, .took)
  else (plainWrite s o mask value, .took)

/-- A write of a port window: a test pattern on a lane takes its port down (Table 5.15). [log 73 DEDUCED] -/
def portWrite (s : State) (o : Nat) (mask value : Word) : State × WOut :=
  let p := (o - 0x1000000) / 0x10000
  let q := o % 0x10000
  if q = 0 then (portCfgWrite s p mask value, .took)
  else if 0x800 ≤ q ∧ q < 0x840 then
    let s := plainWrite s o mask value
    let g := rdF s o 15 12
    match (if 1 ≤ g ∧ g ≤ 3 then lanePort s (p / 8) ((q - 0x800) / 8) else none) with
    | some x => (takeDown s x 0 false false, .took)
    | none => ((lanePort s (p / 8) ((q - 0x800) / 8)).elim s (beginPort s), .took)
  else (plainWrite s o mask value, .took)

-- The cipher block (R383, R407, R411, R434)

/-- The SA an association number named before the write goes back to LOADED where no SecY names it any more. [log 30 DEDUCED] -/
def saLeave (t : State) (o : Option Nat) : State :=
  match o with
  | some a => if saState t true a = saCurrent ∧ ¬ rxAtCurAn t a then setSaState t true a saLoaded else t
  | none => t

/-- A receive SA becomes CURRENT when it is the SA at CUR_AN (Table 6.18): any that holds a key. [log 30 DEDUCED] -/
def saEnter (t : State) (o : Option Nat) : State :=
  match o with
  | some a => if saState t true a = saEmpty then t else setSaState t true a saCurrent
  | none => t

/-- Mapping an AN makes the SA at CUR_AN CURRENT; an SA that is no longer at any CUR_AN is no longer CURRENT
(Table 6.18). -/
def secySaWrite (s : State) (i : Nat) (mask value : Word) : State :=
  let o := rSecySa i
  let t := saLeave (plainWrite s o mask value) (anMap s i (rdF s o 63 62))
  saEnter t (anMap t i (rdF t o 63 62))

/-- A receive SA is mapped in some RX_SECY_SA. -/
def rxMapped (s : State) (a : Nat) : Bool :=
  (List.range 1024).any (fun i => (List.range 4).any (fun n => anMap s i n == some a))

/-- R434 forbids a write of this SA's SA_CTRL. -/
def saCtrlLocked (s : State) (rx : Bool) (a : Nat) : Bool :=
  saState s rx a = saCurrent || saState s rx a = saRetiring || (rx && rxMapped s a)

/-- A write of the cipher block by an RW or RMW that R406 and R419 let through; `operator_` is the ring's. -/
def cipherWrite (s : State) (o : Nat) (mask value : Word) (operator_ : Nat) : State × WOut :=
  let out (r : State × Option Status) : State × WOut := (r.1, match r.2 with
    | none => .took
    | some st => .bad st)
  if o = rCipherMode then out (cipherModeWrite s mask value operator_)
  else if o = rMirrorPermit then
    let t := plainWrite s o mask value
    (forceEvents s { t with pwr := { t.pwr with nv := { t.pwr.nv with mirrorPermit := rdF t o 15 0 } } }, .took)
  else if o = rTamperStatus then
    let t := plainWrite s o mask value
    ({ t with pwr := { t.pwr with nv := { t.pwr.nv with tamper := rdF t o 3 0 } } }, .took)
  else if 0x3010000 ≤ o ∧ o < 0x3020000 then
    let i := (o - 0x3010000) / 0x40
    if o % 0x40 = 0 then (forceEvents s (plainWrite s o mask value), .took)
    else if o % 0x40 = 8 then (secySaWrite s i mask value, .took)
    else if o % 0x40 = 0x20 then out (txCurWrite s i mask value)
    else (plainWrite s o mask value, .took)
  else if 0x3100000 ≤ o ∧ o < 0x3300000 ∧ o % 0x40 = 0 then
    let rx := decide (0x3200000 ≤ o)
    if saCtrlLocked s rx ((o - 0x3100000) % 0x100000 / 0x40) then (s, .bad .eCheck) else (plainWrite s o mask value, .took)
  else (plainWrite s o mask value, .took)

/-- A write of a performance page: a new selection holds from the next core cycle on (R860). -/
def perfWrite (s : State) (o : Nat) (mask value : Word) : State :=
  let n := s.core.now.perfOld
  let s := if n.any (fun x => x.1 = o) then s
    else { s with core := { s.core with now := { s.core.now with perfOld := (o, rd s o) :: n } } }
  plainWrite s o mask value

/-- A write of a register by whoever may make it: `o` is the banked offset, `flush` what a control reset does to the
writes already accepted, `operator_` the identity behind it. -/
def regWrite (s : State) (o : Nat) (mask value : Word) (env : WriteEnv) (operator_ : Nat) (flush : State → State) : State × WOut :=
  if 2 ^ 32 ≤ o ∨ o < 0x4000 then lowWrite s o mask value
  else if o < 0x100000 then windowWrite s o mask value env
  else if o = rClaveCtrl then (claveCtrlWrite s mask value flush, .took)
  else if o < 0x101000 then (plainWrite s o mask value, .took)
  else if o < 0x105000 then ringRegWrite s ((o - 0x101000) / 0x100) o mask value
  else if o < 0x800000 then poolRegWrite s o mask value
  else if o < 0x1000000 then timeWrite s o mask value
  else if o < 0x2000000 then portWrite s o mask value
  else if 0x3000000 ≤ o ∧ o < 0x3800000 then cipherWrite s o mask value operator_
  else if 0x3C00000 ≤ o then (perfWrite s o mask value, .took)
  else if o = rRecCtrl then (recCtrlWrite s mask value env.recPass, .took)
  else (plainWrite s o mask value, .took)

end Sys2Proof.Machine
end

