-- ==== Sys2Proof/Machine/Gate.lean ====
section
/-! DEFINITION. The Write Gate: direct writes, their order, their journal entries, and the forms of a BAR0 write TLP
(chapters Programming the Device and Host Interface and Register Map). -/

namespace Sys2Proof.Machine

/-- The registers a BAR0 write TLP names, with the bits it writes (R1015); none for a form that R1016 discards. -/
def tlpWrites (o : Nat) (d : List Byte) : Option (List (Nat × Word × Word)) :=
  let n := d.length
  if n = 4 ∧ o % 4 = 0 then
    let sh := o % 8 * 8
    some [(o - o % 8, BitVec.ofNat 64 ((2 ^ 32 - 1) <<< sh), BitVec.ofNat 64 (leNat d <<< sh))]
  else if n % 8 = 0 ∧ 8 ≤ n ∧ o % 8 = 0 ∧ o % 64 + n ≤ 64 then
    some ((List.range (n / 8)).map (fun i => (o + 8 * i, BitVec.allOnes 64, BitVec.ofNat 64 (leAt d (8 * i) 8))))
  else none

/-- A direct write of these bits writes a journal entry when it takes effect (R975, R976). [log 12 DEDUCED] -/
def directJournals (o : Nat) (mask value : Word) : Bool :=
  match regInfo o with
  | none => false
  | some i =>
    mask &&& BitVec.ofNat 64 (i.rw ||| i.wo) ≠ 0#64
      && !(o = rLearnHead || o = rTsrHead || (decide (0x101000 ≤ o) && decide (o < 0x105000) && o % 0x100 = 0x28)
        || (decide (0x24000 ≤ o) && decide (o < 0x24800) && o % 0x80 = 0x38)
        || (decide (0x1000 ≤ o) && decide (o < 0x1200) && o % 0x40 = 0x10 && (value &&& mask).getLsbD 0))

/-- One accepted write reaches its target (R86, R104). -/
def gateOne (flush : State → State) (s : State) (w : GateWrite) : State :=
  let r := regWrite s w.offset w.mask w.value w.env 0 flush
  let t := { r.1 with ctl := { r.1.ctl with gateOut := r.1.ctl.gateOut + 1 } }
  let o := w.offset % 2 ^ 32
  if r.2 = .took ∧ directJournals o w.mask w.value then journalDirect t w.origin o (w.value &&& w.mask) else t

/-- Every write in the Write Gate queue reaches its target, in order. -/
def gateDrain (s : State) : State :=
  s.ctl.gateQ.foldl (gateOne id) { s with ctl := { s.ctl with gateQ := [] } }

/-- The head of the queue is withheld while its journal entry finds no room (R979). -/
def gateHeld (s : State) (w : GateWrite) : Bool :=
  directJournals (w.offset % 2 ^ 32) w.mask w.value && decide (960 ≤ staged s)

/-- The Write Gate accepts a direct write (R86, R87): it acts at once, or waits behind the writes that wait. -/
def gateAccept (s : State) (w : GateWrite) : State :=
  let s := perf { s with ctl := { s.ctl with gateIn := s.ctl.gateIn + 1 } } 40 0x0303 1
  if s.ctl.gateQ = [] ∧ ¬ gateHeld s w then gateOne id s w
  else { s with ctl := { s.ctl with gateQ := s.ctl.gateQ ++ [w] } }

/-- The register belongs to a ring, channel or PF1 ring of another agent (R49, R1005). -/
def foreignReg (s : State) (w : BarWrite) (o : Nat) : Bool :=
  if 0x101000 ≤ o ∧ o < 0x105000 then ringOwner s ((o - 0x101000) / 0x100) ≠ (if w.mp then .mp else .host w.link)
  else if 0x1000 ≤ o ∧ o < 0x1200 then !w.mp && mbxLink s ((o - 0x1000) / 0x40) != w.link
  else if 0x410000 ≤ o ∧ o < 0x430000 then !w.mp && frameLink s ((o - 0x410000) % 0x10000 / 0x40) != w.link
  else false

/-- PF2 may write page b (R862, R863). -/
def pf2Open (s : State) (b : Nat) : Bool := rdB s rPerfUser 63 && rdB s rPerfUser 62 && decide (b < 48) && rdB s rPerfUser b

/-- MP firmware's own timestamp ring (Table 12.6). [log 12 DEDUCED] -/
def mpTsrWrite (s : State) (o : Nat) (mask value : Word) : State :=
  if o = rMpTsrBase ∧ rdB s (rMpTsrBase + 8) 0 then s
  else match regInfo (o - 0x40) with
    | none => s
    | some i => wr s o (mergeReg i (rd s o) mask value)

/-- A direct write of one register arrives (R5, R106, R406, R836, R1005, R1008, R1086). -/
def directReg (s : State) (w : BarWrite) (env : WriteEnv) (o0 : Nat) (mask value : Word) : State :=
  let o := if w.pf2 then rPerf (o0 / 0x1000) (o0 % 0x1000) else o0
  if ¬ w.mp ∧ ¬ hostOk s w.link o then s
  else if absentOff s o ∨ (regInfo o).isNone ∨ (0x3000000 ≤ o ∧ o < 0x3800000) then s
  else if w.pf2 ∧ ¬ pf2Open s (o0 / 0x1000) then s
  else if foreignReg s w o then if w.mp then s else accessErr s w.link accForeign o
  else if w.mp ∧ rMpTsrBase ≤ o ∧ o ≤ rMpTsrHead then mpTsrWrite s o mask value
  else gateAccept s ⟨writeKey w.link o, mask, value, if w.pf2 then 0x0FFE else 0x0FFF, 0, env⟩

/-- A BAR0 write TLP (R1015, R1016). -/
def directWrite (s : State) (w : BarWrite) (env : WriteEnv) : State :=
  match tlpWrites w.offset w.data with
  | some l => l.foldl (fun s x => directReg s w env x.1 x.2.1 x.2.2) s
  | none =>
    if w.mp ∨ devState s < stSelftest ∨ (w.link ∧ ¬ s.host.bifNow) then s
    else accessErr s w.link accBadWrite w.offset

/-- The TLP writes the low bits of register o, and the written value satisfies p. -/
def writesReg (w : BarWrite) (o : Nat) (p : Word → Bool) : Bool :=
  !w.pf2 && ((tlpWrites w.offset w.data).getD []).any (fun x => x.1 = o && p (x.2.2 &&& x.2.1))

/-- An 8-byte write of register o by the host over a link. -/
def hostWrite (link : Bool) (o : Nat) (v : Word) : BarWrite :=
  { mp := false, link := link, pf2 := false, offset := o, data := leBytes 8 v.toNat }

/-- The same by whoever writes a ring register. -/
def whoWrite (w : Who) (o : Nat) (v : Word) : BarWrite :=
  { mp := w.mp, link := w.link, pf2 := false, offset := o, data := leBytes 8 v.toNat }

/-- Nothing outside the block is read. -/
def noEnv : WriteEnv := { pealList := none, recPass := false }

end Sys2Proof.Machine
end

