-- ==== Sys2Proof/Machine/BootImages.lean ====
section
/-! DEFINITION. The boot image: what a save holds, the checks at LOAD, and what a whole image restores (chapter Start-up,
Reset and Error Containment). -/

namespace Sys2Proof.Machine

/-- Table 18.3 in the windows below 0x0080_0000. -/
def bootHeldLow (o : Nat) : Bool :=
  o = rMpShedCfg || o = rMpShedCfg + 8 || o = rMaintCtrl || o = rMaintCtrl + 0x10
    || o = 0x8000 || (decide (0x9000 ≤ o) && decide (o < 0x9400)) || (decide (0xA000 ≤ o) && decide (o < 0xA000 + 16 * 266) && o % 16 = 0)
    || (decide (0x40000 ≤ o) && decide (o < 0x60000))
    || o = 0xC000 || o = 0xC010 || o = rCoreCtrl
    || (decide (0x11000 ≤ o) && decide (o < 0x13000) && decide (o % 32 < 24))
    || (decide (0x20100 ≤ o) && decide (o < 0x20500) && decide (o % 0x40 < 16))

/-- Table 18.3 from there on. -/
def bootHeldHigh (o : Nat) : Bool :=
  if o < 0x1000000 then
    o = rTimeCtrl || o = rDomCtrl 0 || o = rDomCtrl 1 || o = rPpsInCfg 0 || o = rPpsInCfg 1
      || (decide (0x800240 ≤ o) && decide (o < 0x800260))
      || (decide (0x801000 ≤ o) && decide (o < 0x801000 + 0x40 * 266) && decide (o % 0x40 < 16))
  else if o < 0x2000000 then
    let q := o % 0x10000
    q = 0 || q = 0x10 || q = 0x18 || q = 0x20 || q = 0x28 || q = 0x38 || (decide (0x800 ≤ q) && decide (q < 0x840))
  else if o < 0x3000000 then false
  else (decide (0x3010000 ≤ o) && decide (o < 0x3020000) && decide (o % 0x40 < 0x20))
    || (decide (0x3100000 ≤ o) && decide (o < 0x3300000) && o % 0x40 = 0)

/-- The bits of a register that a boot image holds: its RW fields where Table 18.3 includes it; LANE_CFG without PRBS and
LOOPBACK. -/
def bootMask (o : Nat) : Nat :=
  if (if o < 0x800000 then bootHeldLow o else decide (o < 0x3800000) && bootHeldHigh o) then
    let rw := (regInfo o).elim 0 (fun i => i.rw)
    if 0x1000000 ≤ o ∧ o < 0x2000000 ∧ 0x800 ≤ o % 0x10000 then rw &&& 3 else rw
  else 0

/-- The boot image of the state as it stands in the live parity (R1095). -/
def bootImageOf (s : State) (seq : Nat) : BootImage :=
  { seq := seq, gen := formeGen s,
    regs := (s.regs.filter (fun x => bootMask x.1 ≠ 0)).map (fun x => (x.1, x.2 &&& BitVec.ofNat 64 (bootMask x.1))),
    rows := if live s then s.tab1 else s.tab0,
    case := s.forme.case.filter (fun e => entLive e (live s) && !e.learned),
    asa := s.forme.asa.filter (fun e => asaLive e (live s)) }

/-- The records of an image. -/
def bootRecords (b : BootImage) : Nat := b.regs.length + b.rows.length + b.case.length + b.asa.length

/-- The manifest of an image (R1096, Table 18.4). The records' length and digest belong to a layout that the spec keeps private, and
the signature to a key it does not give: free values. -/
def bootManifest (s : State) (b : BootImage) : List Byte :=
  leBytes 4 1 ++ leBytes 4 0 ++ leBytes 8 (devCaps s.variant).toNat ++ leBytes 8 b.gen ++ leBytes 8 (bootRecords b)
    ++ Config.freeBytes s.fresh 56 ++ leBytes 8 b.seq ++ Config.freeBytes (s.fresh + 1) 96

/-- A boot save ends well (R1099): its manifest is written last. -/
def saveDone (s : State) (k : Nat) : State :=
  let seq := newestSeq s + 1
  let b := bootImageOf s seq
  let s := setBootSlot (draw (draw s).1).1 k (some { b with manifest := bootManifest s b })
  postHw (wrB { s with pwr := { s.pwr with bootSaving := none } } rBootStatus 3 false) 0x0D03 [(1, k), (8, seq), (8, formeGen s)]

/-- A flash write of a boot save fails (R1101). -/
def saveFails (s : State) : State :=
  postHw (wrB (wrB { s with pwr := { s.pwr with bootSaving := none } } rBootStatus 3 false) rBootStatus 2 true) 0x4D04 [(1, 2)]

/-- BOOT_SAVE_END (R1099, R1101): the save that runs completes, or a flash write fails. A lock-up or a warm reset abandons it
at once (R1100). -/
def execBootSaveEnd (flashFail : Bool) (s : State) : Host.Outcome State Fault Refusal :=
  nextOf s <|
    match s.pwr.bootSaving with
    | none => s
    | some k => if flashFail then saveFails s else saveDone s k

-- At LOAD (R1103 to R1105)

/-- The slot with the greater SAVE_SEQ among those whose manifest signature verifies. -/
def bootPick (s : State) (sig0 sig1 : Bool) : Option (Nat × BootImage) :=
  let a := if sig0 then s.pwr.nv.boot0 else none
  let b := if sig1 then s.pwr.nv.boot1 else none
  match a, b with
  | none, none => none
  | some x, none => some (0, x)
  | none, some y => some (1, y)
  | some x, some y => some (if x.seq < y.seq then (1, y) else (0, x))

/-- Step 1 of R1104: the registers, through the Write Gate; CORE_CTRL.MODE takes effect in this start. -/
def bootRegs (s : State) (l : List (Nat × Word)) : State :=
  let s := l.foldl (fun s x => (regWrite s x.1 (BitVec.ofNat 64 (bootMask x.1)) x.2 noEnv 0 (fun s => s)).1) s
  takeMode s

/-- The records as one galley. -/
def bootGalley (b : BootImage) : List GWrite :=
  b.rows.map (fun x => { table := x.1 / 2 ^ 20, row := x.1 % 2 ^ 20, key := 0, del := false, image := x.2 })
    ++ b.case.map (fun e => { table := 0x200, row := 0, key := e.key, del := false, image := caseWhole (wordsOfSlots e.slots) e.key e.result })
    ++ b.asa.map (fun e => { table := e.table, row := 0, key := e.key, del := false, image := e.image })

/-- Steps 1 to 3 of R1104; none when imposition would fail (check 7). The lock-up's origin is 0x4000 and its ISN 0; no ring
waits for it. -/
def bootImpose (s : State) (b : BootImage) : Option State :=
  let s := setLog (bootRegs s b.regs) (bootGalley b)
  match impositionFault s with
  | some _ => none
  | none =>
    let t := makeAll s (imposeList s.forme.galley)
    if t.forme.impFail.isSome then none
    else
      let lock : PendLock := { isn := 0, ring := 0, origin := hwOrigin, flags := 0, timed := true, lateOk := true, sec := 0, ns := 0 }
      let t := lockupNow (wrB t rFormeStatus 16 true) lock false
      some (wrB t rDevState 8 true)

/-- A boot image that fails a check (R1105). [log 68 DEDUCED] -/
def bootBad (s : State) (reason slot seq : Nat) : State :=
  postHw (wrB (wrF s rBootStatus 19 16 reason) rErrStatus 8 true) 0x8D02 [(1, reason), (1, slot), (8, seq)]

/-- The boot image at LOAD: `decay` names the check of Table 18.5 that what the flash returns fails first, if any.
[log 68 DEDUCED] -/
def bootLoad (s : State) (sig0 sig1 : Bool) (decay : Option (Fin 5)) : State :=
  match bootPick s sig0 sig1 with
  | none => bootBad s 1 0 0
  | some (k, b) =>
    match decay with
    | some d => bootBad s (d.val + 2) k b.seq
    | none =>
      match bootImpose s b with
      | none => bootBad s 7 k b.seq
      | some t => t

end Sys2Proof.Machine
end

