-- ==== Sys2Proof/Machine/Mailbox.lean ====
section
/-! DEFINITION. The MP's mailbox services, its restart, and the boundary's self-tests (chapters Claves, the Management
Processor and Maintenance; The Line Cipher and the Cryptographic Boundary). -/

namespace Sys2Proof.Machine

-- Requests and responses (R932 to R938)

/-- The octets of a response block (R933). -/
def responseBytes (service tag status : Nat) (payload : List Byte) : List Byte :=
  leBytes 2 service ++ leBytes 2 payload.length ++ leBytes 4 tag ++ leBytes 1 status ++ leBytes 7 0 ++ payload

/-- Complete the request of channel c (R934): the response, BUSY, DONE, the vector. [log 62 DEDUCED] -/
def mbxReply (s : State) (c service tag status : Nat) (payload : List Byte) : State :=
  let l := mbxLink s c
  let s := emit s (.memWrite (.host l) (rd s (rMbxRsp c)).toNat (responseBytes service tag status payload))
  raiseReg (wrB (wrB s (rMbxStatus c) 1 false) (rMbxStatus c) 2 true) l (rMbxCtrl c)

/-- A channel that is busy completes with STATUS 6 (R938): `reqs` holds, by channel, the SERVICE and TAG of the requests. -/
def mbxAbort (s : State) (reqs : List (Nat × Nat × Nat)) (c : Nat) : State :=
  if rdB s (rMbxStatus c) 1 then
    let r := ((reqs.find? (fun x => x.1 = c)).map (fun x => x.2)).getD (0, 0)
    mbxReply s c r.1 r.2 6 []
  else s

/-- The role bound to a channel (0 none, 1 user, 2 crypto officer), and its operator (R937). -/
def mbxRoleOf (s : State) (c : Nat) : Nat := smGet (fun _ => 0) s.ciph.mbxRole c % 256
def mbxOperator (s : State) (c : Nat) : Nat := smGet (fun _ => 0) s.ciph.mbxRole c / 256
def setMbxRole (s : State) (c role ident : Nat) : State :=
  { s with ciph := { s.ciph with
    mbxRole := smSet (fun _ => 0) s.ciph.mbxRole c (if role = 0 then 0 else ident * 256 + role) } }

/-- The origin code of a mailbox service (R977). [log 55 DEDUCED] -/
def mbxOrigin (c : Nat) : Nat := 0x1100 + c

/-- Serve a request: `role` is 0 none, 1 user, 2 crypto officer, 3 either; `act` gives the new state, the STATUS and the
payload. [log 62 DEDUCED] -/
def mbxServe (s : State) (q : MbxReq) (service role : Nat) (act : State → State × Nat × List Byte) : State :=
  if 8 ≤ q.channel ∨ ¬ s.mp.mpUp ∨ ¬ rdB s (rMbxStatus q.channel) 1 then s
  else if 4088 < q.payload.length then mbxReply s q.channel service q.tag 2 []
  else if role ≠ 0 ∧ (if role = 3 then mbxRoleOf s q.channel = 0 else mbxRoleOf s q.channel ≠ role) then
    mbxReply s q.channel service q.tag 3 []
  else
    let r := act s
    mbxReply r.1 q.channel service q.tag r.2.1 r.2.2

/-- A service of the boundary does not work in ERROR, nor before the self-tests end (R415, R418): STATUS 4; on the
STG5120-EN KEK-install belongs to an absent unit. -/
def boundaryUp (s : State) : Bool := boundary s = bsOperational || boundary s = bsZeroised

/-- The DRBG is seeded from the entropy source (text under Table 6.8). [log 88 DEDUCED] -/
def drbgSeed (s : State) : State :=
  { s with fresh := s.fresh + 1, ciph := { s.ciph with
    drbg := some { state := Config.freeBytes s.fresh 48, requests := 0, seededAt := s.cycle } } }

/-- A request of `n` octets from the DRBG, which reseeds after 2^20 requests or 24 hours; one that holds no state is
instantiated first. -/
def drbgDraw (s : State) (n : Nat) : State × List Byte :=
  let s := match s.ciph.drbg with
    | none => drbgSeed s
    | some d => if 2 ^ 20 ≤ d.requests ∨ d.seededAt + 86400 * cyclesPerSec ≤ s.cycle then drbgSeed s else s
  let next := s.ciph.drbg.map (fun d => { d with state := Config.freeBytes s.fresh 48, requests := d.requests + 1 })
  let s := { s with ciph := { s.ciph with drbg := next } }
  ((draw (draw s).1).1, Config.freeBytes (s.fresh + 1) n)

/-- Octets the service returns that the spec leaves to firmware. [log 6 DESIGN CHOICE] -/
def freePayload (s : State) (n : Nat) : State × List Byte := ({ s with fresh := s.fresh + 1 }, Config.freeBytes s.fresh n)

-- Status, authentication, operators

/-- MP_STATUS (Table 14.8). -/
def execMpStatus (q : MbxReq) (len : Fin 4089) (s : State) : Host.Outcome State Fault Refusal :=
  nextOf s <| mbxServe s q 0x0001 0 fun s =>
    let f := freePayload s len.val
    (f.1, 0, f.2)

/-- ATTEST (Table 6.8): a report signed with the attestation key. -/
def execAttest (q : MbxReq) (len : Fin 4089) (s : State) : Host.Outcome State Fault Refusal :=
  nextOf s <| mbxServe s q 0x0009 0 fun s =>
    if ¬ boundaryUp s then (s, 4, [])
    else
      let f := freePayload s len.val
      (f.1, 0, f.2)

/-- AUTH_CHALLENGE (R404): 48 octets drawn from the DRBG. -/
def execAuthChallenge (q : MbxReq) (s : State) : Host.Outcome State Fault Refusal :=
  nextOf s <| mbxServe s q 0x0002 0 fun s =>
    if ¬ boundaryUp s then (s, 4, [])
    else
      let f := drbgDraw s 48
      ({ f.1 with ciph := { f.1.ciph with challenge := smSet (fun _ => []) f.1.ciph.challenge q.channel f.2 } }, 0, f.2)

/-- The enrolled operator with an identity. -/
def operatorOf (s : State) (ident : Nat) : Option Operator := s.ciph.operators.find? (fun x => x.ident = ident)

/-- AUTH_RESPONSE (R404, R937): the request names a ring and an identity; `sigOk` tells whether the signature of the
channel's challenge verifies under that identity's key. The challenge serves once. [log 62 DEDUCED] -/
def execAuthResponse (q : MbxReq) (ring : Fin 60) (ident : Fin 16) (sigOk : Bool) (s : State) : Host.Outcome State Fault Refusal :=
  let n := ring.val
  nextOf s <| mbxServe s q 0x0003 0 fun s =>
    if ¬ boundaryUp s then (s, 4, [])
    else
      let had := smGet (fun _ => []) s.ciph.challenge q.channel ≠ []
      let s := { s with ciph := { s.ciph with challenge := smSet (fun _ => []) s.ciph.challenge q.channel [] } }
      match (if had && sigOk then operatorOf s ident.val else none) with
      | none => (postHw s 0x420F [(1, n), (1, ident.val)], 4, [])
      | some o => (setMbxRole (bindRole s n o.role o.ident) q.channel o.role o.ident, 0, [])

/-- LOGOUT (R405): the role of the ring named ends, and the channel's. -/
def execLogout (q : MbxReq) (ring : Fin 60) (s : State) : Host.Outcome State Fault Refusal :=
  nextOf s <| mbxServe s q 0x0004 3 fun s => (setMbxRole (endRole s ring.val) q.channel 0 0, 0, [])

/-- Journal an operator enrolled (0) or removed (1) (Table 15.3). -/
def journalOperator (s : State) (c ident role removed : Nat) : State :=
  journal s 0x0043 (mbxOrigin c) [(1, ident), (1, role), (1, removed)]

/-- Add an operator; an identity already enrolled is replaced. -/
def addOperator (s : State) (o : Operator) : State :=
  { s with ciph := { s.ciph with operators := s.ciph.operators.filter (fun x => x.ident ≠ o.ident) ++ [o] } }

/-- The first crypto-officer enrolment (R431, R432, R1135): COMMISSIONED, OPERATIONAL, EV_AUTH for the ring's role, and the
level at TAMPER_SEL is stored. -/
def commission (s : State) (o : Operator) (n c : Nat) : State :=
  let s := setBoundary (setCommissioned (addOperator s o) true) bsOperational
  let s := { s with pwr := { s.pwr with nv := { s.pwr.nv with tamperSel := s.pwr.tamperSel } } }
  setMbxRole (bindRole s n o.role o.ident) c o.role o.ident

/-- ENROL (R403, R432): the request names an identity, a role, a public key and a ring. While COMMISSIONED is 0 the
STG5120 accepts only the first crypto officer; from then on only a crypto officer enrols. [log 62 DEDUCED] -/
def execEnrol (q : MbxReq) (ident : Fin 16) (officer : Bool) (key : List Byte) (ring : Fin 60) (s : State) :
    Host.Outcome State Fault Refusal :=
  let o : Operator := { ident := ident.val, role := if officer then 2 else 1, pubKey := key }
  nextOf s <|
    if commissioned s then
      mbxServe s q 0x0005 2 fun s =>
        if ¬ boundaryUp s then (s, 4, [])
        else (journalOperator (addOperator s o) q.channel o.ident o.role 0, 0, [])
    else
      mbxServe s q 0x0005 0 fun s =>
        if boundary s ≠ bsZeroised then (s, 4, [])
        else if ¬ officer then (s, 3, [])
        else (journalOperator (commission s o ring.val q.channel) q.channel o.ident o.role 0, 0, [])

/-- REMOVE_OPERATOR (R403): an identity that is not enrolled fails. COMMISSIONED tells whether a crypto officer is
enrolled (Table 6.12); roles already bound end only as R405 gives. [log 62 DEDUCED] -/
def execRemoveOperator (q : MbxReq) (ident : Fin 16) (s : State) : Host.Outcome State Fault Refusal :=
  nextOf s <| mbxServe s q 0x0006 2 fun s =>
    match operatorOf s ident.val with
    | none => (s, 4, [])
    | some o =>
      let s := { s with ciph := { s.ciph with operators := s.ciph.operators.filter (fun x => x.ident ≠ o.ident) } }
      let s := setCommissioned s (s.ciph.operators.any (fun x => x.role = 2))
      (journalOperator s q.channel o.ident o.role 1, 0, [])

/-- A test fails: the row of Table 6.9 counted from 1 and the cipher unit. -/
def testFails (s : State) (test : Nat) : State :=
  let s := setBoundary (wrF s rCipherStatus 15 8 test) bsError
  if approved s then (List.range 256).foldl (fun s p => setSide (abortTx s p) p 0) (assertFault s 5) else s

/-- KEK_INSTALL (R399, R400, R402): the fresh key pair of the STG5120 passes its pairwise consistency test (row 10 of Table
6.9, R416), and then the wrapped key its integrity check. [log 63 DEDUCED] -/
def execKekInstall (q : MbxReq) (slot : Fin 64) (kek : KekWrap) (s : State) : Host.Outcome State Fault Refusal :=
  let k := slot.val
  nextOf s <| mbxServe s q 0x0007 2 fun s =>
    if ¬ hasCipher s then (s, 5, [])
    else if boundary s ≠ bsOperational ∨ kekHeld s k then (s, 4, [])
    else
      match kek with
      | .pairBad => (postHw (testFails s 10) 0xC208 [(1, 10), (1, 0)], 4, [])
      | .bad => (s, 4, [])
      | .key x =>
        let s := { wrB s rKekStatus k true with ciph := { s.ciph with keks := smIns k x s.ciph.keks } }
        let s := postHw s 0x020D [(1, k), (1, mbxOperator s q.channel)]
        (journal s 0x0042 (mbxOrigin q.channel) [(1, k), (1, mbxOperator s q.channel)], 0, [])

/-- FW_UPDATE (R421 to R423): an image whose two signatures verify and whose security version is acceptable goes to the
slot that does not run; the reasons of EV_FW_REJECT are 0 signature and 1 version. [log 63 DEDUCED] -/
def execFwUpdate (q : MbxReq) (svn : Fin 65536) (sigsOk : Bool) (s : State) : Host.Outcome State Fault Refusal :=
  nextOf s <| mbxServe s q 0x0008 2 fun s =>
    if ¬ boundaryUp s then (s, 4, [])
    else if ¬ sigsOk then (postHw s 0x820C [(1, 0), (2, svn.val)], 4, [])
    else if svn.val < s.pwr.nv.fwMin then (postHw s 0x820C [(1, 1), (2, svn.val)], 4, [])
    else
      let nv := s.pwr.nv
      let nv := if nv.fwRun then { nv with fwA := some svn.val } else { nv with fwB := some svn.val }
      ({ s with pwr := { s.pwr with nv := nv } }, 0, [])

-- User services

/-- CMIS_READ (Table 14.8): `answer` is what the module gives, none when the access fails. -/
def execCmisRead (q : MbxReq) (answer : Option (List Byte)) (s : State) : Host.Outcome State Fault Refusal :=
  nextOf s <| mbxServe s q 0x0010 1 fun s =>
    match answer with
    | none => (s, 4, [])
    | some a => (s, 0, a.take 4088)

/-- CMIS_WRITE (Table 14.8): the octets go to the optics module. -/
def execCmisWrite (q : MbxReq) (ok : Bool) (s : State) : Host.Outcome State Fault Refusal :=
  nextOf s <| mbxServe s q 0x0010 1 fun s => if ok then (emit s (.cmisWrite q.payload), 0, []) else (s, 4, [])

/-- SERDES_DIAG (Table 14.8): `answer` is the measurement, none when the payload names no lane of this part. -/
def execSerdesDiag (q : MbxReq) (answer : Option (List Byte)) (s : State) : Host.Outcome State Fault Refusal :=
  nextOf s <| mbxServe s q 0x0011 1 fun s =>
    match answer with
    | none => (s, 2, [])
    | some a => (s, 0, a.take 4088)

/-- SERVO_CFG (Table 14.8): firmware takes the payload, or finds it invalid. -/
def execServoCfg (q : MbxReq) (ok : Bool) (s : State) : Host.Outcome State Fault Refusal :=
  nextOf s <| mbxServe s q 0x0012 1 fun s =>
    if ok then ({ s with mp := { s.mp with servoCfg := q.payload } }, 0, []) else (s, 2, [])

/-- TELEMETRY_CFG (Table 14.8). -/
def execTelemetryCfg (q : MbxReq) (ok : Bool) (s : State) : Host.Outcome State Fault Refusal :=
  nextOf s <| mbxServe s q 0x0013 1 fun s =>
    if ok then ({ s with mp := { s.mp with telemetryCfg := q.payload } }, 0, []) else (s, 2, [])

-- MP restart (R943)

/-- The MP stops and restarts: domains hold over, rings 60 to 63 are reset, busy channels complete with STATUS 6, frames on their
way to P265 are lost. [log 50 DESIGN CHOICE, 62 DEDUCED] -/
def mpRestart (s : State) (reqs : List (Nat × Nat × Nat)) : State :=
  let s := postHw s 0x8A03 [(1, 0)]
  let s := (List.range 2).foldl (fun s d => if d = 1 ∧ ¬ hasDomB s then s else servoState s d 3) s
  let s := ringsReset s (fun n => decide (60 ≤ n))
  let s := (List.range 8).foldl (fun s c => mbxAbort s reqs c) s
  let s := (s.pool.rx.filter (fun x => mpRing x.ring)).foldl (fun s x => bump (rxDrop s x) (rMpDrop 1)) s
  { s with mp := { s.mp with mpUp := false, mpRestartAt := s.cycle } }

/-- MP_WATCHDOG (R943): `reqs` holds the SERVICE and TAG in the request block of each channel. -/
def execMpWatchdog (reqs : List (Nat × Nat × Nat)) (s : State) : Host.Outcome State Fault Refusal :=
  nextOf s <| onlyIf s.mp.mpUp s (mpRestart s reqs)

/-- MP_RESTART_COMPLETE (R943, R968): firmware runs again; what waited is written late. -/
def execMpRestartComplete (s : State) : Host.Outcome State Fault Refusal :=
  nextOf s <| onlyIf (!s.mp.mpUp && decide (stTrain ≤ devState s)) s { s with
    mp := { s.mp with mpUp := true }
    rcd := { s.rcd with evQ := s.rcd.evQ.map (fun p => { p with late := true }), jrQ := s.rcd.jrQ.map (fun p => { p with late := true }) } }

-- Failed tests (R416 to R418)

/-- ENTROPY_TEST_FAIL (R416): a continuous test of the entropy source fails; 0 repetition count, 1 adaptive proportion. -/
def execEntropyTestFail (test : Fin 2) (s : State) : Host.Outcome State Fault Refusal :=
  nextOf s <| onlyIf (decide (stSelftest ≤ devState s)) s (postHw (testFails s 9) 0xC209 [(1, test.val)])

/-- KEY_SELFTEST_PIECE (R952, R416): a piece of the running key self-test of a cipher unit ends; `pass` false is a
failure of the known-answer test of row 8. -/
def execKeySelftestPiece (unit : Fin 40) (pass : Bool) (s : State) : Host.Outcome State Fault Refusal :=
  nextOf s <| onlyIf (hasCipher s && s.mp.maintRun.any (fun x => x.act = 7)) s <|
    if pass then s else postHw (testFails s 8) 0xC208 [(1, 8), (1, unit.val)]

end Sys2Proof.Machine
end

