-- ==== Sys2Proof/Machine/HostRows.lean ====
section
/-! DEFINITION. Host links, function resets, bus mastering, MSI-X masks and errors (chapter Host Interface and Register
Map). -/

namespace Sys2Proof.Machine

/-- The link exists: link 1 only while the PCIe interface is split (R1003). -/
def linkExists (s : State) (l : Bool) : Bool := !l || s.host.bifNow

def setBusMaster (s : State) (l v : Bool) : State :=
  if l then { s with host := { s.host with busMaster1 := v } } else { s with host := { s.host with busMaster0 := v } }

/-- A function's MSI-X state after its reset: disabled, every entry masked, nothing pending; its latch empty. PF2 has no
MSI-X (the text under Table 16.2). [log 64 DEDUCED] -/
def fnReset (s : State) (l : Bool) (fn : Nat) : State :=
  let k := b2n l * 2 + fn
  let keep (x : Nat × Bool) : Bool := decide (2 ≤ fn) || x.1 / 4096 ≠ k
  { s with host := { s.host with
    msixEn := if 2 ≤ fn then s.host.msixEn else smSet (fun _ => false) s.host.msixEn k false
    msixMask := s.host.msixMask.filter keep
    msixPend := s.host.msixPend.filter keep
    latch := smDel (b2n l * 4 + fn) s.host.latch } }

/-- A PF1 ring that runs stops (R1001, R1076). -/
def frStop (s : State) (tx : Bool) (r : Nat) : State := if frState s tx r = frRun then setFrState s tx r frStopped else s

/-- Every PF1 ring of a link stops. -/
def stopFrames (s : State) (l : Bool) : State :=
  ((List.range 1024).filter (fun r => frameLink s r == l)).foldl (fun s r => frStop (frStop s false r) true r) s

/-- Every command ring of a link is reset (R98). -/
def resetLinkRings (s : State) (l : Bool) : State := ringsReset s (fun n => ringOfLink s l n)

/-- The three functions of a link return to their reset state. -/
def functionsReset (s : State) (l : Bool) : State := fnReset (fnReset (fnReset (setBusMaster s l false) l 0) l 1) l 2

/-- HOST_STATUS's fields of a link (Table 16.8). [log 64 DEDUCED] -/
def setLinkStatus (s : State) (l up : Bool) (speed width : Nat) (flit : Bool) : State :=
  let b := if l then 16 else 0
  let s := wrF (wrF (wrB s rHostStatus (b + 8) up) rHostStatus (b + 7) (b + 4) width) rHostStatus (b + 2) b speed
  let s := if l then s else wrB s rHostStatus 33 flit
  if l then { s with host := { s.host with linkUp1 := up } } else { s with host := { s.host with linkUp0 := up } }

/-- [log 64 DEDUCED] -/
def hostLinkUp (s : State) (l : Bool) : Bool := if l then s.host.linkUp1 else s.host.linkUp0

/-- HOST_LINK_DOWN (R1001, R1002): cause 0 link-down, 1 hot reset, 2 fundamental reset of link 1. -/
def execHostLinkDown (link : Bool) (cause : Fin 3) (s : State) : Host.Outcome State Fault Refusal :=
  nextOf s <| onlyIf (linkExists s link && (cause.val = 2 || hostLinkUp s link) && (cause.val ≠ 2 || link)) s <|
    let s := functionsReset s link
    let s := stopFrames (resetLinkRings s link) link
    let s := wrB (setLinkStatus s link false 0 0 false) rHostStatus 40 true
    postHw s 0x4C01 [(1, b2n link), (1, cause.val)]

/-- The pending messages of a link's enabled MSI-X tables whose entries are not masked are sent (R1022). -/
def msixFlush (s : State) (l : Bool) : State :=
  let due := (s.host.msixPend.map (fun x => x.1)).filter (fun k => k / 4096 / 2 == b2n l
    && !smGet (fun _ => true) s.host.msixMask k && smGet (fun _ => false) s.host.msixEn (k / 4096))
  due.foldl (fun s k => emit { s with host := { s.host with msixPend := smSet (fun _ => false) s.host.msixPend k false } }
    (.msix l (k / 4096 % 2) (k % 4096))) s

/-- HOST_LINK_UP (R995): the link comes up or retrains; the host software then sets the MSI-X enables of PF0 and PF1. -/
def execHostLinkUp (link : Bool) (speed : Fin 7) (width : Fin 9) (flit msix0 msix1 : Bool) (s : State) :
    Host.Outcome State Fault Refusal :=
  let k := b2n link * 2
  nextOf s <| onlyIf (linkExists s link && decide (stSupervise ≤ devState s)) s <|
    let s := wrB (setLinkStatus s link true speed.val width.val flit) rHostStatus 40 true
    let s := { s with host := { s.host with
      msixEn := smSet (fun _ => false) (smSet (fun _ => false) s.host.msixEn k msix0) (k + 1) msix1 } }
    let s := msixFlush s link
    let d := [(1, b2n link), (1, speed.val), (1, width.val)]
    let s := postHw s 0x0C02 d
    if speed.val < 6 ∨ width.val < (if s.host.bifNow then 4 else 8) then postHw s 0x4C03 d else s

/-- FLR_PF0 (R1001, R938): `reqs` holds the SERVICE and TAG in the request block of each channel. [log 64 DEDUCED] -/
def execFlrPf0 (link : Bool) (reqs : List (Nat × Nat × Nat)) (s : State) : Host.Outcome State Fault Refusal :=
  nextOf s <| onlyIf (linkExists s link) s <|
    let s := ((List.range 8).filter (fun c => mbxLink s c == link)).foldl (fun s c => mbxAbort s reqs c) s
    resetLinkRings (fnReset (setBusMaster s link false) link 0) link

/-- FLR_PF1 (R1001). -/
def execFlrPf1 (link : Bool) (s : State) : Host.Outcome State Fault Refusal :=
  nextOf s <| onlyIf (linkExists s link) s (stopFrames (fnReset s link 1) link)

/-- FLR_PF2 (R1001): PERF_USER is unchanged. -/
def execFlrPf2 (link : Bool) (s : State) : Host.Outcome State Fault Refusal :=
  nextOf s <| onlyIf (linkExists s link) s (fnReset s link 2)

/-- BUS_MASTER_DISABLE (R1001): the link's command rings wait. -/
def execBusMasterDisable (link : Bool) (s : State) : Host.Outcome State Fault Refusal :=
  nextOf s <| onlyIf (linkExists s link) s (setBusMaster s link false)

/-- BUS_MASTER_ENABLE (R1001). -/
def execBusMasterEnable (link : Bool) (s : State) : Host.Outcome State Fault Refusal :=
  nextOf s <| onlyIf (linkExists s link) s (setBusMaster s link true)

/-- MSIX_UNMASK (R1022): a pending message is sent, once MSI-X is enabled. -/
def execMsixUnmask (link : Bool) (fn : Fin 2) (entry : Fin 1536) (s : State) : Host.Outcome State Fault Refusal :=
  let k := (b2n link * 2 + fn.val) * 4096 + entry.val
  nextOf s <| onlyIf (linkExists s link && (fn.val = 1 || decide (entry.val < 512))) s <|
    msixFlush { s with host := { s.host with msixMask := smSet (fun _ => true) s.host.msixMask k false } } link

/-- PCIE_UNCORR_ERROR (R1028): AER status bits of a function. -/
def execPcieUncorrError (link : Bool) (fn : Fin 3) (status : Nat) (s : State) : Host.Outcome State Fault Refusal :=
  let k := b2n link * 4 + fn.val
  nextOf s <| onlyIf (linkExists s link) s <|
    let v := smGet (fun _ => 0) s.host.aer k ||| status % 2 ^ 32
    postHw { s with host := { s.host with aer := smSet (fun _ => 0) s.host.aer k v } } 0x8C05
      [(1, b2n link), (1, fn.val), (4, v)]

/-- JTAG_ACCESS (R414): no JTAG access to either die reaches a state of the block; to the management-and-security die it
is refused while APPROVED is 1. -/
def execJtagAccess (mgmtDie : Bool) (s : State) : Host.Outcome State Fault Refusal :=
  let _ := mgmtDie
  nextOf s s

end Sys2Proof.Machine
end

