-- ==== Sys2Proof/Machine/InsCmds.lean ====
section
/-! DEFINITION. Order, register and time instructions, and opcodes that Table 4.2 does not list (chapter Ermel Instruction
Reference). -/

namespace Sys2Proof.Machine

-- END, SKIPIF, NOTE

/-- An instruction whose UNIT, INDEX and OPERAND are unused holds 0 there. -/
def insPlain (ins : Ins) : Bool := ins.unit = 0 && ins.index = 0 && ins.operand = 0

/-- END (R197, R198): RESULT counts the instructions that failed and those skipped. -/
def execEndProg (ring : Fin 64) (ins : Ins) (s : State) : Host.Outcome State Fault Refusal :=
  let n := ring.val
  nextOf s <| runIns s n opEnd ins fun _ s =>
    guardIns s [(decide (4 ≤ ins.flags) || !insPlain ins, .eCheck)] fun s =>
      (s, .done .ok ((rt s n).notOk % 2 ^ 16 + (rt s n).skipped % 2 ^ 16 * 2 ^ 16))

/-- The link whose copy of a banked register a ring's instruction reaches. [log 13 DEDUCED] -/
def ringLink (s : State) (n : Nat) : Bool :=
  match ringOwner s n with
  | .host l => l
  | .mp => false

/-- What a SKIPIF with COND 2 or 3 reads (R203). -/
def skipLook (s : State) (l : Bool) (ins : Ins) : State × Word :=
  let c := bits ins.flags 4 2
  if c < 2 ∨ 4 ≤ c ∨ absentOff s ins.index then (s, 0#64) else look s l ins.index

/-- What Table 4.5 gives no meaning: a SKIPIF with COND 4 to 7 takes one of the outcomes a SKIPIF has, free.
[log 6 DESIGN CHOICE, 9 DESIGN CHOICE] -/
def skipFree (s : State) : State × Nat :=
  let d := draw s
  (d.1, d.2.toNat % 3)

/-- COND of a SKIPIF holds (R201 to R203): `v` is the register's value, `prev` how the program's last instruction
completed. [log 9 DESIGN CHOICE] -/
def skipHolds (v : Word) (ins : Ins) (prev : Option Bool) : Bool :=
  let c := bits ins.flags 4 2
  if c = 0 then prev == some false
  else if c = 1 then prev == some true
  else
    let m := BitVec.ofNat 64 ins.operand
    if c = 2 then v &&& m == m else v &&& m == 0#64

/-- SKIPIF's own bytes are wrong (R179, R204). [log 9 DESIGN CHOICE] -/
def skipBad (ins : Ins) : Bool :=
  let c := bits ins.flags 4 2
  decide (32 ≤ ins.flags) || ins.unit = 0 || decide (4095 < ins.unit)
    || (if c ≤ 1 then ins.index ≠ 0 || ins.operand ≠ 0 else decide (c ≤ 3) && (regInfo ins.index).isNone)

/-- SKIPIF (R200 to R204, R83): the program aborts when the count would pass its END. [log 9 DESIGN CHOICE] -/
def execSkipif (ring : Fin 64) (ins : Ins) (s : State) : Host.Outcome State Fault Refusal :=
  let n := ring.val
  let prev := (rt s n).lastOk
  nextOf s <| runIns s n opSkipif ins fun _ s =>
    guardIns s [(skipBad ins, .eCheck)] fun s =>
      if (rt s n).slots.findIdx (fun o => o = opEnd) < ins.unit then (s, .fatal .eCheck 0) else
      let open_ := decide (4 ≤ bits ins.flags 4 2)
      let f := if open_ then skipFree s else (s, 0)
      let x := skipLook f.1 (ringLink s n) ins
      let s := x.1
      if open_ ∧ f.2 = 2 then (s, .done .eCheck 0)
      else if if open_ then f.2 = 0 else ¬ skipHolds x.2 ins prev then (s, .done .ok 0)
      else
        let s := advanceHead s n ins.unit
        (setRt s n { rt s n with skipped := (rt s n).skipped + ins.unit }, .done .ok 1)

/-- NOTE (R205): it completes with OK whatever its FLAGS. [log 8 DEDUCED] -/
def execNote (ring : Fin 64) (ins : Ins) (s : State) : Host.Outcome State Fault Refusal :=
  let n := ring.val
  nextOf s <| runIns s n opNote ins fun _ s =>
    (post s 0x0920 (ringOrigin n) [(2, ringOrigin n), (2, ins.unit), (4, ins.index), (8, ins.operand)], .done .ok 0)

/-- UNLISTED_OPCODE (R178): the instruction completes with E_CHECK. One of opcode 0x00 is never issued (R190): its program
aborts before it. [log 95 DESIGN CHOICE] -/
def execUnlistedOpcode (ring : Fin 64) (opcode : Fin 256) (ins : Ins) (s : State) : Host.Outcome State Fault Refusal :=
  let n := ring.val
  nextOf s <| onlyIf (!listedOpcodes.contains opcode.val) s <|
    if opcode.val = 0 then
      onlyIf (issueReady s n 0 && ins.opcode = 0) s (abortProgram s n (rt s n).lastIsn (statusCode .eCheck) false)
    else runIns s n opcode.val ins fun _ s => (s, .done .eCheck 0)

-- Quoins (R89, R90, Table 2.5)

/-- A timed event due at or before `t`, in nanoseconds of operational time, has not yet taken effect. [log 18 DEDUCED] -/
def timedPending (s : State) (t : Nat) : Bool :=
  s.forme.pendLock.elim false (fun l => l.timed && decide (tNs l.sec l.ns ≤ t))
    || s.ctl.sasws.any (fun x => decide (tNs x.sec x.ns ≤ t))
    || (List.range 256).any (fun p => rdB s (rGateStatus p) 62 && decide (smGet (fun _ => 0) s.core.gateChange p ≤ t))
    || (List.range 16).any (fun k => pealActive s k && (decide ((pealOf s k).next ≤ t) || decide (0 < (pealOf s k).passed)))

/-- The condition of a quoin of ring n (Table 2.5): `mark` and `formeMark` are how many direct and ring writes, and how many
writes of the forme, the Write Gate had accepted, `t` the operational time at issue. Captures and the hardware actions of a
declared link change are each one step here. [log 10 DEDUCED] -/
def quoinHolds (s : State) (n variant mark formeMark t : Nat) : Bool :=
  (decide (1 ≤ variant ∧ variant ≤ 3) || (rt s n).records.isEmpty)
    && ((variant ≠ 1 && variant ≠ 4) || (decide (mark ≤ s.ctl.gateOut) && decide (formeMark ≤ s.forme.formeOut)))
    && ((variant ≠ 3 && variant ≠ 4) || !timedPending s t)

/-- No capture begins from the point at which a QUOIN.C or QUOIN.X holds until its ring issues again (R89). -/
def holdCaptures (s : State) (n variant : Nat) : State :=
  if variant = 2 ∨ variant = 4 then setRt s n { rt s n with capHold := true } else s

/-- A ring that waits on a quoin whose condition now holds goes on (R90, R196). -/
def quoinPoll (s : State) (n : Nat) : State :=
  match (rt s n).waiting with
  | some ⟨isn, op, flags, .quoin v since mark formeMark sec ns⟩ =>
    if quoinHolds s n v mark formeMark (tNs sec ns) then
      completeIns (holdCaptures s n v) n isn op flags .ok (v * 2 ^ 61 + min (nsOfCycles (s.cycle - since)) (2 ^ 61 - 1)) false
    else s
  | _ => s

/-- The ring waits on a quoin. -/
def onQuoin (s : State) (n : Nat) : Bool :=
  match (rt s n).waiting with
  | some ⟨_, _, _, .quoin _ _ _ _ _ _⟩ => true
  | _ => false

/-- QUOIN of a variant: on a ring that already waits on its quoin, the condition is looked at again. -/
def quoinRun (s : State) (n variant : Nat) (ins : Ins) : State :=
  if onQuoin s n then quoinPoll s n
  else runIns s n opQuoin ins fun _ s =>
    guardIns s [(decide (32 ≤ ins.flags) || decide (4 < variant) || !insPlain ins, .eCheck)] fun s =>
      let t := opNs s
      if quoinHolds s n variant s.ctl.gateIn (formeIn s) t then (holdCaptures s n variant, .done .ok (variant * 2 ^ 61))
      else (s, .wait (.quoin variant s.cycle s.ctl.gateIn (formeIn s) (t / 1000000000) (t % 1000000000)))

/-- FLAGS with VARIANT or MODE set to the one the row names. [log 78 DEDUCED] -/
def withVariant (ins : Ins) (hi v : Nat) : Ins := ins.withFlags (setBits ins.flags hi 2 v)

/-- QUOIN (R89, R199): the row without a suffix; VARIANT 5 to 7 is rejected. -/
def execQuoin (ring : Fin 64) (ins : Ins) (s : State) : Host.Outcome State Fault Refusal :=
  let v := bits ins.flags 4 2
  nextOf s (if 5 ≤ v then quoinRun s ring.val v ins else quoinRun s ring.val 0 (withVariant ins 4 0))

/-- QUOIN_W (R89). [log 78 DEDUCED] -/
def execQuoinW (ring : Fin 64) (ins : Ins) (s : State) : Host.Outcome State Fault Refusal :=
  nextOf s (quoinRun s ring.val 1 (withVariant ins 4 1))

/-- QUOIN_C (R89). -/
def execQuoinC (ring : Fin 64) (ins : Ins) (s : State) : Host.Outcome State Fault Refusal :=
  nextOf s (quoinRun s ring.val 2 (withVariant ins 4 2))

/-- QUOIN_T (R89). -/
def execQuoinT (ring : Fin 64) (ins : Ins) (s : State) : Host.Outcome State Fault Refusal :=
  nextOf s (quoinRun s ring.val 3 (withVariant ins 4 3))

/-- QUOIN_X (R89). -/
def execQuoinX (ring : Fin 64) (ins : Ins) (s : State) : Host.Outcome State Fault Refusal :=
  nextOf s (quoinRun s ring.val 4 (withVariant ins 4 4))

-- RW, RRD, RMW (R220, R226 to R232)

/-- Whether an offset lies in the cipher block. -/
def cipherOff (o : Nat) : Bool := decide (0x3000000 ≤ o) && decide (o < 0x3800000)

/-- The role Table 6.11 asks of a ring that writes a cipher register: 2 crypto officer, 1 user, 0 none. [log 29 DEDUCED] -/
def cipherRole (o : Nat) : Nat :=
  if o = rCipherMode ∨ o = rMirrorPermit ∨ o = rTamperStatus then 2
  else if (0x3010000 ≤ o ∧ o < 0x3020000) ∨ (0x3100000 ≤ o ∧ o < 0x3300000) then 1
  else 0

/-- The checks of a register instruction on steps 1 to 3 of R1161. [log 11 DEDUCED, 29 DEDUCED] -/
def regChecks (s : State) (n : Nat) (ins : Ins) (own writes : Bool) : List (Bool × Status) :=
  let o := ins.index
  [(decide (4 ≤ ins.flags) || ins.unit ≠ 0 || own, .eCheck),
   ((regInfo o).isNone, .eAddr),
   (absentOff s o, .eAbsent),
   ((decide (0x101000 ≤ o) && decide (o < 0x105000))
      || (writes && cipherOff o && cipherRole o ≠ 0 && ringRole s n ≠ cipherRole o), .ePerm),
   (writes && cipherOff o && cipherStopped s, .eCipherState)]

/-- The value written to a register refers to an absent unit (R7): time domain B, a port, or a DEST that names one. TM_PEEK
has its own rule (R764). [log 26 DEDUCED] -/
def regRefersAbsent (s : State) (o : Nat) (v : Word) : Bool :=
  if o = rTimeCtrl then v.getLsbD 0 && !hasDomB s
  else if o = rRefCfg then v.getLsbD 1 && !hasDomB s
  else if o = rPpsInCfg 0 ∨ o = rPpsInCfg 1 ∨ o = 0x800240 ∨ o = 0x800248 then field v 57 56 = 2 && !hasDomB s
  else if 0x801000 ≤ o ∧ o < 0x801000 + 0x40 * 266 ∧ o % 0x40 = 0 then field v 9 8 = 2 && !hasDomB s
  else if 0x3010000 ≤ o ∧ o < 0x3020000 ∧ o % 0x40 = 0 then portAbsent s (field v 16 8)
  else if 0x20100 ≤ o ∧ o < 0x20500 ∧ o % 0x40 = 0 then destAbsent s (field v 17 0)
  else if 0xA000 ≤ o ∧ o < 0xA000 + 16 * 266 ∧ o % 16 = 0 then destAbsent s (field v 63 46)
  else if o = rLearnFlush then (field v 38 36 = 1 || field v 38 36 = 3) && destAbsent s (field v 17 0)
  else false

/-- An instruction's write passes the Write Gate after those it accepted before (R86, R228), and is journaled. [log 12 DEDUCED] -/
def ringWrite (s : State) (n isn o : Nat) (value : Word) (env : WriteEnv) (result : Nat) : State × Verdict :=
  let s := gateDrain s
  if regRefersAbsent s o value then (s, .done .eAbsent 0) else
  let s := perf { s with ctl := { s.ctl with gateIn := s.ctl.gateIn + 1, gateOut := s.ctl.gateOut + 1 } } 40 0x0303 1
  let r := regWrite s (writeKey (ringLink s n) o) (BitVec.allOnes 64) value env (ringOperator s n) id
  match r.2 with
  | .bad st => (r.1, .done st 0)
  | .took => (journal r.1 0x0010 (ringOrigin n) [(8, isn), (4, o), (8, value.toNat)], .done .ok result)
  | .quiet => (r.1, .done .ok result)

/-- RW (R226 to R228, R406, R419). -/
def execRw (ring : Fin 64) (ins : Ins) (env : WriteEnv) (s : State) : Host.Outcome State Fault Refusal :=
  let n := ring.val
  nextOf s <| runIns s n opRw ins fun isn s =>
    guardIns s (regChecks s n ins false true) fun s => ringWrite s n isn ins.index (BitVec.ofNat 64 ins.operand) env 0

/-- RRD (R226, R227, R229, R232). [log 102 DESIGN CHOICE] -/
def execRrd (ring : Fin 64) (ins : Ins) (destOk : Bool) (s : State) : Host.Outcome State Fault Refusal :=
  let n := ring.val
  nextOf s <| runIns s n opRrd ins fun isn s =>
    guardIns s (regChecks s n ins (ins.operand % 16 ≠ 0) false) fun s =>
      if ins.operand ≠ 0 ∧ ¬ destOk then operandFault s n isn ins.operand
      else
        let r := readEffect s (ringLink s n) ins.index
        let t := if ins.operand = 0 then r.1 else valueWrite r.1 n isn ins.operand (leBytes 8 r.2.toNat)
        (t, .done .ok r.2.toNat)

/-- RMW (R226 to R231). [log 14 DEDUCED] -/
def execRmw (ring : Fin 64) (ins : Ins) (block : Block) (env : WriteEnv) (s : State) : Host.Outcome State Fault Refusal :=
  let n := ring.val
  nextOf s <| runIns s n opRmw ins fun isn s =>
    guardIns s (regChecks s n ins (ins.operand % 16 ≠ 0) true) fun s =>
      match block with
      | none => operandFault s n isn ins.operand
      | some b =>
        let s := gateDrain s
        let x := look s (ringLink s n) ins.index
        let s := x.1
        let old := x.2
        let m := BitVec.ofNat 64 (leAt b 0 8)
        let v := (old &&& ~~~ m) ||| (BitVec.ofNat 64 (leAt b 8 8) &&& m)
        ringWrite s n isn ins.index v env old.toNat

-- CCLR

/-- CCLR (R233, R234, R239 to R241, R861). -/
def execCclr (ring : Fin 64) (ins : Ins) (s : State) : Host.Outcome State Fault Refusal :=
  let n := ring.val
  nextOf s <| runIns s n opCclr ins fun isn s =>
    guardIns s (ctrChecks s ins 8 false) fun s =>
      let s := gateDrain s
      let l := ctrPlaces ins
      let gained := cycleGain s l
      let s := { s with core := { s.core with now := { s.core.now with cleared := s.core.now.cleared ++ l.zip (placeValues s l) } } }
      let s := (l.zip gained).foldl (fun s x => setValue s x.1.1 x.1.2.1 x.1.2.2 x.2) s
      let ev := ins.flags.testBit 2
      let s := if ev then clearAllLatched s l true else s
      let s := journal s 0x0020 (ringOrigin n)
        [(8, isn), (2, ins.unit), (4, ciFirst ins), (2, ciUnits ins - 1), (1, b2n ev)]
      (s, .done .ok (if ins.unit = 0x0805 then 8 else l.length))

-- WAITT, TSET, TADJ (R243 to R252)

/-- T of a T128 block: seconds and nanoseconds. -/
def blockSec (b : List Byte) : Nat := leAt b 0 8
def blockFrac (b : List Byte) : Nat := leAt b 10 2
def blockNs (b : List Byte) : Nat := leAt b 12 4

/-- WAITT (R80, R244, R245). -/
def execWaitt (ring : Fin 64) (ins : Ins) (block : Block) (s : State) : Host.Outcome State Fault Refusal :=
  let n := ring.val
  nextOf s <| runIns s n opWaitt ins fun isn s =>
    guardIns s [(decide (4 ≤ ins.flags) || ins.unit ≠ 0 || ins.index ≠ 0 || ins.operand % 16 ≠ 0, .eCheck)] fun s =>
      match block with
      | none => operandFault s n isn ins.operand
      | some b =>
        let t := tNs (blockSec b) (blockNs b)
        if opNs s < t then (s, .wait (.waitt (blockSec b) (blockNs b) false))
        else if opNs s = t then (s, .done .ok 0)
        else (s, .done .ok (2 ^ 63 + (opNs s - t) % 2 ^ 63))

/-- A ring whose WAITT's T operational time has reached goes on (R80, R829): LATE when a step has passed T over. -/
def waittNow (s : State) (n : Nat) : State :=
    match (rt s n).waiting with
    | some ⟨isn, op, flags, .waitt sec ns late⟩ =>
      onlyIf (decide (tNs sec ns ≤ opNs s)) s
        (completeIns s n isn op flags .ok (if late then 2 ^ 63 + (opNs s - tNs sec ns) % 2 ^ 63 else 0) false)
    | _ => s

/-- WAITT_TIME_REACHED (R80, R829). [log 80 DEDUCED] -/
def execWaittTimeReached (ring : Fin 64) (s : State) : Host.Outcome State Fault Refusal := nextOf s (waittNow s ring.val)

/-- The checks that TSET and TADJ share: steps 1 to 3 of R1161. [log 11 DEDUCED] -/
def timeChecks (s : State) (n d : Nat) (ins : Ins) (own : Bool) : List (Bool × Status) :=
  [(decide (32 ≤ ins.flags) || ins.unit ≠ 0 || ins.index ≠ 0 || own, .eCheck),
   (d = 1 && !hasDomB s, .eAbsent),
   (decide (n < 60) && rdB s (rDomCtrl d) 63, .ePerm)]

/-- A signed number of nanoseconds held within 63 bits of magnitude. -/
def clampNs (z : Int) : Int := max (-(2 ^ 63 - 1)) (min z (2 ^ 63 - 1))

/-- TSET (R246, R247, R250 to R252, R1168). [log 12 DEDUCED] -/
def execTset (ring : Fin 64) (ins : Ins) (block : Block) (s : State) : Host.Outcome State Fault Refusal :=
  let n := ring.val
  let d := bits ins.flags 4 4
  nextOf s <| runIns s n opTset ins fun isn s =>
    guardIns s (timeChecks s n d ins (bits ins.flags 3 2 ≠ 0 || ins.operand % 16 ≠ 0)) fun s =>
      match block with
      | none => operandFault s n isn ins.operand
      | some b =>
        if 1000000000 ≤ blockNs b then (s, .done .eCheck 0)
        else
          let old := (domOf s d).t
          let new := blockSec b * unitsPerSec + blockNs b * 65536 + blockFrac b
          let s := stepDomain s d ((new : Int) - old)
          let g := domGen s d
          let ns : Int := (nsTotal new : Int) - nsTotal old
          let s := journal s 0x0030 (ringOrigin n) [(8, isn), (1, d), (1, 3), (8, toTwos 64 (clampNs ns))]
          let s := journalPart s 0x0031 (ringOrigin n) 1 [(8, blockSec b), (4, blockNs b), (2, blockFrac b), (2, g)]
          (s, .done .ok g)

/-- TADJ of a MODE: 0 STEP, 1 SLEW, 2 FREQ (R248 to R252); MODE 3 in FLAGS is rejected. [log 17 DEDUCED] -/
def tadjRun (s : State) (n mode : Nat) (ins : Ins) : State :=
  let d := bits ins.flags 4 4
  let amount := signedOf 64 ins.operand
  let far := decide (mode = 2) && decide (32768000000 < amount.natAbs)
  runIns s n opTadj ins fun isn s =>
    guardIns s (timeChecks s n d ins (bits ins.flags 3 2 = 3 || far)) fun s =>
      let t := if mode = 0 then stepDomain s d amount
        else if mode = 1 then slewDomain s d amount
        else wr s (rDomFreq d) (BitVec.ofNat 64 (toTwos 64 amount))
      (journal t 0x0030 (ringOrigin n) [(8, isn), (1, d), (1, mode), (8, toTwos 64 amount)],
        .done .ok (if mode = 0 then domGen t d else if mode = 1 then slewNs t d else 0))

/-- TADJ_STEP (R248, R771). [log 78 DEDUCED] -/
def execTadjStep (ring : Fin 64) (ins : Ins) (s : State) : Host.Outcome State Fault Refusal :=
  nextOf s (tadjRun s ring.val 0 (if bits ins.flags 3 2 = 3 then ins else withVariant ins 3 0))

/-- TADJ_SLEW (R248, R778). -/
def execTadjSlew (ring : Fin 64) (ins : Ins) (s : State) : Host.Outcome State Fault Refusal :=
  nextOf s (tadjRun s ring.val 1 (if bits ins.flags 3 2 = 3 then ins else withVariant ins 3 1))

/-- TADJ_FREQ (R249, R250). -/
def execTadjFreq (ring : Fin 64) (ins : Ins) (s : State) : Host.Outcome State Fault Refusal :=
  nextOf s (tadjRun s ring.val 2 (if bits ins.flags 3 2 = 3 then ins else withVariant ins 3 2))

end Sys2Proof.Machine
end

