-- ==== Sys2Proof/Machine/Startup.lean ====
section
/-! DEFINITION. The start-up sequence, the reset kinds, shutdown, zeroisation by balls and tamper inputs, temperature warnings
(chapters Start-up, Reset and Error Containment; The Line Cipher; Power, Thermal and Package). -/

namespace Sys2Proof.Machine

-- What the reset kinds keep (R1109, Table 18.8)

/-- Registers a restart does not return to their reset value: the heads of the recorder's stores, the volatile ring's only
while power stays, and KEK_STATUS. -/
def keptReg (power : Bool) (o : Nat) : Bool :=
  o = rEvHead || o = rJrHead || o = rColHead || o = rKekStatus || (!power && o = rVolHead)

/-- The recorder through a restart: a loss of power takes the volatile ring and what waits in the queues. -/
def keptRecorder (r : Recorder) (power : Bool) : Recorder :=
  { opCycles := r.opCycles, pcycle := r.pcycle, hoursCell := r.hoursCell, recFailed := r.recFailed, pattern := r.pattern,
    evQ := if power then [] else r.evQ, jrQ := if power then [] else r.jrQ,
    recs := if power then r.recs.filter (fun x => x.1 / 2 ^ 20 ≠ 2) else r.recs,
    recBadSlots := r.recBadSlots }

/-- The device restarts: every part of the state takes its reset value but what Table 18.8 keeps; `power` tells whether
power was lost. HOST_CFG's stored fields take effect (R1004). -/
def restart (s : State) (power : Bool) : State :=
  let nv := s.pwr.nv
  { State.reset with
    pending := s.pending
    variant := s.variant
    serial := s.serial
    fresh := s.fresh
    cycle := s.cycle
    out := s.out
    regs := s.regs.filter (fun x => keptReg power x.1)
    rcd := keptRecorder s.rcd power
    host := { bifNow := nv.bifurcate, ringSplitNow := nv.ringSplit, frameSplitNow := nv.frameSplit }
    learn := { ageAt := s.cycle }
    ciph := { keks := s.ciph.keks, operators := s.ciph.operators }
    mp := { perfBase := s.cycle }
    pwr := { nv := nv, latch := s.pwr.latch, pg := s.pwr.pg, pwrEn := s.pwr.pwrEn, vinOk := s.pwr.vinOk, tamperSel := s.pwr.tamperSel } }

/-- The security boundary's stored bits stand in its registers again (R413, R429, Tables 6.11 to 6.13). -/
def cipherStored (s : State) : State :=
  let nv := s.pwr.nv
  let s := wrB (wrB (wrF s rCipherStatus 63 48 nv.fwMin) rCipherStatus 4 nv.commissioned) rCipherStatus 3 nv.approved
  wrF (wrF (wrB s rCipherMode 0 nv.approved) rMirrorPermit 15 0 nv.mirrorPermit) rTamperStatus 3 0 nv.tamper

/-- A cold or zeroise reset (R1108): every ring's role ends (R405, R437) and the recorder's windows close first (R1160); the
device enters SUPERVISE. The mode that was in effect stays known until LOAD takes the next one (R654). [log 82 DEDUCED] -/
def resetInto (s : State) (cause kind : Nat) : State :=
  let s := endAllRoles s
  let r := restart (journalReset (closeAllWindows s) kind) false
  cipherStored (setResetCause (setDevState (wrB r rCoreStatus 0 (voqMode s)) stSupervise) cause)

/-- Power goes (R1081, R1082, R1126): OFF, with nothing but the VKEEP domain, the flash and the recorder's MRAM kept.
[log 71 DEDUCED] -/
def powerOff (s : State) : State :=
  let s := restart s true
  { s with pwr := { s.pwr with pg := false, fault := s.pwr.latch ≠ 0 } }

-- The sequence (R1080, Table 18.1)

/-- POWER_ON (R1080, R1082): `cycled` tells that PWR_EN has been low for 10 ms, or VIN removed, since a rail fault. The
latched cause becomes PREV_CAUSE, and FAULT_N is released (R1120). -/
def execPowerOn (cycled : Bool) (s : State) : Host.Outcome State Fault Refusal :=
  nextOf s <| onlyIf (devState s = stOff && (s.pwr.latch = 0 || cycled)) s <|
    let latch := s.pwr.latch
    let s := cipherStored (restart s true)
    let s := { s with pwr := { s.pwr with latch := 0, fault := false, pwrEn := true, vinOk := true } }
    wrF (setResetCause (setDevState s stPower) 0) rFaultCause 11 8 latch

/-- Cycles of operating time that a record carries. -/
def recCycles (img : Nat) : Nat := bits img 31 0 * 3600 * cyclesPerSec + bits img 53 32 * cyclesPerMs

/-- The records of a store that verify: slot and image. -/
def validRecs (s : State) (k : Nat) : List (Nat × Nat) :=
  (s.rcd.recs.filter (fun x => x.1 / 2 ^ 20 = k && !s.rcd.recBadSlots.contains x.1)).map (fun x => (x.1 % 2 ^ 20, x.2))

/-- Records that verify in the MRAM stores. -/
def mramRecs (s : State) : List (Nat × Nat) := validRecs s 0 ++ validRecs s 1 ++ validRecs s 3

/-- At a power-on, operating hours resume and the power-cycle count goes up by 1 (R964, R965). [log 70 DESIGN CHOICE] -/
def resumeCounts (s : State) (pcycleOk : Bool) : State :=
  let hours := (mramRecs s).foldl (fun m x => max m (recCycles x.2)) s.rcd.hoursCell
  let pc := if pcycleOk then s.rcd.pcycle else (mramRecs s).foldl (fun m x => max m (bits x.2 95 64)) 0
  { s with rcd := { s.rcd with opCycles := hours, pcycle := (pc + 1) % 2 ^ 32 } }

/-- What zeroisations without VIN report at the next start, from the bits they set (R429): EV_TAMPER for the tamper inputs,
EV_ZEROISE for the ball and for VKEEP. [log 68 DEDUCED, 79 DEDUCED] -/
def postPending (s : State) : State :=
  let b := s.pwr.nv.zeroPend
  if b = 0 then s
  else
    let s := setBoundary (wrB s rCipherStatus 7 (b.testBit 3)) bsZeroised
    let s := { s with pwr := { s.pwr with nv := { s.pwr.nv with zeroPend := 0 } } }
    let s := if b % 4 = 0 then s else postHw s 0xC20B [(8, s.pwr.nv.tamper)]
    let s := if b.testBit 2 then postHw s 0xC20A [(1, 2), (1, 0)] else s
    if b.testBit 3 then postHw s 0xC20A [(1, 4), (1, 0)] else s

/-- SUPERVISE (R1080): PG is asserted. `pcycleOk` tells that the power-cycle cell can be read (R965). -/
def execSupervise (pcycleOk : Bool) (s : State) : Host.Outcome State Fault Refusal :=
  nextOf s <| onlyIf (devState s = stPower) s <|
    let s := resumeCounts (setDevState { s with pwr := { s.pwr with pg := true } } stSupervise) pcycleOk
    let prev := rdF s rFaultCause 11 8
    let s := if prev = 0 then s else postHw s 0xCD0B [(1, prev)]
    postPending s

/-- A check stops the start (R1091, R1092); the recorder completes its scan unless there is no firmware. -/
def startStop (scan : State → State) (s : State) (cause memory : Nat) : State :=
  let st := devState s
  let s := assertFault { s with pwr := { s.pwr with stopped := true } } cause
  let s := postHw s 0xCD05 [(1, cause), (1, st), (4, memory)]
  if cause = 4 then s else scan { s with mp := { s.mp with mpUp := true } }

/-- The firmware versions that may run (R421, R422): both signatures verify and the version is not too low. -/
def fwChoice (s : State) (okA okB : Bool) : Option (Bool × Nat) :=
  let good (ok : Bool) (v : Option Nat) : Option Nat := v.bind (fun n => if ok ∧ s.pwr.nv.fwMin ≤ n then some n else none)
  match good okA s.pwr.nv.fwA, good okB s.pwr.nv.fwB with
  | none, none => none
  | some a, none => some (false, a)
  | none, some b => some (true, b)
  | some a, some b => some (if a < b then (true, b) else (false, a))

/-- Firmware integrity, row 3 of Table 6.9, fails (R416, R424). -/
def firmwareBad (s : State) : State := postHw (testFails s 3) 0xC208 [(1, 3), (1, 0)]

/-- Firmware selection (R424): the stored version rises to the one that runs (R422); with no valid image the start stops.
[log 63 DEDUCED] -/
def fwSelect (s : State) (okA okB : Bool) : State :=
  match fwChoice s okA okB with
  | none => startStop (fun s => s) (firmwareBad s) 4 0
  | some (b, v) => cipherStored { s with pwr := { s.pwr with nv := { s.pwr.nv with fwRun := b, fwMin := v } } }

/-- The Claves' self-tests at start-up (Table 18.2). -/
def claveStart (s : State) (okA okB : Bool) : State :=
  let s := setClaveState (setClaveState s false (if okA then 0 else 3)) true (if okB then 0 else 3)
  let s := { s with ctl := { s.ctl with active := !okA && okB } }
  if okA ∧ okB then setClaveMode s cmPairedA
  else if okA then setClaveMode s cmSingleA
  else if okB then setClaveMode s cmSingleB
  else claveHalt s 5

/-- The key store at a start (R396, R430): the DRBG is instantiated, a storage key drawn where there is none, and a new
attestation key pair generated where the old one was erased, which the boot slots no longer verify under. [log 88 DEDUCED] -/
def keyStoreStart (s : State) : State :=
  let s := drbgSeed s
  let s := if s.pwr.nv.storageKey.isSome then s
    else let r := drbgDraw s 32; { r.1 with pwr := { r.1.pwr with nv := { r.1.pwr.nv with storageKey := some r.2 } } }
  if s.pwr.nv.attKey.isSome then s
  else
    let r := drbgDraw s 48
    { r.1 with pwr := { r.1.pwr with nv := { r.1.pwr.nv with attKey := some r.2, boot0 := none, boot1 := none } } }

/-- The boundary at the end of the power-up tests (R415, R416, R430, R431): a failed test is named by its row of Table 6.9
counted from 1 and its cipher unit. Row 10, the pairwise consistency test, runs only where a key pair is generated; row 9 is a
continuous test of the entropy source. -/
def boundaryStart (s : State) (fail : Option (Fin 10 × Fin 40)) : State :=
  let fresh := s.pwr.nv.attKey.isNone
  let s := keyStoreStart s
  match fail.filter (fun x => x.1.val ≠ 9 || fresh) with
  | some (t, u) =>
    let s := testFails s (t.val + 1)
    if t.val = 8 then postHw s 0xC209 [(1, u.val % 2)] else postHw s 0xC208 [(1, t.val + 1), (1, u.val)]
  | none => setBoundary s (if s.pwr.nv.commissioned then bsOperational else bsZeroised)

/-- SELFTEST (R1080, R415, R424, R430, R431, Table 18.2): memory repair, cipher self-tests, firmware selection, Clave
self-tests. [log 68 DEDUCED] -/
def execSelftest (repaired : Bool) (fail : Option (Fin 10 × Fin 40)) (fwA fwB claveA claveB : Bool) (s : State) :
    Host.Outcome State Fault Refusal :=
  nextOf s <| onlyIf (devState s = stSupervise && !s.pwr.stopped) s <|
    let s := wrB (setDevState s stSelftest) rErrStatus 2 repaired
    claveStart (fwSelect (boundaryStart s fail) fwA fwB) claveA claveB

-- The recorder's scan (R981 to R984, R988)

/-- The later of two SEQ by serial-number comparison (R981). -/
def seqLater (a b : Nat) : Bool := (a + 2 ^ 32 - b) % 2 ^ 32 < 2 ^ 31 && a ≠ b

/-- SEQ of a record's image. -/
def recSeq (img : Nat) : Nat := bits img 127 96

/-- The newest of some records. -/
def newestRec (l : List (Nat × Nat)) : Option (Nat × Nat) :=
  l.foldl (fun b x => match b with
    | none => some x
    | some y => if seqLater (recSeq x.2) (recSeq y.2) then some x else some y) none

/-- The head of a store: its newest record's SEQ and the slot after it; slot 0 with SEQ 1 next when none is valid. -/
def scanHead (s : State) (k : Nat) : State :=
  match newestRec (validRecs s k) with
  | none => wr s (storeHead k) 0
  | some (slot, img) => wr s (storeHead k) (BitVec.ofNat 64 (recSeq img <<< 32 + (slot + 1) % storeSize k))

/-- Slots of a store that count in REC_CRC_BAD: not the one directly after its newest record (R983). [log 70 DESIGN CHOICE] -/
def scanBad (s : State) (k : Nat) : List Nat :=
  s.rcd.recBadSlots.filter (fun x => x / 2 ^ 20 = k && x % 2 ^ 20 ≠ storeNext s k)

/-- The store an EV_RECORDER_FAILED of the Colophon area names, when no EV_RECORDER_RESTORED follows it (R988). -/
def scanFailed (s : State) : Option Nat :=
  match newestRec ((validRecs s 3).filter (fun x => bits x.2 287 272 = 0xCB01 || bits x.2 287 272 = 0x0B05)) with
  | some (_, img) => if bits img 287 272 = 0xCB01 then some (bits img 327 320) else none
  | none => none

/-- The scan at LOAD: `decayed` lists the MRAM slots, store and slot, whose CRC now fails; what they hold is open.
[log 6 DESIGN CHOICE, 70 DESIGN CHOICE] -/
def recScan (s : State) (decayed : List (Fin 4 × Nat)) : State :=
  let bad := (decayed.filter (fun x => x.1.val ≠ 2 && decide (x.2 < storeSize x.1.val))).map (fun x => x.1.val * 2 ^ 20 + x.2)
  let s := bad.foldl (fun s k => { s with
    fresh := s.fresh + 1
    rcd := { s.rcd with
      recs := smSet (fun _ => 0) s.rcd.recs k (leNat (Config.freeBytes s.fresh 64) % 2 ^ 512)
      recBadSlots := if s.rcd.recBadSlots.contains k then s.rcd.recBadSlots else s.rcd.recBadSlots ++ [k] } }) s
  let s := scanHead (scanHead (scanHead s 0) 1) 3
  let l := scanBad s 0 ++ scanBad s 1 ++ scanBad s 3
  let s := wr s rRecCrcBad (BitVec.ofNat 64 (min l.length (2 ^ 32 - 1)))
  let s := match scanFailed s with
    | some k => wrB (wrF { s with rcd := { s.rcd with recFailed := k } } rRecStatus 1 0 1) rRecStatus 3 true
    | none => wrB (wrF s rRecStatus 1 0 0) rRecStatus 3 false
  let kind := rdF s rResetCause 2 0
  let first := mkPosting s 0x0B04 hwOrigin [(1, kind), (4, storeNext s 0), (4, storeNext s 1), (4, storeNext s 3)]
  let s := handleEvent s first true true true
  match l with
  | [] => s
  | x :: _ => postHw s 0x4B03 [(1, x / 2 ^ 20), (4, l.length)]

/-- The Case seeds, from the random bit generator (R525). [log 6 DESIGN CHOICE] -/
def drawSeeds (s : State) : State :=
  (List.range 4).foldl (fun s i => let r := drbgDraw s 8; wr r.1 (rCaseSeed i) (BitVec.ofNat 64 (leNat r.2))) s

/-- LOAD (R1080, R981, R525, R1103): the recorder scans, the MP starts, the seeds are loaded, and the boot image is checked and
imposed. `sig0` and `sig1` tell which manifests verify, `decay` which check the flash's content fails. -/
def execLoad (decayed : List (Fin 4 × Nat)) (sig0 sig1 : Bool) (decay : Option (Fin 5)) (s : State) :
    Host.Outcome State Fault Refusal :=
  nextOf s <| onlyIf (devState s = stSelftest && !s.pwr.stopped) s <|
    let s := recScan (setDevState s stLoad) decayed
    let s := drawSeeds { s with mp := { s.mp with mpUp := true } }
    takeMode (bootLoad s sig0 sig1 decay)

/-- Octet n fails calibration (R1094). [log 72 DEDUCED] -/
def octetFault (s : State) (n : Nat) : State := postHw (wrB s rOctetFault n true) 0x8D06 [(1, n), (1, 1)]

/-- Stack k fails training or test (R1093). [log 72 DEDUCED] -/
def stackFault (s : State) (k : Nat) : State := postHw (wrB s rErrStatus 9 true) 0x8D06 [(1, k), (1, 0)]

/-- TRAIN (R1080, R1093, R1094): the HBM3E stacks and the lanes of every octet present. -/
def execTrain (stack0 stack1 : Bool) (octets : List (Fin 32)) (s : State) : Host.Outcome State Fault Refusal :=
  nextOf s <| onlyIf (devState s = stLoad && !s.pwr.stopped) s <|
    let s := setDevState { s with mp := { s.mp with hbmTemp := [] } } stTrain
    let s := if hasDeep s && stack0 then stackFault s 0 else s
    let s := if hasDeep s && stack1 then stackFault s 1 else s
    let s := wrB s rCoreStatus 2 (hasDeep s && !stack0 && !stack1)
    let s := if hasDeep s && (stack0 || stack1) then
        postHw { s with core := { s.core with deepDownAt := s.cycle } } 0x4605 [(1, 1)] else s
    (octets.filter (fun n => tilePresent s (n.val / 4))).foldl (fun s n => octetFault s n.val) s

/-- HOLD (R1080, R1083, R1089): READY; and RUN at once when the boot image passed and AUTO_START is set. -/
def execHold (s : State) : Host.Outcome State Fault Refusal :=
  nextOf s <| onlyIf (devState s = stTrain && !s.pwr.stopped) s <|
    let s := setDevState { s with pwr := { s.pwr with ready := true } } stHold
    if s.pwr.nv.autoStart && rdB s rDevState 8 then startRun s 1 else s

/-- START_STOP (R1090 to R1092): cause 2 CLOCK in SUPERVISE, 3 BIST of a memory or 4 FIRMWARE in SELFTEST. -/
def execStartStop (cause : Fin 3) (memory : Nat) (s : State) : Host.Outcome State Fault Refusal :=
  let c := cause.val + 2
  nextOf s <| onlyIf (!s.pwr.stopped && devState s = (if c = 2 then stSupervise else stSelftest)) s
    (startStop (fun s => recScan s []) (if c = 4 then firmwareBad s else s) c memory)

-- The end of power (R1081, R1082, R1126, R1160)

/-- SHUTDOWN (R1081, R1126): VIN below VIN_OFF, or PWR_EN low. The recorder closes its windows and writes the hours cell. -/
def execShutdown (vinLost : Bool) (s : State) : Host.Outcome State Fault Refusal :=
  nextOf s <|
    let s := if stSupervise ≤ devState s then
        let s := closeAllWindows s
        { s with rcd := { s.rcd with hoursCell := s.rcd.opCycles } }
      else s
    let s := if devState s = stOff then s else powerOff s
    if vinLost then { s with pwr := { s.pwr with vinOk := false } } else { s with pwr := { s.pwr with pwrEn := false } }

/-- RAIL_FAULT (R1082, R1127, R1140): cause RAIL, or THERMAL. -/
def execRailFault (thermal : Bool) (s : State) : Host.Outcome State Fault Refusal :=
  nextOf s <| onlyIf (decide (stOff < devState s)) s
    (powerOff { s with pwr := { s.pwr with latch := if thermal then 7 else 1 } })

/-- THERM_WARN (R1138, R1139, R1157): a sensor takes a temperature, in 1/16 degree, and THERM_N follows. -/
def execThermWarn (sensor : Fin 24) (temp : BitVec 16) (s : State) : Host.Outcome State Fault Refusal :=
  nextOf s <| onlyIf (decide (stSupervise ≤ devState s) && !absentOff s (rTemp sensor.val)) s (
    let s := thermRefresh (wrF s (rTemp sensor.val) 15 0 temp.toNat)
    if sensor.val = 18 ∨ sensor.val = 19 then hbmSample s (sensor.val - 18) temp.toNat else s)

-- Cold resets (R1084, R1001, R1108, R1115)

/-- RESET_N (R1084): low for `lowNs`; between 100 ns and 1 µs the device may take it or not. [log 69 DEDUCED] -/
def execResetN (lowNs : Nat) (taken : Bool) (s : State) : Host.Outcome State Fault Refusal :=
  nextOf s <| onlyIf (decide (stSupervise ≤ devState s) && (decide (1000 ≤ lowNs) || (decide (100 ≤ lowNs) && taken))) s
    (resetInto s 1 0)

/-- HOST_FUNDAMENTAL_RESET (R1001, R1108). -/
def execHostFundamentalReset (s : State) : Host.Outcome State Fault Refusal :=
  nextOf s <| onlyIf (decide (stSupervise ≤ devState s)) s (resetInto s 2 0)

-- Zeroisation (R425 to R429, R1108, R1114, R1133 to R1136)

/-- A trigger other than a command (Table 6.10): bit `b` of TAMPER_STATUS, and the row counted from 0. While the device is on,
EV_TAMPER for a tamper input, the journal entry, and the zeroise reset; else the VKEEP domain keeps it for the next start.
[log 79 DEDUCED] -/
def zeroise (s : State) (b path : Nat) : State :=
  let on := powered s
  let t := wrB (wrF s rTamperStatus 3 0 s.pwr.nv.tamper) rTamperStatus b true
  let t := { t with pwr := { t.pwr with nv := { t.pwr.nv with tamper := rdF t rTamperStatus 3 0 } } }
  let t := if on && path = 3 then postHw t 0xC20B [(8, t.pwr.nv.tamper)] else t
  let z := zeroStore t path 0
  if on then resetInto (journalZero z.1 hwOrigin 0 path 0 0 z.2 0) 4 2
  else { z.1 with pwr := { z.1.pwr with nv := { z.1.pwr.nv with zeroPend := z.1.pwr.nv.zeroPend ||| 2 ^ b } } }

/-- ZEROISE_N (R425, R427): low for `lowNs`; between 1 µs and 10 µs the device may take it or not. [log 69 DEDUCED] -/
def execZeroiseN (lowNs : Nat) (taken : Bool) (s : State) : Host.Outcome State Fault Refusal :=
  nextOf s <| onlyIf (decide (10000 ≤ lowNs) || (decide (1000 ≤ lowNs) && taken)) s (zeroise s 2 2)

/-- TAMPER_MESH (R425): the lid mesh is open or shorted. -/
def execTamperMesh (s : State) : Host.Outcome State Fault Refusal := nextOf s (zeroise s 0 3)

/-- BOARD_LOOP (R1135, R1136): the monitor samples loop A (0) or B (1); two mismatches in a row are a tamper, while
TAMPER_SEL enables the loops. [log 60 DEDUCED] -/
def execBoardLoop (loop : Fin 2) (mismatch : Bool) (s : State) : Host.Outcome State Fault Refusal :=
  nextOf s <| onlyIf s.pwr.tamperSel s <|
    let n := if mismatch then smGet (fun _ => 0) s.ciph.loopMiss loop.val + 1 else 0
    let s := { s with ciph := { s.ciph with loopMiss := smSet (fun _ => 0) s.ciph.loopMiss loop.val (if n = 2 then 0 else n) } }
    if n = 2 then zeroise s 1 3 else s

/-- VKEEP_LOSS (R1133, R1134): VKEEP below its minimum while VIN is absent; FAULT_N is then released (R1150). [log 72 DEDUCED] -/
def execVkeepLoss (s : State) : Host.Outcome State Fault Refusal :=
  nextOf s <| onlyIf (!s.pwr.vinOk) s <|
    let s := zeroise s 3 4
    { s with pwr := { s.pwr with fault := false } }

/-- TAMPER_SEL_CHANGE (R1135): the ball takes a level; once commissioned, one that differs from the stored level is a tamper
of the board loop. -/
def execTamperSelChange (level : Bool) (s : State) : Host.Outcome State Fault Refusal :=
  nextOf s <|
    let s := { s with pwr := { s.pwr with tamperSel := level } }
    if s.pwr.nv.commissioned && level ≠ s.pwr.nv.tamperSel then zeroise s 1 3 else s

end Sys2Proof.Machine
end

