-- ==== Sys2Proof/Machine/MemErrors.lean ====
section
/-! DEFINITION. Memory errors: corrections and their rates, retired cells, and what an uncorrectable error does (chapter
Start-up, Reset and Error Containment). -/

namespace Sys2Proof.Machine

/-- The number by which events name a memory instance: its kind × 2^24, and its place among that kind. [log 72 DEDUCED] -/
def memNumber : MemUnit → Nat
  | .slice t => t.val
  | .caseCopy k => 2 ^ 24 + k.val
  | .asaCopy k => 2 * 2 ^ 24 + k.val
  | .tableCopy t k => 3 * 2 ^ 24 + t * 4 + k.val
  | .stack k => 4 * 2 ^ 24 + k.val

/-- A stack as an instance. -/
def isStack : MemUnit → Option Nat
  | .stack k => some k.val
  | _ => none

/-- A memory instance exists on this variant (R3, R505, R574): slices and ASA copies of tiles, Case copies of tile pairs. -/
def memPresent (s : State) : MemUnit → Bool
  | .slice t => tilePresent s t.val
  | .caseCopy k => tilePresent s (2 * k.val)
  | .asaCopy k => tilePresent s (k.val % 16 / 2)
  | .tableCopy _ _ => true
  | .stack _ => hasDeep s

/-- Corrected errors per second that an instance may have (R1118, Table 18.12). -/
def ceLimit (s : State) (m : MemUnit) : Nat :=
  max (if (isStack m).isSome then rdF s rErrCtrl 47 32 else rdF s rErrCtrl 15 0) 1

/-- MEM_CE counts (R1116, Table 18.12). -/
def countCe (s : State) : State := wrF s rMemErrors 31 0 (min (rdF s rMemErrors 31 0 + 1) (2 ^ 32 - 1))

/-- MEM_UE counts. -/
def countUe (s : State) : State := wrF s rMemErrors 63 32 (min (rdF s rMemErrors 63 32 + 1) (2 ^ 32 - 1))

/-- The corrections of an instance within the last second, with this one (R1118). -/
def ceRecent (s : State) (n : Nat) : List Nat :=
  s.cycle :: (smGet (fun _ => []) s.pwr.ceTimes n).filter (fun c => s.cycle < c + cyclesPerSec)

/-- The rate of corrections of an instance (R1118, R953). -/
def ceRate (s : State) (m : MemUnit) : State :=
  let n := memNumber m
  let l := ceRecent s n
  let s := { s with pwr := { s.pwr with ceTimes := smSet (fun _ => []) s.pwr.ceTimes n l } }
  if ceLimit s m < l.length then
    let s := postRate (wrB s rErrStatus 12 true) (3600 * cyclesPerSec) n 0x4D07 [(4, n), (4, l.length)]
    match isStack m with
    | some k => retrain s k
    | none => s
  else s

def cellKey (t c : Nat) : Nat := t * 2 ^ 16 + c

/-- A cell corrected in two reads within one hour is to be retired (R1119). -/
def ceCell (s : State) (t c : Nat) : State :=
  let k := cellKey t c
  let was := smGet (fun _ => 0) s.pwr.ceCell k
  let s := { s with pwr := { s.pwr with ceCell := smSet (fun _ => 0) s.pwr.ceCell k (s.cycle + 1) } }
  if was ≠ 0 ∧ s.cycle + 1 ≤ was + 3600 * cyclesPerSec ∧ smGet (fun _ => 0) s.pwr.retired k = 0 then
    { s with pwr := { s.pwr with retired := smSet (fun _ => 0) s.pwr.retired k 1 } }
  else s

/-- MEM_CE (R1116, R1118, R1119): an instance, and the cell when the word lies in one. -/
def execMemCe (unit : MemUnit) (cell : Option (Fin 65536)) (s : State) : Host.Outcome State Fault Refusal :=
  nextOf s <| onlyIf (decide (stSelftest ≤ devState s) && memPresent s unit) s <|
    let s := ceRate (countCe s) unit
    match unit, cell with
    | .slice t, some c => if tilePresent s t.val then ceCell s t.val c.val else s
    | _, _ => s

/-- CELL_RETIRE (R1119): the frame of a cell to be retired has released it; at most 1,024 cells of a slice. -/
def execCellRetire (tile : Fin 8) (cell : Fin 65536) (s : State) : Host.Outcome State Fault Refusal :=
  let k := cellKey tile.val cell.val
  let n := retiredCells s tile.val
  nextOf s <| onlyIf (smGet (fun _ => 0) s.pwr.retired k = 1 && decide (n < 1024)
      && !s.path.frames.any (fun f => ingressTile f.port = tile.val && f.cellIdx.contains cell.val)) s <|
    let s := { s with pwr := { s.pwr with retired := smSet (fun _ => 0) s.pwr.retired k 2 } }
    postHw (wrF s (rCellsRetired tile.val) 10 0 (n + 1)) 0x0D09 [(1, tile.val), (4, cell.val), (2, n + 1)]

-- Uncorrectable errors (R1117, Table 18.10)

/-- CELL_UE_DROP is counter 38 of a tile (Table 10.11). -/
def cellUeDrop (s : State) (t : Nat) : State := tileCount s t 38

/-- Drop the copies of a frame that have not started, or the whole frame, counting it once (R706, R707); a frame still arriving once
it has arrived (R320). -/
def ueFrame (s : State) (f : Frame) (whole : Bool) : State :=
  let l := s.path.copies.filter (fun c => c.frame = f.id)
  if f.receiving then
    let s := if whole ∨ l.all (fun c => !c.started) then cellUeDrop s (ingressTile f.port) else s
    putFrame s { f with bad := some 4, learn := none }
  else if l.any (fun c => c.started) then stompFrame (if whole then cellUeDrop s (ingressTile f.port) else s) f 4
  else removeFrame (l.foldl dropCopy (cellUeDrop s (ingressTile f.port))) f.id

/-- A cell, link word or frame record (R706, R707); the event names slice t as t and stack k as 8 + k. -/
def ueCell (s : State) (unit index kind frame : Nat) : State :=
  let s := postHw s 0x8603 [(1, unit), (4, index), (1, kind)]
  match findFrame s frame with
  | none => s
  | some f => ueFrame s f (kind ≠ 0)

/-- The queue of copies whose link state is lost is emptied; its frames count in CELL_UE_DROP. -/
def ueQueue (s : State) (p c q : Nat) : State :=
  let l := s.path.copies.filter (fun x => x.port = p && x.cls = c && x.queue = q && !x.started
    && (x.stage = .queued || x.stage = .staged || x.stage = .deep || x.stage = .egress))
  l.foldl (fun s x => dropCopy (cellUeDrop s (ingressTile (copyPort s x))) x) s

/-- The effect of an uncorrectable error on what its memory holds; the flag tells that the row names another event than
EV_MEM_UE. A word restored from a second copy is as it was. [log 72 DEDUCED] -/
def ueEffect (s : State) : UeSite → State × Bool
  | .cell d u i k f => (ueCell s (if d then 8 + u else u) i k.val f, true)
  | .caseSlot _ loc every =>
    (if every then setCase s (s.forme.case.filter (fun e => !(decide (e.loc ≤ loc) && decide (loc < e.loc + e.slots)))) else s, false)
  | .fragment i => ({ s with path := { s.path with frags := s.path.frags.eraseIdx i } }, false)
  | .asaShadow t loc =>
    let hit := s.forme.asa.any (fun e => e.table = t && e.loc = loc)
    (if hit then asaShadowLost s t loc else s, true)
  | .tableRow t r p both => (if both then setRow s p t r 0 else s, false)
  | .counterReg o => (if isCounterReg o then wr s o 0 else s, false)
  | .counterWord k => (setCtr s k 0, false)
  | .bucket k => (setBucket s k none, false)
  | .vtime k => (vSet s k 0, false)
  | .credit p c => (setCredit s p.val c.val 0, false)
  | .pointer k => ({ s with core := { s.core with ptrs := smSet (fun _ => 0) s.core.ptrs k 0 } }, false)
  | .queueLink p c q => (ueQueue s p.val c.val q.val, false)
  | .clave b => (if claveRuns s b then claveYield s b 1 0 else s, false)
  | .keyStore => (postHw (testFails s 0) 0xC208 [(1, 0), (1, 0)], true)
  | .mpMemory reqs => (if s.mp.mpUp then mpRestart s reqs else s, true)
  | .recorder _ _ => (s, false)

/-- The number by which EV_MEM_UE names the memory of a site, and the index in it. [log 72 DEDUCED] -/
def ueName : UeSite → Nat × Nat
  | .cell d u i _ _ => ((if d then 4 * 2 ^ 24 else 0) + u, i)
  | .caseSlot c loc _ => (2 ^ 24 + c.val, loc)
  | .fragment i => (5 * 2 ^ 24, i)
  | .asaShadow t loc => (2 * 2 ^ 24 + t, loc)
  | .tableRow t r p _ => (3 * 2 ^ 24 + t * 4 + 2 * b2n p, r)
  | .counterReg o => (6 * 2 ^ 24, o)
  | .counterWord k => (7 * 2 ^ 24, k)
  | .bucket k => (8 * 2 ^ 24, k)
  | .vtime k => (9 * 2 ^ 24, k)
  | .credit p c => (10 * 2 ^ 24, p.val * 8 + c.val)
  | .pointer k => (11 * 2 ^ 24, k)
  | .queueLink p c q => (12 * 2 ^ 24 + q.val, p.val * 8 + c.val)
  | .clave b => (13 * 2 ^ 24 + b2n b, 0)
  | .keyStore => (14 * 2 ^ 24, 0)
  | .mpMemory _ => (15 * 2 ^ 24, 0)
  | .recorder k i => (16 * 2 ^ 24 + k.val, i)

/-- The bucket of a key belongs to a unit that exists (R3): a shaper, policer, storm meter, snare or the move bucket of a port. -/
def bucketPresent (s : State) (k : Nat) : Bool :=
  let i := k % 2 ^ 20
  if k / 2 ^ 20 = 1 then portPresent s (i / 20)
  else if k / 2 ^ 20 = 2 ∨ k / 2 ^ 20 = 3 then tilePresent s ((k - 2 * 2 ^ 20) / 16384)
  else if k / 2 ^ 20 = 4 then decide (i / 4 < 256) && portPresent s (i / 4)
  else if k / 2 ^ 20 = 5 then decide (i < 64)
  else if k / 2 ^ 20 = 6 then decide (i = 0)
  else decide (k / 2 ^ 20 = 7) && decide (i < 264) && portPresent s i

/-- A counter word that no register holds belongs to a unit that exists: a flow pair, a policer's or a port's (Table 13.3). -/
def counterPresent (s : State) (k : Nat) : Bool :=
  let u := k % 2 ^ 24 / 16
  if k / 2 ^ 24 = 0x0803 then true
  else if k / 2 ^ 24 = 0x0804 then tilePresent s (u / 8192)
  else decide (k / 2 ^ 24 = 0x0806) && portPresent s u

/-- A pointer of the matcher or of the fetch belongs to a tile that exists (R683, Table 18.7). -/
def pointerPresent (s : State) (k : Nat) : Bool :=
  let i := k % 64
  if k / 2 ^ 16 = 4 then tilePresent s (i / 8) && tilePresent s (i % 8)
  else decide (k / 2 ^ 16 < 5) && tilePresent s i

/-- The memory of a site exists on this variant (R3, R8). -/
def uePresent (s : State) : UeSite → Bool
  | .cell d u _ _ _ => if d then hasDeep s && decide (u < 2) else tilePresent s u
  | .caseSlot c _ _ => tilePresent s (2 * c.val)
  | .tableRow t r _ _ => !rowAbsent s t r
  | .counterReg o => !absentOff s o
  | .credit p _ => portPresent s p.val
  | .queueLink p _ _ => portPresent s p.val
  | .keyStore => hasCipher s
  | .bucket k => bucketPresent s k
  | .vtime k => portPresent s (k % 2 ^ 20 / 64)
  | .counterWord k => counterPresent s k
  | .pointer k => pointerPresent s k
  | _ => true

/-- MEM_UE (R1117, R1123): counted, reported, contained. -/
def execMemUe (site : UeSite) (s : State) : Host.Outcome State Fault Refusal :=
  nextOf s <| onlyIf (decide (stSelftest ≤ devState s) && uePresent s site) s <|
    let s := wrB (countUe s) rErrStatus 11 true
    let e := ueEffect s site
    let n := ueName site
    if e.2 then e.1 else postRate e.1 cyclesPerSec n.1 0x8D08 [(4, n.1), (4, n.2)]

end Sys2Proof.Machine
end

