-- ==== Sys2Proof/Machine/ReadRows.lean ====
section
/-! DEFINITION. BAR0 reads by the host (chapter Host Interface and Register Map). -/

namespace Sys2Proof.Machine

/-- A read TLP of 8 to 64 bytes is served (R1012). -/
def readWide (r : BarRead) : Bool :=
  r.size % 8 = 0 && decide (8 ≤ r.size) && r.offset % 8 = 0 && decide (r.offset % 64 + r.size ≤ 64)

/-- A 4-byte read TLP is served (R1012). -/
def readNarrow (r : BarRead) : Bool := r.size = 4 && r.offset % 4 = 0

/-- The functions of the link answer reads (R1085), and the link exists. [log 53 DEDUCED] -/
def readable (s : State) (r : BarRead) : Bool := decide (stSelftest ≤ devState s) && (!r.link || s.host.bifNow)

/-- The register a function's offset names, none where the read returns 0: not served (R1086), not assigned (R1008), absent
(R5), a page that PF2 may not read (R862), or PF1, which has no registers. -/
def readTarget (s : State) (fn o : Nat) : Option Nat :=
  let x := if fn = 2 then rPerf (o / 0x1000) (o % 0x1000) else o
  if fn = 1 ∨ ¬ served s x ∨ absentOff s x ∨ (regInfo x).isNone then none
  else if fn = 2 ∧ ¬ (rdB s rPerfUser 63 ∧ o / 0x1000 < 48 ∧ rdB s rPerfUser (o / 0x1000)) then none
  else some x

def latchKey (link : Bool) (fn : Nat) : Nat := b2n link * 4 + fn

/-- The upper-half latch of a function: the register of its last low-half read and that value's upper half (R1013).
[log 65 DEDUCED] -/
def latchOf (s : State) (link : Bool) (fn : Nat) : Option (Nat × Nat) := smFind s.host.latch (latchKey link fn)
/-- [log 65 DEDUCED] -/
def setLatch (s : State) (link : Bool) (fn o hi : Nat) : State :=
  { s with host := { s.host with latch := smIns (latchKey link fn) (o, hi) s.host.latch } }
def dropLatch (s : State) (link : Bool) (fn : Nat) : State :=
  { s with host := { s.host with latch := smDel (latchKey link fn) s.host.latch } }

/-- A read of BAR2 of PF0 finds CR_TAIL of the ring whose doorbell the offset names, and 0 elsewhere (R999). It is no BAR0 read:
no write is awaited and the latch stays. [log 93 DEDUCED] -/
def readDoorbells (s : State) (r : BarRead) : State :=
  (List.range ((r.size + 7) / 8)).foldl (fun s i =>
    let o := r.offset + 8 * i
    let v : Word := if r.fn = 0 ∧ o % 0x1000 = 0 ∧ o / 0x1000 < 64 then BitVec.ofNat 64 (crTail s (o / 0x1000)) else 0
    emit s (.readData r.link o v)) s

/-- One register of a read of 8 bytes or more. -/
def readOne (s : State) (r : BarRead) (o : Nat) : State :=
  match readTarget s r.fn o with
  | none => emit s (.readData r.link o 0)
  | some x =>
    let t := readEffect s r.link x
    emit t.1 (.readData r.link o t.2)

/-- RS_READ (R14, R884, R1012, R1018): a read of 8 to 64 bytes returns its registers in address order and clears their RS
fields; the function's earlier writes have reached their targets first. [log 93 DEDUCED] -/
def execRsRead (r : BarRead) (s : State) : Host.Outcome State Fault Refusal :=
  nextOf s <| onlyIf (readWide r && readable s r) s <|
    if r.bar2 then readDoorbells s r
    else dropLatch ((List.range (r.size / 8)).foldl (fun s i => readOne s r (r.offset + 8 * i)) (gateDrain s)) r.link r.fn

/-- OP_TIME_READ (R774): an 8-byte read of word 0 of a time register; an absent domain's register reads 0 (R836). -/
def execOpTimeRead (r : BarRead) (s : State) : Host.Outcome State Fault Refusal :=
  nextOf s <| onlyIf (isTime0 r.offset && r.size = 8 && r.fn = 0 && !r.bar2 && readable s r) s <|
    dropLatch (readOne (gateDrain s) r r.offset) r.link r.fn

/-- The value a 4-byte read finds: no RS field clears; word 0 of a time captures word 1 (R774, R1013, R1014). [log 65 DEDUCED] -/
def narrowValue (s : State) (r : BarRead) (o : Nat) : State × Word :=
  match readTarget s r.fn o with
  | none => (s, 0#64)
  | some x =>
    let t := if isTime0 x ∧ r.offset % 8 = 0 then readTime0 s x else look s r.link x
    if (regInfo x).elim 0 (fun i => i.rs) = 0 then t else (accessErr t.1 r.link accNarrowRs x, t.2)

/-- NARROW_READ_LOW (R1013, R1014): a 4-byte read of a low half latches the upper half; a 4-byte read of the high half
right after it returns the latch. [log 93 DEDUCED] -/
def execNarrowReadLow (r : BarRead) (s : State) : Host.Outcome State Fault Refusal :=
  nextOf s <| onlyIf (readNarrow r && readable s r) s <|
    if r.bar2 then readDoorbells s r
    else
    let o := r.offset - r.offset % 8
    let t := narrowValue (gateDrain s) r o
    if r.offset % 8 = 0 then
      setLatch (emit t.1 (.readData r.link r.offset (BitVec.ofNat 64 (t.2.toNat % 2 ^ 32)))) r.link r.fn o (t.2.toNat / 2 ^ 32)
    else
      let v := match latchOf s r.link r.fn with
        | some (x, hi) => if x = o then hi else t.2.toNat / 2 ^ 32
        | none => t.2.toNat / 2 ^ 32
      dropLatch (emit t.1 (.readData r.link r.offset (BitVec.ofNat 64 v))) r.link r.fn

/-- BAR0_BAD_READ (R1012, R1017): any other form returns 0 and sets BAD_READ. -/
def execBar0BadRead (r : BarRead) (s : State) : Host.Outcome State Fault Refusal :=
  nextOf s <| onlyIf (!readWide r && !readNarrow r && !r.bar2 && readable s r) s <|
    dropLatch (accessErr (emit s (.readData r.link r.offset 0)) r.link accBadRead r.offset) r.link r.fn

end Sys2Proof.Machine
end

