-- ==== Sys2Proof/Machine/Repair.lean ====
section
/-! DEFINITION. Repair and the key-verification sweep of the associative search arrays, in the update slots that the Write Gate
leaves them (chapter The Associative Search Array and Frame Actions). -/

namespace Sys2Proof.Machine

/-- Banks that the Write Gate has a write pending for (Table 9.2): those that each item it owes would take next. -/
def pendingBanks (s : State) : List Nat := s.forme.formeTodo.flatMap (fun w => (formeNext s w).1)

/-- Banks an ASA table's entry at a location occupies. -/
def locBanks (s : State) (t loc : Nat) : List Nat := asaBanks t loc (asaGroups s s.forme.galley t).2

/-- Repair has a bank of a copy in update slot n (Table 9.2): the Write Gate has nothing pending for it, or it is the 16th slot.
[log 40 DEDUCED, 94 DEDUCED] -/
def fixOpen (s : State) (n copy : Nat) (pend banks : List Nat) : Bool :=
  s.forme.sweepSlot ≠ n + 1
    && banks.all (fun b => (n % 16 = 15 || !pend.contains b) && !(slotUsed s n).contains b && !(slotFixed s n).contains (copy * 64 + b))

/-- ASA_REPAIR (R599): in an update slot of its banks, the ternary cells of the oldest location of a copy's repair queue are
rewritten from the shadow. [log 40 DEDUCED] -/
def execAsaRepair (copy : Fin 32) (s : State) : Host.Outcome State Fault Refusal :=
  nextOf s <|
    match smGet (fun _ => []) s.forme.asaRepair copy.val, updateSlot s.cycle with
    | x :: q, some n =>
      let banks := locBanks s x.1 x.2
      onlyIf (fixOpen s n copy.val (pendingBanks s) banks) s <|
        let s := fixCells s copy.val x
        { s with forme := { s.forme with
          asaRepair := smSet (fun _ => []) s.forme.asaRepair copy.val q
          slotNo := n + 1
          slotGate := slotUsed s n
          slotFix := banks.map (fun b => copy.val * 64 + b) ++ slotFixed s n } }
    | _, _ => s

/-- The banks of the present copies, as copy × 64 + bank: 32 of an ingress copy, 8 of an egress copy (R574, R603). -/
def sweepBanks (s : State) : List Nat :=
  ((List.range 32).filter (fun c => tilePresent s (c % 16 / 2))).flatMap (fun c =>
    if c < 16 then (List.range 32).map (fun b => c * 64 + b) else (List.range 8).map (fun b => c * 64 + 32 + b))

/-- Rows the sweep has read in a bank of a copy since its pass began: the bank's next row, or 2,048 when it has finished.
[log 40 DEDUCED] -/
def sweepAt (s : State) (k : Nat) : Nat := s.forme.sweepRow - smGet (fun _ => 0) s.forme.sweepLag k

/-- The sweep does not get update slot n in a bank of a copy (Table 9.2): a write or repair has it, or the bank is under self-test.
[log 40 DEDUCED] -/
def sweepDenied (s : State) (n : Nat) (pend fix : List Nat) (k : Nat) : Bool :=
  (n % 16 ≠ 15 && pend.contains (k % 64)) || fix.contains k || (slotUsed s n).contains (k % 64) || (slotFixed s n).contains k
    || (decide (k % 64 < 32) && s.mp.maintRun.any (fun x => x.act = 4 && x.unit = k % 64))

/-- One row that differs from the shadow is repaired (R601). -/
def sweepFix (s : State) (x : Nat × Nat × Nat) : State :=
  postRate (fixCells s x.1 x.2) cyclesPerSec x.1 0x4506 [(1, x.1), (2, x.2.1), (4, x.2.2)]

/-- ASA_SWEEP (R601): in an update slot, every bank of every copy that gets it compares its next row with the shadow and repairs
it; `differ` lists soft errors, copy, table ID and location, that no search has shown. When every bank has finished its pass,
SWEEP_COUNT increments and a new pass begins. [log 40 DEDUCED] -/
def execAsaSweep (differ : List (Nat × Nat × Nat)) (s : State) : Host.Outcome State Fault Refusal :=
  nextOf s <|
    match updateSlot s.cycle with
    | none => s
    | some n =>
      onlyIf (stLoad ≤ devState s && rdB s rAsaCtrl 0 && s.forme.sweepSlot ≠ n + 1) s <|
        let pend := pendingBanks s
        let fix := (List.range 32).flatMap (fun c =>
          (smGet (fun _ => []) s.forme.asaRepair c).flatMap (fun x => (locBanks s x.1 x.2).map (fun b => c * 64 + b)))
        let denied := (sweepBanks s).filter (fun k => sweepDenied s n pend fix k && decide (sweepAt s k < 2048))
        let key (x : Nat × Nat × Nat) : Nat := x.1 * 64 + (if x.2.1 = 0x500 then 32 else 0) + x.2.2 / 2048
        let bad := (List.range 32).flatMap (fun c => (badCells s c).map (fun x => (c, x)))
        let found := (bad ++ differ.filter (fun x => !bad.contains x)).filter (fun x =>
          (sweepBanks s).contains (key x) && !denied.contains (key x) && sweepAt s (key x) = x.2.2 % 2048)
        let lag := denied.foldl (fun m k => smSet (fun _ => 0) m k (smGet (fun _ => 0) m k + 1)) s.forme.sweepLag
        let s := found.foldl sweepFix s
        let s := { s with forme := { s.forme with sweepRow := s.forme.sweepRow + 1, sweepLag := lag, sweepSlot := n + 1 } }
        if (sweepBanks s).all (fun k => decide (2048 ≤ sweepAt s k)) then
          wrF { s with forme := { s.forme with sweepRow := 0, sweepLag := [] } } rAsaStatus 31 0 (rdF s rAsaStatus 31 0 + 1)
        else s

end Sys2Proof.Machine
end

