-- ==== Sys2Proof/Machine/WriteRows.lean ====
section
/-! DEFINITION. Commands that are direct writes of a register: each is the write, with the field its row names. -/

namespace Sys2Proof.Machine

/-- REGISTER_WRITE (R106, R1015, R1016): any BAR0 write TLP. -/
def execRegisterWrite (w : BarWrite) (env : WriteEnv) (s : State) : Host.Outcome State Fault Refusal :=
  nextOf s (directWrite s w env)

/-- WRITE_GATE_WRITE (R86, R102 to R104): a write that waits in the Write Gate queue reaches its target: the next of those that
imposition or catch-up still owes, in an update slot or a free Case cycle, or the head of the queue, unless R979 withholds it. -/
def execWriteGateWrite (forme : Bool) (env : WriteEnv) (s : State) : Host.Outcome State Fault Refusal :=
  nextOf s <|
    if forme then
      match s.forme.formeTodo with
      | [] => s
      | w :: l => (formeTake s w).elim s (fun x => setTodo x.1 (if x.2 then w :: l else l))
    else
      match s.ctl.gateQ with
      | [] => s
      | w :: t =>
        onlyIf (!gateHeld s w) s (gateOne gateDrain { s with ctl := { s.ctl with gateQ := t } } { w with env := env })

-- Start, reset and boot save

/-- WARM_RESET (R1010, R1110, R1111). -/
def execWarmReset (w : BarWrite) (s : State) : Host.Outcome State Fault Refusal :=
  nextOf s <| onlyIf (writesReg w rDevCtrl (fun v => v.getLsbD 1)) s (directWrite s w noEnv)

/-- START (R1011, R1088, R1106). -/
def execStart (w : BarWrite) (s : State) : Host.Outcome State Fault Refusal :=
  nextOf s <| onlyIf (writesReg w rDevCtrl (fun v => v.getLsbD 0)) s (directWrite s w noEnv)

/-- BOOT_SAVE (R1097 to R1099). -/
def execBootSave (w : BarWrite) (s : State) : Host.Outcome State Fault Refusal :=
  nextOf s <| onlyIf (writesReg w rBootCtrl (fun v => v.getLsbD 0)) s (directWrite s w noEnv)

/-- CTRL_RESET (R918): a write of 1 to CLAVE_CTRL.CTRL_RESET. -/
def execCtrlReset (w : BarWrite) (s : State) : Host.Outcome State Fault Refusal :=
  nextOf s <| onlyIf (writesReg w rClaveCtrl (fun v => v.getLsbD 2)) s (directWrite s w noEnv)

/-- MBX_GO_BUSY (R935): a GO write that finds its channel busy. -/
def execMbxGoBusy (w : BarWrite) (s : State) : Host.Outcome State Fault Refusal :=
  nextOf s <| onlyIf ((List.range 8).any (fun c => writesReg w (rMbxCtrl c) (fun v => v.getLsbD 0) && rdB s (rMbxStatus c) 1)) s
    (directWrite s w noEnv)

/-- IRQ_REARM (R1026, R1027). -/
def execIrqRearm (w : BarWrite) (s : State) : Host.Outcome State Fault Refusal :=
  nextOf s <| onlyIf (writesReg w rIrqCtrl (fun v => v.getLsbD 0)) s (directWrite s w noEnv)

-- Rings

/-- CQ_HEAD_WRITE (R1163, R49). -/
def execCqHeadWrite (ring : Fin 64) (who : Who) (value : Word) (s : State) : Host.Outcome State Fault Refusal :=
  nextOf s (directWrite s (whoWrite who (rCqHead ring.val) value) noEnv)

/-- CR_ENABLE (R53, R1162): the write's other fields take effect too, and ENABLE becomes 1. -/
def execCrEnable (ring : Fin 64) (who : Who) (value : Word) (s : State) : Host.Outcome State Fault Refusal :=
  nextOf s (directWrite s (whoWrite who (rCrCtrl ring.val) (value ||| 1#64)) noEnv)

/-- CR_DISABLE (R1162). -/
def execCrDisable (ring : Fin 64) (who : Who) (value : Word) (s : State) : Host.Outcome State Fault Refusal :=
  nextOf s (directWrite s (whoWrite who (rCrCtrl ring.val) (value &&& ~~~ 1#64)) noEnv)

/-- CR_ABORT (R92, R93, R49). -/
def execCrAbort (ring : Fin 64) (who : Who) (value : Word) (s : State) : Host.Outcome State Fault Refusal :=
  nextOf s (directWrite s (whoWrite who (rCrCtrl ring.val) (value ||| 4#64)) noEnv)

/-- CR_RESET (R98, R99, R49). -/
def execCrReset (ring : Fin 64) (who : Who) (value : Word) (s : State) : Host.Outcome State Fault Refusal :=
  nextOf s (directWrite s (whoWrite who (rCrCtrl ring.val) (value ||| 2#64)) noEnv)

-- Ports, core, Case, parser, recorder

/-- PORT_RESET (R326, Table 5.9): the PCS and MAC are reset; statistics and configuration are kept. -/
def execPortReset (link : Bool) (port : Fin 256) (value : Word) (s : State) : Host.Outcome State Fault Refusal :=
  nextOf s (directWrite s (hostWrite link (rPortCfg port.val) (value ||| fieldMask 19 19)) noEnv)

/-- ADMIN_DOWN (R340). -/
def execAdminDown (link : Bool) (port : Fin 256) (value : Word) (s : State) : Host.Outcome State Fault Refusal :=
  nextOf s (directWrite s (hostWrite link (rPortCfg port.val) (value ||| fieldMask 18 18)) noEnv)

/-- OP_DOMAIN_WRITE (R779, R770). -/
def execOpDomainWrite (link : Bool) (value : Word) (s : State) : Host.Outcome State Fault Refusal :=
  nextOf s (directWrite s (hostWrite link rTimeCtrl value) noEnv)

/-- STORM_METER_WRITE (R762). -/
def execStormMeterWrite (link : Bool) (port : Fin 256) (meter : Fin 3) (value : Word) (s : State) :
    Host.Outcome State Fault Refusal :=
  nextOf s (directWrite s (hostWrite link (rStorm port.val meter.val) value) noEnv)

/-- GLOBAL_RESERVE_WRITE (R659). -/
def execGlobalReserveWrite (link : Bool) (value : Word) (s : State) : Host.Outcome State Fault Refusal :=
  nextOf s (directWrite s (hostWrite link rCoreCtrl value) noEnv)

/-- CASE_SEED_WRITE (R525): registers SEED1_LO, SEED1_HI, SEED2_LO, SEED2_HI are 0 to 3. -/
def execCaseSeedWrite (link : Bool) (reg : Fin 4) (value : Word) (s : State) : Host.Outcome State Fault Refusal :=
  nextOf s (directWrite s (hostWrite link (rCaseSeed reg.val) value) noEnv)

/-- LEARN_FLUSH (R563). -/
def execLearnFlush (link : Bool) (value : Word) (s : State) : Host.Outcome State Fault Refusal :=
  nextOf s (directWrite s (hostWrite link rLearnFlush value) noEnv)

/-- FRAG_FLUSH (R484): every entry inserted before the write is removed. -/
def execFragFlush (link : Bool) (value : Word) (s : State) : Host.Outcome State Fault Refusal :=
  nextOf s (directWrite s (hostWrite link rFragCtrl value) noEnv)

/-- RECORDER_RETRY (R989): `pass` tells whether every slot of the failed block verifies. -/
def execRecorderRetry (link : Bool) (value : Word) (pass : Bool) (s : State) : Host.Outcome State Fault Refusal :=
  nextOf s (directWrite s (hostWrite link rRecCtrl (value ||| 0x10000#64)) { noEnv with recPass := pass })

-- Peals, mirrors, performance pages

/-- PEAL_ENABLE (R867, R868): `entries` are those read from PEAL_LIST, none when the read fails. -/
def execPealEnable (link : Bool) (k : Fin 16) (value : Word) (entries : Option (List Nat)) (s : State) :
    Host.Outcome State Fault Refusal :=
  nextOf s (directWrite s (hostWrite link (rPeal k.val 0) (value ||| fieldMask 63 63)) { noEnv with pealList := entries })

/-- PEAL_DISABLE (R876). -/
def execPealDisable (link : Bool) (k : Fin 16) (value : Word) (s : State) : Host.Outcome State Fault Refusal :=
  nextOf s (directWrite s (hostWrite link (rPeal k.val 0) (value &&& ~~~ fieldMask 63 63)) noEnv)

/-- MIRROR_SAMPLE_WRITE (R887). -/
def execMirrorSampleWrite (link : Bool) (session : Fin 16) (value : Word) (s : State) : Host.Outcome State Fault Refusal :=
  nextOf s (directWrite s (hostWrite link (rMirrorSample session.val) value) noEnv)

/-- The TLP writes PERF_CTRL or a PERF_EVSEL register of some page, through PF0 or PF2. -/
def writesPerf (w : BarWrite) : Bool :=
  ((tlpWrites w.offset w.data).getD []).any (fun x =>
    (w.pf2 || (decide (0x3C00000 ≤ x.1) && decide (x.1 < 0x4000000)))
      && (x.1 % 0x1000 = 8 || (decide (0x40 ≤ x.1 % 0x1000) && decide (x.1 % 0x1000 < 0x80))))

/-- PERF_EVSEL_WRITE (R860, R861, R863): the new selection holds from the next event on. -/
def execPerfEvselWrite (w : BarWrite) (s : State) : Host.Outcome State Fault Refusal :=
  nextOf s <| onlyIf (writesPerf w) s (directWrite s w noEnv)

-- Pools and frame rings

/-- POOL_ENABLE (R1030 to R1032). -/
def execPoolEnable (link : Bool) (pool : Fin 16) (value : Word) (s : State) : Host.Outcome State Fault Refusal :=
  nextOf s (directWrite s (hostWrite link (rPoolCfg pool.val) (value ||| fieldMask 63 63)) noEnv)

/-- POOL_DISABLE (R1033). -/
def execPoolDisable (link : Bool) (pool : Fin 16) (value : Word) (s : State) : Host.Outcome State Fault Refusal :=
  nextOf s (directWrite s (hostWrite link (rPoolCfg pool.val) (value &&& ~~~ fieldMask 63 63)) noEnv)

/-- RX_RING_ENABLE (R1076, R1078): a write of RX_CTRL_r. -/
def execRxRingEnable (link : Bool) (ring : Fin 1024) (value : Word) (s : State) : Host.Outcome State Fault Refusal :=
  nextOf s (directWrite s (hostWrite link (rFr false ring.val 8) value) noEnv)

/-- TX_RING_ENABLE (R1076): a write of TX_CTRL_r. -/
def execTxRingEnable (link : Bool) (ring : Fin 1024) (value : Word) (s : State) : Host.Outcome State Fault Refusal :=
  nextOf s (directWrite s (hostWrite link (rFr true ring.val 8) value) noEnv)

end Sys2Proof.Machine
end

