-- ==== Sys2Proof/Machine/Dispatch.lean ====
section
/-! DEFINITION. One arm per command: each calls the meaning of its row. -/

namespace Sys2Proof.Machine

/-- The effect of a command on everything but the queue. -/
def exec (i : Instr) (s : State) : Host.Outcome State Fault Refusal :=
  match i with
  | .endProg ring ins => Sys2Proof.Machine.execEndProg ring ins s
  | .quoin ring ins => Sys2Proof.Machine.execQuoin ring ins s
  | .quoinW ring ins => Sys2Proof.Machine.execQuoinW ring ins s
  | .quoinC ring ins => Sys2Proof.Machine.execQuoinC ring ins s
  | .quoinT ring ins => Sys2Proof.Machine.execQuoinT ring ins s
  | .quoinX ring ins => Sys2Proof.Machine.execQuoinX ring ins s
  | .skipif ring ins => Sys2Proof.Machine.execSkipif ring ins s
  | .note ring ins => Sys2Proof.Machine.execNote ring ins s
  | .gopen ring ins => Sys2Proof.Machine.execGopen ring ins s
  | .tw ring ins block => Sys2Proof.Machine.execTw ring ins block s
  | .td ring ins block => Sys2Proof.Machine.execTd ring ins block s
  | .tm ring ins block => Sys2Proof.Machine.execTm ring ins block s
  | .lock ring ins => Sys2Proof.Machine.execLock ring ins s
  | .lockat ring ins block => Sys2Proof.Machine.execLockat ring ins block s
  | .gdrop ring ins => Sys2Proof.Machine.execGdrop ring ins s
  | .trd ring ins destOk keys => Sys2Proof.Machine.execTrd ring ins destOk keys s
  | .rw ring ins env => Sys2Proof.Machine.execRw ring ins env s
  | .rrd ring ins destOk => Sys2Proof.Machine.execRrd ring ins destOk s
  | .rmw ring ins block env => Sys2Proof.Machine.execRmw ring ins block env s
  | .csnap ring ins destOk => Sys2Proof.Machine.execCsnap ring ins destOk s
  | .cclr ring ins => Sys2Proof.Machine.execCclr ring ins s
  | .crd ring ins destOk => Sys2Proof.Machine.execCrd ring ins destOk s
  | .waitt ring ins block => Sys2Proof.Machine.execWaitt ring ins block s
  | .tset ring ins block => Sys2Proof.Machine.execTset ring ins block s
  | .tadjStep ring ins => Sys2Proof.Machine.execTadjStep ring ins s
  | .tadjSlew ring ins => Sys2Proof.Machine.execTadjSlew ring ins s
  | .tadjFreq ring ins => Sys2Proof.Machine.execTadjFreq ring ins s
  | .palloc ring ins destOk => Sys2Proof.Machine.execPalloc ring ins destOk s
  | .pfree ring ins => Sys2Proof.Machine.execPfree ring ins s
  | .pref ring ins => Sys2Proof.Machine.execPref ring ins s
  | .kload ring ins block unwrapped => Sys2Proof.Machine.execKload ring ins block unwrapped s
  | .kzeroSa ring ins => Sys2Proof.Machine.execKzeroSa ring ins s
  | .kzeroKek ring ins => Sys2Proof.Machine.execKzeroKek ring ins s
  | .kzeroSaAll ring ins => Sys2Proof.Machine.execKzeroSaAll ring ins s
  | .kzeroAll ring ins => Sys2Proof.Machine.execKzeroAll ring ins s
  | .sasw ring ins block => Sys2Proof.Machine.execSasw ring ins block s
  | .ringDoorbell ring w opcodes => Sys2Proof.Machine.execRingDoorbell ring w opcodes s
  | .ringFetchErr ring => Sys2Proof.Machine.execRingFetchErr ring s
  | .cqHeadWrite ring who value => Sys2Proof.Machine.execCqHeadWrite ring who value s
  | .completionRecordWrite ring => Sys2Proof.Machine.execCompletionRecordWrite ring s
  | .cqErr ring => Sys2Proof.Machine.execCqErr ring s
  | .cqStall ring => Sys2Proof.Machine.execCqStall ring s
  | .crEnable ring who value => Sys2Proof.Machine.execCrEnable ring who value s
  | .crDisable ring who value => Sys2Proof.Machine.execCrDisable ring who value s
  | .crAbort ring who value => Sys2Proof.Machine.execCrAbort ring who value s
  | .crReset ring who value => Sys2Proof.Machine.execCrReset ring who value s
  | .galleyTimeout => Sys2Proof.Machine.execGalleyTimeout s
  | .impositionStart => Sys2Proof.Machine.execImpositionStart s
  | .impositionFail => Sys2Proof.Machine.execImpositionFail s
  | .lockup => Sys2Proof.Machine.execLockup s
  | .lockatTime => Sys2Proof.Machine.execLockatTime s
  | .lockMissed => Sys2Proof.Machine.execLockMissed s
  | .drainEnd => Sys2Proof.Machine.execDrainEnd s
  | .catchUpEnd => Sys2Proof.Machine.execCatchUpEnd s
  | .recircAged frame => Sys2Proof.Machine.execRecircAged frame s
  | .frameReceive port f => Sys2Proof.Machine.execFrameReceive port f s
  | .pfcFrameReceive port f => Sys2Proof.Machine.execPfcFrameReceive port f s
  | .pauseFrameReceive port f => Sys2Proof.Machine.execPauseFrameReceive port f s
  | .pauseHoldExpire port cls => Sys2Proof.Machine.execPauseHoldExpire port cls s
  | .receiveSecyCheck frame icvOk plain => Sys2Proof.Machine.execReceiveSecyCheck frame icvOk plain s
  | .stompIcvDecided frame ok => Sys2Proof.Machine.execStompIcvDecided frame ok s
  | .headerGatherRelease g => Sys2Proof.Machine.execHeaderGatherRelease g s
  | .fragInsertLost => Sys2Proof.Machine.execFragInsertLost s
  | .fragHoldExpire => Sys2Proof.Machine.execFragHoldExpire s
  | .fragFlush link value => Sys2Proof.Machine.execFragFlush link value s
  | .lastOctetWritten frame => Sys2Proof.Machine.execLastOctetWritten frame s
  | .xoffSend port cls => Sys2Proof.Machine.execXoffSend port cls s
  | .xoffRefresh port cls => Sys2Proof.Machine.execXoffRefresh port cls s
  | .xonSend port cls => Sys2Proof.Machine.execXonSend port cls s
  | .sharedFetch tile plane => Sys2Proof.Machine.execSharedFetch tile plane s
  | .roundsMatch plane => Sys2Proof.Machine.execRoundsMatch plane s
  | .planeCrossing copy => Sys2Proof.Machine.execPlaneCrossing copy s
  | .creditIssue port => Sys2Proof.Machine.execCreditIssue port s
  | .spillCopy tile => Sys2Proof.Machine.execSpillCopy tile s
  | .refill tile => Sys2Proof.Machine.execRefill tile s
  | .schedulerSelect port express => Sys2Proof.Machine.execSchedulerSelect port express s
  | .egressPipeline copy secure flipped => Sys2Proof.Machine.execEgressPipeline copy secure flipped s
  | .frameTransmitEnd copy txTime => Sys2Proof.Machine.execFrameTransmitEnd copy txTime s
  | .stomp frame cause => Sys2Proof.Machine.execStomp frame cause s
  | .launchLate port => Sys2Proof.Machine.execLaunchLate port s
  | .mmVerifyFail port => Sys2Proof.Machine.execMmVerifyFail port s
  | .linkDown port cause => Sys2Proof.Machine.execLinkDown port cause s
  | .linkUp port => Sys2Proof.Machine.execLinkUp port s
  | .linkHoldExpire port => Sys2Proof.Machine.execLinkHoldExpire port s
  | .anFail port abilities => Sys2Proof.Machine.execAnFail port abilities s
  | .portReset link port value => Sys2Proof.Machine.execPortReset link port value s
  | .adminDown link port value => Sys2Proof.Machine.execAdminDown link port value s
  | .learnOperation => Sys2Proof.Machine.execLearnOperation s
  | .rebalancerRetry => Sys2Proof.Machine.execRebalancerRetry s
  | .ageClockTick => Sys2Proof.Machine.execAgeClockTick s
  | .ageingRemoval bd mac => Sys2Proof.Machine.execAgeingRemoval bd mac s
  | .learnFlush link value => Sys2Proof.Machine.execLearnFlush link value s
  | .flushComplete => Sys2Proof.Machine.execFlushComplete s
  | .caseSeedWrite link reg value => Sys2Proof.Machine.execCaseSeedWrite link reg value s
  | .globalReserveWrite link value => Sys2Proof.Machine.execGlobalReserveWrite link value s
  | .asaRepair copy => Sys2Proof.Machine.execAsaRepair copy s
  | .asaSweep differ => Sys2Proof.Machine.execAsaSweep differ s
  | .asaShadowUe table loc => Sys2Proof.Machine.execAsaShadowUe table loc s
  | .saSwitch => Sys2Proof.Machine.execSaSwitch s
  | .saRetire sa => Sys2Proof.Machine.execSaRetire sa s
  | .secyTxCurWrite secy value => Sys2Proof.Machine.execSecyTxCurWrite secy value s
  | .cipherModeWrite operator_ value => Sys2Proof.Machine.execCipherModeWrite operator_ value s
  | .mpStatus q len => Sys2Proof.Machine.execMpStatus q len s
  | .authChallenge q => Sys2Proof.Machine.execAuthChallenge q s
  | .authResponse q ring ident sigOk => Sys2Proof.Machine.execAuthResponse q ring ident sigOk s
  | .logout q ring => Sys2Proof.Machine.execLogout q ring s
  | .enrol q ident officer key ring => Sys2Proof.Machine.execEnrol q ident officer key ring s
  | .removeOperator q ident => Sys2Proof.Machine.execRemoveOperator q ident s
  | .kekInstall q slot kek => Sys2Proof.Machine.execKekInstall q slot kek s
  | .fwUpdate q svn sigsOk => Sys2Proof.Machine.execFwUpdate q svn sigsOk s
  | .attest q len => Sys2Proof.Machine.execAttest q len s
  | .cmisRead q answer => Sys2Proof.Machine.execCmisRead q answer s
  | .cmisWrite q ok => Sys2Proof.Machine.execCmisWrite q ok s
  | .serdesDiag q answer => Sys2Proof.Machine.execSerdesDiag q answer s
  | .servoCfg q ok => Sys2Proof.Machine.execServoCfg q ok s
  | .telemetryCfg q ok => Sys2Proof.Machine.execTelemetryCfg q ok s
  | .timeDomainSwitch => Sys2Proof.Machine.execTimeDomainSwitch s
  | .domainSwitchDone => Sys2Proof.Machine.execDomainSwitchDone s
  | .opTimeRead r => Sys2Proof.Machine.execOpTimeRead r s
  | .ppsInEdge input => Sys2Proof.Machine.execPpsInEdge input s
  | .ppsInLoss input => Sys2Proof.Machine.execPpsInLoss input s
  | .ppsOutPulse output => Sys2Proof.Machine.execPpsOutPulse output s
  | .refLoss => Sys2Proof.Machine.execRefLoss s
  | .refReturn => Sys2Proof.Machine.execRefReturn s
  | .todTransmit msg => Sys2Proof.Machine.execTodTransmit msg s
  | .todReceive msg => Sys2Proof.Machine.execTodReceive msg s
  | .timestampRecordWrite mpRing => Sys2Proof.Machine.execTimestampRecordWrite mpRing s
  | .gateEntryStart port => Sys2Proof.Machine.execGateEntryStart port s
  | .gateListChange port => Sys2Proof.Machine.execGateListChange port s
  | .pealCapture k => Sys2Proof.Machine.execPealCapture k s
  | .pealFault k addr => Sys2Proof.Machine.execPealFault k addr s
  | .pealEnable link k value entries => Sys2Proof.Machine.execPealEnable link k value entries s
  | .pealDisable link k value => Sys2Proof.Machine.execPealDisable link k value s
  | .mirrorSampleWrite link session value => Sys2Proof.Machine.execMirrorSampleWrite link session value s
  | .stormMeterWrite link port meter value => Sys2Proof.Machine.execStormMeterWrite link port meter value s
  | .perfEvselWrite w => Sys2Proof.Machine.execPerfEvselWrite w s
  | .rsRead r => Sys2Proof.Machine.execRsRead r s
  | .narrowReadLow r => Sys2Proof.Machine.execNarrowReadLow r s
  | .registerWrite w env => Sys2Proof.Machine.execRegisterWrite w env s
  | .claveFault clave cause reexec => Sys2Proof.Machine.execClaveFault clave cause reexec s
  | .claveWatchdog clave => Sys2Proof.Machine.execClaveWatchdog clave s
  | .claveCorr clave => Sys2Proof.Machine.execClaveCorr clave s
  | .handoverWindowClose => Sys2Proof.Machine.execHandoverWindowClose s
  | .claveMismatch isn output => Sys2Proof.Machine.execClaveMismatch isn output s
  | .claveDiagEnd failA failB => Sys2Proof.Machine.execClaveDiagEnd failA failB s
  | .ctrlReset w => Sys2Proof.Machine.execCtrlReset w s
  | .claveSelftestEnd passA passB => Sys2Proof.Machine.execClaveSelftestEnd passA passB s
  | .shadowPeriodEnd clave => Sys2Proof.Machine.execShadowPeriodEnd clave s
  | .mpWatchdog reqs => Sys2Proof.Machine.execMpWatchdog reqs s
  | .mpShedStep util => Sys2Proof.Machine.execMpShedStep util s
  | .mpUnshedStep util => Sys2Proof.Machine.execMpUnshedStep util s
  | .maintRequest act unit => Sys2Proof.Machine.execMaintRequest act unit s
  | .maintActivityEnd act unit failed reason => Sys2Proof.Machine.execMaintActivityEnd act unit failed reason s
  | .holdMaxExpire act unit => Sys2Proof.Machine.execHoldMaxExpire act unit s
  | .keySelftestPiece unit pass => Sys2Proof.Machine.execKeySelftestPiece unit pass s
  | .recordWrite fromJournal ok1 retry => Sys2Proof.Machine.execRecordWrite fromJournal ok1 retry s
  | .coalesceWindowClose => Sys2Proof.Machine.execCoalesceWindowClose s
  | .hoursCellWrite => Sys2Proof.Machine.execHoursCellWrite s
  | .recorderRetry link value pass => Sys2Proof.Machine.execRecorderRetry link value pass s
  | .mbxGoBusy w => Sys2Proof.Machine.execMbxGoBusy w s
  | .irqRearm w => Sys2Proof.Machine.execIrqRearm w s
  | .warmReset w => Sys2Proof.Machine.execWarmReset w s
  | .start w => Sys2Proof.Machine.execStart w s
  | .bootSave w => Sys2Proof.Machine.execBootSave w s
  | .bootSaveEnd flashFail => Sys2Proof.Machine.execBootSaveEnd flashFail s
  | .powerOn cycled => Sys2Proof.Machine.execPowerOn cycled s
  | .supervise pcycleOk => Sys2Proof.Machine.execSupervise pcycleOk s
  | .selftest repaired fail fwA fwB claveA claveB => Sys2Proof.Machine.execSelftest repaired fail fwA fwB claveA claveB s
  | .load decayed sig0 sig1 decay => Sys2Proof.Machine.execLoad decayed sig0 sig1 decay s
  | .train stack0 stack1 octets => Sys2Proof.Machine.execTrain stack0 stack1 octets s
  | .hold => Sys2Proof.Machine.execHold s
  | .startStop cause memory => Sys2Proof.Machine.execStartStop cause memory s
  | .shutdown vinLost => Sys2Proof.Machine.execShutdown vinLost s
  | .railFault thermal => Sys2Proof.Machine.execRailFault thermal s
  | .thermWarn sensor temp => Sys2Proof.Machine.execThermWarn sensor temp s
  | .resetN lowNs taken => Sys2Proof.Machine.execResetN lowNs taken s
  | .zeroiseN lowNs taken => Sys2Proof.Machine.execZeroiseN lowNs taken s
  | .tamperMesh => Sys2Proof.Machine.execTamperMesh s
  | .boardLoop loop mismatch => Sys2Proof.Machine.execBoardLoop loop mismatch s
  | .vkeepLoss => Sys2Proof.Machine.execVkeepLoss s
  | .hostFundamentalReset => Sys2Proof.Machine.execHostFundamentalReset s
  | .hostLinkDown link cause => Sys2Proof.Machine.execHostLinkDown link cause s
  | .hostLinkUp link speed width flit msix0 msix1 => Sys2Proof.Machine.execHostLinkUp link speed width flit msix0 msix1 s
  | .flrPf0 link reqs => Sys2Proof.Machine.execFlrPf0 link reqs s
  | .flrPf1 link => Sys2Proof.Machine.execFlrPf1 link s
  | .flrPf2 link => Sys2Proof.Machine.execFlrPf2 link s
  | .busMasterDisable link => Sys2Proof.Machine.execBusMasterDisable link s
  | .memCe unit cell => Sys2Proof.Machine.execMemCe unit cell s
  | .memUe site => Sys2Proof.Machine.execMemUe site s
  | .cellRetire tile cell => Sys2Proof.Machine.execCellRetire tile cell s
  | .poolEnable link pool value => Sys2Proof.Machine.execPoolEnable link pool value s
  | .poolInitDone pool => Sys2Proof.Machine.execPoolInitDone pool s
  | .poolDisable link pool value => Sys2Proof.Machine.execPoolDisable link pool value s
  | .pallocTimeout ring => Sys2Proof.Machine.execPallocTimeout ring s
  | .poolFault pool addr => Sys2Proof.Machine.execPoolFault pool addr s
  | .hostRxDeliver copy => Sys2Proof.Machine.execHostRxDeliver copy s
  | .rxWaitExpire copy => Sys2Proof.Machine.execRxWaitExpire copy s
  | .rxDoorbell ring w => Sys2Proof.Machine.execRxDoorbell ring w s
  | .txDoorbell ring w => Sys2Proof.Machine.execTxDoorbell ring w s
  | .txFrameFetch ring descs octets => Sys2Proof.Machine.execTxFrameFetch ring descs octets s
  | .txWriteBack ring first => Sys2Proof.Machine.execTxWriteBack ring first s
  | .ringDmaFault tx ring addr descs => Sys2Proof.Machine.execRingDmaFault tx ring addr descs s
  | .rxRingEnable link ring value => Sys2Proof.Machine.execRxRingEnable link ring value s
  | .txRingEnable link ring value => Sys2Proof.Machine.execTxRingEnable link ring value s
  | .opDomainWrite link value => Sys2Proof.Machine.execOpDomainWrite link value s
  | .impositionComplete => Sys2Proof.Machine.execImpositionComplete s
  | .waittTimeReached ring => Sys2Proof.Machine.execWaittTimeReached ring s
  | .writeGateWrite forme env => Sys2Proof.Machine.execWriteGateWrite forme env s
  | .entropyTestFail test => Sys2Proof.Machine.execEntropyTestFail test s
  | .tamperSelChange level => Sys2Proof.Machine.execTamperSelChange level s
  | .mpRestartComplete => Sys2Proof.Machine.execMpRestartComplete s
  | .servoUpdate domain offset state => Sys2Proof.Machine.execServoUpdate domain offset state s
  | .mpTransmit octets flags tag launch => Sys2Proof.Machine.execMpTransmit octets flags tag launch s
  | .busMasterEnable link => Sys2Proof.Machine.execBusMasterEnable link s
  | .msixUnmask link fn entry => Sys2Proof.Machine.execMsixUnmask link fn entry s
  | .bar0BadRead r => Sys2Proof.Machine.execBar0BadRead r s
  | .pcieUncorrError link fn status => Sys2Proof.Machine.execPcieUncorrError link fn status s
  | .mmVerifyResponse port => Sys2Proof.Machine.execMmVerifyResponse port s
  | .jtagAccess mgmtDie => Sys2Proof.Machine.execJtagAccess mgmtDie s
  | .opticsAlarm cage => Sys2Proof.Machine.execOpticsAlarm cage s
  | .unlistedOpcode ring opcode ins => Sys2Proof.Machine.execUnlistedOpcode ring opcode ins s

end Sys2Proof.Machine
end

