-- ==== Sys2Proof/Machine/Tick.lean ====
section
/-! DEFINITION. One core cycle: what time alone does, whatever is commanded. -/

namespace Sys2Proof.Machine

/-- A copy stands in queue q of egress port p, or in a VOQ whose class maps to it (R881). -/
def inQueue (s : State) (p q : Nat) (c : Copy) : Bool :=
  c.port = p &&
    (if voqMode s then
      (c.stage = .egress && c.queue = q)
        || ((c.stage = .queued || c.stage = .staged || c.stage = .deep) && q ≠ 8 && queueOfClass s p c.cls = q)
     else c.stage = .queued && c.queue = q)

/-- FRAME_LEN of a copy's frame. -/
def frameLenOf (s : State) (c : Copy) : Nat := (findFrame s c.frame).elim 0 (fun f => f.len)

/-- The depth of a queue in octets (R881). -/
def queueDepth (s : State) (p q : Nat) : Nat := sumBy (s.path.copies.filter (inQueue s p q)) (frameLenOf s)

/-- A register that holds a greatest value takes a greater one. [log 59 DEDUCED] -/
def raiseMark (s : State) (o v : Nat) : State := if (rd s o).toNat < v then wr s o (BitVec.ofNat 64 (v % 2 ^ 48)) else s

/-- The depth marks of one egress port (R880 to R882, Table 13.10). [log 59 DEDUCED] -/
def depthMarks (s : State) (p : Nat) : State :=
  let d := (List.range 9).map (queueDepth s p)
  let s := ((List.range 9).zip d).foldl (fun s x => raiseMark s (0x80000 + 0x100 * p + 8 * x.1) x.2) s
  raiseMark s (0x80000 + 0x100 * p + 0x48) (d.foldl (fun a x => a + x) 0)

/-- Egress ports that hold copies. -/
def busyPorts (s : State) : List Nat := (List.range 266).filter (fun p => s.path.copies.any (fun c => c.port = p))

/-- A port of a port block is held by a received pause or PFC frame. -/
def blockHeld (s : State) (b : Nat) : Bool :=
  (List.range 8).any (fun j => (List.range 8).any (fun c => rxPaused s (8 * b + j) c))

/-- A hold's slot of cycle x carries a cell (R676): of a frame that arrives meanwhile, one that has been written. -/
def sideUsed (s : State) (x : Nat) (h : SideHold) : Bool :=
  decide (h.start ≤ x) &&
    match findFrame s h.frame with
    | some f => decide (min (x - h.start) (cellsWritten s f (x - 1)) < min (x + 1 - h.start) (cellsWritten s f x))
    | none => decide (x < h.start + h.cells)

/-- The tiles and planes whose sending side carries a cell in this slot (R675, R676). -/
def sendingSides (s : State) : List (Nat × Nat) :=
  ((s.core.holds.filter (sideUsed s s.cycle)).map (fun h => (h.src, h.plane))).eraseDups

/-- Search slots of a tile's two pipelines that no header took in this cycle. -/
def slotsUnused (s : State) (t : Nat) : Nat :=
  2 * searchSlots s.cycle - (slotsTaken s (2 * t) + slotsTaken s (2 * t + 1))

/-- The performance events that a cycle itself is (Table 13.6). [log 2 DESIGN CHOICE, 52 DESIGN CHOICE] -/
def cycleEvents (s : State) : State :=
  let s := (List.range 43).foldl (fun s b => perf s b 0xFFFF 1) s
  let s := (List.range 8).foldl (fun s t => if tilePresent s t then perf s t 0x0103 (slotsUnused s t) else s) s
  let s := (sendingSides s).foldl (fun s x => perf s x.1 0x0106 1) s
  let s := (List.range 32).foldl (fun s b => if blockHeld s b then perf s (8 + b) 0x0206 1 else s) s
  let s := if gateFull s then perf s 40 0x0302 1 else s
  if rdB s rCoreStatus 2 then s else perf s 42 0x0503 1

/-- A timed event that operational time has reached: its T in nanoseconds, and what it is. -/
inductive Timed where
  | lockat
  | sasw
  | waitt (ring : Nat)
  | gate (port : Nat)
  | peal (k : Nat)

/-- Put a timed event into its place in the order of the times, after those of its own time. -/
def putTimed (x : Nat × Timed) : List (Nat × Timed) → List (Nat × Timed)
  | [] => [x]
  | y :: t => if x.1 < y.1 then x :: y :: t else y :: putTimed x t

/-- The timed events that operational time has reached, in the order of their times (R829). [log 80 DEDUCED] -/
def timedDue (s : State) : List (Nat × Timed) :=
  let now := opNs s
  let lock := match s.forme.pendLock with
    | some l => if l.timed then [(tNs l.sec l.ns, Timed.lockat)] else []
    | none => []
  let waits := (List.range 64).filterMap (fun n => match (rt s n).waiting with
    | some ⟨_, _, _, .waitt sec ns _⟩ => some (tNs sec ns, Timed.waitt n)
    | _ => none)
  let gates := (gatePorts s).filterMap (fun p =>
    if rdB s (rGateStatus p) 62 then some (smGet (fun _ => 0) s.core.gateChange p, Timed.gate p) else none)
  let sasws := s.ctl.sasws.map (fun x => (tNs x.sec x.ns, Timed.sasw))
  let peals := ((List.range 16).filter (pealDue s)).map (fun k =>
    (if 0 < (pealOf s k).passed then (pealOf s k).sched else (pealOf s k).next, Timed.peal k))
  ((lock ++ sasws ++ waits ++ gates ++ peals).filter (fun x => decide (x.1 ≤ now))).foldl (fun l x => putTimed x l) []

/-- One timed event takes effect. [log 80 DEDUCED] -/
def timedNow (s : State) : Timed → State
  | .lockat => lockMissedNow (lockatNow s)
  | .sasw => saSwitchNow s
  | .waitt n => waittNow s n
  | .gate p => if rdB s (rGateStatus p) 62 then gateTake s p else s
  | .peal k => if pealDue s k && captureFree s 64 then pealCapture s k none else s

/-- What came due in the cycle that ends and no command has carried out takes effect before the next cycle: lock-ups, SA
switches, WAITTs, gate lists and Peals act in the cycle in which operational time reaches T or the one after it (R143, R146,
R385, R388, R817, R826, R829, R869). [log 80 DEDUCED] -/
def settleDue (s : State) : State :=
  let s := (timedDue s).foldl (fun s x => timedNow s x.2) s
  (gatePorts s).foldl gateRefresh s

/-- One core cycle of the running device. [log 2 DESIGN CHOICE] -/
def runCycle (s : State) : State :=
  let s := poolCycle (cycleEvents (settleDue s))
  let s := s.core.now.marks.foldl (fun s x => raiseMark s x.1 x.2) ((busyPorts s).foldl depthMarks s)
  let s := { s with core := { s.core with now := { start := some (s.regs, s.ctrs) } } }
  let s := deliverMatches (fragDrain (advTime (advCycle s)))
  let s := verifyTick (countHolds ((busyPorts s).foldl macNext s))
  let s := windowsTick (windowTick (wdogTick (pealHold (retagAll s))))
  (List.range 64).foldl (fun s n => quoinPoll (crdPoll s n) n) s

/-- One core cycle: nothing but elapsed time passes before SUPERVISE. [log 2 DESIGN CHOICE] -/
def tick (s : State) : State :=
  if stSupervise ≤ devState s then irqEdge s (runCycle s) else { s with cycle := s.cycle + 1 }

end Sys2Proof.Machine
end

