-- ==== Sys2Proof/Safety.lean ====
section
/-! DEFINITION. What counts as a safe run, in the terms claims use: the canonical form, the parts of State a command may
change, and what no command may do. -/

namespace Sys2Proof.Machine

/-- Registers, counters and both parities of every table are held in the one canonical form: keys strictly rising, no entry
equal to what an unlisted key reads as. Equal contents are then equal data. -/
abbrev Canon (s : State) : Prop :=
  SMap.wf resetValue s.regs ∧ SMap.wf (fun _ => 0) s.ctrs ∧ SMap.wf (fun _ => 0) s.tab0 ∧ SMap.wf (fun _ => 0) s.tab1

/-- The parts of State, each with its bit in a mask of parts. -/
inductive Part where
  /-- Time domains and operational time (0). -/
  | time
  /-- Command rings, the Write Gate and the timed switches (1). -/
  | rings
  /-- The galley, imposition, Case and ASA entries (2). -/
  | formes
  /-- The recorder and the change journal (3). -/
  | recorder
  /-- The host interface, but for the pending bits of its vectors (4). -/
  | host
  /-- Frames, copies and reassembly (5). -/
  | path
  /-- Queues, schedulers, shapers, policers and gates (6). -/
  | core
  /-- Learning and ageing (7). -/
  | learn
  /-- Keys, operators and mailbox sessions (8). -/
  | cipher
  /-- The management processor, maintenance and peals (9). -/
  | mp
  /-- Pools and the frame DMA (10). -/
  | pools
  /-- Power, reset and the non-volatile store (11). -/
  | power
  /-- Registers (12). -/
  | regs
  /-- Counters that have no register (13). -/
  | counters
  /-- Indexed tables, both parities (14). -/
  | tables
  /-- The model's own count of free values drawn (15). -/
  | draws
  /-- Elapsed core cycles (16). -/
  | cycles
deriving DecidableEq, Repr

def Part.bit : Part → Nat
  | .time => 0
  | .rings => 1
  | .formes => 2
  | .recorder => 3
  | .host => 4
  | .path => 5
  | .core => 6
  | .learn => 7
  | .cipher => 8
  | .mp => 9
  | .pools => 10
  | .power => 11
  | .regs => 12
  | .counters => 13
  | .tables => 14
  | .draws => 15
  | .cycles => 16

/-- The mask of a list of parts. -/
def maskOf (l : List Part) : Nat := l.foldl (fun m p => Nat.lor m (2 ^ p.bit)) 0

/-- Every part outside the mask is as it was. Raising a vector sets pending bits of MSI-X whatever the mask (R1021), and what
left the module is told by Keeps. -/
structure Outside (m : Nat) (s t : State) : Prop where
  time : m.testBit 0 = false → t.clk = s.clk
  rings : m.testBit 1 = false → t.ctl = s.ctl
  formes : m.testBit 2 = false → t.forme = s.forme
  recorder : m.testBit 3 = false → t.rcd = s.rcd
  host : m.testBit 4 = false → { t.host with msixPend := [] } = { s.host with msixPend := [] }
  path : m.testBit 5 = false → t.path = s.path
  core : m.testBit 6 = false → t.core = s.core
  learn : m.testBit 7 = false → t.learn = s.learn
  cipher : m.testBit 8 = false → t.ciph = s.ciph
  mp : m.testBit 9 = false → t.mp = s.mp
  pools : m.testBit 10 = false → t.pool = s.pool
  power : m.testBit 11 = false → t.pwr = s.pwr
  regs : m.testBit 12 = false → t.regs = s.regs
  counters : m.testBit 13 = false → t.ctrs = s.ctrs
  tables : m.testBit 14 = false → t.tab0 = s.tab0 ∧ t.tab1 = s.tab1
  draws : m.testBit 15 = false → t.fresh = s.fresh
  cycles : m.testBit 16 = false → t.cycle = s.cycle

/-- Every part but the model's own count of draws and the elapsed cycles. -/
def startParts : List Part := [.time, .rings, .formes, .recorder, .host, .path, .core, .learn, .cipher, .mp, .pools, .power,
  .regs, .counters, .tables]

/-- What a register write may reach: everything but the host interface's own state and the elapsed cycles. -/
def inwardParts : List Part := [.time, .rings, .formes, .recorder, .path, .core, .learn, .cipher, .mp, .pools, .power, .regs,
  .counters, .tables, .draws]

/-- The parts of State each command may change; every other part it leaves as it is. -/
def partsOf : Instr → List Part
  | .endProg .. | .quoin .. | .quoinW .. | .quoinC .. | .quoinT .. | .quoinX .. | .note .. | .trd .. | .csnap ..
  | .crd .. | .waitt .. | .sasw .. | .cqErr .. | .cqStall .. | .claveFault .. | .claveWatchdog .. | .claveCorr ..
  | .handoverWindowClose | .claveMismatch .. | .claveDiagEnd .. | .claveSelftestEnd .. | .shadowPeriodEnd ..
  | .waittTimeReached .. | .unlistedOpcode .. =>
    [.rings, .recorder, .regs]
  | .skipif .. | .rrd .. =>
    [.rings, .recorder, .regs, .draws]
  | .gopen .. | .tw .. | .td .. | .tm .. | .lock .. | .lockat .. =>
    [.rings, .formes, .recorder, .regs]
  | .gdrop .. | .impositionFail | .lockMissed | .impositionComplete =>
    [.rings, .formes, .recorder, .learn, .regs, .tables]
  | .rw .. | .rmw .. | .cclr .. | .cqHeadWrite .. | .crEnable .. | .crDisable .. | .crAbort .. | .crReset ..
  | .fragFlush .. | .portReset .. | .adminDown .. | .learnFlush .. | .caseSeedWrite .. | .globalReserveWrite ..
  | .pealEnable .. | .pealDisable .. | .mirrorSampleWrite .. | .stormMeterWrite .. | .perfEvselWrite ..
  | .registerWrite .. | .ctrlReset .. | .recorderRetry .. | .mbxGoBusy .. | .irqRearm .. | .warmReset .. | .start ..
  | .bootSave .. | .load .. | .poolEnable .. | .poolDisable .. | .rxRingEnable .. | .txRingEnable ..
  | .opDomainWrite .. | .writeGateWrite .. =>
    inwardParts
  | .tset .. | .tadjStep .. | .tadjSlew .. | .tadjFreq .. =>
    [.time, .rings, .formes, .recorder, .core, .mp, .regs]
  | .palloc .. | .pfree .. | .pref .. =>
    [.rings, .recorder, .core, .pools, .regs, .draws]
  | .kload .. | .saSwitch =>
    [.rings, .recorder, .cipher, .regs]
  | .kzeroSa .. | .kzeroKek .. | .kzeroSaAll .. | .kzeroAll .. =>
    [.rings, .recorder, .cipher, .power, .regs]
  | .ringDoorbell .. =>
    [.rings, .recorder, .path, .regs]
  | .ringFetchErr .. | .mmVerifyFail .. | .domainSwitchDone | .ppsInLoss .. | .refLoss | .poolFault .. =>
    [.recorder, .regs]
  | .completionRecordWrite .. =>
    [.rings, .regs]
  | .galleyTimeout | .asaSweep .. | .asaShadowUe .. =>
    [.formes, .recorder, .regs]
  | .impositionStart =>
    [.formes, .recorder, .core, .mp, .regs]
  | .lockup =>
    [.rings, .formes, .recorder, .path, .core, .learn, .mp, .pools, .power, .regs, .tables, .draws]
  | .lockatTime =>
    [.rings, .formes, .recorder, .path, .core, .learn, .mp, .pools, .power, .regs, .draws]
  | .drainEnd =>
    [.formes, .regs]
  | .catchUpEnd =>
    [.formes, .recorder, .learn, .regs, .tables]
  | .recircAged .. | .planeCrossing .. | .stomp .. | .launchLate .. | .hostRxDeliver .. =>
    [.recorder, .path, .core, .pools, .regs]
  | .frameReceive .. | .pfcFrameReceive .. | .pauseFrameReceive .. =>
    [.recorder, .path, .core, .learn, .regs]
  | .pauseHoldExpire .. | .xoffSend .. | .xoffRefresh .. | .xonSend .. | .sharedFetch .. =>
    [.path, .core, .regs]
  | .receiveSecyCheck .. =>
    [.recorder, .path, .cipher, .regs]
  | .stompIcvDecided .. =>
    [.recorder, .path, .core, .learn, .cipher, .pools, .regs]
  | .headerGatherRelease .. =>
    [.formes, .recorder, .path, .core, .learn, .cipher, .mp, .pools, .regs, .counters, .draws]
  | .fragInsertLost | .anFail .. =>
    [.recorder, .path, .regs]
  | .fragHoldExpire =>
    [.path]
  | .lastOctetWritten .. | .mpTransmit .. =>
    [.path, .core]
  | .roundsMatch .. | .creditIssue .. | .ppsOutPulse .. | .todTransmit .. =>
    [.core]
  | .spillCopy .. =>
    [.path, .regs]
  | .refill .. =>
    [.path, .core, .regs, .draws]
  | .schedulerSelect .. =>
    [.recorder, .path, .core, .pools, .regs, .counters]
  | .egressPipeline .. =>
    [.formes, .recorder, .path, .core, .mp, .pools, .regs, .counters, .draws]
  | .frameTransmitEnd .. | .linkDown .. | .linkHoldExpire .. =>
    [.recorder, .path, .core, .learn, .pools, .regs]
  | .linkUp .. =>
    [.recorder, .path, .core, .regs]
  | .learnOperation | .rebalancerRetry =>
    [.formes, .recorder, .core, .learn, .regs]
  | .ageClockTick =>
    [.learn]
  | .ageingRemoval .. | .flushComplete =>
    [.formes, .recorder, .learn, .regs]
  | .asaRepair .. =>
    [.formes]
  | .saRetire .. | .authResponse .. | .logout .. =>
    [.recorder, .cipher, .regs]
  | .secyTxCurWrite .. | .cmisRead .. | .cmisWrite .. | .serdesDiag .. | .refReturn | .mmVerifyResponse .. =>
    [.regs]
  | .cipherModeWrite .. | .enrol .. | .removeOperator .. =>
    [.recorder, .cipher, .power, .regs]
  | .mpStatus .. | .attest .. =>
    [.regs, .draws]
  | .authChallenge .. =>
    [.cipher, .regs, .draws]
  | .kekInstall .. =>
    [.recorder, .path, .core, .cipher, .pools, .power, .regs]
  | .fwUpdate .. | .recordWrite .. | .coalesceWindowClose | .supervise .. | .cellRetire .. =>
    [.recorder, .power, .regs]
  | .servoCfg .. | .telemetryCfg .. =>
    [.mp, .regs]
  | .timeDomainSwitch =>
    [.time, .recorder, .regs]
  | .opTimeRead .. | .rsRead .. | .narrowReadLow .. =>
    .draws :: startParts
  | .ppsInEdge .. | .timestampRecordWrite .. | .gateEntryStart .. | .gateListChange .. =>
    [.core, .regs]
  | .todReceive .. | .jtagAccess .. | .opticsAlarm .. =>
    []
  | .pealCapture .. | .pealFault .. | .mpShedStep .. | .mpUnshedStep .. =>
    [.recorder, .mp, .regs]
  | .mpWatchdog .. =>
    [.rings, .formes, .recorder, .path, .core, .learn, .mp, .pools, .regs, .tables, .draws]
  | .maintRequest .. | .maintActivityEnd .. | .holdMaxExpire .. | .train .. =>
    [.recorder, .core, .mp, .regs]
  | .keySelftestPiece .. | .entropyTestFail .. =>
    [.recorder, .path, .core, .pools, .power, .regs]
  | .hoursCellWrite =>
    [.recorder]
  | .bootSaveEnd .. =>
    [.recorder, .power, .regs, .draws]
  | .powerOn .. | .shutdown .. | .railFault .. | .resetN .. | .zeroiseN .. | .tamperMesh | .boardLoop .. | .vkeepLoss
  | .hostFundamentalReset | .tamperSelChange .. =>
    startParts
  | .selftest .. =>
    [.rings, .recorder, .path, .core, .cipher, .mp, .pools, .power, .regs, .draws]
  | .hold =>
    [.recorder, .path, .power, .regs]
  | .startStop .. =>
    [.recorder, .path, .core, .mp, .pools, .power, .regs, .draws]
  | .thermWarn .. | .memCe .. =>
    [.recorder, .core, .mp, .power, .regs]
  | .hostLinkDown .. | .flrPf0 .. =>
    [.rings, .formes, .recorder, .host, .learn, .pools, .regs, .tables, .draws]
  | .hostLinkUp .. | .bar0BadRead .. | .pcieUncorrError .. =>
    [.recorder, .host, .regs]
  | .flrPf1 .. =>
    [.host, .regs]
  | .flrPf2 .. | .busMasterDisable .. | .busMasterEnable .. | .msixUnmask .. =>
    [.host]
  | .memUe .. =>
    [.rings, .formes, .recorder, .path, .core, .learn, .mp, .pools, .power, .regs, .counters, .tables, .draws]
  | .poolInitDone .. | .pallocTimeout .. =>
    [.rings, .recorder, .pools, .regs, .draws]
  | .rxWaitExpire .. =>
    [.rings, .recorder, .path, .core, .pools, .regs, .counters, .draws]
  | .rxDoorbell .. | .txDoorbell .. =>
    [.recorder, .pools, .regs]
  | .txFrameFetch .. =>
    [.path, .pools]
  | .txWriteBack .. =>
    [.pools, .regs]
  | .ringDmaFault .. =>
    [.rings, .recorder, .path, .core, .pools, .regs, .draws]
  | .mpRestartComplete =>
    [.recorder, .mp]
  | .servoUpdate .. =>
    [.time, .rings, .formes, .recorder, .core, .mp, .regs, .draws]

/-- What no command may do to the block: change the queue behind itself, the variant or the serial number fixed at
manufacture; take back an output, elapsed time or a draw; break the canonical form; reach a part outside its mask. -/
structure Keeps (m : Nat) (s t : State) : Prop where
  pending : t.pending = s.pending
  variant : t.variant = s.variant
  serial : t.serial = s.serial
  fresh : s.fresh ≤ t.fresh
  cycle : s.cycle ≤ t.cycle
  out : s.out <:+ t.out
  canon : Canon s → Canon t
  frame : Outside m s t

/-- A command or tick ends in a next state; nothing in the model faults. -/
def Completes (o : Host.Outcome State Fault Refusal) : Prop := ∃ t, o = .next t

/-- A command answers a next state of which `P` holds. -/
def Lands (c : Instr) (s : State) (P : State → Prop) : Prop := ∃ t, exec c s = .next t ∧ P t

/-- The state in which the Write Gate, with nothing waiting, has accepted one more write (R86). -/
def gateTaken (s : State) : State := perf { s with ctl := { s.ctl with gateIn := s.ctl.gateIn + 1 } } 40 0x0303 1

/-- One more write has passed the Write Gate. -/
def gateLeft (t : State) : State := { t with ctl := { t.ctl with gateOut := t.ctl.gateOut + 1 } }

/-- A host's direct write of v to offset o has passed the Write Gate, with its effect in t, and is journaled (R86, R975). -/
def hostTook (t : State) (o : Nat) (v : Word) : State := journal (gateLeft t) 0x0011 0x0FFF [(8, 0), (4, o), (8, v.toNat)]

/-- A host may write offset o now and the write acts at once: the register is present and served over that link, no write waits
in the Write Gate, and the journal has room for it. -/
def HostWrites (s : State) (link : Bool) (o : Nat) : Prop := hostOk s link o = true ∧ s.ctl.gateQ = [] ∧ staged s < 960

/-- Ring n issues the instruction `ins` of an opcode: it stands at the head of a running ring that does not wait, the Claves
issue, the owner's link is bus master, what it writes finds room, no capture hold of another ring stands against it, and the
ring has the turn (R63, R64, R86, R89, R105, R917). -/
def Issues (s : State) (n opcode : Nat) (ins : Ins) : Prop := issueReady s n opcode = true ∧ ins.opcode = opcode

/-- The state an instruction of ring n acts on: it has taken the next ISN, CR_HEAD has moved past it, and its ring holds it. -/
def issued (s : State) (n opcode flags : Nat) : State := inExecution (issueIns s n) n s.ctl.isn opcode flags

end Sys2Proof.Machine
end

