-- ==== Sys2Proof/Certificates/Slice0/Obligations.lean ====
section
/-! DEFINITION. The statements for the provers, each one saying in its docstring what OBLIGATIONS.json says of it. -/

open Sys2Proof Sys2Proof.Machine

-- The step

/-- For every state and every command, the step of a state with that command at the front of its queue is the effect of the
command on the state whose queue is the rest. -/
def Obligations.StepTakesTheFrontCommand : Prop :=
  ∀ (c : Instr) (rest : List Instr) (s : State),
    step { s with pending := c :: rest } = exec c { s with pending := rest }

/-- With no command waiting, the step answers a next state in which one core cycle more has elapsed and still no command
waits; before SUPERVISE nothing else changes. (The step on an empty queue is the model's own choice: log entry 2.) -/
def Obligations.IdleStepIsOneCoreCycle : Prop :=
  ∀ s : State, s.pending = [] →
    ∃ t, step s = .next t ∧ t.cycle = s.cycle + 1 ∧ t.pending = [] ∧
      (devState s < stSupervise → t = { s with cycle := s.cycle + 1 })

/-- Every command answers a next state in every state: none faults, none is refused. It rests on the model's own choices of
log entry 4. -/
def Obligations.EveryCommandCompletes : Prop :=
  ∀ (c : Instr) (s : State), Completes (exec c s)

/-- A command changes no part of State outside those that partsOf names for it, but for the pending bits that raising an
MSI-X vector sets: a time instruction reaches no key and no table, a transmit no galley, a host-link event no frame. -/
def Obligations.CommandsStayWithinTheirParts : Prop :=
  ∀ (c : Instr) (s t : State), exec c s = .next t → Outside (maskOf (partsOf c)) s t

/-- Every step keeps the canonical form of registers, counters and tables, the variant and the serial number; it takes the
front command from the queue and nothing else, and takes back no output, no elapsed time and no draw. -/
def Obligations.EveryStepKeepsTheInvariant : Prop :=
  ∀ s t : State, step s = .next t →
    (Canon s → Canon t) ∧ t.variant = s.variant ∧ t.serial = s.serial ∧ t.pending = s.pending.tail ∧
      s.out <:+ t.out ∧ s.cycle ≤ t.cycle ∧ s.fresh ≤ t.fresh

/-- The state after power-on reset: nothing waits, every register reads its reset value, every row and counter reads 0, the
device is OFF, the live parity is 0 and no galley, frame, copy, Case or ASA entry exists, and it has the canonical form. It
rests on the model's own choices of log entries 1 and 71. -/
def Obligations.ResetStateIsCanonicalAndEmpty : Prop :=
  Canon State.reset ∧ State.reset.pending = [] ∧ (∀ o, rd State.reset o = resetValue o) ∧
    (∀ p t r, row State.reset p t r = 0) ∧ (∀ k, ctr State.reset k = 0) ∧
    devState State.reset = stOff ∧ live State.reset = false ∧ galleyState State.reset = gsNone ∧
    State.reset.forme.galley = [] ∧ State.reset.forme.case = [] ∧ State.reset.forme.asa = [] ∧
    State.reset.path.frames = [] ∧ State.reset.path.copies = []

-- Command rings: issue and completion

/-- An instruction that issues and completes with OK takes the ISN of the device-wide counter, which goes up by one; CR_HEAD
moves one slot on and CR_LAST_ISN holds the ISN; its record is queued exactly when RPT is 1; its ring no longer waits for it.
No other ring changes, no register outside CR_HEAD, CR_STATUS and CR_LAST_ISN of the ring and the performance page of the
Claves, and no other part of State. -/
def Obligations.OkCompletionOfAnInstruction : Prop :=
  ∀ (s : State) (n op result : Nat) (ins : Ins) (force : Bool),
    Canon s → n < 64 → Issues s n op ins → op ≠ opEnd → (rt s n).abortAfter = none →
    let flags := ins.flags
    let t := completeIns (issued s n op flags) n s.ctl.isn op flags .ok result force
    t.ctl.isn = s.ctl.isn + 1 ∧
    rd t (rCrLastIsn n) = BitVec.ofNat 64 s.ctl.isn ∧
    crHead t n = (crHead s n + 1) % (2 * ringSize s n) % 2 ^ 17 ∧
    (rt t n).slots = (rt s n).slots.drop 1 ∧ (rt t n).waiting = none ∧ (rt t n).lastOk = some true ∧
    (rt t n).records = (rt s n).records ++
      (if rptOf flags then [{ result := result, isn := s.ctl.isn, status := 0, opcode := recOpcode op }] else []) ∧
    (∀ k, k ≠ n → rt t k = rt s k) ∧
    (∀ o, o ≠ rCrHead n → o ≠ rCrStatus n → o ≠ rCrLastIsn n → ¬ (rPerf 40 0 ≤ o ∧ o < rPerf 41 0) → rd t o = rd s o) ∧
    Outside (maskOf [.rings, .regs]) s t

/-- An instruction that completes with a status other than OK and CONT 0 aborts its program: its own record and the record of
E_ABORT are queued; that one takes the next ISN and holds the number of instructions up to the program's END; CR_HEAD moves to
the slot after END, and no other ring's slots change. -/
def Obligations.FailureWithoutContAbortsTheProgram : Prop :=
  ∀ (s : State) (n op result : Nat) (ins : Ins) (st : Status) (force : Bool),
    Canon s → n < 64 → Issues s n op ins → op ≠ opEnd → st ≠ .ok → contOf ins.flags = false →
    let flags := ins.flags
    let t := completeIns (issued s n op flags) n s.ctl.isn op flags st result force
    let rem := ((rt s n).slots.drop 1).findIdx (fun o => o = opEnd) + 1
    t.ctl.isn = s.ctl.isn + 2 ∧
    (rt t n).records = (rt s n).records ++
      [{ result := result, isn := s.ctl.isn, status := statusCode st, opcode := recOpcode op },
       { result := rem, isn := s.ctl.isn + 1, status := statusCode .eAbort, opcode := 0 }] ∧
    (rt t n).slots = (rt s n).slots.drop (1 + rem) ∧
    crHead t n = ((crHead s n + 1) % (2 * ringSize s n) % 2 ^ 17 + rem) % (2 * ringSize s n) % 2 ^ 17 ∧
    (∀ k, k ≠ n → rt t k = rt s k)

-- Instruction meanings. `issued` is the state in which the instruction has its ISN and occupies its ring.

/-- END, NOTE and SKIPIF run as Table 4.5 gives them when their unused bytes are 0. END's RESULT counts the instructions that
failed and those skipped. NOTE posts EV_NOTE. A SKIPIF whose count would pass END completes with E_CHECK and its program
aborts, whatever its condition. Of the others, one whose condition fails completes with OK and RESULT 0, and one whose
condition holds skips that many slots and answers RESULT 1. An opcode that Table 4.2 does not list completes with E_CHECK; a
slot of opcode 0x00 is not issued and its program aborts. It rests on the model's own choices of log entries 8, 9 (a COND of 4
to 7 has a free outcome) and 95 (opcode 0x00). -/
def Obligations.OrderInstructionsComplete : Prop :=
  ∀ (ring : Fin 64) (ins : Ins) (s : State),
    let n := ring.val
    let isn := s.ctl.isn
    (Issues s n opEnd ins → ins.flags < 4 → insPlain ins = true →
      let t := issued s n opEnd ins.flags
      exec (.endProg ring ins) s = .next (irqEdge s (completeIns t n isn opEnd ins.flags .ok
        ((rt t n).notOk % 2 ^ 16 + (rt t n).skipped % 2 ^ 16 * 2 ^ 16) false))) ∧
    (Issues s n opNote ins →
      let t := issued s n opNote ins.flags
      exec (.note ring ins) s = .next (irqEdge s (completeIns (post t 0x0920 (ringOrigin n)
        [(2, ringOrigin n), (2, ins.unit), (4, ins.index), (8, ins.operand)]) n isn opNote ins.flags .ok 0 false))) ∧
    (Issues s n opSkipif ins → skipBad ins = false →
      let t := issued s n opSkipif ins.flags
      let open_ := decide (4 ≤ bits ins.flags 4 2)
      let f := if open_ then skipFree t else (t, 0)
      let x := skipLook f.1 (ringLink t n) ins
      let k := if open_ then f.2 else if skipHolds x.2 ins (rt s n).lastOk then 1 else 0
      let u := advanceHead x.1 n ins.unit
      let past := decide ((rt t n).slots.findIdx (fun o => o = opEnd) < ins.unit)
      k < 3 ∧
      (past = true →
        exec (.skipif ring ins) s = .next (irqEdge s (completeIns t n isn opSkipif ins.flags .eCheck 0 true))) ∧
      (past = false → k = 0 → exec (.skipif ring ins) s = .next (irqEdge s (completeIns x.1 n isn opSkipif ins.flags .ok 0 false))) ∧
      (past = false → k = 1 →
        exec (.skipif ring ins) s = .next (irqEdge s (completeIns
          (setRt u n { rt u n with skipped := (rt u n).skipped + ins.unit }) n isn opSkipif ins.flags .ok 1 false))) ∧
      (past = false → k = 2 → exec (.skipif ring ins) s = .next (irqEdge s (completeIns x.1 n isn opSkipif ins.flags .eCheck 0 false)))) ∧
    (∀ op : Fin 256, listedOpcodes.contains op.val = false → Issues s n op.val ins →
      (op.val ≠ 0 → exec (.unlistedOpcode ring op ins) s = .next (irqEdge s
        (completeIns (issued s n op.val ins.flags) n isn op.val ins.flags .eCheck 0 false))) ∧
      (op.val = 0 → exec (.unlistedOpcode ring op ins) s = .next (irqEdge s
        (abortProgram s n (rt s n).lastIsn (statusCode .eCheck) false))))

/-- A QUOIN of each variant of Table 2.5, with its unused bits 0, completes with OK and its variant in RESULT [63:61] when its
condition holds at issue; otherwise its ring waits on it. A ring that waits on a quoin whose condition then holds completes it
with OK; a QUOIN.C and a QUOIN.X that complete hold captures back until their ring issues again. A QUOIN with VARIANT 5, 6 or 7
completes with E_CHECK. -/
def Obligations.QuoinsCompleteOrWait : Prop :=
  ∀ (ring : Fin 64) (ins : Ins) (s : State) (v : Nat) (c : Instr),
    (c, v) ∈ [(.quoin ring ins, 0), (.quoinW ring ins, 1), (.quoinC ring ins, 2), (.quoinT ring ins, 3), (.quoinX ring ins, 4)] →
    let n := ring.val
    let isn := s.ctl.isn
    let fl := ins.flags
    let t := issued s n opQuoin fl
    let mark := t.ctl.gateIn
    let formeMark := formeIn t
    (Issues s n opQuoin ins → onQuoin s n = false → bits fl 4 2 = v → fl < 32 → insPlain ins = true →
      (quoinHolds t n v mark formeMark (opNs t) = true →
        exec c s = .next (irqEdge s (completeIns (holdCaptures t n v) n isn opQuoin fl .ok (v * 2 ^ 61) false))) ∧
      (quoinHolds t n v mark formeMark (opNs t) = false →
        exec c s = .next (irqEdge s (settle t n isn opQuoin fl
          (.wait (.quoin v t.cycle mark formeMark (opNs t / 1000000000) (opNs t % 1000000000))))))) ∧
    (∀ w : Waiting, ∀ since mark formeMark sec ns : Nat, (rt s n).waiting = some w →
      w.kind = .quoin v since mark formeMark sec ns → quoinHolds s n v mark formeMark (tNs sec ns) = true →
      exec c s = .next (irqEdge s (completeIns (holdCaptures s n v) n w.isn w.opcode w.flags .ok
        (v * 2 ^ 61 + min (nsOfCycles (s.cycle - since)) (2 ^ 61 - 1)) false))) ∧
    (Issues s n opQuoin ins → onQuoin s n = false → 5 ≤ bits fl 4 2 →
      exec (.quoin ring ins) s = .next (irqEdge s (completeIns t n isn opQuoin fl .eCheck 0 false)))

/-- RW, RRD and RMW that pass the checks of R1161 and whose value names no absent unit: RW and RMW pass the Write Gate after the
writes it has accepted, and a write that takes effect is journaled with the ISN, the offset and the value; RMW writes (old AND
NOT MASK) OR (VALUE AND MASK), with the old value in RESULT; one whose value names an absent unit completes with E_ABSENT and
writes nothing; RRD answers the register's value in RESULT and in its destination block, and keeps it for a handover. It rests
on the model's own choices of log entries 13, 14 and 92. -/
def Obligations.RegisterInstructionsComplete : Prop :=
  ∀ (ring : Fin 64) (ins : Ins) (env : WriteEnv) (s : State),
    let n := ring.val
    let isn := s.ctl.isn
    let gate (g : State) : State :=
      perf { g with ctl := { g.ctl with gateIn := g.ctl.gateIn + 1, gateOut := g.ctl.gateOut + 1 } } 40 0x0303 1
    (Issues s n opRw ins →
      let t := issued s n opRw ins.flags
      let g := gateDrain t
      let v := BitVec.ofNat 64 ins.operand
      firstFail (regChecks t n ins false true) = none →
      (regRefersAbsent g ins.index v = true → (rt g n).waiting.isSome = true →
        exec (.rw ring ins env) s = .next (irqEdge s (completeIns g n isn opRw ins.flags .eAbsent 0 false))) ∧
      ∀ u : State, regRefersAbsent g ins.index v = false →
        regWrite (gate g) (writeKey (ringLink (gate g) n) ins.index) (BitVec.allOnes 64) v env (ringOperator (gate g) n) id
          = (u, .took) →
        (rt u n).waiting.isSome = true →
        exec (.rw ring ins env) s = .next (irqEdge s (completeIns
          (journal u 0x0010 (ringOrigin n) [(8, isn), (4, ins.index), (8, v.toNat)]) n isn opRw ins.flags .ok 0 false))) ∧
    (∀ b : List Byte, Issues s n opRmw ins →
      let t := issued s n opRmw ins.flags
      let x := look (gateDrain t) (ringLink (gateDrain t) n) ins.index
      let g := gateDrain x.1
      let old := x.2
      let m := BitVec.ofNat 64 (leAt b 0 8)
      let v := (old &&& ~~~ m) ||| (BitVec.ofNat 64 (leAt b 8 8) &&& m)
      firstFail (regChecks t n ins (ins.operand % 16 ≠ 0) true) = none →
      (regRefersAbsent g ins.index v = true → (rt g n).waiting.isSome = true →
        exec (.rmw ring ins (some b) env) s = .next (irqEdge s (completeIns g n isn opRmw ins.flags .eAbsent 0 false))) ∧
      ∀ u : State, regRefersAbsent g ins.index v = false →
        regWrite (gate g) (writeKey (ringLink (gate g) n) ins.index) (BitVec.allOnes 64) v env (ringOperator (gate g) n) id
          = (u, .took) →
        (rt u n).waiting.isSome = true →
        exec (.rmw ring ins (some b) env) s = .next (irqEdge s (completeIns
          (journal u 0x0010 (ringOrigin n) [(8, isn), (4, ins.index), (8, v.toNat)]) n isn opRmw ins.flags .ok old.toNat
          false))) ∧
    (Issues s n opRrd ins →
      let t := issued s n opRrd ins.flags
      let r := readEffect t (ringLink t n) ins.index
      firstFail (regChecks t n ins (ins.operand % 16 ≠ 0) false) = none →
      exec (.rrd ring ins true) s = .next (irqEdge s (completeIns
        (if ins.operand = 0 then r.1 else valueWrite r.1 n isn ins.operand (leBytes 8 r.2.toNat)) n isn opRrd ins.flags .ok
        r.2.toNat false)))

/-- A register instruction that meets a condition of R1161 completes with the status of the first one met and takes no effect,
and one whose operand or destination block cannot be reached completes with E_OPERAND and posts EV_OPERAND_FAULT. -/
def Obligations.RegisterInstructionsFailInOrder : Prop :=
  ∀ (ring : Fin 64) (ins : Ins) (env : WriteEnv) (s : State) (st : Status),
    let n := ring.val
    let isn := s.ctl.isn
    (Issues s n opRw ins → firstFail (regChecks (issued s n opRw ins.flags) n ins false true) = some st →
      exec (.rw ring ins env) s = .next (irqEdge s
        (completeIns (issued s n opRw ins.flags) n isn opRw ins.flags st 0 false))) ∧
    (∀ block : Block, Issues s n opRmw ins →
      firstFail (regChecks (issued s n opRmw ins.flags) n ins (ins.operand % 16 ≠ 0) true) = some st →
      exec (.rmw ring ins block env) s = .next (irqEdge s
        (completeIns (issued s n opRmw ins.flags) n isn opRmw ins.flags st 0 false))) ∧
    (∀ ok : Bool, Issues s n opRrd ins →
      firstFail (regChecks (issued s n opRrd ins.flags) n ins (ins.operand % 16 ≠ 0) false) = some st →
      exec (.rrd ring ins ok) s = .next (irqEdge s
        (completeIns (issued s n opRrd ins.flags) n isn opRrd ins.flags st 0 false))) ∧
    (Issues s n opRrd ins → ins.operand ≠ 0 →
      firstFail (regChecks (issued s n opRrd ins.flags) n ins (ins.operand % 16 ≠ 0) false) = none →
      exec (.rrd ring ins false) s = .next (irqEdge s
        (completeIns (postHw (issued s n opRrd ins.flags) 0x4921 [(1, n), (8, isn), (8, ins.operand)]) n isn opRrd ins.flags
          .eOperand 0 false)))

/-- A write of a register with no effect beyond its fields: a bit that is RW and written takes the written value, a W1C bit
written with 1 becomes 0, every other bit of it and every other register stay as they are. -/
def Obligations.PlainWriteFollowsTheAccessCodes : Prop :=
  ∀ (s : State) (o : Nat) (mask value : Word) (i : RegInfo) (j : Nat),
    Canon s → o < 2 ^ 32 → regInfo o = some i → j < 64 →
    let t := plainWrite s o mask value
    ((rd t o).getLsbD j =
      if i.w1c.testBit j && mask.getLsbD j && value.getLsbD j then false
      else if i.rw.testBit j && mask.getLsbD j then value.getLsbD j
      else (rd s o).getLsbD j) ∧
    (∀ q, q ≠ o → rd t q = rd s q) ∧
    t = { s with regs := t.regs }

/-- WAITT waits while operational time is before T and completes with OK once it is T or later, with LATE and the lateness when
T has passed; the wait ends when operational time reaches T. TSET steps its domain to the block's time; TADJ steps, slews or
sets the frequency offset of its domain; each is journaled and completes with OK. A nanosecond field above 999,999,999 counts as
it stands, and a step past time 0 ends at 0: these are the model's own choices of log entries 103 and 108. -/
def Obligations.TimeInstructionsComplete : Prop :=
  ∀ (ring : Fin 64) (ins : Ins) (b : List Byte) (s : State),
    let n := ring.val
    let isn := s.ctl.isn
    let sec := leAt b 0 8
    let ns := leAt b 12 4
    let d := bits ins.flags 4 4
    (Issues s n opWaitt ins → ins.flags < 4 → ins.unit = 0 → ins.index = 0 → ins.operand % 16 = 0 →
      let t := issued s n opWaitt ins.flags
      exec (.waitt ring ins (some b)) s = .next (irqEdge s
        (if opNs t < tNs sec ns then settle t n isn opWaitt ins.flags (.wait (.waitt sec ns false))
         else completeIns t n isn opWaitt ins.flags .ok
           (if opNs t = tNs sec ns then 0 else 2 ^ 63 + (opNs t - tNs sec ns) % 2 ^ 63) false))) ∧
    (∀ w : Waiting, ∀ wsec wns : Nat, ∀ late : Bool, (rt s n).waiting = some w → w.kind = .waitt wsec wns late →
      tNs wsec wns ≤ opNs s →
      exec (.waittTimeReached ring) s = .next (irqEdge s (completeIns s n w.isn w.opcode w.flags .ok
        (if late then 2 ^ 63 + (opNs s - tNs wsec wns) % 2 ^ 63 else 0) false))) ∧
    (Issues s n opTset ins → ins.operand % 16 = 0 → ns < 1000000000 →
      let t := issued s n opTset ins.flags
      firstFail (timeChecks t n d ins (decide (bits ins.flags 3 2 ≠ 0))) = none →
      let new := sec * unitsPerSec + ns * 65536 + leAt b 10 2
      let u := stepDomain t d ((new : Int) - (domOf t d).t)
      exec (.tset ring ins (some b)) s = .next (irqEdge s (completeIns
        (journalPart (journal u 0x0030 (ringOrigin n)
            [(8, isn), (1, d), (1, 3), (8, toTwos 64 (clampNs ((nsTotal new : Int) - nsTotal (domOf t d).t)))])
          0x0031 (ringOrigin n) 1 [(8, sec), (4, ns), (2, leAt b 10 2), (2, domGen u d)])
        n isn opTset ins.flags .ok (domGen u d) false))) ∧
    (∀ (c : Instr) (mode : Nat), (c, mode) ∈ [(.tadjStep ring ins, 0), (.tadjSlew ring ins, 1), (.tadjFreq ring ins, 2)] →
      bits ins.flags 3 2 = mode → Issues s n opTadj ins →
      let t := issued s n opTadj ins.flags
      let amount := signedOf 64 ins.operand
      (mode = 2 → amount.natAbs ≤ 32768000000) →
      firstFail (timeChecks t n d ins false) = none →
      let u := if mode = 0 then stepDomain t d amount
        else if mode = 1 then slewDomain t d amount else wr t (rDomFreq d) (BitVec.ofNat 64 (toTwos 64 amount))
      exec c s = .next (irqEdge s (completeIns
        (journal u 0x0030 (ringOrigin n) [(8, isn), (1, d), (1, mode), (8, toTwos 64 amount)]) n isn opTadj ins.flags .ok
        (if mode = 0 then domGen u d else if mode = 1 then slewNs u d else 0) false)))

/-- A step of domain d moves that domain's time by the amount, adds one to its step generation, modulo 65,536, and leaves the
other domain's time and generation alone. When operational time follows d, it steps by the same amount in the same core cycle
and its own step generation goes up by one, modulo 65,536; otherwise operational time and its generation stay. A slew adds its
amount to the domain's remaining slew and changes no time and no generation. -/
def Obligations.StepsAndSlewsOfADomain : Prop :=
  ∀ (s : State) (d : Nat) (amount : Int), Canon s → d < 2 →
    let t := stepDomain s d amount
    (domOf t d).t = ((domOf s d).t + amount).toNat ∧ domGen t d = (domGen s d + 1) % 65536 ∧
    domOf t (1 - d) = domOf s (1 - d) ∧ domGen t (1 - d) = domGen s (1 - d) ∧
    t.cycle = s.cycle ∧ t.clk.resid = s.clk.resid ∧
    (opDomain s = d → t.clk.opGen = (s.clk.opGen + 1) % 65536 ∧
      (0 ≤ (domOf s d).t + amount → s.clk.resid ≤ (domOf s d).t → s.clk.resid ≤ (domOf s d).t + amount →
        (opTime t : Int) = opTime s + amount)) ∧
    (opDomain s ≠ d → t.clk.opGen = s.clk.opGen ∧ opTime t = opTime s) ∧
    t.tab0 = s.tab0 ∧ t.tab1 = s.tab1 ∧ t.path = s.path ∧ t.ciph = s.ciph ∧
    (let u := slewDomain s d amount
     (domOf u d).slew = (domOf s d).slew + amount ∧ (domOf u d).t = (domOf s d).t ∧ domOf u (1 - d) = domOf s (1 - d) ∧
       u = { s with clk := u.clk } ∧ u.clk.opGen = s.clk.opGen)

-- Formes and the galley

/-- A GOPEN with its unused bytes 0 that issues while GALLEY_STATE is NONE opens the galley and records its ring as the owner:
the galley is OPEN with an empty log, whatever PREV_STATE is. One that issues while it is OPEN or PENDING completes with
E_FORME_BUSY. No table row and no entry changes. -/
def Obligations.GopenOpensTheGalley : Prop :=
  ∀ (ring : Fin 64) (ins : Ins) (s : State), Canon s →
    let n := ring.val
    Issues s n opGopen ins → ins.flags < 4 → allZero ins = true → (rt s n).abortAfter = none →
    (galleyState s = gsNone → Lands (.gopen ring ins) s fun t =>
      galleyState t = gsOpen ∧ galleyOwner t = n ∧ ownerGone t = false ∧ t.forme.galley = [] ∧
        rdF t rFormeStatus 50 32 = 0 ∧ prevState t = prevState s ∧ live t = live s ∧ t.forme.galleyCycle = s.cycle ∧
        t.forme.case = s.forme.case ∧ t.forme.asa = s.forme.asa ∧ t.tab0 = s.tab0 ∧ t.tab1 = s.tab1 ∧
        (rt t n).lastOk = some true) ∧
    (galleyState s ≠ gsNone →
      exec (.gopen ring ins) s = .next (irqEdge s (completeIns (touchGalley (issued s n opGopen ins.flags) n) n s.ctl.isn opGopen
        ins.flags .eFormeBusy 0 false)))

/-- The later of two writes in one galley that name the same key or row replaces the earlier one: the log then holds one entry
for it, at its end, and every other entry in its place. A log with one entry for each key or row keeps that property. -/
def Obligations.LaterWriteReplacesTheEarlierInTheLog : Prop :=
  ∀ (l : List GWrite) (w : GWrite), l.Pairwise (fun a b => sameTarget a b = false) →
    (logPut l w).Pairwise (fun a b => sameTarget a b = false) ∧
    (logPut l w).getLast? = some w ∧
    (logPut l w).filter (fun x => sameTarget x w) = [w] ∧
    (logPut l w).filter (fun x => !sameTarget x w) = l.filter (fun x => !sameTarget x w) ∧
    (logPut l w).length ≤ l.length + 1

/-- TW, TD and TM that pass their checks are all-or-nothing: when every entry passes, the log takes them all and RESULT holds
GALLEY_WRITES; when one fails, RESULT holds the position of the first that fails and the log stays; when the log would pass
262,144 writes, E_FULL and the log stays. -/
def Obligations.TableInstructionsComplete : Prop :=
  ∀ (ring : Fin 64) (ins : Ins) (b : List Byte) (s : State) (c : Instr) (op : Nat),
    (c, op) ∈ [(.tw ring ins (some b), opTw), (.td ring ins (some b), opTd), (.tm ring ins (some b), opTm)] →
    let n := ring.val
    let isn := s.ctl.isn
    Issues s n op ins →
    let t := touchGalley (issued s n op ins.flags) n
    let l := t.forme.galley
    let k := entryCount ins
    let len := imageLen t l ins.unit ins.index
    let indexed := (indexedTable ins.unit).isSome
    let need := if op = opTm then k * 2 * len else if op = opTd ∧ indexed then 0 else k * len
    let img (i : Nat) : Nat := blockImage b len i
    let rows : List (Nat × Nat) := (List.range k).map (fun i => (ins.index + i,
      if op = opTm then maskInto (rowWith t l ins.unit (ins.index + i)) (img (2 * i)) (img (2 * i + 1)) (8 * len) else img i))
    let place : List GWrite ⊕ (Status × Nat) :=
      if indexed then
        if op = opTd then .inl ((List.range k).foldl
          (fun l i => logPut l { table := ins.unit, row := ins.index + i, key := 0, del := false, image := 0 }) l)
        else placeRows t l ins.unit rows
      else if op = opTw then placeAssoc (fun l x => assocWrite t l ins.unit ins.index x) ((List.range k).map img) 0 l
      else if op = opTd then placeAssoc (fun l x => assocDelete t l ins.unit ins.index x) ((List.range k).map img) 0 l
      else placeAssoc (fun l i => assocModify t l ins.unit ins.index (img (2 * i)) (img (2 * i + 1))) (List.range k) 0 l
    (op = opTd → indexed = true → ins.operand = 0) → firstFail (tableChecks t n ins need) = none →
    (∀ log, place = .inl log → log.length ≤ 262144 →
      exec c s = .next (irqEdge s (completeIns (setLog t log) n isn op ins.flags .ok log.length false))) ∧
    (∀ log, place = .inl log → 262144 < log.length →
      exec c s = .next (irqEdge s (completeIns t n isn op ins.flags .eFull 0 false))) ∧
    (∀ st i, place = .inr (st, i) →
      exec c s = .next (irqEdge s (completeIns t n isn op ins.flags st i false)))

/-- LOCK and LOCKAT that pass their checks make the galley PENDING in phase WAIT_RETIRE: the ring of a LOCK waits, the program
of a LOCKAT goes on. A LOCKAT whose T is earlier than operational time completes with E_TIME_PAST and its galley stays OPEN; a
nanosecond field of T above 999,999,999 counts as it stands (the model's own choice, log entry 108). -/
def Obligations.LockAndLockatAreAccepted : Prop :=
  ∀ (ring : Fin 64) (ins : Ins) (b : List Byte) (s : State),
    let n := ring.val
    let isn := s.ctl.isn
    (Issues s n opLock ins → ins.flags < 4 → allZero ins = true →
      let t := touchGalley (issued s n opLock ins.flags) n
      firstFail (galleyChecks t n) = none → gatesPast t (opNs t) = false →
      exec (.lock ring ins) s = .next (irqEdge s (settle
        (acceptLock t { isn := isn, ring := n, origin := ringOrigin n, flags := ins.flags, timed := false, lateOk := false,
                        sec := 0, ns := 0 }) n isn opLock ins.flags (.wait .lock)))) ∧
    (Issues s n opLockat ins → ins.flags < 8 → ins.unit = 0 → ins.index = 0 → ins.operand % 16 = 0 →
      let t := issued s n opLockat ins.flags
      let sec := leAt b 0 8
      let ns := leAt b 12 4
      firstFail (galleyChecks t n) = none → pendingTimed t < 1024 →
      (opNs t ≤ tNs sec ns → gatesPast t (tNs sec ns) = false →
        exec (.lockat ring ins (some b)) s = .next (irqEdge s (settle
          (acceptLock t { isn := isn, ring := n, origin := ringOrigin n, flags := ins.flags, timed := true,
                          lateOk := ins.flags.testBit 2, sec := sec, ns := ns }) n isn opLockat ins.flags .accepted))) ∧
      (tNs sec ns < opNs t →
        exec (.lockat ring ins (some b)) s = .next (irqEdge s
          (completeIns t n isn opLockat ins.flags .eTimePast 0 false))))

/-- GDROP with its unused bytes 0, by the owner or after the owner is gone, drops an open galley and cancels a pending one,
whose imposed writes it withdraws and whose LOCKAT it completes with E_ABORT. TRD that passes its checks writes the header
and one slot per entry to its destination block, and answers FORME_GEN; a key of no listed TYPE completes it with E_CHECK. It
rests on the model's own choices of log entry 11. -/
def Obligations.GdropAndTrdComplete : Prop :=
  ∀ (ring : Fin 64) (ins : Ins) (keys : List (List Byte)) (s : State),
    let n := ring.val
    let isn := s.ctl.isn
    (Issues s n opGdrop ins → ins.flags < 4 → allZero ins = true →
      let t := touchGalley (issued s n opGdrop ins.flags) n
      (galleyOwner t = n ∨ ownerGone t = true) →
      (galleyState t = gsOpen → t.forme.pendLock = none →
        exec (.gdrop ring ins) s = .next (irqEdge s
          (completeIns (setPhase (galleyNone t) 0) n isn opGdrop ins.flags .ok 0 false))) ∧
      (∀ l, galleyState t = gsPending → t.forme.pendLock = some l → l.timed = true →
        let u := finishLock (withdraw t) l .eAbort 0
        (withdraw t).forme.pendLock = some l → (rt u n).waiting.isSome = true →
        exec (.gdrop ring ins) s = .next (irqEdge s
          (completeIns (setPhase (galleyNone u) 0) n isn opGdrop ins.flags .ok 0 false)))) ∧
    (Issues s n opTrd ins →
      let t := issued s n opTrd ins.flags
      let k := entryCount ins
      let byKey := ins.index.testBit 31
      let first := bits ins.index 30 0
      ins.flags < 256 → tableListed ins.unit = true → ins.operand % 16 = 0 →
      32 + k * (8 + trdImageLen t ins.unit) ≤ 65568 →
      (if byKey then isCase ins.unit = true ∧ first = 0 else first + k ≤ trdSize ins.unit) →
      ((indexedTable ins.unit).isSome = true → ∀ i < k, rowAbsent t ins.unit (first + i) = false) →
      let slots := if byKey then (List.range k).flatMap (fun i => trdKeySlot t (keys.getD i []))
        else (List.range k).flatMap (fun i => trdSlot t ins.unit (first + i))
      ((byKey = true → ∀ i < k, trdKeyBad (keys.getD i []) = false) →
        exec (.trd ring ins true keys) s = .next (irqEdge s (completeIns
          (ownerWrite t n ins.operand (leBytes 8 (formeGen t) ++ leBytes 8 isn ++ leBytes 8 k ++ leBytes 8 0 ++ slots))
          n isn opTrd ins.flags .ok (formeGen t) false))) ∧
      (∀ i < k, byKey = true → trdKeyBad (keys.getD i []) = true →
        exec (.trd ring ins true keys) s = .next (irqEdge s (completeIns t n isn opTrd ins.flags .eCheck 0 false))))

/-- Imposition begins once its LOCK or LOCKAT is accepted and PREV_STATE is STEADY: the phase is IMPOSING and the galley's
writes are owed to the standby parity, or why it cannot succeed is held. When it fails, its writes are withdrawn, the galley
is OPEN again and the LOCK or LOCKAT completes with the reason. When every write is made, the phase is IMPOSED. Then a LOCK
locks up at once and a LOCKAT when operational time reaches its T; a LOCKAT whose T has passed by then locks up late, or, with
LATE_OK 0, goes back to OPEN, completes with E_LOCK_MISSED and posts EV_LOCK_MISSED, as does one that T finds not imposed. It
rests on the model's own choices of log entries 24, 25, 108 and 109. -/
def Obligations.ImpositionAndLockupRun : Prop :=
  ∀ s : State, galleyState s = gsPending →
    (∀ l, s.forme.pendLock = some l → prevState s = 0 → pendPhase s = 0 →
      let t := setPhase (endBankTests s) 1
      (impositionFault t = none → exec .impositionStart s = .next (irqEdge s (setTodo t (imposeList t.forme.galley)))) ∧
      (∀ f, impositionFault t = some f →
        exec .impositionStart s = .next (irqEdge s { t with forme := { t.forme with impFail := some f } }))) ∧
    (pendPhase s = 1 → ∀ f l, (runTodo s).forme.impFail = some f → (runTodo s).forme.pendLock = some l →
      exec .impositionFail s = .next (irqEdge s (finishLock (postFull (galleyReopen (runTodo s)) f) l f.1 f.2.1))) ∧
    (pendPhase s = 1 → s.forme.impFail = none → (runTodo s).forme.impFail = none → (runTodo s).forme.formeTodo = [] →
      let t := setPhase (runTodo s) 2
      ∀ l, t.forme.pendLock = some l →
        (l.timed = false ∨ opNs t ≤ tNs l.sec l.ns → exec .impositionComplete s = .next (irqEdge s t)) ∧
        (l.timed = true → tNs l.sec l.ns < opNs t → (l.lateOk = true ∨ l.stepLate = true) →
          exec .impositionComplete s = .next (irqEdge s
            { t with forme := { t.forme with pendLock := some { l with late := true } } })) ∧
        (l.timed = true → tNs l.sec l.ns < opNs t → l.lateOk = false → l.stepLate = false →
          exec .impositionComplete s = .next (irqEdge s (lockMissed t l))) ∧
        (l.timed = false → galleyState t = gsPending → pendPhase t = 2 →
          exec .lockup s = .next (irqEdge s (abandonSave (lockupNow t l false) 0)))) ∧
    (∀ l, s.forme.pendLock = some l →
      (pendPhase s = 2 → lockDue s l = true →
        exec .lockup s = .next (irqEdge s (abandonSave (lockupNow s l (l.timed && (l.late || l.stepLate))) 0))) ∧
      (pendPhase s = 2 → l.timed = true → tNs l.sec l.ns ≤ opNs s →
        exec .lockatTime s = .next (irqEdge s (abandonSave (lockupNow s l (l.late || l.stepLate)) 0))) ∧
      (pendPhase s ≠ 2 → l.timed = true → l.lateOk = false → l.stepLate = false → tNs l.sec l.ns ≤ opNs s →
        exec .lockMissed s = .next (irqEdge s (lockMissed s l)) ∧
        lockMissed s l = postHw (finishLock (galleyReopen s) l .eLockMissed 0) 0x8916 [(8, l.isn), (8, l.sec), (4, l.ns)]))

/-- A lock-up whose galley holds no writes, of a LOCK or of a LOCKAT whose T has come, inverts FORME_STATUS.LIVE and increments
FORME_GEN like any other; the galley is NONE, PREV_STATE is LOCKED, and no row, Case or ASA entry changes. -/
def Obligations.AnEmptyGalleyLocksUp : Prop :=
  ∀ (s : State) (l : PendLock) (c : Instr), Canon s → galleyState s = gsPending → pendPhase s = 2 →
    s.forme.pendLock = some l → s.forme.galley = [] → l.ring < 64 →
    (c = .lockup ∧ l.timed = false ∨ c = .lockatTime ∧ l.timed = true ∧ tNs l.sec l.ns ≤ opNs s) →
    Lands c s fun t =>
      live t = !live s ∧ rd t rFormeGen = rd s rFormeGen + 1 ∧ galleyState t = gsNone ∧ prevState t = 1 ∧
        t.tab0 = s.tab0 ∧ t.tab1 = s.tab1 ∧ t.forme.case = s.forme.case ∧ t.forme.asa = s.forme.asa ∧
        t.forme.pendLock = none ∧ t.forme.galley = []

/-- An open galley that its owner leaves alone for GALLEY_TIMEOUT is dropped with EV_GALLEY_TIMEOUT. When the old parity has
drained, PREV_STATE becomes RETIRING and catch-up owes every row and key the lock-up named to the retired parity; when those
writes are made, PREV_STATE becomes STEADY and EV_FORME_RETIRED is posted. -/
def Obligations.GalleyTimeoutAndRetirement : Prop :=
  ∀ s : State,
    (galleyState s = gsOpen → s.forme.galleyCycle + max (rdF s rFormeCtrl 15 0) 1 * cyclesPerMs ≤ s.cycle →
      exec .galleyTimeout s = .next (irqEdge s
        (galleyNone (postHw s 0x4913 [(1, galleyOwner s), (4, s.forme.galley.length)])))) ∧
    (prevState s = 1 → retirePending s = 0 → Canon s →
      Lands .drainEnd s fun t =>
        prevState t = 2 ∧ t.forme.formeTodo = syncList s.forme.lastLog (standby s) ∧
          t.forme.drainNs = nsOfCycles (s.cycle - s.forme.lockCycle) ∧ t.tab0 = s.tab0 ∧ t.tab1 = s.tab1 ∧
          (∀ o, o ≠ rFormeStatus → rd t o = rd s o)) ∧
    (prevState s = 2 → (runTodo s).forme.formeTodo = [] →
      let u := setPrev (runTodo s) 0
      exec .catchUpEnd s = .next (irqEdge s
        (postHw { u with forme := { u.forme with lastLog := [] } } 0x0911 [(8, formeGen u - 1), (8, u.forme.drainNs)])))

/-- Bringing one row of a parity into line with the other, in one pass, leaves both parities equal in that row, and changes no
other row of either parity, no register and no entry. -/
def Obligations.CatchUpMakesARowEqualInBothParities : Prop :=
  ∀ (s : State) (n table r : Nat) (parity : Bool), Canon s →
    let t := formeWrite (n + 1) s (.syncRow table r parity)
    row t parity table r = row s (!parity) table r ∧ row t (!parity) table r = row s (!parity) table r ∧
    (∀ t2 r2, tkey t2 r2 ≠ tkey table r → ∀ p, row t p t2 r2 = row s p t2 r2) ∧
    t = { s with tab0 := t.tab0, tab1 := t.tab1 } ∧ Canon t


-- Counters and pools

/-- CSNAP and CRD that pass their checks write the time, the ISN, the number of values and the values of the counters they name
to their destination block, and RESULT holds the number of values. A CSNAP, and a CRD of one unit, reads them in one core cycle;
a CRD of more reads its first unit and goes on with one unit in each cycle; with its clear flag it clears the half-range bits of
what it read. CCLR passes the Write Gate after the writes it has accepted, sets every counter it names to
what it has gained in this core cycle and is journaled. It rests on the model's own choice of log entry 92 (the value is kept
for a handover). -/
def Obligations.CounterInstructionsComplete : Prop :=
  ∀ (ring : Fin 64) (ins : Ins) (s : State),
    let n := ring.val
    let isn := s.ctl.isn
    let l := ctrPlaces ins
    let head (t : State) : List Byte := t128Bytes (opTime t) t.clk.opGen ++ leBytes 8 isn ++ leBytes 8 l.length
    (Issues s n opCsnap ins →
      let t := issued s n opCsnap ins.flags
      firstFail (ctrChecks t ins 4 true) = none →
      exec (.csnap ring ins true) s = .next (irqEdge s
        (completeIns (valueWrite t n isn ins.operand (head t ++ (captureValues t l).flatMap (leBytes 8))) n isn opCsnap ins.flags
          .ok l.length false))) ∧
    (Issues s n opCrd ins →
      let t := issued s n opCrd ins.flags
      let r := crdUnit t ins.unit (ciFirst ins) (ins.flags.testBit 2)
      firstFail (ctrChecks t ins 8 true) = none →
      (ciUnits ins = 1 →
        exec (.crd ring ins true) s = .next (irqEdge s
          (completeIns (valueWrite r.1 n isn ins.operand (head t ++ r.2)) n isn opCrd ins.flags .ok l.length false))) ∧
      (ciUnits ins ≠ 1 →
        exec (.crd ring ins true) s = .next (irqEdge s (settle r.1 n isn opCrd ins.flags
          (.wait (.crd 1 (ciFirst ins) (ciUnits ins) ins.unit (ins.flags.testBit 2) ins.operand (head t ++ r.2) l.length)))))) ∧
    (∀ w : Waiting, ∀ done first units set dest count : Nat, ∀ ack : Bool, ∀ block : List Byte, (rt s n).waiting = some w →
      w.kind = .crd done first units set ack dest block count →
      let r := crdUnit s set (first + done) ack
      (done + 1 < units → (rt (crdPoll s n) n).waiting =
        some { w with kind := .crd (done + 1) first units set ack dest (block ++ r.2) count }) ∧
      (units ≤ done + 1 →
        crdPoll s n = completeIns (valueWrite r.1 n w.isn dest (block ++ r.2)) n w.isn w.opcode w.flags .ok count false)) ∧
    (Issues s n opCclr ins →
      let t := gateDrain (issued s n opCclr ins.flags)
      let gained := cycleGain t l
      let t := { t with core := { t.core with now := { t.core.now with
        cleared := t.core.now.cleared ++ l.zip (placeValues t l) } } }
      let u := (l.zip gained).foldl (fun s x => setValue s x.1.1 x.1.2.1 x.1.2.2 x.2) t
      firstFail (ctrChecks (issued s n opCclr ins.flags) ins 8 false) = none → (rt t n).waiting.isSome = true →
      exec (.cclr ring ins) s = .next (irqEdge s (completeIns
        (journal (if ins.flags.testBit 2 then clearAllLatched u l true else u) 0x0020 (ringOrigin n)
          [(8, isn), (2, ins.unit), (4, ciFirst ins), (2, ciUnits ins - 1), (1, b2n (ins.flags.testBit 2))])
        n isn opCclr ins.flags .ok (if ins.unit = 0x0805 then 8 else l.length) false)))

/-- Clearing one value of a counter set makes it read 0 when it has gained nothing in this core cycle, and leaves every other
value of that set as it was; PERF_CYCLES of set 0x0805 is not cleared. -/
def Obligations.ClearingACounterLeavesTheOthers : Prop :=
  ∀ (s : State) (id u i v j units per : Nat) (one : Bool), Canon s → setInfo id = some (units, per, one) →
    u < units → v < units → i < per → j < per → ¬ (id = 0x0805 ∧ (i = 0 ∨ j = 0)) →
    let t := setValue s id u i 0
    ctrValue t id u i = 0 ∧ ((u, i) ≠ (v, j) → ctrValue t id v j = ctrValue s id v j) ∧
      t.clk = s.clk ∧ t.path = s.path ∧ t.tab0 = s.tab0 ∧ t.tab1 = s.tab1

/-- A frame counter counts one frame modulo 2^48. When its bit 47 rises from 0 to 1 its half-range bit is set, and on any other
count the register that holds the half-range bit keeps its value. -/
def Obligations.FrameCountersWrapAndMarkTheHalf : Prop :=
  ∀ (s : State) (k half b : Nat), Canon s → b < 64 →
    let t := frameCount s k half b
    ctr t k = (ctr s k + 1) % 2 ^ 48 ∧
    ((ctr s k).testBit 47 = false → (ctr t k).testBit 47 = true → rdB t half b = true) ∧
    (¬ ((ctr s k).testBit 47 = false ∧ (ctr t k).testBit 47 = true) → rd t half = rd s half) ∧
    { t.core with now := s.core.now } = s.core ∧ (∀ o, o ≠ half → rd t o = rd s o) ∧ (∀ q, q ≠ k → ctr t q = ctr s q) ∧
    t = { s with regs := t.regs, ctrs := t.ctrs, core := t.core }

/-- PALLOC takes one buffer at once when its pool grants, nobody waits and a buffer is FREE: its ledger entry is IN_USE, owned
by the ring, with reference count 1, and its address is RESULT. Of an empty pool it completes with E_FULL when TIMEOUT_US is 0
and otherwise waits; a wait that TIMEOUT_US ends completes with E_TIMEOUT. PFREE frees the buffer and answers the references
left. PREF adds a reference, up to 63. The requests of the internal paths whose turn comes before the ring's are served first;
where the turn falls within one cycle, and that a pool with FAULT set counts as an empty one, are the model's own choices (log
entries 67 and 110). -/
def Obligations.PoolInstructionsComplete : Prop :=
  ∀ (ring : Fin 64) (ins : Ins) (s : State),
    let n := ring.val
    let isn := s.ctl.isn
    let bytes := bits ins.index 16 0
    let tmo := bits ins.index 31 17
    (∀ k, Issues s n opPalloc ins → ins.flags < 4 → ins.operand % 16 = 0 →
      (ins.unit = 0x0CFF ∧ 1 ≤ bytes ∧ bytes ≤ 65536 ∨ 0x0C00 ≤ ins.unit ∧ ins.unit ≤ 0x0C0F ∧ bytes = 0) →
      let t := ringGrant (issued s n opPalloc ins.flags) n
      (rt t n).waiting.isSome = true → pallocPool t n ins.unit bytes = some k →
      (poolGrants t k = true → poolFifo t k = [] → 0 < poolFree t k →
        let a := takeBuf t k (n * 256 + 1 * 4 + 2)
        exec (.palloc ring ins true) s = .next (irqEdge s (completeIns
          (if ins.operand ≠ 0 then valueWrite a.1 n isn ins.operand (leBytes 8 (bufAddr t k a.2)) else a.1)
          n isn opPalloc ins.flags .ok (bufAddr t k a.2) false))) ∧
      (¬ (poolGrants t k = true ∧ poolFifo t k = [] ∧ 0 < poolFree t k) →
        (tmo = 0 → ∀ ok, exec (.palloc ring ins ok) s = .next (irqEdge s
          (completeIns t n isn opPalloc ins.flags .eFull 0 false))) ∧
        (tmo ≠ 0 → ∀ ok, exec (.palloc ring ins ok) s = .next (irqEdge s
          (settle (perf (setFifo t k (poolFifo t k ++ [{ ring := some n, need := 1, destOk := ok }])) 41 0x0403 1)
            n isn opPalloc ins.flags (.wait (.palloc k (t.cycle + tmo * 1600) ins.operand))))))) ∧
    (∀ w : Waiting, ∀ k deadline dest : Nat, (rt s n).waiting = some w → w.kind = .palloc k deadline dest →
      deadline ≤ s.cycle →
      exec (.pallocTimeout ring) s = .next (irqEdge s
        (completeIns (pallocLeave s n) n w.isn w.opcode w.flags .eTimeout 0 false))) ∧
    (Issues s n opPfree ins → ins.flags < 4 → ins.unit = 0 → ins.index = 0 →
      let t := ringGrant (issued s n opPfree ins.flags) n
      let r := freeBuf t (ringMemory t n) (ringRights t n) (ringOrigin n) ins.operand
      (rt r.1 n).waiting.isSome = true →
      exec (.pfree ring ins) s = .next (irqEdge s
        (completeIns r.1 n isn opPfree ins.flags r.2.1 r.2.2 false))) ∧
    (Issues s n opPref ins → ins.flags < 4 → ins.unit = 0 → ins.index = 0 →
      let t := ringGrant (issued s n opPref ins.flags) n
      let c := bufCheck t (ringMemory t n) (ringRights t n) ins.operand
      let v := ledger t c.2.2
      c.1 = .ok → (rt t n).waiting.isSome = true →
      (63 ≤ leRefs v →
        exec (.pref ring ins) s = .next (irqEdge s (completeIns t n isn opPref ins.flags .eFull 0 false))) ∧
      (leRefs v < 63 →
        exec (.pref ring ins) s = .next (irqEdge s (completeIns
          (setLedger t c.2.2 (leOwner v * 256 + (leRefs v + 1) * 4 + 2)) n isn opPref ins.flags .ok (leRefs v + 1) false))))

/-- Taking a buffer writes its ledger entry and no other. A free that fails a check changes nothing of the pools. One of a
buffer with more than one reference takes one reference away and leaves its owner, its state and every other entry; the last
reference sets the entry to 0, FREE with no owner, when nobody waits for the pool and it is not faulted. -/
def Obligations.TheLedgerFollowsGrantsAndFrees : Prop :=
  ∀ (s : State) (mem rights : Nat → Bool) (origin addr : Nat),
    (∀ k w, w ≠ 0 → ledger (takeBuf s k w).1 (takeBuf s k w).2 = w ∧
      ∀ e, e ≠ (takeBuf s k w).2 → ledger (takeBuf s k w).1 e = ledger s e) ∧
    (let c := bufCheck s mem rights addr
     let r := freeBuf s mem rights origin addr
     let v := ledger s c.2.2
     (c.1 ≠ .ok → r.2.1 = c.1 ∧ r.1.pool = s.pool) ∧
     (c.1 = .ok → r.2.1 = .ok) ∧
     (c.1 = .ok → 2 ≤ leRefs v → r.2.2 = leRefs v - 1 ∧
       leRefs (ledger r.1 c.2.2) = leRefs v - 1 ∧ leOwner (ledger r.1 c.2.2) = leOwner v ∧
       leState (ledger r.1 c.2.2) = 2 ∧ ∀ e, e ≠ c.2.2 → ledger r.1 e = ledger s e) ∧
     (c.1 = .ok → leRefs v ≤ 1 → poolFaulted s c.2.1 = false → poolFifo s c.2.1 = [] →
       r.2.2 = 0 ∧ r.1 = putBack (perf s 41 0x0402 1) c.2.1 c.2.2 ∧
         ∀ e, e ≠ c.2.2 → ledger r.1 e = ledger s e))


-- Keys and SAs

/-- KLOAD by a user ring that passes its checks loads the unwrapped key into its SA and is journaled; a key whose integrity
check fails completes with E_KEY and nothing is loaded. Each KZERO by a ring of the role its SCOPE needs zeroises what SCOPE
names, is journaled with the operator, and answers how many keys there were. Where the operator stands in the journal entry is
the model's own choice (log entry 79), and so is that the key pair of attestation counts as one key (log entry 88). -/
def Obligations.KeyInstructionsComplete : Prop :=
  ∀ (ring : Fin 64) (ins : Ins) (b key : List Byte) (s : State),
    let n := ring.val
    let isn := s.ctl.isn
    let rx := ins.index.testBit 16
    let a := bits ins.index 13 0
    let indexOk := ins.index < 2 ^ 17 ∧ bits ins.index 15 14 = 0
    (Issues s n opKload ins →
      let t := issued s n opKload ins.flags
      ins.flags < 8 → ins.unit < 64 → indexOk → ins.operand % 16 = 0 → hasCipher t = true → ringRole t n = 1 →
      (boundary t = 0 ∨ boundary t = 1) → kloadBlockOk b = true → kekHeld t ins.unit = true →
      leAt b 0 2 = (if leAt b 2 1 % 2 = 0 then 24 else 40) → saInUse t rx a = false →
      exec (.kload ring ins (some b) (some key)) s = .next (irqEdge s (completeIns
        (journal (loadSa t rx a ins.unit b key) 0x0040 (ringOrigin n)
          [(8, isn), (1, ins.unit), (1, b2n rx), (2, a), (1, leAt b 2 1)]) n isn opKload ins.flags .ok ins.index false)) ∧
      exec (.kload ring ins (some b) none) s = .next (irqEdge s (completeIns t n isn opKload ins.flags .eKey 0 false))) ∧
    (∀ (c : Instr) (scope : Nat), (c, scope) ∈ [(.kzeroSa ring ins, 0), (.kzeroKek ring ins, 1), (.kzeroSaAll ring ins, 2),
        (.kzeroAll ring ins, 3)] → Issues s n opKzero ins →
      let t := issued s n opKzero ins.flags
      ins.flags < 16 → (if scope = 1 then ins.unit < 64 else ins.unit = 0) → (if scope = 0 then indexOk else ins.index = 0) →
      ins.operand = (if scope = 3 then 0x5A45524F else 0) → hasCipher t = true →
      ringRole t n = (if scope = 1 ∨ scope = 3 then 2 else 1) → (scope = 3 ∨ boundary t = 0 ∨ boundary t = 1) →
      let z := if scope = 0 then (zeroSa t rx a, b2n (saHasKey t rx a)) else if scope = 1 then zeroKek t ins.unit
        else if scope = 2 then zeroAllSa t else zeroStore t 1 (ringOperator t n)
      exec c s = .next (irqEdge s (completeIns
        (journal z.1 0x0041 (ringOrigin n)
          [(8, isn), (1, scope), (1, if scope = 1 then ins.unit else 0), (2, if scope = 0 then a else 0), (4, z.2),
            (1, ringOperator t n)])
        n isn opKzero ins.flags .ok z.2 false)))

/-- Loading a key gives its SA that key, the state LOADED, or CURRENT for a receive SA at a CUR_AN, the suite and KEK of the
load, and the packet number of the block, at least 1, as its next and, for a receive SA, its lowest acceptable number;
zeroising an SA empties it, with packet numbers 0 and the suite of its last load. No other SA window and no other key changes.
-/
def Obligations.LoadingAndZeroisingAnSa : Prop :=
  ∀ (s : State) (rx : Bool) (a kek : Nat) (b key : List Byte), Canon s → a < 16384 → kek < 64 → leAt b 2 1 < 4 →
    leAt b 24 8 < 2 ^ 64 →
    let t := loadSa s rx a kek b key
    let z := zeroSa s rx a
    let pn := max (leAt b 24 8) 1
    (saKey t rx a).map (fun k => k.key) = some key ∧
    saState t rx a = (if rx = true ∧ rxAtCurAn s a = true then saCurrent else saLoaded) ∧
    rdF t (rSa rx a 8) 11 8 = leAt b 2 1 ∧ rdF t (rSa rx a 8) 23 16 = kek ∧ saPn t rx a = pn ∧
    rd t (rSa rx a 0x18) = BitVec.ofNat 64 (if rx then pn else 0) ∧
    (∀ q y, saKeyIx q y ≠ saKeyIx rx a → saKey t q y = saKey s q y ∧ saKey z q y = saKey s q y) ∧
    (∀ o, o ≠ rSa rx a 8 → o ≠ rSa rx a 0x10 → o ≠ rSa rx a 0x18 → rd t o = rd s o ∧ rd z o = rd s o) ∧
    saState z rx a = saEmpty ∧ rdF z (rSa rx a 8) 11 8 = rdF s (rSa rx a 8) 11 8 ∧ saPn z rx a = 0 ∧
    t = { s with regs := t.regs, ciph := t.ciph } ∧ z = { s with regs := z.regs, ciph := z.ciph }

/-- An accepted SASW waits for its T while its program goes on, and aborts an earlier pending one of the same SecY and
direction. When operational time reaches T a transmit SASW makes its SA current, and a receive one moves CUR_AN, with
EV_SASW and a journal entry; an SA that holds no key by then makes it complete with E_KEY, and one its SecY no longer maps with
E_CHECK. Of several due, the one of least T, the first accepted among equals, takes effect. A RETIRING receive SA becomes
RETIRED after its delay. It rests on the model's own choices of log entries 30 and 108. -/
def Obligations.SaSwitchesHappenAtTheirTime : Prop :=
  ∀ (ring : Fin 64) (ins : Ins) (b : List Byte) (s : State),
    let n := ring.val
    let isn := s.ctl.isn
    let rx := ins.index.testBit 16
    let a := bits ins.index 13 0
    let sec := leAt b 0 8
    let ns := leAt b 12 4
    (Issues s n opSasw ins →
      let t := issued s n opSasw ins.flags
      ins.flags < 4 → ins.unit < 1024 → ins.index < 2 ^ 17 → bits ins.index 15 14 = 0 → ins.operand % 16 = 0 →
      hasCipher t = true → ringRole t n = 1 → (boundary t = 0 ∨ boundary t = 1) →
      (rx = true → (anOf t ins.unit a).isSome = true) → pendingTimed t < 1024 → saHasKey t rx a = true → opNs t ≤ tNs sec ns →
      let t := match t.ctl.sasws.find? (fun x => x.secy = ins.unit && x.dir == rx) with
        | some old => finishSasw t old .eAbort 0
        | none => t
      let x : Sasw := ⟨isn, n, ins.flags, ringOrigin n, ins.unit, rx, a, sec, ns, false, false⟩
      exec (.sasw ring ins (some b)) s = .next (irqEdge s (settle
        { t with ctl := { t.ctl with sasws := t.ctl.sasws ++ [x] } }
        n isn opSasw ins.flags .accepted))) ∧
    (∀ x : Sasw, saswDue s = some x →
      let late := if x.stepLate then (opNs s - tNs x.sec x.ns) % 2 ^ 63 else 0
      let done (u : State) (prev : Nat) : State :=
        let v := postHw (finishSasw u x .ok (b2n x.stepLate * 2 ^ 63 + late)) 0x0203
          [(2, x.secy), (1, b2n x.dir), (2, prev), (2, x.sa), (8, late)]
        journal v 0x0044 x.origin [(8, x.isn), (2, x.secy), (1, b2n x.dir), (2, prev), (2, x.sa)]
      (saHasKey s x.dir x.sa = false → exec .saSwitch s = .next (irqEdge s (finishSasw s x .eKey 0))) ∧
      (saHasKey s x.dir x.sa = true → x.dir = false →
        exec .saSwitch s = .next (irqEdge s (done (makeCurrent s x.secy x.sa) (rdF s (rTxCur x.secy) 13 0)))) ∧
      tNs x.sec x.ns ≤ opNs s ∧ x ∈ s.ctl.sasws ∧ (∀ y ∈ s.ctl.sasws, tNs x.sec x.ns ≤ tNs y.sec y.ns ∨ opNs s < tNs y.sec y.ns) ∧
      (saHasKey s x.dir x.sa = true → x.dir = true → anOf s x.secy x.sa = none →
        exec .saSwitch s = .next (irqEdge s (finishSasw s x .eCheck 0))) ∧
      (∀ an, saHasKey s x.dir x.sa = true → x.dir = true → anOf s x.secy x.sa = some an →
        exec .saSwitch s = .next (irqEdge s (done (rxSwitch s x.secy x.sa an).1 (rxSwitch s x.secy x.sa an).2)))) ∧
    (∀ y : Fin 16384, saState s true y.val = saRetiring → smGet (fun _ => 0) s.ciph.saRetireAt y.val ≤ s.cycle →
      exec (.saRetire y) s = .next (irqEdge s (postHw
        (setSaState { s with ciph := { s.ciph with saRetireAt := smSet (fun _ => 0) s.ciph.saRetireAt y.val 0 } } true y.val
          saRetired) 0x0204 [(2, rdF s (rSa true y.val 0) 9 0), (2, y.val)])))

/-- A ring's write of SECY_TX_CUR that names an SA of the same SecY that is not EMPTY makes it the current transmit SA: the
register names it, the SA is CURRENT, or EXHAUSTED when it has used its last packet number, and the SA it replaces goes back
to LOADED. One that names an EMPTY SA or one of another SecY changes nothing; one with VALID 0 checks no SA, is written, and a
CURRENT SA goes back to LOADED (the model's own choice, log entry 116). A write of CIPHER_MODE that changes APPROVED zeroises
every SA key, posts EV_MODE_CHANGE and is journaled; one that changes nothing, and one that sets APPROVED outside OPERATIONAL
or before commissioning, leaves all as it is. -/
def Obligations.CipherRegisterWritesComplete : Prop :=
  ∀ (secy : Fin 1024) (operator_ : Fin 16) (value : Word) (s : State), hasCipher s = true →
    (boundary s = 0 ∨ boundary s = 1) →
    let i := secy.val
    let a := field value 13 0
    (value.getLsbD 14 = true → saState s false a ≠ saEmpty → rdF s (rSa false a 0) 9 0 = i →
      Canon s →
      Lands (.secyTxCurWrite secy value) s fun t =>
        rd t (rTxCur i) = BitVec.ofNat 64 (2 ^ 14 + a) ∧
        saState t false a = (if saSpent s a then saExhausted else saCurrent) ∧
        (rdB s (rTxCur i) 14 = true → ∀ p, p = rdF s (rTxCur i) 13 0 → p ≠ a → saState s false p ≠ saEmpty →
          saState t false p = saLoaded) ∧
        t.ciph = s.ciph) ∧
    (value.getLsbD 14 = true → (saState s false a = saEmpty ∨ rdF s (rSa false a 0) 9 0 ≠ i) →
      exec (.secyTxCurWrite secy value) s = .next (irqEdge s s)) ∧
    (value.getLsbD 14 = false →
      let p := rdF s (rTxCur i) 13 0
      let u := if rdB s (rTxCur i) 14 = true ∧ saState s false p = saCurrent then setSaState s false p saLoaded else s
      exec (.secyTxCurWrite secy value) s = .next (irqEdge s
        (wr u (rTxCur i) ((rd s (rTxCur i) &&& ~~~ fieldMask 14 0) ||| (value &&& fieldMask 14 0))))) ∧
    (value.getLsbD 0 = true → ¬ (boundary s = 1 ∧ commissioned s = true) →
      exec (.cipherModeWrite operator_ value) s = .next (irqEdge s s)) ∧
    (value.getLsbD 0 ≠ approved s → (value.getLsbD 0 = true → boundary s = 1 ∧ commissioned s = true) →
      let u := setApproved (zeroAllSa s).1 (value.getLsbD 0)
      exec (.cipherModeWrite operator_ value) s = .next (irqEdge s (forceEvents s
        (journal (postHw u 0x0207 [(1, b2n (value.getLsbD 0)), (1, operator_.val)]) 0x0041 0x4000
          [(8, 0), (1, 5), (1, 0), (2, 0), (4, s.ciph.saKeys.length), (1, operator_.val)])))) ∧
    (value.getLsbD 0 = approved s → exec (.cipherModeWrite operator_ value) s = .next (irqEdge s s))

/-- A protected copy takes the next packet number of the current SA, which then stands one higher; its SecTAG holds the
EtherType 0x88E5 and the low 32 bits of that number. An SA that is EXHAUSTED protects nothing, and using the greatest number of
the suite makes it EXHAUSTED. -/
def Obligations.EveryProtectedCopyTakesANewPacketNumber : Prop :=
  ∀ (s t : State) (parity : Bool) (i : Nat) (o secure out : List Byte) (total limit restClear : Nat) (enc : Bool)
    (rest : Option (List Byte)) (clear : List Byte × Nat), Canon s →
    protect s parity i o secure total limit = (t, .prot out enc rest restClear clear) →
    ∃ a, currentSa s i = some a ∧ saState s false a ≠ saExhausted ∧
      rd t (rSa false a 0x10) = BitVec.ofNat 64 (saPn s false a + 1) ∧
      (saPn s false a = (if saXpn s false a then 2 ^ 64 - 1 else 2 ^ 32 - 1) → saState t false a = saExhausted) ∧
      (let k := min (afterTags o (syClear (secyRow s parity i))) o.length
       out.take k = o.take k ∧ slice out k 2 = [0x88#8, 0xE5#8] ∧ slice out (k + 4) 4 = beBytes 4 (saPn s false a % 2 ^ 32)) ∧
      t.tab0 = s.tab0 ∧ t.tab1 = s.tab1 ∧ t.path = s.path

/-- A frame that is accepted raises neither side of a receive SA's packet numbers backwards: its next number and its lowest
acceptable number only rise, the next number passes the frame's unless that is 2^64 - 1 (log entry 117), and every other SA
keeps its own. A frame below the lowest acceptable number of a SecY with replay protection is dropped and counted, whatever
its ICV. -/
def Obligations.ReplayProtectionHolds : Prop :=
  ∀ (s : State) (i a pn : Nat), Canon s → a < 16384 → pn < 2 ^ 64 - 1 →
    (let t := acceptPn s i a pn
     saPn s true a ≤ saPn t true a ∧ saLow s a ≤ saLow t a ∧ pn < saPn t true a ∧
       ∀ y, y ≠ a → saPn t true y = saPn s true y ∧ saLow t y = saLow s y) ∧
    (∀ (o plain : List Byte) (len : Nat) (early icv : Bool),
      let b := afterTags o (min (rdF s (rSecyCfg i) 25 24) 2)
      let g := secTagAt o b
      beAt o b 2 = 0x88E5 → badTag g len = false → sciOk s i o g = true → anMap s i (tagAn g) = some a →
      saState s true a ≠ saEmpty → saState s true a ≠ saRetired → cipherRuns s = true → rdB s (rSecyCfg i) 29 = true →
      recoverPn s a g.pn < saLow s a → rxCheck s i o len early icv plain = (bump s (rSecyCtr i 7), .drop))


-- Command-ring commands

/-- A doorbell by the ring's owner, taken modulo twice the ring size, that lies at most one ring size ahead of CR_HEAD and not
behind CR_TAIL moves CR_TAIL and gives the ring the slots it covers, and a program whose END they hold begins; any other sets
DB_ERR and posts EV_RING_DB_ERR, with CR_TAIL and the slots as they were. A write to a ring of another agent sets FOREIGN and
changes nothing of the ring. -/
def Obligations.DoorbellsMoveTheTail : Prop :=
  ∀ (ring : Fin 64) (w : DbWrite) (opcodes : List Nat) (s : State),
    let n := ring.val
    let v := w.value % 2 ^ 17 % (2 * ringSize s n)
    let k := ringDist s n (crTail s n) v
    (w.mp = true ∨ stHold ≤ devState s ∧ w.off = 0 ∧ (w.size = 8 ∨ w.size = 4)) →
    (ringOwner s n = (if w.mp then .mp else .host w.link) →
      (doorbellOk s n v = true →
        exec (.ringDoorbell ring w opcodes) s = .next (irqEdge s (startProgram
          (setRt (wrF s (rCrTail n) 16 0 v) n
            { rt s n with slots := (rt s n).slots ++ (opcodes ++ List.replicate k 0).take k }) n))) ∧
      (doorbellOk s n v = false →
        exec (.ringDoorbell ring w opcodes) s = .next (irqEdge s
          (postHw (wrB s (rCrStatus n) 3 true) 0x4903 [(1, n), (8, w.value)])))) ∧
    (ringOwner s n ≠ (if w.mp then .mp else .host w.link) → w.mp = false →
      exec (.ringDoorbell ring w opcodes) s = .next (irqEdge s (accessErr s w.link accForeign (n * 0x1000))))

/-- Writes of CR_CTRL and CQ_HEAD by the ring's owner, with no write waiting in the Write Gate: CQ_HEAD takes a value within the
window of R1163, which rearms the ring's vector and may clear CQ_FULL, and discards any other with DB_ERR; ENABLE 1 starts or
resumes the ring, ENABLE 0 suspends it, ABORT aborts its program and RESET resets it whatever else the write holds. Writes of
CR_CTRL are journaled. -/
def Obligations.RingRegisterWritesComplete : Prop :=
  ∀ (ring : Fin 64) (w : Who) (value : Word) (s : State),
    let n := ring.val
    ringOwner s n = (if w.mp then .mp else .host w.link) → (w.mp = true ∨ hostOk s w.link (rCrBase n) = true) →
    s.ctl.gateQ = [] → staged s < 960 →
    let a := perf { s with ctl := { s.ctl with gateIn := s.ctl.gateIn + 1 } } 40 0x0303 1
    let out (t : State) : State := { t with ctl := { t.ctl with gateOut := t.ctl.gateOut + 1 } }
    let h := value.toNat % 2 ^ 17
    let f (v : Word) : State := crCtrlFields a n v
    let on (v : Word) : State := startProgram (refreshFull (wrB (f v) (rCrCtrl n) 0 true) n) n
    let off (v : Word) : State := refreshFull (wrB (f v) (rCrCtrl n) 0 false) n
    (ringDist a n (cqHead a n) h ≤ ringDist a n (cqHead a n) (cqTail a n) →
      exec (.cqHeadWrite ring w value) s = .next (irqEdge s (out (refreshFull
        (setRt (wrF a (rCqHead n) 16 0 (h % (2 * ringSize a n))) n { rt a n with irqArmed := true }) n)))) ∧
    (ringDist a n (cqHead a n) (cqTail a n) < ringDist a n (cqHead a n) h →
      exec (.cqHeadWrite ring w value) s = .next (irqEdge s (out
        (postHw (wrB a (rCrStatus n) 3 true) 0x4903 [(1, n), (8, value.toNat)])))) ∧
    (value.getLsbD 1 = false → value.getLsbD 2 = false →
      exec (.crEnable ring w value) s = .next (irqEdge s
        (journal (out (on (value ||| 1#64))) 0x0011 0x0FFF [(8, 0), (4, rCrCtrl n), (8, (value ||| 1#64).toNat)])) ∧
      exec (.crDisable ring w value) s = .next (irqEdge s
        (journal (out (off (value &&& ~~~ 1#64))) 0x0011 0x0FFF [(8, 0), (4, rCrCtrl n), (8, (value &&& ~~~ 1#64).toNat)])) ∧
      exec (.crAbort ring w value) s = .next (irqEdge s
        (journal (out (ringAbort (if value.getLsbD 0 then on (value ||| 4#64) else off (value ||| 4#64)) n)) 0x0011 0x0FFF
          [(8, 0), (4, rCrCtrl n), (8, (value ||| 4#64).toNat)]))) ∧
    exec (.crReset ring w value) s = .next (irqEdge s
      (journal (out (ringReset (f (value ||| 2#64)) n)) 0x0011 0x0FFF [(8, 0), (4, rCrCtrl n), (8, (value ||| 2#64).toNat)]))

/-- A reset of a ring leaves CR_HEAD, CR_TAIL, CQ_HEAD and CQ_TAIL 0, ENABLE 0, STATE DISABLED and nothing held of the ring. A
galley it owns and has open is dropped; a pending one loses its owner. Accepted SASWs and a pending LOCKAT stay in place. A
ring that waits for no buffer takes no other ring with it. -/
def Obligations.AResetRingIsEmpty : Prop :=
  ∀ (s : State) (n : Nat), Canon s → n < 64 →
    let t := ringReset s n
    crHead t n = 0 ∧ crTail t n = 0 ∧ cqHead t n = 0 ∧ cqTail t n = 0 ∧ ringEnabled t n = false ∧
    ringState t n = rsDisabled ∧
    (galleyState s = gsOpen → galleyOwner s = n → (rt s n).waiting = none → galleyState t = gsNone ∧ t.forme.galley = []) ∧
    (galleyState s = gsPending → galleyOwner s = n → (rt s n).waiting = none → ownerGone t = true ∧
      t.forme.pendLock = s.forme.pendLock) ∧
    t.ctl.sasws.map (fun x => x.isn) = s.ctl.sasws.map (fun x => x.isn) ∧
    rt t n = {} ∧ ((∀ w, (rt s n).waiting = some w → w.opcode ≠ opPalloc) → ∀ k, k ≠ n → rt t k = rt s k)

/-- COMPLETION_RECORD_WRITE of a ring that CQ_ERR has not stopped and whose owner's function may master. While the completion
ring has room, the oldest record is written to the slot that CQ_TAIL names, in the owner's memory, with the phase bit of R70,
whatever the state of the ring; CQ_TAIL moves one on, that record alone leaves the ring, and no other ring and no register but
CQ_TAIL and CR_STATUS of the ring changes. While the completion ring is full, no record is written and none leaves; CQ_TAIL
stays, CQ_FULL is 1, and an enabled ring with no instruction in execution or waiting, that is not stopped, is in WAIT; no other
ring and no register but CR_STATUS of the ring changes. It rests on the model's own choices of log entry 81. -/
def Obligations.CompletionRecordsAreWrittenInOrder : Prop :=
  ∀ (ring : Fin 64) (s : State) (x : Rec) (l : List Rec),
    let n := ring.val
    let S := ringSize s n
    Canon s → (rt s n).records = x :: l → (rt s n).cqDead = false → busMaster s (ringOwner s n) = true →
    (cqFull s n = false → Lands (.completionRecordWrite ring) s fun t =>
      Output.memWrite (ringOwner s n) ((rd s (rCqBase n)).toNat + 16 * (cqTail s n % S))
        (leBytes 8 x.result ++ leBytes 6 x.isn ++ leBytes 1 x.status ++
          leBytes 1 (b2n (decide (cqTail s n % (2 * S) < S)) * 128 + x.opcode % 128)) ∈ t.out ∧
      cqTail t n = (cqTail s n + 1) % (2 * S) % 2 ^ 17 ∧ (rt t n).records = l ∧ (rt t n).slots = (rt s n).slots ∧
      (∀ k, k ≠ n → rt t k = rt s k) ∧ (∀ o, o ≠ rCqTail n → o ≠ rCrStatus n → rd t o = rd s o)) ∧
    (cqFull s n = true → Lands (.completionRecordWrite ring) s fun t =>
      (rt t n).records = x :: l ∧ rdB t (rCrStatus n) 4 = true ∧ cqTail t n = cqTail s n ∧
      (ringEnabled s n = true → (rt s n).waiting = none → ringState s n ≠ rsStopped → ringState s n ≠ rsResetting →
        ringState t n = rsWait) ∧
      (∀ k, k ≠ n → rt t k = rt s k) ∧ (∀ o, o ≠ rCrStatus n → rd t o = rd s o))

/-- A ring whose fetch or whose record write fails stops, with FETCH_ERR or CQ_ERR and its event; a completion ring that has
been full for more than 1 ms posts EV_CQ_STALL once. Which slot EV_RING_FETCH_ERR names is the model's own choice (log entry
95). -/
def Obligations.RingErrorsStopTheRing : Prop :=
  ∀ (ring : Fin 64) (s : State),
    let n := ring.val
    let stop (s : State) (b : Nat) : State := wrF (wrB s (rCrStatus n) b true) (rCrStatus n) 10 8 rsStopped
    n < 60 →
    (ringState s n ≠ rsStopped → ringEnabled s n = true → (rt s n).slots ≠ [] →
      exec (.ringFetchErr ring) s = .next (irqEdge s (postHw (stop s 1) 0x8901 [(1, n), (4, crHead s n % ringSize s n)]))) ∧
    ((rt s n).records ≠ [] → (rt s n).cqDead = false → cqFull s n = false →
      exec (.cqErr ring) s = .next (irqEdge s
        (postHw (stop (setRt s n { rt s n with cqDead := true }) 5) 0x8906 [(1, n), (4, cqTail s n)]))) ∧
    (∀ c, (rt s n).stallSince = some c → cqFull s n = true → c + 1600000 < s.cycle →
      ((rt s n).stallPosted = false →
        exec (.cqStall ring) s = .next (irqEdge s
          (postHw (setRt s n { rt s n with stallPosted := true }) 0x0905 [(1, n), (4, cqHead s n)]))) ∧
      ((rt s n).stallPosted = true → exec (.cqStall ring) s = .next (irqEdge s s)))


-- Direct writes and reads of registers

/-- A direct 8-byte write of a served register that no other agent owns, with the Write Gate empty and room in the journal,
passes the gate at once: it acts as regWrite gives, and a write that takes effect is journaled with its offset and value. A
write that waited in the gate acts, one that would be journaled only while the journal has room. The first write that
imposition or catch-up owes is made when its update slot and its Case banks are free, and else stays first. A write of several
registers writes each in order of address. A write of another size or across 64 bytes sets BAD_WRITE and changes no register
it names; one of an absent, unassigned or cipher register changes nothing. -/
def Obligations.DirectWritesPassTheGate : Prop :=
  ∀ (s : State) (link : Bool) (o : Nat) (v : Word) (env : WriteEnv),
    let w : BarWrite := hostWrite link o v
    let a := perf { s with ctl := { s.ctl with gateIn := s.ctl.gateIn + 1 } } 40 0x0303 1
    (∀ i u r, o % 8 = 0 → o < 2 ^ 26 → hostOk s link o = true → regInfo o = some i → ¬ (0x3000000 ≤ o ∧ o < 0x3800000) →
      foreignReg s w o = false → s.ctl.gateQ = [] → staged s < 960 →
      regWrite a (writeKey link o) (BitVec.allOnes 64) v env 0 id = (u, r) →
      let t := { u with ctl := { u.ctl with gateOut := u.ctl.gateOut + 1 } }
      exec (.registerWrite w env) s = .next (irqEdge s
        (if r = .took ∧ directJournals o (BitVec.allOnes 64) v = true then
          journal t 0x0011 0x0FFF [(8, 0), (4, o), (8, v.toNat)] else t))) ∧
    (o % 8 = 0 → (hostOk s link o = false ∨ regInfo o = none ∨ 0x3000000 ≤ o ∧ o < 0x3800000) →
      exec (.registerWrite w env) s = .next (irqEdge s s)) ∧
    (∀ b : BarWrite, tlpWrites b.offset b.data = none → b.mp = false → stSelftest ≤ devState s →
      (b.link = true → s.host.bifNow = true) →
      exec (.registerWrite b env) s = .next (irqEdge s (accessErr s b.link accBadWrite b.offset))) ∧
    (∀ (b : BarWrite) l, tlpWrites b.offset b.data = some l →
      exec (.registerWrite b env) s = .next (irqEdge s (l.foldl (fun s x => directReg s b env x.1 x.2.1 x.2.2) s))) ∧
    (∀ x l, s.forme.formeTodo = x :: l →
      (∀ t more, formeTake s x = some (t, more) →
        exec (.writeGateWrite true env) s = .next (irqEdge s (setTodo t (if more then x :: l else l)))) ∧
      (formeTake s x = none → exec (.writeGateWrite true env) s = .next (irqEdge s s))) ∧
    (∀ g l, s.ctl.gateQ = g :: l →
      let t : State := { s with ctl := { s.ctl with gateQ := l } }
      let j := directJournals (g.offset % 2 ^ 32) g.mask g.value
      (∀ u r, (j = false ∨ staged s < 960) → regWrite t g.offset g.mask g.value env 0 gateDrain = (u, r) →
        let v := { u with ctl := { u.ctl with gateOut := u.ctl.gateOut + 1 } }
        exec (.writeGateWrite false env) s = .next (irqEdge s
          (if r = .took ∧ j = true then
            journal v 0x0011 g.origin [(8, 0), (4, g.offset % 2 ^ 32), (8, (g.value &&& g.mask).toNat)] else v))) ∧
      (j = true → 960 ≤ staged s → exec (.writeGateWrite false env) s = .next (irqEdge s s)))

/-- Writes of DEV_CTRL, BOOT_CTRL, CLAVE_CTRL, MBX_CTRL, IRQ_CTRL and REC_CTRL that pass the gate do what their fields ask: a
keyed WARM_RESET from HOLD on resets warm, START takes HOLD to RUN with EV_START, a keyed SAVE starts a boot save, either with
another key sets KEY_ERR and does nothing else, CTRL_RESET resets every ring, GO on a busy channel sets GO_ERR and changes
nothing else of it, REARM raises the vector while the enabled summary is not 0, and RETRY of a degraded recorder overwrites
the failed store's slots, and when all verify restores it. The pattern it writes is free (log entry 6). -/
def Obligations.DeviceControlWritesComplete : Prop :=
  ∀ (s : State) (link : Bool) (v : Word), s.ctl.gateQ = [] → staged s < 960 →
    let a := perf { s with ctl := { s.ctl with gateIn := s.ctl.gateIn + 1 } } 40 0x0303 1
    let out (t : State) : State := { t with ctl := { t.ctl with gateOut := t.ctl.gateOut + 1 } }
    let took (o : Nat) (w : Word) (t : State) : State := journal (out t) 0x0011 0x0FFF [(8, 0), (4, o), (8, w.toNat)]
    (hostOk s link rDevCtrl = true → stHold ≤ devState s → v.getLsbD 1 = true → field v 63 32 = 0x5741524D →
      exec (.warmReset (hostWrite link rDevCtrl v)) s = .next (irqEdge s (took rDevCtrl v (warmReset a)))) ∧
    (hostOk s link rDevCtrl = true → v.getLsbD 1 = true → field v 63 32 ≠ 0x5741524D →
      exec (.warmReset (hostWrite link rDevCtrl v)) s = .next (irqEdge s (out (accessErr a link accKeyErr rDevCtrl)))) ∧
    (hostOk s link rDevCtrl = true → devState s = stHold → v.getLsbD 1 = false → v.getLsbD 0 = true →
      exec (.start (hostWrite link rDevCtrl v)) s = .next (irqEdge s (took rDevCtrl v
        ((List.range 256).foldl beginPort
          (postHw (wrF a rDevState 2 0 stRun) 0x0D01 [(1, 0), (4, msSinceReset s)]))))) ∧
    (hostOk s link rBootCtrl = true → v.getLsbD 0 = true → field v 63 32 = 0x53415645 →
      exec (.bootSave (hostWrite link rBootCtrl v)) s = .next (irqEdge s (took rBootCtrl v
        (saveStart { a with pwr := { a.pwr with nv := { a.pwr.nv with autoStart := v.getLsbD 1 } } })))) ∧
    (hostOk s link rBootCtrl = true → v.getLsbD 0 = true → field v 63 32 ≠ 0x53415645 →
      exec (.bootSave (hostWrite link rBootCtrl v)) s = .next (irqEdge s (out (accessErr a link accKeyErr rBootCtrl)))) ∧
    (hostOk s link rClaveCtrl = true → v.getLsbD 2 = true →
      exec (.ctrlReset (hostWrite link rClaveCtrl v)) s = .next (irqEdge s (took rClaveCtrl v
        (ringsReset (setClaveState (setClaveState (setClaveMode (plainWrite a rClaveCtrl (BitVec.allOnes 64) v) cmResetting) false 1) true 1)
          (fun _ => true))))) ∧
    (∀ c, c < 8 → hostOk s link (rMbxCtrl c) = true → mbxLink s c = link → v.getLsbD 0 = true → rdB s (rMbxStatus c) 1 = true →
      exec (.mbxGoBusy (hostWrite link (rMbxCtrl c) v)) s = .next (irqEdge s (out (wrB a (rMbxStatus c) 3 true)))) ∧
    (hostOk s link rIrqCtrl = true → v.getLsbD 0 = true →
      let b := plainWrite a (banked link rIrqCtrl) (BitVec.allOnes 64) v
      exec (.irqRearm (hostWrite link rIrqCtrl v)) s = .next (irqEdge s (took rIrqCtrl v
        (if rdB b (banked link rIrqCtrl) 36 = true ∧ summaryOn b link = true then
          raise b link (rdF b (banked link rIrqCtrl) 47 37) else b)))) ∧
    (hostOk s link rRecCtrl = true → recState s = 1 →
      let v := v ||| 0x10000#64
      let b := wrF (wrF a rRecCtrl 47 32 (field v 47 36 <<< 4 + field v 35 32)) rRecCtrl 15 0 (field v 15 0)
      let k := s.rcd.recFailed
      let b : State := { b with fresh := s.fresh + 1, rcd := { b.rcd with
        pattern := smSet (fun _ => 0) b.rcd.pattern k (s.fresh + 1)
        recs := b.rcd.recs.filter (fun x => x.1 / 2 ^ 20 ≠ k)
        recBadSlots := b.rcd.recBadSlots.filter (fun x => x / 2 ^ 20 ≠ k) } }
      exec (.recorderRetry link v true) s = .next (irqEdge s (took rRecCtrl v
        (wrB (wrF (putRecord b 3 (mkPosting b 0x0B05 0x4000 [(1, k), (4, storeSize k)])) rRecStatus 1 0 0) rRecStatus 3 false))) ∧
      exec (.recorderRetry link v false) s = .next (irqEdge s (took rRecCtrl v b)))

/-- A host's write that acts at once (HostWrites) is counted by the Write Gate, has its effect and, where it took effect, is
journaled. PORT_CFG.RESET takes the port down with cause 4 and begins its link again; ADMIN_DOWN from 0 takes it down with
cause 3, and a write that clears ADMIN_DOWN begins the port. OP_DOMAIN is written and SWITCH_PENDING says whether it differs
from the domain now in operation; OP_DOMAIN 1 without a Domain B changes and journals nothing. A storm meter takes its fields;
its level is brought up to date if BURST stays and starts anew if it changes. CORE_CTRL takes its fields, but a reserve some
tile cannot hold changes none of them, sets RESERVE_REJECT and posts its event. A Case seed is written while the Case holds no
entry and is else unchanged. A LEARN_FLUSH with SCOPE below 5 joins the requests while fewer than 16 of the host's wait, and
else is discarded with FLUSH_OVF; SCOPE 5 and up does nothing. FRAG_CTRL.FLUSH empties the fragment table; without FLUSH
nothing changes. -/
def Obligations.DataPathWritesComplete : Prop :=
  ∀ (s : State) (link : Bool) (port : Fin 256) (v : Word), Canon s →
    let p := port.val
    let a := gateTaken s
    let m := fieldMask 18 18 ||| fieldMask 13 0
    let cfg (w : Word) : State := wr a (rPortCfg p) ((rd a (rPortCfg p) &&& ~~~ m) ||| (w &&& m))
    let lifted (t : State) : State := if rdB s (rPortCfg p) 18 then beginPort t p else t
    (HostWrites s link (rPortCfg p) →
      (v.getLsbD 18 = false → let w := v ||| fieldMask 19 19
        exec (.portReset link port v) s = .next (irqEdge s (hostTook
          (beginPort (takeDown (lifted (cfg w)) p 4 false false) p) (rPortCfg p) w))) ∧
      (v.getLsbD 19 = false → let w := v ||| fieldMask 18 18
        exec (.adminDown link port v) s = .next (irqEdge s (hostTook
          (if rdB s (rPortCfg p) 18 then cfg w else takeDown (cfg w) p 3 true false) (rPortCfg p) w))) ∧
      (∀ (c : Instr) (w : Word),
        (c, w) ∈ [(.portReset link port v, v ||| fieldMask 19 19), (.adminDown link port v, v ||| fieldMask 18 18)] →
        w.getLsbD 18 = true → w.getLsbD 19 = true →
        let b := if rdB s (rPortCfg p) 18 then cfg w else takeDown (cfg w) p 3 true false
        exec c s = .next (irqEdge s (hostTook (beginPort (takeDown b p 4 false false) p) (rPortCfg p) w)))) ∧
    (HostWrites s link rTimeCtrl →
      ((v.getLsbD 0 = true → hasDomB s = true) →
        exec (.opDomainWrite link v) s = .next (irqEdge s (hostTook
          (wrB (wrB a rTimeCtrl 0 (v.getLsbD 0)) rTimeStatus 3 (decide (b2n (v.getLsbD 0) ≠ opDomain s))) rTimeCtrl v))) ∧
      (v.getLsbD 0 = true → hasDomB s = false → exec (.opDomainWrite link v) s = .next (irqEdge s (gateLeft a)))) ∧
    (∀ meter : Fin 3, HostWrites s link (rStorm p meter.val) →
      let k := fieldMask 63 48 ||| fieldMask 32 32 ||| fieldMask 25 0
      let old := rd a (rStorm p meter.val)
      exec (.stormMeterWrite link port meter v) s = .next (irqEdge s (hostTook (wr
        (if field old 63 48 = field v 63 48 then
          fixBucket a (kStorm p meter.val) (stormInc old) (stormBurst old * 2 ^ 32)
         else setBucket a (kStorm p meter.val) none) (rStorm p meter.val) ((old &&& ~~~ k) ||| (v &&& k)))
        (rStorm p meter.val) v))) ∧
    (HostWrites s link rCoreCtrl →
      let k := fieldMask 48 32 ||| fieldMask 29 12 ||| fieldMask 1 0
      (field v 48 32 = globalReserve s ∨ reserveFails a (field v 48 32) = none →
        exec (.globalReserveWrite link v) s = .next (irqEdge s (hostTook
          (wr a rCoreCtrl ((rd a rCoreCtrl &&& ~~~ k) ||| (v &&& k))) rCoreCtrl v))) ∧
      (∀ t, field v 48 32 ≠ globalReserve s → reserveFails a (field v 48 32) = some t →
        exec (.globalReserveWrite link v) s = .next (irqEdge s
          (gateLeft (postHw (wrB a rCoreStatus 1 true) 0x4608 [(4, field v 48 32), (1, t)]))))) ∧
    (∀ reg : Fin 4, HostWrites s link (rCaseSeed reg.val) →
      exec (.caseSeedWrite link reg v) s = .next (irqEdge s (
        if caseSlots s true + caseSlots s false = 0 then hostTook (wr a (rCaseSeed reg.val) v) (rCaseSeed reg.val) v
        else gateLeft a))) ∧
    (HostWrites s link rLearnFlush →
      let bd := if field v 38 36 = 4 then rdF s rLearnFlushKey 61 48 else field v 31 18
      let x : FlushReq := ⟨field v 38 36, field v 17 0, bd, rdF s rLearnFlushKey 47 0, true, s.learn.writes⟩
      exec (.learnFlush link v) s = .next (irqEdge s (
        if 5 ≤ field v 38 36 then gateLeft a
        else if (s.learn.flushQ.filter (fun q => q.host)).length < 16 then
          hostTook { a with learn := { a.learn with flushQ := a.learn.flushQ ++ [x] } } rLearnFlush v
        else gateLeft (wrB a rCaseStatus 62 true)))) ∧
    (HostWrites s link rFragCtrl → exec (.fragFlush link v) s = .next (irqEdge s (
      if v.getLsbD 0 then hostTook { a with path := { a.path with frags := [] } } rFragCtrl v else gateLeft a)))

/-- A host's write that acts at once (HostWrites) is counted by the Write Gate, has its effect and, where it took effect, is
journaled. ENABLE 1 of a stopped Peal schedule with a readable list and registers in range puts it into operation with its next
occurrence; a list that is short, unreadable or bad, or a register out of range, leaves it stopped with its error bit and event;
of one in operation it is discarded. ENABLE 0 stops it. MIRROR_SAMPLE takes its fields and its count begins at 0. An EVSEL takes
its writable bits; the value it had is kept for the events of this cycle, and every other register keeps its value. A pool is
enabled when R1030 holds and else sets CFG_ERR; of an enabled one ENABLE 1 is discarded, and ENABLE 0 disables it when it is
faulted or idle and else is discarded with DISABLE_REJECT. A frame ring's ENABLE 1 runs it; a receive ring's without an enabled
pool of its host's memory is discarded with RX_STATUS.FAULT; ENABLE 0 stops it. -/
def Obligations.ObservationAndPoolWritesComplete : Prop :=
  ∀ (s : State) (link : Bool) (v : Word), Canon s →
    let a := gateTaken s
    (∀ (j : Fin 16), let k := j.val
      HostWrites s link (rPeal k 0) →
      let m := fieldMask 63 63 ||| fieldMask 47 36 ||| fieldMask 22 16
      let merged (w : Word) : State := wr a (rPeal k 0) (setField ((rd a (rPeal k 0) &&& ~~~ m) ||| (w &&& m)) 63 63 0)
      let on := v ||| fieldMask 63 63
      let off := v &&& ~~~ fieldMask 63 63
      let b := merged on
      let failed (i : Nat) : State := postHw (wrB (wrB b (rPeal k 0) 63 false) (rPeal k 0x48) 1 true) 0x8E03 [(1, k), (1, 0), (8, i)]
      (pealEnabled s k = false →
        (∀ l : List Nat, let list := (l.take (field v 22 16)).map pealEntry
          (field v 22 16 ≤ l.length → (∀ x ∈ l.take (field v 22 16), pealEntryBad b x = false) →
            pealRegsBad b k (pealTotal list) = false →
            let c := setPeal (wrB b (rPeal k 0) 63 true) k
              { pealOf b k with list := list, seq := 0, passed := 0, sched := 0, held := false }
            exec (.pealEnable link j v (some l)) s = .next (irqEdge s (hostTook
              (wrB (setPealNext c k (pealFirst c k)) (rPeal k 0x48) 0 true) (rPeal k 0) on))) ∧
          ((l.length < field v 22 16 ∨ (∃ x ∈ l.take (field v 22 16), pealEntryBad b x = true) ∨
              pealRegsBad b k (pealTotal list) = true) →
            exec (.pealEnable link j v (some l)) s = .next (irqEdge s (hostTook
              (failed ((l.take (field v 22 16)).findIdx (pealEntryBad b))) (rPeal k 0) on)))) ∧
        exec (.pealEnable link j v none) s = .next (irqEdge s (hostTook (failed (rd b (rPeal k 0x20)).toNat) (rPeal k 0) on)) ∧
        exec (.pealDisable link j v) s = .next (irqEdge s (hostTook (merged off) (rPeal k 0) off))) ∧
      (pealEnabled s k = true →
        (∀ l, exec (.pealEnable link j v l) s = .next (irqEdge s (gateLeft a))) ∧
        exec (.pealDisable link j v) s = .next (irqEdge s (hostTook
          (wrB (wrB a (rPeal k 0) 63 false) (rPeal k 0x48) 0 false) (rPeal k 0) off)))) ∧
    (∀ j : Fin 16, HostWrites s link (rMirrorSample j.val) →
      let b := wr a (rMirrorSample j.val) ((rd a (rMirrorSample j.val) &&& ~~~ fieldMask 23 0) ||| (v &&& fieldMask 23 0))
      exec (.mirrorSampleWrite link j v) s = .next (irqEdge s (hostTook
        { b with mp := { b.mp with mirrorCount := smSet (fun _ => 0) b.mp.mirrorCount j.val 0 } } (rMirrorSample j.val) v))) ∧
    (∀ b i, b < 43 → i < 8 → let o := rPerf b (0x40 + 8 * i)
      HostWrites s link o →
      exec (.perfEvselWrite (hostWrite link o v)) s = .next (irqEdge s (hostTook (perfWrite a o (BitVec.allOnes 64) v) o v)) ∧
      rd (perfWrite a o (BitVec.allOnes 64) v) o
        = (rd a o &&& ~~~ fieldMask 15 0) ||| (v &&& fieldMask 15 0) ∧
      (∀ q, q ≠ o → rd (perfWrite a o (BitVec.allOnes 64) v) q = rd a q)) ∧
    (∀ j : Fin 16, let k := j.val
      HostWrites s link (rPoolCfg k) →
      let m := fieldMask 63 32 ||| fieldMask 20 0
      let merged (w : Word) : State := wr a (rPoolCfg k) (setField ((rd a (rPoolCfg k) &&& ~~~ m) ||| (w &&& m)) 63 63 0)
      let on := v ||| fieldMask 63 63
      let off := v &&& ~~~ fieldMask 63 63
      (poolEnabled s k = false →
        exec (.poolEnable link j v) s = .next (irqEdge s (hostTook
          (if poolCfgOk (merged on) k then poolEnable (merged on) k else wrB (merged on) (rPoolStatus k) 61 true)
          (rPoolCfg k) on)) ∧
        exec (.poolDisable link j v) s = .next (irqEdge s (hostTook (merged off) (rPoolCfg k) off))) ∧
      (poolEnabled s k = true →
        let free := poolFaulted s k = true ∨ poolFree s k = poolCount s k ∧ poolFifo s k = [] ∧ poolNamed s k = false
        (free → let c := wrB a (rPoolCfg k) 63 false
          exec (.poolDisable link j v) s = .next (irqEdge s (hostTook
            { c with pool := { c.pool with poolInit := smSet (fun _ => false) c.pool.poolInit k false } } (rPoolCfg k) off))) ∧
        (¬ free → exec (.poolDisable link j v) s = .next (irqEdge s (gateLeft (wrB a (rPoolStatus k) 60 true)))) ∧
        exec (.poolEnable link j v) s = .next (irqEdge s (gateLeft a)))) ∧
    (∀ ring : Fin 1024, let r := ring.val
      frameLink s r = link → ∀ (c : Instr) (tx : Bool),
        (c, tx) ∈ [(.rxRingEnable link ring v, false), (.txRingEnable link ring v, true)] → HostWrites s link (rFr tx r 8) →
        (v.getLsbD 0 = true →
          ((tx = true ∨ poolEnabled s (field v 35 32) = true ∧ poolRegion s (field v 35 32) = b2n link) →
            let b := wrB (frFields a tx r v) (rFr tx r 8) 0 true
            exec c s = .next (irqEdge s (hostTook
              (if rdB s (rFr tx r 8) 0 then b else wrF b (rFr tx r 0x20) 1 0 frRun) (rFr tx r 8) v))) ∧
          (tx = false → ¬ (poolEnabled s (field v 35 32) = true ∧ poolRegion s (field v 35 32) = b2n link) →
            exec c s = .next (irqEdge s (gateLeft (wrB a (rFr tx r 0x20) 8 true))))) ∧
        (v.getLsbD 0 = false →
          exec c s = .next (irqEdge s (hostTook
            (frFields (if rdB s (rFr tx r 8) 0 then frDisable a tx r else a) tx r v) (rFr tx r 8) v))))


/-- A read of 8 bytes of an assigned register over PF0 returns what the register shows after the function's earlier writes
have reached their targets, and clears its RS fields; an address that names none returns 0. Reading word 0 of operational
time captures word 1. A 4-byte read of a low half returns it and holds the upper half for the next read of the high half,
and clears no RS field. A read of up to 64 bytes over any function returns its registers in address order. A read of a doorbell
returns CR_TAIL of its ring. Any other form returns 0 and sets BAD_READ. It rests on the model's own choices of log entries 6,
65, 66, 83 and 93. -/
def Obligations.RegisterReadsComplete : Prop :=
  ∀ (s : State) (link : Bool) (o : Nat), o % 8 = 0 → stSelftest ≤ devState s → (link = true → s.host.bifNow = true) →
    let g := gateDrain s
    let drop (t : State) : State := { t with host := { t.host with latch := smDel (b2n link * 4) t.host.latch } }
    (∀ x, readTarget g 0 o = some x →
      exec (.rsRead ⟨link, 0, o, 8, false⟩) s = .next (irqEdge s
        (drop (emit (readEffect g link x).1 (.readData link o (readEffect g link x).2))))) ∧
    (readTarget g 0 o = none → exec (.rsRead ⟨link, 0, o, 8, false⟩) s = .next (irqEdge s (drop (emit g (.readData link o 0#64))))) ∧
    (readTarget g 0 rOpTime0 = some rOpTime0 →
      exec (.opTimeRead ⟨link, 0, rOpTime0, 8, false⟩) s = .next (irqEdge s (drop (emit
        (wr g rOpTime1 (BitVec.ofNat 64 (t128w1 (opTime g) g.clk.opGen)))
        (.readData link rOpTime0 (BitVec.ofNat 64 (secOf (opTime g)))))))) ∧
    (∀ d, d < 2 → readTarget g 0 (rDomTime0 d) = some (rDomTime0 d) →
      exec (.opTimeRead ⟨link, 0, rDomTime0 d, 8, false⟩) s = .next (irqEdge s (drop (emit
        (wr g (rDomTime1 d) (BitVec.ofNat 64 (t128w1 (domOf g d).t (domGen g d))))
        (.readData link (rDomTime0 d) (BitVec.ofNat 64 (secOf (domOf g d).t))))))) ∧
    (∀ i, readTarget g 0 o = some o → regInfo o = some i → i.rs = 0 → isTime0 o = false →
      let x := look g link o
      exec (.narrowReadLow ⟨link, 0, o, 4, false⟩) s = .next (irqEdge s
        (let t := emit x.1 (.readData link o (BitVec.ofNat 64 (x.2.toNat % 2 ^ 32)))
         { t with host := { t.host with latch := smIns (b2n link * 4) (o, x.2.toNat / 2 ^ 32) t.host.latch } })) ∧
      ∀ hi, smFind s.host.latch (b2n link * 4) = some (o, hi) →
        exec (.narrowReadLow ⟨link, 0, o + 4, 4, false⟩) s = .next (irqEdge s
          (drop (emit x.1 (.readData link (o + 4) (BitVec.ofNat 64 hi)))))) ∧
    (∀ r : BarRead, r.link = link → readWide r = true → r.bar2 = false →
      exec (.rsRead r) s = .next (irqEdge s (dropLatch ((List.range (r.size / 8)).foldl (fun t i =>
        let q := r.offset + 8 * i
        match readTarget t r.fn q with
        | none => emit t (.readData link q 0#64)
        | some x => emit (readEffect t link x).1 (.readData link q (readEffect t link x).2)) g) link r.fn))) ∧
    (∀ r : BarRead, r.link = link → r.bar2 = true →
      let tails := (List.range ((r.size + 7) / 8)).foldl (fun t i =>
        let q := r.offset + 8 * i
        emit t (.readData link q
          (if r.fn = 0 ∧ q % 0x1000 = 0 ∧ q / 0x1000 < 64 then BitVec.ofNat 64 (crTail t (q / 0x1000)) else 0#64))) s
      (readWide r = true → exec (.rsRead r) s = .next (irqEdge s tails)) ∧
      (readNarrow r = true → exec (.narrowReadLow r) s = .next (irqEdge s tails))) ∧
    (∀ r : BarRead, r.link = link → readWide r = false → readNarrow r = false → r.bar2 = false →
      exec (.bar0BadRead r) s = .next (irqEdge s (dropLatch
        (accessErr (emit s (.readData link r.offset 0#64)) link accBadRead r.offset) link r.fn)))

/-- A whole read of a register clears exactly its RS fields and changes no other register, but for word 1 of a time whose
word 0 it reads, and no other part of State but the model's own count of free values. It rests on the model's own choices of
log entries 6 and 83. -/
def Obligations.ReadsClearOnlyReadClearFields : Prop :=
  ∀ (s : State) (link : Bool) (o : Nat), Canon s →
    let t := (readEffect s link o).1
    (isTime0 o = false → o ≠ rPwrStatus → ∀ i, regInfo o = some i → i.rs ≠ 0 →
      rd t o = rd s o &&& ~~~ BitVec.ofNat 64 i.rs) ∧
    (isTime0 o = false → ∀ i, regInfo o = some i → i.rs = 0 → t.regs = s.regs) ∧
    (isTime0 o = false → ∀ q, q ≠ o → rd t q = rd s q) ∧
    (isTime0 o = true → ∀ q, q ≠ rOpTime1 → q ≠ rDomTime1 0 → q ≠ rDomTime1 1 → q ≠ rPpsInCap1 0 → q ≠ rPpsInCap1 1 →
      rd t q = rd s q) ∧
    t = { s with regs := t.regs, fresh := t.fresh }

/-- Events of a host link that exists. Link-down, or a fundamental reset of link 1, returns its three functions to their
reset state, resets its command rings, stops its frame rings and posts EV_HOST_LINK_DOWN; a function-level reset does so for
its own function; bus mastering follows its bit; unmasking an entry, and a link that comes up with MSI-X enabled, sends the
pending messages of the entries that are not masked; an uncorrectable error is
latched and posted; JTAG changes no state. It rests on the model's own choices of log entry 64. -/
def Obligations.HostLinkEventsComplete : Prop :=
  ∀ (s : State) (link : Bool), (link = true → s.host.bifNow = true) →
    (∀ cause : Fin 3, (cause.val = 2 ∨ hostLinkUp s link = true) → (cause.val = 2 → link = true) →
      exec (.hostLinkDown link cause) s = .next (irqEdge s (postHw (wrB
        (setLinkStatus (stopFrames (resetLinkRings (functionsReset s link) link) link) link false 0 0 false) rHostStatus 40 true)
        0x4C01 [(1, b2n link), (1, cause.val)]))) ∧
    (∀ (speed : Fin 7) (width : Fin 9) (flit m0 m1 : Bool), stSupervise ≤ devState s →
      let k := b2n link * 2
      let u := wrB (setLinkStatus s link true speed.val width.val flit) rHostStatus 40 true
      let u := { u with host := { u.host with
        msixEn := smSet (fun _ => false) (smSet (fun _ => false) u.host.msixEn k m0) (k + 1) m1 } }
      let d := [(1, b2n link), (1, speed.val), (1, width.val)]
      let v := postHw (msixFlush u link) 0x0C02 d
      exec (.hostLinkUp link speed width flit m0 m1) s = .next (irqEdge s
        (if speed.val < 6 ∨ width.val < (if s.host.bifNow then 4 else 8) then postHw v 0x4C03 d else v))) ∧
    (∀ reqs, exec (.flrPf0 link reqs) s = .next (irqEdge s (resetLinkRings (fnReset (setBusMaster
      (((List.range 8).filter (fun c => mbxLink s c == link)).foldl (fun s c => mbxAbort s reqs c) s) link false) link 0) link))) ∧
    exec (.flrPf1 link) s = .next (irqEdge s (stopFrames (fnReset s link 1) link)) ∧
    exec (.flrPf2 link) s = .next (irqEdge s (fnReset s link 2)) ∧
    exec (.busMasterDisable link) s = .next (irqEdge s (setBusMaster s link false)) ∧
    exec (.busMasterEnable link) s = .next (irqEdge s (setBusMaster s link true)) ∧
    (∀ (fn : Fin 2) (e : Fin 1536), (fn.val = 0 → e.val < 512) →
      let k := (b2n link * 2 + fn.val) * 4096 + e.val
      let u := { s with host := { s.host with msixMask := smSet (fun _ => true) s.host.msixMask k false } }
      exec (.msixUnmask link fn e) s = .next (irqEdge s (msixFlush u link))) ∧
    (let due := (s.host.msixPend.map (fun x => x.1)).filter (fun k => k / 4096 / 2 == b2n link
        && !smGet (fun _ => true) s.host.msixMask k && smGet (fun _ => false) s.host.msixEn (k / 4096))
     (msixFlush s link).out = (due.map (fun k => Output.msix link (k / 4096 % 2) (k % 4096))).reverse ++ s.out) ∧
    (∀ (fn : Fin 3) (status : Nat),
      let k := b2n link * 4 + fn.val
      let v := smGet (fun _ => 0) s.host.aer k ||| status % 2 ^ 32
      exec (.pcieUncorrError link fn status) s = .next (irqEdge s
        (postHw { s with host := { s.host with aer := smSet (fun _ => 0) s.host.aer k v } } 0x8C05
          [(1, b2n link), (1, fn.val), (4, v)]))) ∧
    (∀ die, exec (.jtagAccess die) s = .next (irqEdge s s))

/-- A reset of PF0 or PF1 disables its MSI-X, masks every entry of it and leaves nothing of it pending; one of PF2 touches no
vector; no reset of a function touches a vector of another. A vector of a function whose MSI-X is disabled sends nothing when
it is raised, and a masked one stays pending. -/
def Obligations.FunctionResetsMaskTheirVectors : Prop :=
  ∀ (s : State) (link : Bool) (fn e : Nat), fn < 3 → e < 4096 →
    let t := fnReset s link fn
    let k := b2n link * 2 + fn
    let mask (u : State) (q : Nat) : Bool := smGet (fun _ => true) u.host.msixMask (q * 4096 + e)
    let pend (u : State) (q : Nat) : Bool := smGet (fun _ => false) u.host.msixPend (q * 4096 + e)
    let en (u : State) (q : Nat) : Bool := smGet (fun _ => false) u.host.msixEn q
    (fn < 2 → mask t k = true ∧ pend t k = false) ∧
    (∀ q, fn = 2 ∨ q ≠ k → mask t q = mask s q ∧ pend t q = pend s q ∧ en t q = en s q) ∧
    t = { s with host := t.host } ∧
    (∀ v, v < 512 + 1536 →
      let f := if v < 512 then 0 else 1
      let j := b2n link * 2 + f
      let i := j * 4096 + (if v < 512 then v else v - 512)
      (en s j = false → raise s link v = s) ∧
      (en s j = true → smGet (fun _ => true) s.host.msixMask i = true →
        (raise s link v).out = s.out ∧ smGet (fun _ => false) (raise s link v).host.msixPend i = true) ∧
      (en s j = true → smGet (fun _ => true) s.host.msixMask i = false →
        raise s link v = emit s (.msix link f (if v < 512 then v else v - 512))))


-- Ports

/-- Events of a port that runs. A good frame is counted and enters stage 3; a frame with an error is counted and nothing
more; a PFC or PAUSE frame is consumed, counted and holds its classes or the port; an SMD error and an abandoned reassembly
bring no frame; a frame that ends after its early release gets its last octets, its copies with it; a hold whose end has come
ends; XOFF is sent when the class passes its threshold, again after its interval, and XON when it falls to it. It rests on the
model's own choices of log entries 34, 73, 90 and 118. -/
def Obligations.PortFramesAndFlowControlComplete : Prop :=
  ∀ (s : State) (port : Fin 256) (f : RxFrame),
    let p := port.val
    let m := mmCount (pcsCount s p f.pcs) p f.mac
    let t := perf (rxCount m p f) (8 + p / 8) 0x0201 1
    let early := arrivingFrame s p (rxPreempt m p f.mac)
    let w := setHdrWait t p false
    (portRuns s p = true →
      (mmEn m p = true → f.mac = .smdErr → exec (.frameReceive port f) s = .next (irqEdge s m)) ∧
      (∀ n, early = none → mmEn m p = true → f.mac = .abandoned n →
        exec (.frameReceive port f) s = .next (irqEdge s (setHdrWait m p false))) ∧
      ((mmEn m p = false ∨ f.mac = .plain ∨ ∃ n, f.mac = .assembled n) →
        (early = none →
          (rxClass (maxLen m p) f = 2 → beAt f.octets 12 2 ≠ 0x8808 →
            exec (.frameReceive port f) s = .next (irqEdge s (addFrame w
              (rxStamp w p f.rxTime { id := 0, octets := f.octets, port := p, firstPort := p, stage := .mac })))) ∧
          (rxClass (maxLen m p) f ≠ 2 → exec (.frameReceive port f) s = .next (irqEdge s w)) ∧
          (rxClass (maxLen m p) f = 2 → beAt f.octets 12 2 = 0x8808 → beAt f.octets 14 2 = 0x0101 →
            exec (.pfcFrameReceive port f) s = .next (irqEdge s (pfcAct w p f.octets))) ∧
          (rxClass (maxLen m p) f = 2 → beAt f.octets 12 2 = 0x8808 → beAt f.octets 14 2 = 0x0001 →
            exec (.pauseFrameReceive port f) s = .next (irqEdge s
              (let q := macAdd w p 8 1; if fcMode q p = 1 then holdBegin q p 8 (beAt f.octets 16 2) else q)))) ∧
        (∀ x, early = some x → x.learn = none → x.fragWait = none →
          (∀ g ∈ s.path.frames, g.port = p → g.receiving = true → g.mirrorOf = none) →
          let c := rxClass (maxLen m p) f
          let o := arrived x f
          let x := { x with
            octets := o, receiving := false, cells := cellsOf o.length, bad := x.bad.orElse (fun _ => stompCauseOf c) }
          let u := putFrame t x
          let v := setCopies u (u.path.copies.map (fun y => if y.frame = x.id then arriveTail y (sentBody u p c x o) else y))
          exec (.frameReceive port f) s = .next (irqEdge s (reapFrame
            ((v.path.copies.filter (fun y => y.frame = x.id)).foldl (fun v y => macNext v y.port) v) x.id))))) ∧
    (∀ c : Fin 9, let e := smGet (fun _ => 0) s.path.holds (p * 16 + c.val)
      e ≠ 0 → e ≤ s.cycle → exec (.pauseHoldExpire port c) s = .next (irqEdge s (macNext (holdEnd s p c.val) p))) ∧
    (∀ k : Fin 8, let c := k.val
      let u := accU s p c
      let adm := admRow s p (ingressClass s p c)
      let send (q : Nat) (on : Bool) (at_ : Nat) : State :=
        let v := setXoff (sendControl s p c q) p c on
        { v with path := { v.path with xoff := smSet (fun _ => 0) v.path.xoff (p * 16 + c) at_ } }
      let sent (q : Nat) (on : Bool) : State :=
        let v := setXoff (sendControl s p c q) p c on
        { v with path := { v.path with xoff := smSet (fun _ => 0) v.path.xoff (p * 16 + c) (v.cycle + 1) } }
      portRuns s p = true → fcGenerates s p c = true →
      (txXoff s p c = false → xoffThr adm < u →
        exec (.xoffSend port k) s = .next (irqEdge s (sent (txQuanta s p) true))) ∧
      (∀ last, txXoff s p c = true → smGet (fun _ => 0) s.path.xoff (p * 16 + c) = last + 1 →
        last + (txQuanta s p * 256 * 1600 + portRate s p - 1) / max (portRate s p) 1 ≤ s.cycle → xonThr adm < u →
        exec (.xoffRefresh port k) s = .next (irqEdge s (sent (txQuanta s p) true))) ∧
      (txXoff s p c = true → u ≤ xonThr adm → exec (.xonSend port k) s = .next (irqEdge s (send 0 false 0))))

/-- Link events of a port. A link that is up goes down with its cause and the port begins anew; on a port that runs with no
link the fault shows on its lanes, is counted, and it begins anew. LINK_UP of a port that runs, has no link and sends no PRBS
ends its negotiation: before LINK_UP_SETTLE has passed its settle time runs; after it the link is up, its PCS bits and hold
end, its liveness bit, PORT_EVENTS bit and lanes show it, EV_LINK_UP is posted with the time it was down, and preemption
verifies or is active as MM_CFG says. A hold that has run out flushes the port with cause 0, and its FDB entries if LINK_CFG
asks it. A negotiation that fails sets its status and event bits, posts 0x4106 with the abilities and begins anew. A
verification with three attempts made and the wait of the last one over fails, with its event; a response to one makes
preemption active. A link that comes up changes no table entry and no frame. -/
def Obligations.LinkEventsComplete : Prop :=
  ∀ (s : State) (port : Fin 256),
    let p := port.val
    let b := setSide (anComplete s p) p 2
    (∀ cause : Fin 3,
      (rdB s (rPortStatus p) 0 = true →
        exec (.linkDown port cause) s = .next (irqEdge s (beginPort (linkDown s p cause.val false false) p))) ∧
      (rdB s (rPortStatus p) 0 = false → portRunning s p = true →
        exec (.linkDown port cause) s = .next (irqEdge s (beginPort
          (faultCount (downSide (pcsState s p cause.val) p cause.val false) p cause.val) p)))) ∧
    (linkUpOk s p = true →
      (linkSettled b p = false → exec (.linkUp port) s = .next (irqEdge s (settleBegin b p))) ∧
      (Canon s → linkSettled b p = true → Lands (.linkUp port) s fun t =>
        rdB t (rPortStatus p) 0 = true ∧ rdB t (rPortStatus p) 11 = false ∧ rdF t (rPortStatus p) 10 8 = 1 ∧
        rdB t (rPortStatus p) 16 = false ∧ rdB t (rPortEvents p) 1 = true ∧ rdB t (rLsLive (p / 64)) (p % 64) = true ∧
        rdF t (rPortStatus p) 19 17 = (if mmEn s p then (if rdB s (rMmCfg p) 0 then 1 else 2) else rdF s (rPortStatus p) 19 17) ∧
        smGet (fun _ => 0) t.path.txSide p = 2 ∧
        (let u : State := { b with path := { b.path with settleAt := smSet (fun _ => 0) b.path.settleAt p 0 } }
         let u := wrF (wrB u (rPortStatus p) 0 true) (rPortStatus p) 10 8 1
         let u := wrB (wrB u (rPortStatus p) 16 false) (rPortEvents p) 1 true
         t.rcd = (postHw u 0x0102 [(2, p), (8, (s.cycle - smGet (fun _ => 0) s.path.linkDownAt p) / cyclesPerUs)]).rcd) ∧
        t.tab0 = s.tab0 ∧ t.tab1 = s.tab1 ∧ t.forme = s.forme ∧ t.path.frames = s.path.frames ∧
        t.path.copies.length = s.path.copies.length)) ∧
    (rdB s (rPortStatus p) 11 = true → rdB s (rPortStatus p) 0 = false → smGet (fun _ => 0) s.path.linkHold p ≤ s.cycle →
      let t := flushPort (wrB s (rPortStatus p) 11 false) p 0
      exec (.linkHoldExpire port) s = .next (irqEdge s (if rdB t (rLinkCfg p) 60 then flushFdb t p else t))) ∧
    (∀ abilities, devState s = stRun → portActive s p = true → portEn s p = true → anSet s p = true →
      rdB s (rPortStatus p) 0 = false → smGet (fun _ => false) s.path.anDone p = false →
      exec (.anFail port abilities) s = .next (irqEdge s (beginPort
        (postHw (wrB (wrB s (rPortStatus p) 16 true) (rPortEvents p) 6 true) 0x4106 [(2, p), (8, abilities)]) p))) ∧
    (rdB s (rPortStatus p) 0 = true → mmEn s p = true → rdF s (rPortStatus p) 19 18 = 1 →
      (3 ≤ (smGet (fun _ => (0, 0)) s.path.mmTry p).1 → verifyWaited s p = true →
        exec (.mmVerifyFail port) s = .next (irqEdge s
          (postHw (wrB (wrF s (rPortStatus p) 19 17 6) (rPortEvents p) 5 true) 0x4105 [(2, p)]))) ∧
      exec (.mmVerifyResponse port) s = .next (irqEdge s (wrF s (rPortStatus p) 19 17 5)))

/-- A port that goes down shows it: LINK_UP is 0, preemption is off, its liveness bit is 0, no XOFF stands, its PCS bits
show the cause, its transmit lanes go idle or silent, no copy is left in transmission on it and no frame still arrives from it.
With no hold its queues are empty too. It rests on the model's own choices of log entries 73 and 91. -/
def Obligations.ALinkThatGoesDownStopsItsPort : Prop :=
  ∀ (s : State) (p cause : Nat) (hold0 fdb : Bool), Canon s → p < 256 →
    let t := linkDown s p cause hold0 fdb
    rdB t (rPortStatus p) 0 = false ∧ rdF t (rPortStatus p) 19 17 = 0 ∧ rdF t (rPortStatus p) 39 32 = 0 ∧
    rdB t (rLsLive (p / 64)) (p % 64) = false ∧ rdB t (rPortEvents p) 0 = true ∧
    rdF t (rPortStatus p) 10 9 = (if cause = 1 then 1 else if cause = 2 then 2 else if cause = 3 then rdF s (rPortStatus p) 10 9
      else 0) ∧
    smGet (fun _ => 0) t.path.txSide p = (if hold0 = true ∧ cause ≠ 2 ∨ cause = 3 ∨ portEn s p = false ∨ rdB s (rPortCfg p) 18 = true ∨
      lanesIdle s p = true then 0 else if cause = 2 then 2 else 1) ∧
    (∀ c ∈ t.path.copies, c.port = p → c.stage = .mac → c.started = false) ∧ (∀ f ∈ t.path.frames, f.port = p → f.receiving = false) ∧
    (rdB t (rPortStatus p) 11 = true ∨ rdB s (rPortStatus p) 11 = rdB t (rPortStatus p) 11) ∧
    ((linkHoldMs s p = 0 ∨ hold0 = true) → ∀ c ∈ t.path.copies, c.port = p → c.stage = .hostWait) ∧
    (∀ q, q ≠ p → q < 256 → rd t (rPortStatus q) = rd s (rPortStatus q)) ∧
    t.tab0 = s.tab0 ∧ t.tab1 = s.tab1 ∧ t.ciph = s.ciph ∧ t.forme = s.forme


-- Pools and frames to and from the host

/-- Events of pools and frame rings. A pool whose initialisation ends serves its requests; a pool or ring whose memory fails
posts its event and stops; a frame with its buffers and its slots is written to the host; one that lacks either for
RX_WAIT_MAX is dropped under that cause; a doorbell that names a slot between the ring's two pointers moves its pointer,
another sets the ring's error; a run of descriptors of the ring whose turn it is that keeps the rules becomes a frame, and the
buffers it asks to free go to the arbitration point; one that does not is refused under cause 3; a frame that has left the
device, its buffers freed, is written back once. It rests on the model's own choices of log entries 49, 50 and 67. -/
def Obligations.HostFrameEventsComplete : Prop :=
  ∀ s : State,
    (∀ pool : Fin 16, let k := pool.val
      poolEnabled s k = true →
      (∀ addr, exec (.poolFault pool addr) s = .next (irqEdge s
        (postHw (wrB s (rPoolStatus k) 62 true) 0x8C24 [(1, k), (8, addr)]))) ∧
      (poolBusy s k = true →
        let u := { s with pool := { s.pool with poolInit := smSet (fun _ => false) s.pool.poolInit k false } }
        exec (.poolInitDone pool) s = .next (irqEdge s
          (poolRun (cacheSettle (emit u (.freeStore k (poolBase u k) (poolSize u k) (poolCount u k))) k 0) k)))) ∧
    (∀ copy x c l f, chainOf s copy = some x → findCopy s copy = some c → x.bufs = some l → findFrame s c.frame = some f →
      devState s = stRun → rxUp s x.ring = true → l.length ≤ rxSlots s x.ring →
      exec (.hostRxDeliver copy) s = .next (irqEdge s (rxWrite s x f c l))) ∧
    (∀ copy x c, chainOf s copy = some x → findCopy s copy = some c → c.waitSince + rxWaitMax s x.ring ≤ s.cycle →
      let drop (cause : Nat) : State :=
        let u := rxLost s x.ring cause
        rxDrop (postRateFrom u cyclesPerSec x.ring 0x4C23 (frOrigin false x.ring)
          [(2, x.ring), (1, cause), (4, rxLostCount u x.ring cause)]) x
      (x.bufs = none → exec (.rxWaitExpire copy) s = .next (irqEdge s (drop 0))) ∧
      (∀ l, x.bufs = some l → rxSlots s x.ring < l.length ∨ rxUp s x.ring = false →
        exec (.rxWaitExpire copy) s = .next (irqEdge s (drop 1)))) ∧
    (∀ (ring : Fin 1024) (link : Bool) (v : Nat), let r := ring.val
      v < 2 ^ 17 → stHold ≤ devState s → frameLink s r = link →
      let h := v % (2 * frSize s false r)
      let d := v % (2 * frSize s true r)
      (exec (.rxDoorbell ring ⟨false, link, 0, 8, v⟩) s = .next (irqEdge s
        (if frDist s false r (frHead s false r) h ≤ frDist s false r (frHead s false r) (frTail s false r) then
          frArm (wrF s (rFr false r 0x10) 16 0 h) false r
        else wrB s (rFr false r 0x20) 9 true))) ∧
      (exec (.txDoorbell ring ⟨false, link, 0, 8, v⟩) s = .next (irqEdge s
        (if frDist s true r (frHead s true r) (frTail s true r) ≤ frDist s true r (frHead s true r) d ∧
            frDist s true r (frHead s true r) d ≤ frSize s true r then
          frArm (wrF s (rFr true r 0x18) 16 0 d) true r
        else wrB s (rFr true r 0x20) 9 true)))) ∧
    (∀ (ring : Fin 1024) (descs : List (List Byte)) (octets : List Byte), let r := ring.val
      let run := runOf (descs.take (frDist s true r (txNext s r) (frTail s true r)))
      let u := { s with pool := { s.pool with txLast := smSet (fun _ => 1023) s.pool.txLast (b2n (frameLink s r)) r } }
      txServed s r = true → run ≠ [] →
      (runOk run = false → exec (.txFrameFetch ring descs octets) s = .next (irqEdge s (txTake u r run (some 3)))) ∧
      (runOk run = true →
        let d := run.headD []
        let o := slice octets 0 (sumBy run descBytes)
        let w3 := descWord d 3
        let w := txTake u r run none
        let frees := (run.filter (fun d => (descWord d 3).testBit 57)).map (fun d => (r, txNext s r, descWord d 0))
        exec (.txFrameFetch ring descs octets) s = .next (irqEdge s (addFrame
          { w with pool := { w.pool with txFree := w.pool.txFree ++ frees } }
          { id := 0, octets := o ++ leBytes 4 (crc32 o), port := 264, firstPort := 264, stage := .reentry,
            origin := some (r, txNext s r), txFlags := b2n (w3.testBit 60) + 2 * b2n (w3.testBit 59),
            txTag := bits (descWord d 2) 63 32, launch := if w3.testBit 58 then some (descWord d 1) else none })))) ∧
    (∀ (ring : Fin 1024) (first : Nat) (x : TxOut), let r := ring.val
      s.pool.txOut.find? (fun x => x.ring = r && x.first = first && !x.written) = some x → txGone s r first = true →
      (∀ y ∈ s.pool.txFree, y.1 = r → y.2.1 = first → False) →
      let u := emit s (.memWrite (.host (frameLink s r)) (x.addr + 24) (leBytes 8 (txW3 x)))
      exec (.txWriteBack ring first) s = .next (irqEdge s (frRaise (txAdvance { u with pool := { u.pool with
        txOut := u.pool.txOut.map (fun y => if y = x then { y with written := true } else y) } } r) true r))) ∧
    (∀ (ring : Fin 1024) (addr : Nat) (descs : List (List Byte)), let r := ring.val
      let fault (tx : Bool) (u : State) : State :=
        post (wrB (setFrState u tx r frStopped) (rFr tx r 0x20) 8 true) 0x8C25 (frOrigin tx r) [(1, b2n tx), (2, r), (8, addr)]
      let run := runOf (descs.take (frDist s true r (txNext s r) (frTail s true r)))
      (txServed s r = true → exec (.ringDmaFault true ring addr descs) s = .next (irqEdge s
        (fault true (if run.isEmpty then s else txTake s r run (some 4))))) ∧
      (∀ x l, s.pool.rx.find? (fun x => x.ring = r && x.bufs.isSome) = some x → x.bufs = some l →
        frState s false r = frRun → l.length ≤ rxSlots s r →
        exec (.ringDmaFault false ring addr descs) s = .next (irqEdge s (fault false (rxDrop s x)))))


-- The path of a frame

/-- The ingress side. A whole frame of a port with a receive SecY is checked in its turn, and goes on or is dropped as the
check says; an ICV decided late accepts the packet number, or stomps the frame; a frame the header gather releases in its
turn, whole or still arriving, passes stages 5 to 9, and one still arriving that finds no turn waits at the front of its
port; a frame too old in recirculation queues is removed, and counted and posted for each of their tiles; a waiting fragment
insert of 16 cycles is lost; a fragment entry whose hold has ended is gone. It rests on the model's own
choices of log entries 33, 34, 114 and 117. -/
def Obligations.IngressStagesComplete : Prop :=
  ∀ s : State,
    (∀ frame f i icvOk plain, findFrame s frame = some f → rxSecyOf s f.port f.octets = some i → beforeStage3 f = true →
      stage3Turn s f = true →
      let r := rxCheck s i f.octets (f.octets.length - 4) false icvOk plain
      let d := if f.port < 256 then perf r.1 (8 + f.port / 8) 0x0203 1 else r.1
      (r.2 = .drop → exec (.receiveSecyCheck frame icvOk plain) s = .next (irqEdge s (removeFrame r.1 frame))) ∧
      (∀ o dec, r.2 = .pass o dec →
        exec (.receiveSecyCheck frame icvOk plain) s = .next (irqEdge s (putFrame (if dec then d else r.1)
          { f with octets := o, stage := .clear, rxSecy := if dec then some i else none, decrypted := f.decrypted || dec }))) ∧
      (∀ o a pn strict tag, r.2 = .pending o a pn strict tag →
        exec (.receiveSecyCheck frame icvOk plain) s = .next (irqEdge s (putFrame d { f with
          octets := o, stage := .clear, rxSecy := some i, rxSa := a, rxPn := pn, rxStrict := strict, icvPending := true,
          decrypted := true, rxTag := some tag }))) ∧
      r.2 ≠ .whole ∧ (∀ o tag, r.2 ≠ .strip o tag)) ∧
    (∀ frame f, findFrame s frame = some f → f.icvPending = true → f.receiving = false → f.icvOf = none →
      let i := f.rxSecy.getD 0
      let g := { f with icvPending := false }
      exec (.stompIcvDecided frame true) s = .next (irqEdge s (reapFrame (settleLearn (putFrame
        (settleMirrors (acceptPn (rxOk s f.rxSa (cameWith f)) i f.rxSa f.rxPn) frame true) g) g true) frame)) ∧
      (f.rxStrict = true → exec (.stompIcvDecided frame false) s = .next (irqEdge s (icvFailed (settleLearn
        (putFrame (settleMirrors (rxNotValid s i f.rxSa f.rxPn) frame false) g) g false) { g with learn := none }))) ∧
      (f.rxStrict = false → exec (.stompIcvDecided frame false) s = .next (irqEdge s (reapFrame (settleLearn (putFrame
        (settleMirrors (acceptPn (wrapAdd s (rSa true f.rxSa 0x30) 48 1) i f.rxSa f.rxPn) frame true) g) g false) frame)))) ∧
    (∀ (g : Gather) id f, devState s = stRun → g.frame = some id → findFrame s id = some f → gatherReady s f = true →
      headerTurn s f = true →
      exec (.headerGatherRelease g) s = .next (irqEdge s
        (ingress (takeSlot s f) (withCharge s { f with len := f.octets.length }) (g.slipA, g.slipB) g.flipped))) ∧
    (∀ (g : Gather) a, devState s = stRun → g.frame = none → arriving s g = some a →
      (rxSecyOf s a.port a.octets = none → earlyFrame s a g.user = some (s, a)) ∧
      ∀ t f, earlyFrame s a g.user = some (t, f) → min f.len (gatherReach s g.port) ≤ f.octets.length →
        (headerTurn s f = true → exec (.headerGatherRelease g) s = .next (irqEdge s
          (ingress (addFrame (takeSlot t f) f) (withCharge s f) (g.slipA, g.slipB) g.flipped))) ∧
        (headerTurn s f = false → exec (.headerGatherRelease g) s = .next (irqEdge s (setHdrWait s f.port true)))) ∧
    (∀ frame f, findFrame s frame = some f → f.stamped = true → residencyMax s ≤ s.cycle - f.firstStamp →
      let queued := s.path.copies.filter (fun c => c.frame = frame && decide (256 ≤ c.port) && decide (c.port < 264)
        && (c.stage = .queued || c.stage = .egress || c.stage = .crossing))
      let tiles := if f.stage = .reentry ∧ 0 < f.pass then [ingressTile f.port]
        else (List.range 8).filter (fun t => queued.any (fun c => c.port = 256 + t))
      tiles ≠ [] →
      let u := queued.foldl dropCopy s
      let u := if f.stage = .reentry then removeFrame u frame else u
      exec (.recircAged frame) s = .next (irqEdge s (tiles.foldl (fun u t =>
        let v := tileCount u t 48
        postRate v cyclesPerMs t 0x4915 [(1, t), (4, (rd v (rTileCtr t 48)).toNat)]) u))) ∧
    (∀ r, s.path.fragQ.find? (fun r => decide (r.since + 16 ≤ s.cycle)) = some r →
      let t := r.pipe / 2
      let u := tileCount { s with path := { s.path with fragQ := s.path.fragQ.erase r } } t 5
      exec .fragInsertLost s = .next (irqEdge s
        (postRate u cyclesPerSec 0 0x4304 [(1, t), (4, (rd u (rTileCtr t 5)).toNat)]))) ∧
    (∀ x, s.path.frags.find? (fun e => decide (e.expire ≤ s.cycle)) = some x →
      exec .fragHoldExpire s = .next (irqEdge s
        { s with path := { s.path with frags := s.path.frags.filter (fun e => e.key ≠ x.key) } }))

/-- The core. An ingress tile of a shared core starts the first fetch at or after its pointer with its whole cohort; a
matching of the Rounds is kept for the slot four cycles ahead; a copy whose last cell has crossed is in the egress tile; a
staged copy reaches the deep store and the head of a deep segment comes back while the store is available; the last octet
lowers every charge of its frame, and the credit it paid too much comes back; a class that is eligible is credited, at most
once in 4 cycles; a bad frame is stomped at its end. It rests on the model's own choices of log entries 33, 46, 75 and 104. -/
def Obligations.CoreStagesComplete : Prop :=
  ∀ s : State,
    (∀ (tile : Fin 8) (plane : Fin 4) u c, let t := tile.val
      let p := plane.val
      voqMode s = false → sendBusy s t p = false →
      findFrom 8 (ptr s 2 p t) (fun u => (fetchOf s t p u).isSome && !recvBusy s u p) = some u → fetchOf s t p u = some c →
      let l := fetchCohort s t p c (fun v => !recvBusy s v p)
      let v := serveFetch s t p l c.frame
      let short := v.path.copies.find? (fun d => fetchWaits v t p d && tileOf d.port = u && shortCopy v d)
      (shortCopy s c = false ∨ short = none →
        exec (.sharedFetch tile plane) s = .next (irqEdge s (setPtr v 2 p t ((u + 1) % 8)))) ∧
      (∀ d, shortCopy s c = true → short = some d →
        let both (x : Nat) : Bool := (l.map (fun y => tileOf y.port)).contains x || !recvBusy v x p
        exec (.sharedFetch tile plane) s = .next (irqEdge s (setPtr
          (perf (serveFetch v t p (fetchCohort v t p d both) d.frame) t 0x0109 1) 2 p t ((u + 1) % 8))))) ∧
    (∀ plane : Fin 4, let p := plane.val
      let m := matching s p
      let u := m.grants.foldl (fun s x => setPtr s 0 p x.1 x.2) s
      let u := m.accepts.foldl (fun s x => setPtr s 1 p x.1 x.2) u
      let u := m.pairs.foldl (fun s x => setPtr s 3 p x.1 (1 - ptr s 3 p x.1)) u
      let pairs := m.pairs.map (fun x => (x.1, x.2, x.2.head?.elim false (fun v => presentsMc s p x.1 v)))
      voqMode s = true → (∀ m ∈ s.core.matchQ, m.plane = p → m.slot ≠ s.cycle + 4) →
        exec (.roundsMatch plane) s = .next (irqEdge s { u with core := { u.core with
          matchQ := u.core.matchQ ++ [{ plane := p, slot := u.cycle + 4, pairs := pairs }] } })) ∧
    (∀ copy c f, findCopy s copy = some c → (c.stage = .crossing ∨ c.cutting = true) → findFrame s c.frame = some f →
      f.complete = true → f.receiving = false → c.crossAt + cellsOf f.octets.length ≤ s.cycle → f.wroteAt < s.cycle →
      let late := c.launch.isSome && f.launch.elim false (launchBad s c.port)
      exec (.planeCrossing copy) s = .next (irqEdge s
        (if voqMode s = true ∧ late = true then bump (dropCopy (txCause s c.frame 2) c) (rLaunchDropped c.port)
         else if c.cutting = true then releaseCells (putCopy s { c with cutting := false }) c.frame
         else if voqMode s = true ∧ cutCopy s c = false then releaseCells (enterEgress s { c with stage := .egress }) c.frame
         else releaseCells (putCopy s { c with stage := .egress }) c.frame))) ∧
    (∀ (tile : Fin 8) c f, rdB s rCoreStatus 2 = true → findFrame s c.frame = some f → f.complete = true → f.receiving = false →
      s.path.copies.find? (fun c => c.stage = .staged && copyTile s c = tile.val) = some c →
      exec (.spillCopy tile) s = .next (irqEdge s
        (perf (releaseCells (putCopy s { c with stage := .deep }) c.frame) 42 0x0501 (c.charge + 1)))) ∧
    (∀ (tile : Fin 8) c, rdB s rCoreStatus 2 = true → refillHead s tile.val = some c →
      let u := perf (putCopy s { c with stage := .queued, region := 0 }) 42 0x0502 (c.charge + 1)
      let x := takeCells u tile.val c.charge
      let u := setFrames x.1 (x.1.path.frames.map (fun f =>
        if f.id = c.frame then { f with charge := c.charge, region := 0, cellIdx := x.2 } else f))
      let src := sourceIndex (copyPort s c)
      exec (.refill tile) s = .next (irqEdge s (settleSpill (refillOn u c.port src c.cls) c.port src c.cls))) ∧
    (∀ frame f, findFrame s frame = some f → f.complete = false → f.receiving = false → f.stage = .held →
      let n := cellsOf f.octets.length
      let s' := s.path.copies.foldl (fun s c =>
        if voqMode s ∧ c.frame = frame ∧ c.stage ≠ .queued ∧ c.stage ≠ .staged ∧ c.stage ≠ .deep ∧ c.port < 266 ∧ n < c.charge then
          setCredit s c.port c.cls (creditOf s c.port c.cls + (c.charge - n : Nat))
        else s) s
      let u := setCopies s' (s'.path.copies.map (fun c => if c.frame = frame then { c with charge := min c.charge n } else c))
      let l := u.core.holds.map (fun h => if h.frame = frame ∧ h.cells = 0 then { h with cells := n, wroteAt := s.cycle + 1 } else h)
      let v : State := { u with core := { u.core with holds := l } }
      exec (.lastOctetWritten frame) s = .next (irqEdge s (releaseCells (putFrame v { f with
        complete := true, cells := n, charge := min f.charge n, cellIdx := f.cellIdx.take n, wroteAt := s.cycle + 1 }) frame))) ∧
    (∀ (port : Fin 266) q, let p := port.val
      let img := schedRow s p
      let k := spCount img
      let elig (q : Nat) : Bool := creditEligible s p (classOfQueue s p q)
      let u := retagCredit s p
      let c := classOfQueue u p q
      let v := servedBy u 1 p k q
      let w := setCredit v p c (creditOf v p c + creditQuantum img)
      voqMode s = true → portPresent s p = true → vGet s (vKey 1 p 60) ≤ s.cycle →
      chooseQueue u 1 p k elig (committed u p) = some q →
      exec (.creditIssue port) s = .next (irqEdge s (vSet (vSet w (vKey 1 p 60) (w.cycle + 4)) (vKey 1 p 61)
        (vGet w (vKey 1 p 61) + 1)))) ∧
    (∀ frame f (cause : Fin 5), findFrame s frame = some f → f.stage = .held →
      (f.bad = some cause.val ∧ cause.val ≠ 3) ∨ (f.bad = none ∧ cause.val = 4) →
      exec (.stomp frame cause) s = .next (irqEdge s
        (if f.receiving then putFrame s { f with bad := some 4, learn := none } else stompFrame s f cause.val)))


/-- Selection and transmission. A port whose stream is free serves Q8 when it is eligible, else the queue the scheduler
chooses; a QT head past its launch time is dropped or marked late as LATE_POLICY says; a whole copy in the egress tile passes
stages 12 and 13 or is dropped there, a snare copy a search and stage 13, a mirror copy its slug and stage 13, each copy but a
mirror copy in its pipeline's turn; a copy that has left a front port is counted, sent and gone, one that has left a
recirculation port returns as a frame of one pass more, or as the last octets of one that had begun to return; the MP's frame
takes the line of P265, when that is free, and enters the recirculation path of tile T1. It rests on the model's own choices of
log entries 46, 113 and 120. -/
def Obligations.TransmitStagesComplete : Prop :=
  ∀ s : State,
    (∀ (port : Fin 266) (express : Bool), let p := port.val
      let img := schedRow s p
      let k := spCount img
      let elig (q : Nat) : Bool := (!mmActive s p || isExpress s p q == express) && queueEligible s p q
      let u := retagPort s p
      devState s = stRun → portPresent s p = true → streamFree s p express = true → lanesIdle s p = false →
      (∀ c, elig 8 = true → queueHead s p 8 = some c →
        exec (.schedulerSelect port express) s = .next (irqEdge s (serveQueue u p k 8 c))) ∧
      (∀ q c, elig 8 = false → chooseQueue u 0 p k elig (committed u p) = some q → queueHead s p q = some c →
        exec (.schedulerSelect port express) s = .next (irqEdge s (serveQueue u p k q c)))) ∧
    (∀ (port : Fin 266) c, let p := port.val
      queueHead s p 8 = some c → c.late = false → launchLate s p c = true →
      exec (.launchLate port) s = .next (irqEdge s
        (if rdB s (rPortTimeCfg p) 0 then launchCount (dropCopy (txCause (markSojourn s c) c.frame 2) c) p true
         else launchCount (putCopy s { c with late := true }) p false))) ∧
    (∀ copy c f secure flipped, findCopy s copy = some c → findFrame s c.frame = some f →
      let c := { c with parity := live s }
      egressReady s c = true → egressTurn s f c = true →
      (c.kind = 1 → f.receiving = false → exec (.egressPipeline copy secure flipped) s = .next (irqEdge s
        (stage13 (egressSearch (takeEgress s f c) (live s) f c false flipped).1 (live s) f c (bodyOf f) secure none))) ∧
      (let img := row s (live s) 0x511 (rdF s (rMirrorCfg c.reason) 60 49)
       let on := rdB s (rMirrorCfg c.reason) 62
       let o := if on then slugPush img f.flowHash (bodyOf f) else bodyOf f
       c.kind = 2 → f.receiving = false → exec (.egressPipeline copy secure flipped) s = .next (irqEdge s
         (if egressLimit s c.port < o.length + 4 ∧ on = true ∧ 0 < slugLen img then egressDrop s c
          else stage13 s (live s) f c o secure
            (if c.port < 264 ∧ hasCipher s = true then (txSecy s (live s) c.port none).2 else none)))) ∧
      (let r := stage12 s (live s) f c flipped
       let u := takeEgress r.s f c
       c.kind = 0 → (f.receiving = false ∨ r.mirror = 0 ∧ r.slug = false) →
        (r.octets = none → exec (.egressPipeline copy secure flipped) s = .next (irqEdge s
          (dropCopy (if r.mirror = 0 then u else mirrorMask u r.mirror f r.full f.decrypted) c))) ∧
        (∀ o, r.octets = some o → exec (.egressPipeline copy secure flipped) s = .next (irqEdge s
          (stage13 (if r.mirror = 0 then u
              else mirrorMask u r.mirror f r.full (f.decrypted || encrypts s (live s) r.secy o))
            (live s) f { c with tailCsum := r.csum } o secure r.secy))))) ∧
    (∀ copy c f (txTime : Nat), findCopy s copy = some c → findFrame s c.frame = some f → c.stage = .mac → c.started = true →
      c.cutting = false → c.preempted = false → f.receiving = false → f.complete = true → f.icvPending = false →
      f.bad = none → lanesIdle s c.port = false →
      let tx := ((txTime : Int) + tsAdj s c.port false).toNat
      let res : Option Int := if c.port < 256 ∧ rdB s (rPortTimeCfg c.port) 2 = true ∧ f.firstPort < 256 then
          some ((tx : Int) - f.rxTime - ((timeAt s (tsDomain s c.port) c.txAt).2 - f.rxStep)) else none
      let o := match c.ptp with
        | some a =>
          let x := c.clearPart.getD (c.out, c.out.length)
          (ptpCorrect x.1 a (f.txFlags.testBit 1) res tx).take x.2 ++ c.out.drop x.2
        | none => c.out
      let o := o ++ List.replicate (60 - o.length) 0
      let o := o ++ leBytes 4 (crc32 o)
      let u := txMark s f.id (fun x => { x with started := true, late := x.late || c.late })
      (256 ≤ c.port →
        (arrivingFrame s c.port false = none → exec (.frameTransmitEnd copy txTime) s = .next (irqEdge s
          (macNext (dropCopy (addFrame (setHdrWait u c.port false) (returned f c o)) c) c.port))) ∧
        (∀ x, arrivingFrame s c.port false = some x →
          let rx : RxFrame := { octets := o, fcsErr := false, codeErr := false, rxTime := 0
                                user := x.octets.drop (x.rxTag.elim 0 (fun a => a.1)) }
          exec (.frameTransmitEnd copy txTime) s = .next (irqEdge s
            (macNext (dropCopy (frameWhole u c.port 2 x rx) c) c.port)))) ∧
      (c.port < 256 →
        let v := lastFrag (txCount u c.port o (c.express && mmActive u c.port)) c (o.take (o.length - 4))
        exec (.frameTransmitEnd copy txTime) s = .next (irqEdge s (macNext
          (dropCopy (let w := emit v (.frameOut c.port o false)
            if f.txFlags.testBit 0 then tsqPut w f c tx else w) c) c.port)))) ∧
    (∀ octets flags tag launch, s.mp.mpUp = true → devState s = stRun → 60 ≤ octets.length → octets.length ≤ 16379 →
      mpLineFree s true = true →
      exec (.mpTransmit octets flags tag launch) s = .next (irqEdge s
        (addFrame (mpLineTake s true (octets.length + 4))
          { id := 0, octets := octets ++ leBytes 4 (crc32 octets), port := 265, firstPort := 265, stage := .reentry,
            txFlags := flags % 4, txTag := tag % 2 ^ 32, launch := launch, fromMp := true,
            rxTime := opTime s, rxGen := s.clk.opGen })))


-- Learning, the ASA, the Claves, the MP and maintenance

/-- The device's own housekeeping. Learning takes the next request after its pointer and the rebalancer its oldest; the age
clock moves every 100 ms; an entry whose age has reached its limit goes, and the oldest flush takes its entries; each of these
waits while a lookup uses a Case bank that it would write. In an update slot that is free for its banks an ASA copy makes its
oldest repair and leaves the entries as they are, and once in a slot the sweep takes its next row, or after its last row
begins anew and counts the sweep; in other cycles neither does anything. A lost shadow removes its entry; a Clave that detects
a fault yields, the standby going on at the same ISN; a disagreement is diagnosed; the MP sheds and restores its load by
steps; maintenance activities that conflict wait. It rests on the model's own choices of log entries 38, 40, 60 and 105. -/
def Obligations.HousekeepingCompletes : Prop :=
  ∀ s : State,
    (∀ t r rest, findFrom 8 s.learn.learnRr (fun t => !(smGet (fun _ => []) s.learn.learnQ t).isEmpty) = some t →
      smGet (fun _ => []) s.learn.learnQ t = r :: rest →
      let u := learnAct { s with learn := { s.learn with
        learnQ := smSet (fun _ => []) s.learn.learnQ t rest, learnRr := (t + 1) % 8 } } r false
      exec .learnOperation s = .next (irqEdge s (if caseOpen s u then u else s))) ∧
    (∀ r rest, s.learn.rebal = r :: rest →
      let u := learnAct { s with learn := { s.learn with rebal := rest } } r true
      exec .rebalancerRetry s = .next (irqEdge s (if caseOpen s u then u else s))) ∧
    (s.learn.ageAt + 100 * cyclesPerMs ≤ s.cycle → Lands .ageClockTick s fun t =>
      t.learn.ageClock = (s.learn.ageClock + 1) % 65536 ∧ t.learn.ageAt = s.learn.ageAt + 100 * cyclesPerMs ∧
      t.forme = s.forme ∧ t.regs = s.regs) ∧
    (∀ bd mac e, learnedFind s bd mac = some e → 0 < ageLimit s → ageLimit s ≤ ageOf s e →
      let u := learnRecord (removeEnt s e) 2 bd mac (entDest e) 0
      exec (.ageingRemoval bd mac) s = .next (irqEdge s (if caseOpen s u then u else s)) ∧ e ∉ u.forme.case) ∧
    (∀ q rest, s.learn.flushQ = q :: rest → caseBusyNow s = [] → Lands .flushComplete s fun t =>
      t.learn.flushQ = rest ∧ (∀ e, e ∈ t.forme.case ↔ e ∈ s.forme.case ∧ flushMatch q e = false)) ∧
    (∀ (copy : Fin 32) x q n, smGet (fun _ => []) s.forme.asaRepair copy.val = x :: q → updateSlot s.cycle = some n →
      fixOpen s n copy.val (pendingBanks s) (locBanks s x.1 x.2) = true → Lands (.asaRepair copy) s fun t =>
        t.forme.asaRepair = smSet (fun _ => []) s.forme.asaRepair copy.val q ∧ t.forme.asa = s.forme.asa) ∧
    (∀ n, Canon s → stLoad ≤ devState s → rdB s rAsaCtrl 0 = true → updateSlot s.cycle = some n → s.forme.sweepSlot ≠ n + 1 →
      (∀ c, badCells s c = []) → Lands (.asaSweep []) s fun t =>
        t.forme.asa = s.forme.asa ∧ t.forme.sweepSlot = n + 1 ∧
        (t.forme.sweepRow = s.forme.sweepRow + 1 ∧ t.regs = s.regs ∨
          t.forme.sweepRow = 0 ∧ rdF t rAsaStatus 31 0 = (rdF s rAsaStatus 31 0 + 1) % 2 ^ 32)) ∧
    (updateSlot s.cycle = none → ∀ (copy : Fin 32) l,
      exec (.asaRepair copy) s = .next (irqEdge s s) ∧ exec (.asaSweep l) s = .next (irqEdge s s)) ∧
    (∀ table loc, s.forme.asa.any (fun e => e.table = table && e.loc = loc) = true →
      exec (.asaShadowUe table loc) s = .next (irqEdge s (asaShadowLost s table loc)) ∧
      (asaShadowLost s table loc).forme.asa = s.forme.asa.filter (fun e => !(e.table = table && e.loc = loc))) ∧
    (∀ clave : Bool, claveRuns s clave = true →
      (∀ (cause : Fin 2) (reexec : Fin 9), exec (.claveFault clave cause reexec) s = .next (irqEdge s
        (claveYield s clave (cause.val + 1) reexec.val))) ∧
      (∀ n, n < 64 → ringState s n = rsRun → progress s = s.ctl.wdogKey → s.ctl.wdogAt + 4096 ≤ s.cycle →
        exec (.claveWatchdog clave) s = .next (irqEdge s (claveYield s clave 3 0))) ∧
      (smGet (fun _ => []) s.ctl.claveCorr (b2n clave) = [] → Canon s → Lands (.claveCorr clave) s fun t =>
        rdF t rClaveCorr (if clave then 63 else 31) (if clave then 32 else 0) =
          min (rdF s rClaveCorr (if clave then 63 else 31) (if clave then 32 else 0) + 1) (2 ^ 32 - 1) ∧
        t.ctl.active = s.ctl.active)) ∧
    (∀ c cause isn, s.ctl.claveWindow = some (c, cause, isn) →
      exec .handoverWindowClose s = .next (irqEdge s (postHw (journal
        (wrF { s with ctl := { s.ctl with claveWindow := none } } rClaveStatus 63 48 (min (rdF s rClaveStatus 63 48 + 1) 0xFFFF))
        0x0050 hwOrigin [(1, c), (1, cause), (8, isn)]) 0x8930 [(1, c), (1, cause), (8, isn)]))) ∧
    (∀ isn output, claveMode s = cmPairedA ∨ claveMode s = cmPairedB → claveState s false ≠ 2 → claveState s true ≠ 2 →
      exec (.claveMismatch isn output) s = .next (irqEdge s
        (postHw (setClaveMode { s with ctl := { s.ctl with diagIsn := isn } } cmDiagnosing) 0x4931 [(8, isn), (4, output)]))) ∧
    (∀ a b, claveMode s = cmDiagnosing → exec (.claveDiagEnd a b) s = .next (irqEdge s
      (if a && b then claveHalt (wr s rClaveLastCause (BitVec.ofNat 64 5)) 5
       else if a then claveYield s false 5 (s.ctl.isn - s.ctl.diagIsn)
       else if b then claveYield s true 5 (s.ctl.isn - s.ctl.diagIsn)
       else postHw (setClaveMode s cmUndecided) 0xC932 [(8, s.ctl.diagIsn)]))) ∧
    (∀ a b, exec (.claveSelftestEnd a b) s = .next (irqEdge s
      (if claveMode s = cmResetting then ctrlResetEnd s a b else claveReturn (claveReturn s false a) true b))) ∧
    (∀ clave, claveState s clave = 2 →
      (s.ctl.shadowCount + 1024 ≤ s.ctl.isn ∨ s.ctl.shadowSince + 100 * cyclesPerMs ≤ s.cycle) →
      exec (.shadowPeriodEnd clave) s = .next (irqEdge s
        (let u := setClaveState s clave 0
         if clave then u
         else postHw (journal { setClaveMode u cmPairedA with ctl := { u.ctl with active := false } } 0x0051 hwOrigin
           [(8, s.ctl.isn)]) 0x0933 [(8, s.ctl.isn - s.ctl.shadowCount)]))) ∧
    (s.mp.mpUp = true →
      (∀ reqs, exec (.mpWatchdog reqs) s = .next (irqEdge s (mpRestart s reqs)) ∧ (mpRestart s reqs).mp.mpUp = false) ∧
      (∀ cage : Fin 32, exec (.opticsAlarm cage) s = .next (irqEdge s (emit s (.opticsAlarm cage.val)))) ∧
      (∀ util, shedThreshold s < util → util ≤ 100 → shedStep s < 3 →
        (shedStep s = 0 ∨ s.mp.shedAt + 100 * cyclesPerMs ≤ s.cycle) →
        let u := wrF { s with mp := { s.mp with shedAt := s.cycle } } rMpStatus 63 56 util
        let v := if rdB u rMpStatus 0 then u else postHw (wrB u rMpStatus 0 true) 0x4A01 [(1, util)]
        exec (.mpShedStep util) s = .next (irqEdge s
          (postHw (wrF v rMpStatus 2 1 (shedStep v + 1)) 0x4A02 [(1, shedStep v + 1), (1, 0)]))) ∧
      (∀ util, util + 10 < shedThreshold s → 0 < shedStep s → s.mp.shedAt + 1000 * cyclesPerMs ≤ s.cycle →
        let u := wrF (wrF { s with mp := { s.mp with shedAt := s.cycle } } rMpStatus 63 56 util) rMpStatus 2 1 (shedStep s - 1)
        exec (.mpUnshedStep util) s = .next (irqEdge s
          (postHw (if shedStep s = 1 then wrB u rMpStatus 0 false else u) 0x4A02 [(1, shedStep s), (1, 1)])))) ∧
    (s.mp.mpUp = false → stTrain ≤ devState s → Lands .mpRestartComplete s fun t =>
      t.mp = { s.mp with mpUp := true } ∧ t.regs = s.regs) ∧
    (∀ (act : Fin 9) unit, let a := act.val
      (maintEnabled s a = true → maintPresent s a unit = true → rdB s rMaintCtrl (32 + a) = false →
        (maintBlock s a unit = none → exec (.maintRequest act unit) s = .next (irqEdge s (maintGrant s a unit))) ∧
        (∀ x, maintBlock s a unit = some x → exec (.maintRequest act unit) s = .next (irqEdge s (maintDefer (maintStatus
          { s with mp := { s.mp with maintQ := s.mp.maintQ ++ [{ act := a, unit := unit, since := s.cycle }] } })
          a unit x.act)))) ∧
      (∀ reason, s.mp.maintRun.any (fun x => x.act = a && x.unit = unit) = true →
        exec (.maintActivityEnd act unit false reason) s = .next (irqEdge s (maintEnd s a unit 0)) ∧
        (let u := if a = 6 then postHw (wrB s rErrStatus 9 true) 0x8D06 [(1, unit), (1, 0)] else s
         let u := { u with mp := { u.mp with maintRun := u.mp.maintRun.filter (fun x => !(x.act = a && x.unit = unit)) } }
         exec (.maintActivityEnd act unit true reason) s = .next (irqEdge s
           (maintStatus (maintDrain (postHw u 0x8A12 [(1, a), (4, unit), (4, reason)])))))) ∧
      (∀ x, s.mp.maintHeld.find? (fun x => x.act = a && x.unit = unit) = some x →
        x.since + holdMax s * cyclesPerMs ≤ s.cycle →
        exec (.holdMaxExpire act unit) s = .next (irqEdge s
          (maintAsk { s with mp := { s.mp with maintHeld := s.mp.maintHeld.erase x } } a unit true)))) ∧
    (∀ (unit : Fin 40) pass, hasCipher s = true → s.mp.maintRun.any (fun x => x.act = 7) = true →
      exec (.keySelftestPiece unit pass) s = .next (irqEdge s
        (if pass then s else postHw (testFails s 8) 0xC208 [(1, 8), (1, unit.val)]))) ∧
    (∀ test : Fin 2, stSelftest ≤ devState s →
      exec (.entropyTestFail test) s = .next (irqEdge s (postHw (testFails s 9) 0xC209 [(1, test.val)])))


-- Time and the recorder

/-- Time and the recorder. A requested domain switch is granted with its residual and ends when it is 0; a PPS edge is
captured, its loss and the reference's reported, a whole second pulses the output, and one message follows its edge; a record
drains from the TSQ whose turn it is unless the ring is full; a port's gates follow its list and take a pending one at its
change time; a servo's correction steps or slews its domain, a slew with a new frequency that nothing fixes; a due peal is
captured, fails or is held back by a QUOIN.C; the MP writes the oldest journal part, handles the oldest posting and closes the
oldest window; the hours cell takes the operating time, and a boot save ends. It rests on the model's own choices of log
entries 56, 57, 58 and 74. -/
def Obligations.TimeAndRecorderEventsComplete : Prop :=
  ∀ s : State,
    (rdB s rTimeStatus 3 = true → hasDomB s = true →
      let new := rdF s rTimeCtrl 0 0
      let r : Int := ((domOf s new).t : Int) - opTime s
      let u := wrB (wrB (wrF s rTimeStatus 0 0 new) rTimeStatus 2 true) rTimeStatus 3 false
      let v := { u with clk := { u.clk with resid := r, residRem := 0, switchStart := s.cycle } }
      exec .timeDomainSwitch s = .next (irqEdge s (postHw (wrB v rMaintStatus 8 true) 0x0805 [(1, new), (8, toTwos 64 r)]))) ∧
    (rdB s rTimeStatus 2 = true → s.clk.resid = 0 →
      let u := wrB (wrB s rTimeStatus 2 false) rMaintStatus 8 false
      exec .domainSwitchDone s = .next (irqEdge s (postHw u 0x0806
        [(1, rdF u rTimeStatus 0 0), (8, (s.cycle - s.clk.switchStart) / cyclesPerUs)]))) ∧
    (∀ i : Fin 2, (rd s (rPpsInCfg i.val)).getLsbD 63 = true →
      let c := rd s (rPpsInCfg i.val)
      let x := timeSel s (field c 57 56)
      let t := ((x.1 : Int) + signedOf 32 (field c 31 0)).toNat
      let u := wrB (wr (wr s (rPpsInCap0 i.val) (BitVec.ofNat 64 (secOf t))) (rPpsHidden i.val) (BitVec.ofNat 64 (t128w1 t x.2)))
        rTimeStatus (4 + i.val) false
      let w := { u with core := { u.core with ptrs := smSet (fun _ => 0) u.core.ptrs (9 * 2 ^ 16 + i.val) s.cycle } }
      exec (.ppsInEdge i) s = .next (irqEdge s (if c.getLsbD 61 then setTsq w (300 + i.val) (tsqOf w (300 + i.val) ++
          [{ t := t, gen := x.2, tag := 0, late := false, domain := domSel (field c 57 56), toMp := false, kind := 1 + i.val }])
        else w))) ∧
    (∀ i : Fin 2, rdB s (rPpsInCfg i.val) 63 = true → rdB s rTimeStatus (4 + i.val) = false →
      smGet (fun _ => 0) s.core.ptrs (9 * 2 ^ 16 + i.val) + 2400000000 ≤ s.cycle →
      exec (.ppsInLoss i) s = .next (irqEdge s (postHw (wrB s rTimeStatus (4 + i.val) true) 0x4808 [(1, i.val)]))) ∧
    (∀ i : Fin 2, let c := rd s (rPpsOutCfg i.val)
      c.getLsbD 63 = true →
      (((timeSel s (field c 57 56)).1 : Int) - signedOf 32 (field c 31 0)) % unitsPerSec < 2 * unitsPerCycle →
      smGet (fun _ => 0) s.core.ptrs (9 * 2 ^ 16 + 8 + i.val) ≠ (ppsSecond s i.val).toNat + 1 →
      let u := if i = 0 then { s with core := { s.core with
        ptrs := smSet (fun _ => 0) s.core.ptrs (9 * 2 ^ 16 + 16) (s.cycle + 1) } } else s
      exec (.ppsOutPulse i) s = .next (irqEdge s (emit { u with core := { u.core with
        ptrs := smSet (fun _ => 0) u.core.ptrs (9 * 2 ^ 16 + 8 + i.val) ((ppsSecond u i.val).toNat + 1) } }
        (.ppsPulse i.val (ppsWidth s i.val))))) ∧
    (rdB s rRefCfg 63 = true → rdB s rTimeStatus 6 = false →
      exec .refLoss s = .next (irqEdge s (postHw (wrB s rTimeStatus 6 true) 0x4809 []))) ∧
    (rdB s rTimeStatus 6 = true → exec .refReturn s = .next (irqEdge s (wrB s rTimeStatus 6 false))) ∧
    (∀ msg edge, rdB s rTodCfg 63 = true → rdB s (rPpsOutCfg 0) 63 = true → s.mp.mpUp = true →
      smGet (fun _ => 0) s.core.ptrs (9 * 2 ^ 16 + 16) = edge + 1 → edge + rdF s rTodCfg 51 32 * cyclesPerUs ≤ s.cycle →
      exec (.todTransmit msg) s = .next (irqEdge s (emit
        { s with core := { s.core with ptrs := smSet (fun _ => 0) s.core.ptrs (9 * 2 ^ 16 + 16) 0 } } (.tod msg)))) ∧
    (∀ msg, rdB s rTodCfg 62 = true → exec (.todReceive msg) s = .next (irqEdge s (emit s (.todToMp msg)))) ∧
    (∀ (mpRing : Bool) p e q, tsqNext s mpRing = some p → tsqOf s p = e :: q →
      let b := tsrBase mpRing
      let tail := rdF s (b + 0x18) 12 0
      smGet (fun _ => 0) s.core.ptrs (9 * 2 ^ 16 + 20) ≠ s.cycle + 1 →
      let u := setTsq (wrF (emit s (.memWrite (if mpRing then .mp else .host (globalLink s)) ((rd s b).toNat + 32 * (tail % 4096))
        (tsRecord e p (tail < 4096)))) (b + 0x18) 12 0 ((tail + 1) % 8192)) p q
      let u := { u with core := { u.core with
        tsqLostArmed := if q = [] then smSet (fun _ => true) u.core.tsqLostArmed p true else u.core.tsqLostArmed
        tsqRr := p, ptrs := smSet (fun _ => 0) u.core.ptrs (9 * 2 ^ 16 + 20) (u.cycle + 1) } }
      exec (.timestampRecordWrite mpRing) s = .next (irqEdge s
        (if mpRing = false ∧ u.core.tsrIrqArmed = true ∧ rdB u rTsrCtrl 36 = true then
          raiseReg { u with core := { u.core with tsrIrqArmed := false } } (globalLink u) rTsrCtrl else u))) ∧
    (∀ port : Fin 256, exec (.gateEntryStart port) s = .next (irqEdge s (gateRefresh s port.val)) ∧
      (rdB s (rGateStatus port.val) 62 = true → smGet (fun _ => 0) s.core.gateChange port.val ≤ opNs s →
        exec (.gateListChange port) s = .next (irqEdge s (gateTake s port.val)))) ∧
    (∀ (domain : Fin 2) (offset : Int) (state : Fin 5), let d := domain.val
      rdB s (rDomCtrl d) 63 = true → s.mp.mpUp = true → (d = 0 ∨ hasDomB s = true) →
      let u := servoState (wr s (rDomOffset d) (BitVec.ofNat 64 (toTwos 64 offset))) d state.val
      let thr := rdF u (rDomCtrl d) 31 0
      let step := !smGet (fun _ => false) s.clk.servoFirst d || (decide (thr ≠ 0) && decide (thr * 65536 < offset.natAbs))
      let v := { u with clk := { u.clk with servoFirst := smSet (fun _ => false) u.clk.servoFirst d true } }
      let noted (w : State) (mode : Nat) (amount : Int) : State := journal (takeIsn w) 0x0030 (ringOrigin 60)
        [(8, w.ctl.isn), (1, d), (1, mode), (8, toTwos 64 amount)]
      (offset = 0 → exec (.servoUpdate domain offset state) s = .next (irqEdge s v)) ∧
      (offset ≠ 0 → step = true →
        exec (.servoUpdate domain offset state) s = .next (irqEdge s (noted (stepDomain v d (-offset)) 0 (-offset)))) ∧
      (offset ≠ 0 → step = false →
        let w := noted (slewDomain v d (-offset)) 1 (-offset)
        let ppb : Int := ((Config.freeValue w.fresh).toNat % 65536000001 : Nat) - 32768000000
        exec (.servoUpdate domain offset state) s = .next (irqEdge s
          (noted (wr { w with fresh := w.fresh + 1 } (rDomFreq d) (BitVec.ofNat 64 (toTwos 64 ppb))) 2 ppb)))) ∧
    (∀ k : Fin 16, pealDue s k.val = true →
      (captureFree s 64 = true → exec (.pealCapture k) s = .next (irqEdge s (pealCapture s k.val none)) ∧
        (∀ addr, pealFull s k.val = false →
          exec (.pealFault k addr) s = .next (irqEdge s (pealCapture s k.val (some addr))))) ∧
      (captureFree s 64 = false → exec (.pealCapture k) s = .next (irqEdge s (pealHold s)))) ∧
    (s.mp.mpUp = true → recState s ≠ 3 → ∀ (ok1 : Bool) (retry : Fin 3),
      let ok2 := decide (retry.val = 0)
      let col := decide (retry.val < 2)
      (∀ p q, s.rcd.jrQ = p :: q → exec (.recordWrite true ok1 retry) s = .next (irqEdge s
        (writeTo { s with rcd := { s.rcd with jrQ := q } } 1 (markLate s p) ok1 ok2 col))) ∧
      (∀ p q, s.rcd.evQ = p :: q →
        let u := handleEvent { s with rcd := { s.rcd with evQ := q } } (markLate s p) ok1 ok2 col
        let d := (rd u rRecDrop).toNat
        (d = u.rcd.dropsReported → exec (.recordWrite false ok1 retry) s = .next (irqEdge s u)) ∧
        (d ≠ u.rcd.dropsReported →
          let v := writeTo u 0 (mkPosting u 0x4B02 hwOrigin [(4, d - u.rcd.dropsReported)]) ok1 ok2 col
          exec (.recordWrite false ok1 retry) s = .next (irqEdge s
            { v with rcd := { v.rcd with dropsReported := d } })))) ∧
    (∀ w ws, s.rcd.windows = w :: ws → w.opened + coalesceCycles s ≤ s.cycle → s.mp.mpUp = true →
      exec .coalesceWindowClose s = .next (irqEdge s
        (closeWindow { s with rcd := { s.rcd with windows := ws } } w true true true))) ∧
    (stSupervise ≤ devState s → s.rcd.hoursCell + 60 * cyclesPerSec ≤ s.rcd.opCycles →
      exec .hoursCellWrite s = .next (irqEdge s { s with rcd := { s.rcd with hoursCell := s.rcd.opCycles } })) ∧
    (∀ k fail, s.pwr.bootSaving = some k →
      exec (.bootSaveEnd fail) s = .next (irqEdge s (if fail then saveFails s else saveDone s k)))


-- Power, start-up, zeroisation and memory errors

/-- Power and start-up. Each step of the start moves DEV_STATE on and does its work; a check that stops it latches its
cause; a shutdown or a rail fault takes the device to OFF; RESET_N of 1 µs, or of 100 ns where it is taken, and a fundamental
reset restart it from SUPERVISE with their cause; ZEROISE_N of 10 µs, or of 1 µs where it is taken, the mesh, two mismatches of
a board loop, a lost VKEEP and a TAMPER_SEL that differs zeroise; a zeroised store holds no key, no KEK and no operator; a
memory error of a unit the device has is counted and acts on its instance, and a cell of a second error is retired once
no frame holds it. It rests on the model's own choices of log entries 68, 69, 72 and 79. -/
def Obligations.PowerAndStartupComplete : Prop :=
  ∀ s : State,
    (∀ cycled, devState s = stOff → (s.pwr.latch = 0 ∨ cycled = true) →
      let u := cipherStored (restart s true)
      let u := { u with pwr := { u.pwr with latch := 0, fault := false, pwrEn := true, vinOk := true } }
      exec (.powerOn cycled) s = .next (irqEdge s (wrF (setResetCause (setDevState u stPower) 0) rFaultCause 11 8 s.pwr.latch))) ∧
    (∀ pcycleOk, devState s = stPower →
      let u := resumeCounts (setDevState { s with pwr := { s.pwr with pg := true } } stSupervise) pcycleOk
      let prev := rdF u rFaultCause 11 8
      exec (.supervise pcycleOk) s = .next (irqEdge s (postPending (if prev = 0 then u else postHw u 0xCD0B [(1, prev)])))) ∧
    (s.pwr.stopped = false →
      (∀ repaired fail fwA fwB ca cb, devState s = stSupervise →
        exec (.selftest repaired fail fwA fwB ca cb) s = .next (irqEdge s (claveStart (fwSelect (boundaryStart
          (wrB (setDevState s stSelftest) rErrStatus 2 repaired) fail) fwA fwB) ca cb))) ∧
      (∀ decayed s0 s1 decay, devState s = stSelftest →
        let u := recScan (setDevState s stLoad) decayed
        let u := drawSeeds { u with mp := { u.mp with mpUp := true } }
        exec (.load decayed s0 s1 decay) s = .next (irqEdge s
          (takeMode (bootLoad u s0 s1 decay)))) ∧
      (∀ k0 k1 octets, devState s = stLoad →
        let u := setDevState { s with mp := { s.mp with hbmTemp := [] } } stTrain
        let u := if hasDeep u && k0 then stackFault u 0 else u
        let u := if hasDeep u && k1 then stackFault u 1 else u
        let u := wrB u rCoreStatus 2 (hasDeep u && !k0 && !k1)
        let u := if hasDeep u && (k0 || k1) then
          postHw { u with core := { u.core with deepDownAt := u.cycle } } 0x4605 [(1, 1)] else u
        exec (.train k0 k1 octets) s = .next (irqEdge s
          ((octets.filter (fun n => tilePresent u (n.val / 4))).foldl (fun s n => octetFault s n.val) u))) ∧
      (devState s = stTrain →
        let u := setDevState { s with pwr := { s.pwr with ready := true } } stHold
        exec .hold s = .next (irqEdge s (if u.pwr.nv.autoStart && rdB u rDevState 8 then startRun u 1 else u))) ∧
      (∀ (cause : Fin 3) memory, devState s = (if cause.val = 0 then stSupervise else stSelftest) →
        exec (.startStop cause memory) s = .next (irqEdge s (startStop (fun s => recScan s [])
          (if cause.val = 2 then postHw (testFails s 3) 0xC208 [(1, 3), (1, 0)] else s) (cause.val + 2) memory)))) ∧
    (stSupervise ≤ devState s →
      (∀ lowNs taken, (1000 ≤ lowNs ∨ 100 ≤ lowNs ∧ taken = true) →
        exec (.resetN lowNs taken) s = .next (irqEdge s (resetInto s 1 0))) ∧
      exec .hostFundamentalReset s = .next (irqEdge s (resetInto s 2 0)) ∧
      (∀ (sensor : Fin 24) temp, let t := thermRefresh (wrF s (rTemp sensor.val) 15 0 temp.toNat)
        exec (.thermWarn sensor temp) s = .next (irqEdge s
          (if absentOff s (rTemp sensor.val) then s
           else if sensor.val = 18 ∨ sensor.val = 19 then hbmSample t (sensor.val - 18) temp.toNat else t)))) ∧
    (stOff < devState s → ∀ thermal,
      exec (.railFault thermal) s = .next (irqEdge s
        (powerOff { s with pwr := { s.pwr with latch := if thermal then 7 else 1 } }))) ∧
    (∀ vinLost,
      let u := if stSupervise ≤ devState s then
          (let u := closeAllWindows s; { u with rcd := { u.rcd with hoursCell := u.rcd.opCycles } }) else s
      let u := if devState u = stOff then u else powerOff u
      exec (.shutdown vinLost) s = .next (irqEdge s
        (if vinLost then { u with pwr := { u.pwr with vinOk := false } } else { u with pwr := { u.pwr with pwrEn := false } }))) ∧
    (∀ lowNs taken, (10000 ≤ lowNs ∨ 1000 ≤ lowNs ∧ taken = true) → exec (.zeroiseN lowNs taken) s = .next (irqEdge s (zeroise s 2 2))) ∧
    exec .tamperMesh s = .next (irqEdge s (zeroise s 0 3)) ∧
    (∀ (loop : Fin 2) (mismatch : Bool), s.pwr.tamperSel = true →
      let n := if mismatch then smGet (fun _ => 0) s.ciph.loopMiss loop.val + 1 else 0
      let u := { s with ciph := { s.ciph with
        loopMiss := smSet (fun _ => 0) s.ciph.loopMiss loop.val (if n = 2 then 0 else n) } }
      exec (.boardLoop loop mismatch) s = .next (irqEdge s (if n = 2 then zeroise u 1 3 else u))) ∧
    (s.pwr.vinOk = false → let z := zeroise s 3 4
      exec .vkeepLoss s = .next (irqEdge s { z with pwr := { z.pwr with fault := false } })) ∧
    (let z := zeroStore s 1 0
     z.1.ciph.saKeys = [] ∧ z.1.ciph.keks = [] ∧ z.1.ciph.operators = []) ∧
    (∀ level, let u := { s with pwr := { s.pwr with tamperSel := level } }
      exec (.tamperSelChange level) s = .next (irqEdge s
        (if s.pwr.nv.commissioned && level ≠ s.pwr.nv.tamperSel then zeroise u 1 3 else u))) ∧
    (stSelftest ≤ devState s →
      (∀ unit, memPresent s unit = true → exec (.memCe unit none) s = .next (irqEdge s (ceRate (countCe s) unit))) ∧
      (∀ (tile : Fin 8) (cell : Fin 65536), tilePresent s tile.val = true →
        let u := ceRate (countCe s) (.slice tile)
        tilePresent u tile.val = true ∧
          exec (.memCe (.slice tile) (some cell)) s = .next (irqEdge s (ceCell u tile.val cell.val))) ∧
      (∀ site, let u := wrB (countUe s) rErrStatus 11 true
        let e := ueEffect u site
        uePresent s site = true → exec (.memUe site) s = .next (irqEdge s
          (if e.2 then e.1 else postRate e.1 cyclesPerSec (ueName site).1 0x8D08 [(4, (ueName site).1), (4, (ueName site).2)])))) ∧
    (∀ (tile : Fin 8) (cell : Fin 65536), let n := retiredCells s tile.val
      smGet (fun _ => 0) s.pwr.retired (cellKey tile.val cell.val) = 1 → n < 1024 →
      (∀ f ∈ s.path.frames, ingressTile f.port = tile.val → cell.val ∉ f.cellIdx) →
      let u := { s with pwr := { s.pwr with retired := smSet (fun _ => 0) s.pwr.retired (cellKey tile.val cell.val) 2 } }
      exec (.cellRetire tile cell) s = .next (irqEdge s
        (postHw (wrF u (rCellsRetired tile.val) 10 0 (n + 1)) 0x0D09 [(1, tile.val), (4, cell.val), (2, n + 1)])))

/-- A power loss leaves the device OFF, with its frames, rings, formes, tables and counters as after reset, the installed
KEKs, the operators, the non-volatile store, the hours cell and the records outside the volatile ring kept, and nothing
queued for the recorder. A cold or zeroise reset does so too, into SUPERVISE with its cause; the core mode it had stays
known until LOAD; every other register it does not keep or restore reads its reset value. It rests on the model's own
choices of log entries 1, 71 and 82. -/
def Obligations.ResetsKeepWhatTheSpecKeeps : Prop :=
  ∀ s : State, Canon s →
    (let t := powerOff s
     devState t = stOff ∧ t.path = State.reset.path ∧ t.ctl = State.reset.ctl ∧ t.forme = State.reset.forme ∧
     t.tab0 = [] ∧ t.tab1 = [] ∧ t.ctrs = [] ∧ t.ciph.keks = s.ciph.keks ∧ t.ciph.operators = s.ciph.operators ∧
     t.pwr.nv = s.pwr.nv ∧ t.rcd.evQ = [] ∧ t.rcd.jrQ = [] ∧ t.rcd.hoursCell = s.rcd.hoursCell ∧
     t.rcd.recs = s.rcd.recs.filter (fun x => x.1 / 2 ^ 20 ≠ 2)) ∧
    (∀ cause kind, cause < 8 → let t := resetInto s cause kind
     devState t = stSupervise ∧ rdF t rResetCause 2 0 = cause ∧ t.path = State.reset.path ∧ t.ctl = State.reset.ctl ∧
     t.forme = State.reset.forme ∧ t.tab0 = [] ∧ t.tab1 = [] ∧ t.ctrs = [] ∧ t.ciph.keks = s.ciph.keks ∧
     t.ciph.operators = s.ciph.operators ∧ t.pwr.nv = s.pwr.nv ∧ voqMode t = voqMode s) ∧
    (∀ o, ¬ keptReg false o = true → o ≠ rDevState → o ≠ rResetCause → o ≠ rCipherStatus → o ≠ rCipherMode →
      o ≠ rMirrorPermit → o ≠ rTamperStatus → o ≠ rCoreStatus → ∀ cause kind, rd (resetInto s cause kind) o = resetValue o)


/-- Mailbox services, for a request the MP takes: its channel busy, its payload at most 4,088 octets, and the role the
service asks for. Each has its effect and answers its STATUS: a service that firmware fills returns 0; a challenge is kept
for one response; a verified response binds the role to the ring and the channel; a logout ends both; a crypto officer
enrols and removes operators, installs a KEK in a free slot and updates the image that does not run; a user reaches the
optics and sets the servo and the telemetry. It rests on the model's own choices of log entries 6, 62 and 63. -/
def Obligations.MailboxServicesComplete : Prop :=
  ∀ (s : State) (q : MbxReq), s.mp.mpUp = true → q.channel < 8 → rdB s (rMbxStatus q.channel) 1 = true →
    q.payload.length ≤ 4088 →
    let c := q.channel
    let reply (service status : Nat) (payload : List Byte) (t : State) : Host.Outcome State Fault Refusal :=
      .next (irqEdge s (mbxReply t c service q.tag status payload))
    (∀ len : Fin 4089, exec (.mpStatus q len) s = reply 0x0001 0 (freePayload s len.val).2 (freePayload s len.val).1) ∧
    (boundaryUp s = true →
      (∀ len : Fin 4089, exec (.attest q len) s = reply 0x0009 0 (freePayload s len.val).2 (freePayload s len.val).1) ∧
      (let f := drbgDraw s 48
       exec (.authChallenge q) s = reply 0x0002 0 f.2
         { f.1 with ciph := { f.1.ciph with challenge := smSet (fun _ => []) f.1.ciph.challenge c f.2 } }) ∧
      (∀ (ring : Fin 60) (ident : Fin 16) (sigOk : Bool),
        let u := { s with ciph := { s.ciph with challenge := smSet (fun _ => []) s.ciph.challenge c [] } }
        (∀ o, smGet (fun _ => []) s.ciph.challenge c ≠ [] → sigOk = true → operatorOf u ident.val = some o →
          exec (.authResponse q ring ident sigOk) s = reply 0x0003 0 []
            (setMbxRole (bindRole u ring.val o.role o.ident) c o.role o.ident)) ∧
        (sigOk = false → exec (.authResponse q ring ident sigOk) s = reply 0x0003 4 []
          (postHw u 0x420F [(1, ring.val), (1, ident.val)])))) ∧
    (mbxRoleOf s c ≠ 0 → ∀ ring : Fin 60, exec (.logout q ring) s = reply 0x0004 0 [] (setMbxRole (endRole s ring.val) c 0 0)) ∧
    (∀ (ident : Fin 16) (officer : Bool) (key : List Byte) (ring : Fin 60),
      let o : Operator := { ident := ident.val, role := if officer then 2 else 1, pubKey := key }
      (commissioned s = true → mbxRoleOf s c = 2 → boundaryUp s = true →
        exec (.enrol q ident officer key ring) s = reply 0x0005 0 [] (journalOperator (addOperator s o) c o.ident o.role 0)) ∧
      (commissioned s = false → boundary s = bsZeroised → officer = true →
        exec (.enrol q ident officer key ring) s = reply 0x0005 0 []
          (journalOperator (commission s o ring.val c) c o.ident o.role 0))) ∧
    (mbxRoleOf s c = 2 →
      (∀ (ident : Fin 16) o, operatorOf s ident.val = some o →
        let u := { s with ciph := { s.ciph with operators := s.ciph.operators.filter (fun x => x.ident ≠ o.ident) } }
        exec (.removeOperator q ident) s = reply 0x0006 0 []
          (journalOperator (setCommissioned u (u.ciph.operators.any (fun x => x.role = 2))) c o.ident o.role 1)) ∧
      (∀ (slot : Fin 64) (kek : List Byte), hasCipher s = true → boundary s = bsOperational → kekHeld s slot.val = false →
        let u := { wrB s rKekStatus slot.val true with ciph := { s.ciph with keks := smIns slot.val kek s.ciph.keks } }
        let v := postHw u 0x020D [(1, slot.val), (1, mbxOperator u c)]
        exec (.kekInstall q slot (.key kek)) s = reply 0x0007 0 []
          (journal v 0x0042 (mbxOrigin c) [(1, slot.val), (1, mbxOperator v c)])) ∧
      (∀ slot : Fin 64, hasCipher s = true → boundary s = bsOperational → kekHeld s slot.val = false →
        exec (.kekInstall q slot .bad) s = reply 0x0007 4 [] s ∧
        exec (.kekInstall q slot .pairBad) s = reply 0x0007 4 [] (postHw (testFails s 10) 0xC208 [(1, 10), (1, 0)])) ∧
      (∀ (slot : Fin 64) kek, kekHeld s slot.val = true → hasCipher s = true →
        exec (.kekInstall q slot kek) s = reply 0x0007 4 [] s) ∧
      (∀ svn : Fin 65536, boundaryUp s = true → s.pwr.nv.fwMin ≤ svn.val →
        exec (.fwUpdate q svn true) s = reply 0x0008 0 [] { s with pwr := { s.pwr with nv :=
          if s.pwr.nv.fwRun then { s.pwr.nv with fwA := some svn.val } else { s.pwr.nv with fwB := some svn.val } } }) ∧
      (∀ svn : Fin 65536, boundaryUp s = true → svn.val < s.pwr.nv.fwMin →
        exec (.fwUpdate q svn true) s = reply 0x0008 4 [] (postHw s 0x820C [(1, 1), (2, svn.val)]))) ∧
    (mbxRoleOf s c = 1 →
      (∀ a, exec (.cmisRead q (some a)) s = reply 0x0010 0 (a.take 4088) s) ∧
      exec (.cmisWrite q true) s = reply 0x0010 0 [] (emit s (.cmisWrite q.payload)) ∧
      (∀ a, exec (.serdesDiag q (some a)) s = reply 0x0011 0 (a.take 4088) s) ∧
      exec (.servoCfg q true) s = reply 0x0012 0 [] { s with mp := { s.mp with servoCfg := q.payload } } ∧
      exec (.telemetryCfg q true) s = reply 0x0013 0 [] { s with mp := { s.mp with telemetryCfg := q.payload } }) ∧
    (mbxRoleOf s c = 0 → ∀ svn sigsOk, exec (.fwUpdate q svn sigsOk) s = reply 0x0008 3 [] s)
end

