-- ==== Sys2Proof/Laws/Exec.lean ====
section
/-! SUPPORT. What exec is for each command: its meaning, by name. A proof rewrites with these and never unfolds exec. -/

namespace Sys2Proof.Machine

theorem exec_endProg (ring : Fin 64) (ins : Ins) (s : State) : exec (.endProg ring ins) s = execEndProg ring ins s :=
    rfl
theorem exec_quoin (ring : Fin 64) (ins : Ins) (s : State) : exec (.quoin ring ins) s = execQuoin ring ins s := rfl
theorem exec_quoinW (ring : Fin 64) (ins : Ins) (s : State) : exec (.quoinW ring ins) s = execQuoinW ring ins s := rfl
theorem exec_quoinC (ring : Fin 64) (ins : Ins) (s : State) : exec (.quoinC ring ins) s = execQuoinC ring ins s := rfl
theorem exec_quoinT (ring : Fin 64) (ins : Ins) (s : State) : exec (.quoinT ring ins) s = execQuoinT ring ins s := rfl
theorem exec_quoinX (ring : Fin 64) (ins : Ins) (s : State) : exec (.quoinX ring ins) s = execQuoinX ring ins s := rfl
theorem exec_skipif (ring : Fin 64) (ins : Ins) (s : State) : exec (.skipif ring ins) s = execSkipif ring ins s := rfl
theorem exec_note (ring : Fin 64) (ins : Ins) (s : State) : exec (.note ring ins) s = execNote ring ins s := rfl
theorem exec_gopen (ring : Fin 64) (ins : Ins) (s : State) : exec (.gopen ring ins) s = execGopen ring ins s := rfl
theorem exec_tw (ring : Fin 64) (ins : Ins) (block : Block) (s : State) : exec (.tw ring ins block) s = execTw ring ins
    block s := rfl
theorem exec_td (ring : Fin 64) (ins : Ins) (block : Block) (s : State) : exec (.td ring ins block) s = execTd ring ins
    block s := rfl
theorem exec_tm (ring : Fin 64) (ins : Ins) (block : Block) (s : State) : exec (.tm ring ins block) s = execTm ring ins
    block s := rfl
theorem exec_lock (ring : Fin 64) (ins : Ins) (s : State) : exec (.lock ring ins) s = execLock ring ins s := rfl
theorem exec_lockat (ring : Fin 64) (ins : Ins) (block : Block) (s : State) : exec (.lockat ring ins block) s =
    execLockat ring ins block s := rfl
theorem exec_gdrop (ring : Fin 64) (ins : Ins) (s : State) : exec (.gdrop ring ins) s = execGdrop ring ins s := rfl
theorem exec_trd (ring : Fin 64) (ins : Ins) (destOk : Bool) (keys : List (List Byte)) (s : State) : exec (.trd ring
    ins destOk keys) s = execTrd ring ins destOk keys s := rfl
theorem exec_rw (ring : Fin 64) (ins : Ins) (env : WriteEnv) (s : State) : exec (.rw ring ins env) s = execRw ring ins
    env s := rfl
theorem exec_rrd (ring : Fin 64) (ins : Ins) (destOk : Bool) (s : State) : exec (.rrd ring ins destOk) s = execRrd ring
    ins destOk s := rfl
theorem exec_rmw (ring : Fin 64) (ins : Ins) (block : Block) (env : WriteEnv) (s : State) : exec (.rmw ring ins block
    env) s = execRmw ring ins block env s := rfl
theorem exec_csnap (ring : Fin 64) (ins : Ins) (destOk : Bool) (s : State) : exec (.csnap ring ins destOk) s =
    execCsnap ring ins destOk s := rfl
theorem exec_cclr (ring : Fin 64) (ins : Ins) (s : State) : exec (.cclr ring ins) s = execCclr ring ins s := rfl
theorem exec_crd (ring : Fin 64) (ins : Ins) (destOk : Bool) (s : State) : exec (.crd ring ins destOk) s = execCrd ring
    ins destOk s := rfl
theorem exec_waitt (ring : Fin 64) (ins : Ins) (block : Block) (s : State) : exec (.waitt ring ins block) s = execWaitt
    ring ins block s := rfl
theorem exec_tset (ring : Fin 64) (ins : Ins) (block : Block) (s : State) : exec (.tset ring ins block) s = execTset
    ring ins block s := rfl
theorem exec_tadjStep (ring : Fin 64) (ins : Ins) (s : State) : exec (.tadjStep ring ins) s = execTadjStep ring ins s
    := rfl
theorem exec_tadjSlew (ring : Fin 64) (ins : Ins) (s : State) : exec (.tadjSlew ring ins) s = execTadjSlew ring ins s
    := rfl
theorem exec_tadjFreq (ring : Fin 64) (ins : Ins) (s : State) : exec (.tadjFreq ring ins) s = execTadjFreq ring ins s
    := rfl
theorem exec_palloc (ring : Fin 64) (ins : Ins) (destOk : Bool) (s : State) : exec (.palloc ring ins destOk) s =
    execPalloc ring ins destOk s := rfl
theorem exec_pfree (ring : Fin 64) (ins : Ins) (s : State) : exec (.pfree ring ins) s = execPfree ring ins s := rfl
theorem exec_pref (ring : Fin 64) (ins : Ins) (s : State) : exec (.pref ring ins) s = execPref ring ins s := rfl
theorem exec_kload (ring : Fin 64) (ins : Ins) (block : Block) (unwrapped : Option (List Byte)) (s : State) : exec
    (.kload ring ins block unwrapped) s = execKload ring ins block unwrapped s := rfl
theorem exec_kzeroSa (ring : Fin 64) (ins : Ins) (s : State) : exec (.kzeroSa ring ins) s = execKzeroSa ring ins s :=
    rfl
theorem exec_kzeroKek (ring : Fin 64) (ins : Ins) (s : State) : exec (.kzeroKek ring ins) s = execKzeroKek ring ins s
    := rfl
theorem exec_kzeroSaAll (ring : Fin 64) (ins : Ins) (s : State) : exec (.kzeroSaAll ring ins) s = execKzeroSaAll ring
    ins s := rfl
theorem exec_kzeroAll (ring : Fin 64) (ins : Ins) (s : State) : exec (.kzeroAll ring ins) s = execKzeroAll ring ins s
    := rfl
theorem exec_sasw (ring : Fin 64) (ins : Ins) (block : Block) (s : State) : exec (.sasw ring ins block) s = execSasw
    ring ins block s := rfl
theorem exec_ringDoorbell (ring : Fin 64) (w : DbWrite) (opcodes : List Nat) (s : State) : exec (.ringDoorbell ring w
    opcodes) s = execRingDoorbell ring w opcodes s := rfl
theorem exec_ringFetchErr (ring : Fin 64) (s : State) : exec (.ringFetchErr ring) s = execRingFetchErr ring s := rfl
theorem exec_cqHeadWrite (ring : Fin 64) (who : Who) (value : Word) (s : State) : exec (.cqHeadWrite ring who value) s
    = execCqHeadWrite ring who value s := rfl
theorem exec_completionRecordWrite (ring : Fin 64) (s : State) : exec (.completionRecordWrite ring) s =
    execCompletionRecordWrite ring s := rfl
theorem exec_cqErr (ring : Fin 64) (s : State) : exec (.cqErr ring) s = execCqErr ring s := rfl
theorem exec_cqStall (ring : Fin 64) (s : State) : exec (.cqStall ring) s = execCqStall ring s := rfl
theorem exec_crEnable (ring : Fin 64) (who : Who) (value : Word) (s : State) : exec (.crEnable ring who value) s =
    execCrEnable ring who value s := rfl
theorem exec_crDisable (ring : Fin 64) (who : Who) (value : Word) (s : State) : exec (.crDisable ring who value) s =
    execCrDisable ring who value s := rfl
theorem exec_crAbort (ring : Fin 64) (who : Who) (value : Word) (s : State) : exec (.crAbort ring who value) s =
    execCrAbort ring who value s := rfl
theorem exec_crReset (ring : Fin 64) (who : Who) (value : Word) (s : State) : exec (.crReset ring who value) s =
    execCrReset ring who value s := rfl
theorem exec_galleyTimeout (s : State) : exec .galleyTimeout s = execGalleyTimeout s := rfl
theorem exec_impositionStart (s : State) : exec .impositionStart s = execImpositionStart s := rfl
theorem exec_impositionFail (s : State) : exec .impositionFail s = execImpositionFail s := rfl
theorem exec_lockup (s : State) : exec .lockup s = execLockup s := rfl
theorem exec_lockatTime (s : State) : exec .lockatTime s = execLockatTime s := rfl
theorem exec_lockMissed (s : State) : exec .lockMissed s = execLockMissed s := rfl
theorem exec_drainEnd (s : State) : exec .drainEnd s = execDrainEnd s := rfl
theorem exec_catchUpEnd (s : State) : exec .catchUpEnd s = execCatchUpEnd s := rfl
theorem exec_recircAged (frame : Nat) (s : State) : exec (.recircAged frame) s = execRecircAged frame s := rfl
theorem exec_frameReceive (port : Fin 256) (f : RxFrame) (s : State) : exec (.frameReceive port f) s = execFrameReceive
    port f s := rfl
theorem exec_pfcFrameReceive (port : Fin 256) (f : RxFrame) (s : State) : exec (.pfcFrameReceive port f) s =
    execPfcFrameReceive port f s := rfl
theorem exec_pauseFrameReceive (port : Fin 256) (f : RxFrame) (s : State) : exec (.pauseFrameReceive port f) s =
    execPauseFrameReceive port f s := rfl
theorem exec_pauseHoldExpire (port : Fin 256) (cls : Fin 9) (s : State) : exec (.pauseHoldExpire port cls) s =
    execPauseHoldExpire port cls s := rfl
theorem exec_receiveSecyCheck (frame : Nat) (icvOk : Bool) (plain : List Byte) (s : State) : exec (.receiveSecyCheck
    frame icvOk plain) s = execReceiveSecyCheck frame icvOk plain s := rfl
theorem exec_stompIcvDecided (frame : Nat) (ok : Bool) (s : State) : exec (.stompIcvDecided frame ok) s =
    execStompIcvDecided frame ok s := rfl
theorem exec_headerGatherRelease (g : Gather) (s : State) : exec (.headerGatherRelease g) s = execHeaderGatherRelease g
    s := rfl
theorem exec_fragInsertLost (s : State) : exec .fragInsertLost s = execFragInsertLost s := rfl
theorem exec_fragHoldExpire (s : State) : exec .fragHoldExpire s = execFragHoldExpire s := rfl
theorem exec_fragFlush (link : Bool) (value : Word) (s : State) : exec (.fragFlush link value) s = execFragFlush link
    value s := rfl
theorem exec_lastOctetWritten (frame : Nat) (s : State) : exec (.lastOctetWritten frame) s = execLastOctetWritten frame
    s := rfl
theorem exec_xoffSend (port : Fin 256) (cls : Fin 8) (s : State) : exec (.xoffSend port cls) s = execXoffSend port cls
    s := rfl
theorem exec_xoffRefresh (port : Fin 256) (cls : Fin 8) (s : State) : exec (.xoffRefresh port cls) s = execXoffRefresh
    port cls s := rfl
theorem exec_xonSend (port : Fin 256) (cls : Fin 8) (s : State) : exec (.xonSend port cls) s = execXonSend port cls s
    := rfl
theorem exec_sharedFetch (tile : Fin 8) (plane : Fin 4) (s : State) : exec (.sharedFetch tile plane) s =
    execSharedFetch tile plane s := rfl
theorem exec_roundsMatch (plane : Fin 4) (s : State) : exec (.roundsMatch plane) s = execRoundsMatch plane s := rfl
theorem exec_planeCrossing (copy : Nat) (s : State) : exec (.planeCrossing copy) s = execPlaneCrossing copy s := rfl
theorem exec_creditIssue (port : Fin 266) (s : State) : exec (.creditIssue port) s = execCreditIssue port s := rfl
theorem exec_spillCopy (tile : Fin 8) (s : State) : exec (.spillCopy tile) s = execSpillCopy tile s := rfl
theorem exec_refill (tile : Fin 8) (s : State) : exec (.refill tile) s = execRefill tile s := rfl
theorem exec_schedulerSelect (port : Fin 266) (express : Bool) (s : State) : exec (.schedulerSelect port express) s =
    execSchedulerSelect port express s := rfl
theorem exec_egressPipeline (copy : Nat) (secure : List Byte) (flipped : List Nat) (s : State) : exec (.egressPipeline
    copy secure flipped) s = execEgressPipeline copy secure flipped s := rfl
theorem exec_frameTransmitEnd (copy : Nat) (txTime : Nat) (s : State) : exec (.frameTransmitEnd copy txTime) s =
    execFrameTransmitEnd copy txTime s := rfl
theorem exec_stomp (frame : Nat) (cause : Fin 5) (s : State) : exec (.stomp frame cause) s = execStomp frame cause s :=
    rfl
theorem exec_launchLate (port : Fin 266) (s : State) : exec (.launchLate port) s = execLaunchLate port s := rfl
theorem exec_mmVerifyFail (port : Fin 256) (s : State) : exec (.mmVerifyFail port) s = execMmVerifyFail port s := rfl
theorem exec_linkDown (port : Fin 256) (cause : Fin 3) (s : State) : exec (.linkDown port cause) s = execLinkDown port
    cause s := rfl
theorem exec_linkUp (port : Fin 256) (s : State) : exec (.linkUp port) s = execLinkUp port s := rfl
theorem exec_linkHoldExpire (port : Fin 256) (s : State) : exec (.linkHoldExpire port) s = execLinkHoldExpire port s :=
    rfl
theorem exec_anFail (port : Fin 256) (abilities : Nat) (s : State) : exec (.anFail port abilities) s = execAnFail port
    abilities s := rfl
theorem exec_portReset (link : Bool) (port : Fin 256) (value : Word) (s : State) : exec (.portReset link port value) s
    = execPortReset link port value s := rfl
theorem exec_adminDown (link : Bool) (port : Fin 256) (value : Word) (s : State) : exec (.adminDown link port value) s
    = execAdminDown link port value s := rfl
theorem exec_learnOperation (s : State) : exec .learnOperation s = execLearnOperation s := rfl
theorem exec_rebalancerRetry (s : State) : exec .rebalancerRetry s = execRebalancerRetry s := rfl
theorem exec_ageClockTick (s : State) : exec .ageClockTick s = execAgeClockTick s := rfl
theorem exec_ageingRemoval (bd mac : Nat) (s : State) : exec (.ageingRemoval bd mac) s = execAgeingRemoval bd mac s :=
    rfl
theorem exec_learnFlush (link : Bool) (value : Word) (s : State) : exec (.learnFlush link value) s = execLearnFlush
    link value s := rfl
theorem exec_flushComplete (s : State) : exec .flushComplete s = execFlushComplete s := rfl
theorem exec_caseSeedWrite (link : Bool) (reg : Fin 4) (value : Word) (s : State) : exec (.caseSeedWrite link reg
    value) s = execCaseSeedWrite link reg value s := rfl
theorem exec_globalReserveWrite (link : Bool) (value : Word) (s : State) : exec (.globalReserveWrite link value) s =
    execGlobalReserveWrite link value s := rfl
theorem exec_asaRepair (copy : Fin 32) (s : State) : exec (.asaRepair copy) s = execAsaRepair copy s := rfl
theorem exec_asaSweep (differ : List (Nat × Nat × Nat)) (s : State) : exec (.asaSweep differ) s = execAsaSweep differ s
    := rfl
theorem exec_asaShadowUe (table loc : Nat) (s : State) : exec (.asaShadowUe table loc) s = execAsaShadowUe table loc s
    := rfl
theorem exec_saSwitch (s : State) : exec .saSwitch s = execSaSwitch s := rfl
theorem exec_saRetire (sa : Fin 16384) (s : State) : exec (.saRetire sa) s = execSaRetire sa s := rfl
theorem exec_secyTxCurWrite (secy : Fin 1024) (value : Word) (s : State) : exec (.secyTxCurWrite secy value) s =
    execSecyTxCurWrite secy value s := rfl
theorem exec_cipherModeWrite (operator_ : Fin 16) (value : Word) (s : State) : exec (.cipherModeWrite operator_ value)
    s = execCipherModeWrite operator_ value s := rfl
theorem exec_mpStatus (q : MbxReq) (len : Fin 4089) (s : State) : exec (.mpStatus q len) s = execMpStatus q len s :=
    rfl
theorem exec_authChallenge (q : MbxReq) (s : State) : exec (.authChallenge q) s = execAuthChallenge q s := rfl
theorem exec_authResponse (q : MbxReq) (ring : Fin 60) (ident : Fin 16) (sigOk : Bool) (s : State) : exec
    (.authResponse q ring ident sigOk) s = execAuthResponse q ring ident sigOk s := rfl
theorem exec_logout (q : MbxReq) (ring : Fin 60) (s : State) : exec (.logout q ring) s = execLogout q ring s := rfl
theorem exec_enrol (q : MbxReq) (ident : Fin 16) (officer : Bool) (key : List Byte) (ring : Fin 60) (s : State) : exec
    (.enrol q ident officer key ring) s = execEnrol q ident officer key ring s := rfl
theorem exec_removeOperator (q : MbxReq) (ident : Fin 16) (s : State) : exec (.removeOperator q ident) s =
    execRemoveOperator q ident s := rfl
theorem exec_kekInstall (q : MbxReq) (slot : Fin 64) (kek : KekWrap) (s : State) : exec (.kekInstall q slot kek) s =
    execKekInstall q slot kek s := rfl
theorem exec_fwUpdate (q : MbxReq) (svn : Fin 65536) (sigsOk : Bool) (s : State) : exec (.fwUpdate q svn sigsOk) s =
    execFwUpdate q svn sigsOk s := rfl
theorem exec_attest (q : MbxReq) (len : Fin 4089) (s : State) : exec (.attest q len) s = execAttest q len s := rfl
theorem exec_cmisRead (q : MbxReq) (answer : Option (List Byte)) (s : State) : exec (.cmisRead q answer) s =
    execCmisRead q answer s := rfl
theorem exec_cmisWrite (q : MbxReq) (ok : Bool) (s : State) : exec (.cmisWrite q ok) s = execCmisWrite q ok s := rfl
theorem exec_serdesDiag (q : MbxReq) (answer : Option (List Byte)) (s : State) : exec (.serdesDiag q answer) s =
    execSerdesDiag q answer s := rfl
theorem exec_servoCfg (q : MbxReq) (ok : Bool) (s : State) : exec (.servoCfg q ok) s = execServoCfg q ok s := rfl
theorem exec_telemetryCfg (q : MbxReq) (ok : Bool) (s : State) : exec (.telemetryCfg q ok) s = execTelemetryCfg q ok s
    := rfl
theorem exec_timeDomainSwitch (s : State) : exec .timeDomainSwitch s = execTimeDomainSwitch s := rfl
theorem exec_domainSwitchDone (s : State) : exec .domainSwitchDone s = execDomainSwitchDone s := rfl
theorem exec_opTimeRead (r : BarRead) (s : State) : exec (.opTimeRead r) s = execOpTimeRead r s := rfl
theorem exec_ppsInEdge (input : Fin 2) (s : State) : exec (.ppsInEdge input) s = execPpsInEdge input s := rfl
theorem exec_ppsInLoss (input : Fin 2) (s : State) : exec (.ppsInLoss input) s = execPpsInLoss input s := rfl
theorem exec_ppsOutPulse (output : Fin 2) (s : State) : exec (.ppsOutPulse output) s = execPpsOutPulse output s := rfl
theorem exec_refLoss (s : State) : exec .refLoss s = execRefLoss s := rfl
theorem exec_refReturn (s : State) : exec .refReturn s = execRefReturn s := rfl
theorem exec_todTransmit (msg : List Byte) (s : State) : exec (.todTransmit msg) s = execTodTransmit msg s := rfl
theorem exec_todReceive (msg : List Byte) (s : State) : exec (.todReceive msg) s = execTodReceive msg s := rfl
theorem exec_timestampRecordWrite (mpRing : Bool) (s : State) : exec (.timestampRecordWrite mpRing) s =
    execTimestampRecordWrite mpRing s := rfl
theorem exec_gateEntryStart (port : Fin 256) (s : State) : exec (.gateEntryStart port) s = execGateEntryStart port s :=
    rfl
theorem exec_gateListChange (port : Fin 256) (s : State) : exec (.gateListChange port) s = execGateListChange port s :=
    rfl
theorem exec_pealCapture (k : Fin 16) (s : State) : exec (.pealCapture k) s = execPealCapture k s := rfl
theorem exec_pealFault (k : Fin 16) (addr : Nat) (s : State) : exec (.pealFault k addr) s = execPealFault k addr s :=
    rfl
theorem exec_pealEnable (link : Bool) (k : Fin 16) (value : Word) (entries : Option (List Nat)) (s : State) : exec
    (.pealEnable link k value entries) s = execPealEnable link k value entries s := rfl
theorem exec_pealDisable (link : Bool) (k : Fin 16) (value : Word) (s : State) : exec (.pealDisable link k value) s =
    execPealDisable link k value s := rfl
theorem exec_mirrorSampleWrite (link : Bool) (session : Fin 16) (value : Word) (s : State) : exec (.mirrorSampleWrite
    link session value) s = execMirrorSampleWrite link session value s := rfl
theorem exec_stormMeterWrite (link : Bool) (port : Fin 256) (meter : Fin 3) (value : Word) (s : State) : exec
    (.stormMeterWrite link port meter value) s = execStormMeterWrite link port meter value s := rfl
theorem exec_perfEvselWrite (w : BarWrite) (s : State) : exec (.perfEvselWrite w) s = execPerfEvselWrite w s := rfl
theorem exec_rsRead (r : BarRead) (s : State) : exec (.rsRead r) s = execRsRead r s := rfl
theorem exec_narrowReadLow (r : BarRead) (s : State) : exec (.narrowReadLow r) s = execNarrowReadLow r s := rfl
theorem exec_registerWrite (w : BarWrite) (env : WriteEnv) (s : State) : exec (.registerWrite w env) s =
    execRegisterWrite w env s := rfl
theorem exec_claveFault (clave : Bool) (cause : Fin 2) (reexec : Fin 9) (s : State) : exec (.claveFault clave cause
    reexec) s = execClaveFault clave cause reexec s := rfl
theorem exec_claveWatchdog (clave : Bool) (s : State) : exec (.claveWatchdog clave) s = execClaveWatchdog clave s :=
    rfl
theorem exec_claveCorr (clave : Bool) (s : State) : exec (.claveCorr clave) s = execClaveCorr clave s := rfl
theorem exec_handoverWindowClose (s : State) : exec .handoverWindowClose s = execHandoverWindowClose s := rfl
theorem exec_claveMismatch (isn : Nat) (output : Nat) (s : State) : exec (.claveMismatch isn output) s =
    execClaveMismatch isn output s := rfl
theorem exec_claveDiagEnd (failA failB : Bool) (s : State) : exec (.claveDiagEnd failA failB) s = execClaveDiagEnd
    failA failB s := rfl
theorem exec_ctrlReset (w : BarWrite) (s : State) : exec (.ctrlReset w) s = execCtrlReset w s := rfl
theorem exec_claveSelftestEnd (passA passB : Bool) (s : State) : exec (.claveSelftestEnd passA passB) s =
    execClaveSelftestEnd passA passB s := rfl
theorem exec_shadowPeriodEnd (clave : Bool) (s : State) : exec (.shadowPeriodEnd clave) s = execShadowPeriodEnd clave s
    := rfl
theorem exec_mpWatchdog (reqs : List (Nat × Nat × Nat)) (s : State) : exec (.mpWatchdog reqs) s = execMpWatchdog reqs s
    := rfl
theorem exec_mpShedStep (util : Nat) (s : State) : exec (.mpShedStep util) s = execMpShedStep util s := rfl
theorem exec_mpUnshedStep (util : Nat) (s : State) : exec (.mpUnshedStep util) s = execMpUnshedStep util s := rfl
theorem exec_maintRequest (act : Fin 9) (unit : Nat) (s : State) : exec (.maintRequest act unit) s = execMaintRequest
    act unit s := rfl
theorem exec_maintActivityEnd (act : Fin 9) (unit : Nat) (failed : Bool) (reason : Nat) (s : State) : exec
    (.maintActivityEnd act unit failed reason) s = execMaintActivityEnd act unit failed reason s := rfl
theorem exec_holdMaxExpire (act : Fin 9) (unit : Nat) (s : State) : exec (.holdMaxExpire act unit) s =
    execHoldMaxExpire act unit s := rfl
theorem exec_keySelftestPiece (unit : Fin 40) (pass : Bool) (s : State) : exec (.keySelftestPiece unit pass) s =
    execKeySelftestPiece unit pass s := rfl
theorem exec_recordWrite (fromJournal : Bool) (ok1 : Bool) (retry : Fin 3) (s : State) : exec (.recordWrite fromJournal
    ok1 retry) s = execRecordWrite fromJournal ok1 retry s := rfl
theorem exec_coalesceWindowClose (s : State) : exec .coalesceWindowClose s = execCoalesceWindowClose s := rfl
theorem exec_hoursCellWrite (s : State) : exec .hoursCellWrite s = execHoursCellWrite s := rfl
theorem exec_recorderRetry (link : Bool) (value : Word) (pass : Bool) (s : State) : exec (.recorderRetry link value
    pass) s = execRecorderRetry link value pass s := rfl
theorem exec_mbxGoBusy (w : BarWrite) (s : State) : exec (.mbxGoBusy w) s = execMbxGoBusy w s := rfl
theorem exec_irqRearm (w : BarWrite) (s : State) : exec (.irqRearm w) s = execIrqRearm w s := rfl
theorem exec_warmReset (w : BarWrite) (s : State) : exec (.warmReset w) s = execWarmReset w s := rfl
theorem exec_start (w : BarWrite) (s : State) : exec (.start w) s = execStart w s := rfl
theorem exec_bootSave (w : BarWrite) (s : State) : exec (.bootSave w) s = execBootSave w s := rfl
theorem exec_bootSaveEnd (flashFail : Bool) (s : State) : exec (.bootSaveEnd flashFail) s = execBootSaveEnd flashFail s
    := rfl
theorem exec_powerOn (cycled : Bool) (s : State) : exec (.powerOn cycled) s = execPowerOn cycled s := rfl
theorem exec_supervise (pcycleOk : Bool) (s : State) : exec (.supervise pcycleOk) s = execSupervise pcycleOk s := rfl
theorem exec_selftest (repaired : Bool) (fail : Option (Fin 10 × Fin 40)) (fwA fwB claveA claveB : Bool) (s : State) :
    exec (.selftest repaired fail fwA fwB claveA claveB) s = execSelftest repaired fail fwA fwB claveA claveB s := rfl
theorem exec_load (decayed : List (Fin 4 × Nat)) (sig0 sig1 : Bool) (decay : Option (Fin 5)) (s : State) : exec (.load
    decayed sig0 sig1 decay) s = execLoad decayed sig0 sig1 decay s := rfl
theorem exec_train (stack0 stack1 : Bool) (octets : List (Fin 32)) (s : State) : exec (.train stack0 stack1 octets) s =
    execTrain stack0 stack1 octets s := rfl
theorem exec_hold (s : State) : exec .hold s = execHold s := rfl
theorem exec_startStop (cause : Fin 3) (memory : Nat) (s : State) : exec (.startStop cause memory) s = execStartStop
    cause memory s := rfl
theorem exec_shutdown (vinLost : Bool) (s : State) : exec (.shutdown vinLost) s = execShutdown vinLost s := rfl
theorem exec_railFault (thermal : Bool) (s : State) : exec (.railFault thermal) s = execRailFault thermal s := rfl
theorem exec_thermWarn (sensor : Fin 24) (temp : BitVec 16) (s : State) : exec (.thermWarn sensor temp) s =
    execThermWarn sensor temp s := rfl
theorem exec_resetN (lowNs : Nat) (taken : Bool) (s : State) : exec (.resetN lowNs taken) s = execResetN lowNs taken s
    := rfl
theorem exec_zeroiseN (lowNs : Nat) (taken : Bool) (s : State) : exec (.zeroiseN lowNs taken) s = execZeroiseN lowNs
    taken s := rfl
theorem exec_tamperMesh (s : State) : exec .tamperMesh s = execTamperMesh s := rfl
theorem exec_boardLoop (loop : Fin 2) (mismatch : Bool) (s : State) : exec (.boardLoop loop mismatch) s = execBoardLoop
    loop mismatch s := rfl
theorem exec_vkeepLoss (s : State) : exec .vkeepLoss s = execVkeepLoss s := rfl
theorem exec_hostFundamentalReset (s : State) : exec .hostFundamentalReset s = execHostFundamentalReset s := rfl
theorem exec_hostLinkDown (link : Bool) (cause : Fin 3) (s : State) : exec (.hostLinkDown link cause) s =
    execHostLinkDown link cause s := rfl
theorem exec_hostLinkUp (link : Bool) (speed : Fin 7) (width : Fin 9) (flit msix0 msix1 : Bool) (s : State) : exec
    (.hostLinkUp link speed width flit msix0 msix1) s = execHostLinkUp link speed width flit msix0 msix1 s := rfl
theorem exec_flrPf0 (link : Bool) (reqs : List (Nat × Nat × Nat)) (s : State) : exec (.flrPf0 link reqs) s = execFlrPf0
    link reqs s := rfl
theorem exec_flrPf1 (link : Bool) (s : State) : exec (.flrPf1 link) s = execFlrPf1 link s := rfl
theorem exec_flrPf2 (link : Bool) (s : State) : exec (.flrPf2 link) s = execFlrPf2 link s := rfl
theorem exec_busMasterDisable (link : Bool) (s : State) : exec (.busMasterDisable link) s = execBusMasterDisable link s
    := rfl
theorem exec_memCe (unit : MemUnit) (cell : Option (Fin 65536)) (s : State) : exec (.memCe unit cell) s = execMemCe
    unit cell s := rfl
theorem exec_memUe (site : UeSite) (s : State) : exec (.memUe site) s = execMemUe site s := rfl
theorem exec_cellRetire (tile : Fin 8) (cell : Fin 65536) (s : State) : exec (.cellRetire tile cell) s = execCellRetire
    tile cell s := rfl
theorem exec_poolEnable (link : Bool) (pool : Fin 16) (value : Word) (s : State) : exec (.poolEnable link pool value) s
    = execPoolEnable link pool value s := rfl
theorem exec_poolInitDone (pool : Fin 16) (s : State) : exec (.poolInitDone pool) s = execPoolInitDone pool s := rfl
theorem exec_poolDisable (link : Bool) (pool : Fin 16) (value : Word) (s : State) : exec (.poolDisable link pool value)
    s = execPoolDisable link pool value s := rfl
theorem exec_pallocTimeout (ring : Fin 64) (s : State) : exec (.pallocTimeout ring) s = execPallocTimeout ring s := rfl
theorem exec_poolFault (pool : Fin 16) (addr : Nat) (s : State) : exec (.poolFault pool addr) s = execPoolFault pool
    addr s := rfl
theorem exec_hostRxDeliver (copy : Nat) (s : State) : exec (.hostRxDeliver copy) s = execHostRxDeliver copy s := rfl
theorem exec_rxWaitExpire (copy : Nat) (s : State) : exec (.rxWaitExpire copy) s = execRxWaitExpire copy s := rfl
theorem exec_rxDoorbell (ring : Fin 1024) (w : DbWrite) (s : State) : exec (.rxDoorbell ring w) s = execRxDoorbell ring
    w s := rfl
theorem exec_txDoorbell (ring : Fin 1024) (w : DbWrite) (s : State) : exec (.txDoorbell ring w) s = execTxDoorbell ring
    w s := rfl
theorem exec_txFrameFetch (ring : Fin 1024) (descs : List (List Byte)) (octets : List Byte) (s : State) : exec
    (.txFrameFetch ring descs octets) s = execTxFrameFetch ring descs octets s := rfl
theorem exec_txWriteBack (ring : Fin 1024) (first : Nat) (s : State) : exec (.txWriteBack ring first) s =
    execTxWriteBack ring first s := rfl
theorem exec_ringDmaFault (tx : Bool) (ring : Fin 1024) (addr : Nat) (descs : List (List Byte)) (s : State) : exec
    (.ringDmaFault tx ring addr descs) s = execRingDmaFault tx ring addr descs s := rfl
theorem exec_rxRingEnable (link : Bool) (ring : Fin 1024) (value : Word) (s : State) : exec (.rxRingEnable link ring
    value) s = execRxRingEnable link ring value s := rfl
theorem exec_txRingEnable (link : Bool) (ring : Fin 1024) (value : Word) (s : State) : exec (.txRingEnable link ring
    value) s = execTxRingEnable link ring value s := rfl
theorem exec_opDomainWrite (link : Bool) (value : Word) (s : State) : exec (.opDomainWrite link value) s =
    execOpDomainWrite link value s := rfl
theorem exec_impositionComplete (s : State) : exec .impositionComplete s = execImpositionComplete s := rfl
theorem exec_waittTimeReached (ring : Fin 64) (s : State) : exec (.waittTimeReached ring) s = execWaittTimeReached ring
    s := rfl
theorem exec_writeGateWrite (forme : Bool) (env : WriteEnv) (s : State) : exec (.writeGateWrite forme env) s =
    execWriteGateWrite forme env s := rfl
theorem exec_entropyTestFail (test : Fin 2) (s : State) : exec (.entropyTestFail test) s = execEntropyTestFail test s
    := rfl
theorem exec_tamperSelChange (level : Bool) (s : State) : exec (.tamperSelChange level) s = execTamperSelChange level s
    := rfl
theorem exec_mpRestartComplete (s : State) : exec .mpRestartComplete s = execMpRestartComplete s := rfl
theorem exec_servoUpdate (domain : Fin 2) (offset : Int) (state : Fin 5) (s : State) : exec (.servoUpdate domain offset
    state) s = execServoUpdate domain offset state s := rfl
theorem exec_mpTransmit (octets : List Byte) (flags tag : Nat) (launch : Option Nat) (s : State) : exec (.mpTransmit
    octets flags tag launch) s = execMpTransmit octets flags tag launch s := rfl
theorem exec_busMasterEnable (link : Bool) (s : State) : exec (.busMasterEnable link) s = execBusMasterEnable link s :=
    rfl
theorem exec_msixUnmask (link : Bool) (fn : Fin 2) (entry : Fin 1536) (s : State) : exec (.msixUnmask link fn entry) s
    = execMsixUnmask link fn entry s := rfl
theorem exec_bar0BadRead (r : BarRead) (s : State) : exec (.bar0BadRead r) s = execBar0BadRead r s := rfl
theorem exec_pcieUncorrError (link : Bool) (fn : Fin 3) (status : Nat) (s : State) : exec (.pcieUncorrError link fn
    status) s = execPcieUncorrError link fn status s := rfl
theorem exec_mmVerifyResponse (port : Fin 256) (s : State) : exec (.mmVerifyResponse port) s = execMmVerifyResponse
    port s := rfl
theorem exec_jtagAccess (mgmtDie : Bool) (s : State) : exec (.jtagAccess mgmtDie) s = execJtagAccess mgmtDie s := rfl
theorem exec_opticsAlarm (cage : Fin 32) (s : State) : exec (.opticsAlarm cage) s = execOpticsAlarm cage s := rfl
theorem exec_unlistedOpcode (ring : Fin 64) (opcode : Fin 256) (ins : Ins) (s : State) : exec (.unlistedOpcode ring
    opcode ins) s = execUnlistedOpcode ring opcode ins s := rfl

end Sys2Proof.Machine
end

