-- ==== Sys2Proof/Laws/SMap.lean ====
section
/-! SUPPORT. Laws of the sparse maps: a read after a write, and the canonical form. -/

namespace Sys2Proof.Machine

variable {α : Type}

@[simp] theorem smFind_nil (q : Nat) : smFind ([] : SMap α) q = none := rfl

@[simp] theorem smGet_nil (d : Nat → α) (q : Nat) : smGet d [] q = d q := rfl

@[simp] theorem smFind_smIns_same (m : SMap α) (q : Nat) (x : α) : smFind (smIns q x m) q = some x := by
  induction m with
  | nil => simp [smIns, smFind]
  | cons e m ih =>
    obtain ⟨k, v⟩ := e
    unfold smIns
    split_ifs with h1 h2
    · simp [smFind]
    · simp [smFind]
    · simp [smFind, h2, ih]

theorem smFind_smIns_other (m : SMap α) {q r : Nat} (x : α) (h : r ≠ q) : smFind (smIns q x m) r = smFind m r := by
  induction m with
  | nil => simp [smIns, smFind, h]
  | cons e m ih =>
    obtain ⟨k, v⟩ := e
    unfold smIns
    split_ifs with h1 h2
    · simp [smFind, h]
    · subst h2; simp [smFind, h]
    · simp [smFind, ih]

theorem smFind_smDel_other (m : SMap α) {q r : Nat} (h : r ≠ q) : smFind (smDel q m) r = smFind m r := by
  induction m with
  | nil => rfl
  | cons e m ih =>
    obtain ⟨k, v⟩ := e
    unfold smDel
    split_ifs with h2
    · subst h2; simp [smFind, h]
    · simp [smFind, ih]

/-- A key that no entry reaches is not found. -/
theorem smFind_none_of_lt (m : SMap α) (q : Nat) (h : ∀ e ∈ m, q < e.1) : smFind m q = none := by
  induction m with
  | nil => rfl
  | cons e m ih =>
    obtain ⟨k, v⟩ := e
    have h1 := h (k, v) (by simp)
    have : q ≠ k := by simp at h1; omega
    simp [smFind, this, ih (fun e he => h e (by simp [he]))]

/-- In a sorted map a deleted key is not found. -/
theorem smFind_smDel_same {m : SMap α} (hm : SMap.sorted m) (q : Nat) : smFind (smDel q m) q = none := by
  induction m with
  | nil => rfl
  | cons e m ih =>
    obtain ⟨k, v⟩ := e
    have hp := List.pairwise_cons.1 hm
    unfold smDel
    split_ifs with h2
    · subst h2; exact smFind_none_of_lt m _ (fun e he => hp.1 e he)
    · simp [smFind, h2, ih hp.2]

/-- A write leaves every other key alone. -/
theorem smGet_smSet_other [DecidableEq α] (d : Nat → α) (m : SMap α) {q r : Nat} (x : α) (h : r ≠ q) :
    smGet d (smSet d m q x) r = smGet d m r := by
  unfold smSet smGet
  split_ifs
  · rw [smFind_smDel_other m h]
  · rw [smFind_smIns_other m x h]

/-- A write of another value than the default is read back. -/
theorem smGet_smSet_ne [DecidableEq α] (d : Nat → α) (m : SMap α) (q : Nat) {x : α} (h : x ≠ d q) :
    smGet d (smSet d m q x) q = x := by
  simp [smSet, smGet, h]

/-- In a sorted map every write is read back. -/
theorem smGet_smSet_same [DecidableEq α] (d : Nat → α) {m : SMap α} (hm : SMap.sorted m) (q : Nat) (x : α) :
    smGet d (smSet d m q x) q = x := by
  unfold smSet
  split_ifs with h
  · simp [smGet, smFind_smDel_same hm, h]
  · simp [smGet]

theorem mem_smDel {m : SMap α} {q : Nat} {e : Nat × α} (h : e ∈ smDel q m) : e ∈ m := by
  induction m with
  | nil => exact h
  | cons c m ih =>
    obtain ⟨k, v⟩ := c
    unfold smDel at h
    split_ifs at h
    · simp [h]
    · simp at h ⊢; tauto

theorem mem_smIns {m : SMap α} {q : Nat} {x : α} {e : Nat × α} (h : e ∈ smIns q x m) : e = (q, x) ∨ e ∈ m := by
  induction m with
  | nil => simpa [smIns] using h
  | cons c m ih =>
    obtain ⟨k, v⟩ := c
    unfold smIns at h
    split_ifs at h
    · simpa using h
    · simp at h ⊢; tauto
    · simp at h ⊢; tauto

theorem sorted_smDel {m : SMap α} (hm : SMap.sorted m) (q : Nat) : SMap.sorted (smDel q m) := by
  induction m with
  | nil => exact hm
  | cons c m ih =>
    obtain ⟨k, v⟩ := c
    have hp := List.pairwise_cons.1 hm
    unfold smDel
    split_ifs
    · exact hp.2
    · exact List.pairwise_cons.2 ⟨fun e he => hp.1 e (mem_smDel he), ih hp.2⟩

theorem sorted_smIns {m : SMap α} (hm : SMap.sorted m) (q : Nat) (x : α) : SMap.sorted (smIns q x m) := by
  induction m with
  | nil => simp [smIns, SMap.sorted]
  | cons c m ih =>
    obtain ⟨k, v⟩ := c
    have hp := List.pairwise_cons.1 hm
    unfold smIns
    split_ifs with h1 h2
    · refine List.pairwise_cons.2 ⟨fun e he => ?_, hm⟩
      rcases List.mem_cons.1 he with rfl | he
      · exact h1
      · exact lt_trans h1 (hp.1 e he)
    · subst h2; exact List.pairwise_cons.2 ⟨fun e he => hp.1 e he, hp.2⟩
    · refine List.pairwise_cons.2 ⟨fun e he => ?_, ih hp.2⟩
      rcases mem_smIns he with rfl | he
      · simp only; omega
      · exact hp.1 e he

/-- The canonical form of the empty map. -/
theorem SMap.wf_nil (d : Nat → α) : SMap.wf d [] := ⟨List.Pairwise.nil, by simp⟩

/-- Every write keeps the canonical form. -/
theorem SMap.wf_smSet [DecidableEq α] {d : Nat → α} {m : SMap α} (hm : SMap.wf d m) (q : Nat) (x : α) :
    SMap.wf d (smSet d m q x) := by
  unfold smSet
  split_ifs with h
  · exact ⟨sorted_smDel hm.1 q, fun e he => hm.2 e (mem_smDel he)⟩
  · refine ⟨sorted_smIns hm.1 q x, fun e he => ?_⟩
    rcases mem_smIns he with rfl | he
    · exact h
    · exact hm.2 e he

/-- A deletion keeps the canonical form. -/
theorem SMap.wf_smDel {d : Nat → α} {m : SMap α} (hm : SMap.wf d m) (q : Nat) : SMap.wf d (smDel q m) :=
  ⟨sorted_smDel hm.1 q, fun e he => hm.2 e (mem_smDel he)⟩

/-- Leaving entries out keeps the canonical form. -/
theorem SMap.wf_filter {d : Nat → α} {m : SMap α} (hm : SMap.wf d m) (p : Nat × α → Bool) : SMap.wf d (m.filter p) :=
  ⟨List.Pairwise.filter p hm.1, fun e he => hm.2 e (List.mem_filter.1 he).1⟩

end Sys2Proof.Machine
end

