-- ==== Sys2Proof/Laws/Keeps.lean ====
section
/-! SUPPORT. What no operation may do: the relation Keeps is a preorder, and the shapes the model's operations are built from
respect it. A lemma `f_keeps` says it of an operation f for every mask that holds the parts f may change. -/

namespace Sys2Proof.Machine

/-- Every bit of mask `a` is in mask `b`. -/
def Within (a b : Nat) : Prop := Nat.land a b = a

theorem Within.trans {a b c : Nat} (h : Within a b) (k : Within b c) : Within a c := by
  unfold Within at *
  have e : Nat.land (Nat.land a b) c = Nat.land a (Nat.land b c) := Nat.land_assoc a b c
  rw [h, k, h] at e
  exact e

/-- A smaller mask. -/
theorem Within.sub {a b c : Nat} (k : Within b c) (h : Nat.land a b = a) : Within a c := Within.trans h k

theorem Within.refl (a : Nat) : Within a a := Nat.and_self a

/-- A bit of the smaller mask is in the larger one. -/
theorem Within.bit {a b : Nat} (h : Within a b) {i : Nat} (k : a.testBit i = true) : b.testBit i = true := by
  have e : (a &&& b).testBit i = true := by
    have : (a &&& b) = a := h
    rw [this]; exact k
  rw [Nat.testBit_and] at e
  exact (Bool.and_eq_true _ _ ▸ e).2

theorem Outside.refl (m : Nat) (s : State) : Outside m s s :=
  ⟨fun _ => rfl, fun _ => rfl, fun _ => rfl, fun _ => rfl, fun _ => rfl, fun _ => rfl, fun _ => rfl, fun _ => rfl, fun _ => rfl,
   fun _ => rfl, fun _ => rfl, fun _ => rfl, fun _ => rfl, fun _ => rfl, fun _ => ⟨rfl, rfl⟩, fun _ => rfl, fun _ => rfl⟩

theorem Outside.trans {m : Nat} {a b c : State} (h : Outside m a b) (k : Outside m b c) : Outside m a c :=
  ⟨fun x => (k.time x).trans (h.time x), fun x => (k.rings x).trans (h.rings x), fun x => (k.formes x).trans (h.formes x),
   fun x => (k.recorder x).trans (h.recorder x), fun x => (k.host x).trans (h.host x), fun x => (k.path x).trans (h.path x),
   fun x => (k.core x).trans (h.core x), fun x => (k.learn x).trans (h.learn x), fun x => (k.cipher x).trans (h.cipher x),
   fun x => (k.mp x).trans (h.mp x), fun x => (k.pools x).trans (h.pools x), fun x => (k.power x).trans (h.power x),
   fun x => (k.regs x).trans (h.regs x), fun x => (k.counters x).trans (h.counters x),
   fun x => ⟨(k.tables x).1.trans (h.tables x).1, (k.tables x).2.trans (h.tables x).2⟩,
   fun x => (k.draws x).trans (h.draws x), fun x => (k.cycles x).trans (h.cycles x)⟩

theorem Keeps.refl (m : Nat) (s : State) : Keeps m s s :=
  ⟨rfl, rfl, rfl, le_refl _, le_refl _, List.suffix_refl _, id, Outside.refl m s⟩

theorem Keeps.trans {m : Nat} {a b c : State} (h : Keeps m a b) (k : Keeps m b c) : Keeps m a c :=
  ⟨k.pending.trans h.pending, k.variant.trans h.variant, k.serial.trans h.serial, le_trans h.fresh k.fresh,
   le_trans h.cycle k.cycle, h.out.trans k.out, fun x => k.canon (h.canon x), h.frame.trans k.frame⟩

/-- An outcome that is no next state, or one that keeps. -/
def KeepsO (m : Nat) (a : State) (o : Host.Outcome State Fault Refusal) : Prop := ∀ t, o = .next t → Keeps m a t

theorem keeps_ite {m : Nat} {a x y : State} (c : Prop) [Decidable c] (hx : c → Keeps m a x) (hy : ¬ c → Keeps m a y) :
    Keeps m a (if c then x else y) := by split <;> simp_all

theorem keeps_ite_fst {β : Type} {m : Nat} {a : State} {x y : State × β} (c : Prop) [Decidable c]
    (hx : c → Keeps m a x.1) (hy : ¬ c → Keeps m a y.1) :
    Keeps m a (if c then x else y).1 := by split <;> simp_all

/-- An update of clk. -/
theorem keeps_clk {m : Nat} {a s : State} (x0) (b0 : m.testBit 0 = true) (h : Keeps m a s) : Keeps m a ⟨s.pending,
    s.variant, s.serial, s.fresh, s.cycle, s.regs, s.ctrs, s.tab0, s.tab1, s.out, x0, s.ctl, s.forme, s.rcd, s.host,
    s.path, s.core, s.learn, s.ciph, s.mp, s.pool, s.pwr⟩ :=
  h.trans ⟨rfl, rfl, rfl, le_refl _, le_refl _, List.suffix_refl _, id, ⟨fun k => absurd (b0.symm.trans k) (by decide),
    fun _ => rfl, fun _ => rfl, fun _ => rfl, fun _ => rfl, fun _ => rfl, fun _ => rfl, fun _ => rfl, fun _ => rfl, fun _
    => rfl, fun _ => rfl, fun _ => rfl, fun _ => rfl, fun _ => rfl, fun _ => ⟨rfl, rfl⟩, fun _ => rfl, fun _ => rfl⟩⟩

/-- An update of ctl. -/
theorem keeps_ctl {m : Nat} {a s : State} (x0) (b1 : m.testBit 1 = true) (h : Keeps m a s) : Keeps m a ⟨s.pending,
    s.variant, s.serial, s.fresh, s.cycle, s.regs, s.ctrs, s.tab0, s.tab1, s.out, s.clk, x0, s.forme, s.rcd, s.host,
    s.path, s.core, s.learn, s.ciph, s.mp, s.pool, s.pwr⟩ :=
  h.trans ⟨rfl, rfl, rfl, le_refl _, le_refl _, List.suffix_refl _, id, ⟨fun _ => rfl, fun k => absurd (b1.symm.trans k)
    (by decide), fun _ => rfl, fun _ => rfl, fun _ => rfl, fun _ => rfl, fun _ => rfl, fun _ => rfl, fun _ => rfl, fun _
    => rfl, fun _ => rfl, fun _ => rfl, fun _ => rfl, fun _ => rfl, fun _ => ⟨rfl, rfl⟩, fun _ => rfl, fun _ => rfl⟩⟩

/-- An update of forme. -/
theorem keeps_forme {m : Nat} {a s : State} (x0) (b2 : m.testBit 2 = true) (h : Keeps m a s) : Keeps m a ⟨s.pending,
    s.variant, s.serial, s.fresh, s.cycle, s.regs, s.ctrs, s.tab0, s.tab1, s.out, s.clk, s.ctl, x0, s.rcd, s.host, s.path,
    s.core, s.learn, s.ciph, s.mp, s.pool, s.pwr⟩ :=
  h.trans ⟨rfl, rfl, rfl, le_refl _, le_refl _, List.suffix_refl _, id, ⟨fun _ => rfl, fun _ => rfl, fun k => absurd
    (b2.symm.trans k) (by decide), fun _ => rfl, fun _ => rfl, fun _ => rfl, fun _ => rfl, fun _ => rfl, fun _ => rfl, fun
    _ => rfl, fun _ => rfl, fun _ => rfl, fun _ => rfl, fun _ => rfl, fun _ => ⟨rfl, rfl⟩, fun _ => rfl, fun _ => rfl⟩⟩

/-- An update of rcd. -/
theorem keeps_rcd {m : Nat} {a s : State} (x0) (b3 : m.testBit 3 = true) (h : Keeps m a s) : Keeps m a ⟨s.pending,
    s.variant, s.serial, s.fresh, s.cycle, s.regs, s.ctrs, s.tab0, s.tab1, s.out, s.clk, s.ctl, s.forme, x0, s.host,
    s.path, s.core, s.learn, s.ciph, s.mp, s.pool, s.pwr⟩ :=
  h.trans ⟨rfl, rfl, rfl, le_refl _, le_refl _, List.suffix_refl _, id, ⟨fun _ => rfl, fun _ => rfl, fun _ => rfl, fun k
    => absurd (b3.symm.trans k) (by decide), fun _ => rfl, fun _ => rfl, fun _ => rfl, fun _ => rfl, fun _ => rfl, fun _
    => rfl, fun _ => rfl, fun _ => rfl, fun _ => rfl, fun _ => rfl, fun _ => ⟨rfl, rfl⟩, fun _ => rfl, fun _ => rfl⟩⟩

/-- An update of host. -/
theorem keeps_host {m : Nat} {a s : State} (x0) (b4 : m.testBit 4 = true) (h : Keeps m a s) : Keeps m a ⟨s.pending,
    s.variant, s.serial, s.fresh, s.cycle, s.regs, s.ctrs, s.tab0, s.tab1, s.out, s.clk, s.ctl, s.forme, s.rcd, x0,
    s.path, s.core, s.learn, s.ciph, s.mp, s.pool, s.pwr⟩ :=
  h.trans ⟨rfl, rfl, rfl, le_refl _, le_refl _, List.suffix_refl _, id, ⟨fun _ => rfl, fun _ => rfl, fun _ => rfl, fun _
    => rfl, fun k => absurd (b4.symm.trans k) (by decide), fun _ => rfl, fun _ => rfl, fun _ => rfl, fun _ => rfl, fun _
    => rfl, fun _ => rfl, fun _ => rfl, fun _ => rfl, fun _ => rfl, fun _ => ⟨rfl, rfl⟩, fun _ => rfl, fun _ => rfl⟩⟩

/-- An update of path. -/
theorem keeps_path {m : Nat} {a s : State} (x0) (b5 : m.testBit 5 = true) (h : Keeps m a s) : Keeps m a ⟨s.pending,
    s.variant, s.serial, s.fresh, s.cycle, s.regs, s.ctrs, s.tab0, s.tab1, s.out, s.clk, s.ctl, s.forme, s.rcd, s.host,
    x0, s.core, s.learn, s.ciph, s.mp, s.pool, s.pwr⟩ :=
  h.trans ⟨rfl, rfl, rfl, le_refl _, le_refl _, List.suffix_refl _, id, ⟨fun _ => rfl, fun _ => rfl, fun _ => rfl, fun _
    => rfl, fun _ => rfl, fun k => absurd (b5.symm.trans k) (by decide), fun _ => rfl, fun _ => rfl, fun _ => rfl, fun _
    => rfl, fun _ => rfl, fun _ => rfl, fun _ => rfl, fun _ => rfl, fun _ => ⟨rfl, rfl⟩, fun _ => rfl, fun _ => rfl⟩⟩

/-- An update of core. -/
theorem keeps_core {m : Nat} {a s : State} (x0) (b6 : m.testBit 6 = true) (h : Keeps m a s) : Keeps m a ⟨s.pending,
    s.variant, s.serial, s.fresh, s.cycle, s.regs, s.ctrs, s.tab0, s.tab1, s.out, s.clk, s.ctl, s.forme, s.rcd, s.host,
    s.path, x0, s.learn, s.ciph, s.mp, s.pool, s.pwr⟩ :=
  h.trans ⟨rfl, rfl, rfl, le_refl _, le_refl _, List.suffix_refl _, id, ⟨fun _ => rfl, fun _ => rfl, fun _ => rfl, fun _
    => rfl, fun _ => rfl, fun _ => rfl, fun k => absurd (b6.symm.trans k) (by decide), fun _ => rfl, fun _ => rfl, fun _
    => rfl, fun _ => rfl, fun _ => rfl, fun _ => rfl, fun _ => rfl, fun _ => ⟨rfl, rfl⟩, fun _ => rfl, fun _ => rfl⟩⟩

/-- An update of learn. -/
theorem keeps_learn {m : Nat} {a s : State} (x0) (b7 : m.testBit 7 = true) (h : Keeps m a s) : Keeps m a ⟨s.pending,
    s.variant, s.serial, s.fresh, s.cycle, s.regs, s.ctrs, s.tab0, s.tab1, s.out, s.clk, s.ctl, s.forme, s.rcd, s.host,
    s.path, s.core, x0, s.ciph, s.mp, s.pool, s.pwr⟩ :=
  h.trans ⟨rfl, rfl, rfl, le_refl _, le_refl _, List.suffix_refl _, id, ⟨fun _ => rfl, fun _ => rfl, fun _ => rfl, fun _
    => rfl, fun _ => rfl, fun _ => rfl, fun _ => rfl, fun k => absurd (b7.symm.trans k) (by decide), fun _ => rfl, fun _
    => rfl, fun _ => rfl, fun _ => rfl, fun _ => rfl, fun _ => rfl, fun _ => ⟨rfl, rfl⟩, fun _ => rfl, fun _ => rfl⟩⟩

/-- An update of ciph. -/
theorem keeps_ciph {m : Nat} {a s : State} (x0) (b8 : m.testBit 8 = true) (h : Keeps m a s) : Keeps m a ⟨s.pending,
    s.variant, s.serial, s.fresh, s.cycle, s.regs, s.ctrs, s.tab0, s.tab1, s.out, s.clk, s.ctl, s.forme, s.rcd, s.host,
    s.path, s.core, s.learn, x0, s.mp, s.pool, s.pwr⟩ :=
  h.trans ⟨rfl, rfl, rfl, le_refl _, le_refl _, List.suffix_refl _, id, ⟨fun _ => rfl, fun _ => rfl, fun _ => rfl, fun _
    => rfl, fun _ => rfl, fun _ => rfl, fun _ => rfl, fun _ => rfl, fun k => absurd (b8.symm.trans k) (by decide), fun _
    => rfl, fun _ => rfl, fun _ => rfl, fun _ => rfl, fun _ => rfl, fun _ => ⟨rfl, rfl⟩, fun _ => rfl, fun _ => rfl⟩⟩

/-- An update of mp. -/
theorem keeps_mp {m : Nat} {a s : State} (x0) (b9 : m.testBit 9 = true) (h : Keeps m a s) : Keeps m a ⟨s.pending,
    s.variant, s.serial, s.fresh, s.cycle, s.regs, s.ctrs, s.tab0, s.tab1, s.out, s.clk, s.ctl, s.forme, s.rcd, s.host,
    s.path, s.core, s.learn, s.ciph, x0, s.pool, s.pwr⟩ :=
  h.trans ⟨rfl, rfl, rfl, le_refl _, le_refl _, List.suffix_refl _, id, ⟨fun _ => rfl, fun _ => rfl, fun _ => rfl, fun _
    => rfl, fun _ => rfl, fun _ => rfl, fun _ => rfl, fun _ => rfl, fun _ => rfl, fun k => absurd (b9.symm.trans k) (by
    decide), fun _ => rfl, fun _ => rfl, fun _ => rfl, fun _ => rfl, fun _ => ⟨rfl, rfl⟩, fun _ => rfl, fun _ => rfl⟩⟩

/-- An update of pool. -/
theorem keeps_pool {m : Nat} {a s : State} (x0) (b10 : m.testBit 10 = true) (h : Keeps m a s) : Keeps m a ⟨s.pending,
    s.variant, s.serial, s.fresh, s.cycle, s.regs, s.ctrs, s.tab0, s.tab1, s.out, s.clk, s.ctl, s.forme, s.rcd, s.host,
    s.path, s.core, s.learn, s.ciph, s.mp, x0, s.pwr⟩ :=
  h.trans ⟨rfl, rfl, rfl, le_refl _, le_refl _, List.suffix_refl _, id, ⟨fun _ => rfl, fun _ => rfl, fun _ => rfl, fun _
    => rfl, fun _ => rfl, fun _ => rfl, fun _ => rfl, fun _ => rfl, fun _ => rfl, fun _ => rfl, fun k => absurd
    (b10.symm.trans k) (by decide), fun _ => rfl, fun _ => rfl, fun _ => rfl, fun _ => ⟨rfl, rfl⟩, fun _ => rfl, fun _ =>
    rfl⟩⟩

/-- An update of pwr. -/
theorem keeps_pwr {m : Nat} {a s : State} (x0) (b11 : m.testBit 11 = true) (h : Keeps m a s) : Keeps m a ⟨s.pending,
    s.variant, s.serial, s.fresh, s.cycle, s.regs, s.ctrs, s.tab0, s.tab1, s.out, s.clk, s.ctl, s.forme, s.rcd, s.host,
    s.path, s.core, s.learn, s.ciph, s.mp, s.pool, x0⟩ :=
  h.trans ⟨rfl, rfl, rfl, le_refl _, le_refl _, List.suffix_refl _, id, ⟨fun _ => rfl, fun _ => rfl, fun _ => rfl, fun _
    => rfl, fun _ => rfl, fun _ => rfl, fun _ => rfl, fun _ => rfl, fun _ => rfl, fun _ => rfl, fun _ => rfl, fun k =>
    absurd (b11.symm.trans k) (by decide), fun _ => rfl, fun _ => rfl, fun _ => ⟨rfl, rfl⟩, fun _ => rfl, fun _ => rfl⟩⟩

/-- An update of both. -/
theorem keeps_ciph_pwr {m : Nat} {a s : State} (x0 x1) (b8 : m.testBit 8 = true) (b11 : m.testBit 11 = true) (h :
    Keeps m a s) : Keeps m a ⟨s.pending, s.variant, s.serial, s.fresh, s.cycle, s.regs, s.ctrs, s.tab0, s.tab1, s.out,
    s.clk, s.ctl, s.forme, s.rcd, s.host, s.path, s.core, s.learn, x0, s.mp, s.pool, x1⟩ :=
  h.trans ⟨rfl, rfl, rfl, le_refl _, le_refl _, List.suffix_refl _, id, ⟨fun _ => rfl, fun _ => rfl, fun _ => rfl, fun _
    => rfl, fun _ => rfl, fun _ => rfl, fun _ => rfl, fun _ => rfl, fun k => absurd (b8.symm.trans k) (by decide), fun _
    => rfl, fun _ => rfl, fun k => absurd (b11.symm.trans k) (by decide), fun _ => rfl, fun _ => rfl, fun _ => ⟨rfl, rfl⟩,
    fun _ => rfl, fun _ => rfl⟩⟩

/-- An update of both. -/
theorem keeps_path_pool {m : Nat} {a s : State} (x0 x1) (b5 : m.testBit 5 = true) (b10 : m.testBit 10 = true) (h :
    Keeps m a s) : Keeps m a ⟨s.pending, s.variant, s.serial, s.fresh, s.cycle, s.regs, s.ctrs, s.tab0, s.tab1, s.out,
    s.clk, s.ctl, s.forme, s.rcd, s.host, x0, s.core, s.learn, s.ciph, s.mp, x1, s.pwr⟩ :=
  h.trans ⟨rfl, rfl, rfl, le_refl _, le_refl _, List.suffix_refl _, id, ⟨fun _ => rfl, fun _ => rfl, fun _ => rfl, fun _
    => rfl, fun _ => rfl, fun k => absurd (b5.symm.trans k) (by decide), fun _ => rfl, fun _ => rfl, fun _ => rfl, fun _
    => rfl, fun k => absurd (b10.symm.trans k) (by decide), fun _ => rfl, fun _ => rfl, fun _ => rfl, fun _ => ⟨rfl, rfl⟩,
    fun _ => rfl, fun _ => rfl⟩⟩

/-- An update of the four. -/
theorem keeps_clk_core_learn_mp {m : Nat} {a s : State} (x0 x1 x2 x3) (b0 : m.testBit 0 = true) (b6 : m.testBit 6 =
    true) (b7 : m.testBit 7 = true) (b9 : m.testBit 9 = true) (h : Keeps m a s) : Keeps m a ⟨s.pending, s.variant,
    s.serial, s.fresh, s.cycle, s.regs, s.ctrs, s.tab0, s.tab1, s.out, x0, s.ctl, s.forme, s.rcd, s.host, s.path, x1, x2,
    s.ciph, x3, s.pool, s.pwr⟩ :=
  h.trans ⟨rfl, rfl, rfl, le_refl _, le_refl _, List.suffix_refl _, id, ⟨fun k => absurd (b0.symm.trans k) (by decide),
    fun _ => rfl, fun _ => rfl, fun _ => rfl, fun _ => rfl, fun _ => rfl, fun k => absurd (b6.symm.trans k) (by decide),
    fun k => absurd (b7.symm.trans k) (by decide), fun _ => rfl, fun k => absurd (b9.symm.trans k) (by decide), fun _ =>
    rfl, fun _ => rfl, fun _ => rfl, fun _ => rfl, fun _ => ⟨rfl, rfl⟩, fun _ => rfl, fun _ => rfl⟩⟩

/-- A draw. -/
theorem keeps_fresh {m : Nat} {a s : State} (b15 : m.testBit 15 = true) (h : Keeps m a s) : Keeps m a ⟨s.pending,
    s.variant, s.serial, s.fresh + 1, s.cycle, s.regs, s.ctrs, s.tab0, s.tab1, s.out, s.clk, s.ctl, s.forme, s.rcd,
    s.host, s.path, s.core, s.learn, s.ciph, s.mp, s.pool, s.pwr⟩ :=
  h.trans ⟨rfl, rfl, rfl, Nat.le_succ _, le_refl _, List.suffix_refl _, id, ⟨fun _ => rfl, fun _ => rfl, fun _ => rfl,
    fun _ => rfl, fun _ => rfl, fun _ => rfl, fun _ => rfl, fun _ => rfl, fun _ => rfl, fun _ => rfl, fun _ => rfl, fun _
    => rfl, fun _ => rfl, fun _ => rfl, fun _ => ⟨rfl, rfl⟩, fun k => absurd (b15.symm.trans k) (by decide), fun _ =>
    rfl⟩⟩

/-- A draw beside an update of rcd. -/
theorem keeps_fresh_rcd {m : Nat} {a s : State} (x1) (b3 : m.testBit 3 = true) (b15 : m.testBit 15 = true) (h : Keeps
    m a s) : Keeps m a ⟨s.pending, s.variant, s.serial, s.fresh + 1, s.cycle, s.regs, s.ctrs, s.tab0, s.tab1, s.out,
    s.clk, s.ctl, s.forme, x1, s.host, s.path, s.core, s.learn, s.ciph, s.mp, s.pool, s.pwr⟩ :=
  h.trans ⟨rfl, rfl, rfl, Nat.le_succ _, le_refl _, List.suffix_refl _, id, ⟨fun _ => rfl, fun _ => rfl, fun _ => rfl,
    fun k => absurd (b3.symm.trans k) (by decide), fun _ => rfl, fun _ => rfl, fun _ => rfl, fun _ => rfl, fun _ => rfl,
    fun _ => rfl, fun _ => rfl, fun _ => rfl, fun _ => rfl, fun _ => rfl, fun _ => ⟨rfl, rfl⟩, fun k => absurd
    (b15.symm.trans k) (by decide), fun _ => rfl⟩⟩

/-- A core cycle. -/
theorem keeps_cycle {m : Nat} {a s : State} (b16 : m.testBit 16 = true) (h : Keeps m a s) : Keeps m a ⟨s.pending,
    s.variant, s.serial, s.fresh, s.cycle + 1, s.regs, s.ctrs, s.tab0, s.tab1, s.out, s.clk, s.ctl, s.forme, s.rcd,
    s.host, s.path, s.core, s.learn, s.ciph, s.mp, s.pool, s.pwr⟩ :=
  h.trans ⟨rfl, rfl, rfl, le_refl _, Nat.le_succ _, List.suffix_refl _, id, ⟨fun _ => rfl, fun _ => rfl, fun _ => rfl,
    fun _ => rfl, fun _ => rfl, fun _ => rfl, fun _ => rfl, fun _ => rfl, fun _ => rfl, fun _ => rfl, fun _ => rfl, fun _
    => rfl, fun _ => rfl, fun _ => rfl, fun _ => ⟨rfl, rfl⟩, fun _ => rfl, fun k => absurd (b16.symm.trans k) (by
    decide)⟩⟩

/-- An output. -/
theorem keeps_out {m : Nat} {a s : State} (x0 : Output) (h : Keeps m a s) : Keeps m a ⟨s.pending, s.variant, s.serial, s.fresh,
    s.cycle, s.regs, s.ctrs, s.tab0, s.tab1, x0 :: s.out, s.clk, s.ctl, s.forme, s.rcd, s.host, s.path, s.core, s.learn,
    s.ciph, s.mp, s.pool, s.pwr⟩ :=
  h.trans ⟨rfl, rfl, rfl, le_refl _, le_refl _, List.suffix_cons _ _, id, ⟨fun _ => rfl, fun _ => rfl, fun _ => rfl, fun
    _ => rfl, fun _ => rfl, fun _ => rfl, fun _ => rfl, fun _ => rfl, fun _ => rfl, fun _ => rfl, fun _ => rfl, fun _ =>
    rfl, fun _ => rfl, fun _ => rfl, fun _ => ⟨rfl, rfl⟩, fun _ => rfl, fun _ => rfl⟩⟩

/-- An update of both. -/
theorem keeps_core_pool {m : Nat} {a s : State} (x0 x1) (b6 : m.testBit 6 = true) (b10 : m.testBit 10 = true) (h :
    Keeps m a s) : Keeps m a ⟨s.pending, s.variant, s.serial, s.fresh, s.cycle, s.regs, s.ctrs, s.tab0, s.tab1, s.out,
    s.clk, s.ctl, s.forme, s.rcd, s.host, s.path, x0, s.learn, s.ciph, s.mp, x1, s.pwr⟩ :=
  h.trans ⟨rfl, rfl, rfl, le_refl _, le_refl _, List.suffix_refl _, id, ⟨fun _ => rfl, fun _ => rfl, fun _ => rfl, fun
    _ => rfl, fun _ => rfl, fun _ => rfl, fun k => absurd (b6.symm.trans k) (by decide), fun _ => rfl, fun _ => rfl,
    fun _ => rfl, fun k => absurd (b10.symm.trans k) (by decide), fun _ => rfl, fun _ => rfl, fun _ => rfl, fun _ =>
    ⟨rfl, rfl⟩, fun _ => rfl, fun _ => rfl⟩⟩

/-- An update of both. -/
theorem keeps_ctl_forme {m : Nat} {a s : State} (x0 x1) (b1 : m.testBit 1 = true) (b2 : m.testBit 2 = true) (h : Keeps
    m a s) : Keeps m a ⟨s.pending, s.variant, s.serial, s.fresh, s.cycle, s.regs, s.ctrs, s.tab0, s.tab1, s.out, s.clk,
    x0, x1, s.rcd, s.host, s.path, s.core, s.learn, s.ciph, s.mp, s.pool, s.pwr⟩ :=
  h.trans ⟨rfl, rfl, rfl, le_refl _, le_refl _, List.suffix_refl _, id, ⟨fun _ => rfl, fun k => absurd (b1.symm.trans
    k) (by decide), fun k => absurd (b2.symm.trans k) (by decide), fun _ => rfl, fun _ => rfl, fun _ => rfl, fun _ =>
    rfl, fun _ => rfl, fun _ => rfl, fun _ => rfl, fun _ => rfl, fun _ => rfl, fun _ => rfl, fun _ => rfl, fun _ =>
    ⟨rfl, rfl⟩, fun _ => rfl, fun _ => rfl⟩⟩

/-- An update of both. -/
theorem keeps_rcd_mp {m : Nat} {a s : State} (x0 x1) (b3 : m.testBit 3 = true) (b9 : m.testBit 9 = true) (h : Keeps m a
    s) : Keeps m a ⟨s.pending, s.variant, s.serial, s.fresh, s.cycle, s.regs, s.ctrs, s.tab0, s.tab1, s.out, s.clk,
    s.ctl, s.forme, x0, s.host, s.path, s.core, s.learn, s.ciph, x1, s.pool, s.pwr⟩ :=
  h.trans ⟨rfl, rfl, rfl, le_refl _, le_refl _, List.suffix_refl _, id, ⟨fun _ => rfl, fun _ => rfl, fun _ => rfl, fun
    k => absurd (b3.symm.trans k) (by decide), fun _ => rfl, fun _ => rfl, fun _ => rfl, fun _ => rfl, fun _ => rfl,
    fun k => absurd (b9.symm.trans k) (by decide), fun _ => rfl, fun _ => rfl, fun _ => rfl, fun _ => rfl, fun _ =>
    ⟨rfl, rfl⟩, fun _ => rfl, fun _ => rfl⟩⟩

/-- An update of both. -/
theorem keeps_fresh_ciph {m : Nat} {a s : State} (x0) (b8 : m.testBit 8 = true) (b15 : m.testBit 15 = true) (h : Keeps
    m a s) : Keeps m a ⟨s.pending, s.variant, s.serial, s.fresh + 1, s.cycle, s.regs, s.ctrs, s.tab0, s.tab1, s.out,
    s.clk, s.ctl, s.forme, s.rcd, s.host, s.path, s.core, s.learn, x0, s.mp, s.pool, s.pwr⟩ :=
  h.trans ⟨rfl, rfl, rfl, Nat.le_succ _, le_refl _, List.suffix_refl _, id, ⟨fun _ => rfl, fun _ => rfl, fun _ => rfl,
    fun _ => rfl, fun _ => rfl, fun _ => rfl, fun _ => rfl, fun _ => rfl, fun k => absurd (b8.symm.trans k) (by
    decide), fun _ => rfl, fun _ => rfl, fun _ => rfl, fun _ => rfl, fun _ => rfl, fun _ => ⟨rfl, rfl⟩, fun k => absurd
    (b15.symm.trans k) (by decide), fun _ => rfl⟩⟩

theorem keeps_foldl {α : Type} {m : Nat} {a s : State} (l : List α) (f : State → α → State)
    (hf : ∀ s x, Keeps m a s → Keeps m a (f s x)) (h : Keeps m a s) : Keeps m a (l.foldl f s) := by
  induction l generalizing s with
  | nil => exact h
  | cons x l ih => exact ih (hf _ _ h)

theorem keeps_foldl_fst {α β : Type} {m : Nat} {a : State} {s : State × β} (l : List α) (f : State × β → α → State × β)
    (hf : ∀ s x, Keeps m a s.1 → Keeps m a (f s x).1) (h : Keeps m a s.1) : Keeps m a (l.foldl f s).1 := by
  induction l generalizing s with
  | nil => exact h
  | cons x l ih => exact ih (hf _ _ h)

theorem keeps_elim {α : Type} {m : Nat} {a x : State} (o : Option α) (f : α → State) (hx : Keeps m a x) (hf : ∀ c, Keeps m a (f c)) :
    Keeps m a (o.elim x f) := by cases o <;> simp_all

theorem keepsO_next {m : Nat} {a s : State} (h : Keeps m a s) : KeepsO m a (.next s) := fun _ e => by cases e; exact h

theorem nextOf_keeps {m : Nat} {a : State} (s t : State) (h : Keeps m a (irqEdge s t)) : KeepsO m a (nextOf s t) := keepsO_next h

theorem onlyIf_keeps {m : Nat} {a : State} (c : Bool) (s t : State) (h : Keeps m a s) (h' : Keeps m a t) : Keeps m a (onlyIf c s t) := by
  unfold onlyIf; split <;> assumption

theorem wr_keeps {m : Nat} {a : State} (hm : Within 4096 m) (s : State) (o : Nat) (v : Word) (h : Keeps m a s) : Keeps
    m a (wr s o v) :=
  h.trans ⟨rfl, rfl, rfl, le_refl _, le_refl _, List.suffix_refl _, fun c => ⟨SMap.wf_smSet c.1 _ _, c.2⟩,
    ⟨fun _ => rfl, fun _ => rfl, fun _ => rfl, fun _ => rfl, fun _ => rfl, fun _ => rfl, fun _ => rfl, fun _ => rfl, fun _
    => rfl, fun _ => rfl, fun _ => rfl, fun _ => rfl, fun k => absurd ((hm.bit (i := 12) rfl).symm.trans k) (by decide),
    fun _ => rfl, fun _ => ⟨rfl, rfl⟩, fun _ => rfl, fun _ => rfl⟩⟩

theorem setCtr_keeps {m : Nat} {a : State} (hm : Within 8192 m) (s : State) (k v : Nat) (h : Keeps m a s) : Keeps m a
    (setCtr s k v) :=
  h.trans ⟨rfl, rfl, rfl, le_refl _, le_refl _, List.suffix_refl _, fun c => ⟨c.1, SMap.wf_smSet c.2.1 _ _, c.2.2⟩,
    ⟨fun _ => rfl, fun _ => rfl, fun _ => rfl, fun _ => rfl, fun _ => rfl, fun _ => rfl, fun _ => rfl, fun _ => rfl, fun _
    => rfl, fun _ => rfl, fun _ => rfl, fun _ => rfl, fun _ => rfl, fun k => absurd ((hm.bit (i := 13) rfl).symm.trans k)
    (by decide), fun _ => ⟨rfl, rfl⟩, fun _ => rfl, fun _ => rfl⟩⟩

theorem setRow_keeps {m : Nat} {a : State} (hm : Within 16384 m) (s : State) (parity : Bool) (table r image : Nat)
    (h : Keeps m a s) : Keeps m a (setRow s parity table r image) := by
  unfold setRow
  split
  · exact h.trans ⟨rfl, rfl, rfl, le_refl _, le_refl _, List.suffix_refl _, fun c => ⟨c.1, c.2.1, c.2.2.1, SMap.wf_smSet c.2.2.2
      _ _⟩, ⟨fun _ => rfl, fun _ => rfl, fun _ => rfl, fun _ => rfl, fun _ => rfl, fun _ => rfl, fun _ => rfl, fun _ => rfl,
      fun _ => rfl, fun _ => rfl, fun _ => rfl, fun _ => rfl, fun _ => rfl, fun _ => rfl, fun k => absurd ((hm.bit (i := 14)
      rfl).symm.trans k) (by decide), fun _ => rfl, fun _ => rfl⟩⟩
  · exact h.trans ⟨rfl, rfl, rfl, le_refl _, le_refl _, List.suffix_refl _, fun c => ⟨c.1, c.2.1, SMap.wf_smSet c.2.2.1 _ _,
      c.2.2.2⟩, ⟨fun _ => rfl, fun _ => rfl, fun _ => rfl, fun _ => rfl, fun _ => rfl, fun _ => rfl, fun _ => rfl, fun _ =>
      rfl, fun _ => rfl, fun _ => rfl, fun _ => rfl, fun _ => rfl, fun _ => rfl, fun _ => rfl, fun k => absurd ((hm.bit (i
      := 14) rfl).symm.trans k) (by decide), fun _ => rfl, fun _ => rfl⟩⟩

theorem clearCounters_keeps {m : Nat} {a : State} (hm : Within 12288 m) (s : State) (h : Keeps m a s) : Keeps m a
    (clearCounters s) :=
  h.trans ⟨rfl, rfl, rfl, le_refl _, le_refl _, List.suffix_refl _, fun c => ⟨SMap.wf_filter c.1 _, SMap.wf_nil _,
    c.2.2⟩,
    ⟨fun _ => rfl, fun _ => rfl, fun _ => rfl, fun _ => rfl, fun _ => rfl, fun _ => rfl, fun _ => rfl, fun _ => rfl, fun _
    => rfl, fun _ => rfl, fun _ => rfl, fun _ => rfl, fun k => absurd ((hm.bit (i := 12) rfl).symm.trans k) (by decide),
    fun k => absurd ((hm.bit (i := 13) rfl).symm.trans k) (by decide), fun _ => ⟨rfl, rfl⟩, fun _ => rfl, fun _ => rfl⟩⟩

theorem restart_keeps {m : Nat} {a : State} (hm : Within 32767 m) (s : State) (power : Bool) (h : Keeps m a s) : Keeps
    m a (restart s power) :=
  h.trans ⟨rfl, rfl, rfl, le_refl _, le_refl _, List.suffix_refl _, fun c => ⟨SMap.wf_filter c.1 _, SMap.wf_nil _,
    SMap.wf_nil _, SMap.wf_nil _⟩,
    ⟨fun k => absurd ((hm.bit (i := 0) rfl).symm.trans k) (by decide), fun k => absurd ((hm.bit (i := 1) rfl).symm.trans
    k) (by decide), fun k => absurd ((hm.bit (i := 2) rfl).symm.trans k) (by decide), fun k => absurd ((hm.bit (i := 3)
    rfl).symm.trans k) (by decide), fun k => absurd ((hm.bit (i := 4) rfl).symm.trans k) (by decide), fun k => absurd
    ((hm.bit (i := 5) rfl).symm.trans k) (by decide), fun k => absurd ((hm.bit (i := 6) rfl).symm.trans k) (by decide),
    fun k => absurd ((hm.bit (i := 7) rfl).symm.trans k) (by decide), fun k => absurd ((hm.bit (i := 8) rfl).symm.trans k)
    (by decide), fun k => absurd ((hm.bit (i := 9) rfl).symm.trans k) (by decide), fun k => absurd ((hm.bit (i := 10)
    rfl).symm.trans k) (by decide), fun k => absurd ((hm.bit (i := 11) rfl).symm.trans k) (by decide), fun k => absurd
    ((hm.bit (i := 12) rfl).symm.trans k) (by decide), fun k => absurd ((hm.bit (i := 13) rfl).symm.trans k) (by decide),
    fun k => absurd ((hm.bit (i := 14) rfl).symm.trans k) (by decide), fun _ => rfl, fun _ => rfl⟩⟩

end Sys2Proof.Machine
end

