-- ==== Sys2Proof/Laws/KeepsA.lean ====
section
/-! SUPPORT. Keeps, for every operation of Machine/: Ops.lean, Summary.lean, RingOps.lean. -/

set_option linter.unusedTactic false
set_option linter.unreachableTactic false
set_option linter.unusedVariables false

namespace Sys2Proof.Machine

theorem wrF_keeps {pm : Nat} {org : State} (hm : Within 4096 pm) (s : State) (o hi lo v : Nat) (h : Keeps pm org s) :
    Keeps pm org (wrF s o hi lo v) := by
  have k4096 : Within 4096 pm := hm.sub rfl
  unfold wrF
  repeat' (first | (with_reducible first | assumption | apply wr_keeps k4096) | split)

theorem wrB_keeps {pm : Nat} {org : State} (hm : Within 4096 pm) (s : State) (o i : Nat) (v : Bool) (h : Keeps pm org s)
    : Keeps pm org (wrB s o i v) := by
  have k4096 : Within 4096 pm := hm.sub rfl
  unfold wrB
  repeat' (first | (with_reducible first | assumption | apply wrF_keeps k4096) | split)

theorem stickRaw_keeps {pm : Nat} {org : State} (hm : Within 4096 pm) (s : State) (o w n : Nat) (h : Keeps pm org s) :
    Keeps pm org (stickRaw s o w n) := by
  have k4096 : Within 4096 pm := hm.sub rfl
  unfold stickRaw
  repeat' (first | (with_reducible first | assumption | apply wr_keeps k4096) | split)

theorem draw_keeps {pm : Nat} {org : State} (hm : Within 32768 pm) (s : State) (h : Keeps pm org s) : Keeps pm org (draw
    s).1 := by
  have b15 := hm.bit (i := 15) rfl
  unfold draw
  repeat' (first | (with_reducible first | assumption | (fail_if_no_progress refine keeps_fresh b15 ?_)) | split)

theorem emit_keeps {pm : Nat} {org : State} (hm : Within 0 pm) (s : State) (o : Output) (h : Keeps pm org s) : Keeps pm
    org (emit s o) := by
  unfold emit
  repeat' (first | (with_reducible first | assumption | (fail_if_no_progress refine keeps_out _ ?_)) | split)

theorem raiseHalf_keeps {pm : Nat} {org : State} (hm : Within 4160 pm) (s : State) (half bit_ : Nat) (h : Keeps pm org s)
    : Keeps pm org (raiseHalf s half bit_) := by
  have k4096 : Within 4096 pm := hm.sub rfl
  have b6 := hm.bit (i := 6) rfl
  unfold raiseHalf
  repeat' (first
    | (with_reducible first
        | assumption | apply wrB_keeps k4096 | (fail_if_no_progress refine keeps_core _ b6 ?_))
    | split)

theorem frameCount_keeps {pm : Nat} {org : State} (hm : Within 12352 pm) (s : State) (k half bit_ : Nat) (h : Keeps pm
    org s) : Keeps pm org (frameCount s k half bit_) := by
  have k4160 : Within 4160 pm := hm.sub rfl
  have k8192 : Within 8192 pm := hm.sub rfl
  unfold frameCount
  repeat' (first
    | (with_reducible first
        | assumption | intro _ | apply raiseHalf_keeps k4160 | apply setCtr_keeps k8192 | apply keeps_ite
        | apply keeps_ite_fst)
    | split)

theorem frameCountReg_keeps {pm : Nat} {org : State} (hm : Within 4160 pm) (s : State) (o half bit_ : Nat) (h : Keeps pm
    org s) : Keeps pm org (frameCountReg s o half bit_) := by
  have k4096 : Within 4096 pm := hm.sub rfl
  have k4160 : Within 4160 pm := hm.sub rfl
  unfold frameCountReg
  repeat' (first
    | (with_reducible first
        | assumption | intro _ | apply raiseHalf_keeps k4160 | apply wr_keeps k4096 | apply keeps_ite
        | apply keeps_ite_fst)
    | split)

theorem setDom_keeps {pm : Nat} {org : State} (hm : Within 1 pm) (s : State) (d : Nat) (x : Dom) (h : Keeps pm org s) :
    Keeps pm org (setDom s d x) := by
  have b0 := hm.bit (i := 0) rfl
  unfold setDom
  repeat' (first
    | (with_reducible first
        | assumption | intro _ | apply keeps_ite | apply keeps_ite_fst | (fail_if_no_progress refine keeps_clk _ b0 ?_))
    | split)

theorem post_keeps {pm : Nat} {org : State} (hm : Within 4104 pm) (s : State) (code origin : Nat) (d : List (Nat × Nat))
    (h : Keeps pm org s) : Keeps pm org (post s code origin d) := by
  have k4096 : Within 4096 pm := hm.sub rfl
  have b3 := hm.bit (i := 3) rfl
  unfold post
  repeat' (first
    | (with_reducible first
        | assumption | intro _ | apply stickRaw_keeps k4096 | apply keeps_ite | apply keeps_ite_fst
        | (fail_if_no_progress refine keeps_rcd _ b3 ?_))
    | split)

theorem postHw_keeps {pm : Nat} {org : State} (hm : Within 4104 pm) (s : State) (code : Nat) (d : List (Nat × Nat)) (h :
    Keeps pm org s) : Keeps pm org (postHw s code d) := by
  have k4104 : Within 4104 pm := hm.sub rfl
  unfold postHw
  repeat' (first | (with_reducible first | assumption | apply post_keeps k4104) | split)

theorem postRateFrom_keeps {pm : Nat} {org : State} (hm : Within 4104 pm) (s : State) (gap unit code origin : Nat) (d :
    List (Nat × Nat)) (h : Keeps pm org s) : Keeps pm org (postRateFrom s gap unit code origin d) := by
  have k4104 : Within 4104 pm := hm.sub rfl
  have b3 := hm.bit (i := 3) rfl
  unfold postRateFrom
  repeat' (first
    | (with_reducible first
        | assumption | intro _ | apply post_keeps k4104 | apply keeps_ite | apply keeps_ite_fst
        | (fail_if_no_progress refine keeps_rcd _ b3 ?_))
    | split)

theorem postRate_keeps {pm : Nat} {org : State} (hm : Within 4104 pm) (s : State) (gap unit code : Nat) (d : List (Nat ×
    Nat)) (h : Keeps pm org s) : Keeps pm org (postRate s gap unit code d) := by
  have k4104 : Within 4104 pm := hm.sub rfl
  unfold postRate
  repeat' (first | (with_reducible first | assumption | apply postRateFrom_keeps k4104) | split)

theorem stick_keeps {pm : Nat} {org : State} (hm : Within 4104 pm) (s : State) (o w n : Nat) (h : Keeps pm org s) : Keeps
    pm org (stick s o w n) := by
  have k4096 : Within 4096 pm := hm.sub rfl
  have k4104 : Within 4104 pm := hm.sub rfl
  unfold stick
  repeat' (first
    | (with_reducible first
        | assumption | intro _ | apply postHw_keeps k4104 | apply stickRaw_keeps k4096 | apply keeps_ite
        | apply keeps_ite_fst)
    | split)

theorem bump_keeps {pm : Nat} {org : State} (hm : Within 4104 pm) (s : State) (o : Nat) (h : Keeps pm org s) : Keeps pm
    org (bump s o) := by
  have k4104 : Within 4104 pm := hm.sub rfl
  unfold bump
  repeat' (first | (with_reducible first | assumption | apply stick_keeps k4104) | split)

theorem journal_keeps {pm : Nat} {org : State} (hm : Within 8 pm) (s : State) (kind origin : Nat) (d : List (Nat × Nat))
    (h : Keeps pm org s) : Keeps pm org (journal s kind origin d) := by
  have b3 := hm.bit (i := 3) rfl
  unfold journal
  repeat' (first | (with_reducible first | assumption | (fail_if_no_progress refine keeps_rcd _ b3 ?_)) | split)

theorem journalPart_keeps {pm : Nat} {org : State} (hm : Within 8 pm) (s : State) (kind origin part : Nat) (d : List (Nat
    × Nat)) (h : Keeps pm org s) : Keeps pm org (journalPart s kind origin part d) := by
  have b3 := hm.bit (i := 3) rfl
  unfold journalPart
  repeat' (first | (with_reducible first | assumption | (fail_if_no_progress refine keeps_rcd _ b3 ?_)) | split)

theorem journalDirect_keeps {pm : Nat} {org : State} (hm : Within 8 pm) (s : State) (origin off : Nat) (v : Word) (h :
    Keeps pm org s) : Keeps pm org (journalDirect s origin off v) := by
  have k8 : Within 8 pm := hm.sub rfl
  unfold journalDirect
  repeat' (first | (with_reducible first | assumption | apply journal_keeps k8) | split)

theorem assertFault_keeps {pm : Nat} {org : State} (hm : Within 6144 pm) (s : State) (cause : Nat) (h : Keeps pm org s) :
    Keeps pm org (assertFault s cause) := by
  have k4096 : Within 4096 pm := hm.sub rfl
  have b11 := hm.bit (i := 11) rfl
  unfold assertFault
  repeat' (first
    | (with_reducible first
        | assumption | intro _ | apply wrF_keeps k4096 | apply keeps_ite | apply keeps_ite_fst
        | (fail_if_no_progress refine keeps_pwr _ b11 ?_))
    | split)

theorem raise_keeps {pm : Nat} {org : State} (hm : Within 0 pm) (s : State) (link : Bool) (v : Nat) (h : Keeps pm org s)
    : Keeps pm org (raise s link v) := by
  have key (p : SMap Bool) : Keeps pm org { s with host := { s.host with msixPend := p } } :=
    h.trans ⟨rfl, rfl, rfl, le_refl _, le_refl _, List.suffix_refl _, id, ⟨fun _ => rfl, fun _ => rfl, fun _ => rfl,
        fun _ => rfl, fun _ => rfl, fun _ => rfl, fun _ => rfl, fun _ => rfl, fun _ => rfl, fun _ => rfl, fun _ => rfl,
        fun _ => rfl, fun _ => rfl, fun _ => rfl, fun _ => ⟨rfl, rfl⟩, fun _ => rfl, fun _ => rfl⟩⟩
  unfold raise
  dsimp only
  repeat' (first | exact key _ | exact emit_keeps (hm.sub rfl) _ _ h | exact h | split)

theorem raiseReg_keeps {pm : Nat} {org : State} (hm : Within 0 pm) (s : State) (link : Bool) (o : Nat) (h : Keeps pm org
    s) : Keeps pm org (raiseReg s link o) := by
  have k0 : Within 0 pm := hm.sub rfl
  unfold raiseReg
  repeat' (first
    | (with_reducible first
        | assumption | intro _ | apply raise_keeps k0 | apply keeps_ite | apply keeps_ite_fst)
    | split)

theorem perfAdd_keeps {pm : Nat} {org : State} (hm : Within 4096 pm) (s : State) (b k n : Nat) (h : Keeps pm org s) :
    Keeps pm org (perfAdd s b k n) := by
  have k0 : Within 0 pm := hm.sub rfl
  have k4096 : Within 4096 pm := hm.sub rfl
  unfold perfAdd
  repeat' (first
    | (with_reducible first
        | assumption | intro _ | apply raiseReg_keeps k0 | apply wr_keeps k4096 | apply wrB_keeps k4096 | apply keeps_ite
        | apply keeps_ite_fst)
    | split)

theorem perf_keeps {pm : Nat} {org : State} (hm : Within 4096 pm) (s : State) (b ev n : Nat) (h : Keeps pm org s) : Keeps
    pm org (perf s b ev n) := by
  have k4096 : Within 4096 pm := hm.sub rfl
  unfold perf
  repeat' (first
    | (with_reducible first
        | assumption | intro _ | apply perfAdd_keeps k4096 | apply keeps_ite | apply keeps_ite_fst | apply keeps_foldl
        | apply keeps_foldl_fst)
    | split)

theorem accessErr_keeps {pm : Nat} {org : State} (hm : Within 4104 pm) (s : State) (link : Bool) (bit_ off : Nat) (h :
    Keeps pm org s) : Keeps pm org (accessErr s link bit_ off) := by
  have k4096 : Within 4096 pm := hm.sub rfl
  have k4104 : Within 4104 pm := hm.sub rfl
  unfold accessErr
  repeat' (first
    | (with_reducible first
        | assumption | intro _ | apply postRate_keeps k4104 | apply wr_keeps k4096 | apply wrB_keeps k4096
        | apply keeps_ite | apply keeps_ite_fst)
    | split)

theorem setLedger_keeps {pm : Nat} {org : State} (hm : Within 1024 pm) (s : State) (e v : Nat) (h : Keeps pm org s) :
    Keeps pm org (setLedger s e v) := by
  have b10 := hm.bit (i := 10) rfl
  unfold setLedger
  repeat' (first
    | (with_reducible first
        | assumption | intro _ | (fail_if_no_progress refine keeps_pool _ b10 ?_))
    | split)

theorem setFifo_keeps {pm : Nat} {org : State} (hm : Within 1024 pm) (s : State) (k : Nat) (l : List PoolWait) (h : Keeps
    pm org s) : Keeps pm org (setFifo s k l) := by
  have b10 := hm.bit (i := 10) rfl
  unfold setFifo
  repeat' (first
    | (with_reducible first
        | assumption | intro _ | (fail_if_no_progress refine keeps_pool _ b10 ?_))
    | split)

theorem setBootSlot_keeps {pm : Nat} {org : State} (hm : Within 2048 pm) (s : State) (k : Nat) (x : Option BootImage) (h
    : Keeps pm org s) : Keeps pm org (setBootSlot s k x) := by
  have b11 := hm.bit (i := 11) rfl
  unfold setBootSlot
  repeat' (first
    | (with_reducible first
        | assumption | intro _ | apply keeps_ite | apply keeps_ite_fst | (fail_if_no_progress refine keeps_pwr _ b11 ?_))
    | split)

theorem raiseSummary_keeps {pm : Nat} {org : State} (hm : Within 0 pm) (s : State) (l : Bool) (h : Keeps pm org s) :
    Keeps pm org (raiseSummary s l) := by
  have k0 : Within 0 pm := hm.sub rfl
  unfold raiseSummary
  repeat' (first | (with_reducible first | assumption | apply raise_keeps k0) | split)

theorem linkEdge_keeps {pm : Nat} {org : State} (hm : Within 0 pm) (s : State) (l : Bool) (t : State) (h : Keeps pm org
    t) : Keeps pm org (linkEdge s l t) := by
  have k0 : Within 0 pm := hm.sub rfl
  unfold linkEdge
  repeat' (first
    | (with_reducible first
        | assumption | intro _ | apply raiseSummary_keeps k0 | apply keeps_ite | apply keeps_ite_fst)
    | split)

theorem irqEdge_keeps {pm : Nat} {org : State} (hm : Within 0 pm) (s t : State) (h : Keeps pm org t) : Keeps pm org
    (irqEdge s t) := by
  have k0 : Within 0 pm := hm.sub rfl
  unfold irqEdge
  repeat' (first | (with_reducible first | assumption | apply linkEdge_keeps k0) | split)

theorem setRt_keeps {pm : Nat} {org : State} (hm : Within 2 pm) (s : State) (n : Nat) (r : RingRt) (h : Keeps pm org s) :
    Keeps pm org (setRt s n r) := by
  have b1 := hm.bit (i := 1) rfl
  unfold setRt
  repeat' (first | (with_reducible first | assumption | (fail_if_no_progress refine keeps_ctl _ b1 ?_)) | split)

theorem yieldTurn_keeps {pm : Nat} {org : State} (hm : Within 2 pm) (s : State) (n : Nat) (h : Keeps pm org s) : Keeps pm
    org (yieldTurn s n) := by
  have b1 := hm.bit (i := 1) rfl
  unfold yieldTurn
  repeat' (first
    | (with_reducible first
        | assumption | intro _ | apply keeps_ite | apply keeps_ite_fst | (fail_if_no_progress refine keeps_ctl _ b1 ?_))
    | split)

theorem refreshState_keeps {pm : Nat} {org : State} (hm : Within 4098 pm) (s : State) (n : Nat) (h : Keeps pm org s) :
    Keeps pm org (refreshState s n) := by
  have k2 : Within 2 pm := hm.sub rfl
  have k4096 : Within 4096 pm := hm.sub rfl
  unfold refreshState
  repeat' (first
    | (with_reducible first
        | assumption | intro _ | apply wrF_keeps k4096 | apply yieldTurn_keeps k2 | apply keeps_ite | apply keeps_ite_fst
        | apply keeps_elim)
    | split)

theorem refreshFull_keeps {pm : Nat} {org : State} (hm : Within 4098 pm) (s : State) (n : Nat) (h : Keeps pm org s) :
    Keeps pm org (refreshFull s n) := by
  have k2 : Within 2 pm := hm.sub rfl
  have k4096 : Within 4096 pm := hm.sub rfl
  have k4098 : Within 4098 pm := hm.sub rfl
  unfold refreshFull
  repeat' (first
    | (with_reducible first
        | assumption | intro _ | apply refreshState_keeps k4098 | apply setRt_keeps k2 | apply wrB_keeps k4096
        | apply keeps_ite | apply keeps_ite_fst)
    | split)

theorem stopRing_keeps {pm : Nat} {org : State} (hm : Within 4096 pm) (s : State) (n bit_ : Nat) (h : Keeps pm org s) :
    Keeps pm org (stopRing s n bit_) := by
  have k4096 : Within 4096 pm := hm.sub rfl
  unfold stopRing
  repeat' (first | (with_reducible first | assumption | apply wrB_keeps k4096 | apply wrF_keeps k4096) | split)

theorem startProgram_keeps {pm : Nat} {org : State} (hm : Within 4106 pm) (s : State) (n : Nat) (h : Keeps pm org s) :
    Keeps pm org (startProgram s n) := by
  have k2 : Within 2 pm := hm.sub rfl
  have k4096 : Within 4096 pm := hm.sub rfl
  have k4098 : Within 4098 pm := hm.sub rfl
  have k4104 : Within 4104 pm := hm.sub rfl
  unfold startProgram
  repeat' (first
    | (with_reducible first
        | assumption | intro _ | apply postHw_keeps k4104 | apply refreshState_keeps k4098 | apply setRt_keeps k2
        | apply stopRing_keeps k4096 | apply keeps_ite | apply keeps_ite_fst)
    | split)

theorem takeIsn_keeps {pm : Nat} {org : State} (hm : Within 2 pm) (s : State) (h : Keeps pm org s) : Keeps pm org
    (takeIsn s) := by
  have b1 := hm.bit (i := 1) rfl
  unfold takeIsn
  repeat' (first | (with_reducible first | assumption | (fail_if_no_progress refine keeps_ctl _ b1 ?_)) | split)

theorem advanceHead_keeps {pm : Nat} {org : State} (hm : Within 4098 pm) (s : State) (n k : Nat) (h : Keeps pm org s) :
    Keeps pm org (advanceHead s n k) := by
  have k2 : Within 2 pm := hm.sub rfl
  have k4096 : Within 4096 pm := hm.sub rfl
  unfold advanceHead
  repeat' (first | (with_reducible first | assumption | apply setRt_keeps k2 | apply wrF_keeps k4096) | split)

theorem addRec_keeps {pm : Nat} {org : State} (hm : Within 2 pm) (s : State) (n : Nat) (x : Rec) (h : Keeps pm org s) :
    Keeps pm org (addRec s n x) := by
  have k2 : Within 2 pm := hm.sub rfl
  unfold addRec
  repeat' (first
    | (with_reducible first
        | assumption | intro _ | apply setRt_keeps k2 | apply keeps_ite | apply keeps_ite_fst)
    | split)

theorem queueRec_keeps {pm : Nat} {org : State} (hm : Within 2 pm) (s : State) (n : Nat) (x : Rec) (h : Keeps pm org s) :
    Keeps pm org (queueRec s n x) := by
  have k2 : Within 2 pm := hm.sub rfl
  have b1 := hm.bit (i := 1) rfl
  unfold queueRec
  repeat' (first
    | (with_reducible first
        | assumption | intro _ | apply addRec_keeps k2 | (fail_if_no_progress refine keeps_ctl _ b1 ?_))
    | split)

theorem clearProgram_keeps {pm : Nat} {org : State} (hm : Within 2 pm) (s : State) (n : Nat) (h : Keeps pm org s) : Keeps
    pm org (clearProgram s n) := by
  have k2 : Within 2 pm := hm.sub rfl
  unfold clearProgram
  repeat' (first | (with_reducible first | assumption | apply setRt_keeps k2 | apply yieldTurn_keeps k2) | split)

theorem abortProgram_keeps {pm : Nat} {org : State} (hm : Within 4106 pm) (s : State) (n evIsn evStatus : Nat) (endGone :
    Bool) (h : Keeps pm org s) : Keeps pm org (abortProgram s n evIsn evStatus endGone) := by
  have k2 : Within 2 pm := hm.sub rfl
  have k4096 : Within 4096 pm := hm.sub rfl
  have k4098 : Within 4098 pm := hm.sub rfl
  have k4104 : Within 4104 pm := hm.sub rfl
  have k4106 : Within 4106 pm := hm.sub rfl
  unfold abortProgram
  repeat' (first
    | (with_reducible first
        | assumption | intro _ | apply advanceHead_keeps k4098 | apply clearProgram_keeps k2 | apply postHw_keeps k4104
        | apply queueRec_keeps k2 | apply refreshState_keeps k4098 | apply startProgram_keeps k4106
        | apply takeIsn_keeps k2 | apply wrB_keeps k4096 | apply wrF_keeps k4096 | apply keeps_ite | apply keeps_ite_fst)
    | split)

theorem completeIns_keeps {pm : Nat} {org : State} (hm : Within 4106 pm) (s : State) (n isn opcode flags : Nat) (st :
    Status) (result : Nat) (force : Bool) (h : Keeps pm org s) : Keeps pm org (completeIns s n isn opcode flags st result
    force) := by
  have k2 : Within 2 pm := hm.sub rfl
  have k4096 : Within 4096 pm := hm.sub rfl
  have k4098 : Within 4098 pm := hm.sub rfl
  have k4106 : Within 4106 pm := hm.sub rfl
  unfold completeIns
  repeat' (first
    | (with_reducible first
        | assumption | intro _ | apply abortProgram_keeps k4106 | apply clearProgram_keeps k2 | apply queueRec_keeps k2
        | apply refreshState_keeps k4098 | apply setRt_keeps k2 | apply startProgram_keeps k4106 | apply wr_keeps k4096
        | apply keeps_ite | apply keeps_ite_fst)
    | split)

theorem takeTurn_keeps {pm : Nat} {org : State} (hm : Within 2 pm) (s : State) (n : Nat) (h : Keeps pm org s) : Keeps pm
    org (takeTurn s n) := by
  have b1 := hm.bit (i := 1) rfl
  unfold takeTurn
  repeat' (first
    | (with_reducible first
        | assumption | intro _ | apply keeps_ite | apply keeps_ite_fst | (fail_if_no_progress refine keeps_ctl _ b1 ?_))
    | split)

theorem issueIns_keeps {pm : Nat} {org : State} (hm : Within 4098 pm) (s : State) (n : Nat) (h : Keeps pm org s) : Keeps
    pm org (issueIns s n) := by
  have k2 : Within 2 pm := hm.sub rfl
  have k4096 : Within 4096 pm := hm.sub rfl
  have k4098 : Within 4098 pm := hm.sub rfl
  unfold issueIns
  repeat' (first
    | (with_reducible first
        | assumption | intro _ | apply advanceHead_keeps k4098 | apply perf_keeps k4096 | apply setRt_keeps k2
        | apply takeIsn_keeps k2 | apply takeTurn_keeps k2 | apply keeps_ite | apply keeps_ite_fst)
    | split)

theorem inExecution_keeps {pm : Nat} {org : State} (hm : Within 2 pm) (s : State) (n isn opcode flags : Nat) (h : Keeps
    pm org s) : Keeps pm org (inExecution s n isn opcode flags) := by
  have k2 : Within 2 pm := hm.sub rfl
  unfold inExecution
  repeat' (first | (with_reducible first | assumption | apply setRt_keeps k2) | split)

theorem settle_keeps {pm : Nat} {org : State} (hm : Within 4106 pm) (s : State) (n isn opcode flags : Nat) (v : Verdict)
    (h : Keeps pm org s) : Keeps pm org (settle s n isn opcode flags v) := by
  have k2 : Within 2 pm := hm.sub rfl
  have k4098 : Within 4098 pm := hm.sub rfl
  have k4106 : Within 4106 pm := hm.sub rfl
  cases v <;> dsimp only [settle]
  repeat' (first
    | (with_reducible first
        | assumption | intro _ | apply completeIns_keeps k4106 | apply refreshState_keeps k4098 | apply setRt_keeps k2
        | apply abortProgram_keeps k4106 | apply yieldTurn_keeps k2 | apply keeps_ite | apply keeps_foldl
        | apply keeps_foldl_fst)
    | split)

theorem runIns_keeps {pm : Nat} {org : State} (hm : Within 4106 pm) (s : State) (n opcode : Nat) (ins : Ins) (act : Nat →
    State → State × Verdict) (hact : ∀ y0 y1, Keeps pm org y1 → Keeps pm org (act y0 y1).1) (h : Keeps pm org s) : Keeps
    pm org (runIns s n opcode ins act) := by
  unfold runIns
  dsimp only
  have h1 := hact s.ctl.isn _ (inExecution_keeps (hm.sub rfl) _ n s.ctl.isn opcode ins.flags (issueIns_keeps (hm.sub rfl) s n h))
  repeat' (first | exact h | exact settle_keeps (hm.sub rfl) _ _ _ _ _ _ h1 | exact wr_keeps (hm.sub rfl) _ _ _ h1 | split)

theorem guardIns_keeps {pm : Nat} {org : State} (hm : Within 0 pm) (s : State) (checks : List (Bool × Status)) (act :
    State → State × Verdict) (hact : ∀ y0, Keeps pm org y0 → Keeps pm org (act y0).1) (h : Keeps pm org s) : Keeps pm org
    (guardIns s checks act).1 := by
  unfold guardIns
  repeat' (first | (with_reducible first | assumption | intro _ | apply hact) | split)

theorem operandFault_keeps {pm : Nat} {org : State} (hm : Within 4104 pm) (s : State) (n isn addr : Nat) (h : Keeps pm
    org s) : Keeps pm org (operandFault s n isn addr).1 := by
  have k4104 : Within 4104 pm := hm.sub rfl
  unfold operandFault
  repeat' (first | (with_reducible first | assumption | apply postHw_keeps k4104) | split)

theorem ownerWrite_keeps {pm : Nat} {org : State} (hm : Within 0 pm) (s : State) (n addr : Nat) (data : List Byte) (h :
    Keeps pm org s) : Keeps pm org (ownerWrite s n addr data) := by
  have k0 : Within 0 pm := hm.sub rfl
  unfold ownerWrite
  repeat' (first | (with_reducible first | assumption | apply emit_keeps k0) | split)

theorem valueWrite_keeps {pm : Nat} {org : State} (hm : Within 2 pm) (s : State) (n isn addr : Nat) (data : List Byte) (h
    : Keeps pm org s) : Keeps pm org (valueWrite s n isn addr data) := by
  have k0 : Within 0 pm := hm.sub rfl
  have b1 := hm.bit (i := 1) rfl
  unfold valueWrite
  repeat' (first
    | (with_reducible first
        | assumption | intro _ | apply ownerWrite_keeps k0 | (fail_if_no_progress refine keeps_ctl _ b1 ?_))
    | split)

theorem handDuplicates_keeps {pm : Nat} {org : State} (hm : Within 2 pm) (s : State) (isn : Nat) (h : Keeps pm org s) :
    Keeps pm org (handDuplicates s isn) := by
  have k0 : Within 0 pm := hm.sub rfl
  have k2 : Within 2 pm := hm.sub rfl
  unfold handDuplicates
  repeat' (first
    | (with_reducible first
        | assumption | intro _ | apply addRec_keeps k2 | apply ownerWrite_keeps k0 | apply keeps_foldl
        | apply keeps_foldl_fst)
    | split)

theorem completeTimed_keeps {pm : Nat} {org : State} (hm : Within 4106 pm) (s : State) (n isn opcode flags : Nat) (orphan
    : Bool) (st : Status) (result : Nat) (h : Keeps pm org s) : Keeps pm org (completeTimed s n isn opcode flags orphan
    st result) := by
  have k2 : Within 2 pm := hm.sub rfl
  have k4096 : Within 4096 pm := hm.sub rfl
  have k4106 : Within 4106 pm := hm.sub rfl
  unfold completeTimed
  repeat' (first
    | (with_reducible first
        | assumption | intro _ | apply abortProgram_keeps k4106 | apply queueRec_keeps k2 | apply setRt_keeps k2
        | apply wr_keeps k4096 | apply keeps_ite | apply keeps_ite_fst)
    | split)

end Sys2Proof.Machine
end

