-- ==== Sys2Proof/Laws/KeepsB.lean ====
section
/-! SUPPORT. Keeps, for every operation of Machine/: TimeOps.lean, CoreOps.lean, Parse.lean, Asa.lean. -/

set_option linter.unusedTactic false
set_option linter.unreachableTactic false
set_option linter.unusedVariables false

namespace Sys2Proof.Machine

theorem advTime_keeps {pm : Nat} {org : State} (hm : Within 1 pm) (s : State) (h : Keeps pm org s) : Keeps pm org
    (advTime s) := by
  have b0 := hm.bit (i := 0) rfl
  unfold advTime
  repeat' (first
    | (with_reducible first
        | assumption | intro _ | apply keeps_ite | apply keeps_ite_fst | (fail_if_no_progress refine keeps_clk _ b0 ?_))
    | split)

theorem macAdd_keeps {pm : Nat} {org : State} (hm : Within 4160 pm) (s : State) (p i n : Nat) (h : Keeps pm org s) :
    Keeps pm org (macAdd s p i n) := by
  have k4096 : Within 4096 pm := hm.sub rfl
  have k4160 : Within 4160 pm := hm.sub rfl
  unfold macAdd
  repeat' (first
    | (with_reducible first
        | assumption | intro _ | apply raiseHalf_keeps k4160 | apply wrB_keeps k4096 | apply wrF_keeps k4096
        | apply keeps_ite | apply keeps_ite_fst)
    | split)

theorem setGateHold_keeps {pm : Nat} {org : State} (hm : Within 4160 pm) (s : State) (p : Nat) (v : Bool) (h : Keeps pm
    org s) : Keeps pm org (setGateHold s p v) := by
  have k4096 : Within 4096 pm := hm.sub rfl
  have k4160 : Within 4160 pm := hm.sub rfl
  unfold setGateHold
  repeat' (first
    | (with_reducible first
        | assumption | intro _ | apply macAdd_keeps k4160 | apply wrB_keeps k4096 | apply keeps_ite | apply keeps_ite_fst)
    | split)

theorem gateApply_keeps {pm : Nat} {org : State} (hm : Within 4160 pm) (s : State) (p e : Nat) (h : Keeps pm org s) :
    Keeps pm org (gateApply s p e) := by
  have k4096 : Within 4096 pm := hm.sub rfl
  have k4160 : Within 4160 pm := hm.sub rfl
  unfold gateApply
  repeat' (first
    | (with_reducible first
        | assumption | intro _ | apply setGateHold_keeps k4160 | apply wrF_keeps k4096 | apply keeps_ite
        | apply keeps_ite_fst)
    | split)

theorem gateRefresh_keeps {pm : Nat} {org : State} (hm : Within 4160 pm) (s : State) (p : Nat) (h : Keeps pm org s) :
    Keeps pm org (gateRefresh s p) := by
  have k4160 : Within 4160 pm := hm.sub rfl
  unfold gateRefresh
  repeat' (first
    | (with_reducible first
        | assumption | intro _ | apply gateApply_keeps k4160 | apply keeps_ite | apply keeps_ite_fst)
    | split)

theorem gateCopy_keeps {pm : Nat} {org : State} (hm : Within 64 pm) (s : State) (p : Nat) (h : Keeps pm org s) : Keeps pm
    org (gateCopy s p) := by
  have b6 := hm.bit (i := 6) rfl
  unfold gateCopy
  repeat' (first
    | (with_reducible first
        | assumption | intro _ | apply keeps_foldl | apply keeps_foldl_fst
        | (fail_if_no_progress refine keeps_core _ b6 ?_))
    | split)

theorem gateTake_keeps {pm : Nat} {org : State} (hm : Within 4160 pm) (s : State) (p : Nat) (h : Keeps pm org s) : Keeps
    pm org (gateTake s p) := by
  have k64 : Within 64 pm := hm.sub rfl
  have k4096 : Within 4096 pm := hm.sub rfl
  have k4160 : Within 4160 pm := hm.sub rfl
  unfold gateTake
  repeat' (first
    | (with_reducible first
        | assumption | intro _ | apply gateApply_keeps k4160 | apply gateCopy_keeps k64 | apply setGateHold_keeps k4160
        | apply wrB_keeps k4096 | apply wrF_keeps k4096 | apply keeps_ite | apply keeps_ite_fst)
    | split)

theorem gateLate_keeps {pm : Nat} {org : State} (hm : Within 4104 pm) (s : State) (p t : Nat) (h : Keeps pm org s) :
    Keeps pm org (gateLate s p t) := by
  have k4104 : Within 4104 pm := hm.sub rfl
  unfold gateLate
  repeat' (first | (with_reducible first | assumption | apply postHw_keeps k4104) | split)

theorem gateLockup_keeps {pm : Nat} {org : State} (hm : Within 4168 pm) (s : State) (p : Nat) (h : Keeps pm org s) :
    Keeps pm org (gateLockup s p) := by
  have k4096 : Within 4096 pm := hm.sub rfl
  have k4104 : Within 4104 pm := hm.sub rfl
  have b6 := hm.bit (i := 6) rfl
  unfold gateLockup
  repeat' (first
    | (with_reducible first
        | assumption | intro _ | apply gateLate_keeps k4104 | apply wr_keeps k4096 | apply wrB_keeps k4096
        | apply keeps_ite | apply keeps_ite_fst | (fail_if_no_progress refine keeps_core _ b6 ?_))
    | split)

theorem setPeal_keeps {pm : Nat} {org : State} (hm : Within 512 pm) (s : State) (k : Nat) (p : Peal) (h : Keeps pm org s)
    : Keeps pm org (setPeal s k p) := by
  have b9 := hm.bit (i := 9) rfl
  unfold setPeal
  repeat' (first | (with_reducible first | assumption | intro _ | (fail_if_no_progress refine keeps_mp _ b9 ?_)) | split)

theorem setPealNext_keeps {pm : Nat} {org : State} (hm : Within 4608 pm) (s : State) (k t : Nat) (h : Keeps pm org s) :
    Keeps pm org (setPealNext s k t) := by
  have k512 : Within 512 pm := hm.sub rfl
  have k4096 : Within 4096 pm := hm.sub rfl
  unfold setPealNext
  repeat' (first | (with_reducible first | assumption | apply setPeal_keeps k512 | apply wr_keeps k4096) | split)

theorem pealStep_keeps {pm : Nat} {org : State} (hm : Within 4608 pm) (s : State) (k old : Nat) (h : Keeps pm org s) :
    Keeps pm org (pealStep s k old).1 := by
  have k512 : Within 512 pm := hm.sub rfl
  have k4608 : Within 4608 pm := hm.sub rfl
  unfold pealStep
  repeat' (first
    | (with_reducible first
        | assumption | intro _ | apply setPeal_keeps k512 | apply setPealNext_keeps k4608 | apply keeps_ite
        | apply keeps_ite_fst)
    | split)

theorem unpass_keeps {pm : Nat} {org : State} (hm : Within 6 pm) (s : State) (new : Nat) (h : Keeps pm org s) : Keeps pm
    org (unpass s new) := by
  have k2 : Within 2 pm := hm.sub rfl
  have b1 := hm.bit (i := 1) rfl
  have b2 := hm.bit (i := 2) rfl
  unfold unpass
  dsimp only
  repeat' (first
    | (with_reducible first
        | assumption | intro _ | apply setRt_keeps k2 | apply keeps_ite | apply keeps_ite_fst | apply keeps_foldl
        | apply keeps_foldl_fst | (fail_if_no_progress refine keeps_ctl_forme _ _ b1 b2 ?_))
    | split | dsimp only)

theorem afterStep_keeps {pm : Nat} {org : State} (hm : Within 4686 pm) (s : State) (old : Nat) (amount : Int) (h : Keeps
    pm org s) : Keeps pm org (afterStep s old amount) := by
  have k2 : Within 2 pm := hm.sub rfl
  have k6 : Within 6 pm := hm.sub rfl
  have k4104 : Within 4104 pm := hm.sub rfl
  have k4160 : Within 4160 pm := hm.sub rfl
  have k4608 : Within 4608 pm := hm.sub rfl
  have b1 := hm.bit (i := 1) rfl
  have b2 := hm.bit (i := 2) rfl
  unfold afterStep
  dsimp only
  repeat' (first
    | (with_reducible first
        | assumption | intro _ | apply gateLate_keeps k4104 | apply gateRefresh_keeps k4160 | apply gateTake_keeps k4160
        | apply pealStep_keeps k4608 | apply postHw_keeps k4104 | apply setRt_keeps k2 | apply unpass_keeps k6
        | apply keeps_ite | apply keeps_ite_fst | apply keeps_foldl | apply keeps_foldl_fst
        | (fail_if_no_progress refine keeps_ctl _ b1 ?_) | (fail_if_no_progress refine keeps_forme _ b2 ?_))
    | split | dsimp only)

theorem ppsDone_keeps {pm : Nat} {org : State} (hm : Within 64 pm) (s : State) (i : Nat) (h : Keeps pm org s) : Keeps pm
    org (ppsDone s i) := by
  have b6 := hm.bit (i := 6) rfl
  unfold ppsDone
  repeat' (first
    | (with_reducible first
        | assumption | intro _ | (fail_if_no_progress refine keeps_core _ b6 ?_))
    | split)

theorem ppsStep_keeps {pm : Nat} {org : State} (hm : Within 64 pm) (s : State) (d : Nat) (h : Keeps pm org s) : Keeps pm
    org (ppsStep s d) := by
  have k64 : Within 64 pm := hm.sub rfl
  unfold ppsStep
  repeat' (first
    | (with_reducible first
        | assumption | intro _ | apply ppsDone_keeps k64 | apply keeps_ite | apply keeps_ite_fst | apply keeps_foldl
        | apply keeps_foldl_fst)
    | split)

theorem notePast_keeps {pm : Nat} {org : State} (hm : Within 1 pm) (s : State) (k : Nat) (h : Keeps pm org s) : Keeps pm
    org (notePast s k) := by
  have b0 := hm.bit (i := 0) rfl
  unfold notePast
  repeat' (first
    | (with_reducible first
        | assumption | intro _ | apply keeps_ite | apply keeps_ite_fst | (fail_if_no_progress refine keeps_clk _ b0 ?_))
    | split)

theorem stepDomain_keeps {pm : Nat} {org : State} (hm : Within 4687 pm) (s : State) (d : Nat) (amount : Int) (h : Keeps
    pm org s) : Keeps pm org (stepDomain s d amount) := by
  have k1 : Within 1 pm := hm.sub rfl
  have k64 : Within 64 pm := hm.sub rfl
  have k4096 : Within 4096 pm := hm.sub rfl
  have k4104 : Within 4104 pm := hm.sub rfl
  have k4686 : Within 4686 pm := hm.sub rfl
  have b0 := hm.bit (i := 0) rfl
  unfold stepDomain
  repeat' (first
    | (with_reducible first
        | assumption | intro _ | apply afterStep_keeps k4686 | apply notePast_keeps k1 | apply postHw_keeps k4104
        | apply ppsStep_keeps k64 | apply setDom_keeps k1 | apply wrF_keeps k4096 | apply keeps_ite | apply keeps_ite_fst
        | (fail_if_no_progress refine keeps_clk _ b0 ?_))
    | split)

theorem slewDomain_keeps {pm : Nat} {org : State} (hm : Within 1 pm) (s : State) (d : Nat) (amount : Int) (h : Keeps pm
    org s) : Keeps pm org (slewDomain s d amount) := by
  have k1 : Within 1 pm := hm.sub rfl
  unfold slewDomain
  repeat' (first | (with_reducible first | assumption | apply setDom_keeps k1) | split)

theorem advCycle_keeps {pm : Nat} {org : State} (hm : Within 65544 pm) (s : State) (h : Keeps pm org s) : Keeps pm org
    (advCycle s) := by
  have b3 := hm.bit (i := 3) rfl
  have b16 := hm.bit (i := 16) rfl
  unfold advCycle
  repeat' (first
    | (with_reducible first
        | assumption | intro _ | apply keeps_ite | apply keeps_ite_fst | (fail_if_no_progress refine keeps_cycle b16 ?_)
        | (fail_if_no_progress refine keeps_rcd _ b3 ?_))
    | split)

theorem setFrames_keeps {pm : Nat} {org : State} (hm : Within 32 pm) (s : State) (l : List Frame) (h : Keeps pm org s) :
    Keeps pm org (setFrames s l) := by
  have b5 := hm.bit (i := 5) rfl
  unfold setFrames
  repeat' (first | (with_reducible first | assumption | (fail_if_no_progress refine keeps_path _ b5 ?_)) | split)

theorem setCopies_keeps {pm : Nat} {org : State} (hm : Within 32 pm) (s : State) (l : List Copy) (h : Keeps pm org s) :
    Keeps pm org (setCopies s l) := by
  have b5 := hm.bit (i := 5) rfl
  unfold setCopies
  repeat' (first | (with_reducible first | assumption | (fail_if_no_progress refine keeps_path _ b5 ?_)) | split)

theorem putFrame_keeps {pm : Nat} {org : State} (hm : Within 32 pm) (s : State) (f : Frame) (h : Keeps pm org s) : Keeps
    pm org (putFrame s f) := by
  have k32 : Within 32 pm := hm.sub rfl
  unfold putFrame
  repeat' (first
    | (with_reducible first
        | assumption | intro _ | apply setFrames_keeps k32 | apply keeps_ite | apply keeps_ite_fst)
    | split)

theorem putCopy_keeps {pm : Nat} {org : State} (hm : Within 32 pm) (s : State) (c : Copy) (h : Keeps pm org s) : Keeps pm
    org (putCopy s c) := by
  have k32 : Within 32 pm := hm.sub rfl
  unfold putCopy
  repeat' (first
    | (with_reducible first
        | assumption | intro _ | apply setCopies_keeps k32 | apply keeps_ite | apply keeps_ite_fst)
    | split)

theorem addFrame_keeps {pm : Nat} {org : State} (hm : Within 32 pm) (s : State) (f : Frame) (h : Keeps pm org s) : Keeps
    pm org (addFrame s f) := by
  have b5 := hm.bit (i := 5) rfl
  unfold addFrame
  repeat' (first | (with_reducible first | assumption | (fail_if_no_progress refine keeps_path _ b5 ?_)) | split)

theorem addCopy_keeps {pm : Nat} {org : State} (hm : Within 32 pm) (s : State) (c : Copy) (h : Keeps pm org s) : Keeps pm
    org (addCopy s c) := by
  have b5 := hm.bit (i := 5) rfl
  unfold addCopy
  repeat' (first | (with_reducible first | assumption | (fail_if_no_progress refine keeps_path _ b5 ?_)) | split)

theorem reapFrame_keeps {pm : Nat} {org : State} (hm : Within 32 pm) (s : State) (id : Nat) (h : Keeps pm org s) : Keeps
    pm org (reapFrame s id) := by
  have k32 : Within 32 pm := hm.sub rfl
  unfold reapFrame
  repeat' (first
    | (with_reducible first
        | assumption | intro _ | apply setFrames_keeps k32 | apply keeps_ite | apply keeps_ite_fst)
    | split)

theorem takeMode_keeps {pm : Nat} {org : State} (hm : Within 4104 pm) (s : State) (h : Keeps pm org s) : Keeps pm org
    (takeMode s) := by
  have k4096 : Within 4096 pm := hm.sub rfl
  have k4104 : Within 4104 pm := hm.sub rfl
  unfold takeMode
  repeat' (first
    | (with_reducible first
        | assumption | intro _ | apply postHw_keeps k4104 | apply wrB_keeps k4096 | apply keeps_ite | apply keeps_ite_fst)
    | split)

theorem releaseCells_keeps {pm : Nat} {org : State} (hm : Within 32 pm) (s : State) (id : Nat) (h : Keeps pm org s) :
    Keeps pm org (releaseCells s id) := by
  have k32 : Within 32 pm := hm.sub rfl
  unfold releaseCells
  repeat' (first
    | (with_reducible first
        | assumption | intro _ | apply setFrames_keeps k32 | apply keeps_ite | apply keeps_ite_fst)
    | split)

theorem txMark_keeps {pm : Nat} {org : State} (hm : Within 1024 pm) (s : State) (frame : Nat) (u : TxOut → TxOut) (h :
    Keeps pm org s) : Keeps pm org (txMark s frame u) := by
  have b10 := hm.bit (i := 10) rfl
  unfold txMark
  repeat' (first
    | (with_reducible first
        | assumption | intro _ | apply keeps_ite | apply keeps_ite_fst | (fail_if_no_progress refine keeps_pool _ b10 ?_))
    | split)

theorem txCause_keeps {pm : Nat} {org : State} (hm : Within 1024 pm) (s : State) (frame k : Nat) (h : Keeps pm org s) :
    Keeps pm org (txCause s frame k) := by
  have k1024 : Within 1024 pm := hm.sub rfl
  unfold txCause
  repeat' (first | (with_reducible first | assumption | intro _ | apply txMark_keeps k1024) | split)

theorem agedDone_keeps {pm : Nat} {org : State} (hm : Within 4136 pm) (s : State) (p : Nat) (h : Keeps pm org s) : Keeps
    pm org (agedDone s p) := by
  have k4104 : Within 4104 pm := hm.sub rfl
  have b5 := hm.bit (i := 5) rfl
  unfold agedDone
  repeat' (first
    | (with_reducible first
        | assumption | intro _ | apply postHw_keeps k4104 | apply keeps_foldl | apply keeps_foldl_fst
        | (fail_if_no_progress refine keeps_path _ b5 ?_))
    | split)

theorem setSpilling_keeps {pm : Nat} {org : State} (hm : Within 64 pm) (s : State) (e src c : Nat) (v : Bool) (h : Keeps
    pm org s) : Keeps pm org (setSpilling s e src c v) := by
  have b6 := hm.bit (i := 6) rfl
  unfold setSpilling
  repeat' (first
    | (with_reducible first
        | assumption | intro _ | (fail_if_no_progress refine keeps_core _ b6 ?_))
    | split)

theorem setRefilling_keeps {pm : Nat} {org : State} (hm : Within 64 pm) (s : State) (e src c : Nat) (v : Bool) (h : Keeps
    pm org s) : Keeps pm org (setRefilling s e src c v) := by
  have b6 := hm.bit (i := 6) rfl
  unfold setRefilling
  repeat' (first
    | (with_reducible first
        | assumption | intro _ | (fail_if_no_progress refine keeps_core _ b6 ?_))
    | split)

theorem settleSpill_keeps {pm : Nat} {org : State} (hm : Within 64 pm) (s : State) (e src c : Nat) (h : Keeps pm org s) :
    Keeps pm org (settleSpill s e src c) := by
  have k64 : Within 64 pm := hm.sub rfl
  unfold settleSpill
  repeat' (first
    | (with_reducible first
        | assumption | intro _ | apply setRefilling_keeps k64 | apply setSpilling_keeps k64 | apply keeps_ite
        | apply keeps_ite_fst)
    | split)

theorem dropCopy_keeps {pm : Nat} {org : State} (hm : Within 5224 pm) (s : State) (c : Copy) (h : Keeps pm org s) : Keeps
    pm org (dropCopy s c) := by
  have k32 : Within 32 pm := hm.sub rfl
  have k64 : Within 64 pm := hm.sub rfl
  have k1024 : Within 1024 pm := hm.sub rfl
  have k4136 : Within 4136 pm := hm.sub rfl
  unfold dropCopy
  repeat' (first
    | (with_reducible first
        | assumption | intro _ | apply agedDone_keeps k4136 | apply reapFrame_keeps k32 | apply releaseCells_keeps k32
        | apply setCopies_keeps k32 | apply settleSpill_keeps k64 | apply txCause_keeps k1024 | apply keeps_ite
        | apply keeps_ite_fst)
    | split)

theorem cutOff_keeps {pm : Nat} {org : State} (hm : Within 32 pm) (s : State) (p cause : Nat) (h : Keeps pm org s) :
    Keeps pm org (cutOff s p cause) := by
  have k32 : Within 32 pm := hm.sub rfl
  unfold cutOff
  repeat' (first
    | (with_reducible first
        | assumption | intro _ | apply setCopies_keeps k32 | apply setFrames_keeps k32 | apply keeps_ite
        | apply keeps_ite_fst | apply keeps_elim)
    | split)

theorem setHdrWait_keeps {pm : Nat} {org : State} (hm : Within 32 pm) (s : State) (p : Nat) (v : Bool) (h : Keeps pm org
    s) : Keeps pm org (setHdrWait s p v) := by
  have b5 := hm.bit (i := 5) rfl
  unfold setHdrWait
  repeat' (first
    | (with_reducible first
        | assumption | intro _ | (fail_if_no_progress refine keeps_path _ b5 ?_))
    | split)

theorem fragSent_keeps {pm : Nat} {org : State} (hm : Within 4160 pm) (s : State) (c : Copy) (o : List Byte) (last :
    Bool) (h : Keeps pm org s) : Keeps pm org (fragSent s c o last) := by
  have k0 : Within 0 pm := hm.sub rfl
  have k4160 : Within 4160 pm := hm.sub rfl
  unfold fragSent
  repeat' (first
    | (with_reducible first
        | assumption | intro _ | apply emit_keeps k0 | apply macAdd_keeps k4160 | apply keeps_ite | apply keeps_ite_fst)
    | split)

theorem preempt_keeps {pm : Nat} {org : State} (hm : Within 4192 pm) (s : State) (c : Copy) (h : Keeps pm org s) : Keeps
    pm org (preempt s c) := by
  have k32 : Within 32 pm := hm.sub rfl
  have k4160 : Within 4160 pm := hm.sub rfl
  unfold preempt
  repeat' (first | (with_reducible first | assumption | apply fragSent_keeps k4160 | apply putCopy_keeps k32) | split)

theorem resume_keeps {pm : Nat} {org : State} (hm : Within 32 pm) (s : State) (c : Copy) (h : Keeps pm org s) : Keeps pm
    org (resume s c) := by
  have k32 : Within 32 pm := hm.sub rfl
  unfold resume
  repeat' (first | (with_reducible first | assumption | apply putCopy_keeps k32) | split)

theorem lastFrag_keeps {pm : Nat} {org : State} (hm : Within 4160 pm) (s : State) (c : Copy) (body : List Byte) (h :
    Keeps pm org s) : Keeps pm org (lastFrag s c body) := by
  have k4160 : Within 4160 pm := hm.sub rfl
  unfold lastFrag
  repeat' (first
    | (with_reducible first
        | assumption | intro _ | apply fragSent_keeps k4160 | apply macAdd_keeps k4160 | apply keeps_ite
        | apply keeps_ite_fst)
    | split)

theorem controlOut_keeps {pm : Nat} {org : State} (hm : Within 4160 pm) (s : State) (p c q : Nat) (h : Keeps pm org s) :
    Keeps pm org (controlOut s p c q) := by
  have k0 : Within 0 pm := hm.sub rfl
  have k4096 : Within 4096 pm := hm.sub rfl
  have k4160 : Within 4160 pm := hm.sub rfl
  unfold controlOut
  repeat' (first
    | (with_reducible first
        | assumption | intro _ | apply emit_keeps k0 | apply macAdd_keeps k4160 | apply perf_keeps k4096 | apply keeps_ite
        | apply keeps_ite_fst)
    | split)

theorem setCtlQ_keeps {pm : Nat} {org : State} (hm : Within 32 pm) (s : State) (p : Nat) (l : List (Nat × Nat)) (h :
    Keeps pm org s) : Keeps pm org (setCtlQ s p l) := by
  have b5 := hm.bit (i := 5) rfl
  unfold setCtlQ
  repeat' (first
    | (with_reducible first
        | assumption | intro _ | (fail_if_no_progress refine keeps_path _ b5 ?_))
    | split)

theorem controlNext_keeps {pm : Nat} {org : State} (hm : Within 4192 pm) (s : State) (p : Nat) (h : Keeps pm org s) :
    Keeps pm org (controlNext s p) := by
  have k32 : Within 32 pm := hm.sub rfl
  have k4160 : Within 4160 pm := hm.sub rfl
  have k4192 : Within 4192 pm := hm.sub rfl
  unfold controlNext
  split
  · exact h
  · unfold controlLine
    split
    · exact keeps_foldl _ _ (fun _ _ h => controlOut_keeps k4160 _ _ _ _ h) (setCtlQ_keeps k32 _ _ _ h)
    · split
      · exact keeps_foldl _ _ (fun _ _ h => controlOut_keeps k4160 _ _ _ _ h)
          (setCtlQ_keeps k32 _ _ _ (preempt_keeps k4192 _ _ h))
      · exact h

theorem sendControl_keeps {pm : Nat} {org : State} (hm : Within 4192 pm) (s : State) (p c q : Nat) (h : Keeps pm org s) :
    Keeps pm org (sendControl s p c q) := by
  have k32 : Within 32 pm := hm.sub rfl
  have k4192 : Within 4192 pm := hm.sub rfl
  unfold sendControl
  repeat' (first
    | (with_reducible first
        | assumption | intro _ | apply controlNext_keeps k4192 | apply setCtlQ_keeps k32 | apply keeps_ite
        | apply keeps_ite_fst)
    | split)

theorem macNext_keeps {pm : Nat} {org : State} (hm : Within 4192 pm) (s : State) (p : Nat) (h : Keeps pm org s) : Keeps
    pm org (macNext s p) := by
  have k32 : Within 32 pm := hm.sub rfl
  have k4192 : Within 4192 pm := hm.sub rfl
  unfold macNext
  dsimp only
  repeat' (first
    | (with_reducible first
        | assumption | intro _ | apply controlNext_keeps k4192 | apply preempt_keeps k4192 | apply putCopy_keeps k32
        | apply resume_keeps k32 | apply keeps_ite | apply keeps_ite_fst)
    | split | dsimp only)

theorem removeFrame_keeps {pm : Nat} {org : State} (hm : Within 32 pm) (s : State) (id : Nat) (h : Keeps pm org s) :
    Keeps pm org (removeFrame s id) := by
  have k32 : Within 32 pm := hm.sub rfl
  unfold removeFrame
  repeat' (first
    | (with_reducible first
        | assumption | intro _ | apply setCopies_keeps k32 | apply setFrames_keeps k32)
    | split)

theorem tileCount_keeps {pm : Nat} {org : State} (hm : Within 4104 pm) (s : State) (t k : Nat) (h : Keeps pm org s) :
    Keeps pm org (tileCount s t k) := by
  have k4104 : Within 4104 pm := hm.sub rfl
  unfold tileCount
  repeat' (first | (with_reducible first | assumption | apply bump_keeps k4104) | split)

theorem markSojourn_keeps {pm : Nat} {org : State} (hm : Within 64 pm) (s : State) (c : Copy) (h : Keeps pm org s) :
    Keeps pm org (markSojourn s c) := by
  have b6 := hm.bit (i := 6) rfl
  unfold markSojourn
  repeat' (first | (with_reducible first | assumption | (fail_if_no_progress refine keeps_core _ b6 ?_)) | split)

theorem mirrorDrop_keeps {pm : Nat} {org : State} (hm : Within 4104 pm) (s : State) (m : Nat) (h : Keeps pm org s) :
    Keeps pm org (mirrorDrop s m) := by
  have k4104 : Within 4104 pm := hm.sub rfl
  unfold mirrorDrop
  repeat' (first | (with_reducible first | assumption | apply bump_keeps k4104 | apply postRate_keeps k4104) | split)

theorem flushPort_keeps {pm : Nat} {org : State} (hm : Within 5224 pm) (s : State) (p cause : Nat) (h : Keeps pm org s) :
    Keeps pm org (flushPort s p cause) := by
  have k4096 : Within 4096 pm := hm.sub rfl
  have k4104 : Within 4104 pm := hm.sub rfl
  have k5224 : Within 5224 pm := hm.sub rfl
  have b6 := hm.bit (i := 6) rfl
  unfold flushPort
  repeat' (first
    | (with_reducible first
        | assumption | intro _ | apply dropCopy_keeps k5224 | apply postHw_keeps k4104 | apply stick_keeps k4104
        | apply wrB_keeps k4096 | apply keeps_foldl | apply keeps_foldl_fst
        | (fail_if_no_progress refine keeps_core _ b6 ?_))
    | split)

theorem flushFdb_keeps {pm : Nat} {org : State} (hm : Within 128 pm) (s : State) (p : Nat) (h : Keeps pm org s) : Keeps
    pm org (flushFdb s p) := by
  have b7 := hm.bit (i := 7) rfl
  unfold flushFdb
  repeat' (first
    | (with_reducible first
        | assumption | intro _ | apply keeps_ite | apply keeps_ite_fst | (fail_if_no_progress refine keeps_learn _ b7 ?_))
    | split)

theorem queueLearn_keeps {pm : Nat} {org : State} (hm : Within 4232 pm) (s : State) (t : Nat) (r : LearnReq) (h : Keeps
    pm org s) : Keeps pm org (queueLearn s t r) := by
  have k4104 : Within 4104 pm := hm.sub rfl
  have b7 := hm.bit (i := 7) rfl
  unfold queueLearn
  repeat' (first
    | (with_reducible first
        | assumption | intro _ | apply postRate_keeps k4104 | apply tileCount_keeps k4104 | apply keeps_ite
        | apply keeps_ite_fst | (fail_if_no_progress refine keeps_learn _ b7 ?_))
    | split)

theorem setLiveness_keeps {pm : Nat} {org : State} (hm : Within 4096 pm) (s : State) (p : Nat) (v : Bool) (h : Keeps pm
    org s) : Keeps pm org (setLiveness s p v) := by
  have k4096 : Within 4096 pm := hm.sub rfl
  unfold setLiveness
  repeat' (first | (with_reducible first | assumption | apply wrB_keeps k4096) | split)

theorem fragInsert_keeps {pm : Nat} {org : State} (hm : Within 4136 pm) (s : State) (r : FragReq) (h : Keeps pm org s) :
    Keeps pm org (fragInsert s r) := by
  have k4104 : Within 4104 pm := hm.sub rfl
  have b5 := hm.bit (i := 5) rfl
  unfold fragInsert
  repeat' (first
    | (with_reducible first
        | assumption | intro _ | apply postRate_keeps k4104 | apply tileCount_keeps k4104 | apply keeps_ite
        | apply keeps_ite_fst | (fail_if_no_progress refine keeps_path _ b5 ?_))
    | split)

theorem fragAsk_keeps {pm : Nat} {org : State} (hm : Within 4136 pm) (s : State) (r : FragReq) (h : Keeps pm org s) :
    Keeps pm org (fragAsk s r) := by
  have k4136 : Within 4136 pm := hm.sub rfl
  have b5 := hm.bit (i := 5) rfl
  unfold fragAsk
  repeat' (first
    | (with_reducible first
        | assumption | intro _ | apply fragInsert_keeps k4136 | apply keeps_ite | apply keeps_ite_fst
        | (fail_if_no_progress refine keeps_path _ b5 ?_))
    | split)

theorem fragDrain_keeps {pm : Nat} {org : State} (hm : Within 4136 pm) (s : State) (h : Keeps pm org s) : Keeps pm org
    (fragDrain s) := by
  have k4136 : Within 4136 pm := hm.sub rfl
  have b5 := hm.bit (i := 5) rfl
  unfold fragDrain
  repeat' (first
    | (with_reducible first
        | assumption | intro _ | apply fragInsert_keeps k4136 | apply keeps_ite | apply keeps_ite_fst
        | (fail_if_no_progress refine keeps_path _ b5 ?_))
    | split)

theorem parseFrame_keeps {pm : Nat} {org : State} (hm : Within 4136 pm) (s : State) (f : Frame) (pipe : Nat) (h : Keeps
    pm org s) : Keeps pm org (parseFrame s f pipe).1 := by
  have k4104 : Within 4104 pm := hm.sub rfl
  have k4136 : Within 4136 pm := hm.sub rfl
  unfold parseFrame
  repeat' (first
    | (with_reducible first
        | assumption | intro _ | apply fragAsk_keeps k4136 | apply stick_keeps k4104 | apply tileCount_keeps k4104
        | apply keeps_ite | apply keeps_ite_fst | apply keeps_elim)
    | split)

theorem execFragInsertLost_keeps {pm : Nat} {org : State} (hm : Within 4136 pm) (s : State) (h : Keeps pm org s) : KeepsO
    pm org (execFragInsertLost s) := by
  have k0 : Within 0 pm := hm.sub rfl
  have k4104 : Within 4104 pm := hm.sub rfl
  have b5 := hm.bit (i := 5) rfl
  unfold execFragInsertLost
  repeat' (first
    | (with_reducible first
        | assumption | intro _ | apply postRate_keeps k4104 | apply tileCount_keeps k4104 | apply nextOf_keeps
        | apply irqEdge_keeps k0 | (fail_if_no_progress refine keeps_path _ b5 ?_) | apply keepsO_next)
    | split)

theorem execFragHoldExpire_keeps {pm : Nat} {org : State} (hm : Within 32 pm) (s : State) (h : Keeps pm org s) : KeepsO
    pm org (execFragHoldExpire s) := by
  have k0 : Within 0 pm := hm.sub rfl
  have b5 := hm.bit (i := 5) rfl
  unfold execFragHoldExpire
  repeat' (first
    | (with_reducible first
        | assumption | intro _ | apply nextOf_keeps | apply irqEdge_keeps k0
        | (fail_if_no_progress refine keeps_path _ b5 ?_) | apply keepsO_next)
    | split)

theorem fragFlush_keeps {pm : Nat} {org : State} (hm : Within 32 pm) (s : State) (h : Keeps pm org s) : Keeps pm org
    (fragFlush s) := by
  have b5 := hm.bit (i := 5) rfl
  unfold fragFlush
  repeat' (first | (with_reducible first | assumption | (fail_if_no_progress refine keeps_path _ b5 ?_)) | split)

theorem queueRepair_keeps {pm : Nat} {org : State} (hm : Within 4108 pm) (s : State) (copy table loc : Nat) (h : Keeps pm
    org s) : Keeps pm org (queueRepair s copy table loc) := by
  have k4104 : Within 4104 pm := hm.sub rfl
  have b2 := hm.bit (i := 2) rfl
  unfold queueRepair
  repeat' (first
    | (with_reducible first
        | assumption | intro _ | apply postHw_keeps k4104 | apply tileCount_keeps k4104 | apply keeps_ite
        | apply keeps_ite_fst | (fail_if_no_progress refine keeps_forme _ b2 ?_))
    | split)

theorem setBadCells_keeps {pm : Nat} {org : State} (hm : Within 4 pm) (s : State) (copy : Nat) (l : List (Nat × Nat)) (h
    : Keeps pm org s) : Keeps pm org (setBadCells s copy l) := by
  have b2 := hm.bit (i := 2) rfl
  unfold setBadCells
  repeat' (first
    | (with_reducible first
        | assumption | intro _ | (fail_if_no_progress refine keeps_forme _ b2 ?_))
    | split)

theorem breakCells_keeps {pm : Nat} {org : State} (hm : Within 4 pm) (s : State) (copy : Nat) (l : List (Nat × Nat)) (h :
    Keeps pm org s) : Keeps pm org (breakCells s copy l) := by
  have k4 : Within 4 pm := hm.sub rfl
  unfold breakCells
  repeat' (first | (with_reducible first | assumption | intro _ | apply setBadCells_keeps k4) | split)

theorem fixCells_keeps {pm : Nat} {org : State} (hm : Within 4 pm) (s : State) (copy : Nat) (x : Nat × Nat) (h : Keeps pm
    org s) : Keeps pm org (fixCells s copy x) := by
  have k4 : Within 4 pm := hm.sub rfl
  unfold fixCells
  repeat' (first | (with_reducible first | assumption | intro _ | apply setBadCells_keeps k4) | split)

theorem writeCells_keeps {pm : Nat} {org : State} (hm : Within 4 pm) (s : State) (table loc : Nat) (h : Keeps pm org s) :
    Keeps pm org (writeCells s table loc) := by
  have k4 : Within 4 pm := hm.sub rfl
  unfold writeCells
  repeat' (first
    | (with_reducible first
        | assumption | intro _ | apply fixCells_keeps k4 | apply keeps_ite | apply keeps_ite_fst | apply keeps_foldl
        | apply keeps_foldl_fst)
    | split)

theorem asaSearch_keeps {pm : Nat} {org : State} (hm : Within 4108 pm) (s : State) (copy table n : Nat) (parity : Bool)
    (key : Nat) (flipped : List Nat) (h : Keeps pm org s) : Keeps pm org (asaSearch s copy table n parity key flipped).1
    := by
  have k4 : Within 4 pm := hm.sub rfl
  have k4104 : Within 4104 pm := hm.sub rfl
  have k4108 : Within 4108 pm := hm.sub rfl
  unfold asaSearch
  dsimp only
  repeat' (first
    | (with_reducible first
        | assumption | intro _ | apply breakCells_keeps k4 | apply postHw_keeps k4104 | apply postRate_keeps k4104
        | apply queueRepair_keeps k4108 | apply tileCount_keeps k4104 | apply keeps_ite | apply keeps_ite_fst
        | apply keeps_foldl | apply keeps_foldl_fst)
    | split | dsimp only)

theorem asaShadowLost_keeps {pm : Nat} {org : State} (hm : Within 4108 pm) (s : State) (table loc : Nat) (h : Keeps pm
    org s) : Keeps pm org (asaShadowLost s table loc) := by
  have k8 : Within 8 pm := hm.sub rfl
  have k4104 : Within 4104 pm := hm.sub rfl
  have b2 := hm.bit (i := 2) rfl
  unfold asaShadowLost
  repeat' (first
    | (with_reducible first
        | assumption | intro _ | apply journal_keeps k8 | apply postHw_keeps k4104
        | (fail_if_no_progress refine keeps_forme _ b2 ?_))
    | split)

theorem execAsaShadowUe_keeps {pm : Nat} {org : State} (hm : Within 4108 pm) (table loc : Nat) (s : State) (h : Keeps pm
    org s) : KeepsO pm org (execAsaShadowUe table loc s) := by
  have k0 : Within 0 pm := hm.sub rfl
  have k4108 : Within 4108 pm := hm.sub rfl
  unfold execAsaShadowUe
  repeat' (first
    | (with_reducible first
        | assumption | intro _ | apply asaShadowLost_keeps k4108 | apply onlyIf_keeps | apply nextOf_keeps
        | apply irqEdge_keeps k0 | apply keepsO_next)
    | split)

theorem lsNoLive_keeps {pm : Nat} {org : State} (hm : Within 4104 pm) (s : State) (tile g : Nat) (h : Keeps pm org s) :
    Keeps pm org (lsNoLive s tile g) := by
  have k4104 : Within 4104 pm := hm.sub rfl
  unfold lsNoLive
  repeat' (first | (with_reducible first | assumption | apply postRate_keeps k4104 | apply tileCount_keeps k4104) | split)

end Sys2Proof.Machine
end

