-- ==== Sys2Proof/Laws/KeepsC.lean ====
section
/-! SUPPORT. Keeps, for every operation of Machine/: Crossbar.lean, Sched.lean, Case.lean. -/

set_option linter.unusedTactic false
set_option linter.unreachableTactic false
set_option linter.unusedVariables false

namespace Sys2Proof.Machine

theorem takeCells_keeps {pm : Nat} {org : State} (hm : Within 32768 pm) (s : State) (t n : Nat) (h : Keeps pm org s) :
    Keeps pm org (takeCells s t n).1 := by
  have k32768 : Within 32768 pm := hm.sub rfl
  unfold takeCells
  repeat' (first
    | (with_reducible first
        | assumption | intro _ | apply draw_keeps k32768 | apply keeps_foldl | apply keeps_foldl_fst)
    | split)

theorem enterSlice_keeps {pm : Nat} {org : State} (hm : Within 36896 pm) (s : State) (f : Frame) (region : Nat) (h :
    Keeps pm org s) : Keeps pm org (enterSlice s f region) := by
  have k32 : Within 32 pm := hm.sub rfl
  have k4096 : Within 4096 pm := hm.sub rfl
  have k32768 : Within 32768 pm := hm.sub rfl
  unfold enterSlice
  repeat' (first
    | (with_reducible first
        | assumption | intro _ | apply perf_keeps k4096 | apply putFrame_keeps k32 | apply takeCells_keeps k32768
        | apply keeps_ite | apply keeps_ite_fst)
    | split)

theorem sharedFull_keeps {pm : Nat} {org : State} (hm : Within 4104 pm) (s : State) (t : Nat) (h : Keeps pm org s) :
    Keeps pm org (sharedFull s t) := by
  have k4104 : Within 4104 pm := hm.sub rfl
  unfold sharedFull
  repeat' (first | (with_reducible first | assumption | apply postRate_keeps k4104 | apply tileCount_keeps k4104) | split)

theorem admitPlain_keeps {pm : Nat} {org : State} (hm : Within 36904 pm) (s : State) (f : Frame) (x : Copy) (h : Keeps pm
    org s) : Keeps pm org (admitPlain s f x) := by
  have k32 : Within 32 pm := hm.sub rfl
  have k4104 : Within 4104 pm := hm.sub rfl
  have k36896 : Within 36896 pm := hm.sub rfl
  unfold admitPlain
  repeat' (first
    | (with_reducible first
        | assumption | intro _ | apply addCopy_keeps k32 | apply enterSlice_keeps k36896 | apply postRate_keeps k4104
        | apply sharedFull_keeps k4104 | apply tileCount_keeps k4104 | apply keeps_ite | apply keeps_ite_fst)
    | split)

theorem admitDeep_keeps {pm : Nat} {org : State} (hm : Within 36968 pm) (s : State) (f : Frame) (x : Copy) (h : Keeps pm
    org s) : Keeps pm org (admitDeep s f x) := by
  have k32 : Within 32 pm := hm.sub rfl
  have k64 : Within 64 pm := hm.sub rfl
  have k4104 : Within 4104 pm := hm.sub rfl
  have k36896 : Within 36896 pm := hm.sub rfl
  unfold admitDeep
  repeat' (first
    | (with_reducible first
        | assumption | intro _ | apply addCopy_keeps k32 | apply enterSlice_keeps k36896 | apply postRate_keeps k4104
        | apply settleSpill_keeps k64 | apply sharedFull_keeps k4104 | apply tileCount_keeps k4104 | apply keeps_ite
        | apply keeps_ite_fst)
    | split)

theorem admitCopy_keeps {pm : Nat} {org : State} (hm : Within 36968 pm) (s : State) (f : Frame) (x : Copy) (h : Keeps pm
    org s) : Keeps pm org (admitCopy s f x) := by
  have k64 : Within 64 pm := hm.sub rfl
  have k36904 : Within 36904 pm := hm.sub rfl
  have k36968 : Within 36968 pm := hm.sub rfl
  unfold admitCopy
  repeat' (first
    | (with_reducible first
        | assumption | intro _ | apply admitDeep_keeps k36968 | apply admitPlain_keeps k36904
        | apply setSpilling_keeps k64 | apply keeps_ite | apply keeps_ite_fst)
    | split)

theorem admitMulticast_keeps {pm : Nat} {org : State} (hm : Within 36904 pm) (s : State) (f : Frame) (cls mask : Nat) (h
    : Keeps pm org s) : Keeps pm org (admitMulticast s f cls mask) := by
  have k32 : Within 32 pm := hm.sub rfl
  have k4104 : Within 4104 pm := hm.sub rfl
  have k36896 : Within 36896 pm := hm.sub rfl
  unfold admitMulticast
  repeat' (first
    | (with_reducible first
        | assumption | intro _ | apply addCopy_keeps k32 | apply enterSlice_keeps k36896 | apply tileCount_keeps k4104
        | apply keeps_ite | apply keeps_ite_fst)
    | split)

theorem setPtr_keeps {pm : Nat} {org : State} (hm : Within 64 pm) (s : State) (k p i v : Nat) (h : Keeps pm org s) :
    Keeps pm org (setPtr s k p i v) := by
  have b6 := hm.bit (i := 6) rfl
  unfold setPtr
  repeat' (first
    | (with_reducible first
        | assumption | intro _ | (fail_if_no_progress refine keeps_core _ b6 ?_))
    | split)

theorem holdSides_keeps {pm : Nat} {org : State} (hm : Within 64 pm) (s : State) (p t : Nat) (us : List Nat) (id : Nat)
    (h : Keeps pm org s) : Keeps pm org (holdSides s p t us id) := by
  have b6 := hm.bit (i := 6) rfl
  unfold holdSides
  repeat' (first
    | (with_reducible first
        | assumption | intro _ | apply keeps_ite | apply keeps_ite_fst | apply keeps_elim
        | (fail_if_no_progress refine keeps_core _ b6 ?_))
    | split)

theorem startCrossing_keeps {pm : Nat} {org : State} (hm : Within 32 pm) (s : State) (ids : List Nat) (h : Keeps pm org
    s) : Keeps pm org (startCrossing s ids) := by
  have k32 : Within 32 pm := hm.sub rfl
  unfold startCrossing
  repeat' (first
    | (with_reducible first
        | assumption | intro _ | apply setCopies_keeps k32 | apply keeps_ite | apply keeps_ite_fst)
    | split)

theorem serveFetch_keeps {pm : Nat} {org : State} (hm : Within 96 pm) (s : State) (t p : Nat) (l : List Copy) (frame :
    Nat) (h : Keeps pm org s) : Keeps pm org (serveFetch s t p l frame) := by
  have k32 : Within 32 pm := hm.sub rfl
  have k64 : Within 64 pm := hm.sub rfl
  unfold serveFetch
  repeat' (first
    | (with_reducible first
        | assumption | intro _ | apply holdSides_keeps k64 | apply startCrossing_keeps k32)
    | split)

theorem execSharedFetch_keeps {pm : Nat} {org : State} (hm : Within 4192 pm) (tile : Fin 8) (plane : Fin 4) (s : State)
    (h : Keeps pm org s) : KeepsO pm org (execSharedFetch tile plane s) := by
  have k0 : Within 0 pm := hm.sub rfl
  have k64 : Within 64 pm := hm.sub rfl
  have k96 : Within 96 pm := hm.sub rfl
  have k4096 : Within 4096 pm := hm.sub rfl
  unfold execSharedFetch
  repeat' (first
    | (with_reducible first
        | assumption | intro _ | apply perf_keeps k4096 | apply serveFetch_keeps k96 | apply setPtr_keeps k64
        | apply keeps_ite | apply keeps_ite_fst | apply nextOf_keeps | apply irqEdge_keeps k0 | apply keepsO_next)
    | split)

theorem setCredit_keeps {pm : Nat} {org : State} (hm : Within 64 pm) (s : State) (e c : Nat) (v : Int) (h : Keeps pm org
    s) : Keeps pm org (setCredit s e c v) := by
  have b6 := hm.bit (i := 6) rfl
  unfold setCredit
  repeat' (first
    | (with_reducible first
        | assumption | intro _ | (fail_if_no_progress refine keeps_core _ b6 ?_))
    | split)

theorem enterEgress_keeps {pm : Nat} {org : State} (hm : Within 32 pm) (s : State) (c : Copy) (h : Keeps pm org s) :
    Keeps pm org (enterEgress s c) := by
  have k32 : Within 32 pm := hm.sub rfl
  unfold enterEgress
  repeat' (first | (with_reducible first | assumption | intro _ | apply setCopies_keeps k32) | split)

theorem startVoq_keeps {pm : Nat} {org : State} (hm : Within 96 pm) (s : State) (p t u : Nat) (c : Copy) (h : Keeps pm
    org s) : Keeps pm org (startVoq s p t u c) := by
  have k32 : Within 32 pm := hm.sub rfl
  have k64 : Within 64 pm := hm.sub rfl
  unfold startVoq
  repeat' (first
    | (with_reducible first
        | assumption | intro _ | apply enterEgress_keeps k32 | apply holdSides_keeps k64 | apply setCredit_keeps k64
        | apply setPtr_keeps k64 | apply startCrossing_keeps k32 | apply keeps_ite | apply keeps_ite_fst)
    | split)

theorem startShort_keeps {pm : Nat} {org : State} (hm : Within 4192 pm) (s : State) (p t u : Nat) (h : Keeps pm org s) :
    Keeps pm org (startShort s p t u) := by
  have k96 : Within 96 pm := hm.sub rfl
  have k4096 : Within 4096 pm := hm.sub rfl
  unfold startShort
  repeat' (first
    | (with_reducible first
        | assumption | intro _ | apply perf_keeps k4096 | apply startVoq_keeps k96)
    | split)

theorem replicate_keeps {pm : Nat} {org : State} (hm : Within 4136 pm) (s : State) (f : Frame) (c : Copy) (q : Nat) (h :
    Keeps pm org s) : Keeps pm org (replicate s f c q) := by
  have k32 : Within 32 pm := hm.sub rfl
  have k4104 : Within 4104 pm := hm.sub rfl
  unfold replicate
  repeat' (first
    | (with_reducible first
        | assumption | intro _ | apply addCopy_keeps k32 | apply bump_keeps k4104 | apply tileCount_keeps k4104
        | apply keeps_ite | apply keeps_ite_fst)
    | split)

theorem startMatch_keeps {pm : Nat} {org : State} (hm : Within 5224 pm) (s : State) (p t : Nat) (cohort : List Nat) (mc :
    Bool) (h : Keeps pm org s) : Keeps pm org (startMatch s p t cohort mc) := by
  have k32 : Within 32 pm := hm.sub rfl
  have k64 : Within 64 pm := hm.sub rfl
  have k96 : Within 96 pm := hm.sub rfl
  have k4096 : Within 4096 pm := hm.sub rfl
  have k4136 : Within 4136 pm := hm.sub rfl
  have k4192 : Within 4192 pm := hm.sub rfl
  have k5224 : Within 5224 pm := hm.sub rfl
  unfold startMatch
  repeat' (first
    | (with_reducible first
        | assumption | intro _ | apply dropCopy_keeps k5224 | apply holdSides_keeps k64 | apply perf_keeps k4096
        | apply putFrame_keeps k32 | apply replicate_keeps k4136 | apply startShort_keeps k4192 | apply startVoq_keeps k96
        | apply keeps_ite | apply keeps_ite_fst | apply keeps_foldl | apply keeps_foldl_fst | apply keeps_elim)
    | split)

theorem deliverPair_keeps {pm : Nat} {org : State} (hm : Within 5224 pm) (s : State) (p : Nat) (x : Nat × List Nat ×
    Bool) (h : Keeps pm org s) : Keeps pm org (deliverPair s p x) := by
  have k4160 : Within 4160 pm := hm.sub rfl
  have k5224 : Within 5224 pm := hm.sub rfl
  unfold deliverPair
  repeat' (first
    | (with_reducible first
        | assumption | intro _ | apply frameCountReg_keeps k4160 | apply startMatch_keeps k5224 | apply keeps_foldl
        | apply keeps_foldl_fst)
    | split)

theorem deliverMatches_keeps {pm : Nat} {org : State} (hm : Within 5224 pm) (s : State) (h : Keeps pm org s) : Keeps pm
    org (deliverMatches s) := by
  have k5224 : Within 5224 pm := hm.sub rfl
  have b6 := hm.bit (i := 6) rfl
  unfold deliverMatches
  repeat' (first
    | (with_reducible first
        | assumption | intro _ | apply deliverPair_keeps k5224 | apply keeps_foldl | apply keeps_foldl_fst
        | (fail_if_no_progress refine keeps_core _ b6 ?_))
    | split)

theorem execRoundsMatch_keeps {pm : Nat} {org : State} (hm : Within 64 pm) (plane : Fin 4) (s : State) (h : Keeps pm org
    s) : KeepsO pm org (execRoundsMatch plane s) := by
  have k0 : Within 0 pm := hm.sub rfl
  have k64 : Within 64 pm := hm.sub rfl
  have b6 := hm.bit (i := 6) rfl
  unfold execRoundsMatch
  repeat' (first
    | (with_reducible first
        | assumption | intro _ | apply setPtr_keeps k64 | apply onlyIf_keeps | apply keeps_foldl | apply keeps_foldl_fst
        | apply keeps_elim | apply nextOf_keeps | apply irqEdge_keeps k0 | (fail_if_no_progress refine keeps_core _ b6 ?_)
        | apply keepsO_next)
    | split)

theorem execPlaneCrossing_keeps {pm : Nat} {org : State} (hm : Within 5224 pm) (copy : Nat) (s : State) (h : Keeps pm org
    s) : KeepsO pm org (execPlaneCrossing copy s) := by
  have k0 : Within 0 pm := hm.sub rfl
  have k32 : Within 32 pm := hm.sub rfl
  have k1024 : Within 1024 pm := hm.sub rfl
  have k4104 : Within 4104 pm := hm.sub rfl
  have k5224 : Within 5224 pm := hm.sub rfl
  unfold execPlaneCrossing
  repeat' (first
    | (with_reducible first
        | assumption | intro _ | apply bump_keeps k4104 | apply dropCopy_keeps k5224 | apply enterEgress_keeps k32
        | apply putCopy_keeps k32 | apply releaseCells_keeps k32 | apply txCause_keeps k1024 | apply onlyIf_keeps
        | apply keeps_ite | apply keeps_ite_fst | apply keeps_elim | apply nextOf_keeps | apply irqEdge_keeps k0
        | apply keepsO_next)
    | split)

theorem execSpillCopy_keeps {pm : Nat} {org : State} (hm : Within 4128 pm) (tile : Fin 8) (s : State) (h : Keeps pm org
    s) : KeepsO pm org (execSpillCopy tile s) := by
  have k0 : Within 0 pm := hm.sub rfl
  have k32 : Within 32 pm := hm.sub rfl
  have k4096 : Within 4096 pm := hm.sub rfl
  unfold execSpillCopy
  repeat' (first
    | (with_reducible first
        | assumption | intro _ | apply perf_keeps k4096 | apply putCopy_keeps k32 | apply releaseCells_keeps k32
        | apply onlyIf_keeps | apply keeps_elim | apply nextOf_keeps | apply irqEdge_keeps k0 | apply keepsO_next)
    | split)

theorem refillOn_keeps {pm : Nat} {org : State} (hm : Within 64 pm) (s : State) (e src c : Nat) (h : Keeps pm org s) :
    Keeps pm org (refillOn s e src c) := by
  have k64 : Within 64 pm := hm.sub rfl
  unfold refillOn
  repeat' (first
    | (with_reducible first
        | assumption | intro _ | apply setRefilling_keeps k64 | apply keeps_elim)
    | split)

theorem execRefill_keeps {pm : Nat} {org : State} (hm : Within 36960 pm) (tile : Fin 8) (s : State) (h : Keeps pm org s)
    : KeepsO pm org (execRefill tile s) := by
  have k0 : Within 0 pm := hm.sub rfl
  have k32 : Within 32 pm := hm.sub rfl
  have k64 : Within 64 pm := hm.sub rfl
  have k4096 : Within 4096 pm := hm.sub rfl
  have k32768 : Within 32768 pm := hm.sub rfl
  unfold execRefill
  repeat' (first
    | (with_reducible first
        | assumption | intro _ | apply perf_keeps k4096 | apply putCopy_keeps k32 | apply refillOn_keeps k64
        | apply setFrames_keeps k32 | apply settleSpill_keeps k64 | apply takeCells_keeps k32768 | apply onlyIf_keeps
        | apply keeps_ite | apply keeps_ite_fst | apply nextOf_keeps | apply irqEdge_keeps k0 | apply keepsO_next)
    | split)

theorem execLastOctetWritten_keeps {pm : Nat} {org : State} (hm : Within 96 pm) (frame : Nat) (s : State) (h : Keeps pm
    org s) : KeepsO pm org (execLastOctetWritten frame s) := by
  have k0 : Within 0 pm := hm.sub rfl
  have k32 : Within 32 pm := hm.sub rfl
  have k64 : Within 64 pm := hm.sub rfl
  have b6 := hm.bit (i := 6) rfl
  unfold execLastOctetWritten
  repeat' (first
    | (with_reducible first
        | assumption | intro _ | apply putFrame_keeps k32 | apply releaseCells_keeps k32 | apply setCopies_keeps k32
        | apply setCredit_keeps k64 | apply onlyIf_keeps | apply keeps_ite | apply keeps_ite_fst | apply keeps_foldl
        | apply keeps_foldl_fst | apply nextOf_keeps | apply irqEdge_keeps k0
        | (fail_if_no_progress refine keeps_core _ b6 ?_) | apply keepsO_next)
    | split)

theorem stompFrame_keeps {pm : Nat} {org : State} (hm : Within 5224 pm) (s : State) (f : Frame) (cause : Nat) (h : Keeps
    pm org s) : Keeps pm org (stompFrame s f cause) := by
  have k0 : Within 0 pm := hm.sub rfl
  have k32 : Within 32 pm := hm.sub rfl
  have k1024 : Within 1024 pm := hm.sub rfl
  have k4096 : Within 4096 pm := hm.sub rfl
  have k4104 : Within 4104 pm := hm.sub rfl
  have k4160 : Within 4160 pm := hm.sub rfl
  have k4192 : Within 4192 pm := hm.sub rfl
  have k5224 : Within 5224 pm := hm.sub rfl
  unfold stompFrame
  repeat' (first
    | (with_reducible first
        | assumption | intro _ | apply bump_keeps k4104 | apply cutOff_keeps k32 | apply dropCopy_keeps k5224
        | apply emit_keeps k0 | apply lastFrag_keeps k4160 | apply macAdd_keeps k4160 | apply macNext_keeps k4192
        | apply perf_keeps k4096 | apply removeFrame_keeps k32 | apply txMark_keeps k1024 | apply keeps_ite
        | apply keeps_ite_fst | apply keeps_foldl | apply keeps_foldl_fst)
    | split)

theorem icvFailed_keeps {pm : Nat} {org : State} (hm : Within 5224 pm) (s : State) (f : Frame) (h : Keeps pm org s) :
    Keeps pm org (icvFailed s f) := by
  have k32 : Within 32 pm := hm.sub rfl
  have k5224 : Within 5224 pm := hm.sub rfl
  unfold icvFailed
  repeat' (first
    | (with_reducible first
        | assumption | intro _ | apply setCopies_keeps k32 | apply setFrames_keeps k32 | apply stompFrame_keeps k5224
        | apply keeps_ite | apply keeps_ite_fst)
    | split)

theorem execStomp_keeps {pm : Nat} {org : State} (hm : Within 5224 pm) (frame : Nat) (cause : Fin 5) (s : State) (h :
    Keeps pm org s) : KeepsO pm org (execStomp frame cause s) := by
  have k0 : Within 0 pm := hm.sub rfl
  have k32 : Within 32 pm := hm.sub rfl
  have k5224 : Within 5224 pm := hm.sub rfl
  unfold execStomp
  repeat' (first
    | (with_reducible first
        | assumption | intro _ | apply putFrame_keeps k32 | apply stompFrame_keeps k5224 | apply onlyIf_keeps
        | apply keeps_ite | apply keeps_ite_fst | apply nextOf_keeps | apply irqEdge_keeps k0 | apply keepsO_next)
    | split)

theorem coreCtrlWrite_keeps {pm : Nat} {org : State} (hm : Within 4104 pm) (s : State) (mask value : Word) (h : Keeps pm
    org s) : Keeps pm org (coreCtrlWrite s mask value).1 := by
  have k4096 : Within 4096 pm := hm.sub rfl
  have k4104 : Within 4104 pm := hm.sub rfl
  unfold coreCtrlWrite
  dsimp only
  repeat' (first
    | (with_reducible first
        | assumption | intro _ | apply postHw_keeps k4104 | apply wr_keeps k4096 | apply wrB_keeps k4096 | apply keeps_ite
        | apply keeps_ite_fst)
    | split | dsimp only)

theorem setBucket_keeps {pm : Nat} {org : State} (hm : Within 64 pm) (s : State) (k : Nat) (b : Option Bucket) (h : Keeps
    pm org s) : Keeps pm org (setBucket s k b) := by
  have b6 := hm.bit (i := 6) rfl
  unfold setBucket
  repeat' (first
    | (with_reducible first
        | assumption | intro _ | (fail_if_no_progress refine keeps_core _ b6 ?_))
    | split)

theorem chargeBucket_keeps {pm : Nat} {org : State} (hm : Within 64 pm) (s : State) (k inc : Nat) (cap amount : Int) (h :
    Keeps pm org s) : Keeps pm org (chargeBucket s k inc cap amount) := by
  have k64 : Within 64 pm := hm.sub rfl
  unfold chargeBucket
  repeat' (first
    | (with_reducible first
        | assumption | intro _ | apply setBucket_keeps k64 | apply keeps_ite | apply keeps_ite_fst)
    | split)

theorem fixBucket_keeps {pm : Nat} {org : State} (hm : Within 64 pm) (s : State) (k inc : Nat) (cap : Int) (h : Keeps pm
    org s) : Keeps pm org (fixBucket s k inc cap) := by
  have k64 : Within 64 pm := hm.sub rfl
  unfold fixBucket
  repeat' (first | (with_reducible first | assumption | intro _ | apply setBucket_keeps k64) | split)

theorem chargeRow_keeps {pm : Nat} {org : State} (hm : Within 64 pm) (s : State) (k img w len : Nat) (h : Keeps pm org s)
    : Keeps pm org (chargeRow s k img w len) := by
  have k64 : Within 64 pm := hm.sub rfl
  unfold chargeRow
  repeat' (first | (with_reducible first | assumption | apply chargeBucket_keeps k64) | split)

theorem policerMeter_keeps {pm : Nat} {org : State} (hm : Within 64 pm) (s : State) (i len hv : Nat) (h : Keeps pm org s)
    : Keeps pm org (policerMeter s i len hv).1 := by
  have k64 : Within 64 pm := hm.sub rfl
  unfold policerMeter
  repeat' (first
    | (with_reducible first
        | assumption | intro _ | apply chargeRow_keeps k64 | apply keeps_ite | apply keeps_ite_fst)
    | split)

theorem countColour_keeps {pm : Nat} {org : State} (hm : Within 12352 pm) (s : State) (i c : Nat) (h : Keeps pm org s) :
    Keeps pm org (countColour s i c) := by
  have k12352 : Within 12352 pm := hm.sub rfl
  unfold countColour
  repeat' (first | (with_reducible first | assumption | apply frameCount_keeps k12352) | split)

theorem stormMeter_keeps {pm : Nat} {org : State} (hm : Within 4168 pm) (s : State) (p m : Nat) (h : Keeps pm org s) :
    Keeps pm org (stormMeter s p m).1 := by
  have k64 : Within 64 pm := hm.sub rfl
  have k4104 : Within 4104 pm := hm.sub rfl
  unfold stormMeter
  repeat' (first
    | (with_reducible first
        | assumption | intro _ | apply bump_keeps k4104 | apply postRate_keeps k4104 | apply setBucket_keeps k64
        | apply keeps_ite | apply keeps_ite_fst)
    | split)

theorem stormWrite_keeps {pm : Nat} {org : State} (hm : Within 4160 pm) (s : State) (p m : Nat) (mask value : Word) (h :
    Keeps pm org s) : Keeps pm org (stormWrite s p m mask value) := by
  have k64 : Within 64 pm := hm.sub rfl
  have k4096 : Within 4096 pm := hm.sub rfl
  unfold stormWrite
  repeat' (first
    | (with_reducible first
        | assumption | intro _ | apply fixBucket_keeps k64 | apply setBucket_keeps k64 | apply wr_keeps k4096
        | apply keeps_ite | apply keeps_ite_fst)
    | split)

theorem mpLineTake_keeps {pm : Nat} {org : State} (hm : Within 64 pm) (s : State) (inward : Bool) (n : Nat) (h : Keeps pm
    org s) : Keeps pm org (mpLineTake s inward n) := by
  have b6 := hm.bit (i := 6) rfl
  unfold mpLineTake
  repeat' (first
    | (with_reducible first
        | assumption | intro _ | (fail_if_no_progress refine keeps_core _ b6 ?_))
    | split)

theorem vSet_keeps {pm : Nat} {org : State} (hm : Within 64 pm) (s : State) (k v : Nat) (h : Keeps pm org s) : Keeps pm
    org (vSet s k v) := by
  have b6 := hm.bit (i := 6) rfl
  unfold vSet
  repeat' (first
    | (with_reducible first
        | assumption | intro _ | (fail_if_no_progress refine keeps_core _ b6 ?_))
    | split)

theorem retag_keeps {pm : Nat} {org : State} (hm : Within 64 pm) (s : State) (kind p : Nat) (k : Nat) (elig : Nat →
    Option Nat) (len : Nat → Nat) (weight : Nat → Nat) (h : Keeps pm org s) : Keeps pm org (retag s kind p k elig len
    weight) := by
  have k64 : Within 64 pm := hm.sub rfl
  unfold retag
  repeat' (first
    | (with_reducible first
        | assumption | intro _ | apply vSet_keeps k64 | apply keeps_ite | apply keeps_ite_fst | apply keeps_foldl
        | apply keeps_foldl_fst)
    | split)

theorem servedBy_keeps {pm : Nat} {org : State} (hm : Within 64 pm) (s : State) (kind p k q : Nat) (h : Keeps pm org s) :
    Keeps pm org (servedBy s kind p k q) := by
  have k64 : Within 64 pm := hm.sub rfl
  unfold servedBy
  repeat' (first
    | (with_reducible first
        | assumption | intro _ | apply vSet_keeps k64 | apply keeps_ite | apply keeps_ite_fst)
    | split)

theorem chargeShapers_keeps {pm : Nat} {org : State} (hm : Within 64 pm) (s : State) (p q len : Nat) (h : Keeps pm org s)
    : Keeps pm org (chargeShapers s p q len) := by
  have k64 : Within 64 pm := hm.sub rfl
  unfold chargeShapers
  repeat' (first
    | (with_reducible first
        | assumption | intro _ | apply chargeRow_keeps k64 | apply keeps_ite | apply keeps_ite_fst)
    | split)

theorem launchCount_keeps {pm : Nat} {org : State} (hm : Within 4104 pm) (s : State) (p : Nat) (drop : Bool) (h : Keeps
    pm org s) : Keeps pm org (launchCount s p drop) := by
  have k4104 : Within 4104 pm := hm.sub rfl
  unfold launchCount
  repeat' (first
    | (with_reducible first
        | assumption | intro _ | apply bump_keeps k4104 | apply postRate_keeps k4104 | apply keeps_ite
        | apply keeps_ite_fst)
    | split)

theorem serveQueue_keeps {pm : Nat} {org : State} (hm : Within 13416 pm) (s : State) (p k q : Nat) (c : Copy) (h : Keeps
    pm org s) : Keeps pm org (serveQueue s p k q c) := by
  have k32 : Within 32 pm := hm.sub rfl
  have k64 : Within 64 pm := hm.sub rfl
  have k1024 : Within 1024 pm := hm.sub rfl
  have k4104 : Within 4104 pm := hm.sub rfl
  have k4136 : Within 4136 pm := hm.sub rfl
  have k5224 : Within 5224 pm := hm.sub rfl
  have k12352 : Within 12352 pm := hm.sub rfl
  have b5 := hm.bit (i := 5) rfl
  unfold serveQueue
  repeat' (first
    | (with_reducible first
        | assumption | intro _ | apply agedDone_keeps k4136 | apply bump_keeps k4104 | apply chargeShapers_keeps k64
        | apply dropCopy_keeps k5224 | apply frameCount_keeps k12352 | apply launchCount_keeps k4104
        | apply markSojourn_keeps k64 | apply mpLineTake_keeps k64 | apply putCopy_keeps k32 | apply servedBy_keeps k64
        | apply txCause_keeps k1024 | apply keeps_ite | apply keeps_ite_fst | apply keeps_elim
        | (fail_if_no_progress refine keeps_path _ b5 ?_))
    | split)

theorem retagPort_keeps {pm : Nat} {org : State} (hm : Within 64 pm) (s : State) (p : Nat) (h : Keeps pm org s) : Keeps
    pm org (retagPort s p) := by
  have k64 : Within 64 pm := hm.sub rfl
  unfold retagPort
  repeat' (first
    | (with_reducible first
        | assumption | intro _ | apply retag_keeps k64 | apply keeps_ite | apply keeps_ite_fst | apply keeps_elim)
    | split)

theorem execSchedulerSelect_keeps {pm : Nat} {org : State} (hm : Within 13416 pm) (port : Fin 266) (express : Bool) (s :
    State) (h : Keeps pm org s) : KeepsO pm org (execSchedulerSelect port express s) := by
  have k0 : Within 0 pm := hm.sub rfl
  have k64 : Within 64 pm := hm.sub rfl
  have k13416 : Within 13416 pm := hm.sub rfl
  unfold execSchedulerSelect
  repeat' (first
    | (with_reducible first
        | assumption | intro _ | apply retagPort_keeps k64 | apply serveQueue_keeps k13416 | apply onlyIf_keeps
        | apply keeps_ite | apply keeps_ite_fst | apply keeps_elim | apply nextOf_keeps | apply irqEdge_keeps k0
        | apply keepsO_next)
    | split)

theorem execLaunchLate_keeps {pm : Nat} {org : State} (hm : Within 5224 pm) (port : Fin 266) (s : State) (h : Keeps pm
    org s) : KeepsO pm org (execLaunchLate port s) := by
  have k0 : Within 0 pm := hm.sub rfl
  have k32 : Within 32 pm := hm.sub rfl
  have k64 : Within 64 pm := hm.sub rfl
  have k1024 : Within 1024 pm := hm.sub rfl
  have k4104 : Within 4104 pm := hm.sub rfl
  have k5224 : Within 5224 pm := hm.sub rfl
  unfold execLaunchLate
  repeat' (first
    | (with_reducible first
        | assumption | intro _ | apply dropCopy_keeps k5224 | apply launchCount_keeps k4104 | apply markSojourn_keeps k64
        | apply putCopy_keeps k32 | apply txCause_keeps k1024 | apply onlyIf_keeps | apply keeps_ite | apply keeps_ite_fst
        | apply nextOf_keeps | apply irqEdge_keeps k0 | apply keepsO_next)
    | split)

theorem retagCredit_keeps {pm : Nat} {org : State} (hm : Within 64 pm) (s : State) (p : Nat) (h : Keeps pm org s) : Keeps
    pm org (retagCredit s p) := by
  have k64 : Within 64 pm := hm.sub rfl
  unfold retagCredit
  repeat' (first
    | (with_reducible first
        | assumption | intro _ | apply retag_keeps k64 | apply keeps_ite | apply keeps_ite_fst)
    | split)

theorem retagAll_keeps {pm : Nat} {org : State} (hm : Within 64 pm) (s : State) (h : Keeps pm org s) : Keeps pm org
    (retagAll s) := by
  have k64 : Within 64 pm := hm.sub rfl
  unfold retagAll
  repeat' (first
    | (with_reducible first
        | assumption | intro _ | apply retagCredit_keeps k64 | apply retagPort_keeps k64 | apply keeps_ite
        | apply keeps_ite_fst | apply keeps_foldl | apply keeps_foldl_fst)
    | split)

theorem execCreditIssue_keeps {pm : Nat} {org : State} (hm : Within 64 pm) (port : Fin 266) (s : State) (h : Keeps pm org
    s) : KeepsO pm org (execCreditIssue port s) := by
  have k0 : Within 0 pm := hm.sub rfl
  have k64 : Within 64 pm := hm.sub rfl
  unfold execCreditIssue
  dsimp only
  repeat' (first
    | (with_reducible first
        | assumption | intro _ | apply retagCredit_keeps k64 | apply servedBy_keeps k64 | apply setCredit_keeps k64
        | apply vSet_keeps k64 | apply onlyIf_keeps | apply nextOf_keeps | apply irqEdge_keeps k0 | apply keepsO_next)
    | split | dsimp only)

theorem caseRead_keeps {pm : Nat} {org : State} (hm : Within 4 pm) (s : State) (k : Option (Nat × Nat)) (h : Keeps pm org
    s) : Keeps pm org (caseRead s k) := by
  have b2 := hm.bit (i := 2) rfl
  unfold caseRead
  repeat' (first
    | (with_reducible first
        | assumption | intro _ | (fail_if_no_progress refine keeps_forme _ b2 ?_))
    | split)

theorem caseTurn_keeps {pm : Nat} {org : State} (hm : Within 0 pm) (s t : State) (hs : Keeps pm org s) (h : Keeps pm org
    t) : Keeps pm org (caseTurn s t) := by
  unfold caseTurn
  split
  · exact h
  · exact hs

theorem setCase_keeps {pm : Nat} {org : State} (hm : Within 4 pm) (s : State) (c : List CaseEnt) (h : Keeps pm org s) :
    Keeps pm org (setCase s c) := by
  have b2 := hm.bit (i := 2) rfl
  unfold setCase
  repeat' (first | (with_reducible first | assumption | (fail_if_no_progress refine keeps_forme _ b2 ?_)) | split)

theorem caseInsert_keeps {pm : Nat} {org : State} (hm : Within 132 pm) (s : State) (limit : Nat) (e : CaseEnt) (h : Keeps
    pm org s) : Keeps pm org (caseInsert s limit e).1 := by
  have k4 : Within 4 pm := hm.sub rfl
  have b7 := hm.bit (i := 7) rfl
  unfold caseInsert
  dsimp only
  repeat' (first
    | (with_reducible first
        | assumption | intro _ | apply setCase_keeps k4 | (fail_if_no_progress refine keeps_learn _ b7 ?_))
    | split | dsimp only)

theorem learnRecord_keeps {pm : Nat} {org : State} (hm : Within 4232 pm) (s : State) (kind bd mac old new : Nat) (h :
    Keeps pm org s) : Keeps pm org (learnRecord s kind bd mac old new) := by
  have k0 : Within 0 pm := hm.sub rfl
  have k4096 : Within 4096 pm := hm.sub rfl
  have k4104 : Within 4104 pm := hm.sub rfl
  have b7 := hm.bit (i := 7) rfl
  unfold learnRecord
  repeat' (first
    | (with_reducible first
        | assumption | intro _ | apply bump_keeps k4104 | apply emit_keeps k0 | apply postRate_keeps k4104
        | apply raiseReg_keeps k0 | apply wrF_keeps k4096 | apply keeps_ite | apply keeps_ite_fst
        | (fail_if_no_progress refine keeps_learn _ b7 ?_))
    | split)

theorem nextWrite_keeps {pm : Nat} {org : State} (hm : Within 128 pm) (s : State) (h : Keeps pm org s) : Keeps pm org
    (nextWrite s) := by
  have b7 := hm.bit (i := 7) rfl
  unfold nextWrite
  repeat' (first | (with_reducible first | assumption | (fail_if_no_progress refine keeps_learn _ b7 ?_)) | split)

theorem rewriteLearned_keeps {pm : Nat} {org : State} (hm : Within 132 pm) (s : State) (e : CaseEnt) (dest : Nat) (h :
    Keeps pm org s) : Keeps pm org (rewriteLearned s e dest) := by
  have k4 : Within 4 pm := hm.sub rfl
  have k128 : Within 128 pm := hm.sub rfl
  unfold rewriteLearned
  repeat' (first
    | (with_reducible first
        | assumption | intro _ | apply nextWrite_keeps k128 | apply setCase_keeps k4 | apply keeps_ite
        | apply keeps_ite_fst)
    | split)

theorem removeEnt_keeps {pm : Nat} {org : State} (hm : Within 4 pm) (s : State) (e : CaseEnt) (h : Keeps pm org s) :
    Keeps pm org (removeEnt s e) := by
  have k4 : Within 4 pm := hm.sub rfl
  unfold removeEnt
  repeat' (first | (with_reducible first | assumption | intro _ | apply setCase_keeps k4) | split)

theorem moveToken_keeps {pm : Nat} {org : State} (hm : Within 64 pm) (s t : State) (p : Nat) (h : Keeps pm org s)
    (e : moveToken s p = some t) : Keeps pm org t := by
  unfold moveToken at e
  dsimp only at e
  split at e
  · cases e
  · cases e
    exact setBucket_keeps (hm.sub rfl) _ _ _ h

theorem learnOnto_keeps {pm : Nat} {org : State} (hm : Within 4300 pm) (s : State) (e : CaseEnt) (r : LearnReq) (h :
    Keeps pm org s) : Keeps pm org (learnOnto s e r) := by
  have k64 : Within 64 pm := hm.sub rfl
  have k132 : Within 132 pm := hm.sub rfl
  have k4232 : Within 4232 pm := hm.sub rfl
  unfold learnOnto
  dsimp only
  have hmv (x : State) (hx : Keeps pm org x) : Keeps pm org (learnRecord (rewriteLearned x e r.dest) 1 r.bd r.mac (entDest e) r.dest) :=
    learnRecord_keeps k4232 _ _ _ _ _ _ (rewriteLearned_keeps k132 _ _ _ hx)
  split
  · exact rewriteLearned_keeps k132 _ _ _ h
  · split
    · exact hmv _ h
    · split
      · exact h
      · cases k : moveToken s r.port with
        | none => exact h
        | some t => exact hmv t (moveToken_keeps k64 s t _ h k)

theorem tableFull_keeps {pm : Nat} {org : State} (hm : Within 4232 pm) (s : State) (r : LearnReq) (h : Keeps pm org s) :
    Keeps pm org (tableFull s r) := by
  have k4104 : Within 4104 pm := hm.sub rfl
  have k4232 : Within 4232 pm := hm.sub rfl
  unfold tableFull
  repeat' (first
    | (with_reducible first
        | assumption | apply bump_keeps k4104 | apply learnRecord_keeps k4232 | apply postRate_keeps k4104)
    | split)

theorem learnInsert_keeps {pm : Nat} {org : State} (hm : Within 4236 pm) (s : State) (r : LearnReq) (retry : Bool) (h :
    Keeps pm org s) : Keeps pm org (learnInsert s r retry) := by
  have k128 : Within 128 pm := hm.sub rfl
  have k132 : Within 132 pm := hm.sub rfl
  have k4104 : Within 4104 pm := hm.sub rfl
  have k4232 : Within 4232 pm := hm.sub rfl
  have b7 := hm.bit (i := 7) rfl
  unfold learnInsert
  repeat' (first
    | (with_reducible first
        | assumption | intro _ | apply bump_keeps k4104 | apply caseInsert_keeps k132 | apply learnRecord_keeps k4232
        | apply nextWrite_keeps k128 | apply tableFull_keeps k4232 | apply keeps_ite | apply keeps_ite_fst
        | (fail_if_no_progress refine keeps_learn _ b7 ?_))
    | split)

theorem learnAct_keeps {pm : Nat} {org : State} (hm : Within 4300 pm) (s : State) (r : LearnReq) (retry : Bool) (h :
    Keeps pm org s) : Keeps pm org (learnAct s r retry) := by
  have k4236 : Within 4236 pm := hm.sub rfl
  have k4300 : Within 4300 pm := hm.sub rfl
  unfold learnAct
  repeat' (first
    | (with_reducible first
        | assumption | intro _ | apply learnInsert_keeps k4236 | apply learnOnto_keeps k4300)
    | split)

end Sys2Proof.Machine
end

