-- ==== Sys2Proof/Laws/KeepsD.lean ====
section
/-! SUPPORT. Keeps, for every operation of Machine/: Cipher.lean, Actions.lean, Keys.lean, Galley.lean, TimeCmds.lean. -/

set_option linter.unusedTactic false
set_option linter.unreachableTactic false
set_option linter.unusedVariables false

namespace Sys2Proof.Machine

theorem setBoundary_keeps {pm : Nat} {org : State} (hm : Within 4096 pm) (s : State) (v : Nat) (h : Keeps pm org s) :
    Keeps pm org (setBoundary s v) := by
  have k4096 : Within 4096 pm := hm.sub rfl
  unfold setBoundary
  repeat' (first | (with_reducible first | assumption | apply wrF_keeps k4096) | split)

theorem setApproved_keeps {pm : Nat} {org : State} (hm : Within 6144 pm) (s : State) (v : Bool) (h : Keeps pm org s) :
    Keeps pm org (setApproved s v) := by
  have k4096 : Within 4096 pm := hm.sub rfl
  have b11 := hm.bit (i := 11) rfl
  unfold setApproved
  repeat' (first
    | (with_reducible first
        | assumption | apply wrB_keeps k4096 | (fail_if_no_progress refine keeps_pwr _ b11 ?_))
    | split)

theorem setCommissioned_keeps {pm : Nat} {org : State} (hm : Within 6144 pm) (s : State) (v : Bool) (h : Keeps pm org s)
    : Keeps pm org (setCommissioned s v) := by
  have k4096 : Within 4096 pm := hm.sub rfl
  have b11 := hm.bit (i := 11) rfl
  unfold setCommissioned
  repeat' (first
    | (with_reducible first
        | assumption | apply wrB_keeps k4096 | (fail_if_no_progress refine keeps_pwr _ b11 ?_))
    | split)

theorem setSaState_keeps {pm : Nat} {org : State} (hm : Within 4096 pm) (s : State) (rx : Bool) (a v : Nat) (h : Keeps pm
    org s) : Keeps pm org (setSaState s rx a v) := by
  have k4096 : Within 4096 pm := hm.sub rfl
  unfold setSaState
  repeat' (first | (with_reducible first | assumption | apply wrF_keeps k4096) | split)

theorem wrapAdd_keeps {pm : Nat} {org : State} (hm : Within 4096 pm) (s : State) (o w n : Nat) (h : Keeps pm org s) :
    Keeps pm org (wrapAdd s o w n) := by
  have k4096 : Within 4096 pm := hm.sub rfl
  unfold wrapAdd
  repeat' (first | (with_reducible first | assumption | apply wr_keeps k4096) | split)

theorem secyFrame_keeps {pm : Nat} {org : State} (hm : Within 4096 pm) (s : State) (i k : Nat) (h : Keeps pm org s) :
    Keeps pm org (secyFrame s i k) := by
  have k4096 : Within 4096 pm := hm.sub rfl
  unfold secyFrame
  repeat' (first | (with_reducible first | assumption | apply wrapAdd_keeps k4096) | split)

theorem secyDrop_keeps {pm : Nat} {org : State} (hm : Within 4104 pm) (s : State) (i k : Nat) (h : Keeps pm org s) :
    Keeps pm org (secyDrop s i k) := by
  have k4104 : Within 4104 pm := hm.sub rfl
  unfold secyDrop
  repeat' (first | (with_reducible first | assumption | apply bump_keeps k4104) | split)

theorem acceptPn_keeps {pm : Nat} {org : State} (hm : Within 4352 pm) (s : State) (i a pn : Nat) (h : Keeps pm org s) :
    Keeps pm org (acceptPn s i a pn) := by
  have k4096 : Within 4096 pm := hm.sub rfl
  have b8 := hm.bit (i := 8) rfl
  unfold acceptPn
  repeat' (first
    | (with_reducible first
        | assumption | intro _ | apply wr_keeps k4096 | (fail_if_no_progress refine keeps_ciph _ b8 ?_))
    | split)

theorem rxOk_keeps {pm : Nat} {org : State} (hm : Within 4096 pm) (s : State) (a len : Nat) (h : Keeps pm org s) : Keeps
    pm org (rxOk s a len) := by
  have k4096 : Within 4096 pm := hm.sub rfl
  unfold rxOk
  repeat' (first | (with_reducible first | assumption | apply wrapAdd_keeps k4096) | split)

theorem rxNotValid_keeps {pm : Nat} {org : State} (hm : Within 4104 pm) (s : State) (i a pn : Nat) (h : Keeps pm org s) :
    Keeps pm org (rxNotValid s i a pn) := by
  have k4104 : Within 4104 pm := hm.sub rfl
  unfold rxNotValid
  repeat' (first | (with_reducible first | assumption | apply bump_keeps k4104 | apply postRate_keeps k4104) | split)

theorem rxCheck_keeps {pm : Nat} {org : State} (hm : Within 4360 pm) (s : State) (i : Nat) (o : List Byte) (n : Nat)
    (early icvOk : Bool) (plain : List Byte) (h : Keeps pm org s) : Keeps pm org (rxCheck s i o n early icvOk plain).1 :=
    by
  have k4096 : Within 4096 pm := hm.sub rfl
  have k4104 : Within 4104 pm := hm.sub rfl
  have k4352 : Within 4352 pm := hm.sub rfl
  unfold rxCheck
  repeat' (first
    | (with_reducible first
        | assumption | intro _ | apply acceptPn_keeps k4352 | apply rxNotValid_keeps k4104 | apply rxOk_keeps k4096
        | apply secyDrop_keeps k4104 | apply secyFrame_keeps k4096 | apply wrapAdd_keeps k4096 | apply keeps_ite
        | apply keeps_ite_fst)
    | split)

theorem txSecy_keeps {pm : Nat} {org : State} (hm : Within 4096 pm) (s : State) (parity : Bool) (p : Nat) (chosen :
    Option (Option Nat)) (h : Keeps pm org s) : Keeps pm org (txSecy s parity p chosen).1 := by
  have k4096 : Within 4096 pm := hm.sub rfl
  unfold txSecy
  repeat' (first
    | (with_reducible first
        | assumption | intro _ | apply secyFrame_keeps k4096 | apply keeps_ite | apply keeps_ite_fst)
    | split)

theorem protect_keeps {pm : Nat} {org : State} (hm : Within 4136 pm) (s : State) (parity : Bool) (i : Nat) (o secure :
    List Byte) (total limit : Nat) (h : Keeps pm org s) : Keeps pm org (protect s parity i o secure total limit).1 := by
  have k4096 : Within 4096 pm := hm.sub rfl
  have k4104 : Within 4104 pm := hm.sub rfl
  have k4136 : Within 4136 pm := hm.sub rfl
  unfold protect
  repeat' (first
    | (with_reducible first
        | assumption | intro _ | apply postHw_keeps k4104 | apply replicate_keeps k4136 | apply secyDrop_keeps k4104
        | apply secyFrame_keeps k4096 | apply setSaState_keeps k4096 | apply wr_keeps k4096 | apply wrB_keeps k4096
        | apply wrapAdd_keeps k4096 | apply keeps_ite | apply keeps_ite_fst)
    | split)

theorem forceEvents_keeps {pm : Nat} {org : State} (hm : Within 4104 pm) (before s : State) (h : Keeps pm org s) : Keeps
    pm org (forceEvents before s) := by
  have k4104 : Within 4104 pm := hm.sub rfl
  unfold forceEvents
  repeat' (first
    | (with_reducible first
        | assumption | intro _ | apply postHw_keeps k4104 | apply keeps_foldl | apply keeps_foldl_fst)
    | split)

theorem bindRole_keeps {pm : Nat} {org : State} (hm : Within 4104 pm) (s : State) (n role ident : Nat) (h : Keeps pm org
    s) : Keeps pm org (bindRole s n role ident) := by
  have k4096 : Within 4096 pm := hm.sub rfl
  have k4104 : Within 4104 pm := hm.sub rfl
  unfold bindRole
  repeat' (first
    | (with_reducible first
        | assumption | intro _ | apply postHw_keeps k4104 | apply wr_keeps k4096 | apply keeps_ite | apply keeps_ite_fst)
    | split)

theorem endRole_keeps {pm : Nat} {org : State} (hm : Within 4104 pm) (s : State) (n : Nat) (h : Keeps pm org s) : Keeps
    pm org (endRole s n) := by
  have k4104 : Within 4104 pm := hm.sub rfl
  unfold endRole
  repeat' (first
    | (with_reducible first
        | assumption | intro _ | apply bindRole_keeps k4104 | apply keeps_ite | apply keeps_ite_fst)
    | split)

theorem endAllRoles_keeps {pm : Nat} {org : State} (hm : Within 4360 pm) (s : State) (h : Keeps pm org s) : Keeps pm org
    (endAllRoles s) := by
  have k4104 : Within 4104 pm := hm.sub rfl
  have b8 := hm.bit (i := 8) rfl
  unfold endAllRoles
  repeat' (first
    | (with_reducible first
        | assumption | intro _ | apply endRole_keeps k4104 | apply keeps_foldl | apply keeps_foldl_fst
        | (fail_if_no_progress refine keeps_ciph _ b8 ?_))
    | split)

theorem zeroSa_keeps {pm : Nat} {org : State} (hm : Within 4352 pm) (s : State) (rx : Bool) (a : Nat) (h : Keeps pm org
    s) : Keeps pm org (zeroSa s rx a) := by
  have k4096 : Within 4096 pm := hm.sub rfl
  have b8 := hm.bit (i := 8) rfl
  unfold zeroSa
  repeat' (first
    | (with_reducible first
        | assumption | intro _ | apply wr_keeps k4096 | apply keeps_ite | apply keeps_ite_fst
        | (fail_if_no_progress refine keeps_ciph _ b8 ?_))
    | split)

theorem zeroAllSa_keeps {pm : Nat} {org : State} (hm : Within 4352 pm) (s : State) (h : Keeps pm org s) : Keeps pm org
    (zeroAllSa s).1 := by
  have k4352 : Within 4352 pm := hm.sub rfl
  unfold zeroAllSa
  repeat' (first
    | (with_reducible first
        | assumption | intro _ | apply zeroSa_keeps k4352 | apply keeps_foldl | apply keeps_foldl_fst)
    | split)

theorem zeroKek_keeps {pm : Nat} {org : State} (hm : Within 4352 pm) (s : State) (k : Nat) (h : Keeps pm org s) : Keeps
    pm org (zeroKek s k).1 := by
  have k4096 : Within 4096 pm := hm.sub rfl
  have b8 := hm.bit (i := 8) rfl
  unfold zeroKek
  repeat' (first
    | (with_reducible first
        | assumption | apply wrB_keeps k4096 | (fail_if_no_progress refine keeps_ciph _ b8 ?_))
    | split)

theorem zeroStore_keeps {pm : Nat} {org : State} (hm : Within 6408 pm) (s : State) (path operator_ : Nat) (h : Keeps pm
    org s) : Keeps pm org (zeroStore s path operator_).1 := by
  have k4096 : Within 4096 pm := hm.sub rfl
  have k4104 : Within 4104 pm := hm.sub rfl
  have k4352 : Within 4352 pm := hm.sub rfl
  have k4360 : Within 4360 pm := hm.sub rfl
  have k6144 : Within 6144 pm := hm.sub rfl
  have b8 := hm.bit (i := 8) rfl
  have b11 := hm.bit (i := 11) rfl
  unfold zeroStore
  repeat' (first
    | (with_reducible first
        | assumption | intro _ | apply endAllRoles_keeps k4360 | apply postHw_keeps k4104 | apply setApproved_keeps k6144
        | apply setBoundary_keeps k4096 | apply setCommissioned_keeps k6144 | apply wr_keeps k4096
        | apply zeroAllSa_keeps k4352 | apply keeps_ite | apply keeps_ite_fst
        | (fail_if_no_progress refine keeps_ciph_pwr _ _ b8 b11 ?_))
    | split)

theorem journalZero_keeps {pm : Nat} {org : State} (hm : Within 8 pm) (s : State) (origin isn scope kek sa n operator_ :
    Nat) (h : Keeps pm org s) : Keeps pm org (journalZero s origin isn scope kek sa n operator_) := by
  have k8 : Within 8 pm := hm.sub rfl
  unfold journalZero
  repeat' (first | (with_reducible first | assumption | apply journal_keeps k8) | split)

theorem makeCurrent_keeps {pm : Nat} {org : State} (hm : Within 4096 pm) (s : State) (i a : Nat) (h : Keeps pm org s) :
    Keeps pm org (makeCurrent s i a) := by
  have k4096 : Within 4096 pm := hm.sub rfl
  unfold makeCurrent
  repeat' (first
    | (with_reducible first
        | assumption | intro _ | apply setSaState_keeps k4096 | apply wr_keeps k4096 | apply keeps_ite
        | apply keeps_ite_fst)
    | split)

theorem txCurWrite_keeps {pm : Nat} {org : State} (hm : Within 4096 pm) (s : State) (i : Nat) (mask value : Word) (h :
    Keeps pm org s) : Keeps pm org (txCurWrite s i mask value).1 := by
  have k4096 : Within 4096 pm := hm.sub rfl
  unfold txCurWrite
  repeat' (first
    | (with_reducible first
        | assumption | intro _ | apply makeCurrent_keeps k4096 | apply setSaState_keeps k4096 | apply wr_keeps k4096
        | apply keeps_ite | apply keeps_ite_fst)
    | split)

theorem cipherModeWrite_keeps {pm : Nat} {org : State} (hm : Within 6408 pm) (s : State) (mask value : Word) (operator_ :
    Nat) (h : Keeps pm org s) : Keeps pm org (cipherModeWrite s mask value operator_).1 := by
  have k8 : Within 8 pm := hm.sub rfl
  have k4104 : Within 4104 pm := hm.sub rfl
  have k4352 : Within 4352 pm := hm.sub rfl
  have k6144 : Within 6144 pm := hm.sub rfl
  unfold cipherModeWrite
  repeat' (first
    | (with_reducible first
        | assumption | intro _ | apply forceEvents_keeps k4104 | apply journalZero_keeps k8 | apply postHw_keeps k4104
        | apply setApproved_keeps k6144 | apply zeroAllSa_keeps k4352 | apply keeps_ite | apply keeps_ite_fst)
    | split)

theorem learnDenied_keeps {pm : Nat} {org : State} (hm : Within 4104 pm) (s : State) (tile k p bd act : Nat) (h : Keeps
    pm org s) : Keeps pm org (learnDenied s tile k p bd act).1 := by
  have k4104 : Within 4104 pm := hm.sub rfl
  unfold learnDenied
  repeat' (first | (with_reducible first | assumption | apply postRate_keeps k4104 | apply tileCount_keeps k4104) | split)

theorem learnCheck_keeps {pm : Nat} {org : State} (hm : Within 4168 pm) (s : State) (tile p bd mac : Nat) (hit : Option
    CaseEnt) (h : Keeps pm org s) : Keeps pm org (learnCheck s tile p bd mac hit).1 := by
  have k64 : Within 64 pm := hm.sub rfl
  have k4104 : Within 4104 pm := hm.sub rfl
  unfold learnCheck
  dsimp only
  have hb : Keeps pm org (if (rdB s rCaseCtrl 16 && rdB s (rPortLearn p) 0 && rdB s (rBdCfg bd) 0) = true ∧
      (decide (mac = 0) || mac.testBit 40) = true then tileCount s tile 12 else s) :=
    keeps_ite _ (fun _ => tileCount_keeps k4104 s _ _ h) (fun _ => h)
  generalize (if (rdB s rCaseCtrl 16 && rdB s (rPortLearn p) 0 && rdB s (rBdCfg bd) 0) = true ∧
      (decide (mac = 0) || mac.testBit 40) = true then tileCount s tile 12 else s) = t at hb ⊢
  split
  · repeat' (first | exact hb | exact learnDenied_keeps k4104 _ _ _ _ _ _ hb | (apply keeps_ite_fst <;> intro _))
  · repeat' (first
      | exact hb | exact tileCount_keeps k4104 _ _ _ hb | (apply keeps_ite_fst <;> intro _) | (apply keeps_ite <;> intro _))
    split
    · exact learnDenied_keeps k4104 _ _ _ _ _ _ hb
    · next e =>
      have e2 := e
      split at e2
      · cases e2
      · exact moveToken_keeps k64 t _ p hb e2

theorem countPair_keeps {pm : Nat} {org : State} (hm : Within 12352 pm) (s : State) (n len : Nat) (h : Keeps pm org s) :
    Keeps pm org (countPair s n len) := by
  have k8192 : Within 8192 pm := hm.sub rfl
  have k12352 : Within 12352 pm := hm.sub rfl
  unfold countPair
  repeat' (first | (with_reducible first | assumption | apply frameCount_keeps k12352 | apply setCtr_keeps k8192) | split)

theorem countPairs_keeps {pm : Nat} {org : State} (hm : Within 12352 pm) (s : State) (a b : Option Nat) (len : Nat) (h :
    Keeps pm org s) : Keeps pm org (countPairs s a b len) := by
  have k12352 : Within 12352 pm := hm.sub rfl
  unfold countPairs
  repeat' (first
    | (with_reducible first
        | assumption | intro _ | apply countPair_keeps k12352 | apply keeps_ite | apply keeps_ite_fst)
    | split)

theorem offerCopy_keeps {pm : Nat} {org : State} (hm : Within 37992 pm) (s : State) (id : Nat) (x : Copy) (h : Keeps pm
    org s) : Keeps pm org (offerCopy s id x) := by
  have k1024 : Within 1024 pm := hm.sub rfl
  have k4104 : Within 4104 pm := hm.sub rfl
  have k36968 : Within 36968 pm := hm.sub rfl
  unfold offerCopy
  repeat' (first
    | (with_reducible first
        | assumption | intro _ | apply admitCopy_keeps k36968 | apply bump_keeps k4104 | apply tileCount_keeps k4104
        | apply txCause_keeps k1024 | apply keeps_ite | apply keeps_ite_fst | apply keeps_elim)
    | split)

theorem snareMeter_keeps {pm : Nat} {org : State} (hm : Within 37992 pm) (s : State) (id r : Nat) (h : Keeps pm org s) :
    Keeps pm org (snareMeter s id r) := by
  have k64 : Within 64 pm := hm.sub rfl
  have k4104 : Within 4104 pm := hm.sub rfl
  have k4160 : Within 4160 pm := hm.sub rfl
  have k37992 : Within 37992 pm := hm.sub rfl
  unfold snareMeter
  dsimp only
  repeat' (first
    | (with_reducible first
        | assumption | intro _ | apply bump_keeps k4104 | apply frameCountReg_keeps k4160 | apply offerCopy_keeps k37992
        | apply postRate_keeps k4104 | apply setBucket_keeps k64 | apply keeps_ite | apply keeps_ite_fst)
    | split | dsimp only)

theorem mirrorRequest_keeps {pm : Nat} {org : State} (hm : Within 37440 pm) (s : State) (m : Nat) (h : Keeps pm org s) :
    Keeps pm org (mirrorRequest s m).1 := by
  have k4160 : Within 4160 pm := hm.sub rfl
  have k32768 : Within 32768 pm := hm.sub rfl
  have b9 := hm.bit (i := 9) rfl
  unfold mirrorRequest
  repeat' (first
    | (with_reducible first
        | assumption | intro _ | apply draw_keeps k32768 | apply frameCountReg_keeps k4160 | apply keeps_ite
        | apply keeps_ite_fst | (fail_if_no_progress refine keeps_mp _ b9 ?_))
    | split)

theorem mirrorCopy_keeps {pm : Nat} {org : State} (hm : Within 36968 pm) (s : State) (m : Nat) (f : Frame) (o : List
    Byte) (protected_ : Bool) (h : Keeps pm org s) : Keeps pm org (mirrorCopy s m f o protected_) := by
  have k32 : Within 32 pm := hm.sub rfl
  have k4104 : Within 4104 pm := hm.sub rfl
  have k36968 : Within 36968 pm := hm.sub rfl
  have b6 := hm.bit (i := 6) rfl
  unfold mirrorCopy
  dsimp only
  repeat' (first
    | (with_reducible first
        | assumption | intro _ | apply addFrame_keeps k32 | apply admitCopy_keeps k36968 | apply mirrorDrop_keeps k4104
        | apply removeFrame_keeps k32 | apply keeps_ite | apply keeps_ite_fst
        | (fail_if_no_progress refine keeps_core _ b6 ?_))
    | split | dsimp only)

theorem mirrorMask_keeps {pm : Nat} {org : State} (hm : Within 37480 pm) (s : State) (mask : Nat) (f : Frame) (o : List
    Byte) (protected_ : Bool) (h : Keeps pm org s) : Keeps pm org (mirrorMask s mask f o protected_) := by
  have k36968 : Within 36968 pm := hm.sub rfl
  have k37440 : Within 37440 pm := hm.sub rfl
  unfold mirrorMask
  repeat' (first
    | (with_reducible first
        | assumption | intro _ | apply mirrorCopy_keeps k36968 | apply mirrorRequest_keeps k37440 | apply keeps_ite
        | apply keeps_ite_fst | apply keeps_foldl | apply keeps_foldl_fst)
    | split)

theorem loadSa_keeps {pm : Nat} {org : State} (hm : Within 4352 pm) (s : State) (rx : Bool) (a kek : Nat) (b key : List
    Byte) (h : Keeps pm org s) : Keeps pm org (loadSa s rx a kek b key) := by
  have k4096 : Within 4096 pm := hm.sub rfl
  have b8 := hm.bit (i := 8) rfl
  unfold loadSa
  repeat' (first
    | (with_reducible first
        | assumption | intro _ | apply wr_keeps k4096 | apply keeps_ite | apply keeps_ite_fst
        | (fail_if_no_progress refine keeps_ciph _ b8 ?_))
    | split)

theorem execKload_keeps {pm : Nat} {org : State} (hm : Within 4362 pm) (ring : Fin 64) (ins : Ins) (block : Block)
    (unwrapped : Option (List Byte)) (s : State) (h : Keeps pm org s) : KeepsO pm org (execKload ring ins block unwrapped
    s) := by
  have k0 : Within 0 pm := hm.sub rfl
  have k8 : Within 8 pm := hm.sub rfl
  have k4104 : Within 4104 pm := hm.sub rfl
  have k4106 : Within 4106 pm := hm.sub rfl
  have k4352 : Within 4352 pm := hm.sub rfl
  unfold execKload
  dsimp only
  repeat' (first
    | (with_reducible first
        | assumption | intro _ | apply guardIns_keeps k0 | apply journal_keeps k8 | apply loadSa_keeps k4352
        | apply operandFault_keeps k4104 | apply runIns_keeps k4106 | apply keeps_ite | apply keeps_ite_fst
        | apply nextOf_keeps | apply irqEdge_keeps k0 | apply keepsO_next)
    | split | dsimp only)

theorem kzeroAct_keeps {pm : Nat} {org : State} (hm : Within 6408 pm) (s : State) (scope : Nat) (ins : Ins) (operator_ :
    Nat) (h : Keeps pm org s) : Keeps pm org (kzeroAct s scope ins operator_).1 := by
  have k4352 : Within 4352 pm := hm.sub rfl
  have k6408 : Within 6408 pm := hm.sub rfl
  unfold kzeroAct
  repeat' (first
    | (with_reducible first
        | assumption | intro _ | apply zeroAllSa_keeps k4352 | apply zeroKek_keeps k4352 | apply zeroSa_keeps k4352
        | apply zeroStore_keeps k6408 | apply keeps_ite | apply keeps_ite_fst)
    | split)

theorem kzero_keeps {pm : Nat} {org : State} (hm : Within 6410 pm) (scope n : Nat) (ins : Ins) (s : State) (h : Keeps pm
    org s) : Keeps pm org (kzero scope n ins s) := by
  have k0 : Within 0 pm := hm.sub rfl
  have k8 : Within 8 pm := hm.sub rfl
  have k4106 : Within 4106 pm := hm.sub rfl
  have k6408 : Within 6408 pm := hm.sub rfl
  unfold kzero
  repeat' (first
    | (with_reducible first
        | assumption | intro _ | apply guardIns_keeps k0 | apply journalZero_keeps k8 | apply kzeroAct_keeps k6408
        | apply runIns_keeps k4106 | apply keeps_ite | apply keeps_ite_fst)
    | split)

theorem execKzeroSa_keeps {pm : Nat} {org : State} (hm : Within 6410 pm) (ring : Fin 64) (ins : Ins) (s : State) (h :
    Keeps pm org s) : KeepsO pm org (execKzeroSa ring ins s) := by
  have k0 : Within 0 pm := hm.sub rfl
  have k6410 : Within 6410 pm := hm.sub rfl
  unfold execKzeroSa
  repeat' (first
    | (with_reducible first
        | assumption | apply kzero_keeps k6410 | apply nextOf_keeps | apply irqEdge_keeps k0 | apply keepsO_next)
    | split)

theorem execKzeroKek_keeps {pm : Nat} {org : State} (hm : Within 6410 pm) (ring : Fin 64) (ins : Ins) (s : State) (h :
    Keeps pm org s) : KeepsO pm org (execKzeroKek ring ins s) := by
  have k0 : Within 0 pm := hm.sub rfl
  have k6410 : Within 6410 pm := hm.sub rfl
  unfold execKzeroKek
  repeat' (first
    | (with_reducible first
        | assumption | apply kzero_keeps k6410 | apply nextOf_keeps | apply irqEdge_keeps k0 | apply keepsO_next)
    | split)

theorem execKzeroSaAll_keeps {pm : Nat} {org : State} (hm : Within 6410 pm) (ring : Fin 64) (ins : Ins) (s : State) (h :
    Keeps pm org s) : KeepsO pm org (execKzeroSaAll ring ins s) := by
  have k0 : Within 0 pm := hm.sub rfl
  have k6410 : Within 6410 pm := hm.sub rfl
  unfold execKzeroSaAll
  repeat' (first
    | (with_reducible first
        | assumption | apply kzero_keeps k6410 | apply nextOf_keeps | apply irqEdge_keeps k0 | apply keepsO_next)
    | split)

theorem execKzeroAll_keeps {pm : Nat} {org : State} (hm : Within 6410 pm) (ring : Fin 64) (ins : Ins) (s : State) (h :
    Keeps pm org s) : KeepsO pm org (execKzeroAll ring ins s) := by
  have k0 : Within 0 pm := hm.sub rfl
  have k6410 : Within 6410 pm := hm.sub rfl
  unfold execKzeroAll
  repeat' (first
    | (with_reducible first
        | assumption | apply kzero_keeps k6410 | apply nextOf_keeps | apply irqEdge_keeps k0 | apply keepsO_next)
    | split)

theorem finishSasw_keeps {pm : Nat} {org : State} (hm : Within 4106 pm) (s : State) (x : Sasw) (st : Status) (result :
    Nat) (h : Keeps pm org s) : Keeps pm org (finishSasw s x st result) := by
  have k4106 : Within 4106 pm := hm.sub rfl
  have b1 := hm.bit (i := 1) rfl
  unfold finishSasw
  repeat' (first
    | (with_reducible first
        | assumption | intro _ | apply completeTimed_keeps k4106 | (fail_if_no_progress refine keeps_ctl _ b1 ?_))
    | split)

theorem execSasw_keeps {pm : Nat} {org : State} (hm : Within 4106 pm) (ring : Fin 64) (ins : Ins) (block : Block) (s :
    State) (h : Keeps pm org s) : KeepsO pm org (execSasw ring ins block s) := by
  have k0 : Within 0 pm := hm.sub rfl
  have k4104 : Within 4104 pm := hm.sub rfl
  have k4106 : Within 4106 pm := hm.sub rfl
  have b1 := hm.bit (i := 1) rfl
  unfold execSasw
  repeat' (first
    | (with_reducible first
        | assumption | intro _ | apply finishSasw_keeps k4106 | apply guardIns_keeps k0 | apply operandFault_keeps k4104
        | apply runIns_keeps k4106 | apply nextOf_keeps | apply irqEdge_keeps k0
        | (fail_if_no_progress refine keeps_ctl _ b1 ?_) | apply keepsO_next)
    | split)

theorem rxSwitch_keeps {pm : Nat} {org : State} (hm : Within 4352 pm) (s : State) (i a an : Nat) (h : Keeps pm org s) :
    Keeps pm org (rxSwitch s i a an).1 := by
  have k4096 : Within 4096 pm := hm.sub rfl
  have b8 := hm.bit (i := 8) rfl
  unfold rxSwitch
  repeat' (first
    | (with_reducible first
        | assumption | intro _ | apply setSaState_keeps k4096 | apply wrF_keeps k4096 | apply keeps_ite
        | apply keeps_ite_fst | (fail_if_no_progress refine keeps_ciph _ b8 ?_))
    | split)

theorem saSwitchNow_keeps {pm : Nat} {org : State} (hm : Within 4362 pm) (s : State) (h : Keeps pm org s) : Keeps pm org
    (saSwitchNow s) := by
  have k8 : Within 8 pm := hm.sub rfl
  have k4096 : Within 4096 pm := hm.sub rfl
  have k4104 : Within 4104 pm := hm.sub rfl
  have k4106 : Within 4106 pm := hm.sub rfl
  have k4352 : Within 4352 pm := hm.sub rfl
  unfold saSwitchNow
  repeat' (first
    | (with_reducible first
        | assumption | intro _ | apply finishSasw_keeps k4106 | apply journal_keeps k8 | apply makeCurrent_keeps k4096
        | apply postHw_keeps k4104 | apply rxSwitch_keeps k4352 | apply keeps_ite | apply keeps_ite_fst)
    | split)

theorem execSaSwitch_keeps {pm : Nat} {org : State} (hm : Within 4362 pm) (s : State) (h : Keeps pm org s) : KeepsO pm
    org (execSaSwitch s) := by
  have k0 : Within 0 pm := hm.sub rfl
  have k4362 : Within 4362 pm := hm.sub rfl
  unfold execSaSwitch
  repeat' (first
    | (with_reducible first
        | assumption | apply saSwitchNow_keeps k4362 | apply nextOf_keeps | apply irqEdge_keeps k0 | apply keepsO_next)
    | split)

theorem execSaRetire_keeps {pm : Nat} {org : State} (hm : Within 4360 pm) (sa : Fin 16384) (s : State) (h : Keeps pm org
    s) : KeepsO pm org (execSaRetire sa s) := by
  have k0 : Within 0 pm := hm.sub rfl
  have k4096 : Within 4096 pm := hm.sub rfl
  have k4104 : Within 4104 pm := hm.sub rfl
  have b8 := hm.bit (i := 8) rfl
  unfold execSaRetire
  repeat' (first
    | (with_reducible first
        | assumption | intro _ | apply postHw_keeps k4104 | apply setSaState_keeps k4096 | apply onlyIf_keeps
        | apply nextOf_keeps | apply irqEdge_keeps k0 | (fail_if_no_progress refine keeps_ciph _ b8 ?_)
        | apply keepsO_next)
    | split)

theorem execSecyTxCurWrite_keeps {pm : Nat} {org : State} (hm : Within 4096 pm) (secy : Fin 1024) (value : Word) (s :
    State) (h : Keeps pm org s) : KeepsO pm org (execSecyTxCurWrite secy value s) := by
  have k0 : Within 0 pm := hm.sub rfl
  have k4096 : Within 4096 pm := hm.sub rfl
  unfold execSecyTxCurWrite
  repeat' (first
    | (with_reducible first
        | assumption | intro _ | apply txCurWrite_keeps k4096 | apply onlyIf_keeps | apply nextOf_keeps
        | apply irqEdge_keeps k0 | apply keepsO_next)
    | split)

theorem execCipherModeWrite_keeps {pm : Nat} {org : State} (hm : Within 6408 pm) (operator_ : Fin 16) (value : Word) (s :
    State) (h : Keeps pm org s) : KeepsO pm org (execCipherModeWrite operator_ value s) := by
  have k0 : Within 0 pm := hm.sub rfl
  have k6408 : Within 6408 pm := hm.sub rfl
  unfold execCipherModeWrite
  repeat' (first
    | (with_reducible first
        | assumption | intro _ | apply cipherModeWrite_keeps k6408 | apply onlyIf_keeps | apply nextOf_keeps
        | apply irqEdge_keeps k0 | apply keepsO_next)
    | split)

theorem setGalleyState_keeps {pm : Nat} {org : State} (hm : Within 4096 pm) (s : State) (v : Nat) (h : Keeps pm org s) :
    Keeps pm org (setGalleyState s v) := by
  have k4096 : Within 4096 pm := hm.sub rfl
  unfold setGalleyState
  repeat' (first | (with_reducible first | assumption | apply wrF_keeps k4096) | split)

theorem setPhase_keeps {pm : Nat} {org : State} (hm : Within 4096 pm) (s : State) (v : Nat) (h : Keeps pm org s) : Keeps
    pm org (setPhase s v) := by
  have k4096 : Within 4096 pm := hm.sub rfl
  unfold setPhase
  repeat' (first | (with_reducible first | assumption | apply wrF_keeps k4096) | split)

theorem setPrev_keeps {pm : Nat} {org : State} (hm : Within 4096 pm) (s : State) (v : Nat) (h : Keeps pm org s) : Keeps
    pm org (setPrev s v) := by
  have k4096 : Within 4096 pm := hm.sub rfl
  unfold setPrev
  repeat' (first | (with_reducible first | assumption | apply wrF_keeps k4096) | split)

theorem setLog_keeps {pm : Nat} {org : State} (hm : Within 4100 pm) (s : State) (l : List GWrite) (h : Keeps pm org s) :
    Keeps pm org (setLog s l) := by
  have k4096 : Within 4096 pm := hm.sub rfl
  have b2 := hm.bit (i := 2) rfl
  unfold setLog
  repeat' (first
    | (with_reducible first
        | assumption | apply wrF_keeps k4096 | (fail_if_no_progress refine keeps_forme _ b2 ?_))
    | split)

theorem galleyNone_keeps {pm : Nat} {org : State} (hm : Within 4100 pm) (s : State) (h : Keeps pm org s) : Keeps pm org
    (galleyNone s) := by
  have k4096 : Within 4096 pm := hm.sub rfl
  have k4100 : Within 4100 pm := hm.sub rfl
  unfold galleyNone
  repeat' (first
    | (with_reducible first
        | assumption | apply setGalleyState_keeps k4096 | apply setLog_keeps k4100 | apply wrB_keeps k4096)
    | split)

theorem touchGalley_keeps {pm : Nat} {org : State} (hm : Within 4 pm) (s : State) (n : Nat) (h : Keeps pm org s) : Keeps
    pm org (touchGalley s n) := by
  have b2 := hm.bit (i := 2) rfl
  unfold touchGalley
  repeat' (first
    | (with_reducible first
        | assumption | intro _ | apply keeps_ite | apply keeps_ite_fst | (fail_if_no_progress refine keeps_forme _ b2 ?_))
    | split)

theorem placed_keeps {pm : Nat} {org : State} (hm : Within 4100 pm) (s : State) (r : List GWrite ⊕ (Status × Nat)) (h :
    Keeps pm org s) : Keeps pm org (placed s r).1 := by
  have k4100 : Within 4100 pm := hm.sub rfl
  unfold placed
  repeat' (first
    | (with_reducible first
        | assumption | intro _ | apply setLog_keeps k4100 | apply keeps_ite | apply keeps_ite_fst)
    | split)

theorem timeCtrlWrite_keeps {pm : Nat} {org : State} (hm : Within 4096 pm) (s : State) (mask value : Word) (h : Keeps pm
    org s) : Keeps pm org (timeCtrlWrite s mask value) := by
  have k4096 : Within 4096 pm := hm.sub rfl
  unfold timeCtrlWrite
  repeat' (first
    | (with_reducible first
        | assumption | intro _ | apply wrB_keeps k4096 | apply keeps_ite | apply keeps_ite_fst)
    | split)

theorem execTimeDomainSwitch_keeps {pm : Nat} {org : State} (hm : Within 4105 pm) (s : State) (h : Keeps pm org s) :
    KeepsO pm org (execTimeDomainSwitch s) := by
  have k0 : Within 0 pm := hm.sub rfl
  have k4096 : Within 4096 pm := hm.sub rfl
  have k4104 : Within 4104 pm := hm.sub rfl
  have b0 := hm.bit (i := 0) rfl
  unfold execTimeDomainSwitch
  repeat' (first
    | (with_reducible first
        | assumption | intro _ | apply postHw_keeps k4104 | apply wrB_keeps k4096 | apply wrF_keeps k4096
        | apply onlyIf_keeps | apply nextOf_keeps | apply irqEdge_keeps k0
        | (fail_if_no_progress refine keeps_clk _ b0 ?_) | apply keepsO_next)
    | split)

theorem execDomainSwitchDone_keeps {pm : Nat} {org : State} (hm : Within 4104 pm) (s : State) (h : Keeps pm org s) :
    KeepsO pm org (execDomainSwitchDone s) := by
  have k0 : Within 0 pm := hm.sub rfl
  have k4096 : Within 4096 pm := hm.sub rfl
  have k4104 : Within 4104 pm := hm.sub rfl
  unfold execDomainSwitchDone
  repeat' (first
    | (with_reducible first
        | assumption | intro _ | apply postHw_keeps k4104 | apply wrB_keeps k4096 | apply onlyIf_keeps
        | apply nextOf_keeps | apply irqEdge_keeps k0 | apply keepsO_next)
    | split)

theorem readTime0_keeps {pm : Nat} {org : State} (hm : Within 4096 pm) (s : State) (o : Nat) (h : Keeps pm org s) : Keeps
    pm org (readTime0 s o).1 := by
  have k4096 : Within 4096 pm := hm.sub rfl
  unfold readTime0
  repeat' (first
    | (with_reducible first
        | assumption | intro _ | apply wr_keeps k4096 | apply keeps_ite | apply keeps_ite_fst)
    | split)

theorem setTsq_keeps {pm : Nat} {org : State} (hm : Within 64 pm) (s : State) (p : Nat) (l : List TsEntry) (h : Keeps pm
    org s) : Keeps pm org (setTsq s p l) := by
  have b6 := hm.bit (i := 6) rfl
  unfold setTsq
  repeat' (first
    | (with_reducible first
        | assumption | intro _ | (fail_if_no_progress refine keeps_core _ b6 ?_))
    | split)

theorem execPpsInEdge_keeps {pm : Nat} {org : State} (hm : Within 4160 pm) (input : Fin 2) (s : State) (h : Keeps pm org
    s) : KeepsO pm org (execPpsInEdge input s) := by
  have k0 : Within 0 pm := hm.sub rfl
  have k64 : Within 64 pm := hm.sub rfl
  have k4096 : Within 4096 pm := hm.sub rfl
  have b6 := hm.bit (i := 6) rfl
  unfold execPpsInEdge
  repeat' (first
    | (with_reducible first
        | assumption | intro _ | apply setTsq_keeps k64 | apply wr_keeps k4096 | apply wrB_keeps k4096
        | apply onlyIf_keeps | apply keeps_ite | apply keeps_ite_fst | apply nextOf_keeps | apply irqEdge_keeps k0
        | (fail_if_no_progress refine keeps_core _ b6 ?_) | apply keepsO_next)
    | split)

theorem execPpsInLoss_keeps {pm : Nat} {org : State} (hm : Within 4104 pm) (input : Fin 2) (s : State) (h : Keeps pm org
    s) : KeepsO pm org (execPpsInLoss input s) := by
  have k0 : Within 0 pm := hm.sub rfl
  have k4096 : Within 4096 pm := hm.sub rfl
  have k4104 : Within 4104 pm := hm.sub rfl
  unfold execPpsInLoss
  repeat' (first
    | (with_reducible first
        | assumption | intro _ | apply postHw_keeps k4104 | apply wrB_keeps k4096 | apply onlyIf_keeps
        | apply nextOf_keeps | apply irqEdge_keeps k0 | apply keepsO_next)
    | split)

theorem execPpsOutPulse_keeps {pm : Nat} {org : State} (hm : Within 64 pm) (output : Fin 2) (s : State) (h : Keeps pm org
    s) : KeepsO pm org (execPpsOutPulse output s) := by
  have k0 : Within 0 pm := hm.sub rfl
  have k64 : Within 64 pm := hm.sub rfl
  have b6 := hm.bit (i := 6) rfl
  unfold execPpsOutPulse
  repeat' (first
    | (with_reducible first
        | assumption | intro _ | apply emit_keeps k0 | apply ppsDone_keeps k64 | apply onlyIf_keeps | apply keeps_ite
        | apply keeps_ite_fst | apply nextOf_keeps | apply irqEdge_keeps k0
        | (fail_if_no_progress refine keeps_core _ b6 ?_) | apply keepsO_next)
    | split)

theorem execRefLoss_keeps {pm : Nat} {org : State} (hm : Within 4104 pm) (s : State) (h : Keeps pm org s) : KeepsO pm org
    (execRefLoss s) := by
  have k0 : Within 0 pm := hm.sub rfl
  have k4096 : Within 4096 pm := hm.sub rfl
  have k4104 : Within 4104 pm := hm.sub rfl
  unfold execRefLoss
  repeat' (first
    | (with_reducible first
        | assumption | intro _ | apply postHw_keeps k4104 | apply wrB_keeps k4096 | apply onlyIf_keeps
        | apply nextOf_keeps | apply irqEdge_keeps k0 | apply keepsO_next)
    | split)

theorem execRefReturn_keeps {pm : Nat} {org : State} (hm : Within 4096 pm) (s : State) (h : Keeps pm org s) : KeepsO pm
    org (execRefReturn s) := by
  have k0 : Within 0 pm := hm.sub rfl
  have k4096 : Within 4096 pm := hm.sub rfl
  unfold execRefReturn
  repeat' (first
    | (with_reducible first
        | assumption | intro _ | apply wrB_keeps k4096 | apply onlyIf_keeps | apply nextOf_keeps | apply irqEdge_keeps k0
        | apply keepsO_next)
    | split)

theorem execTodTransmit_keeps {pm : Nat} {org : State} (hm : Within 64 pm) (msg : List Byte) (s : State) (h : Keeps pm
    org s) : KeepsO pm org (execTodTransmit msg s) := by
  have k0 : Within 0 pm := hm.sub rfl
  have b6 := hm.bit (i := 6) rfl
  unfold execTodTransmit
  repeat' (first
    | (with_reducible first
        | assumption | intro _ | apply emit_keeps k0 | apply onlyIf_keeps | apply nextOf_keeps | apply irqEdge_keeps k0
        | (fail_if_no_progress refine keeps_core _ b6 ?_) | apply keepsO_next)
    | split)

theorem execTodReceive_keeps {pm : Nat} {org : State} (hm : Within 0 pm) (msg : List Byte) (s : State) (h : Keeps pm org
    s) : KeepsO pm org (execTodReceive msg s) := by
  have k0 : Within 0 pm := hm.sub rfl
  unfold execTodReceive
  repeat' (first
    | (with_reducible first
        | assumption | intro _ | apply emit_keeps k0 | apply onlyIf_keeps | apply nextOf_keeps | apply irqEdge_keeps k0
        | apply keepsO_next)
    | split)

theorem execTimestampRecordWrite_keeps {pm : Nat} {org : State} (hm : Within 4160 pm) (mpRing : Bool) (s : State) (h :
    Keeps pm org s) : KeepsO pm org (execTimestampRecordWrite mpRing s) := by
  have k0 : Within 0 pm := hm.sub rfl
  have k64 : Within 64 pm := hm.sub rfl
  have k4096 : Within 4096 pm := hm.sub rfl
  have b6 := hm.bit (i := 6) rfl
  unfold execTimestampRecordWrite
  repeat' (first
    | (with_reducible first
        | assumption | intro _ | apply emit_keeps k0 | apply raiseReg_keeps k0 | apply setTsq_keeps k64
        | apply wrF_keeps k4096 | apply onlyIf_keeps | apply keeps_ite | apply keeps_ite_fst | apply nextOf_keeps
        | apply irqEdge_keeps k0 | (fail_if_no_progress refine keeps_core _ b6 ?_) | apply keepsO_next)
    | split)

theorem execGateEntryStart_keeps {pm : Nat} {org : State} (hm : Within 4160 pm) (port : Fin 256) (s : State) (h : Keeps
    pm org s) : KeepsO pm org (execGateEntryStart port s) := by
  have k0 : Within 0 pm := hm.sub rfl
  have k4160 : Within 4160 pm := hm.sub rfl
  unfold execGateEntryStart
  repeat' (first
    | (with_reducible first
        | assumption | apply gateRefresh_keeps k4160 | apply nextOf_keeps | apply irqEdge_keeps k0 | apply keepsO_next)
    | split)

theorem execGateListChange_keeps {pm : Nat} {org : State} (hm : Within 4160 pm) (port : Fin 256) (s : State) (h : Keeps
    pm org s) : KeepsO pm org (execGateListChange port s) := by
  have k0 : Within 0 pm := hm.sub rfl
  have k4160 : Within 4160 pm := hm.sub rfl
  unfold execGateListChange
  repeat' (first
    | (with_reducible first
        | assumption | intro _ | apply gateTake_keeps k4160 | apply onlyIf_keeps | apply nextOf_keeps
        | apply irqEdge_keeps k0 | apply keepsO_next)
    | split)

theorem servoState_keeps {pm : Nat} {org : State} (hm : Within 4104 pm) (s : State) (d v : Nat) (h : Keeps pm org s) :
    Keeps pm org (servoState s d v) := by
  have k4096 : Within 4096 pm := hm.sub rfl
  have k4104 : Within 4104 pm := hm.sub rfl
  unfold servoState
  repeat' (first
    | (with_reducible first
        | assumption | intro _ | apply postHw_keeps k4104 | apply wrF_keeps k4096 | apply keeps_ite | apply keeps_ite_fst)
    | split)

theorem servoAdjust_keeps {pm : Nat} {org : State} (hm : Within 10 pm) (s : State) (d mode : Nat) (amount : Int) (h :
    Keeps pm org s) : Keeps pm org (servoAdjust s d mode amount) := by
  have k2 : Within 2 pm := hm.sub rfl
  have k8 : Within 8 pm := hm.sub rfl
  unfold servoAdjust
  repeat' (first | (with_reducible first | assumption | apply journal_keeps k8 | apply takeIsn_keeps k2) | split)

theorem execServoUpdate_keeps {pm : Nat} {org : State} (hm : Within 37455 pm) (domain : Fin 2) (offset : Int) (state :
    Fin 5) (s : State) (h : Keeps pm org s) : KeepsO pm org (execServoUpdate domain offset state s) := by
  have k0 : Within 0 pm := hm.sub rfl
  have k1 : Within 1 pm := hm.sub rfl
  have k10 : Within 10 pm := hm.sub rfl
  have k4096 : Within 4096 pm := hm.sub rfl
  have k4104 : Within 4104 pm := hm.sub rfl
  have k4687 : Within 4687 pm := hm.sub rfl
  have k32768 : Within 32768 pm := hm.sub rfl
  have b0 := hm.bit (i := 0) rfl
  unfold execServoUpdate
  repeat' (first
    | (with_reducible first
        | assumption | intro _ | apply draw_keeps k32768 | apply servoAdjust_keeps k10 | apply servoState_keeps k4104
        | apply slewDomain_keeps k1 | apply stepDomain_keeps k4687 | apply wr_keeps k4096 | apply onlyIf_keeps
        | apply keeps_ite | apply keeps_ite_fst | apply nextOf_keeps | apply irqEdge_keeps k0
        | (fail_if_no_progress refine keeps_clk _ b0 ?_) | apply keepsO_next)
    | split)

end Sys2Proof.Machine
end

