-- ==== Sys2Proof/Laws/KeepsE.lean ====
section
/-! SUPPORT. Keeps, for every operation of Machine/: Claves.lean, Maint.lean, RecOps.lean, PoolOps.lean, RegRead.lean. -/

set_option linter.unusedTactic false
set_option linter.unreachableTactic false
set_option linter.unusedVariables false

namespace Sys2Proof.Machine

theorem setClaveMode_keeps {pm : Nat} {org : State} (hm : Within 4096 pm) (s : State) (m : Nat) (h : Keeps pm org s) :
    Keeps pm org (setClaveMode s m) := by
  have k4096 : Within 4096 pm := hm.sub rfl
  unfold setClaveMode
  repeat' (first | (with_reducible first | assumption | apply wrF_keeps k4096) | split)

theorem setClaveState_keeps {pm : Nat} {org : State} (hm : Within 4096 pm) (s : State) (c : Bool) (v : Nat) (h : Keeps pm
    org s) : Keeps pm org (setClaveState s c v) := by
  have k4096 : Within 4096 pm := hm.sub rfl
  unfold setClaveState
  repeat' (first
    | (with_reducible first
        | assumption | intro _ | apply wrF_keeps k4096 | apply keeps_ite | apply keeps_ite_fst)
    | split)

theorem claveHalt_keeps {pm : Nat} {org : State} (hm : Within 4104 pm) (s : State) (cause : Nat) (h : Keeps pm org s) :
    Keeps pm org (claveHalt s cause) := by
  have k4096 : Within 4096 pm := hm.sub rfl
  have k4104 : Within 4104 pm := hm.sub rfl
  unfold claveHalt
  repeat' (first
    | (with_reducible first
        | assumption | apply postHw_keeps k4104 | apply setClaveMode_keeps k4096)
    | split)

theorem revertFail_keeps {pm : Nat} {org : State} (hm : Within 4106 pm) (s : State) (c : Bool) (shadow : Bool) (h : Keeps
    pm org s) : Keeps pm org (revertFail s c shadow) := by
  have k4096 : Within 4096 pm := hm.sub rfl
  have k4104 : Within 4104 pm := hm.sub rfl
  have b1 := hm.bit (i := 1) rfl
  unfold revertFail
  repeat' (first
    | (with_reducible first
        | assumption | intro _ | apply postHw_keeps k4104 | apply setClaveMode_keeps k4096
        | apply setClaveState_keeps k4096 | apply wr_keeps k4096 | apply wrF_keeps k4096 | apply keeps_ite
        | apply keeps_ite_fst | (fail_if_no_progress refine keeps_ctl _ b1 ?_))
    | split)

theorem claveYield_keeps {pm : Nat} {org : State} (hm : Within 4106 pm) (s : State) (c : Bool) (cause reexec : Nat) (h :
    Keeps pm org s) : Keeps pm org (claveYield s c cause reexec) := by
  have k2 : Within 2 pm := hm.sub rfl
  have k4096 : Within 4096 pm := hm.sub rfl
  have k4104 : Within 4104 pm := hm.sub rfl
  have k4106 : Within 4106 pm := hm.sub rfl
  have b1 := hm.bit (i := 1) rfl
  unfold claveYield
  repeat' (first
    | (with_reducible first
        | assumption | intro _ | apply claveHalt_keeps k4104 | apply handDuplicates_keeps k2
        | apply revertFail_keeps k4106 | apply setClaveMode_keeps k4096 | apply setClaveState_keeps k4096
        | apply wr_keeps k4096 | apply keeps_ite | apply keeps_ite_fst | (fail_if_no_progress refine keeps_ctl _ b1 ?_))
    | split)

theorem execClaveFault_keeps {pm : Nat} {org : State} (hm : Within 4106 pm) (clave : Bool) (cause : Fin 2) (reexec : Fin
    9) (s : State) (h : Keeps pm org s) : KeepsO pm org (execClaveFault clave cause reexec s) := by
  have k0 : Within 0 pm := hm.sub rfl
  have k4106 : Within 4106 pm := hm.sub rfl
  unfold execClaveFault
  repeat' (first
    | (with_reducible first
        | assumption | intro _ | apply claveYield_keeps k4106 | apply onlyIf_keeps | apply nextOf_keeps
        | apply irqEdge_keeps k0 | apply keepsO_next)
    | split)

theorem wdogTick_keeps {pm : Nat} {org : State} (hm : Within 2 pm) (s : State) (h : Keeps pm org s) : Keeps pm org
    (wdogTick s) := by
  have b1 := hm.bit (i := 1) rfl
  unfold wdogTick
  repeat' (first
    | (with_reducible first
        | assumption | intro _ | apply keeps_ite | apply keeps_ite_fst | (fail_if_no_progress refine keeps_ctl _ b1 ?_))
    | split)

theorem execClaveWatchdog_keeps {pm : Nat} {org : State} (hm : Within 4106 pm) (clave : Bool) (s : State) (h : Keeps pm
    org s) : KeepsO pm org (execClaveWatchdog clave s) := by
  have k0 : Within 0 pm := hm.sub rfl
  have k4106 : Within 4106 pm := hm.sub rfl
  unfold execClaveWatchdog
  repeat' (first
    | (with_reducible first
        | assumption | intro _ | apply claveYield_keeps k4106 | apply onlyIf_keeps | apply nextOf_keeps
        | apply irqEdge_keeps k0 | apply keepsO_next)
    | split)

theorem execClaveCorr_keeps {pm : Nat} {org : State} (hm : Within 4106 pm) (clave : Bool) (s : State) (h : Keeps pm org
    s) : KeepsO pm org (execClaveCorr clave s) := by
  have k0 : Within 0 pm := hm.sub rfl
  have k4096 : Within 4096 pm := hm.sub rfl
  have k4104 : Within 4104 pm := hm.sub rfl
  have k4106 : Within 4106 pm := hm.sub rfl
  have b1 := hm.bit (i := 1) rfl
  unfold execClaveCorr
  dsimp only
  repeat' (first
    | (with_reducible first
        | assumption | intro _ | apply claveYield_keeps k4106 | apply postRate_keeps k4104 | apply wrF_keeps k4096
        | apply onlyIf_keeps | apply keeps_ite | apply keeps_ite_fst | apply nextOf_keeps | apply irqEdge_keeps k0
        | (fail_if_no_progress refine keeps_ctl _ b1 ?_) | apply keepsO_next)
    | split | dsimp only)

theorem windowClose_keeps {pm : Nat} {org : State} (hm : Within 4106 pm) (s : State) (h : Keeps pm org s) : Keeps pm org
    (windowClose s) := by
  have k8 : Within 8 pm := hm.sub rfl
  have k4096 : Within 4096 pm := hm.sub rfl
  have k4104 : Within 4104 pm := hm.sub rfl
  have b1 := hm.bit (i := 1) rfl
  unfold windowClose
  repeat' (first
    | (with_reducible first
        | assumption | intro _ | apply journal_keeps k8 | apply postHw_keeps k4104 | apply wrF_keeps k4096
        | (fail_if_no_progress refine keeps_ctl _ b1 ?_))
    | split)

theorem execHandoverWindowClose_keeps {pm : Nat} {org : State} (hm : Within 4106 pm) (s : State) (h : Keeps pm org s) :
    KeepsO pm org (execHandoverWindowClose s) := by
  have k0 : Within 0 pm := hm.sub rfl
  have k4106 : Within 4106 pm := hm.sub rfl
  unfold execHandoverWindowClose
  repeat' (first
    | (with_reducible first
        | assumption | apply windowClose_keeps k4106 | apply nextOf_keeps | apply irqEdge_keeps k0 | apply keepsO_next)
    | split)

theorem windowTick_keeps {pm : Nat} {org : State} (hm : Within 4106 pm) (s : State) (h : Keeps pm org s) : Keeps pm org
    (windowTick s) := by
  have k4106 : Within 4106 pm := hm.sub rfl
  unfold windowTick
  repeat' (first
    | (with_reducible first
        | assumption | intro _ | apply windowClose_keeps k4106 | apply keeps_ite | apply keeps_ite_fst)
    | split)

theorem execClaveMismatch_keeps {pm : Nat} {org : State} (hm : Within 4106 pm) (isn : Nat) (output : Nat) (s : State) (h
    : Keeps pm org s) : KeepsO pm org (execClaveMismatch isn output s) := by
  have k0 : Within 0 pm := hm.sub rfl
  have k4096 : Within 4096 pm := hm.sub rfl
  have k4104 : Within 4104 pm := hm.sub rfl
  have k4106 : Within 4106 pm := hm.sub rfl
  have b1 := hm.bit (i := 1) rfl
  unfold execClaveMismatch
  repeat' (first
    | (with_reducible first
        | assumption | intro _ | apply postHw_keeps k4104 | apply revertFail_keeps k4106 | apply setClaveMode_keeps k4096
        | apply onlyIf_keeps | apply keeps_ite | apply keeps_ite_fst | apply nextOf_keeps | apply irqEdge_keeps k0
        | (fail_if_no_progress refine keeps_ctl _ b1 ?_) | apply keepsO_next)
    | split)

theorem execClaveDiagEnd_keeps {pm : Nat} {org : State} (hm : Within 4106 pm) (failA failB : Bool) (s : State) (h : Keeps
    pm org s) : KeepsO pm org (execClaveDiagEnd failA failB s) := by
  have k0 : Within 0 pm := hm.sub rfl
  have k4096 : Within 4096 pm := hm.sub rfl
  have k4104 : Within 4104 pm := hm.sub rfl
  have k4106 : Within 4106 pm := hm.sub rfl
  unfold execClaveDiagEnd
  repeat' (first
    | (with_reducible first
        | assumption | intro _ | apply claveHalt_keeps k4104 | apply claveYield_keeps k4106 | apply postHw_keeps k4104
        | apply setClaveMode_keeps k4096 | apply wr_keeps k4096 | apply onlyIf_keeps | apply keeps_ite
        | apply keeps_ite_fst | apply nextOf_keeps | apply irqEdge_keeps k0 | apply keepsO_next)
    | split)

theorem claveReturn_keeps {pm : Nat} {org : State} (hm : Within 4106 pm) (s : State) (c : Bool) (pass : Bool) (h : Keeps
    pm org s) : Keeps pm org (claveReturn s c pass) := by
  have k4096 : Within 4096 pm := hm.sub rfl
  have k4106 : Within 4106 pm := hm.sub rfl
  have b1 := hm.bit (i := 1) rfl
  unfold claveReturn
  repeat' (first
    | (with_reducible first
        | assumption | intro _ | apply revertFail_keeps k4106 | apply setClaveMode_keeps k4096
        | apply setClaveState_keeps k4096 | apply keeps_ite | apply keeps_ite_fst
        | (fail_if_no_progress refine keeps_ctl _ b1 ?_))
    | split)

theorem ctrlResetEnd_keeps {pm : Nat} {org : State} (hm : Within 4106 pm) (s : State) (passA passB : Bool) (h : Keeps pm
    org s) : Keeps pm org (ctrlResetEnd s passA passB) := by
  have k8 : Within 8 pm := hm.sub rfl
  have k4096 : Within 4096 pm := hm.sub rfl
  have k4104 : Within 4104 pm := hm.sub rfl
  have b1 := hm.bit (i := 1) rfl
  unfold ctrlResetEnd
  repeat' (first
    | (with_reducible first
        | assumption | intro _ | apply journal_keeps k8 | apply postHw_keeps k4104 | apply setClaveMode_keeps k4096
        | apply setClaveState_keeps k4096 | apply keeps_ite | apply keeps_ite_fst
        | (fail_if_no_progress refine keeps_ctl _ b1 ?_))
    | split)

theorem execClaveSelftestEnd_keeps {pm : Nat} {org : State} (hm : Within 4106 pm) (passA passB : Bool) (s : State) (h :
    Keeps pm org s) : KeepsO pm org (execClaveSelftestEnd passA passB s) := by
  have k0 : Within 0 pm := hm.sub rfl
  have k4106 : Within 4106 pm := hm.sub rfl
  unfold execClaveSelftestEnd
  repeat' (first
    | (with_reducible first
        | assumption | intro _ | apply claveReturn_keeps k4106 | apply ctrlResetEnd_keeps k4106 | apply keeps_ite
        | apply keeps_ite_fst | apply nextOf_keeps | apply irqEdge_keeps k0 | apply keepsO_next)
    | split)

theorem execShadowPeriodEnd_keeps {pm : Nat} {org : State} (hm : Within 4106 pm) (clave : Bool) (s : State) (h : Keeps pm
    org s) : KeepsO pm org (execShadowPeriodEnd clave s) := by
  have k0 : Within 0 pm := hm.sub rfl
  have k8 : Within 8 pm := hm.sub rfl
  have k4096 : Within 4096 pm := hm.sub rfl
  have k4104 : Within 4104 pm := hm.sub rfl
  have b1 := hm.bit (i := 1) rfl
  unfold execShadowPeriodEnd
  repeat' (first
    | (with_reducible first
        | assumption | intro _ | apply journal_keeps k8 | apply postHw_keeps k4104 | apply setClaveMode_keeps k4096
        | apply setClaveState_keeps k4096 | apply onlyIf_keeps | apply keeps_ite | apply keeps_ite_fst
        | apply nextOf_keeps | apply irqEdge_keeps k0 | (fail_if_no_progress refine keeps_ctl _ b1 ?_) | apply keepsO_next)
    | split)

theorem execMpShedStep_keeps {pm : Nat} {org : State} (hm : Within 4616 pm) (util : Nat) (s : State) (h : Keeps pm org s)
    : KeepsO pm org (execMpShedStep util s) := by
  have k0 : Within 0 pm := hm.sub rfl
  have k4096 : Within 4096 pm := hm.sub rfl
  have k4104 : Within 4104 pm := hm.sub rfl
  have b9 := hm.bit (i := 9) rfl
  unfold execMpShedStep
  repeat' (first
    | (with_reducible first
        | assumption | intro _ | apply postHw_keeps k4104 | apply wrB_keeps k4096 | apply wrF_keeps k4096
        | apply onlyIf_keeps | apply keeps_ite | apply keeps_ite_fst | apply nextOf_keeps | apply irqEdge_keeps k0
        | (fail_if_no_progress refine keeps_mp _ b9 ?_) | apply keepsO_next)
    | split)

theorem execMpUnshedStep_keeps {pm : Nat} {org : State} (hm : Within 4616 pm) (util : Nat) (s : State) (h : Keeps pm org
    s) : KeepsO pm org (execMpUnshedStep util s) := by
  have k0 : Within 0 pm := hm.sub rfl
  have k4096 : Within 4096 pm := hm.sub rfl
  have k4104 : Within 4104 pm := hm.sub rfl
  have b9 := hm.bit (i := 9) rfl
  unfold execMpUnshedStep
  repeat' (first
    | (with_reducible first
        | assumption | intro _ | apply postHw_keeps k4104 | apply wrB_keeps k4096 | apply wrF_keeps k4096
        | apply onlyIf_keeps | apply keeps_ite | apply keeps_ite_fst | apply nextOf_keeps | apply irqEdge_keeps k0
        | (fail_if_no_progress refine keeps_mp _ b9 ?_) | apply keepsO_next)
    | split)

theorem execOpticsAlarm_keeps {pm : Nat} {org : State} (hm : Within 0 pm) (cage : Fin 32) (s : State) (h : Keeps pm org
    s) : KeepsO pm org (execOpticsAlarm cage s) := by
  have k0 : Within 0 pm := hm.sub rfl
  unfold execOpticsAlarm
  repeat' (first
    | (with_reducible first
        | assumption | intro _ | apply emit_keeps k0 | apply onlyIf_keeps | apply nextOf_keeps | apply irqEdge_keeps k0
        | apply keepsO_next)
    | split)

theorem maintStatus_keeps {pm : Nat} {org : State} (hm : Within 4096 pm) (s : State) (h : Keeps pm org s) : Keeps pm org
    (maintStatus s) := by
  have k4096 : Within 4096 pm := hm.sub rfl
  unfold maintStatus
  repeat' (first
    | (with_reducible first
        | assumption | intro _ | apply wr_keeps k4096 | apply keeps_foldl | apply keeps_foldl_fst)
    | split)

theorem deepDown_keeps {pm : Nat} {org : State} (hm : Within 4168 pm) (s : State) (cause : Nat) (h : Keeps pm org s) :
    Keeps pm org (deepDown s cause) := by
  have k4096 : Within 4096 pm := hm.sub rfl
  have k4104 : Within 4104 pm := hm.sub rfl
  have b6 := hm.bit (i := 6) rfl
  unfold deepDown
  repeat' (first
    | (with_reducible first
        | assumption | intro _ | apply postHw_keeps k4104 | apply wrB_keeps k4096 | apply keeps_ite | apply keeps_ite_fst
        | (fail_if_no_progress refine keeps_core _ b6 ?_))
    | split)

theorem deepUp_keeps {pm : Nat} {org : State} (hm : Within 4104 pm) (s : State) (h : Keeps pm org s) : Keeps pm org
    (deepUp s) := by
  have k4096 : Within 4096 pm := hm.sub rfl
  have k4104 : Within 4104 pm := hm.sub rfl
  unfold deepUp
  repeat' (first
    | (with_reducible first
        | assumption | intro _ | apply postHw_keeps k4104 | apply wrB_keeps k4096 | apply keeps_ite | apply keeps_ite_fst)
    | split)

theorem maintGrant_keeps {pm : Nat} {org : State} (hm : Within 4680 pm) (s : State) (a u : Nat) (h : Keeps pm org s) :
    Keeps pm org (maintGrant s a u) := by
  have k4096 : Within 4096 pm := hm.sub rfl
  have k4168 : Within 4168 pm := hm.sub rfl
  have b9 := hm.bit (i := 9) rfl
  unfold maintGrant
  repeat' (first
    | (with_reducible first
        | assumption | intro _ | apply deepDown_keeps k4168 | apply maintStatus_keeps k4096 | apply keeps_ite
        | apply keeps_ite_fst | (fail_if_no_progress refine keeps_mp _ b9 ?_))
    | split)

theorem maintDefer_keeps {pm : Nat} {org : State} (hm : Within 4104 pm) (s : State) (a u by_ : Nat) (h : Keeps pm org s)
    : Keeps pm org (maintDefer s a u by_) := by
  have k4096 : Within 4096 pm := hm.sub rfl
  have k4104 : Within 4104 pm := hm.sub rfl
  unfold maintDefer
  repeat' (first
    | (with_reducible first
        | assumption | apply maintStatus_keeps k4096 | apply postHw_keeps k4104 | apply stick_keeps k4104)
    | split)

theorem maintWait_keeps {pm : Nat} {org : State} (hm : Within 4608 pm) (s : State) (a u : Nat) (h : Keeps pm org s) :
    Keeps pm org (maintWait s a u) := by
  have k4096 : Within 4096 pm := hm.sub rfl
  have b9 := hm.bit (i := 9) rfl
  unfold maintWait
  repeat' (first
    | (with_reducible first
        | assumption | apply maintStatus_keeps k4096 | (fail_if_no_progress refine keeps_mp _ b9 ?_))
    | split)

theorem maintAsk_keeps {pm : Nat} {org : State} (hm : Within 4680 pm) (s : State) (a u : Nat) (told : Bool) (h : Keeps pm
    org s) : Keeps pm org (maintAsk s a u told) := by
  have k4104 : Within 4104 pm := hm.sub rfl
  have k4608 : Within 4608 pm := hm.sub rfl
  have k4680 : Within 4680 pm := hm.sub rfl
  unfold maintAsk
  repeat' (first
    | (with_reducible first
        | assumption | intro _ | apply maintDefer_keeps k4104 | apply maintGrant_keeps k4680 | apply maintWait_keeps k4608
        | apply keeps_ite | apply keeps_ite_fst)
    | split)

theorem maintRequest_keeps {pm : Nat} {org : State} (hm : Within 4680 pm) (s : State) (a unit : Nat) (h : Keeps pm org s)
    : Keeps pm org (maintRequest s a unit) := by
  have k4104 : Within 4104 pm := hm.sub rfl
  have k4680 : Within 4680 pm := hm.sub rfl
  have b9 := hm.bit (i := 9) rfl
  unfold maintRequest
  repeat' (first
    | (with_reducible first
        | assumption | intro _ | apply maintAsk_keeps k4680 | apply maintDefer_keeps k4104 | apply onlyIf_keeps
        | apply keeps_ite | apply keeps_ite_fst | (fail_if_no_progress refine keeps_mp _ b9 ?_))
    | split)

theorem execMaintRequest_keeps {pm : Nat} {org : State} (hm : Within 4680 pm) (act : Fin 9) (unit : Nat) (s : State) (h :
    Keeps pm org s) : KeepsO pm org (execMaintRequest act unit s) := by
  have k0 : Within 0 pm := hm.sub rfl
  have k4680 : Within 4680 pm := hm.sub rfl
  unfold execMaintRequest
  repeat' (first
    | (with_reducible first
        | assumption | apply maintRequest_keeps k4680 | apply nextOf_keeps | apply irqEdge_keeps k0 | apply keepsO_next)
    | split)

theorem retrain_keeps {pm : Nat} {org : State} (hm : Within 4680 pm) (s : State) (k : Nat) (h : Keeps pm org s) : Keeps
    pm org (retrain s k) := by
  have k4680 : Within 4680 pm := hm.sub rfl
  unfold retrain
  repeat' (first
    | (with_reducible first
        | assumption | intro _ | apply maintRequest_keeps k4680 | apply keeps_ite | apply keeps_ite_fst)
    | split)

theorem hbmSample_keeps {pm : Nat} {org : State} (hm : Within 4680 pm) (s : State) (k temp : Nat) (h : Keeps pm org s) :
    Keeps pm org (hbmSample s k temp) := by
  have k4680 : Within 4680 pm := hm.sub rfl
  have b9 := hm.bit (i := 9) rfl
  unfold hbmSample
  repeat' (first
    | (with_reducible first
        | assumption | intro _ | apply retrain_keeps k4680 | apply keeps_ite | apply keeps_ite_fst
        | (fail_if_no_progress refine keeps_mp _ b9 ?_))
    | split)

theorem maintDrain_keeps {pm : Nat} {org : State} (hm : Within 4680 pm) (s : State) (h : Keeps pm org s) : Keeps pm org
    (maintDrain s) := by
  have k4680 : Within 4680 pm := hm.sub rfl
  have b9 := hm.bit (i := 9) rfl
  unfold maintDrain
  repeat' (first
    | (with_reducible first
        | assumption | intro _ | apply maintGrant_keeps k4680 | apply keeps_ite | apply keeps_ite_fst | apply keeps_foldl
        | apply keeps_foldl_fst | (fail_if_no_progress refine keeps_mp _ b9 ?_))
    | split)

theorem maintEnd_keeps {pm : Nat} {org : State} (hm : Within 4680 pm) (s : State) (a u result : Nat) (h : Keeps pm org s)
    : Keeps pm org (maintEnd s a u result) := by
  have k4096 : Within 4096 pm := hm.sub rfl
  have k4104 : Within 4104 pm := hm.sub rfl
  have k4608 : Within 4608 pm := hm.sub rfl
  have k4680 : Within 4680 pm := hm.sub rfl
  have b9 := hm.bit (i := 9) rfl
  unfold maintEnd
  repeat' (first
    | (with_reducible first
        | assumption | intro _ | apply deepUp_keeps k4104 | apply maintDrain_keeps k4680 | apply maintStatus_keeps k4096
        | apply maintWait_keeps k4608 | apply postHw_keeps k4104 | apply keeps_ite | apply keeps_ite_fst
        | (fail_if_no_progress refine keeps_mp _ b9 ?_))
    | split)

theorem execMaintActivityEnd_keeps {pm : Nat} {org : State} (hm : Within 4680 pm) (act : Fin 9) (unit : Nat) (failed :
    Bool) (reason : Nat) (s : State) (h : Keeps pm org s) : KeepsO pm org (execMaintActivityEnd act unit failed reason s)
    := by
  have k0 : Within 0 pm := hm.sub rfl
  have k4096 : Within 4096 pm := hm.sub rfl
  have k4104 : Within 4104 pm := hm.sub rfl
  have k4680 : Within 4680 pm := hm.sub rfl
  have b9 := hm.bit (i := 9) rfl
  unfold execMaintActivityEnd
  repeat' (first
    | (with_reducible first
        | assumption | intro _ | apply maintDrain_keeps k4680 | apply maintEnd_keeps k4680 | apply maintStatus_keeps k4096
        | apply postHw_keeps k4104 | apply wrB_keeps k4096 | apply onlyIf_keeps | apply keeps_ite | apply keeps_ite_fst
        | apply nextOf_keeps | apply irqEdge_keeps k0 | (fail_if_no_progress refine keeps_mp _ b9 ?_) | apply keepsO_next)
    | split)

theorem execHoldMaxExpire_keeps {pm : Nat} {org : State} (hm : Within 4680 pm) (act : Fin 9) (unit : Nat) (s : State) (h
    : Keeps pm org s) : KeepsO pm org (execHoldMaxExpire act unit s) := by
  have k0 : Within 0 pm := hm.sub rfl
  have k4680 : Within 4680 pm := hm.sub rfl
  have b9 := hm.bit (i := 9) rfl
  unfold execHoldMaxExpire
  repeat' (first
    | (with_reducible first
        | assumption | intro _ | apply maintAsk_keeps k4680 | apply onlyIf_keeps | apply nextOf_keeps
        | apply irqEdge_keeps k0 | (fail_if_no_progress refine keeps_mp _ b9 ?_) | apply keepsO_next)
    | split)

theorem putRecord_keeps {pm : Nat} {org : State} (hm : Within 4104 pm) (s : State) (k : Nat) (p : Posting) (h : Keeps pm
    org s) : Keeps pm org (putRecord s k p) := by
  have k4096 : Within 4096 pm := hm.sub rfl
  have b3 := hm.bit (i := 3) rfl
  unfold putRecord
  repeat' (first
    | (with_reducible first
        | assumption | intro _ | apply wr_keeps k4096 | (fail_if_no_progress refine keeps_rcd _ b3 ?_))
    | split)

theorem recNotify_keeps {pm : Nat} {org : State} (hm : Within 4096 pm) (s : State) (code : Nat) (h : Keeps pm org s) :
    Keeps pm org (recNotify s code) := by
  have k0 : Within 0 pm := hm.sub rfl
  have k4096 : Within 4096 pm := hm.sub rfl
  unfold recNotify
  repeat' (first
    | (with_reducible first
        | assumption | intro _ | apply raiseReg_keeps k0 | apply wrB_keeps k4096 | apply keeps_ite | apply keeps_ite_fst)
    | split)

theorem recDegrade_keeps {pm : Nat} {org : State} (hm : Within 6152 pm) (s : State) (store slot : Nat) (colOk : Bool) (h
    : Keeps pm org s) : Keeps pm org (recDegrade s store slot colOk) := by
  have k0 : Within 0 pm := hm.sub rfl
  have k4096 : Within 4096 pm := hm.sub rfl
  have k4104 : Within 4104 pm := hm.sub rfl
  have k6144 : Within 6144 pm := hm.sub rfl
  have b3 := hm.bit (i := 3) rfl
  unfold recDegrade
  repeat' (first
    | (with_reducible first
        | assumption | intro _ | apply assertFault_keeps k6144 | apply putRecord_keeps k4104 | apply raiseReg_keeps k0
        | apply recNotify_keeps k4096 | apply wrB_keeps k4096 | apply wrF_keeps k4096 | apply keeps_ite
        | apply keeps_ite_fst | (fail_if_no_progress refine keeps_rcd _ b3 ?_))
    | split)

theorem writeDegraded_keeps {pm : Nat} {org : State} (hm : Within 6152 pm) (s : State) (k : Nat) (p : Posting) (ok :
    Bool) (h : Keeps pm org s) : Keeps pm org (writeDegraded s k p ok) := by
  have k4096 : Within 4096 pm := hm.sub rfl
  have k4104 : Within 4104 pm := hm.sub rfl
  have k6144 : Within 6144 pm := hm.sub rfl
  unfold writeDegraded
  repeat' (first
    | (with_reducible first
        | assumption | intro _ | apply assertFault_keeps k6144 | apply putRecord_keeps k4104 | apply wrF_keeps k4096
        | apply keeps_ite | apply keeps_ite_fst)
    | split)

theorem writeTo_keeps {pm : Nat} {org : State} (hm : Within 6152 pm) (s : State) (k : Nat) (p : Posting) (ok1 ok2 col :
    Bool) (h : Keeps pm org s) : Keeps pm org (writeTo s k p ok1 ok2 col) := by
  have k4096 : Within 4096 pm := hm.sub rfl
  have k4104 : Within 4104 pm := hm.sub rfl
  have k6152 : Within 6152 pm := hm.sub rfl
  unfold writeTo
  repeat' (first
    | (with_reducible first
        | assumption | intro _ | apply putRecord_keeps k4104 | apply recDegrade_keeps k6152 | apply recNotify_keeps k4096
        | apply writeDegraded_keeps k6152 | apply keeps_ite | apply keeps_ite_fst)
    | split)

theorem closeWindow_keeps {pm : Nat} {org : State} (hm : Within 6152 pm) (s : State) (w : Window) (ok1 ok2 col : Bool) (h
    : Keeps pm org s) : Keeps pm org (closeWindow s w ok1 ok2 col) := by
  have k6152 : Within 6152 pm := hm.sub rfl
  unfold closeWindow
  repeat' (first
    | (with_reducible first
        | assumption | intro _ | apply writeTo_keeps k6152 | apply keeps_ite | apply keeps_ite_fst)
    | split)

theorem handleEvent_keeps {pm : Nat} {org : State} (hm : Within 6152 pm) (s : State) (p : Posting) (ok1 ok2 col : Bool)
    (h : Keeps pm org s) : Keeps pm org (handleEvent s p ok1 ok2 col) := by
  have k6152 : Within 6152 pm := hm.sub rfl
  have b3 := hm.bit (i := 3) rfl
  unfold handleEvent
  dsimp only
  repeat' (first
    | (with_reducible first
        | assumption | intro _ | apply closeWindow_keeps k6152 | apply writeTo_keeps k6152 | apply keeps_ite
        | apply keeps_ite_fst | (fail_if_no_progress refine keeps_rcd _ b3 ?_))
    | split | dsimp only)

theorem closeAllWindows_keeps {pm : Nat} {org : State} (hm : Within 6152 pm) (s : State) (h : Keeps pm org s) : Keeps pm
    org (closeAllWindows s) := by
  have k6152 : Within 6152 pm := hm.sub rfl
  have b3 := hm.bit (i := 3) rfl
  unfold closeAllWindows
  repeat' (first
    | (with_reducible first
        | assumption | intro _ | apply closeWindow_keeps k6152 | apply keeps_foldl | apply keeps_foldl_fst
        | (fail_if_no_progress refine keeps_rcd _ b3 ?_))
    | split)

theorem windowsTick_keeps {pm : Nat} {org : State} (hm : Within 6152 pm) (s : State) (h : Keeps pm org s) : Keeps pm org
    (windowsTick s) := by
  have k6152 : Within 6152 pm := hm.sub rfl
  have b3 := hm.bit (i := 3) rfl
  unfold windowsTick
  repeat' (first
    | (with_reducible first
        | assumption | intro _ | apply closeWindow_keeps k6152 | apply keeps_ite | apply keeps_ite_fst | apply keeps_foldl
        | apply keeps_foldl_fst | (fail_if_no_progress refine keeps_rcd _ b3 ?_))
    | split)

theorem setCached_keeps {pm : Nat} {org : State} (hm : Within 1024 pm) (s : State) (k v : Nat) (h : Keeps pm org s) :
    Keeps pm org (setCached s k v) := by
  have b10 := hm.bit (i := 10) rfl
  unfold setCached
  repeat' (first
    | (with_reducible first
        | assumption | intro _ | (fail_if_no_progress refine keeps_pool _ b10 ?_))
    | split)

theorem cacheSettle_keeps {pm : Nat} {org : State} (hm : Within 1024 pm) (s : State) (k n : Nat) (h : Keeps pm org s) :
    Keeps pm org (cacheSettle s k n) := by
  have k1024 : Within 1024 pm := hm.sub rfl
  unfold cacheSettle
  repeat' (first
    | (with_reducible first
        | assumption | intro _ | apply setCached_keeps k1024 | apply keeps_ite | apply keeps_ite_fst)
    | split)

theorem putBack_keeps {pm : Nat} {org : State} (hm : Within 33792 pm) (s : State) (k e : Nat) (h : Keeps pm org s) :
    Keeps pm org (putBack s k e) := by
  have k1024 : Within 1024 pm := hm.sub rfl
  have k32768 : Within 32768 pm := hm.sub rfl
  unfold putBack
  repeat' (first
    | (with_reducible first
        | assumption | intro _ | apply cacheSettle_keeps k1024 | apply draw_keeps k32768 | apply setLedger_keeps k1024
        | apply keeps_ite | apply keeps_ite_fst)
    | split)

theorem takeBuf_keeps {pm : Nat} {org : State} (hm : Within 37888 pm) (s : State) (k v : Nat) (h : Keeps pm org s) :
    Keeps pm org (takeBuf s k v).1 := by
  have k1024 : Within 1024 pm := hm.sub rfl
  have k4096 : Within 4096 pm := hm.sub rfl
  have k32768 : Within 32768 pm := hm.sub rfl
  unfold takeBuf
  repeat' (first
    | (with_reducible first
        | assumption | apply cacheSettle_keeps k1024 | apply draw_keeps k32768 | apply perf_keeps k4096
        | apply setLedger_keeps k1024)
    | split)

theorem poolGrant_keeps {pm : Nat} {org : State} (hm : Within 37898 pm) (s : State) (k : Nat) (w : PoolWait) (h : Keeps
    pm org s) : Keeps pm org (poolGrant s k w) := by
  have k2 : Within 2 pm := hm.sub rfl
  have k1024 : Within 1024 pm := hm.sub rfl
  have k4104 : Within 4104 pm := hm.sub rfl
  have k4106 : Within 4106 pm := hm.sub rfl
  have k33792 : Within 33792 pm := hm.sub rfl
  have b10 := hm.bit (i := 10) rfl
  unfold poolGrant
  repeat' (first
    | (with_reducible first
        | assumption | intro _ | apply completeIns_keeps k4106 | apply operandFault_keeps k4104
        | apply putBack_keeps k33792 | apply setLedger_keeps k1024 | apply valueWrite_keeps k2 | apply keeps_ite
        | apply keeps_ite_fst | (fail_if_no_progress refine keeps_pool _ b10 ?_))
    | split)

theorem poolFill_keeps {pm : Nat} {org : State} (hm : Within 37888 pm) (s : State) (k : Nat) (w : PoolWait) (h : Keeps pm
    org s) : Keeps pm org (poolFill s k w).1 := by
  have k37888 : Within 37888 pm := hm.sub rfl
  unfold poolFill
  repeat' (first
    | (with_reducible first
        | assumption | intro _ | apply takeBuf_keeps k37888 | apply keeps_foldl | apply keeps_foldl_fst)
    | split)

theorem poolServe_keeps {pm : Nat} {org : State} (hm : Within 37898 pm) (fuel : Nat) (s : State) (k : Nat)
    (h : Keeps pm org s) : Keeps pm org (poolServe fuel s k) := by
  have k1024 : Within 1024 pm := hm.sub rfl
  have k37888 : Within 37888 pm := hm.sub rfl
  have k37898 : Within 37898 pm := hm.sub rfl
  induction fuel generalizing s with
  | zero => exact h
  | succ n ih =>
    unfold poolServe
    dsimp only
    repeat' (first
      | (with_reducible first
          | assumption | intro _ | apply poolGrant_keeps k37898 | apply setFifo_keeps k1024 | apply poolFill_keeps k37888
          | apply ih | apply keeps_ite | apply keeps_foldl | apply keeps_foldl_fst)
      | split)

theorem poolRun_keeps {pm : Nat} {org : State} (hm : Within 37898 pm) (s : State) (k : Nat) (h : Keeps pm org s) : Keeps
    pm org (poolRun s k) := by
  exact poolServe_keeps hm _ _ _ h

theorem poolPass_keeps {pm : Nat} {org : State} (hm : Within 37898 pm) (s : State) (k : Nat) (got : List Nat) (h : Keeps
    pm org s) : Keeps pm org (poolPass s k got) := by
  have k1024 : Within 1024 pm := hm.sub rfl
  have k33792 : Within 33792 pm := hm.sub rfl
  have k37898 : Within 37898 pm := hm.sub rfl
  unfold poolPass
  repeat' (first
    | (with_reducible first
        | assumption | intro _ | apply poolRun_keeps k37898 | apply putBack_keeps k33792 | apply setFifo_keeps k1024
        | apply keeps_foldl | apply keeps_foldl_fst)
    | split)

theorem poolLeave_keeps {pm : Nat} {org : State} (hm : Within 37898 pm) (s : State) (k : Nat) (p : PoolWait → Bool) (h :
    Keeps pm org s) : Keeps pm org (poolLeave s k p) := by
  have k1024 : Within 1024 pm := hm.sub rfl
  have k37898 : Within 37898 pm := hm.sub rfl
  unfold poolLeave
  repeat' (first
    | (with_reducible first
        | assumption | intro _ | apply poolPass_keeps k37898 | apply setFifo_keeps k1024)
    | split)

theorem pallocLeave_keeps {pm : Nat} {org : State} (hm : Within 37898 pm) (s : State) (n : Nat) (h : Keeps pm org s) :
    Keeps pm org (pallocLeave s n) := by
  have k37898 : Within 37898 pm := hm.sub rfl
  unfold pallocLeave
  repeat' (first
    | (with_reducible first
        | assumption | intro _ | apply poolLeave_keeps k37898 | apply keeps_foldl | apply keeps_foldl_fst)
    | split)

theorem returnBuf_keeps {pm : Nat} {org : State} (hm : Within 37898 pm) (s : State) (k e : Nat) (h : Keeps pm org s) :
    Keeps pm org (returnBuf s k e) := by
  have k33792 : Within 33792 pm := hm.sub rfl
  have k37898 : Within 37898 pm := hm.sub rfl
  unfold returnBuf
  repeat' (first | (with_reducible first | assumption | apply poolRun_keeps k37898 | apply putBack_keeps k33792) | split)

theorem freeEvent_keeps {pm : Nat} {org : State} (hm : Within 4104 pm) (s : State) (st : Status) (origin addr e : Nat) (h
    : Keeps pm org s) : Keeps pm org (freeEvent s st origin addr e) := by
  have k4104 : Within 4104 pm := hm.sub rfl
  unfold freeEvent
  repeat' (first
    | (with_reducible first
        | assumption | intro _ | apply post_keeps k4104 | apply keeps_ite | apply keeps_ite_fst)
    | split)

theorem freeBuf_keeps {pm : Nat} {org : State} (hm : Within 37898 pm) (s : State) (mem rights : Nat → Bool) (origin addr
    : Nat) (h : Keeps pm org s) : Keeps pm org (freeBuf s mem rights origin addr).1 := by
  have k1024 : Within 1024 pm := hm.sub rfl
  have k4096 : Within 4096 pm := hm.sub rfl
  have k4104 : Within 4104 pm := hm.sub rfl
  have k37898 : Within 37898 pm := hm.sub rfl
  unfold freeBuf
  repeat' (first
    | (with_reducible first
        | assumption | intro _ | apply freeEvent_keeps k4104 | apply perf_keeps k4096 | apply returnBuf_keeps k37898
        | apply setLedger_keeps k1024 | apply keeps_ite | apply keeps_ite_fst)
    | split)

theorem setFrState_keeps {pm : Nat} {org : State} (hm : Within 4096 pm) (s : State) (tx : Bool) (r v : Nat) (h : Keeps pm
    org s) : Keeps pm org (setFrState s tx r v) := by
  have k4096 : Within 4096 pm := hm.sub rfl
  unfold setFrState
  repeat' (first | (with_reducible first | assumption | apply wrF_keeps k4096) | split)

theorem frRaise_keeps {pm : Nat} {org : State} (hm : Within 1024 pm) (s : State) (tx : Bool) (r : Nat) (h : Keeps pm org
    s) : Keeps pm org (frRaise s tx r) := by
  have k0 : Within 0 pm := hm.sub rfl
  have b10 := hm.bit (i := 10) rfl
  unfold frRaise
  repeat' (first
    | (with_reducible first
        | assumption | intro _ | apply raise_keeps k0 | apply keeps_ite | apply keeps_ite_fst
        | (fail_if_no_progress refine keeps_pool _ b10 ?_))
    | split)

theorem frArm_keeps {pm : Nat} {org : State} (hm : Within 1024 pm) (s : State) (tx : Bool) (r : Nat) (h : Keeps pm org s)
    : Keeps pm org (frArm s tx r) := by
  have b10 := hm.bit (i := 10) rfl
  unfold frArm
  repeat' (first
    | (with_reducible first
        | assumption | intro _ | apply keeps_ite | apply keeps_ite_fst | (fail_if_no_progress refine keeps_pool _ b10 ?_))
    | split)

theorem rxLost_keeps {pm : Nat} {org : State} (hm : Within 12296 pm) (s : State) (r j : Nat) (h : Keeps pm org s) : Keeps
    pm org (rxLost s r j) := by
  have k4104 : Within 4104 pm := hm.sub rfl
  have k8192 : Within 8192 pm := hm.sub rfl
  unfold rxLost
  repeat' (first
    | (with_reducible first
        | assumption | intro _ | apply bump_keeps k4104 | apply setCtr_keeps k8192 | apply keeps_ite | apply keeps_ite_fst)
    | split)

theorem rxAsk_keeps {pm : Nat} {org : State} (hm : Within 37898 pm) (s : State) (p : Nat) (h : Keeps pm org s) : Keeps pm
    org (rxAsk s p) := by
  have k1024 : Within 1024 pm := hm.sub rfl
  have k4096 : Within 4096 pm := hm.sub rfl
  have k37898 : Within 37898 pm := hm.sub rfl
  unfold rxAsk
  repeat' (first
    | (with_reducible first
        | assumption | intro _ | apply perf_keeps k4096 | apply poolRun_keeps k37898 | apply setFifo_keeps k1024
        | apply keeps_ite | apply keeps_ite_fst)
    | split)

theorem rxStart_keeps {pm : Nat} {org : State} (hm : Within 13416 pm) (s : State) (c : Copy) (hash : Nat) (h : Keeps pm
    org s) : Keeps pm org (rxStart s c hash) := by
  have k32 : Within 32 pm := hm.sub rfl
  have k5224 : Within 5224 pm := hm.sub rfl
  have k12296 : Within 12296 pm := hm.sub rfl
  have b10 := hm.bit (i := 10) rfl
  unfold rxStart
  repeat' (first
    | (with_reducible first
        | assumption | intro _ | apply dropCopy_keeps k5224 | apply putCopy_keeps k32 | apply rxLost_keeps k12296
        | apply keeps_ite | apply keeps_ite_fst | (fail_if_no_progress refine keeps_pool _ b10 ?_))
    | split)

theorem mpStart_keeps {pm : Nat} {org : State} (hm : Within 5224 pm) (s : State) (c : Copy) (h : Keeps pm org s) : Keeps
    pm org (mpStart s c) := by
  have k32 : Within 32 pm := hm.sub rfl
  have k4104 : Within 4104 pm := hm.sub rfl
  have k5224 : Within 5224 pm := hm.sub rfl
  have b10 := hm.bit (i := 10) rfl
  unfold mpStart
  repeat' (first
    | (with_reducible first
        | assumption | intro _ | apply bump_keeps k4104 | apply dropCopy_keeps k5224 | apply putCopy_keeps k32
        | apply keeps_ite | apply keeps_ite_fst | (fail_if_no_progress refine keeps_pool _ b10 ?_))
    | split)

theorem rxDrop_keeps {pm : Nat} {org : State} (hm : Within 37994 pm) (s : State) (x : RxChain) (h : Keeps pm org s) :
    Keeps pm org (rxDrop s x) := by
  have k5224 : Within 5224 pm := hm.sub rfl
  have k37898 : Within 37898 pm := hm.sub rfl
  have b10 := hm.bit (i := 10) rfl
  unfold rxDrop
  repeat' (first
    | (with_reducible first
        | assumption | intro _ | apply dropCopy_keeps k5224 | apply poolLeave_keeps k37898 | apply poolPass_keeps k37898
        | (fail_if_no_progress refine keeps_pool _ b10 ?_))
    | split)

theorem txFreeOne_keeps {pm : Nat} {org : State} (hm : Within 37898 pm) (s : State) (r first addr : Nat) (h : Keeps pm
    org s) : Keeps pm org (txFreeOne s r first addr) := by
  have k37898 : Within 37898 pm := hm.sub rfl
  have b10 := hm.bit (i := 10) rfl
  unfold txFreeOne
  repeat' (first
    | (with_reducible first
        | assumption | intro _ | apply freeBuf_keeps k37898 | apply keeps_ite | apply keeps_ite_fst
        | (fail_if_no_progress refine keeps_pool _ b10 ?_))
    | split)

theorem pathGrant_keeps {pm : Nat} {org : State} (hm : Within 37898 pm) (s : State) (p : Nat) (h : Keeps pm org s) :
    Keeps pm org (pathGrant s p) := by
  have k37898 : Within 37898 pm := hm.sub rfl
  have b10 := hm.bit (i := 10) rfl
  unfold pathGrant
  repeat' (first
    | (with_reducible first
        | assumption | intro _ | apply rxAsk_keeps k37898 | apply txFreeOne_keeps k37898 | apply keeps_ite
        | apply keeps_ite_fst | (fail_if_no_progress refine keeps_pool _ b10 ?_))
    | split)

theorem ringGrant_keeps {pm : Nat} {org : State} (hm : Within 37962 pm) (s : State) (n : Nat) (h : Keeps pm org s) :
    Keeps pm org (ringGrant s n) := by
  have k37898 : Within 37898 pm := hm.sub rfl
  have b6 := hm.bit (i := 6) rfl
  have b10 := hm.bit (i := 10) rfl
  unfold ringGrant
  repeat' (first
    | (with_reducible first
        | assumption | intro _ | apply pathGrant_keeps k37898 | apply keeps_ite | apply keeps_ite_fst | apply keeps_foldl
        | apply keeps_foldl_fst | (fail_if_no_progress refine keeps_core_pool _ _ b6 b10 ?_))
    | split)

theorem poolTick_keeps {pm : Nat} {org : State} (hm : Within 37898 pm) (s : State) (h : Keeps pm org s) : Keeps pm org
    (poolTick s) := by
  have k37898 : Within 37898 pm := hm.sub rfl
  unfold poolTick
  repeat' (first
    | (with_reducible first
        | assumption | intro _ | apply pathGrant_keeps k37898 | apply keeps_ite | apply keeps_ite_fst)
    | split)

theorem laneStatus_keeps {pm : Nat} {org : State} (hm : Within 32768 pm) (s : State) (o : Nat) (h : Keeps pm org s) :
    Keeps pm org (laneStatus s o).1 := by
  have k32768 : Within 32768 pm := hm.sub rfl
  unfold laneStatus
  repeat' (first
    | (with_reducible first
        | assumption | intro _ | apply draw_keeps k32768 | apply keeps_ite | apply keeps_ite_fst | apply keeps_elim)
    | split)

theorem look_keeps {pm : Nat} {org : State} (hm : Within 32768 pm) (s : State) (l : Bool) (o : Nat) (h : Keeps pm org s)
    : Keeps pm org (look s l o).1 := by
  have k32768 : Within 32768 pm := hm.sub rfl
  unfold look
  repeat' (first
    | (with_reducible first
        | assumption | intro _ | apply draw_keeps k32768 | apply laneStatus_keeps k32768 | apply keeps_ite
        | apply keeps_ite_fst)
    | split)

theorem readEffect_keeps {pm : Nat} {org : State} (hm : Within 36864 pm) (s : State) (l : Bool) (o : Nat) (h : Keeps pm
    org s) : Keeps pm org (readEffect s l o).1 := by
  have k4096 : Within 4096 pm := hm.sub rfl
  have k32768 : Within 32768 pm := hm.sub rfl
  unfold readEffect
  repeat' (first
    | (with_reducible first
        | assumption | intro _ | apply look_keeps k32768 | apply readTime0_keeps k4096 | apply wr_keeps k4096
        | apply keeps_ite | apply keeps_ite_fst | apply keeps_elim)
    | split)

end Sys2Proof.Machine
end

