-- ==== Sys2Proof/Laws/KeepsF.lean ====
section
/-! SUPPORT. Keeps, for every operation of Machine/: Ports.lean. -/

set_option linter.unusedTactic false
set_option linter.unreachableTactic false
set_option linter.unusedVariables false

namespace Sys2Proof.Machine

theorem rxCount_keeps {pm : Nat} {org : State} (hm : Within 4160 pm) (s : State) (p : Nat) (f : RxFrame) (h : Keeps pm
    org s) : Keeps pm org (rxCount s p f) := by
  have k4160 : Within 4160 pm := hm.sub rfl
  unfold rxCount
  repeat' (first
    | (with_reducible first
        | assumption | intro _ | apply macAdd_keeps k4160 | apply keeps_ite | apply keeps_ite_fst)
    | split)

theorem countHolds_keeps {pm : Nat} {org : State} (hm : Within 4160 pm) (s : State) (h : Keeps pm org s) : Keeps pm org
    (countHolds s) := by
  have k4160 : Within 4160 pm := hm.sub rfl
  unfold countHolds
  repeat' (first
    | (with_reducible first
        | assumption | intro _ | apply macAdd_keeps k4160 | apply keeps_foldl | apply keeps_foldl_fst)
    | split)

theorem holdEnd_keeps {pm : Nat} {org : State} (hm : Within 4128 pm) (s : State) (p c : Nat) (h : Keeps pm org s) : Keeps
    pm org (holdEnd s p c) := by
  have k4096 : Within 4096 pm := hm.sub rfl
  have b5 := hm.bit (i := 5) rfl
  unfold holdEnd
  repeat' (first
    | (with_reducible first
        | assumption | intro _ | apply wrB_keeps k4096 | apply wrF_keeps k4096 | apply keeps_ite | apply keeps_ite_fst
        | (fail_if_no_progress refine keeps_path _ b5 ?_))
    | split)

theorem holdBegin_keeps {pm : Nat} {org : State} (hm : Within 4128 pm) (s : State) (p c q : Nat) (h : Keeps pm org s) :
    Keeps pm org (holdBegin s p c q) := by
  have k4096 : Within 4096 pm := hm.sub rfl
  have k4128 : Within 4128 pm := hm.sub rfl
  have b5 := hm.bit (i := 5) rfl
  unfold holdBegin
  repeat' (first
    | (with_reducible first
        | assumption | intro _ | apply holdEnd_keeps k4128 | apply wrB_keeps k4096 | apply wrF_keeps k4096
        | apply keeps_ite | apply keeps_ite_fst | (fail_if_no_progress refine keeps_path _ b5 ?_))
    | split)

theorem pfcAct_keeps {pm : Nat} {org : State} (hm : Within 4192 pm) (s : State) (p : Nat) (o : List Byte) (h : Keeps pm
    org s) : Keeps pm org (pfcAct s p o) := by
  have k4128 : Within 4128 pm := hm.sub rfl
  have k4160 : Within 4160 pm := hm.sub rfl
  unfold pfcAct
  repeat' (first
    | (with_reducible first
        | assumption | intro _ | apply holdBegin_keeps k4128 | apply macAdd_keeps k4160 | apply keeps_ite
        | apply keeps_ite_fst | apply keeps_foldl | apply keeps_foldl_fst)
    | split)

theorem pauseAct_keeps {pm : Nat} {org : State} (hm : Within 4192 pm) (s : State) (p : Nat) (o : List Byte) (h : Keeps pm
    org s) : Keeps pm org (pauseAct s p o) := by
  have k4128 : Within 4128 pm := hm.sub rfl
  have k4160 : Within 4160 pm := hm.sub rfl
  unfold pauseAct
  repeat' (first
    | (with_reducible first
        | assumption | intro _ | apply holdBegin_keeps k4128 | apply macAdd_keeps k4160 | apply keeps_ite
        | apply keeps_ite_fst)
    | split)

theorem macControl_keeps {pm : Nat} {org : State} (hm : Within 4192 pm) (s : State) (p : Nat) (o : List Byte) (h : Keeps
    pm org s) : Keeps pm org (macControl s p o) := by
  have k4160 : Within 4160 pm := hm.sub rfl
  have k4192 : Within 4192 pm := hm.sub rfl
  unfold macControl
  repeat' (first
    | (with_reducible first
        | assumption | intro _ | apply macAdd_keeps k4160 | apply pauseAct_keeps k4192 | apply pfcAct_keeps k4192
        | apply keeps_ite | apply keeps_ite_fst)
    | split)

theorem mirrorArrive_keeps {pm : Nat} {org : State} (hm : Within 4136 pm) (s : State) (g : Frame) (m : Nat) (good : Bool)
    (o : List Byte) (h : Keeps pm org s) : Keeps pm org (mirrorArrive s g m good o) := by
  have k32 : Within 32 pm := hm.sub rfl
  have k4104 : Within 4104 pm := hm.sub rfl
  unfold mirrorArrive
  repeat' (first
    | (with_reducible first
        | assumption | intro _ | apply mirrorDrop_keeps k4104 | apply putFrame_keeps k32 | apply removeFrame_keeps k32
        | apply setCopies_keeps k32 | apply keeps_ite | apply keeps_ite_fst)
    | split)

theorem pcsCount_keeps {pm : Nat} {org : State} (hm : Within 4160 pm) (s : State) (p : Nat) (x : PcsCounts) (h : Keeps pm
    org s) : Keeps pm org (pcsCount s p x) := by
  have k4096 : Within 4096 pm := hm.sub rfl
  have k4160 : Within 4160 pm := hm.sub rfl
  unfold pcsCount
  repeat' (first | (with_reducible first | assumption | apply macAdd_keeps k4160 | apply perf_keeps k4096) | split)

theorem mmCount_keeps {pm : Nat} {org : State} (hm : Within 4160 pm) (s : State) (p : Nat) (m : RxMac) (h : Keeps pm org
    s) : Keeps pm org (mmCount s p m) := by
  have k4160 : Within 4160 pm := hm.sub rfl
  unfold mmCount
  repeat' (first
    | (with_reducible first
        | assumption | intro _ | apply macAdd_keeps k4160 | apply keeps_ite | apply keeps_ite_fst)
    | split)

theorem frameWhole_keeps {pm : Nat} {org : State} (hm : Within 4328 pm) (s : State) (p c : Nat) (x : Frame) (f : RxFrame)
    (h : Keeps pm org s) : Keeps pm org (frameWhole s p c x f) := by
  have k32 : Within 32 pm := hm.sub rfl
  have k4136 : Within 4136 pm := hm.sub rfl
  have k4192 : Within 4192 pm := hm.sub rfl
  have k4232 : Within 4232 pm := hm.sub rfl
  unfold frameWhole
  dsimp only
  repeat' (first
    | (with_reducible first
        | assumption | intro _ | apply fragAsk_keeps k4136 | apply macNext_keeps k4192 | apply mirrorArrive_keeps k4136
        | apply putFrame_keeps k32 | apply queueLearn_keeps k4232 | apply reapFrame_keeps k32 | apply setCopies_keeps k32
        | apply keeps_ite | apply keeps_ite_fst | apply keeps_foldl | apply keeps_foldl_fst | apply keeps_elim)
    | split | dsimp only)

theorem macReceive_keeps {pm : Nat} {org : State} (hm : Within 4328 pm) (s : State) (p : Nat) (f : RxFrame) (h : Keeps pm
    org s) : Keeps pm org (macReceive s p f) := by
  have k32 : Within 32 pm := hm.sub rfl
  have k4096 : Within 4096 pm := hm.sub rfl
  have k4160 : Within 4160 pm := hm.sub rfl
  have k4192 : Within 4192 pm := hm.sub rfl
  have k4328 : Within 4328 pm := hm.sub rfl
  unfold macReceive
  dsimp only
  repeat' (first
    | (with_reducible first
        | assumption | intro _ | apply addFrame_keeps k32 | apply frameWhole_keeps k4328 | apply macControl_keeps k4192
        | apply mmCount_keeps k4160 | apply pcsCount_keeps k4160 | apply perf_keeps k4096 | apply rxCount_keeps k4160
        | apply setHdrWait_keeps k32 | apply keeps_ite | apply keeps_ite_fst)
    | split | dsimp only)

theorem execFrameReceive_keeps {pm : Nat} {org : State} (hm : Within 4328 pm) (port : Fin 256) (f : RxFrame) (s : State)
    (h : Keeps pm org s) : KeepsO pm org (execFrameReceive port f s) := by
  have k0 : Within 0 pm := hm.sub rfl
  have k4160 : Within 4160 pm := hm.sub rfl
  have k4328 : Within 4328 pm := hm.sub rfl
  unfold execFrameReceive
  repeat' (first
    | (with_reducible first
        | assumption | intro _ | apply macReceive_keeps k4328 | apply pcsCount_keeps k4160 | apply onlyIf_keeps
        | apply keeps_ite | apply keeps_ite_fst | apply nextOf_keeps | apply irqEdge_keeps k0 | apply keepsO_next)
    | split)

theorem execPfcFrameReceive_keeps {pm : Nat} {org : State} (hm : Within 4328 pm) (port : Fin 256) (f : RxFrame) (s :
    State) (h : Keeps pm org s) : KeepsO pm org (execPfcFrameReceive port f s) := by
  have k0 : Within 0 pm := hm.sub rfl
  have k4328 : Within 4328 pm := hm.sub rfl
  unfold execPfcFrameReceive
  repeat' (first
    | (with_reducible first
        | assumption | intro _ | apply macReceive_keeps k4328 | apply onlyIf_keeps | apply nextOf_keeps
        | apply irqEdge_keeps k0 | apply keepsO_next)
    | split)

theorem execPauseFrameReceive_keeps {pm : Nat} {org : State} (hm : Within 4328 pm) (port : Fin 256) (f : RxFrame) (s :
    State) (h : Keeps pm org s) : KeepsO pm org (execPauseFrameReceive port f s) := by
  have k0 : Within 0 pm := hm.sub rfl
  have k4328 : Within 4328 pm := hm.sub rfl
  unfold execPauseFrameReceive
  repeat' (first
    | (with_reducible first
        | assumption | intro _ | apply macReceive_keeps k4328 | apply onlyIf_keeps | apply nextOf_keeps
        | apply irqEdge_keeps k0 | apply keepsO_next)
    | split)

theorem execPauseHoldExpire_keeps {pm : Nat} {org : State} (hm : Within 4192 pm) (port : Fin 256) (cls : Fin 9) (s :
    State) (h : Keeps pm org s) : KeepsO pm org (execPauseHoldExpire port cls s) := by
  have k0 : Within 0 pm := hm.sub rfl
  have k4128 : Within 4128 pm := hm.sub rfl
  have k4192 : Within 4192 pm := hm.sub rfl
  unfold execPauseHoldExpire
  repeat' (first
    | (with_reducible first
        | assumption | intro _ | apply holdEnd_keeps k4128 | apply macNext_keeps k4192 | apply onlyIf_keeps
        | apply nextOf_keeps | apply irqEdge_keeps k0 | apply keepsO_next)
    | split)

theorem setXoff_keeps {pm : Nat} {org : State} (hm : Within 4096 pm) (s : State) (p c : Nat) (v : Bool) (h : Keeps pm org
    s) : Keeps pm org (setXoff s p c v) := by
  have k4096 : Within 4096 pm := hm.sub rfl
  unfold setXoff
  repeat' (first
    | (with_reducible first
        | assumption | intro _ | apply wrB_keeps k4096 | apply wrF_keeps k4096 | apply keeps_ite | apply keeps_ite_fst)
    | split)

theorem xoffSend_keeps {pm : Nat} {org : State} (hm : Within 4192 pm) (s : State) (p c : Nat) (h : Keeps pm org s) :
    Keeps pm org (xoffSend s p c) := by
  have k4096 : Within 4096 pm := hm.sub rfl
  have k4192 : Within 4192 pm := hm.sub rfl
  have b5 := hm.bit (i := 5) rfl
  unfold xoffSend
  repeat' (first
    | (with_reducible first
        | assumption | intro _ | apply sendControl_keeps k4192 | apply setXoff_keeps k4096
        | (fail_if_no_progress refine keeps_path _ b5 ?_))
    | split)

theorem execXoffSend_keeps {pm : Nat} {org : State} (hm : Within 4192 pm) (port : Fin 256) (cls : Fin 8) (s : State) (h :
    Keeps pm org s) : KeepsO pm org (execXoffSend port cls s) := by
  have k0 : Within 0 pm := hm.sub rfl
  have k4192 : Within 4192 pm := hm.sub rfl
  unfold execXoffSend
  repeat' (first
    | (with_reducible first
        | assumption | intro _ | apply xoffSend_keeps k4192 | apply onlyIf_keeps | apply nextOf_keeps
        | apply irqEdge_keeps k0 | apply keepsO_next)
    | split)

theorem execXoffRefresh_keeps {pm : Nat} {org : State} (hm : Within 4192 pm) (port : Fin 256) (cls : Fin 8) (s : State)
    (h : Keeps pm org s) : KeepsO pm org (execXoffRefresh port cls s) := by
  have k0 : Within 0 pm := hm.sub rfl
  have k4192 : Within 4192 pm := hm.sub rfl
  unfold execXoffRefresh
  repeat' (first
    | (with_reducible first
        | assumption | intro _ | apply xoffSend_keeps k4192 | apply onlyIf_keeps | apply nextOf_keeps
        | apply irqEdge_keeps k0 | apply keepsO_next)
    | split)

theorem execXonSend_keeps {pm : Nat} {org : State} (hm : Within 4192 pm) (port : Fin 256) (cls : Fin 8) (s : State) (h :
    Keeps pm org s) : KeepsO pm org (execXonSend port cls s) := by
  have k0 : Within 0 pm := hm.sub rfl
  have k4096 : Within 4096 pm := hm.sub rfl
  have k4192 : Within 4192 pm := hm.sub rfl
  have b5 := hm.bit (i := 5) rfl
  unfold execXonSend
  repeat' (first
    | (with_reducible first
        | assumption | intro _ | apply sendControl_keeps k4192 | apply setXoff_keeps k4096 | apply onlyIf_keeps
        | apply nextOf_keeps | apply irqEdge_keeps k0 | (fail_if_no_progress refine keeps_path _ b5 ?_)
        | apply keepsO_next)
    | split)

theorem abortTx_keeps {pm : Nat} {org : State} (hm : Within 5224 pm) (s : State) (p : Nat) (h : Keeps pm org s) : Keeps
    pm org (abortTx s p) := by
  have k4160 : Within 4160 pm := hm.sub rfl
  have k5224 : Within 5224 pm := hm.sub rfl
  unfold abortTx
  repeat' (first
    | (with_reducible first
        | assumption | intro _ | apply dropCopy_keeps k5224 | apply macAdd_keeps k4160 | apply keeps_foldl
        | apply keeps_foldl_fst)
    | split)

theorem clearFlowControl_keeps {pm : Nat} {org : State} (hm : Within 4128 pm) (s : State) (p : Nat) (h : Keeps pm org s)
    : Keeps pm org (clearFlowControl s p) := by
  have k32 : Within 32 pm := hm.sub rfl
  have k4096 : Within 4096 pm := hm.sub rfl
  have k4128 : Within 4128 pm := hm.sub rfl
  have b5 := hm.bit (i := 5) rfl
  unfold clearFlowControl
  repeat' (first
    | (with_reducible first
        | assumption | intro _ | apply holdEnd_keeps k4128 | apply setCtlQ_keeps k32 | apply wrF_keeps k4096
        | apply keeps_foldl | apply keeps_foldl_fst | (fail_if_no_progress refine keeps_path _ b5 ?_))
    | split)

theorem setSide_keeps {pm : Nat} {org : State} (hm : Within 32 pm) (s : State) (p k : Nat) (h : Keeps pm org s) : Keeps
    pm org (setSide s p k) := by
  have k0 : Within 0 pm := hm.sub rfl
  have b5 := hm.bit (i := 5) rfl
  unfold setSide
  repeat' (first
    | (with_reducible first
        | assumption | intro _ | apply emit_keeps k0 | apply keeps_ite | apply keeps_ite_fst
        | (fail_if_no_progress refine keeps_path _ b5 ?_))
    | split)

theorem downSide_keeps {pm : Nat} {org : State} (hm : Within 32 pm) (s : State) (p cause : Nat) (hold0 : Bool) (h : Keeps
    pm org s) : Keeps pm org (downSide s p cause hold0) := by
  have k32 : Within 32 pm := hm.sub rfl
  unfold downSide
  repeat' (first
    | (with_reducible first
        | assumption | intro _ | apply setSide_keeps k32 | apply keeps_ite | apply keeps_ite_fst)
    | split)

theorem beginPort_keeps {pm : Nat} {org : State} (hm : Within 32 pm) (s : State) (p : Nat) (h : Keeps pm org s) : Keeps
    pm org (beginPort s p) := by
  have k0 : Within 0 pm := hm.sub rfl
  have k32 : Within 32 pm := hm.sub rfl
  have b5 := hm.bit (i := 5) rfl
  unfold beginPort
  repeat' (first
    | (with_reducible first
        | assumption | intro _ | apply emit_keeps k0 | apply setSide_keeps k32 | apply keeps_ite | apply keeps_ite_fst
        | (fail_if_no_progress refine keeps_path _ b5 ?_))
    | split)

theorem pcsState_keeps {pm : Nat} {org : State} (hm : Within 4128 pm) (s : State) (p cause : Nat) (h : Keeps pm org s) :
    Keeps pm org (pcsState s p cause) := by
  have k4096 : Within 4096 pm := hm.sub rfl
  have b5 := hm.bit (i := 5) rfl
  unfold pcsState
  repeat' (first
    | (with_reducible first
        | assumption | intro _ | apply wrF_keeps k4096 | apply keeps_ite | apply keeps_ite_fst
        | (fail_if_no_progress refine keeps_path _ b5 ?_))
    | split)

theorem faultCount_keeps {pm : Nat} {org : State} (hm : Within 4160 pm) (s : State) (p cause : Nat) (h : Keeps pm org s)
    : Keeps pm org (faultCount s p cause) := by
  have k4160 : Within 4160 pm := hm.sub rfl
  unfold faultCount
  repeat' (first
    | (with_reducible first
        | assumption | intro _ | apply macAdd_keeps k4160 | apply keeps_ite | apply keeps_ite_fst)
    | split)

theorem truncated_keeps {pm : Nat} {org : State} (hm : Within 4160 pm) (s : State) (p : Nat) (h : Keeps pm org s) : Keeps
    pm org (truncated s p) := by
  have k4160 : Within 4160 pm := hm.sub rfl
  unfold truncated
  repeat' (first
    | (with_reducible first
        | assumption | intro _ | apply rxCount_keeps k4160 | apply keeps_foldl | apply keeps_foldl_fst)
    | split)

theorem linkDown_keeps {pm : Nat} {org : State} (hm : Within 5352 pm) (s : State) (p cause : Nat) (hold0 fdb : Bool) (h :
    Keeps pm org s) : Keeps pm org (linkDown s p cause hold0 fdb) := by
  have k32 : Within 32 pm := hm.sub rfl
  have k128 : Within 128 pm := hm.sub rfl
  have k4096 : Within 4096 pm := hm.sub rfl
  have k4104 : Within 4104 pm := hm.sub rfl
  have k4128 : Within 4128 pm := hm.sub rfl
  have k4160 : Within 4160 pm := hm.sub rfl
  have k5224 : Within 5224 pm := hm.sub rfl
  have b5 := hm.bit (i := 5) rfl
  unfold linkDown
  repeat' (first
    | (with_reducible first
        | assumption | intro _ | apply abortTx_keeps k5224 | apply clearFlowControl_keeps k4128 | apply cutOff_keeps k32
        | apply downSide_keeps k32 | apply faultCount_keeps k4160 | apply flushFdb_keeps k128
        | apply flushPort_keeps k5224 | apply macAdd_keeps k4160 | apply pcsState_keeps k4128 | apply postHw_keeps k4104
        | apply setHdrWait_keeps k32 | apply setLiveness_keeps k4096 | apply truncated_keeps k4160 | apply wrB_keeps k4096
        | apply wrF_keeps k4096 | apply keeps_ite | apply keeps_ite_fst | (fail_if_no_progress refine keeps_path _ b5 ?_))
    | split)

theorem holdExpire_keeps {pm : Nat} {org : State} (hm : Within 5352 pm) (s : State) (p cause : Nat) (h : Keeps pm org s)
    : Keeps pm org (holdExpire s p cause) := by
  have k128 : Within 128 pm := hm.sub rfl
  have k4096 : Within 4096 pm := hm.sub rfl
  have k5224 : Within 5224 pm := hm.sub rfl
  unfold holdExpire
  repeat' (first
    | (with_reducible first
        | assumption | intro _ | apply flushFdb_keeps k128 | apply flushPort_keeps k5224 | apply wrB_keeps k4096
        | apply keeps_ite | apply keeps_ite_fst)
    | split)

theorem takeDown_keeps {pm : Nat} {org : State} (hm : Within 5352 pm) (s : State) (p cause : Nat) (hold0 fdb : Bool) (h :
    Keeps pm org s) : Keeps pm org (takeDown s p cause hold0 fdb) := by
  have k32 : Within 32 pm := hm.sub rfl
  have k128 : Within 128 pm := hm.sub rfl
  have k4128 : Within 4128 pm := hm.sub rfl
  have k5352 : Within 5352 pm := hm.sub rfl
  unfold takeDown
  repeat' (first
    | (with_reducible first
        | assumption | intro _ | apply downSide_keeps k32 | apply flushFdb_keeps k128 | apply holdExpire_keeps k5352
        | apply linkDown_keeps k5352 | apply pcsState_keeps k4128 | apply keeps_ite | apply keeps_ite_fst)
    | split)

theorem settleBegin_keeps {pm : Nat} {org : State} (hm : Within 4128 pm) (s : State) (p : Nat) (h : Keeps pm org s) :
    Keeps pm org (settleBegin s p) := by
  have k4096 : Within 4096 pm := hm.sub rfl
  have b5 := hm.bit (i := 5) rfl
  unfold settleBegin
  repeat' (first
    | (with_reducible first
        | assumption | intro _ | apply wrF_keeps k4096 | apply keeps_ite | apply keeps_ite_fst
        | (fail_if_no_progress refine keeps_path _ b5 ?_))
    | split)

theorem execLinkDown_keeps {pm : Nat} {org : State} (hm : Within 5352 pm) (port : Fin 256) (cause : Fin 3) (s : State) (h
    : Keeps pm org s) : KeepsO pm org (execLinkDown port cause s) := by
  have k0 : Within 0 pm := hm.sub rfl
  have k32 : Within 32 pm := hm.sub rfl
  have k4128 : Within 4128 pm := hm.sub rfl
  have k4160 : Within 4160 pm := hm.sub rfl
  have k5352 : Within 5352 pm := hm.sub rfl
  unfold execLinkDown
  repeat' (first
    | (with_reducible first
        | assumption | intro _ | apply beginPort_keeps k32 | apply downSide_keeps k32 | apply faultCount_keeps k4160
        | apply linkDown_keeps k5352 | apply pcsState_keeps k4128 | apply onlyIf_keeps | apply keeps_ite
        | apply keeps_ite_fst | apply nextOf_keeps | apply irqEdge_keeps k0 | apply keepsO_next)
    | split)

theorem verifySend_keeps {pm : Nat} {org : State} (hm : Within 32 pm) (s : State) (p k : Nat) (h : Keeps pm org s) :
    Keeps pm org (verifySend s p k) := by
  have k0 : Within 0 pm := hm.sub rfl
  have b5 := hm.bit (i := 5) rfl
  unfold verifySend
  repeat' (first
    | (with_reducible first
        | assumption | intro _ | apply emit_keeps k0 | apply keeps_ite | apply keeps_ite_fst
        | (fail_if_no_progress refine keeps_path _ b5 ?_))
    | split)

theorem mmStart_keeps {pm : Nat} {org : State} (hm : Within 4128 pm) (s : State) (p : Nat) (h : Keeps pm org s) : Keeps
    pm org (mmStart s p) := by
  have k32 : Within 32 pm := hm.sub rfl
  have k4096 : Within 4096 pm := hm.sub rfl
  unfold mmStart
  repeat' (first
    | (with_reducible first
        | assumption | intro _ | apply verifySend_keeps k32 | apply wrF_keeps k4096 | apply keeps_ite
        | apply keeps_ite_fst)
    | split)

theorem verifyTick_keeps {pm : Nat} {org : State} (hm : Within 32 pm) (s : State) (h : Keeps pm org s) : Keeps pm org
    (verifyTick s) := by
  have k32 : Within 32 pm := hm.sub rfl
  unfold verifyTick
  repeat' (first
    | (with_reducible first
        | assumption | intro _ | apply verifySend_keeps k32 | apply keeps_ite | apply keeps_ite_fst | apply keeps_foldl
        | apply keeps_foldl_fst)
    | split)

theorem anComplete_keeps {pm : Nat} {org : State} (hm : Within 4128 pm) (s : State) (p : Nat) (h : Keeps pm org s) :
    Keeps pm org (anComplete s p) := by
  have k4096 : Within 4096 pm := hm.sub rfl
  have b5 := hm.bit (i := 5) rfl
  unfold anComplete
  repeat' (first
    | (with_reducible first
        | assumption | intro _ | apply wrB_keeps k4096 | apply keeps_ite | apply keeps_ite_fst
        | (fail_if_no_progress refine keeps_path _ b5 ?_))
    | split)

theorem execLinkUp_keeps {pm : Nat} {org : State} (hm : Within 4200 pm) (port : Fin 256) (s : State) (h : Keeps pm org s)
    : KeepsO pm org (execLinkUp port s) := by
  have k0 : Within 0 pm := hm.sub rfl
  have k32 : Within 32 pm := hm.sub rfl
  have k4096 : Within 4096 pm := hm.sub rfl
  have k4104 : Within 4104 pm := hm.sub rfl
  have k4128 : Within 4128 pm := hm.sub rfl
  have k4192 : Within 4192 pm := hm.sub rfl
  have b5 := hm.bit (i := 5) rfl
  unfold execLinkUp
  repeat' (first
    | (with_reducible first
        | assumption | intro _ | apply anComplete_keeps k4128 | apply macNext_keeps k4192 | apply mmStart_keeps k4128
        | apply postHw_keeps k4104 | apply setLiveness_keeps k4096 | apply setSide_keeps k32
        | apply settleBegin_keeps k4128 | apply wrB_keeps k4096 | apply wrF_keeps k4096 | apply xoffSend_keeps k4192
        | apply onlyIf_keeps | apply keeps_ite | apply keeps_ite_fst | apply keeps_foldl | apply keeps_foldl_fst
        | apply nextOf_keeps | apply irqEdge_keeps k0 | (fail_if_no_progress refine keeps_path _ b5 ?_)
        | apply keepsO_next)
    | split)

theorem execLinkHoldExpire_keeps {pm : Nat} {org : State} (hm : Within 5352 pm) (port : Fin 256) (s : State) (h : Keeps
    pm org s) : KeepsO pm org (execLinkHoldExpire port s) := by
  have k0 : Within 0 pm := hm.sub rfl
  have k5352 : Within 5352 pm := hm.sub rfl
  unfold execLinkHoldExpire
  repeat' (first
    | (with_reducible first
        | assumption | intro _ | apply holdExpire_keeps k5352 | apply onlyIf_keeps | apply nextOf_keeps
        | apply irqEdge_keeps k0 | apply keepsO_next)
    | split)

theorem execAnFail_keeps {pm : Nat} {org : State} (hm : Within 4136 pm) (port : Fin 256) (abilities : Nat) (s : State) (h
    : Keeps pm org s) : KeepsO pm org (execAnFail port abilities s) := by
  have k0 : Within 0 pm := hm.sub rfl
  have k32 : Within 32 pm := hm.sub rfl
  have k4096 : Within 4096 pm := hm.sub rfl
  have k4104 : Within 4104 pm := hm.sub rfl
  unfold execAnFail
  repeat' (first
    | (with_reducible first
        | assumption | intro _ | apply beginPort_keeps k32 | apply postHw_keeps k4104 | apply wrB_keeps k4096
        | apply onlyIf_keeps | apply nextOf_keeps | apply irqEdge_keeps k0 | apply keepsO_next)
    | split)

theorem execMmVerifyFail_keeps {pm : Nat} {org : State} (hm : Within 4104 pm) (port : Fin 256) (s : State) (h : Keeps pm
    org s) : KeepsO pm org (execMmVerifyFail port s) := by
  have k0 : Within 0 pm := hm.sub rfl
  have k4096 : Within 4096 pm := hm.sub rfl
  have k4104 : Within 4104 pm := hm.sub rfl
  unfold execMmVerifyFail
  repeat' (first
    | (with_reducible first
        | assumption | intro _ | apply postHw_keeps k4104 | apply wrB_keeps k4096 | apply wrF_keeps k4096
        | apply onlyIf_keeps | apply nextOf_keeps | apply irqEdge_keeps k0 | apply keepsO_next)
    | split)

theorem execMmVerifyResponse_keeps {pm : Nat} {org : State} (hm : Within 4096 pm) (port : Fin 256) (s : State) (h : Keeps
    pm org s) : KeepsO pm org (execMmVerifyResponse port s) := by
  have k0 : Within 0 pm := hm.sub rfl
  have k4096 : Within 4096 pm := hm.sub rfl
  unfold execMmVerifyResponse
  repeat' (first
    | (with_reducible first
        | assumption | intro _ | apply wrF_keeps k4096 | apply onlyIf_keeps | apply nextOf_keeps | apply irqEdge_keeps k0
        | apply keepsO_next)
    | split)

theorem portCfgWrite_keeps {pm : Nat} {org : State} (hm : Within 5352 pm) (s : State) (p : Nat) (mask value : Word) (h :
    Keeps pm org s) : Keeps pm org (portCfgWrite s p mask value) := by
  have k32 : Within 32 pm := hm.sub rfl
  have k4096 : Within 4096 pm := hm.sub rfl
  have k5352 : Within 5352 pm := hm.sub rfl
  unfold portCfgWrite
  repeat' (first
    | (with_reducible first
        | assumption | intro _ | apply beginPort_keeps k32 | apply takeDown_keeps k5352 | apply wr_keeps k4096
        | apply keeps_ite | apply keeps_ite_fst)
    | split)

end Sys2Proof.Machine
end

