-- ==== Sys2Proof/Laws/KeepsG.lean ====
section
/-! SUPPORT. Keeps, for every operation of Machine/: Forme.lean, GalleyCmds.lean, Counters.lean. -/

set_option linter.unusedTactic false
set_option linter.unreachableTactic false
set_option linter.unusedVariables false

namespace Sys2Proof.Machine

theorem dropDeadCase_keeps {pm : Nat} {org : State} (hm : Within 4 pm) (s : State) (h : Keeps pm org s) : Keeps pm org
    (dropDeadCase s) := by
  have k4 : Within 4 pm := hm.sub rfl
  unfold dropDeadCase
  repeat' (first | (with_reducible first | assumption | intro _ | apply setCase_keeps k4) | split)

theorem setAsa_keeps {pm : Nat} {org : State} (hm : Within 4 pm) (s : State) (l : List AsaEnt) (h : Keeps pm org s) :
    Keeps pm org (setAsa s l) := by
  have b2 := hm.bit (i := 2) rfl
  unfold setAsa
  repeat' (first | (with_reducible first | assumption | (fail_if_no_progress refine keeps_forme _ b2 ?_)) | split)

theorem dropDeadAsa_keeps {pm : Nat} {org : State} (hm : Within 4 pm) (s : State) (h : Keeps pm org s) : Keeps pm org
    (dropDeadAsa s) := by
  have k4 : Within 4 pm := hm.sub rfl
  unfold dropDeadAsa
  repeat' (first | (with_reducible first | assumption | intro _ | apply setAsa_keeps k4) | split)

theorem clearKey_keeps {pm : Nat} {org : State} (hm : Within 4 pm) (s : State) (key : Nat) (parity learned : Bool) (h :
    Keeps pm org s) : Keeps pm org (clearKey s key parity learned) := by
  have k4 : Within 4 pm := hm.sub rfl
  unfold clearKey
  repeat' (first
    | (with_reducible first
        | assumption | intro _ | apply dropDeadCase_keeps k4 | apply setCase_keeps k4 | apply keeps_ite
        | apply keeps_ite_fst)
    | split)

theorem syncKey_keeps {pm : Nat} {org : State} (hm : Within 4236 pm) (s : State) (key : Nat) (parity : Bool) (h : Keeps
    pm org s) : Keeps pm org (syncKey s key parity) := by
  have k4 : Within 4 pm := hm.sub rfl
  have k4232 : Within 4232 pm := hm.sub rfl
  unfold syncKey
  repeat' (first
    | (with_reducible first
        | assumption | intro _ | apply dropDeadCase_keeps k4 | apply learnRecord_keeps k4232 | apply setCase_keeps k4
        | apply keeps_ite | apply keeps_ite_fst | apply keeps_foldl | apply keeps_foldl_fst)
    | split)

theorem asaBit_keeps {pm : Nat} {org : State} (hm : Within 4 pm) (s : State) (t loc : Nat) (parity v : Bool) (h : Keeps
    pm org s) : Keeps pm org (asaBit s t loc parity v) := by
  have k4 : Within 4 pm := hm.sub rfl
  unfold asaBit
  repeat' (first
    | (with_reducible first
        | assumption | intro _ | apply dropDeadAsa_keeps k4 | apply setAsa_keeps k4 | apply keeps_ite
        | apply keeps_ite_fst)
    | split)

theorem imposeEntry_keeps {pm : Nat} {org : State} (hm : Within 132 pm) (s : State) (w : GWrite) (h : Keeps pm org s) :
    Keeps pm org (imposeEntry s w) := by
  have k4 : Within 4 pm := hm.sub rfl
  have k132 : Within 132 pm := hm.sub rfl
  have b2 := hm.bit (i := 2) rfl
  unfold imposeEntry
  repeat' (first
    | (with_reducible first
        | assumption | intro _ | apply caseInsert_keeps k132 | apply clearKey_keeps k4 | apply keeps_ite
        | apply keeps_ite_fst | (fail_if_no_progress refine keeps_forme _ b2 ?_))
    | split)

theorem slotPerf_keeps {pm : Nat} {org : State} (hm : Within 4096 pm) (s : State) (banks : List Nat) (h : Keeps pm org s)
    : Keeps pm org (slotPerf s banks) := by
  have k4096 : Within 4096 pm := hm.sub rfl
  unfold slotPerf
  repeat' (first
    | (with_reducible first
        | assumption | intro _ | apply perf_keeps k4096 | apply keeps_ite | apply keeps_ite_fst | apply keeps_foldl
        | apply keeps_foldl_fst)
    | split)

theorem useGate_keeps {pm : Nat} {org : State} (hm : Within 4 pm) (s : State) (banks : List Nat) (h : Keeps pm org s) :
    Keeps pm org (useGate s banks) := by
  have b2 := hm.bit (i := 2) rfl
  unfold useGate
  repeat' (first
    | (with_reducible first
        | assumption | intro _ | (fail_if_no_progress refine keeps_forme _ b2 ?_))
    | split)

theorem setTodo_keeps {pm : Nat} {org : State} (hm : Within 4 pm) (s : State) (l : List FormeWrite) (h : Keeps pm org s)
    : Keeps pm org (setTodo s l) := by
  have b2 := hm.bit (i := 2) rfl
  unfold setTodo
  repeat' (first | (with_reducible first | assumption | (fail_if_no_progress refine keeps_forme _ b2 ?_)) | split)

theorem asaImpose_keeps {pm : Nat} {org : State} (hm : Within 20620 pm) (s : State) (w : GWrite) (h : Keeps pm org s) :
    Keeps pm org (asaImpose s w).2.1 := by
  have k4 : Within 4 pm := hm.sub rfl
  have k4096 : Within 4096 pm := hm.sub rfl
  have b2 := hm.bit (i := 2) rfl
  unfold asaImpose
  dsimp only
  split
  · exact asaBit_keeps k4 _ _ _ _ _ (slotPerf_keeps k4096 _ _ h)
  · split
    · exact h
    · split
      · exact writeCells_keeps k4 _ _ _ (setAsa_keeps k4 _ _ (slotPerf_keeps k4096 _ _ h))
      · exact keeps_forme _ b2 h

theorem asaSync_keeps {pm : Nat} {org : State} (hm : Within 20620 pm) (s : State) (t key : Nat) (par : Bool)
    (h : Keeps pm org s) : Keeps pm org (asaSync s t key par).2.1 := by
  have k4 : Within 4 pm := hm.sub rfl
  have k4096 : Within 4096 pm := hm.sub rfl
  unfold asaSync
  dsimp only
  repeat' (first
    | (with_reducible first
        | assumption | apply asaBit_keeps k4 | apply slotPerf_keeps k4096)
    | split)

theorem formeNext_keeps {pm : Nat} {org : State} (hm : Within 20620 pm) (s : State) (w : FormeWrite) (h : Keeps pm org s) :
    Keeps pm org (formeNext s w).2.1 := by
  have k132 : Within 132 pm := hm.sub rfl
  have k4236 : Within 4236 pm := hm.sub rfl
  have k16384 : Within 16384 pm := hm.sub rfl
  cases w <;> dsimp only [formeNext]
  repeat' (first
    | (with_reducible first
        | assumption | apply asaImpose_keeps hm | apply asaSync_keeps hm | apply setRow_keeps k16384
        | apply imposeEntry_keeps k132 | apply syncKey_keeps k4236)
    | split)

theorem formeTake_keeps {pm : Nat} {org : State} (hm : Within 20620 pm) (s t : State) (w : FormeWrite) (b : Bool)
    (h : Keeps pm org s) (e : formeTake s w = some (t, b)) : Keeps pm org t := by
  have k4 : Within 4 pm := hm.sub rfl
  unfold formeTake at e
  dsimp only at e
  split at e
  · cases e; exact useGate_keeps k4 _ _ (formeNext_keeps hm s w h)
  · cases e

theorem formeWrite_keeps {pm : Nat} {org : State} (hm : Within 20620 pm) (n : Nat) (s : State) (w : FormeWrite)
    (h : Keeps pm org s) : Keeps pm org (formeWrite n s w) := by
  induction n generalizing s with
  | zero => exact h
  | succ n ih =>
    unfold formeWrite
    dsimp only
    split
    · exact ih _ (formeNext_keeps hm s w h)
    · exact formeNext_keeps hm s w h

theorem takeTodo_keeps {pm : Nat} {org : State} (hm : Within 20620 pm) (l : List FormeWrite) (s : State) (h : Keeps pm org s) :
    Keeps pm org (takeTodo l s) := by
  have k4 : Within 4 pm := hm.sub rfl
  induction l generalizing s with
  | nil => exact setTodo_keeps k4 _ _ h
  | cons w l ih =>
    unfold takeTodo
    split
    · exact setTodo_keeps k4 _ _ h
    · next e => exact setTodo_keeps k4 _ _ (formeTake_keeps hm s _ w _ h e)
    · next e => exact ih _ (formeTake_keeps hm s _ w _ h e)

theorem runTodo_keeps {pm : Nat} {org : State} (hm : Within 20620 pm) (s : State) (h : Keeps pm org s) : Keeps pm org
    (runTodo s) := by
  exact takeTodo_keeps (hm.sub rfl) _ _ h

theorem makeAll_keeps {pm : Nat} {org : State} (hm : Within 20620 pm) (s : State) (l : List FormeWrite) (h : Keeps pm org
    s) : Keeps pm org (makeAll s l) := by
  have k4 : Within 4 pm := hm.sub rfl
  have kf : Within 20620 pm := hm.sub rfl
  unfold makeAll
  exact keeps_foldl _ _ (fun _ _ h => formeWrite_keeps kf _ _ _ h) (setTodo_keeps k4 _ _ h)

theorem withdraw_keeps {pm : Nat} {org : State} (hm : Within 20620 pm) (s : State) (h : Keeps pm org s) : Keeps pm org
    (withdraw s) := by
  have k20620 : Within 20620 pm := hm.sub rfl
  have b2 := hm.bit (i := 2) rfl
  unfold withdraw
  repeat' (first
    | (with_reducible first
        | assumption | intro _ | apply makeAll_keeps k20620 | apply keeps_ite | apply keeps_ite_fst
        | (fail_if_no_progress refine keeps_forme _ b2 ?_))
    | split)

theorem endBankTests_keeps {pm : Nat} {org : State} (hm : Within 4680 pm) (s : State) (h : Keeps pm org s) : Keeps pm org
    (endBankTests s) := by
  have k4680 : Within 4680 pm := hm.sub rfl
  unfold endBankTests
  repeat' (first
    | (with_reducible first
        | assumption | intro _ | apply maintEnd_keeps k4680 | apply keeps_ite | apply keeps_ite_fst | apply keeps_foldl
        | apply keeps_foldl_fst)
    | split)

theorem execImpositionStart_keeps {pm : Nat} {org : State} (hm : Within 4684 pm) (s : State) (h : Keeps pm org s) :
    KeepsO pm org (execImpositionStart s) := by
  have k0 : Within 0 pm := hm.sub rfl
  have k4 : Within 4 pm := hm.sub rfl
  have k4096 : Within 4096 pm := hm.sub rfl
  have k4680 : Within 4680 pm := hm.sub rfl
  have b2 := hm.bit (i := 2) rfl
  unfold execImpositionStart
  dsimp only
  repeat' (first
    | (with_reducible first
        | assumption | intro _ | apply endBankTests_keeps k4680 | apply setPhase_keeps k4096 | apply setTodo_keeps k4
        | apply onlyIf_keeps | apply nextOf_keeps | apply irqEdge_keeps k0
        | (fail_if_no_progress refine keeps_forme _ b2 ?_) | apply keepsO_next)
    | split | dsimp only)

theorem finishLock_keeps {pm : Nat} {org : State} (hm : Within 4110 pm) (s : State) (l : PendLock) (st : Status) (result
    : Nat) (h : Keeps pm org s) : Keeps pm org (finishLock s l st result) := by
  have k4106 : Within 4106 pm := hm.sub rfl
  have b2 := hm.bit (i := 2) rfl
  unfold finishLock
  repeat' (first
    | (with_reducible first
        | assumption | intro _ | apply completeIns_keeps k4106 | apply completeTimed_keeps k4106 | apply keeps_ite
        | apply keeps_ite_fst | (fail_if_no_progress refine keeps_forme _ b2 ?_))
    | split)

theorem postFull_keeps {pm : Nat} {org : State} (hm : Within 4104 pm) (s : State) (f : Status × Nat × Nat × Nat) (h :
    Keeps pm org s) : Keeps pm org (postFull s f) := by
  have k4104 : Within 4104 pm := hm.sub rfl
  unfold postFull
  repeat' (first
    | (with_reducible first
        | assumption | intro _ | apply postHw_keeps k4104 | apply keeps_ite | apply keeps_ite_fst)
    | split)

theorem galleyReopen_keeps {pm : Nat} {org : State} (hm : Within 20620 pm) (s : State) (h : Keeps pm org s) : Keeps pm
    org (galleyReopen s) := by
  have k4096 : Within 4096 pm := hm.sub rfl
  have k20620 : Within 20620 pm := hm.sub rfl
  have b2 := hm.bit (i := 2) rfl
  unfold galleyReopen
  repeat' (first
    | (with_reducible first
        | assumption | apply setGalleyState_keeps k4096 | apply setPhase_keeps k4096 | apply withdraw_keeps k20620
        | (fail_if_no_progress refine keeps_forme _ b2 ?_))
    | split)

theorem execImpositionFail_keeps {pm : Nat} {org : State} (hm : Within 20622 pm) (s : State) (h : Keeps pm org s) :
    KeepsO pm org (execImpositionFail s) := by
  have k0 : Within 0 pm := hm.sub rfl
  have k4104 : Within 4104 pm := hm.sub rfl
  have k4110 : Within 4110 pm := hm.sub rfl
  have k20620 : Within 20620 pm := hm.sub rfl
  unfold execImpositionFail
  dsimp only
  repeat' (first
    | (with_reducible first
        | assumption | intro _ | apply finishLock_keeps k4110 | apply galleyReopen_keeps k20620
        | apply postFull_keeps k4104 | apply runTodo_keeps k20620 | apply keeps_ite | apply keeps_ite_fst
        | apply nextOf_keeps | apply irqEdge_keeps k0 | apply keepsO_next)
    | split | dsimp only)

theorem lockMissed_keeps {pm : Nat} {org : State} (hm : Within 20622 pm) (s : State) (l : PendLock) (h : Keeps pm org s)
    : Keeps pm org (lockMissed s l) := by
  have k4104 : Within 4104 pm := hm.sub rfl
  have k4110 : Within 4110 pm := hm.sub rfl
  have k20620 : Within 20620 pm := hm.sub rfl
  unfold lockMissed
  repeat' (first
    | (with_reducible first
        | assumption | apply finishLock_keeps k4110 | apply galleyReopen_keeps k20620 | apply postHw_keeps k4104)
    | split)

theorem imposed_keeps {pm : Nat} {org : State} (hm : Within 20622 pm) (s : State) (h : Keeps pm org s) : Keeps pm org
    (imposed s) := by
  have k4096 : Within 4096 pm := hm.sub rfl
  have k20620 : Within 20620 pm := hm.sub rfl
  have k20622 : Within 20622 pm := hm.sub rfl
  have b2 := hm.bit (i := 2) rfl
  unfold imposed
  dsimp only
  repeat' (first
    | (with_reducible first
        | assumption | intro _ | apply lockMissed_keeps k20622 | apply runTodo_keeps k20620 | apply setPhase_keeps k4096
        | apply keeps_ite | apply keeps_ite_fst | (fail_if_no_progress refine keeps_forme _ b2 ?_))
    | split | dsimp only)

theorem execImpositionComplete_keeps {pm : Nat} {org : State} (hm : Within 20622 pm) (s : State) (h : Keeps pm org s) :
    KeepsO pm org (execImpositionComplete s) := by
  have k0 : Within 0 pm := hm.sub rfl
  have k20622 : Within 20622 pm := hm.sub rfl
  unfold execImpositionComplete
  repeat' (first
    | (with_reducible first
        | assumption | intro _ | apply imposed_keeps k20622 | apply onlyIf_keeps | apply nextOf_keeps
        | apply irqEdge_keeps k0 | apply keepsO_next)
    | split)

theorem journalLock_keeps {pm : Nat} {org : State} (hm : Within 8 pm) (s : State) (gen : Nat) (l : PendLock) (log : List
    GWrite) (h : Keeps pm org s) : Keeps pm org (journalLock s gen l log) := by
  have k8 : Within 8 pm := hm.sub rfl
  unfold journalLock
  repeat' (first
    | (with_reducible first
        | assumption | intro _ | apply journal_keeps k8 | apply journalPart_keeps k8 | apply keeps_foldl
        | apply keeps_foldl_fst)
    | split)

theorem lockBuckets_keeps {pm : Nat} {org : State} (hm : Within 64 pm) (s : State) (k : Nat → Nat) (old new : Nat) (zero
    : Bool) (h : Keeps pm org s) : Keeps pm org (lockBuckets s k old new zero) := by
  have k64 : Within 64 pm := hm.sub rfl
  unfold lockBuckets
  repeat' (first
    | (with_reducible first
        | assumption | intro _ | apply fixBucket_keeps k64 | apply setBucket_keeps k64 | apply keeps_ite
        | apply keeps_ite_fst | apply keeps_foldl | apply keeps_foldl_fst)
    | split)

theorem lockSnare_keeps {pm : Nat} {org : State} (hm : Within 64 pm) (s : State) (r old new : Nat) (h : Keeps pm org s) :
    Keeps pm org (lockSnare s r old new) := by
  have k64 : Within 64 pm := hm.sub rfl
  unfold lockSnare
  repeat' (first
    | (with_reducible first
        | assumption | intro _ | apply fixBucket_keeps k64 | apply setBucket_keeps k64 | apply keeps_ite
        | apply keeps_ite_fst)
    | split)

theorem lockBucketRow_keeps {pm : Nat} {org : State} (hm : Within 64 pm) (s : State) (w : GWrite) (h : Keeps pm org s) :
    Keeps pm org (lockBucketRow s w) := by
  have k64 : Within 64 pm := hm.sub rfl
  unfold lockBucketRow
  repeat' (first
    | (with_reducible first
        | assumption | intro _ | apply lockBuckets_keeps k64 | apply lockSnare_keeps k64 | apply keeps_ite
        | apply keeps_ite_fst)
    | split)

theorem clearStats_keeps {pm : Nat} {org : State} (hm : Within 4096 pm) (s : State) (p : Nat) (h : Keeps pm org s) :
    Keeps pm org (clearStats s p) := by
  have k4096 : Within 4096 pm := hm.sub rfl
  unfold clearStats
  repeat' (first
    | (with_reducible first
        | assumption | intro _ | apply wr_keeps k4096 | apply keeps_foldl | apply keeps_foldl_fst)
    | split)

theorem lockPortsDown_keeps {pm : Nat} {org : State} (hm : Within 5352 pm) (s : State) (w : GWrite) (h : Keeps pm org s)
    : Keeps pm org (lockPortsDown s w) := by
  have k5352 : Within 5352 pm := hm.sub rfl
  unfold lockPortsDown
  repeat' (first
    | (with_reducible first
        | assumption | intro _ | apply takeDown_keeps k5352 | apply keeps_ite | apply keeps_ite_fst | apply keeps_foldl
        | apply keeps_foldl_fst)
    | split)

theorem lockPortsAfter_keeps {pm : Nat} {org : State} (hm : Within 4712 pm) (s : State) (w : GWrite) (old : Nat) (h :
    Keeps pm org s) : Keeps pm org (lockPortsAfter s w old) := by
  have k32 : Within 32 pm := hm.sub rfl
  have k4096 : Within 4096 pm := hm.sub rfl
  have k4104 : Within 4104 pm := hm.sub rfl
  have k4128 : Within 4128 pm := hm.sub rfl
  have k4680 : Within 4680 pm := hm.sub rfl
  have b5 := hm.bit (i := 5) rfl
  unfold lockPortsAfter
  repeat' (first
    | (with_reducible first
        | assumption | intro _ | apply beginPort_keeps k32 | apply clearStats_keeps k4096 | apply maintEnd_keeps k4680
        | apply mmStart_keeps k4128 | apply postHw_keeps k4104 | apply wrF_keeps k4096 | apply keeps_ite
        | apply keeps_ite_fst | apply keeps_foldl | apply keeps_foldl_fst
        | (fail_if_no_progress refine keeps_path _ b5 ?_))
    | split)

theorem lockGates_keeps {pm : Nat} {org : State} (hm : Within 4168 pm) (s : State) (log : List GWrite) (h : Keeps pm org
    s) : Keeps pm org (lockGates s log) := by
  have k4168 : Within 4168 pm := hm.sub rfl
  unfold lockGates
  repeat' (first
    | (with_reducible first
        | assumption | intro _ | apply gateLockup_keeps k4168 | apply keeps_foldl | apply keeps_foldl_fst)
    | split)

theorem lockSched_keeps {pm : Nat} {org : State} (hm : Within 64 pm) (s : State) (w : GWrite) (old : Nat) (h : Keeps pm
    org s) : Keeps pm org (lockSched s w old) := by
  have k64 : Within 64 pm := hm.sub rfl
  unfold lockSched
  repeat' (first
    | (with_reducible first
        | assumption | intro _ | apply vSet_keeps k64 | apply keeps_ite | apply keeps_ite_fst | apply keeps_foldl
        | apply keeps_foldl_fst)
    | split)

theorem relinkAdd_keeps {pm : Nat} {org : State} (hm : Within 37992 pm) (s : State) (f : Frame) (u p : Nat) (h : Keeps pm
    org s) : Keeps pm org (relinkAdd s f u p) := by
  have k4136 : Within 4136 pm := hm.sub rfl
  have k37992 : Within 37992 pm := hm.sub rfl
  unfold relinkAdd
  repeat' (first
    | (with_reducible first
        | assumption | intro _ | apply offerCopy_keeps k37992 | apply replicate_keeps k4136 | apply keeps_ite
        | apply keeps_ite_fst)
    | split)

theorem relinkTile_keeps {pm : Nat} {org : State} (hm : Within 37992 pm) (s : State) (f : Frame) (u : Nat) (h : Keeps pm
    org s) : Keeps pm org (relinkTile s f u) := by
  have k5224 : Within 5224 pm := hm.sub rfl
  have k37992 : Within 37992 pm := hm.sub rfl
  unfold relinkTile
  repeat' (first
    | (with_reducible first
        | assumption | intro _ | apply dropCopy_keeps k5224 | apply relinkAdd_keeps k37992 | apply keeps_foldl
        | apply keeps_foldl_fst)
    | split)

theorem relinkMulticast_keeps {pm : Nat} {org : State} (hm : Within 37992 pm) (s : State) (h : Keeps pm org s) : Keeps pm
    org (relinkMulticast s) := by
  have k37992 : Within 37992 pm := hm.sub rfl
  unfold relinkMulticast
  repeat' (first
    | (with_reducible first
        | assumption | intro _ | apply relinkTile_keeps k37992 | apply keeps_foldl | apply keeps_foldl_fst)
    | split)

theorem lockupNow_keeps {pm : Nat} {org : State} (hm : Within 38638 pm) (s : State) (l : PendLock) (late : Bool) (h :
    Keeps pm org s) : Keeps pm org (lockupNow s l late) := by
  have k8 : Within 8 pm := hm.sub rfl
  have k64 : Within 64 pm := hm.sub rfl
  have k4096 : Within 4096 pm := hm.sub rfl
  have k4100 : Within 4100 pm := hm.sub rfl
  have k4104 : Within 4104 pm := hm.sub rfl
  have k4110 : Within 4110 pm := hm.sub rfl
  have k4168 : Within 4168 pm := hm.sub rfl
  have k4712 : Within 4712 pm := hm.sub rfl
  have k5352 : Within 5352 pm := hm.sub rfl
  have k37992 : Within 37992 pm := hm.sub rfl
  have b2 := hm.bit (i := 2) rfl
  unfold lockupNow
  repeat' (first
    | (with_reducible first
        | assumption | intro _ | apply finishLock_keeps k4110 | apply forceEvents_keeps k4104
        | apply galleyNone_keeps k4100 | apply journalLock_keeps k8 | apply lockBucketRow_keeps k64
        | apply lockGates_keeps k4168 | apply lockPortsAfter_keeps k4712 | apply lockPortsDown_keeps k5352
        | apply lockSched_keeps k64 | apply postHw_keeps k4104 | apply relinkMulticast_keeps k37992
        | apply retagAll_keeps k64 | apply setPhase_keeps k4096 | apply setPrev_keeps k4096 | apply wr_keeps k4096
        | apply wrB_keeps k4096 | apply keeps_ite | apply keeps_ite_fst | apply keeps_foldl | apply keeps_foldl_fst
        | (fail_if_no_progress refine keeps_forme _ b2 ?_))
    | split)

theorem abandonSave_keeps {pm : Nat} {org : State} (hm : Within 6152 pm) (s : State) (cause : Nat) (h : Keeps pm org s) :
    Keeps pm org (abandonSave s cause) := by
  have k4096 : Within 4096 pm := hm.sub rfl
  have k4104 : Within 4104 pm := hm.sub rfl
  have b11 := hm.bit (i := 11) rfl
  unfold abandonSave
  repeat' (first
    | (with_reducible first
        | assumption | intro _ | apply postHw_keeps k4104 | apply wrB_keeps k4096
        | (fail_if_no_progress refine keeps_pwr _ b11 ?_))
    | split)

theorem execLockup_keeps {pm : Nat} {org : State} (hm : Within 57070 pm) (s : State) (h : Keeps pm org s) : KeepsO pm org
    (execLockup s) := by
  have k0 : Within 0 pm := hm.sub rfl
  have k6152 : Within 6152 pm := hm.sub rfl
  have k20622 : Within 20622 pm := hm.sub rfl
  have k38638 : Within 38638 pm := hm.sub rfl
  unfold execLockup
  dsimp only
  repeat' (first
    | (with_reducible first
        | assumption | intro _ | apply abandonSave_keeps k6152 | apply imposed_keeps k20622 | apply lockupNow_keeps k38638
        | apply onlyIf_keeps | apply keeps_ite | apply keeps_ite_fst | apply nextOf_keeps | apply irqEdge_keeps k0
        | apply keepsO_next)
    | split | dsimp only)

theorem lockatNow_keeps {pm : Nat} {org : State} (hm : Within 40686 pm) (s : State) (h : Keeps pm org s) : Keeps pm org
    (lockatNow s) := by
  have k6152 : Within 6152 pm := hm.sub rfl
  have k38638 : Within 38638 pm := hm.sub rfl
  unfold lockatNow
  repeat' (first
    | (with_reducible first
        | assumption | intro _ | apply abandonSave_keeps k6152 | apply lockupNow_keeps k38638 | apply onlyIf_keeps)
    | split)

theorem execLockatTime_keeps {pm : Nat} {org : State} (hm : Within 40686 pm) (s : State) (h : Keeps pm org s) : KeepsO pm
    org (execLockatTime s) := by
  have k0 : Within 0 pm := hm.sub rfl
  have k40686 : Within 40686 pm := hm.sub rfl
  unfold execLockatTime
  repeat' (first
    | (with_reducible first
        | assumption | apply lockatNow_keeps k40686 | apply nextOf_keeps | apply irqEdge_keeps k0 | apply keepsO_next)
    | split)

theorem lockMissedNow_keeps {pm : Nat} {org : State} (hm : Within 20622 pm) (s : State) (h : Keeps pm org s) : Keeps pm
    org (lockMissedNow s) := by
  have k20622 : Within 20622 pm := hm.sub rfl
  unfold lockMissedNow
  repeat' (first
    | (with_reducible first
        | assumption | intro _ | apply lockMissed_keeps k20622 | apply onlyIf_keeps)
    | split)

theorem execLockMissed_keeps {pm : Nat} {org : State} (hm : Within 20622 pm) (s : State) (h : Keeps pm org s) : KeepsO pm
    org (execLockMissed s) := by
  have k0 : Within 0 pm := hm.sub rfl
  have k20622 : Within 20622 pm := hm.sub rfl
  unfold execLockMissed
  repeat' (first
    | (with_reducible first
        | assumption | apply lockMissedNow_keeps k20622 | apply nextOf_keeps | apply irqEdge_keeps k0 | apply keepsO_next)
    | split)

theorem execDrainEnd_keeps {pm : Nat} {org : State} (hm : Within 4100 pm) (s : State) (h : Keeps pm org s) : KeepsO pm
    org (execDrainEnd s) := by
  have k0 : Within 0 pm := hm.sub rfl
  have k4 : Within 4 pm := hm.sub rfl
  have k4096 : Within 4096 pm := hm.sub rfl
  have b2 := hm.bit (i := 2) rfl
  unfold execDrainEnd
  repeat' (first
    | (with_reducible first
        | assumption | intro _ | apply setPrev_keeps k4096 | apply setTodo_keeps k4 | apply onlyIf_keeps
        | apply nextOf_keeps | apply irqEdge_keeps k0 | (fail_if_no_progress refine keeps_forme _ b2 ?_)
        | apply keepsO_next)
    | split)

theorem execCatchUpEnd_keeps {pm : Nat} {org : State} (hm : Within 20620 pm) (s : State) (h : Keeps pm org s) : KeepsO pm
    org (execCatchUpEnd s) := by
  have k0 : Within 0 pm := hm.sub rfl
  have k4096 : Within 4096 pm := hm.sub rfl
  have k4104 : Within 4104 pm := hm.sub rfl
  have k20620 : Within 20620 pm := hm.sub rfl
  have b2 := hm.bit (i := 2) rfl
  unfold execCatchUpEnd
  repeat' (first
    | (with_reducible first
        | assumption | intro _ | apply postHw_keeps k4104 | apply runTodo_keeps k20620 | apply setPrev_keeps k4096
        | apply onlyIf_keeps | apply nextOf_keeps | apply irqEdge_keeps k0
        | (fail_if_no_progress refine keeps_forme _ b2 ?_) | apply keepsO_next)
    | split)

theorem execGalleyTimeout_keeps {pm : Nat} {org : State} (hm : Within 4108 pm) (s : State) (h : Keeps pm org s) : KeepsO
    pm org (execGalleyTimeout s) := by
  have k0 : Within 0 pm := hm.sub rfl
  have k4100 : Within 4100 pm := hm.sub rfl
  have k4104 : Within 4104 pm := hm.sub rfl
  unfold execGalleyTimeout
  repeat' (first
    | (with_reducible first
        | assumption | intro _ | apply galleyNone_keeps k4100 | apply postHw_keeps k4104 | apply onlyIf_keeps
        | apply nextOf_keeps | apply irqEdge_keeps k0 | apply keepsO_next)
    | split)

theorem execGopen_keeps {pm : Nat} {org : State} (hm : Within 4110 pm) (ring : Fin 64) (ins : Ins) (s : State) (h : Keeps
    pm org s) : KeepsO pm org (execGopen ring ins s) := by
  have k0 : Within 0 pm := hm.sub rfl
  have k4 : Within 4 pm := hm.sub rfl
  have k4096 : Within 4096 pm := hm.sub rfl
  have k4100 : Within 4100 pm := hm.sub rfl
  have k4106 : Within 4106 pm := hm.sub rfl
  have b2 := hm.bit (i := 2) rfl
  unfold execGopen
  repeat' (first
    | (with_reducible first
        | assumption | intro _ | apply guardIns_keeps k0 | apply runIns_keeps k4106 | apply setGalleyState_keeps k4096
        | apply setLog_keeps k4100 | apply touchGalley_keeps k4 | apply wrB_keeps k4096 | apply wrF_keeps k4096
        | apply nextOf_keeps | apply irqEdge_keeps k0 | (fail_if_no_progress refine keeps_forme _ b2 ?_)
        | apply keepsO_next)
    | split)

theorem guardRows_keeps {pm : Nat} {org : State} (hm : Within 0 pm) (s : State) (ins : Ins) (checks : List (Bool ×
    Status)) (act : State → State × Verdict) (hact : ∀ y0, Keeps pm org y0 → Keeps pm org (act y0).1) (h : Keeps pm org
    s) : Keeps pm org (guardRows s ins checks act).1 := by
  unfold guardRows
  repeat' (first | (with_reducible first | assumption | intro _ | apply hact) | split)

theorem execTw_keeps {pm : Nat} {org : State} (hm : Within 4110 pm) (ring : Fin 64) (ins : Ins) (block : Block) (s :
    State) (h : Keeps pm org s) : KeepsO pm org (execTw ring ins block s) := by
  have k0 : Within 0 pm := hm.sub rfl
  have k4 : Within 4 pm := hm.sub rfl
  have k4100 : Within 4100 pm := hm.sub rfl
  have k4104 : Within 4104 pm := hm.sub rfl
  have k4106 : Within 4106 pm := hm.sub rfl
  unfold execTw
  repeat' (first
    | (with_reducible first
        | assumption | intro _ | apply guardRows_keeps k0 | apply operandFault_keeps k4104 | apply placed_keeps k4100
        | apply runIns_keeps k4106 | apply touchGalley_keeps k4 | apply keeps_ite | apply keeps_ite_fst
        | apply nextOf_keeps | apply irqEdge_keeps k0 | apply keepsO_next)
    | split)

theorem execTd_keeps {pm : Nat} {org : State} (hm : Within 4110 pm) (ring : Fin 64) (ins : Ins) (block : Block) (s :
    State) (h : Keeps pm org s) : KeepsO pm org (execTd ring ins block s) := by
  have k0 : Within 0 pm := hm.sub rfl
  have k4 : Within 4 pm := hm.sub rfl
  have k4100 : Within 4100 pm := hm.sub rfl
  have k4104 : Within 4104 pm := hm.sub rfl
  have k4106 : Within 4106 pm := hm.sub rfl
  unfold execTd
  repeat' (first
    | (with_reducible first
        | assumption | intro _ | apply guardRows_keeps k0 | apply operandFault_keeps k4104 | apply placed_keeps k4100
        | apply runIns_keeps k4106 | apply touchGalley_keeps k4 | apply keeps_ite | apply keeps_ite_fst
        | apply keeps_foldl | apply keeps_foldl_fst | apply nextOf_keeps | apply irqEdge_keeps k0 | apply keepsO_next)
    | split)

theorem execTm_keeps {pm : Nat} {org : State} (hm : Within 4110 pm) (ring : Fin 64) (ins : Ins) (block : Block) (s :
    State) (h : Keeps pm org s) : KeepsO pm org (execTm ring ins block s) := by
  have k0 : Within 0 pm := hm.sub rfl
  have k4 : Within 4 pm := hm.sub rfl
  have k4100 : Within 4100 pm := hm.sub rfl
  have k4104 : Within 4104 pm := hm.sub rfl
  have k4106 : Within 4106 pm := hm.sub rfl
  unfold execTm
  repeat' (first
    | (with_reducible first
        | assumption | intro _ | apply guardRows_keeps k0 | apply operandFault_keeps k4104 | apply placed_keeps k4100
        | apply runIns_keeps k4106 | apply touchGalley_keeps k4 | apply keeps_ite | apply keeps_ite_fst
        | apply nextOf_keeps | apply irqEdge_keeps k0 | apply keepsO_next)
    | split)

theorem acceptLock_keeps {pm : Nat} {org : State} (hm : Within 4100 pm) (s : State) (l : PendLock) (h : Keeps pm org s) :
    Keeps pm org (acceptLock s l) := by
  have k4096 : Within 4096 pm := hm.sub rfl
  have b2 := hm.bit (i := 2) rfl
  unfold acceptLock
  repeat' (first
    | (with_reducible first
        | assumption | apply setGalleyState_keeps k4096 | apply setPhase_keeps k4096
        | (fail_if_no_progress refine keeps_forme _ b2 ?_))
    | split)

theorem execLock_keeps {pm : Nat} {org : State} (hm : Within 4110 pm) (ring : Fin 64) (ins : Ins) (s : State) (h : Keeps
    pm org s) : KeepsO pm org (execLock ring ins s) := by
  have k0 : Within 0 pm := hm.sub rfl
  have k4 : Within 4 pm := hm.sub rfl
  have k4100 : Within 4100 pm := hm.sub rfl
  have k4106 : Within 4106 pm := hm.sub rfl
  unfold execLock
  repeat' (first
    | (with_reducible first
        | assumption | intro _ | apply acceptLock_keeps k4100 | apply guardIns_keeps k0 | apply runIns_keeps k4106
        | apply touchGalley_keeps k4 | apply nextOf_keeps | apply irqEdge_keeps k0 | apply keepsO_next)
    | split)

theorem execLockat_keeps {pm : Nat} {org : State} (hm : Within 4110 pm) (ring : Fin 64) (ins : Ins) (block : Block) (s :
    State) (h : Keeps pm org s) : KeepsO pm org (execLockat ring ins block s) := by
  have k0 : Within 0 pm := hm.sub rfl
  have k4100 : Within 4100 pm := hm.sub rfl
  have k4104 : Within 4104 pm := hm.sub rfl
  have k4106 : Within 4106 pm := hm.sub rfl
  unfold execLockat
  repeat' (first
    | (with_reducible first
        | assumption | intro _ | apply acceptLock_keeps k4100 | apply guardIns_keeps k0 | apply operandFault_keeps k4104
        | apply runIns_keeps k4106 | apply nextOf_keeps | apply irqEdge_keeps k0 | apply keepsO_next)
    | split)

theorem cancelLock_keeps {pm : Nat} {org : State} (hm : Within 4110 pm) (s : State) (h : Keeps pm org s) : Keeps pm org
    (cancelLock s) := by
  have k4110 : Within 4110 pm := hm.sub rfl
  unfold cancelLock
  repeat' (first | (with_reducible first | assumption | intro _ | apply finishLock_keeps k4110) | split)

theorem execGdrop_keeps {pm : Nat} {org : State} (hm : Within 20622 pm) (ring : Fin 64) (ins : Ins) (s : State) (h :
    Keeps pm org s) : KeepsO pm org (execGdrop ring ins s) := by
  have k0 : Within 0 pm := hm.sub rfl
  have k4 : Within 4 pm := hm.sub rfl
  have k4096 : Within 4096 pm := hm.sub rfl
  have k4100 : Within 4100 pm := hm.sub rfl
  have k4106 : Within 4106 pm := hm.sub rfl
  have k4110 : Within 4110 pm := hm.sub rfl
  have k20620 : Within 20620 pm := hm.sub rfl
  unfold execGdrop
  repeat' (first
    | (with_reducible first
        | assumption | intro _ | apply cancelLock_keeps k4110 | apply galleyNone_keeps k4100 | apply guardIns_keeps k0
        | apply runIns_keeps k4106 | apply setPhase_keeps k4096 | apply touchGalley_keeps k4 | apply withdraw_keeps k20620
        | apply keeps_ite | apply keeps_ite_fst | apply nextOf_keeps | apply irqEdge_keeps k0 | apply keepsO_next)
    | split)

theorem execTrd_keeps {pm : Nat} {org : State} (hm : Within 4106 pm) (ring : Fin 64) (ins : Ins) (destOk : Bool) (keys :
    List (List Byte)) (s : State) (h : Keeps pm org s) : KeepsO pm org (execTrd ring ins destOk keys s) := by
  have k0 : Within 0 pm := hm.sub rfl
  have k4104 : Within 4104 pm := hm.sub rfl
  have k4106 : Within 4106 pm := hm.sub rfl
  unfold execTrd
  repeat' (first
    | (with_reducible first
        | assumption | intro _ | apply guardIns_keeps k0 | apply operandFault_keeps k4104 | apply ownerWrite_keeps k0
        | apply runIns_keeps k4106 | apply keeps_ite | apply keeps_ite_fst | apply nextOf_keeps | apply irqEdge_keeps k0
        | apply keepsO_next)
    | split)

theorem setValue_keeps {pm : Nat} {org : State} (hm : Within 12288 pm) (s : State) (id u i v : Nat) (h : Keeps pm org s)
    : Keeps pm org (setValue s id u i v) := by
  have k4096 : Within 4096 pm := hm.sub rfl
  have k8192 : Within 8192 pm := hm.sub rfl
  unfold setValue
  repeat' (first
    | (with_reducible first
        | assumption | intro _ | apply setCtr_keeps k8192 | apply wr_keeps k4096 | apply keeps_ite | apply keeps_ite_fst)
    | split)

theorem clearHalf_keeps {pm : Nat} {org : State} (hm : Within 4096 pm) (s : State) (cclr : Bool) (o b : Nat) (h : Keeps
    pm org s) : Keeps pm org (clearHalf s cclr o b) := by
  have k4096 : Within 4096 pm := hm.sub rfl
  unfold clearHalf
  repeat' (first
    | (with_reducible first
        | assumption | intro _ | apply wrB_keeps k4096 | apply keeps_ite | apply keeps_ite_fst)
    | split)

theorem clearLatched_keeps {pm : Nat} {org : State} (hm : Within 4096 pm) (s : State) (id u i : Nat) (wrap : Bool) (h :
    Keeps pm org s) : Keeps pm org (clearLatched s id u i wrap) := by
  have k4096 : Within 4096 pm := hm.sub rfl
  unfold clearLatched
  repeat' (first
    | (with_reducible first
        | assumption | intro _ | apply clearHalf_keeps k4096 | apply wrB_keeps k4096 | apply keeps_ite
        | apply keeps_ite_fst)
    | split)

theorem clearAllLatched_keeps {pm : Nat} {org : State} (hm : Within 4096 pm) (s : State) (l : List (Nat × Nat × Nat))
    (wrap : Bool) (h : Keeps pm org s) : Keeps pm org (clearAllLatched s l wrap) := by
  have k4096 : Within 4096 pm := hm.sub rfl
  unfold clearAllLatched
  repeat' (first
    | (with_reducible first
        | assumption | intro _ | apply clearLatched_keeps k4096 | apply keeps_foldl | apply keeps_foldl_fst)
    | split)

theorem execCsnap_keeps {pm : Nat} {org : State} (hm : Within 4106 pm) (ring : Fin 64) (ins : Ins) (destOk : Bool) (s :
    State) (h : Keeps pm org s) : KeepsO pm org (execCsnap ring ins destOk s) := by
  have k0 : Within 0 pm := hm.sub rfl
  have k2 : Within 2 pm := hm.sub rfl
  have k4104 : Within 4104 pm := hm.sub rfl
  have k4106 : Within 4106 pm := hm.sub rfl
  unfold execCsnap
  repeat' (first
    | (with_reducible first
        | assumption | intro _ | apply guardIns_keeps k0 | apply operandFault_keeps k4104 | apply runIns_keeps k4106
        | apply valueWrite_keeps k2 | apply keeps_ite | apply keeps_ite_fst | apply nextOf_keeps | apply irqEdge_keeps k0
        | apply keepsO_next)
    | split)

theorem crdUnit_keeps {pm : Nat} {org : State} (hm : Within 4096 pm) (s : State) (set u : Nat) (ack : Bool) (h : Keeps pm
    org s) : Keeps pm org (crdUnit s set u ack).1 := by
  have k4096 : Within 4096 pm := hm.sub rfl
  unfold crdUnit
  repeat' (first
    | (with_reducible first
        | assumption | intro _ | apply clearAllLatched_keeps k4096 | apply keeps_ite | apply keeps_ite_fst
        | apply keeps_elim)
    | split)

theorem crdRest_keeps {pm : Nat} {org : State} (hm : Within 4096 pm) (s : State) (set : Nat) (ack : Bool) (block : List
    Byte) (units : List Nat) (h : Keeps pm org s) : Keeps pm org (crdRest s set ack block units).1 := by
  have k4096 : Within 4096 pm := hm.sub rfl
  unfold crdRest
  repeat' (first
    | (with_reducible first
        | assumption | intro _ | apply crdUnit_keeps k4096 | apply keeps_foldl | apply keeps_foldl_fst)
    | split)

theorem crdPoll_keeps {pm : Nat} {org : State} (hm : Within 4106 pm) (s : State) (n : Nat) (h : Keeps pm org s) : Keeps
    pm org (crdPoll s n) := by
  have k2 : Within 2 pm := hm.sub rfl
  have k4096 : Within 4096 pm := hm.sub rfl
  have k4106 : Within 4106 pm := hm.sub rfl
  unfold crdPoll
  repeat' (first
    | (with_reducible first
        | assumption | intro _ | apply completeIns_keeps k4106 | apply crdUnit_keeps k4096 | apply setRt_keeps k2
        | apply valueWrite_keeps k2 | apply keeps_ite | apply keeps_ite_fst)
    | split)

theorem execCrd_keeps {pm : Nat} {org : State} (hm : Within 4106 pm) (ring : Fin 64) (ins : Ins) (destOk : Bool) (s :
    State) (h : Keeps pm org s) : KeepsO pm org (execCrd ring ins destOk s) := by
  have k0 : Within 0 pm := hm.sub rfl
  have k2 : Within 2 pm := hm.sub rfl
  have k4096 : Within 4096 pm := hm.sub rfl
  have k4104 : Within 4104 pm := hm.sub rfl
  have k4106 : Within 4106 pm := hm.sub rfl
  unfold execCrd
  repeat' (first
    | (with_reducible first
        | assumption | intro _ | apply crdUnit_keeps k4096 | apply guardIns_keeps k0 | apply operandFault_keeps k4104
        | apply runIns_keeps k4106 | apply valueWrite_keeps k2 | apply keeps_ite | apply keeps_ite_fst
        | apply nextOf_keeps | apply irqEdge_keeps k0 | apply keepsO_next)
    | split)

end Sys2Proof.Machine
end

