-- ==== Sys2Proof/Laws/KeepsH.lean ====
section
/-! SUPPORT. Keeps, for every operation of Machine/: Ingress.lean, Egress.lean, Pool.lean. -/

set_option linter.unusedTactic false
set_option linter.unreachableTactic false
set_option linter.unusedVariables false

namespace Sys2Proof.Machine

theorem decryptPerf_keeps {pm : Nat} {org : State} (hm : Within 4096 pm) (s : State) (p : Nat) (h : Keeps pm org s) :
    Keeps pm org (decryptPerf s p) := by
  have k4096 : Within 4096 pm := hm.sub rfl
  unfold decryptPerf
  repeat' (first
    | (with_reducible first
        | assumption | intro _ | apply perf_keeps k4096 | apply keeps_ite | apply keeps_ite_fst)
    | split)

theorem execReceiveSecyCheck_keeps {pm : Nat} {org : State} (hm : Within 4392 pm) (frame : Nat) (icvOk : Bool) (plain :
    List Byte) (s : State) (h : Keeps pm org s) : KeepsO pm org (execReceiveSecyCheck frame icvOk plain s) := by
  have k0 : Within 0 pm := hm.sub rfl
  have k32 : Within 32 pm := hm.sub rfl
  have k4096 : Within 4096 pm := hm.sub rfl
  have k4360 : Within 4360 pm := hm.sub rfl
  unfold execReceiveSecyCheck
  dsimp only
  repeat' (first
    | (with_reducible first
        | assumption | intro _ | apply decryptPerf_keeps k4096 | apply putFrame_keeps k32 | apply removeFrame_keeps k32
        | apply rxCheck_keeps k4360 | apply onlyIf_keeps | apply keeps_ite | apply keeps_ite_fst | apply nextOf_keeps
        | apply irqEdge_keeps k0 | apply keepsO_next)
    | split | dsimp only)

theorem settleLearn_keeps {pm : Nat} {org : State} (hm : Within 4264 pm) (s : State) (f : Frame) (good : Bool) (h : Keeps
    pm org s) : Keeps pm org (settleLearn s f good) := by
  have k32 : Within 32 pm := hm.sub rfl
  have k4232 : Within 4232 pm := hm.sub rfl
  unfold settleLearn
  repeat' (first
    | (with_reducible first
        | assumption | intro _ | apply putFrame_keeps k32 | apply queueLearn_keeps k4232 | apply keeps_ite
        | apply keeps_ite_fst)
    | split)

theorem settleMirrors_keeps {pm : Nat} {org : State} (hm : Within 4136 pm) (s : State) (id : Nat) (good : Bool) (h :
    Keeps pm org s) : Keeps pm org (settleMirrors s id good) := by
  have k32 : Within 32 pm := hm.sub rfl
  have k4104 : Within 4104 pm := hm.sub rfl
  unfold settleMirrors
  repeat' (first
    | (with_reducible first
        | assumption | intro _ | apply mirrorDrop_keeps k4104 | apply putFrame_keeps k32 | apply reapFrame_keeps k32
        | apply removeFrame_keeps k32 | apply keeps_ite | apply keeps_ite_fst | apply keeps_foldl | apply keeps_foldl_fst
        | apply keeps_elim)
    | split)

theorem execStompIcvDecided_keeps {pm : Nat} {org : State} (hm : Within 5608 pm) (frame : Nat) (ok : Bool) (s : State) (h
    : Keeps pm org s) : KeepsO pm org (execStompIcvDecided frame ok s) := by
  have k0 : Within 0 pm := hm.sub rfl
  have k32 : Within 32 pm := hm.sub rfl
  have k4096 : Within 4096 pm := hm.sub rfl
  have k4104 : Within 4104 pm := hm.sub rfl
  have k4136 : Within 4136 pm := hm.sub rfl
  have k4264 : Within 4264 pm := hm.sub rfl
  have k4352 : Within 4352 pm := hm.sub rfl
  have k5224 : Within 5224 pm := hm.sub rfl
  unfold execStompIcvDecided
  repeat' (first
    | (with_reducible first
        | assumption | intro _ | apply acceptPn_keeps k4352 | apply icvFailed_keeps k5224 | apply putFrame_keeps k32
        | apply reapFrame_keeps k32 | apply rxNotValid_keeps k4104 | apply rxOk_keeps k4096
        | apply settleLearn_keeps k4264 | apply settleMirrors_keeps k4136 | apply wrapAdd_keeps k4096 | apply onlyIf_keeps
        | apply keeps_ite | apply keeps_ite_fst | apply nextOf_keeps | apply irqEdge_keeps k0 | apply keepsO_next)
    | split)

theorem recircAgedCount_keeps {pm : Nat} {org : State} (hm : Within 4104 pm) (s : State) (t : Nat) (h : Keeps pm org s) :
    Keeps pm org (recircAgedCount s t) := by
  have k4104 : Within 4104 pm := hm.sub rfl
  unfold recircAgedCount
  repeat' (first | (with_reducible first | assumption | apply postRate_keeps k4104 | apply tileCount_keeps k4104) | split)

theorem recircAgedDrop_keeps {pm : Nat} {org : State} (hm : Within 4136 pm) (s : State) (id t : Nat) (h : Keeps pm org s)
    : Keeps pm org (recircAgedDrop s id t) := by
  have k32 : Within 32 pm := hm.sub rfl
  have k4104 : Within 4104 pm := hm.sub rfl
  unfold recircAgedDrop
  repeat' (first
    | (with_reducible first
        | assumption | intro _ | apply putFrame_keeps k32 | apply recircAgedCount_keeps k4104
        | apply removeFrame_keeps k32 | apply keeps_ite | apply keeps_ite_fst)
    | split)

theorem asaStep_keeps {pm : Nat} {org : State} (hm : Within 4108 pm) (s : State) (f : Frame) (pipe : Nat) (flipped : List
    Nat) (w : Work) (h : Keeps pm org s) : Keeps pm org (asaStep s f pipe flipped w).1 := by
  have k4104 : Within 4104 pm := hm.sub rfl
  have k4108 : Within 4108 pm := hm.sub rfl
  unfold asaStep
  dsimp only
  repeat' (first
    | (with_reducible first
        | assumption | intro _ | apply asaSearch_keeps k4108 | apply stick_keeps k4104 | apply keeps_ite
        | apply keeps_ite_fst)
    | split | dsimp only)

theorem caseSlip_keeps {pm : Nat} {org : State} (hm : Within 4104 pm) (s : State) (tile : Nat) (late : Bool) (h : Keeps
    pm org s) : Keeps pm org (caseSlip s tile late) := by
  have k4104 : Within 4104 pm := hm.sub rfl
  unfold caseSlip
  repeat' (first
    | (with_reducible first
        | assumption | intro _ | apply postRate_keeps k4104 | apply tileCount_keeps k4104 | apply keeps_ite
        | apply keeps_ite_fst)
    | split)

theorem decideFrame_keeps {pm : Nat} {org : State} (hm : Within 4172 pm) (s : State) (f : Frame) (pipe : Nat) (slip :
    Bool × Bool) (flipped : List Nat) (h : Keeps pm org s) : Keeps pm org (decideFrame s f pipe slip flipped).1 := by
  have k4 : Within 4 pm := hm.sub rfl
  have k4104 : Within 4104 pm := hm.sub rfl
  have k4108 : Within 4108 pm := hm.sub rfl
  have k4168 : Within 4168 pm := hm.sub rfl
  unfold decideFrame
  repeat' (first
    | (with_reducible first
        | assumption | intro _ | apply asaStep_keeps k4108 | apply caseRead_keeps k4 | apply caseSlip_keeps k4104
        | apply learnCheck_keeps k4168 | apply keeps_ite | apply keeps_ite_fst)
    | split)

theorem resolveDest_keeps {pm : Nat} {org : State} (hm : Within 4104 pm) (s : State) (f : Frame) (tile : Nat) (w : Work)
    (h : Keeps pm org s) : Keeps pm org (resolveDest s f tile w).1 := by
  have k4104 : Within 4104 pm := hm.sub rfl
  unfold resolveDest
  repeat' (first
    | (with_reducible first
        | assumption | intro _ | apply lsNoLive_keeps k4104 | apply tileCount_keeps k4104 | apply keeps_ite
        | apply keeps_ite_fst)
    | split)

theorem stormStep_keeps {pm : Nat} {org : State} (hm : Within 4168 pm) (s : State) (f : Frame) (d : Decision) (h : Keeps
    pm org s) : Keeps pm org (stormStep s f d).1 := by
  have k4168 : Within 4168 pm := hm.sub rfl
  unfold stormStep
  repeat' (first
    | (with_reducible first
        | assumption | intro _ | apply stormMeter_keeps k4168 | apply keeps_ite | apply keeps_ite_fst)
    | split)

theorem policerMiss_keeps {pm : Nat} {org : State} (hm : Within 4104 pm) (s : State) (tile : Nat) (d : Decision) (h :
    Keeps pm org s) : Keeps pm org (policerMiss s tile d) := by
  have k4104 : Within 4104 pm := hm.sub rfl
  unfold policerMiss
  repeat' (first
    | (with_reducible first
        | assumption | intro _ | apply tileCount_keeps k4104 | apply keeps_ite | apply keeps_ite_fst | apply keeps_elim)
    | split)

theorem policeStep_keeps {pm : Nat} {org : State} (hm : Within 12360 pm) (s : State) (f : Frame) (tile : Nat) (w : Work)
    (d : Decision) (h : Keeps pm org s) : Keeps pm org (policeStep s f tile w d).1 := by
  have k64 : Within 64 pm := hm.sub rfl
  have k4104 : Within 4104 pm := hm.sub rfl
  have k12352 : Within 12352 pm := hm.sub rfl
  unfold policeStep
  repeat' (first
    | (with_reducible first
        | assumption | intro _ | apply countColour_keeps k12352 | apply policerMeter_keeps k64
        | apply postRate_keeps k4104 | apply tileCount_keeps k4104 | apply keeps_ite | apply keeps_ite_fst)
    | split)

theorem forwardStep_keeps {pm : Nat} {org : State} (hm : Within 37992 pm) (s : State) (f : Frame) (d : Decision) (h :
    Keeps pm org s) : Keeps pm org (forwardStep s f d) := by
  have k32 : Within 32 pm := hm.sub rfl
  have k4096 : Within 4096 pm := hm.sub rfl
  have k36904 : Within 36904 pm := hm.sub rfl
  have k37992 : Within 37992 pm := hm.sub rfl
  unfold forwardStep
  repeat' (first
    | (with_reducible first
        | assumption | intro _ | apply admitMulticast_keeps k36904 | apply offerCopy_keeps k37992 | apply perf_keeps k4096
        | apply putFrame_keeps k32 | apply keeps_ite | apply keeps_ite_fst | apply keeps_foldl | apply keeps_foldl_fst)
    | split)

theorem settleFrame_keeps {pm : Nat} {org : State} (hm : Within 32 pm) (s : State) (id : Nat) (h : Keeps pm org s) :
    Keeps pm org (settleFrame s id) := by
  have k32 : Within 32 pm := hm.sub rfl
  unfold settleFrame
  repeat' (first
    | (with_reducible first
        | assumption | intro _ | apply putFrame_keeps k32 | apply removeFrame_keeps k32 | apply keeps_ite
        | apply keeps_ite_fst)
    | split)

theorem finishIngress_keeps {pm : Nat} {org : State} (hm : Within 46824 pm) (s : State) (f : Frame) (tile : Nat) (w :
    Work) (learn : Option LearnReq) (limit : Nat) (h : Keeps pm org s) : Keeps pm org (finishIngress s f tile w learn
    limit) := by
  have k32 : Within 32 pm := hm.sub rfl
  have k4104 : Within 4104 pm := hm.sub rfl
  have k4168 : Within 4168 pm := hm.sub rfl
  have k4232 : Within 4232 pm := hm.sub rfl
  have k12352 : Within 12352 pm := hm.sub rfl
  have k12360 : Within 12360 pm := hm.sub rfl
  have k37480 : Within 37480 pm := hm.sub rfl
  have k37992 : Within 37992 pm := hm.sub rfl
  unfold finishIngress
  dsimp only
  repeat' (first
    | (with_reducible first
        | assumption | intro _ | apply countPairs_keeps k12352 | apply forwardStep_keeps k37992
        | apply mirrorMask_keeps k37480 | apply policeStep_keeps k12360 | apply policerMiss_keeps k4104
        | apply putFrame_keeps k32 | apply queueLearn_keeps k4232 | apply resolveDest_keeps k4104
        | apply settleFrame_keeps k32 | apply snareMeter_keeps k37992 | apply stormStep_keeps k4168 | apply keeps_ite
        | apply keeps_ite_fst)
    | split | dsimp only)

theorem ingress_keeps {pm : Nat} {org : State} (hm : Within 46828 pm) (s : State) (f : Frame) (slip : Bool × Bool)
    (flipped : List Nat) (h : Keeps pm org s) : Keeps pm org (ingress s f slip flipped) := by
  have k32 : Within 32 pm := hm.sub rfl
  have k4096 : Within 4096 pm := hm.sub rfl
  have k4136 : Within 4136 pm := hm.sub rfl
  have k4172 : Within 4172 pm := hm.sub rfl
  have k46824 : Within 46824 pm := hm.sub rfl
  unfold ingress
  repeat' (first
    | (with_reducible first
        | assumption | intro _ | apply decideFrame_keeps k4172 | apply finishIngress_keeps k46824
        | apply parseFrame_keeps k4136 | apply perf_keeps k4096 | apply putFrame_keeps k32
        | apply recircAgedDrop_keeps k4136 | apply keeps_ite | apply keeps_ite_fst)
    | split)

theorem takeSlot_keeps {pm : Nat} {org : State} (hm : Within 32 pm) (s : State) (f : Frame) (h : Keeps pm org s) : Keeps
    pm org (takeSlot s f) := by
  have k32 : Within 32 pm := hm.sub rfl
  have b5 := hm.bit (i := 5) rfl
  unfold takeSlot
  repeat' (first
    | (with_reducible first
        | assumption | intro _ | apply setHdrWait_keeps k32 | apply keeps_ite | apply keeps_ite_fst
        | (fail_if_no_progress refine keeps_path _ b5 ?_))
    | split)

theorem earlyFrame_keeps {pm : Nat} {org : State} (hm : Within 4360 pm) (s t : State) (f g : Frame) (user : List Byte)
    (h : Keeps pm org s) (e : earlyFrame s f user = some (t, g)) : Keeps pm org t := by
  have k4096 : Within 4096 pm := hm.sub rfl
  have k4360 : Within 4360 pm := hm.sub rfl
  unfold earlyFrame at e
  dsimp only at e
  repeat' (first
    | (cases e; exact h)
    | (cases e; exact rxCheck_keeps k4360 _ _ _ _ _ _ _ h)
    | (cases e; exact decryptPerf_keeps k4096 _ _ (rxCheck_keeps k4360 _ _ _ _ _ _ _ h))
    | (cases e; done) | split at e)

theorem execHeaderGatherRelease_keeps {pm : Nat} {org : State} (hm : Within 47084 pm) (g : Gather) (s : State) (h : Keeps
    pm org s) : KeepsO pm org (execHeaderGatherRelease g s) := by
  have k0 : Within 0 pm := hm.sub rfl
  have k32 : Within 32 pm := hm.sub rfl
  have k46828 : Within 46828 pm := hm.sub rfl
  have ke : Within 4360 pm := hm.sub rfl
  unfold execHeaderGatherRelease
  apply nextOf_keeps
  apply irqEdge_keeps k0
  apply onlyIf_keeps _ _ _ h
  split
  · split
    · exact h
    · exact onlyIf_keeps _ _ _ h (ingress_keeps k46828 _ _ _ _ (takeSlot_keeps k32 _ _ h))
  · split
    · exact h
    · next e =>
      obtain ⟨f, -, e⟩ := Option.bind_eq_some_iff.mp e
      apply onlyIf_keeps _ _ _ h
      split
      · exact ingress_keeps k46828 _ _ _ _ (addFrame_keeps k32 _ _
          (takeSlot_keeps k32 _ _ (earlyFrame_keeps ke s _ f _ _ h e)))
      · exact setHdrWait_keeps k32 _ _ _ h

theorem execRecircAged_keeps {pm : Nat} {org : State} (hm : Within 5224 pm) (frame : Nat) (s : State) (h : Keeps pm org
    s) : KeepsO pm org (execRecircAged frame s) := by
  have k0 : Within 0 pm := hm.sub rfl
  have k32 : Within 32 pm := hm.sub rfl
  have k4104 : Within 4104 pm := hm.sub rfl
  have k5224 : Within 5224 pm := hm.sub rfl
  unfold execRecircAged
  repeat' (first
    | (with_reducible first
        | assumption | intro _ | apply dropCopy_keeps k5224 | apply recircAgedCount_keeps k4104
        | apply removeFrame_keeps k32 | apply onlyIf_keeps | apply keeps_ite | apply keeps_ite_fst | apply keeps_foldl
        | apply keeps_foldl_fst | apply nextOf_keeps | apply irqEdge_keeps k0 | apply keepsO_next)
    | split)

theorem tagOps_keeps {pm : Nat} {org : State} (hm : Within 4104 pm) (s : State) (tile : Nat) (ops : List Nat) (o : List
    Byte) (h : Keeps pm org s) : Keeps pm org (tagOps s tile ops o).1 := by
  have k4104 : Within 4104 pm := hm.sub rfl
  unfold tagOps
  dsimp only
  repeat' (first
    | (with_reducible first
        | assumption | intro _ | apply tileCount_keeps k4104 | apply keeps_ite | apply keeps_ite_fst | apply keeps_foldl
        | apply keeps_foldl_fst)
    | split | dsimp only)

theorem egressDrop_keeps {pm : Nat} {org : State} (hm : Within 5224 pm) (s : State) (c : Copy) (h : Keeps pm org s) :
    Keeps pm org (egressDrop s c) := by
  have k4104 : Within 4104 pm := hm.sub rfl
  have k5224 : Within 5224 pm := hm.sub rfl
  unfold egressDrop
  repeat' (first
    | (with_reducible first
        | assumption | intro _ | apply dropCopy_keeps k5224 | apply mirrorDrop_keeps k4104 | apply keeps_ite
        | apply keeps_ite_fst)
    | split)

theorem handOver_keeps {pm : Nat} {org : State} (hm : Within 13416 pm) (s : State) (f : Frame) (c : Copy) (o : List Byte)
    (prot : Option Nat) (ptp : Option (Nat × Option Nat)) (h : Keeps pm org s) : Keeps pm org (handOver s f c o prot ptp)
    := by
  have k32 : Within 32 pm := hm.sub rfl
  have k4192 : Within 4192 pm := hm.sub rfl
  have k5224 : Within 5224 pm := hm.sub rfl
  have k13416 : Within 13416 pm := hm.sub rfl
  unfold handOver
  repeat' (first
    | (with_reducible first
        | assumption | intro _ | apply macNext_keeps k4192 | apply mpStart_keeps k5224 | apply putCopy_keeps k32
        | apply rxStart_keeps k13416 | apply keeps_ite | apply keeps_ite_fst)
    | split)

theorem stage13_keeps {pm : Nat} {org : State} (hm : Within 13416 pm) (s : State) (parity : Bool) (f : Frame) (c : Copy)
    (o secure : List Byte) (secy : Option Nat) (h : Keeps pm org s) : Keeps pm org (stage13 s parity f c o secure secy)
    := by
  have k4096 : Within 4096 pm := hm.sub rfl
  have k4104 : Within 4104 pm := hm.sub rfl
  have k4136 : Within 4136 pm := hm.sub rfl
  have k5224 : Within 5224 pm := hm.sub rfl
  have k13416 : Within 13416 pm := hm.sub rfl
  unfold stage13
  dsimp only
  repeat' (first
    | (with_reducible first
        | assumption | intro _ | apply bump_keeps k4104 | apply dropCopy_keeps k5224 | apply egressDrop_keeps k5224
        | apply handOver_keeps k13416 | apply perf_keeps k4096 | apply protect_keeps k4136 | apply secyFrame_keeps k4096
        | apply keeps_ite | apply keeps_ite_fst)
    | split | dsimp only)

theorem egressSearch_keeps {pm : Nat} {org : State} (hm : Within 4108 pm) (s : State) (parity : Bool) (f : Frame) (c :
    Copy) (prot : Bool) (flipped : List Nat) (h : Keeps pm org s) : Keeps pm org (egressSearch s parity f c prot
    flipped).1 := by
  have k4108 : Within 4108 pm := hm.sub rfl
  unfold egressSearch
  repeat' (first | (with_reducible first | assumption | apply asaSearch_keeps k4108) | split)

theorem takeEgress_keeps {pm : Nat} {org : State} (hm : Within 32 pm) (s : State) (f : Frame) (c : Copy) (h : Keeps pm
    org s) : Keeps pm org (takeEgress s f c) := by
  have b5 := hm.bit (i := 5) rfl
  unfold takeEgress
  repeat' (first
    | (with_reducible first
        | assumption | intro _ | apply keeps_ite | apply keeps_ite_fst | (fail_if_no_progress refine keeps_path _ b5 ?_))
    | split)

theorem stage12_keeps {pm : Nat} {org : State} (hm : Within 12364 pm) (s : State) (parity : Bool) (f : Frame) (c : Copy)
    (flipped : List Nat) (h : Keeps pm org s) : Keeps pm org (stage12 s parity f c flipped).s := by
  have k4104 : Within 4104 pm := hm.sub rfl
  have k4108 : Within 4108 pm := hm.sub rfl
  have k12352 : Within 12352 pm := hm.sub rfl
  unfold stage12
  dsimp only
  have h2 : Keeps pm org (if c.port < 264 ∧ hasCipher s then txSecy s parity c.port
      (match f.dec.secySel with | some x => some x | none => f.dec.caseSecy.map some) else (s, none)).1 := by
    split
    · exact txSecy_keeps (hm.sub rfl) _ _ _ _ h
    · exact h
  generalize (if c.port < 264 ∧ hasCipher s then txSecy s parity c.port
      (match f.dec.secySel with | some x => some x | none => f.dec.caseSecy.map some) else (s, none)) = t at h2 ⊢
  repeat' (first
    | (with_reducible first
        | assumption | intro _ | apply tileCount_keeps k4104 | apply tagOps_keeps k4104 | apply countPairs_keeps k12352
        | apply egressSearch_keeps k4108 | apply keeps_ite | apply keeps_foldl | apply keeps_foldl_fst)
    | split)

theorem execEgressPipeline_keeps {pm : Nat} {org : State} (hm : Within 46700 pm) (copy : Nat) (secure : List Byte)
    (flipped : List Nat) (s : State) (h : Keeps pm org s) : KeepsO pm org (execEgressPipeline copy secure flipped s) :=
    by
  have k0 : Within 0 pm := hm.sub rfl
  have k32 : Within 32 pm := hm.sub rfl
  have k4096 : Within 4096 pm := hm.sub rfl
  have k4108 : Within 4108 pm := hm.sub rfl
  have k5224 : Within 5224 pm := hm.sub rfl
  have k13416 : Within 13416 pm := hm.sub rfl
  have k37480 : Within 37480 pm := hm.sub rfl
  have kS : Within 12364 pm := hm.sub rfl
  unfold execEgressPipeline
  dsimp only
  repeat' (first
    | (with_reducible first
        | assumption | intro _ | apply irqEdge_keeps k0 | apply dropCopy_keeps k5224 | apply egressDrop_keeps k5224
        | apply mirrorMask_keeps k37480 | apply stage13_keeps k13416 | apply txSecy_keeps k4096
        | apply egressSearch_keeps k4108 | apply takeEgress_keeps k32 | apply stage12_keeps kS | apply nextOf_keeps
        | apply keeps_ite | apply keeps_foldl | apply keeps_foldl_fst)
    | split)

theorem txCount_keeps {pm : Nat} {org : State} (hm : Within 4160 pm) (s : State) (p : Nat) (o : List Byte) (express :
    Bool) (h : Keeps pm org s) : Keeps pm org (txCount s p o express) := by
  have k4096 : Within 4096 pm := hm.sub rfl
  have k4160 : Within 4160 pm := hm.sub rfl
  unfold txCount
  repeat' (first
    | (with_reducible first
        | assumption | intro _ | apply macAdd_keeps k4160 | apply perf_keeps k4096 | apply keeps_ite | apply keeps_ite_fst)
    | split)

theorem tsqPut_keeps {pm : Nat} {org : State} (hm : Within 5192 pm) (s : State) (f : Frame) (c : Copy) (t : Nat) (h :
    Keeps pm org s) : Keeps pm org (tsqPut s f c t) := by
  have k1024 : Within 1024 pm := hm.sub rfl
  have k4104 : Within 4104 pm := hm.sub rfl
  have b6 := hm.bit (i := 6) rfl
  unfold tsqPut
  repeat' (first
    | (with_reducible first
        | assumption | intro _ | apply bump_keeps k4104 | apply postHw_keeps k4104 | apply txMark_keeps k1024
        | apply keeps_ite | apply keeps_ite_fst | (fail_if_no_progress refine keeps_core _ b6 ?_))
    | split)

theorem execFrameTransmitEnd_keeps {pm : Nat} {org : State} (hm : Within 5352 pm) (copy : Nat) (txTime : Nat) (s : State)
    (h : Keeps pm org s) : KeepsO pm org (execFrameTransmitEnd copy txTime s) := by
  have k0 : Within 0 pm := hm.sub rfl
  have k32 : Within 32 pm := hm.sub rfl
  have k1024 : Within 1024 pm := hm.sub rfl
  have k4136 : Within 4136 pm := hm.sub rfl
  have k4160 : Within 4160 pm := hm.sub rfl
  have k4192 : Within 4192 pm := hm.sub rfl
  have k4328 : Within 4328 pm := hm.sub rfl
  have k5192 : Within 5192 pm := hm.sub rfl
  have k5224 : Within 5224 pm := hm.sub rfl
  unfold execFrameTransmitEnd
  repeat' (first
    | (with_reducible first
        | assumption | intro _ | apply addFrame_keeps k32 | apply dropCopy_keeps k5224 | apply emit_keeps k0
        | apply frameWhole_keeps k4328 | apply lastFrag_keeps k4160 | apply macNext_keeps k4192
        | apply replicate_keeps k4136 | apply setHdrWait_keeps k32 | apply tsqPut_keeps k5192 | apply txCount_keeps k4160
        | apply txMark_keeps k1024 | apply onlyIf_keeps | apply keeps_ite | apply keeps_ite_fst | apply keeps_elim
        | apply nextOf_keeps | apply irqEdge_keeps k0 | apply keepsO_next)
    | split)

theorem execMpTransmit_keeps {pm : Nat} {org : State} (hm : Within 96 pm) (octets : List Byte) (flags tag : Nat) (launch
    : Option Nat) (s : State) (h : Keeps pm org s) : KeepsO pm org (execMpTransmit octets flags tag launch s) := by
  have k0 : Within 0 pm := hm.sub rfl
  have k32 : Within 32 pm := hm.sub rfl
  have k64 : Within 64 pm := hm.sub rfl
  unfold execMpTransmit
  repeat' (first
    | (with_reducible first
        | assumption | intro _ | apply addFrame_keeps k32 | apply mpLineTake_keeps k64 | apply onlyIf_keeps
        | apply nextOf_keeps | apply irqEdge_keeps k0 | apply keepsO_next)
    | split)

theorem execPalloc_keeps {pm : Nat} {org : State} (hm : Within 37962 pm) (ring : Fin 64) (ins : Ins) (destOk : Bool) (s :
    State) (h : Keeps pm org s) : KeepsO pm org (execPalloc ring ins destOk s) := by
  have k0 : Within 0 pm := hm.sub rfl
  have k2 : Within 2 pm := hm.sub rfl
  have k1024 : Within 1024 pm := hm.sub rfl
  have k4096 : Within 4096 pm := hm.sub rfl
  have k4104 : Within 4104 pm := hm.sub rfl
  have k4106 : Within 4106 pm := hm.sub rfl
  have k37888 : Within 37888 pm := hm.sub rfl
  have k37962 : Within 37962 pm := hm.sub rfl
  unfold execPalloc
  dsimp only
  repeat' (first
    | (with_reducible first
        | assumption | intro _ | apply guardIns_keeps k0 | apply operandFault_keeps k4104 | apply perf_keeps k4096
        | apply ringGrant_keeps k37962 | apply runIns_keeps k4106 | apply setFifo_keeps k1024 | apply takeBuf_keeps k37888
        | apply valueWrite_keeps k2 | apply keeps_ite | apply keeps_ite_fst | apply nextOf_keeps | apply irqEdge_keeps k0
        | apply keepsO_next)
    | split | dsimp only)

theorem pallocExpire_keeps {pm : Nat} {org : State} (hm : Within 37898 pm) (s : State) (n : Nat) (h : Keeps pm org s) :
    Keeps pm org (pallocExpire s n) := by
  have k4106 : Within 4106 pm := hm.sub rfl
  have k37898 : Within 37898 pm := hm.sub rfl
  unfold pallocExpire
  repeat' (first
    | (with_reducible first
        | assumption | intro _ | apply completeIns_keeps k4106 | apply pallocLeave_keeps k37898 | apply onlyIf_keeps)
    | split)

theorem execPallocTimeout_keeps {pm : Nat} {org : State} (hm : Within 37898 pm) (ring : Fin 64) (s : State) (h : Keeps pm
    org s) : KeepsO pm org (execPallocTimeout ring s) := by
  have k0 : Within 0 pm := hm.sub rfl
  have k37898 : Within 37898 pm := hm.sub rfl
  unfold execPallocTimeout
  repeat' (first
    | (with_reducible first
        | assumption | apply pallocExpire_keeps k37898 | apply nextOf_keeps | apply irqEdge_keeps k0 | apply keepsO_next)
    | split)

theorem execPfree_keeps {pm : Nat} {org : State} (hm : Within 37962 pm) (ring : Fin 64) (ins : Ins) (s : State) (h :
    Keeps pm org s) : KeepsO pm org (execPfree ring ins s) := by
  have k0 : Within 0 pm := hm.sub rfl
  have k4106 : Within 4106 pm := hm.sub rfl
  have k37898 : Within 37898 pm := hm.sub rfl
  have k37962 : Within 37962 pm := hm.sub rfl
  unfold execPfree
  repeat' (first
    | (with_reducible first
        | assumption | intro _ | apply freeBuf_keeps k37898 | apply guardIns_keeps k0 | apply ringGrant_keeps k37962
        | apply runIns_keeps k4106 | apply nextOf_keeps | apply irqEdge_keeps k0 | apply keepsO_next)
    | split)

theorem execPref_keeps {pm : Nat} {org : State} (hm : Within 37962 pm) (ring : Fin 64) (ins : Ins) (s : State) (h : Keeps
    pm org s) : KeepsO pm org (execPref ring ins s) := by
  have k0 : Within 0 pm := hm.sub rfl
  have k1024 : Within 1024 pm := hm.sub rfl
  have k4106 : Within 4106 pm := hm.sub rfl
  have k37962 : Within 37962 pm := hm.sub rfl
  unfold execPref
  repeat' (first
    | (with_reducible first
        | assumption | intro _ | apply guardIns_keeps k0 | apply ringGrant_keeps k37962 | apply runIns_keeps k4106
        | apply setLedger_keeps k1024 | apply keeps_ite | apply keeps_ite_fst | apply nextOf_keeps
        | apply irqEdge_keeps k0 | apply keepsO_next)
    | split)

theorem poolEnable_keeps {pm : Nat} {org : State} (hm : Within 5120 pm) (s : State) (k : Nat) (h : Keeps pm org s) :
    Keeps pm org (poolEnable s k) := by
  have k4096 : Within 4096 pm := hm.sub rfl
  have b10 := hm.bit (i := 10) rfl
  unfold poolEnable
  repeat' (first
    | (with_reducible first
        | assumption | intro _ | apply wrB_keeps k4096 | (fail_if_no_progress refine keeps_pool _ b10 ?_))
    | split)

theorem poolCfgWrite_keeps {pm : Nat} {org : State} (hm : Within 5120 pm) (s : State) (k : Nat) (mask value : Word) (h :
    Keeps pm org s) : Keeps pm org (poolCfgWrite s k mask value) := by
  have k4096 : Within 4096 pm := hm.sub rfl
  have k5120 : Within 5120 pm := hm.sub rfl
  have b10 := hm.bit (i := 10) rfl
  unfold poolCfgWrite
  repeat' (first
    | (with_reducible first
        | assumption | intro _ | apply poolEnable_keeps k5120 | apply wr_keeps k4096 | apply wrB_keeps k4096
        | apply keeps_ite | apply keeps_ite_fst | (fail_if_no_progress refine keeps_pool _ b10 ?_))
    | split)

theorem poolBaseWrite_keeps {pm : Nat} {org : State} (hm : Within 4096 pm) (s : State) (k o : Nat) (mask value : Word) (h
    : Keeps pm org s) : Keeps pm org (poolBaseWrite s k o mask value) := by
  have k4096 : Within 4096 pm := hm.sub rfl
  unfold poolBaseWrite
  repeat' (first
    | (with_reducible first
        | assumption | intro _ | apply wr_keeps k4096 | apply keeps_ite | apply keeps_ite_fst)
    | split)

theorem execPoolInitDone_keeps {pm : Nat} {org : State} (hm : Within 37898 pm) (pool : Fin 16) (s : State) (h : Keeps pm
    org s) : KeepsO pm org (execPoolInitDone pool s) := by
  have k0 : Within 0 pm := hm.sub rfl
  have k1024 : Within 1024 pm := hm.sub rfl
  have k37898 : Within 37898 pm := hm.sub rfl
  have b10 := hm.bit (i := 10) rfl
  unfold execPoolInitDone
  repeat' (first
    | (with_reducible first
        | assumption | intro _ | apply cacheSettle_keeps k1024 | apply emit_keeps k0 | apply poolRun_keeps k37898
        | apply onlyIf_keeps | apply nextOf_keeps | apply irqEdge_keeps k0
        | (fail_if_no_progress refine keeps_pool _ b10 ?_) | apply keepsO_next)
    | split)

theorem execPoolFault_keeps {pm : Nat} {org : State} (hm : Within 4104 pm) (pool : Fin 16) (addr : Nat) (s : State) (h :
    Keeps pm org s) : KeepsO pm org (execPoolFault pool addr s) := by
  have k0 : Within 0 pm := hm.sub rfl
  have k4096 : Within 4096 pm := hm.sub rfl
  have k4104 : Within 4104 pm := hm.sub rfl
  unfold execPoolFault
  repeat' (first
    | (with_reducible first
        | assumption | intro _ | apply postHw_keeps k4104 | apply wrB_keeps k4096 | apply onlyIf_keeps
        | apply nextOf_keeps | apply irqEdge_keeps k0 | apply keepsO_next)
    | split)

theorem rxBuf_keeps {pm : Nat} {org : State} (hm : Within 1024 pm) (s : State) (r k e : Nat) (data : List Byte) (h :
    Keeps pm org s) : Keeps pm org (rxBuf s r k e data) := by
  have k0 : Within 0 pm := hm.sub rfl
  have k1024 : Within 1024 pm := hm.sub rfl
  unfold rxBuf
  repeat' (first | (with_reducible first | assumption | apply emit_keeps k0 | apply setLedger_keeps k1024) | split)

theorem rxDescs_keeps {pm : Nat} {org : State} (hm : Within 5120 pm) (s : State) (r : Nat) (desc : Nat → Bool → List
    Byte) (n : Nat) (h : Keeps pm org s) : Keeps pm org (rxDescs s r desc n) := by
  have k0 : Within 0 pm := hm.sub rfl
  have k1024 : Within 1024 pm := hm.sub rfl
  have k4096 : Within 4096 pm := hm.sub rfl
  unfold rxDescs
  repeat' (first
    | (with_reducible first
        | assumption | intro _ | apply emit_keeps k0 | apply frRaise_keeps k1024 | apply wrF_keeps k4096
        | apply keeps_foldl | apply keeps_foldl_fst)
    | split)

theorem rxWrite_keeps {pm : Nat} {org : State} (hm : Within 5224 pm) (s : State) (x : RxChain) (f : Frame) (c : Copy) (l
    : List Nat) (h : Keeps pm org s) : Keeps pm org (rxWrite s x f c l) := by
  have k0 : Within 0 pm := hm.sub rfl
  have k1024 : Within 1024 pm := hm.sub rfl
  have k4096 : Within 4096 pm := hm.sub rfl
  have k5120 : Within 5120 pm := hm.sub rfl
  have k5224 : Within 5224 pm := hm.sub rfl
  have b10 := hm.bit (i := 10) rfl
  unfold rxWrite
  repeat' (first
    | (with_reducible first
        | assumption | intro _ | apply dropCopy_keeps k5224 | apply emit_keeps k0 | apply perf_keeps k4096
        | apply rxBuf_keeps k1024 | apply rxDescs_keeps k5120 | apply txMark_keeps k1024 | apply keeps_ite
        | apply keeps_ite_fst | apply keeps_foldl | apply keeps_foldl_fst
        | (fail_if_no_progress refine keeps_pool _ b10 ?_))
    | split)

theorem execHostRxDeliver_keeps {pm : Nat} {org : State} (hm : Within 5224 pm) (copy : Nat) (s : State) (h : Keeps pm org
    s) : KeepsO pm org (execHostRxDeliver copy s) := by
  have k0 : Within 0 pm := hm.sub rfl
  have k5224 : Within 5224 pm := hm.sub rfl
  unfold execHostRxDeliver
  repeat' (first
    | (with_reducible first
        | assumption | intro _ | apply rxWrite_keeps k5224 | apply onlyIf_keeps | apply nextOf_keeps
        | apply irqEdge_keeps k0 | apply keepsO_next)
    | split)

theorem rxExpire_keeps {pm : Nat} {org : State} (hm : Within 46186 pm) (s : State) (copy : Nat) (h : Keeps pm org s) :
    Keeps pm org (rxExpire s copy) := by
  have k4104 : Within 4104 pm := hm.sub rfl
  have k12296 : Within 12296 pm := hm.sub rfl
  have k37994 : Within 37994 pm := hm.sub rfl
  unfold rxExpire
  repeat' (first
    | (with_reducible first
        | assumption | intro _ | apply postRateFrom_keeps k4104 | apply rxDrop_keeps k37994 | apply rxLost_keeps k12296
        | apply onlyIf_keeps)
    | split)

theorem execRxWaitExpire_keeps {pm : Nat} {org : State} (hm : Within 46186 pm) (copy : Nat) (s : State) (h : Keeps pm org
    s) : KeepsO pm org (execRxWaitExpire copy s) := by
  have k0 : Within 0 pm := hm.sub rfl
  have k46186 : Within 46186 pm := hm.sub rfl
  unfold execRxWaitExpire
  repeat' (first
    | (with_reducible first
        | assumption | apply rxExpire_keeps k46186 | apply nextOf_keeps | apply irqEdge_keeps k0 | apply keepsO_next)
    | split)

theorem poolCycle_keeps {pm : Nat} {org : State} (hm : Within 46186 pm) (s : State) (h : Keeps pm org s) : Keeps pm org
    (poolCycle s) := by
  have k37898 : Within 37898 pm := hm.sub rfl
  have k46186 : Within 46186 pm := hm.sub rfl
  unfold poolCycle
  repeat' (first
    | (with_reducible first
        | assumption | intro _ | apply pallocExpire_keeps k37898 | apply poolRun_keeps k37898
        | apply poolTick_keeps k37898 | apply rxExpire_keeps k46186 | apply keeps_ite | apply keeps_ite_fst
        | apply keeps_foldl | apply keeps_foldl_fst)
    | split)

theorem frDoorbell_keeps {pm : Nat} {org : State} (hm : Within 4104 pm) (s : State) (tx : Bool) (r : Nat) (w : DbWrite)
    (act : State → Nat → State) (hact : ∀ y0 y1, Keeps pm org y0 → Keeps pm org (act y0 y1)) (h : Keeps pm org s) : Keeps
    pm org (frDoorbell s tx r w act) := by
  have k4104 : Within 4104 pm := hm.sub rfl
  unfold frDoorbell
  repeat' (first
    | (with_reducible first
        | assumption | intro _ | apply accessErr_keeps k4104 | apply keeps_ite | apply keeps_ite_fst | apply hact)
    | split)

theorem frDbErr_keeps {pm : Nat} {org : State} (hm : Within 4096 pm) (s : State) (tx : Bool) (r : Nat) (h : Keeps pm org
    s) : Keeps pm org (frDbErr s tx r) := by
  have k4096 : Within 4096 pm := hm.sub rfl
  unfold frDbErr
  repeat' (first | (with_reducible first | assumption | apply wrB_keeps k4096) | split)

theorem execRxDoorbell_keeps {pm : Nat} {org : State} (hm : Within 5128 pm) (ring : Fin 1024) (w : DbWrite) (s : State)
    (h : Keeps pm org s) : KeepsO pm org (execRxDoorbell ring w s) := by
  have k0 : Within 0 pm := hm.sub rfl
  have k1024 : Within 1024 pm := hm.sub rfl
  have k4096 : Within 4096 pm := hm.sub rfl
  have k4104 : Within 4104 pm := hm.sub rfl
  unfold execRxDoorbell
  repeat' (first
    | (with_reducible first
        | assumption | intro _ | apply frArm_keeps k1024 | apply frDbErr_keeps k4096 | apply frDoorbell_keeps k4104
        | apply wrF_keeps k4096 | apply keeps_ite | apply keeps_ite_fst | apply nextOf_keeps | apply irqEdge_keeps k0
        | apply keepsO_next)
    | split)

theorem execTxDoorbell_keeps {pm : Nat} {org : State} (hm : Within 5128 pm) (ring : Fin 1024) (w : DbWrite) (s : State)
    (h : Keeps pm org s) : KeepsO pm org (execTxDoorbell ring w s) := by
  have k0 : Within 0 pm := hm.sub rfl
  have k1024 : Within 1024 pm := hm.sub rfl
  have k4096 : Within 4096 pm := hm.sub rfl
  have k4104 : Within 4104 pm := hm.sub rfl
  unfold execTxDoorbell
  repeat' (first
    | (with_reducible first
        | assumption | intro _ | apply frArm_keeps k1024 | apply frDbErr_keeps k4096 | apply frDoorbell_keeps k4104
        | apply wrF_keeps k4096 | apply keeps_ite | apply keeps_ite_fst | apply nextOf_keeps | apply irqEdge_keeps k0
        | apply keepsO_next)
    | split)

theorem setTxNext_keeps {pm : Nat} {org : State} (hm : Within 1024 pm) (s : State) (r v : Nat) (h : Keeps pm org s) :
    Keeps pm org (setTxNext s r v) := by
  have b10 := hm.bit (i := 10) rfl
  unfold setTxNext
  repeat' (first
    | (with_reducible first
        | assumption | intro _ | (fail_if_no_progress refine keeps_pool _ b10 ?_))
    | split)

theorem txTake_keeps {pm : Nat} {org : State} (hm : Within 1024 pm) (s : State) (r : Nat) (run : List (List Byte)) (cause
    : Option Nat) (h : Keeps pm org s) : Keeps pm org (txTake s r run cause) := by
  have k1024 : Within 1024 pm := hm.sub rfl
  have b10 := hm.bit (i := 10) rfl
  unfold txTake
  repeat' (first
    | (with_reducible first
        | assumption | intro _ | apply setTxNext_keeps k1024 | (fail_if_no_progress refine keeps_pool _ b10 ?_))
    | split)

theorem txFrees_keeps {pm : Nat} {org : State} (hm : Within 1024 pm) (s : State) (r : Nat) (first : Nat) (run : List
    (List Byte)) (h : Keeps pm org s) : Keeps pm org (txFrees s r first run) := by
  have b10 := hm.bit (i := 10) rfl
  unfold txFrees
  repeat' (first
    | (with_reducible first
        | assumption | intro _ | (fail_if_no_progress refine keeps_pool _ b10 ?_))
    | split)

theorem execTxFrameFetch_keeps {pm : Nat} {org : State} (hm : Within 1056 pm) (ring : Fin 1024) (descs : List (List
    Byte)) (octets : List Byte) (s : State) (h : Keeps pm org s) : KeepsO pm org (execTxFrameFetch ring descs octets s)
    := by
  have k0 : Within 0 pm := hm.sub rfl
  have k32 : Within 32 pm := hm.sub rfl
  have k1024 : Within 1024 pm := hm.sub rfl
  have b10 := hm.bit (i := 10) rfl
  unfold execTxFrameFetch
  repeat' (first
    | (with_reducible first
        | assumption | intro _ | apply addFrame_keeps k32 | apply txFrees_keeps k1024 | apply txTake_keeps k1024
        | apply onlyIf_keeps | apply keeps_ite | apply keeps_ite_fst | apply nextOf_keeps | apply irqEdge_keeps k0
        | (fail_if_no_progress refine keeps_pool _ b10 ?_) | apply keepsO_next)
    | split)

theorem txAdvance_keeps {pm : Nat} {org : State} (hm : Within 5120 pm) (s : State) (r : Nat) (h : Keeps pm org s) : Keeps
    pm org (txAdvance s r) := by
  have k4096 : Within 4096 pm := hm.sub rfl
  have b10 := hm.bit (i := 10) rfl
  unfold txAdvance
  repeat' (first
    | (with_reducible first
        | assumption | intro _ | apply wrF_keeps k4096 | (fail_if_no_progress refine keeps_pool _ b10 ?_))
    | split)

theorem execTxWriteBack_keeps {pm : Nat} {org : State} (hm : Within 5120 pm) (ring : Fin 1024) (first : Nat) (s : State)
    (h : Keeps pm org s) : KeepsO pm org (execTxWriteBack ring first s) := by
  have k0 : Within 0 pm := hm.sub rfl
  have k1024 : Within 1024 pm := hm.sub rfl
  have k5120 : Within 5120 pm := hm.sub rfl
  have b10 := hm.bit (i := 10) rfl
  unfold execTxWriteBack
  repeat' (first
    | (with_reducible first
        | assumption | intro _ | apply emit_keeps k0 | apply frRaise_keeps k1024 | apply txAdvance_keeps k5120
        | apply onlyIf_keeps | apply keeps_ite | apply keeps_ite_fst | apply nextOf_keeps | apply irqEdge_keeps k0
        | (fail_if_no_progress refine keeps_pool _ b10 ?_) | apply keepsO_next)
    | split)

theorem execRingDmaFault_keeps {pm : Nat} {org : State} (hm : Within 37994 pm) (tx : Bool) (ring : Fin 1024) (addr : Nat)
    (descs : List (List Byte)) (s : State) (h : Keeps pm org s) : KeepsO pm org (execRingDmaFault tx ring addr descs s)
    := by
  have k0 : Within 0 pm := hm.sub rfl
  have k1024 : Within 1024 pm := hm.sub rfl
  have k4096 : Within 4096 pm := hm.sub rfl
  have k4104 : Within 4104 pm := hm.sub rfl
  have k37994 : Within 37994 pm := hm.sub rfl
  unfold execRingDmaFault
  repeat' (first
    | (with_reducible first
        | assumption | intro _ | apply post_keeps k4104 | apply rxDrop_keeps k37994 | apply setFrState_keeps k4096
        | apply txTake_keeps k1024 | apply wrB_keeps k4096 | apply onlyIf_keeps | apply keeps_ite | apply keeps_ite_fst
        | apply nextOf_keeps | apply irqEdge_keeps k0 | apply keepsO_next)
    | split)

theorem frFields_keeps {pm : Nat} {org : State} (hm : Within 4096 pm) (s : State) (tx : Bool) (r : Nat) (v : Word) (h :
    Keeps pm org s) : Keeps pm org (frFields s tx r v) := by
  have k4096 : Within 4096 pm := hm.sub rfl
  unfold frFields
  repeat' (first
    | (with_reducible first
        | assumption | intro _ | apply wrF_keeps k4096 | apply keeps_ite | apply keeps_ite_fst)
    | split)

theorem frDisable_keeps {pm : Nat} {org : State} (hm : Within 37994 pm) (s : State) (tx : Bool) (r : Nat) (h : Keeps pm
    org s) : Keeps pm org (frDisable s tx r) := by
  have k1024 : Within 1024 pm := hm.sub rfl
  have k4096 : Within 4096 pm := hm.sub rfl
  have k5120 : Within 5120 pm := hm.sub rfl
  have k37994 : Within 37994 pm := hm.sub rfl
  have b10 := hm.bit (i := 10) rfl
  unfold frDisable
  repeat' (first
    | (with_reducible first
        | assumption | intro _ | apply rxDrop_keeps k37994 | apply setFrState_keeps k4096 | apply setTxNext_keeps k1024
        | apply txAdvance_keeps k5120 | apply wrB_keeps k4096 | apply keeps_ite | apply keeps_ite_fst | apply keeps_foldl
        | apply keeps_foldl_fst | (fail_if_no_progress refine keeps_pool _ b10 ?_))
    | split)

theorem frCtrlWrite_keeps {pm : Nat} {org : State} (hm : Within 37994 pm) (s : State) (tx : Bool) (r : Nat) (mask value :
    Word) (h : Keeps pm org s) : Keeps pm org (frCtrlWrite s tx r mask value) := by
  have k4096 : Within 4096 pm := hm.sub rfl
  have k37994 : Within 37994 pm := hm.sub rfl
  unfold frCtrlWrite
  repeat' (first
    | (with_reducible first
        | assumption | intro _ | apply frDisable_keeps k37994 | apply frFields_keeps k4096 | apply setFrState_keeps k4096
        | apply wrB_keeps k4096 | apply keeps_ite | apply keeps_ite_fst)
    | split)

theorem frBaseWrite_keeps {pm : Nat} {org : State} (hm : Within 4096 pm) (s : State) (tx : Bool) (r : Nat) (mask value :
    Word) (h : Keeps pm org s) : Keeps pm org (frBaseWrite s tx r mask value) := by
  have k4096 : Within 4096 pm := hm.sub rfl
  unfold frBaseWrite
  repeat' (first
    | (with_reducible first
        | assumption | intro _ | apply wr_keeps k4096 | apply keeps_ite | apply keeps_ite_fst)
    | split)

end Sys2Proof.Machine
end

