-- ==== Sys2Proof/Laws/KeepsI.lean ====
section
/-! SUPPORT. Keeps, for every operation of Machine/: Rings.lean, RingReset.lean, Peals.lean, Resets.lean,
RecorderCmds.lean, CaseCmds.lean. -/

set_option linter.unusedTactic false
set_option linter.unreachableTactic false
set_option linter.unusedVariables false

namespace Sys2Proof.Machine

theorem foreignRing_keeps {pm : Nat} {org : State} (hm : Within 4104 pm) (s : State) (w : Who) (off : Nat) (h : Keeps pm
    org s) : Keeps pm org (foreignRing s w off) := by
  have k4104 : Within 4104 pm := hm.sub rfl
  unfold foreignRing
  repeat' (first
    | (with_reducible first
        | assumption | intro _ | apply accessErr_keeps k4104 | apply keeps_ite | apply keeps_ite_fst)
    | split)

theorem dbErr_keeps {pm : Nat} {org : State} (hm : Within 4104 pm) (s : State) (n v : Nat) (h : Keeps pm org s) : Keeps
    pm org (dbErr s n v) := by
  have k4096 : Within 4096 pm := hm.sub rfl
  have k4104 : Within 4104 pm := hm.sub rfl
  unfold dbErr
  repeat' (first | (with_reducible first | assumption | apply postHw_keeps k4104 | apply wrB_keeps k4096) | split)

theorem takeDoorbell_keeps {pm : Nat} {org : State} (hm : Within 4138 pm) (s : State) (n v : Nat) (opcodes : List Nat) (h
    : Keeps pm org s) : Keeps pm org (takeDoorbell s n v opcodes) := by
  have k2 : Within 2 pm := hm.sub rfl
  have k4096 : Within 4096 pm := hm.sub rfl
  have k4106 : Within 4106 pm := hm.sub rfl
  have k4136 : Within 4136 pm := hm.sub rfl
  unfold takeDoorbell
  repeat' (first
    | (with_reducible first
        | assumption | apply replicate_keeps k4136 | apply setRt_keeps k2 | apply startProgram_keeps k4106
        | apply wrF_keeps k4096)
    | split)

theorem execRingDoorbell_keeps {pm : Nat} {org : State} (hm : Within 4138 pm) (ring : Fin 64) (w : DbWrite) (opcodes :
    List Nat) (s : State) (h : Keeps pm org s) : KeepsO pm org (execRingDoorbell ring w opcodes s) := by
  have k0 : Within 0 pm := hm.sub rfl
  have k4104 : Within 4104 pm := hm.sub rfl
  have k4138 : Within 4138 pm := hm.sub rfl
  unfold execRingDoorbell
  repeat' (first
    | (with_reducible first
        | assumption | intro _ | apply accessErr_keeps k4104 | apply dbErr_keeps k4104 | apply foreignRing_keeps k4104
        | apply takeDoorbell_keeps k4138 | apply keeps_ite | apply keeps_ite_fst | apply nextOf_keeps
        | apply irqEdge_keeps k0 | apply keepsO_next)
    | split)

theorem execRingFetchErr_keeps {pm : Nat} {org : State} (hm : Within 4104 pm) (ring : Fin 64) (s : State) (h : Keeps pm
    org s) : KeepsO pm org (execRingFetchErr ring s) := by
  have k0 : Within 0 pm := hm.sub rfl
  have k4096 : Within 4096 pm := hm.sub rfl
  have k4104 : Within 4104 pm := hm.sub rfl
  unfold execRingFetchErr
  repeat' (first
    | (with_reducible first
        | assumption | intro _ | apply postHw_keeps k4104 | apply stopRing_keeps k4096 | apply onlyIf_keeps
        | apply nextOf_keeps | apply irqEdge_keeps k0 | apply keepsO_next)
    | split)

theorem cqHeadWrite_keeps {pm : Nat} {org : State} (hm : Within 4106 pm) (s : State) (n : Nat) (mask value : Word) (h :
    Keeps pm org s) : Keeps pm org (cqHeadWrite s n mask value) := by
  have k2 : Within 2 pm := hm.sub rfl
  have k4096 : Within 4096 pm := hm.sub rfl
  have k4098 : Within 4098 pm := hm.sub rfl
  have k4104 : Within 4104 pm := hm.sub rfl
  unfold cqHeadWrite
  repeat' (first
    | (with_reducible first
        | assumption | intro _ | apply dbErr_keeps k4104 | apply refreshFull_keeps k4098 | apply setRt_keeps k2
        | apply wrF_keeps k4096 | apply keeps_ite | apply keeps_ite_fst)
    | split)

theorem writeRecord_keeps {pm : Nat} {org : State} (hm : Within 4098 pm) (s : State) (n : Nat) (x : Rec) (h : Keeps pm
    org s) : Keeps pm org (writeRecord s n x) := by
  have k0 : Within 0 pm := hm.sub rfl
  have k2 : Within 2 pm := hm.sub rfl
  have k4096 : Within 4096 pm := hm.sub rfl
  have k4098 : Within 4098 pm := hm.sub rfl
  unfold writeRecord
  repeat' (first
    | (with_reducible first
        | assumption | intro _ | apply ownerWrite_keeps k0 | apply raise_keeps k0 | apply refreshFull_keeps k4098
        | apply setRt_keeps k2 | apply wrF_keeps k4096 | apply keeps_ite | apply keeps_ite_fst)
    | split)

theorem execCompletionRecordWrite_keeps {pm : Nat} {org : State} (hm : Within 4098 pm) (ring : Fin 64) (s : State) (h :
    Keeps pm org s) : KeepsO pm org (execCompletionRecordWrite ring s) := by
  have k0 : Within 0 pm := hm.sub rfl
  have k4098 : Within 4098 pm := hm.sub rfl
  unfold execCompletionRecordWrite
  repeat' (first
    | (with_reducible first
        | assumption | intro _ | apply refreshFull_keeps k4098 | apply writeRecord_keeps k4098 | apply keeps_ite
        | apply keeps_ite_fst | apply nextOf_keeps | apply irqEdge_keeps k0 | apply keepsO_next)
    | split)

theorem execCqErr_keeps {pm : Nat} {org : State} (hm : Within 4106 pm) (ring : Fin 64) (s : State) (h : Keeps pm org s) :
    KeepsO pm org (execCqErr ring s) := by
  have k0 : Within 0 pm := hm.sub rfl
  have k2 : Within 2 pm := hm.sub rfl
  have k4096 : Within 4096 pm := hm.sub rfl
  have k4104 : Within 4104 pm := hm.sub rfl
  unfold execCqErr
  repeat' (first
    | (with_reducible first
        | assumption | intro _ | apply postHw_keeps k4104 | apply setRt_keeps k2 | apply stopRing_keeps k4096
        | apply onlyIf_keeps | apply nextOf_keeps | apply irqEdge_keeps k0 | apply keepsO_next)
    | split)

theorem execCqStall_keeps {pm : Nat} {org : State} (hm : Within 4106 pm) (ring : Fin 64) (s : State) (h : Keeps pm org s)
    : KeepsO pm org (execCqStall ring s) := by
  have k0 : Within 0 pm := hm.sub rfl
  have k2 : Within 2 pm := hm.sub rfl
  have k4104 : Within 4104 pm := hm.sub rfl
  unfold execCqStall
  repeat' (first
    | (with_reducible first
        | assumption | intro _ | apply postHw_keeps k4104 | apply setRt_keeps k2 | apply onlyIf_keeps | apply nextOf_keeps
        | apply irqEdge_keeps k0 | apply keepsO_next)
    | split)

theorem crCtrlFields_keeps {pm : Nat} {org : State} (hm : Within 4096 pm) (s : State) (n : Nat) (v : Word) (h : Keeps pm
    org s) : Keeps pm org (crCtrlFields s n v) := by
  have k4096 : Within 4096 pm := hm.sub rfl
  unfold crCtrlFields
  repeat' (first
    | (with_reducible first
        | assumption | intro _ | apply wrF_keeps k4096 | apply keeps_ite | apply keeps_ite_fst)
    | split)

theorem crSetEnable_keeps {pm : Nat} {org : State} (hm : Within 4106 pm) (s : State) (n : Nat) (e : Bool) (h : Keeps pm
    org s) : Keeps pm org (crSetEnable s n e) := by
  have k4096 : Within 4096 pm := hm.sub rfl
  have k4098 : Within 4098 pm := hm.sub rfl
  have k4106 : Within 4106 pm := hm.sub rfl
  unfold crSetEnable
  repeat' (first
    | (with_reducible first
        | assumption | intro _ | apply refreshFull_keeps k4098 | apply startProgram_keeps k4106 | apply wrB_keeps k4096
        | apply keeps_ite | apply keeps_ite_fst)
    | split)

theorem endWaiting_keeps {pm : Nat} {org : State} (hm : Within 54414 pm) (s : State) (n : Nat) (h : Keeps pm org s) :
    Keeps pm org (endWaiting s n) := by
  have k0 : Within 0 pm := hm.sub rfl
  have k4096 : Within 4096 pm := hm.sub rfl
  have k20620 : Within 20620 pm := hm.sub rfl
  have k37898 : Within 37898 pm := hm.sub rfl
  have b2 := hm.bit (i := 2) rfl
  unfold endWaiting
  repeat' (first
    | (with_reducible first
        | assumption | intro _ | apply crdRest_keeps k4096 | apply galleyReopen_keeps k20620 | apply ownerWrite_keeps k0
        | apply pallocLeave_keeps k37898 | apply wr_keeps k4096 | apply keeps_ite | apply keeps_ite_fst
        | (fail_if_no_progress refine keeps_forme _ b2 ?_))
    | split)

theorem abortHeld_keeps {pm : Nat} {org : State} (hm : Within 4106 pm) (s : State) (n : Nat) (x : Rec) (h : Keeps pm org
    s) : Keeps pm org (abortHeld s n x) := by
  have k2 : Within 2 pm := hm.sub rfl
  have k4106 : Within 4106 pm := hm.sub rfl
  unfold abortHeld
  repeat' (first
    | (with_reducible first
        | assumption | intro _ | apply abortProgram_keeps k4106 | apply setRt_keeps k2 | apply keeps_ite
        | apply keeps_ite_fst)
    | split)

theorem ringAbort_keeps {pm : Nat} {org : State} (hm : Within 54414 pm) (s : State) (n : Nat) (h : Keeps pm org s) :
    Keeps pm org (ringAbort s n) := by
  have k2 : Within 2 pm := hm.sub rfl
  have k4106 : Within 4106 pm := hm.sub rfl
  have k54414 : Within 54414 pm := hm.sub rfl
  unfold ringAbort
  dsimp only
  repeat' (first
    | (with_reducible first
        | assumption | intro _ | apply abortHeld_keeps k4106 | apply abortProgram_keeps k4106
        | apply completeIns_keeps k4106 | apply endWaiting_keeps k54414 | apply setRt_keeps k2 | apply keeps_ite
        | apply keeps_ite_fst)
    | split | dsimp only)

theorem ringReset_keeps {pm : Nat} {org : State} (hm : Within 54414 pm) (s : State) (n : Nat) (h : Keeps pm org s) :
    Keeps pm org (ringReset s n) := by
  have k2 : Within 2 pm := hm.sub rfl
  have k4096 : Within 4096 pm := hm.sub rfl
  have k4100 : Within 4100 pm := hm.sub rfl
  have k4104 : Within 4104 pm := hm.sub rfl
  have k54414 : Within 54414 pm := hm.sub rfl
  have b1 := hm.bit (i := 1) rfl
  unfold ringReset
  repeat' (first
    | (with_reducible first
        | assumption | intro _ | apply endRole_keeps k4104 | apply endWaiting_keeps k54414 | apply galleyNone_keeps k4100
        | apply setPhase_keeps k4096 | apply setRt_keeps k2 | apply wr_keeps k4096 | apply wrB_keeps k4096
        | apply wrF_keeps k4096 | apply keeps_ite | apply keeps_ite_fst | (fail_if_no_progress refine keeps_ctl _ b1 ?_))
    | split)

theorem ringsReset_keeps {pm : Nat} {org : State} (hm : Within 54414 pm) (s : State) (p : Nat → Bool) (h : Keeps pm org
    s) : Keeps pm org (ringsReset s p) := by
  have k54414 : Within 54414 pm := hm.sub rfl
  unfold ringsReset
  repeat' (first
    | (with_reducible first
        | assumption | intro _ | apply ringReset_keeps k54414 | apply keeps_foldl | apply keeps_foldl_fst)
    | split)

theorem crCtrlWrite_keeps {pm : Nat} {org : State} (hm : Within 54414 pm) (s : State) (n : Nat) (mask value : Word) (h :
    Keeps pm org s) : Keeps pm org (crCtrlWrite s n mask value) := by
  have k4096 : Within 4096 pm := hm.sub rfl
  have k4106 : Within 4106 pm := hm.sub rfl
  have k54414 : Within 54414 pm := hm.sub rfl
  unfold crCtrlWrite
  repeat' (first
    | (with_reducible first
        | assumption | intro _ | apply crCtrlFields_keeps k4096 | apply crSetEnable_keeps k4106
        | apply ringAbort_keeps k54414 | apply ringReset_keeps k54414 | apply keeps_ite | apply keeps_ite_fst)
    | split)

theorem pealFaultEvent_keeps {pm : Nat} {org : State} (hm : Within 4104 pm) (s : State) (k kind at_ : Nat) (h : Keeps pm
    org s) : Keeps pm org (pealFaultEvent s k kind at_) := by
  have k4104 : Within 4104 pm := hm.sub rfl
  unfold pealFaultEvent
  repeat' (first | (with_reducible first | assumption | apply postHw_keeps k4104) | split)

theorem pealEnable_keeps {pm : Nat} {org : State} (hm : Within 4616 pm) (s : State) (k : Nat) (entries : Option (List
    Nat)) (h : Keeps pm org s) : Keeps pm org (pealEnable s k entries) := by
  have k512 : Within 512 pm := hm.sub rfl
  have k4096 : Within 4096 pm := hm.sub rfl
  have k4104 : Within 4104 pm := hm.sub rfl
  have k4608 : Within 4608 pm := hm.sub rfl
  unfold pealEnable
  repeat' (first
    | (with_reducible first
        | assumption | intro _ | apply pealFaultEvent_keeps k4104 | apply setPeal_keeps k512
        | apply setPealNext_keeps k4608 | apply wrB_keeps k4096 | apply keeps_ite | apply keeps_ite_fst)
    | split)

theorem pealDisable_keeps {pm : Nat} {org : State} (hm : Within 4096 pm) (s : State) (k : Nat) (h : Keeps pm org s) :
    Keeps pm org (pealDisable s k) := by
  have k4096 : Within 4096 pm := hm.sub rfl
  unfold pealDisable
  repeat' (first | (with_reducible first | assumption | apply wrB_keeps k4096) | split)

theorem pealCtrlWrite_keeps {pm : Nat} {org : State} (hm : Within 4616 pm) (s : State) (k : Nat) (mask value : Word)
    (entries : Option (List Nat)) (h : Keeps pm org s) : Keeps pm org (pealCtrlWrite s k mask value entries) := by
  have k4096 : Within 4096 pm := hm.sub rfl
  have k4616 : Within 4616 pm := hm.sub rfl
  unfold pealCtrlWrite
  repeat' (first
    | (with_reducible first
        | assumption | intro _ | apply pealDisable_keeps k4096 | apply pealEnable_keeps k4616 | apply wr_keeps k4096
        | apply keeps_ite | apply keeps_ite_fst)
    | split)

theorem pealRegWrite_keeps {pm : Nat} {org : State} (hm : Within 4608 pm) (s : State) (k o : Nat) (mask value : Word) (h
    : Keeps pm org s) : Keeps pm org (pealRegWrite s k o mask value) := by
  have k512 : Within 512 pm := hm.sub rfl
  have k4096 : Within 4096 pm := hm.sub rfl
  unfold pealRegWrite
  repeat' (first
    | (with_reducible first
        | assumption | intro _ | apply setPeal_keeps k512 | apply wr_keeps k4096 | apply keeps_ite | apply keeps_ite_fst
        | apply keeps_elim)
    | split)

theorem pealTake_keeps {pm : Nat} {org : State} (hm : Within 4608 pm) (s : State) (k : Nat) (h : Keeps pm org s) : Keeps
    pm org (pealTake s k).1 := by
  have k512 : Within 512 pm := hm.sub rfl
  have k4608 : Within 4608 pm := hm.sub rfl
  unfold pealTake
  repeat' (first
    | (with_reducible first
        | assumption | intro _ | apply setPeal_keeps k512 | apply setPealNext_keeps k4608 | apply keeps_ite
        | apply keeps_ite_fst)
    | split)

theorem pealSkip_keeps {pm : Nat} {org : State} (hm : Within 4104 pm) (s : State) (k : Nat) (h : Keeps pm org s) : Keeps
    pm org (pealSkip s k) := by
  have k4104 : Within 4104 pm := hm.sub rfl
  unfold pealSkip
  repeat' (first | (with_reducible first | assumption | apply bump_keeps k4104 | apply postRate_keeps k4104) | split)

theorem pealCapture_keeps {pm : Nat} {org : State} (hm : Within 4616 pm) (s : State) (k : Nat) (failAt : Option Nat) (h :
    Keeps pm org s) : Keeps pm org (pealCapture s k failAt) := by
  have k0 : Within 0 pm := hm.sub rfl
  have k512 : Within 512 pm := hm.sub rfl
  have k4096 : Within 4096 pm := hm.sub rfl
  have k4104 : Within 4104 pm := hm.sub rfl
  have k4608 : Within 4608 pm := hm.sub rfl
  unfold pealCapture
  repeat' (first
    | (with_reducible first
        | assumption | intro _ | apply bump_keeps k4104 | apply clearAllLatched_keeps k4096 | apply emit_keeps k0
        | apply pealDisable_keeps k4096 | apply pealFaultEvent_keeps k4104 | apply pealSkip_keeps k4104
        | apply pealTake_keeps k4608 | apply raiseReg_keeps k0 | apply setPeal_keeps k512 | apply wrB_keeps k4096
        | apply wrF_keeps k4096 | apply keeps_ite | apply keeps_ite_fst)
    | split)

theorem pealHold_keeps {pm : Nat} {org : State} (hm : Within 512 pm) (s : State) (h : Keeps pm org s) : Keeps pm org
    (pealHold s) := by
  have k512 : Within 512 pm := hm.sub rfl
  unfold pealHold
  repeat' (first
    | (with_reducible first
        | assumption | intro _ | apply setPeal_keeps k512 | apply keeps_ite | apply keeps_ite_fst | apply keeps_foldl
        | apply keeps_foldl_fst)
    | split)

theorem execPealCapture_keeps {pm : Nat} {org : State} (hm : Within 4616 pm) (k : Fin 16) (s : State) (h : Keeps pm org
    s) : KeepsO pm org (execPealCapture k s) := by
  have k0 : Within 0 pm := hm.sub rfl
  have k512 : Within 512 pm := hm.sub rfl
  have k4616 : Within 4616 pm := hm.sub rfl
  unfold execPealCapture
  repeat' (first
    | (with_reducible first
        | assumption | intro _ | apply pealCapture_keeps k4616 | apply pealHold_keeps k512 | apply onlyIf_keeps
        | apply keeps_ite | apply keeps_ite_fst | apply nextOf_keeps | apply irqEdge_keeps k0 | apply keepsO_next)
    | split)

theorem execPealFault_keeps {pm : Nat} {org : State} (hm : Within 4616 pm) (k : Fin 16) (addr : Nat) (s : State) (h :
    Keeps pm org s) : KeepsO pm org (execPealFault k addr s) := by
  have k0 : Within 0 pm := hm.sub rfl
  have k4616 : Within 4616 pm := hm.sub rfl
  unfold execPealFault
  repeat' (first
    | (with_reducible first
        | assumption | intro _ | apply pealCapture_keeps k4616 | apply onlyIf_keeps | apply nextOf_keeps
        | apply irqEdge_keeps k0 | apply keepsO_next)
    | split)

theorem setDevState_keeps {pm : Nat} {org : State} (hm : Within 4096 pm) (s : State) (v : Nat) (h : Keeps pm org s) :
    Keeps pm org (setDevState s v) := by
  have k4096 : Within 4096 pm := hm.sub rfl
  unfold setDevState
  repeat' (first | (with_reducible first | assumption | apply wrF_keeps k4096) | split)

theorem setResetCause_keeps {pm : Nat} {org : State} (hm : Within 4096 pm) (s : State) (v : Nat) (h : Keeps pm org s) :
    Keeps pm org (setResetCause s v) := by
  have k4096 : Within 4096 pm := hm.sub rfl
  unfold setResetCause
  repeat' (first | (with_reducible first | assumption | apply wrF_keeps k4096) | split)

theorem startRun_keeps {pm : Nat} {org : State} (hm : Within 4136 pm) (s : State) (auto : Nat) (h : Keeps pm org s) :
    Keeps pm org (startRun s auto) := by
  have k32 : Within 32 pm := hm.sub rfl
  have k4096 : Within 4096 pm := hm.sub rfl
  have k4104 : Within 4104 pm := hm.sub rfl
  unfold startRun
  repeat' (first
    | (with_reducible first
        | assumption | intro _ | apply beginPort_keeps k32 | apply postHw_keeps k4104 | apply setDevState_keeps k4096
        | apply keeps_foldl | apply keeps_foldl_fst)
    | split)

theorem journalReset_keeps {pm : Nat} {org : State} (hm : Within 8 pm) (s : State) (kind : Nat) (h : Keeps pm org s) :
    Keeps pm org (journalReset s kind) := by
  have k8 : Within 8 pm := hm.sub rfl
  unfold journalReset
  repeat' (first | (with_reducible first | assumption | apply journal_keeps k8) | split)

theorem emptyPath_keeps {pm : Nat} {org : State} (hm : Within 37930 pm) (s : State) (h : Keeps pm org s) : Keeps pm org
    (emptyPath s) := by
  have k37898 : Within 37898 pm := hm.sub rfl
  have b5 := hm.bit (i := 5) rfl
  have b10 := hm.bit (i := 10) rfl
  unfold emptyPath
  repeat' (first
    | (with_reducible first
        | assumption | intro _ | apply poolLeave_keeps k37898 | apply returnBuf_keeps k37898 | apply keeps_ite
        | apply keeps_ite_fst | apply keeps_foldl | apply keeps_foldl_fst
        | (fail_if_no_progress refine keeps_path_pool _ _ b5 b10 ?_))
    | split)

theorem firstUse_keeps {pm : Nat} {org : State} (hm : Within 709 pm) (s : State) (h : Keeps pm org s) : Keeps pm org
    (firstUse s) := by
  have k4 : Within 4 pm := hm.sub rfl
  have b0 := hm.bit (i := 0) rfl
  have b6 := hm.bit (i := 6) rfl
  have b7 := hm.bit (i := 7) rfl
  have b9 := hm.bit (i := 9) rfl
  unfold firstUse
  repeat' (first
    | (with_reducible first
        | assumption | intro _ | apply setCase_keeps k4
        | (fail_if_no_progress refine keeps_clk_core_learn_mp _ _ _ _ b0 b6 b7 b9 ?_))
    | split)

theorem stopPeals_keeps {pm : Nat} {org : State} (hm : Within 4096 pm) (s : State) (h : Keeps pm org s) : Keeps pm org
    (stopPeals s) := by
  have k4096 : Within 4096 pm := hm.sub rfl
  unfold stopPeals
  repeat' (first
    | (with_reducible first
        | assumption | intro _ | apply pealDisable_keeps k4096 | apply keeps_ite | apply keeps_ite_fst | apply keeps_foldl
        | apply keeps_foldl_fst)
    | split)

theorem warmDown_keeps {pm : Nat} {org : State} (hm : Within 4136 pm) (s : State) (p : Nat) (h : Keeps pm org s) : Keeps
    pm org (warmDown s p) := by
  have k32 : Within 32 pm := hm.sub rfl
  have k4096 : Within 4096 pm := hm.sub rfl
  have k4104 : Within 4104 pm := hm.sub rfl
  have k4128 : Within 4128 pm := hm.sub rfl
  have b5 := hm.bit (i := 5) rfl
  unfold warmDown
  repeat' (first
    | (with_reducible first
        | assumption | intro _ | apply clearFlowControl_keeps k4128 | apply pcsState_keeps k4128
        | apply postHw_keeps k4104 | apply setLiveness_keeps k4096 | apply setSide_keeps k32 | apply wrB_keeps k4096
        | apply wrF_keeps k4096 | apply keeps_ite | apply keeps_ite_fst | (fail_if_no_progress refine keeps_path _ b5 ?_))
    | split)

theorem finishRetire_keeps {pm : Nat} {org : State} (hm : Within 20620 pm) (s : State) (h : Keeps pm org s) : Keeps pm
    org (finishRetire s) := by
  have k4 : Within 4 pm := hm.sub rfl
  have k4096 : Within 4096 pm := hm.sub rfl
  have k4104 : Within 4104 pm := hm.sub rfl
  have k20620 : Within 20620 pm := hm.sub rfl
  have b2 := hm.bit (i := 2) rfl
  unfold finishRetire
  repeat' (first
    | (with_reducible first
        | assumption | intro _ | apply makeAll_keeps k20620 | apply postHw_keeps k4104 | apply setPrev_keeps k4096
        | apply setTodo_keeps k4 | apply keeps_ite | apply keeps_ite_fst
        | (fail_if_no_progress refine keeps_forme _ b2 ?_))
    | split)

theorem warmReset_keeps {pm : Nat} {org : State} (hm : Within 65263 pm) (s : State) (h : Keeps pm org s) : Keeps pm org
    (warmReset s) := by
  have k8 : Within 8 pm := hm.sub rfl
  have k32 : Within 32 pm := hm.sub rfl
  have k709 : Within 709 pm := hm.sub rfl
  have k4096 : Within 4096 pm := hm.sub rfl
  have k4104 : Within 4104 pm := hm.sub rfl
  have k4136 : Within 4136 pm := hm.sub rfl
  have k6152 : Within 6152 pm := hm.sub rfl
  have k12288 : Within 12288 pm := hm.sub rfl
  have k20620 : Within 20620 pm := hm.sub rfl
  have k37930 : Within 37930 pm := hm.sub rfl
  unfold warmReset
  repeat' (first
    | (with_reducible first
        | assumption | intro _ | apply abandonSave_keeps k6152 | apply beginPort_keeps k32
        | apply clearCounters_keeps k12288 | apply closeAllWindows_keeps k6152 | apply emptyPath_keeps k37930
        | apply finishRetire_keeps k20620 | apply firstUse_keeps k709 | apply journalReset_keeps k8
        | apply postHw_keeps k4104 | apply setResetCause_keeps k4096 | apply stopPeals_keeps k4096
        | apply takeMode_keeps k4104 | apply warmDown_keeps k4136 | apply keeps_ite | apply keeps_ite_fst
        | apply keeps_foldl | apply keeps_foldl_fst)
    | split)

theorem saveStart_keeps {pm : Nat} {org : State} (hm : Within 6144 pm) (s : State) (h : Keeps pm org s) : Keeps pm org
    (saveStart s) := by
  have k2048 : Within 2048 pm := hm.sub rfl
  have k4096 : Within 4096 pm := hm.sub rfl
  have b11 := hm.bit (i := 11) rfl
  unfold saveStart
  repeat' (first
    | (with_reducible first
        | assumption | intro _ | apply setBootSlot_keeps k2048 | apply wrB_keeps k4096 | apply keeps_ite
        | apply keeps_ite_fst | (fail_if_no_progress refine keeps_pwr _ b11 ?_))
    | split)

theorem thermRefresh_keeps {pm : Nat} {org : State} (hm : Within 6152 pm) (s : State) (h : Keeps pm org s) : Keeps pm org
    (thermRefresh s) := by
  have k4096 : Within 4096 pm := hm.sub rfl
  have k4104 : Within 4104 pm := hm.sub rfl
  have b11 := hm.bit (i := 11) rfl
  unfold thermRefresh
  dsimp only
  repeat' (first
    | (with_reducible first
        | assumption | intro _ | apply postHw_keeps k4104 | apply wrB_keeps k4096 | apply wrF_keeps k4096
        | apply keeps_ite | apply keeps_ite_fst | (fail_if_no_progress refine keeps_pwr _ b11 ?_))
    | split | dsimp only)

theorem execRecordWrite_keeps {pm : Nat} {org : State} (hm : Within 6152 pm) (fromJournal : Bool) (ok1 : Bool) (retry :
    Fin 3) (s : State) (h : Keeps pm org s) : KeepsO pm org (execRecordWrite fromJournal ok1 retry s) := by
  have k0 : Within 0 pm := hm.sub rfl
  have k6152 : Within 6152 pm := hm.sub rfl
  have b3 := hm.bit (i := 3) rfl
  unfold execRecordWrite
  repeat' (first
    | (with_reducible first
        | assumption | intro _ | apply handleEvent_keeps k6152 | apply writeTo_keeps k6152 | apply keeps_ite
        | apply keeps_ite_fst | apply nextOf_keeps | apply irqEdge_keeps k0
        | (fail_if_no_progress refine keeps_rcd _ b3 ?_) | apply keepsO_next)
    | split)

theorem execCoalesceWindowClose_keeps {pm : Nat} {org : State} (hm : Within 6152 pm) (s : State) (h : Keeps pm org s) :
    KeepsO pm org (execCoalesceWindowClose s) := by
  have k0 : Within 0 pm := hm.sub rfl
  have k6152 : Within 6152 pm := hm.sub rfl
  have b3 := hm.bit (i := 3) rfl
  unfold execCoalesceWindowClose
  repeat' (first
    | (with_reducible first
        | assumption | intro _ | apply closeWindow_keeps k6152 | apply onlyIf_keeps | apply nextOf_keeps
        | apply irqEdge_keeps k0 | (fail_if_no_progress refine keeps_rcd _ b3 ?_) | apply keepsO_next)
    | split)

theorem execHoursCellWrite_keeps {pm : Nat} {org : State} (hm : Within 8 pm) (s : State) (h : Keeps pm org s) : KeepsO pm
    org (execHoursCellWrite s) := by
  have k0 : Within 0 pm := hm.sub rfl
  have b3 := hm.bit (i := 3) rfl
  unfold execHoursCellWrite
  repeat' (first
    | (with_reducible first
        | assumption | intro _ | apply onlyIf_keeps | apply nextOf_keeps | apply irqEdge_keeps k0
        | (fail_if_no_progress refine keeps_rcd _ b3 ?_) | apply keepsO_next)
    | split)

theorem recCtrlWrite_keeps {pm : Nat} {org : State} (hm : Within 36872 pm) (s : State) (mask value : Word) (pass : Bool)
    (h : Keeps pm org s) : Keeps pm org (recCtrlWrite s mask value pass) := by
  have k4096 : Within 4096 pm := hm.sub rfl
  have k4104 : Within 4104 pm := hm.sub rfl
  have b3 := hm.bit (i := 3) rfl
  have b15 := hm.bit (i := 15) rfl
  unfold recCtrlWrite
  repeat' (first
    | (with_reducible first
        | assumption | intro _ | apply putRecord_keeps k4104 | apply recNotify_keeps k4096 | apply wrB_keeps k4096
        | apply wrF_keeps k4096 | apply keeps_ite | apply keeps_ite_fst
        | (fail_if_no_progress refine keeps_fresh_rcd _ b3 b15 ?_))
    | split)

theorem execLearnOperation_keeps {pm : Nat} {org : State} (hm : Within 4300 pm) (s : State) (h : Keeps pm org s) : KeepsO
    pm org (execLearnOperation s) := by
  have k0 : Within 0 pm := hm.sub rfl
  have k4300 : Within 4300 pm := hm.sub rfl
  have b7 := hm.bit (i := 7) rfl
  unfold execLearnOperation
  repeat' (first
    | (with_reducible first
        | assumption | intro _ | apply caseTurn_keeps k0 | apply learnAct_keeps k4300 | apply nextOf_keeps
        | apply irqEdge_keeps k0 | (fail_if_no_progress refine keeps_learn _ b7 ?_) | apply keepsO_next)
    | split)

theorem execRebalancerRetry_keeps {pm : Nat} {org : State} (hm : Within 4300 pm) (s : State) (h : Keeps pm org s) :
    KeepsO pm org (execRebalancerRetry s) := by
  have k0 : Within 0 pm := hm.sub rfl
  have k4300 : Within 4300 pm := hm.sub rfl
  have b7 := hm.bit (i := 7) rfl
  unfold execRebalancerRetry
  repeat' (first
    | (with_reducible first
        | assumption | intro _ | apply caseTurn_keeps k0 | apply learnAct_keeps k4300 | apply nextOf_keeps
        | apply irqEdge_keeps k0 | (fail_if_no_progress refine keeps_learn _ b7 ?_) | apply keepsO_next)
    | split)

theorem execAgeClockTick_keeps {pm : Nat} {org : State} (hm : Within 128 pm) (s : State) (h : Keeps pm org s) : KeepsO pm
    org (execAgeClockTick s) := by
  have k0 : Within 0 pm := hm.sub rfl
  have b7 := hm.bit (i := 7) rfl
  unfold execAgeClockTick
  repeat' (first
    | (with_reducible first
        | assumption | intro _ | apply onlyIf_keeps | apply nextOf_keeps | apply irqEdge_keeps k0
        | (fail_if_no_progress refine keeps_learn _ b7 ?_) | apply keepsO_next)
    | split)

theorem execAgeingRemoval_keeps {pm : Nat} {org : State} (hm : Within 4236 pm) (bd mac : Nat) (s : State) (h : Keeps pm
    org s) : KeepsO pm org (execAgeingRemoval bd mac s) := by
  have k0 : Within 0 pm := hm.sub rfl
  have k4 : Within 4 pm := hm.sub rfl
  have k4232 : Within 4232 pm := hm.sub rfl
  unfold execAgeingRemoval
  repeat' (first
    | (with_reducible first
        | assumption | intro _ | apply caseTurn_keeps k0 | apply learnRecord_keeps k4232 | apply removeEnt_keeps k4
        | apply onlyIf_keeps | apply nextOf_keeps | apply irqEdge_keeps k0 | apply keepsO_next)
    | split)

theorem learnFlushWrite_keeps {pm : Nat} {org : State} (hm : Within 4224 pm) (s : State) (value : Word) (h : Keeps pm org
    s) : Keeps pm org (learnFlushWrite s value) := by
  have k4096 : Within 4096 pm := hm.sub rfl
  have b7 := hm.bit (i := 7) rfl
  unfold learnFlushWrite
  repeat' (first
    | (with_reducible first
        | assumption | intro _ | apply wrB_keeps k4096 | apply keeps_ite | apply keeps_ite_fst
        | (fail_if_no_progress refine keeps_learn _ b7 ?_))
    | split)

theorem execFlushComplete_keeps {pm : Nat} {org : State} (hm : Within 4236 pm) (s : State) (h : Keeps pm org s) : KeepsO
    pm org (execFlushComplete s) := by
  have k0 : Within 0 pm := hm.sub rfl
  have k4 : Within 4 pm := hm.sub rfl
  have k4104 : Within 4104 pm := hm.sub rfl
  have k4232 : Within 4232 pm := hm.sub rfl
  have b7 := hm.bit (i := 7) rfl
  unfold execFlushComplete
  repeat' (first
    | (with_reducible first
        | assumption | intro _ | apply caseTurn_keeps k0 | apply learnRecord_keeps k4232 | apply postRate_keeps k4104
        | apply setCase_keeps k4 | apply keeps_ite | apply keeps_ite_fst | apply keeps_foldl | apply keeps_foldl_fst
        | apply nextOf_keeps | apply irqEdge_keeps k0 | (fail_if_no_progress refine keeps_learn _ b7 ?_)
        | apply keepsO_next)
    | split)

theorem seedWrite_keeps {pm : Nat} {org : State} (hm : Within 4096 pm) (s : State) (i : Nat) (mask value : Word) (h :
    Keeps pm org s) : Keeps pm org (seedWrite s i mask value) := by
  have k4096 : Within 4096 pm := hm.sub rfl
  unfold seedWrite
  repeat' (first
    | (with_reducible first
        | assumption | intro _ | apply wr_keeps k4096 | apply keeps_ite | apply keeps_ite_fst)
    | split)

end Sys2Proof.Machine
end

