-- ==== Sys2Proof/Laws/KeepsJ.lean ====
section
/-! SUPPORT. Keeps, for every operation of Machine/: RegWrite.lean, Gate.lean, BootImages.lean, Mailbox.lean. -/

set_option linter.unusedTactic false
set_option linter.unreachableTactic false
set_option linter.unusedVariables false

namespace Sys2Proof.Machine

theorem plainWrite_keeps {pm : Nat} {org : State} (hm : Within 4096 pm) (s : State) (o : Nat) (mask value : Word) (h :
    Keeps pm org s) : Keeps pm org (plainWrite s o mask value) := by
  have k4096 : Within 4096 pm := hm.sub rfl
  unfold plainWrite
  repeat' (first | (with_reducible first | assumption | intro _ | apply wr_keeps k4096) | split)

theorem keyErr_keeps {pm : Nat} {org : State} (hm : Within 4104 pm) (s : State) (o : Nat) (h : Keeps pm org s) : Keeps pm
    org (keyErr s o).1 := by
  have k4104 : Within 4104 pm := hm.sub rfl
  unfold keyErr
  repeat' (first | (with_reducible first | assumption | apply accessErr_keeps k4104) | split)

theorem devCtrlWrite_keeps {pm : Nat} {org : State} (hm : Within 65263 pm) (s : State) (o : Nat) (v : Word) (h : Keeps pm
    org s) : Keeps pm org (devCtrlWrite s o v).1 := by
  have k4104 : Within 4104 pm := hm.sub rfl
  have k4136 : Within 4136 pm := hm.sub rfl
  have k65263 : Within 65263 pm := hm.sub rfl
  unfold devCtrlWrite
  repeat' (first
    | (with_reducible first
        | assumption | intro _ | apply keyErr_keeps k4104 | apply startRun_keeps k4136 | apply warmReset_keeps k65263
        | apply keeps_ite | apply keeps_ite_fst)
    | split)

theorem hostCfgWrite_keeps {pm : Nat} {org : State} (hm : Within 6144 pm) (s : State) (mask value : Word) (h : Keeps pm
    org s) : Keeps pm org (hostCfgWrite s mask value) := by
  have k4096 : Within 4096 pm := hm.sub rfl
  have b11 := hm.bit (i := 11) rfl
  unfold hostCfgWrite
  repeat' (first
    | (with_reducible first
        | assumption | apply wrB_keeps k4096 | (fail_if_no_progress refine keeps_pwr _ b11 ?_))
    | split)

theorem irqCtrlWrite_keeps {pm : Nat} {org : State} (hm : Within 4096 pm) (s : State) (o : Nat) (mask value : Word) (h :
    Keeps pm org s) : Keeps pm org (irqCtrlWrite s o mask value) := by
  have k0 : Within 0 pm := hm.sub rfl
  have k4096 : Within 4096 pm := hm.sub rfl
  unfold irqCtrlWrite
  repeat' (first
    | (with_reducible first
        | assumption | intro _ | apply plainWrite_keeps k4096 | apply raiseSummary_keeps k0 | apply keeps_ite
        | apply keeps_ite_fst)
    | split)

theorem bootCtrlWrite_keeps {pm : Nat} {org : State} (hm : Within 6152 pm) (s : State) (o : Nat) (mask value : Word) (h :
    Keeps pm org s) : Keeps pm org (bootCtrlWrite s o mask value).1 := by
  have k4104 : Within 4104 pm := hm.sub rfl
  have k6144 : Within 6144 pm := hm.sub rfl
  have b11 := hm.bit (i := 11) rfl
  unfold bootCtrlWrite
  repeat' (first
    | (with_reducible first
        | assumption | intro _ | apply keyErr_keeps k4104 | apply saveStart_keeps k6144 | apply keeps_ite
        | apply keeps_ite_fst | (fail_if_no_progress refine keeps_pwr _ b11 ?_))
    | split)

theorem mbxCtrlWrite_keeps {pm : Nat} {org : State} (hm : Within 4096 pm) (s : State) (c : Nat) (mask value : Word) (h :
    Keeps pm org s) : Keeps pm org (mbxCtrlWrite s c mask value).1 := by
  have k4096 : Within 4096 pm := hm.sub rfl
  unfold mbxCtrlWrite
  repeat' (first
    | (with_reducible first
        | assumption | intro _ | apply plainWrite_keeps k4096 | apply wrB_keeps k4096 | apply keeps_ite
        | apply keeps_ite_fst)
    | split)

theorem maintCtrlWrite_keeps {pm : Nat} {org : State} (hm : Within 4680 pm) (s : State) (mask value : Word) (h : Keeps pm
    org s) : Keeps pm org (maintCtrlWrite s mask value) := by
  have k4096 : Within 4096 pm := hm.sub rfl
  have k4680 : Within 4680 pm := hm.sub rfl
  have b9 := hm.bit (i := 9) rfl
  unfold maintCtrlWrite
  repeat' (first
    | (with_reducible first
        | assumption | intro _ | apply maintAsk_keeps k4680 | apply maintDrain_keeps k4680 | apply maintStatus_keeps k4096
        | apply plainWrite_keeps k4096 | apply keeps_foldl | apply keeps_foldl_fst
        | (fail_if_no_progress refine keeps_mp _ b9 ?_))
    | split)

theorem lowWrite_keeps {pm : Nat} {org : State} (hm : Within 65263 pm) (s : State) (o : Nat) (mask value : Word) (h :
    Keeps pm org s) : Keeps pm org (lowWrite s o mask value).1 := by
  have k32 : Within 32 pm := hm.sub rfl
  have k4096 : Within 4096 pm := hm.sub rfl
  have k4680 : Within 4680 pm := hm.sub rfl
  have k6144 : Within 6144 pm := hm.sub rfl
  have k6152 : Within 6152 pm := hm.sub rfl
  have k65263 : Within 65263 pm := hm.sub rfl
  unfold lowWrite
  repeat' (first
    | (with_reducible first
        | assumption | intro _ | apply bootCtrlWrite_keeps k6152 | apply devCtrlWrite_keeps k65263
        | apply fragFlush_keeps k32 | apply hostCfgWrite_keeps k6144 | apply irqCtrlWrite_keeps k4096
        | apply maintCtrlWrite_keeps k4680 | apply mbxCtrlWrite_keeps k4096 | apply plainWrite_keeps k4096
        | apply thermRefresh_keeps k6152 | apply keeps_ite | apply keeps_ite_fst)
    | split)

theorem learnCtrlWrite_keeps {pm : Nat} {org : State} (hm : Within 4096 pm) (s : State) (mask value : Word) (h : Keeps pm
    org s) : Keeps pm org (learnCtrlWrite s mask value) := by
  have k4096 : Within 4096 pm := hm.sub rfl
  unfold learnCtrlWrite
  repeat' (first
    | (with_reducible first
        | assumption | intro _ | apply plainWrite_keeps k4096 | apply wrF_keeps k4096 | apply keeps_ite
        | apply keeps_ite_fst)
    | split)

theorem windowWrite_keeps {pm : Nat} {org : State} (hm : Within 4808 pm) (s : State) (o : Nat) (mask value : Word) (env :
    WriteEnv) (h : Keeps pm org s) : Keeps pm org (windowWrite s o mask value env).1 := by
  have k64 : Within 64 pm := hm.sub rfl
  have k4096 : Within 4096 pm := hm.sub rfl
  have k4104 : Within 4104 pm := hm.sub rfl
  have k4160 : Within 4160 pm := hm.sub rfl
  have k4224 : Within 4224 pm := hm.sub rfl
  have k4608 : Within 4608 pm := hm.sub rfl
  have k4616 : Within 4616 pm := hm.sub rfl
  have b7 := hm.bit (i := 7) rfl
  have b9 := hm.bit (i := 9) rfl
  unfold windowWrite
  repeat' (first
    | (with_reducible first
        | assumption | intro _ | apply coreCtrlWrite_keeps k4104 | apply fixBucket_keeps k64
        | apply forceEvents_keeps k4104 | apply learnCtrlWrite_keeps k4096 | apply learnFlushWrite_keeps k4224
        | apply pealCtrlWrite_keeps k4616 | apply pealRegWrite_keeps k4608 | apply plainWrite_keeps k4096
        | apply seedWrite_keeps k4096 | apply stormWrite_keeps k4160 | apply keeps_ite | apply keeps_ite_fst
        | (fail_if_no_progress refine keeps_learn _ b7 ?_) | (fail_if_no_progress refine keeps_mp _ b9 ?_))
    | split)

theorem ctrlReset_keeps {pm : Nat} {org : State} (hm : Within 54414 pm) (s : State) (flush : State → State) (hflush : ∀
    y0, Keeps pm org y0 → Keeps pm org (flush y0)) (h : Keeps pm org s) : Keeps pm org (ctrlReset s flush) := by
  have k4096 : Within 4096 pm := hm.sub rfl
  have k54414 : Within 54414 pm := hm.sub rfl
  unfold ctrlReset
  repeat' (first
    | (with_reducible first
        | assumption | intro _ | apply ringsReset_keeps k54414 | apply setClaveMode_keeps k4096
        | apply setClaveState_keeps k4096 | apply hflush)
    | split)

theorem claveCtrlWrite_keeps {pm : Nat} {org : State} (hm : Within 54414 pm) (s : State) (mask value : Word) (flush :
    State → State) (hflush : ∀ y0, Keeps pm org y0 → Keeps pm org (flush y0)) (h : Keeps pm org s) : Keeps pm org
    (claveCtrlWrite s mask value flush) := by
  have k4096 : Within 4096 pm := hm.sub rfl
  have k54414 : Within 54414 pm := hm.sub rfl
  unfold claveCtrlWrite
  repeat' (first
    | (with_reducible first
        | assumption | intro _ | apply ctrlReset_keeps k54414 | apply plainWrite_keeps k4096 | apply keeps_ite
        | apply keeps_ite_fst | apply hflush)
    | split)

theorem ringRegWrite_keeps {pm : Nat} {org : State} (hm : Within 54414 pm) (s : State) (n o : Nat) (mask value : Word) (h
    : Keeps pm org s) : Keeps pm org (ringRegWrite s n o mask value).1 := by
  have k4096 : Within 4096 pm := hm.sub rfl
  have k4106 : Within 4106 pm := hm.sub rfl
  have k54414 : Within 54414 pm := hm.sub rfl
  unfold ringRegWrite
  repeat' (first
    | (with_reducible first
        | assumption | intro _ | apply cqHeadWrite_keeps k4106 | apply crCtrlWrite_keeps k54414
        | apply plainWrite_keeps k4096 | apply keeps_ite | apply keeps_ite_fst)
    | split)

theorem poolRegWrite_keeps {pm : Nat} {org : State} (hm : Within 37994 pm) (s : State) (o : Nat) (mask value : Word) (h :
    Keeps pm org s) : Keeps pm org (poolRegWrite s o mask value).1 := by
  have k4096 : Within 4096 pm := hm.sub rfl
  have k5120 : Within 5120 pm := hm.sub rfl
  have k37994 : Within 37994 pm := hm.sub rfl
  unfold poolRegWrite
  repeat' (first
    | (with_reducible first
        | assumption | intro _ | apply frBaseWrite_keeps k4096 | apply frCtrlWrite_keeps k37994
        | apply plainWrite_keeps k4096 | apply poolBaseWrite_keeps k4096 | apply poolCfgWrite_keeps k5120
        | apply keeps_ite | apply keeps_ite_fst)
    | split)

theorem domCtrlWrite_keeps {pm : Nat} {org : State} (hm : Within 4097 pm) (s : State) (o : Nat) (mask value : Word) (h :
    Keeps pm org s) : Keeps pm org (domCtrlWrite s o mask value) := by
  have k4096 : Within 4096 pm := hm.sub rfl
  have b0 := hm.bit (i := 0) rfl
  unfold domCtrlWrite
  repeat' (first
    | (with_reducible first
        | assumption | intro _ | apply plainWrite_keeps k4096 | apply keeps_ite | apply keeps_ite_fst
        | (fail_if_no_progress refine keeps_clk _ b0 ?_))
    | split)

theorem ppsInWrite_keeps {pm : Nat} {org : State} (hm : Within 4160 pm) (s : State) (o : Nat) (mask value : Word) (h :
    Keeps pm org s) : Keeps pm org (ppsInWrite s o mask value) := by
  have k4096 : Within 4096 pm := hm.sub rfl
  have b6 := hm.bit (i := 6) rfl
  unfold ppsInWrite
  repeat' (first
    | (with_reducible first
        | assumption | intro _ | apply plainWrite_keeps k4096 | apply keeps_ite | apply keeps_ite_fst
        | (fail_if_no_progress refine keeps_core _ b6 ?_))
    | split)

theorem timeWrite_keeps {pm : Nat} {org : State} (hm : Within 4161 pm) (s : State) (o : Nat) (mask value : Word) (h :
    Keeps pm org s) : Keeps pm org (timeWrite s o mask value).1 := by
  have k4096 : Within 4096 pm := hm.sub rfl
  have k4097 : Within 4097 pm := hm.sub rfl
  have k4160 : Within 4160 pm := hm.sub rfl
  have b6 := hm.bit (i := 6) rfl
  unfold timeWrite
  repeat' (first
    | (with_reducible first
        | assumption | intro _ | apply domCtrlWrite_keeps k4097 | apply plainWrite_keeps k4096
        | apply ppsInWrite_keeps k4160 | apply timeCtrlWrite_keeps k4096 | apply keeps_ite | apply keeps_ite_fst
        | (fail_if_no_progress refine keeps_core _ b6 ?_))
    | split)

theorem portWrite_keeps {pm : Nat} {org : State} (hm : Within 5352 pm) (s : State) (o : Nat) (mask value : Word) (h :
    Keeps pm org s) : Keeps pm org (portWrite s o mask value).1 := by
  have k32 : Within 32 pm := hm.sub rfl
  have k4096 : Within 4096 pm := hm.sub rfl
  have k5352 : Within 5352 pm := hm.sub rfl
  unfold portWrite
  dsimp only
  repeat' (first
    | (with_reducible first
        | assumption | intro _ | apply beginPort_keeps k32 | apply plainWrite_keeps k4096 | apply portCfgWrite_keeps k5352
        | apply takeDown_keeps k5352 | apply keeps_ite | apply keeps_ite_fst | apply keeps_elim)
    | split | dsimp only)

theorem saLeave_keeps {pm : Nat} {org : State} (hm : Within 4096 pm) (t : State) (o : Option Nat) (h : Keeps pm org t) :
    Keeps pm org (saLeave t o) := by
  have k4096 : Within 4096 pm := hm.sub rfl
  unfold saLeave
  repeat' (first
    | (with_reducible first
        | assumption | intro _ | apply setSaState_keeps k4096 | apply keeps_ite | apply keeps_ite_fst)
    | split)

theorem saEnter_keeps {pm : Nat} {org : State} (hm : Within 4096 pm) (t : State) (o : Option Nat) (h : Keeps pm org t) :
    Keeps pm org (saEnter t o) := by
  have k4096 : Within 4096 pm := hm.sub rfl
  unfold saEnter
  repeat' (first
    | (with_reducible first
        | assumption | intro _ | apply setSaState_keeps k4096 | apply keeps_ite | apply keeps_ite_fst)
    | split)

theorem secySaWrite_keeps {pm : Nat} {org : State} (hm : Within 4096 pm) (s : State) (i : Nat) (mask value : Word) (h :
    Keeps pm org s) : Keeps pm org (secySaWrite s i mask value) := by
  have k4096 : Within 4096 pm := hm.sub rfl
  unfold secySaWrite
  repeat' (first
    | (with_reducible first
        | assumption | apply plainWrite_keeps k4096 | apply saEnter_keeps k4096 | apply saLeave_keeps k4096)
    | split)

theorem cipherWrite_keeps {pm : Nat} {org : State} (hm : Within 6408 pm) (s : State) (o : Nat) (mask value : Word)
    (operator_ : Nat) (h : Keeps pm org s) : Keeps pm org (cipherWrite s o mask value operator_).1 := by
  have k4096 : Within 4096 pm := hm.sub rfl
  have k4104 : Within 4104 pm := hm.sub rfl
  have k6408 : Within 6408 pm := hm.sub rfl
  have b11 := hm.bit (i := 11) rfl
  unfold cipherWrite
  repeat' (first
    | (with_reducible first
        | assumption | intro _ | apply cipherModeWrite_keeps k6408 | apply forceEvents_keeps k4104
        | apply plainWrite_keeps k4096 | apply secySaWrite_keeps k4096 | apply txCurWrite_keeps k4096 | apply keeps_ite
        | apply keeps_ite_fst | (fail_if_no_progress refine keeps_pwr _ b11 ?_))
    | split)

theorem perfWrite_keeps {pm : Nat} {org : State} (hm : Within 4160 pm) (s : State) (o : Nat) (mask value : Word) (h :
    Keeps pm org s) : Keeps pm org (perfWrite s o mask value) := by
  have k4096 : Within 4096 pm := hm.sub rfl
  have b6 := hm.bit (i := 6) rfl
  unfold perfWrite
  repeat' (first
    | (with_reducible first
        | assumption | intro _ | apply plainWrite_keeps k4096 | apply keeps_ite | apply keeps_ite_fst
        | (fail_if_no_progress refine keeps_core _ b6 ?_))
    | split)

theorem regWrite_keeps {pm : Nat} {org : State} (hm : Within 65519 pm) (s : State) (o : Nat) (mask value : Word) (env :
    WriteEnv) (operator_ : Nat) (flush : State → State) (hflush : ∀ y0, Keeps pm org y0 → Keeps pm org (flush y0)) (h :
    Keeps pm org s) : Keeps pm org (regWrite s o mask value env operator_ flush).1 := by
  have k4096 : Within 4096 pm := hm.sub rfl
  have k4160 : Within 4160 pm := hm.sub rfl
  have k4161 : Within 4161 pm := hm.sub rfl
  have k4808 : Within 4808 pm := hm.sub rfl
  have k5352 : Within 5352 pm := hm.sub rfl
  have k6408 : Within 6408 pm := hm.sub rfl
  have k36872 : Within 36872 pm := hm.sub rfl
  have k37994 : Within 37994 pm := hm.sub rfl
  have k54414 : Within 54414 pm := hm.sub rfl
  have k65263 : Within 65263 pm := hm.sub rfl
  unfold regWrite
  repeat' (first
    | (with_reducible first
        | assumption | intro _ | apply cipherWrite_keeps k6408 | apply claveCtrlWrite_keeps k54414
        | apply lowWrite_keeps k65263 | apply perfWrite_keeps k4160 | apply plainWrite_keeps k4096
        | apply poolRegWrite_keeps k37994 | apply portWrite_keeps k5352 | apply recCtrlWrite_keeps k36872
        | apply ringRegWrite_keeps k54414 | apply timeWrite_keeps k4161 | apply windowWrite_keeps k4808 | apply keeps_ite
        | apply keeps_ite_fst | apply hflush)
    | split)

theorem gateOne_keeps {pm : Nat} {org : State} (hm : Within 65519 pm) (flush : State → State) (s : State) (w : GateWrite)
    (hflush : ∀ y0, Keeps pm org y0 → Keeps pm org (flush y0)) (h : Keeps pm org s) : Keeps pm org (gateOne flush s w) :=
    by
  have k8 : Within 8 pm := hm.sub rfl
  have k65519 : Within 65519 pm := hm.sub rfl
  have b1 := hm.bit (i := 1) rfl
  unfold gateOne
  repeat' (first
    | (with_reducible first
        | assumption | intro _ | apply journalDirect_keeps k8 | apply regWrite_keeps k65519 | apply keeps_ite
        | apply keeps_ite_fst | (fail_if_no_progress refine keeps_ctl _ b1 ?_) | apply hflush)
    | split)

theorem id_keeps {pm : Nat} {org : State} (s : State) (h : Keeps pm org s) : Keeps pm org (id s) := h

theorem gateDrain_keeps {pm : Nat} {org : State} (hm : Within 65519 pm) (s : State) (h : Keeps pm org s) : Keeps pm org
    (gateDrain s) := by
  have k65519 : Within 65519 pm := hm.sub rfl
  have b1 := hm.bit (i := 1) rfl
  unfold gateDrain
  repeat' (first
    | (with_reducible first
        | assumption | intro _ | apply gateOne_keeps k65519 | apply id_keeps
        | (fail_if_no_progress refine keeps_ctl _ b1 ?_) | apply keeps_ite | apply keeps_foldl | apply keeps_foldl_fst)
    | split)

theorem gateAccept_keeps {pm : Nat} {org : State} (hm : Within 65519 pm) (s : State) (w : GateWrite) (h : Keeps pm org s)
    : Keeps pm org (gateAccept s w) := by
  have k4096 : Within 4096 pm := hm.sub rfl
  have k65519 : Within 65519 pm := hm.sub rfl
  have b1 := hm.bit (i := 1) rfl
  unfold gateAccept
  dsimp only
  repeat' (first
    | (with_reducible first
        | assumption | intro _ | apply gateOne_keeps k65519 | apply perf_keeps k4096 | apply id_keeps
        | (fail_if_no_progress refine keeps_ctl _ b1 ?_) | apply keeps_ite | apply keeps_foldl | apply keeps_foldl_fst)
    | split)

theorem mpTsrWrite_keeps {pm : Nat} {org : State} (hm : Within 4096 pm) (s : State) (o : Nat) (mask value : Word) (h :
    Keeps pm org s) : Keeps pm org (mpTsrWrite s o mask value) := by
  have k4096 : Within 4096 pm := hm.sub rfl
  unfold mpTsrWrite
  repeat' (first
    | (with_reducible first
        | assumption | intro _ | apply wr_keeps k4096 | apply keeps_ite | apply keeps_ite_fst)
    | split)

theorem directReg_keeps {pm : Nat} {org : State} (hm : Within 65519 pm) (s : State) (w : BarWrite) (env : WriteEnv) (o0 :
    Nat) (mask value : Word) (h : Keeps pm org s) : Keeps pm org (directReg s w env o0 mask value) := by
  have k4096 : Within 4096 pm := hm.sub rfl
  have k4104 : Within 4104 pm := hm.sub rfl
  have k65519 : Within 65519 pm := hm.sub rfl
  unfold directReg
  repeat' (first
    | (with_reducible first
        | assumption | intro _ | apply accessErr_keeps k4104 | apply gateAccept_keeps k65519
        | apply mpTsrWrite_keeps k4096 | apply keeps_ite | apply keeps_ite_fst)
    | split)

theorem directWrite_keeps {pm : Nat} {org : State} (hm : Within 65519 pm) (s : State) (w : BarWrite) (env : WriteEnv) (h
    : Keeps pm org s) : Keeps pm org (directWrite s w env) := by
  have k4104 : Within 4104 pm := hm.sub rfl
  have k65519 : Within 65519 pm := hm.sub rfl
  unfold directWrite
  repeat' (first
    | (with_reducible first
        | assumption | intro _ | apply accessErr_keeps k4104 | apply directReg_keeps k65519 | apply keeps_ite
        | apply keeps_ite_fst | apply keeps_foldl | apply keeps_foldl_fst)
    | split)

theorem saveDone_keeps {pm : Nat} {org : State} (hm : Within 38920 pm) (s : State) (k : Nat) (h : Keeps pm org s) : Keeps
    pm org (saveDone s k) := by
  have k2048 : Within 2048 pm := hm.sub rfl
  have k4096 : Within 4096 pm := hm.sub rfl
  have k4104 : Within 4104 pm := hm.sub rfl
  have k32768 : Within 32768 pm := hm.sub rfl
  have b11 := hm.bit (i := 11) rfl
  unfold saveDone
  repeat' (first
    | (with_reducible first
        | assumption | apply draw_keeps k32768 | apply postHw_keeps k4104 | apply setBootSlot_keeps k2048
        | apply wrB_keeps k4096 | (fail_if_no_progress refine keeps_pwr _ b11 ?_))
    | split)

theorem saveFails_keeps {pm : Nat} {org : State} (hm : Within 6152 pm) (s : State) (h : Keeps pm org s) : Keeps pm org
    (saveFails s) := by
  have k4096 : Within 4096 pm := hm.sub rfl
  have k4104 : Within 4104 pm := hm.sub rfl
  have b11 := hm.bit (i := 11) rfl
  unfold saveFails
  repeat' (first
    | (with_reducible first
        | assumption | apply postHw_keeps k4104 | apply wrB_keeps k4096 | (fail_if_no_progress refine keeps_pwr _ b11 ?_))
    | split)

theorem execBootSaveEnd_keeps {pm : Nat} {org : State} (hm : Within 38920 pm) (flashFail : Bool) (s : State) (h : Keeps
    pm org s) : KeepsO pm org (execBootSaveEnd flashFail s) := by
  have k0 : Within 0 pm := hm.sub rfl
  have k6152 : Within 6152 pm := hm.sub rfl
  have k38920 : Within 38920 pm := hm.sub rfl
  unfold execBootSaveEnd
  repeat' (first
    | (with_reducible first
        | assumption | intro _ | apply saveDone_keeps k38920 | apply saveFails_keeps k6152 | apply keeps_ite
        | apply keeps_ite_fst | apply nextOf_keeps | apply irqEdge_keeps k0 | apply keepsO_next)
    | split)

theorem bootRegs_keeps {pm : Nat} {org : State} (hm : Within 65519 pm) (s : State) (l : List (Nat × Word)) (h : Keeps pm
    org s) : Keeps pm org (bootRegs s l) := by
  have k4104 : Within 4104 pm := hm.sub rfl
  have k65519 : Within 65519 pm := hm.sub rfl
  unfold bootRegs
  repeat' (first
    | (with_reducible first
        | assumption | intro _ | apply regWrite_keeps k65519 | apply takeMode_keeps k4104 | apply keeps_foldl
        | apply keeps_foldl_fst)
    | split)

theorem bootBad_keeps {pm : Nat} {org : State} (hm : Within 4104 pm) (s : State) (reason slot seq : Nat) (h : Keeps pm
    org s) : Keeps pm org (bootBad s reason slot seq) := by
  have k4096 : Within 4096 pm := hm.sub rfl
  have k4104 : Within 4104 pm := hm.sub rfl
  unfold bootBad
  repeat' (first
    | (with_reducible first
        | assumption | apply postHw_keeps k4104 | apply wrB_keeps k4096 | apply wrF_keeps k4096)
    | split)

theorem bootImpose_keeps {pm : Nat} {org : State} (hm : Within 65519 pm) (s t : State) (b : BootImage)
    (h : Keeps pm org s) (e : bootImpose s b = some t) : Keeps pm org t := by
  have k4096 : Within 4096 pm := hm.sub rfl
  have k4100 : Within 4100 pm := hm.sub rfl
  have k20620 : Within 20620 pm := hm.sub rfl
  have k38638 : Within 38638 pm := hm.sub rfl
  have k65519 : Within 65519 pm := hm.sub rfl
  unfold bootImpose at e
  dsimp only at e
  split at e
  · cases e
  · split at e
    · cases e
    · cases e
      repeat' (first
        | (with_reducible first
            | assumption | intro _ | apply wrB_keeps k4096 | apply lockupNow_keeps k38638 | apply makeAll_keeps k20620
            | apply setLog_keeps k4100 | apply bootRegs_keeps k65519 | apply keeps_ite | apply keeps_foldl
            | apply keeps_foldl_fst)
        | split)

theorem bootLoad_keeps {pm : Nat} {org : State} (hm : Within 65519 pm) (s : State) (sig0 sig1 : Bool) (decay : Option
    (Fin 5)) (h : Keeps pm org s) : Keeps pm org (bootLoad s sig0 sig1 decay) := by
  have k4104 : Within 4104 pm := hm.sub rfl
  have k65519 : Within 65519 pm := hm.sub rfl
  unfold bootLoad
  repeat' (first
    | (with_reducible first
        | assumption | intro _ | apply bootBad_keeps k4104 | apply keeps_ite | apply keeps_foldl | apply keeps_foldl_fst)
    | exact bootImpose_keeps k65519 s _ _ h (by assumption) | split)

theorem mbxReply_keeps {pm : Nat} {org : State} (hm : Within 4096 pm) (s : State) (c service tag status : Nat) (payload :
    List Byte) (h : Keeps pm org s) : Keeps pm org (mbxReply s c service tag status payload) := by
  have k0 : Within 0 pm := hm.sub rfl
  have k4096 : Within 4096 pm := hm.sub rfl
  unfold mbxReply
  repeat' (first
    | (with_reducible first
        | assumption | apply emit_keeps k0 | apply raiseReg_keeps k0 | apply wrB_keeps k4096)
    | split)

theorem mbxAbort_keeps {pm : Nat} {org : State} (hm : Within 4096 pm) (s : State) (reqs : List (Nat × Nat × Nat)) (c :
    Nat) (h : Keeps pm org s) : Keeps pm org (mbxAbort s reqs c) := by
  have k4096 : Within 4096 pm := hm.sub rfl
  unfold mbxAbort
  repeat' (first
    | (with_reducible first
        | assumption | intro _ | apply mbxReply_keeps k4096 | apply keeps_ite | apply keeps_ite_fst)
    | split)

theorem setMbxRole_keeps {pm : Nat} {org : State} (hm : Within 256 pm) (s : State) (c role ident : Nat) (h : Keeps pm org
    s) : Keeps pm org (setMbxRole s c role ident) := by
  have b8 := hm.bit (i := 8) rfl
  unfold setMbxRole
  repeat' (first
    | (with_reducible first
        | assumption | intro _ | apply keeps_ite | apply keeps_ite_fst | (fail_if_no_progress refine keeps_ciph _ b8 ?_))
    | split)

theorem mbxServe_keeps {pm : Nat} {org : State} (hm : Within 4096 pm) (s : State) (q : MbxReq) (service role : Nat) (act
    : State → State × Nat × List Byte) (hact : ∀ y0, Keeps pm org y0 → Keeps pm org (act y0).1) (h : Keeps pm org s) :
    Keeps pm org (mbxServe s q service role act) := by
  have k4096 : Within 4096 pm := hm.sub rfl
  unfold mbxServe
  repeat' (first
    | (with_reducible first
        | assumption | intro _ | apply mbxReply_keeps k4096 | apply keeps_ite | apply keeps_ite_fst | apply hact)
    | split)

theorem drbgSeed_keeps {pm : Nat} {org : State} (hm : Within 33024 pm) (s : State) (h : Keeps pm org s) : Keeps pm org
    (drbgSeed s) := by
  have b8 := hm.bit (i := 8) rfl
  have b15 := hm.bit (i := 15) rfl
  unfold drbgSeed
  repeat' (first
    | (with_reducible first
        | assumption | (fail_if_no_progress refine keeps_fresh_ciph _ b8 b15 ?_))
    | split)

theorem drbgDraw_keeps {pm : Nat} {org : State} (hm : Within 33024 pm) (s : State) (n : Nat) (h : Keeps pm org s) : Keeps
    pm org (drbgDraw s n).1 := by
  have k32768 : Within 32768 pm := hm.sub rfl
  have k33024 : Within 33024 pm := hm.sub rfl
  have b8 := hm.bit (i := 8) rfl
  unfold drbgDraw
  repeat' (first
    | (with_reducible first
        | assumption | intro _ | apply draw_keeps k32768 | apply drbgSeed_keeps k33024 | apply keeps_ite
        | apply keeps_ite_fst | (fail_if_no_progress refine keeps_ciph _ b8 ?_))
    | split)

theorem freePayload_keeps {pm : Nat} {org : State} (hm : Within 32768 pm) (s : State) (n : Nat) (h : Keeps pm org s) :
    Keeps pm org (freePayload s n).1 := by
  have b15 := hm.bit (i := 15) rfl
  unfold freePayload
  repeat' (first | (with_reducible first | assumption | (fail_if_no_progress refine keeps_fresh b15 ?_)) | split)

theorem execMpStatus_keeps {pm : Nat} {org : State} (hm : Within 36864 pm) (q : MbxReq) (len : Fin 4089) (s : State) (h :
    Keeps pm org s) : KeepsO pm org (execMpStatus q len s) := by
  have k0 : Within 0 pm := hm.sub rfl
  have k4096 : Within 4096 pm := hm.sub rfl
  have k32768 : Within 32768 pm := hm.sub rfl
  unfold execMpStatus
  repeat' (first
    | (with_reducible first
        | assumption | intro _ | apply freePayload_keeps k32768 | apply mbxServe_keeps k4096 | apply nextOf_keeps
        | apply irqEdge_keeps k0 | apply keepsO_next)
    | split)

theorem execAttest_keeps {pm : Nat} {org : State} (hm : Within 36864 pm) (q : MbxReq) (len : Fin 4089) (s : State) (h :
    Keeps pm org s) : KeepsO pm org (execAttest q len s) := by
  have k0 : Within 0 pm := hm.sub rfl
  have k4096 : Within 4096 pm := hm.sub rfl
  have k32768 : Within 32768 pm := hm.sub rfl
  unfold execAttest
  repeat' (first
    | (with_reducible first
        | assumption | intro _ | apply freePayload_keeps k32768 | apply mbxServe_keeps k4096 | apply keeps_ite
        | apply keeps_ite_fst | apply nextOf_keeps | apply irqEdge_keeps k0 | apply keepsO_next)
    | split)

theorem execAuthChallenge_keeps {pm : Nat} {org : State} (hm : Within 37120 pm) (q : MbxReq) (s : State) (h : Keeps pm
    org s) : KeepsO pm org (execAuthChallenge q s) := by
  have k0 : Within 0 pm := hm.sub rfl
  have k4096 : Within 4096 pm := hm.sub rfl
  have k33024 : Within 33024 pm := hm.sub rfl
  have b8 := hm.bit (i := 8) rfl
  unfold execAuthChallenge
  repeat' (first
    | (with_reducible first
        | assumption | intro _ | apply drbgDraw_keeps k33024 | apply mbxServe_keeps k4096 | apply keeps_ite
        | apply keeps_ite_fst | apply nextOf_keeps | apply irqEdge_keeps k0
        | (fail_if_no_progress refine keeps_ciph _ b8 ?_) | apply keepsO_next)
    | split)

theorem execAuthResponse_keeps {pm : Nat} {org : State} (hm : Within 4360 pm) (q : MbxReq) (ring : Fin 60) (ident : Fin
    16) (sigOk : Bool) (s : State) (h : Keeps pm org s) : KeepsO pm org (execAuthResponse q ring ident sigOk s) := by
  have k0 : Within 0 pm := hm.sub rfl
  have k256 : Within 256 pm := hm.sub rfl
  have k4096 : Within 4096 pm := hm.sub rfl
  have k4104 : Within 4104 pm := hm.sub rfl
  have b8 := hm.bit (i := 8) rfl
  unfold execAuthResponse
  dsimp only
  repeat' (first
    | (with_reducible first
        | assumption | intro _ | apply bindRole_keeps k4104 | apply mbxServe_keeps k4096 | apply postHw_keeps k4104
        | apply setMbxRole_keeps k256 | apply keeps_ite | apply keeps_ite_fst | apply nextOf_keeps
        | apply irqEdge_keeps k0 | (fail_if_no_progress refine keeps_ciph _ b8 ?_) | apply keepsO_next)
    | split | dsimp only)

theorem execLogout_keeps {pm : Nat} {org : State} (hm : Within 4360 pm) (q : MbxReq) (ring : Fin 60) (s : State) (h :
    Keeps pm org s) : KeepsO pm org (execLogout q ring s) := by
  have k0 : Within 0 pm := hm.sub rfl
  have k256 : Within 256 pm := hm.sub rfl
  have k4096 : Within 4096 pm := hm.sub rfl
  have k4104 : Within 4104 pm := hm.sub rfl
  unfold execLogout
  repeat' (first
    | (with_reducible first
        | assumption | intro _ | apply endRole_keeps k4104 | apply mbxServe_keeps k4096 | apply setMbxRole_keeps k256
        | apply nextOf_keeps | apply irqEdge_keeps k0 | apply keepsO_next)
    | split)

theorem journalOperator_keeps {pm : Nat} {org : State} (hm : Within 8 pm) (s : State) (c ident role removed : Nat) (h :
    Keeps pm org s) : Keeps pm org (journalOperator s c ident role removed) := by
  have k8 : Within 8 pm := hm.sub rfl
  unfold journalOperator
  repeat' (first | (with_reducible first | assumption | apply journal_keeps k8) | split)

theorem addOperator_keeps {pm : Nat} {org : State} (hm : Within 256 pm) (s : State) (o : Operator) (h : Keeps pm org s) :
    Keeps pm org (addOperator s o) := by
  have b8 := hm.bit (i := 8) rfl
  unfold addOperator
  repeat' (first
    | (with_reducible first
        | assumption | intro _ | (fail_if_no_progress refine keeps_ciph _ b8 ?_))
    | split)

theorem commission_keeps {pm : Nat} {org : State} (hm : Within 6408 pm) (s : State) (o : Operator) (n c : Nat) (h : Keeps
    pm org s) : Keeps pm org (commission s o n c) := by
  have k256 : Within 256 pm := hm.sub rfl
  have k4096 : Within 4096 pm := hm.sub rfl
  have k4104 : Within 4104 pm := hm.sub rfl
  have k6144 : Within 6144 pm := hm.sub rfl
  have b11 := hm.bit (i := 11) rfl
  unfold commission
  repeat' (first
    | (with_reducible first
        | assumption | apply addOperator_keeps k256 | apply bindRole_keeps k4104 | apply setBoundary_keeps k4096
        | apply setCommissioned_keeps k6144 | apply setMbxRole_keeps k256
        | (fail_if_no_progress refine keeps_pwr _ b11 ?_))
    | split)

theorem execEnrol_keeps {pm : Nat} {org : State} (hm : Within 6408 pm) (q : MbxReq) (ident : Fin 16) (officer : Bool)
    (key : List Byte) (ring : Fin 60) (s : State) (h : Keeps pm org s) : KeepsO pm org (execEnrol q ident officer key
    ring s) := by
  have k0 : Within 0 pm := hm.sub rfl
  have k8 : Within 8 pm := hm.sub rfl
  have k256 : Within 256 pm := hm.sub rfl
  have k4096 : Within 4096 pm := hm.sub rfl
  have k6408 : Within 6408 pm := hm.sub rfl
  unfold execEnrol
  repeat' (first
    | (with_reducible first
        | assumption | intro _ | apply addOperator_keeps k256 | apply commission_keeps k6408
        | apply journalOperator_keeps k8 | apply mbxServe_keeps k4096 | apply keeps_ite | apply keeps_ite_fst
        | apply nextOf_keeps | apply irqEdge_keeps k0 | apply keepsO_next)
    | split)

theorem execRemoveOperator_keeps {pm : Nat} {org : State} (hm : Within 6408 pm) (q : MbxReq) (ident : Fin 16) (s : State)
    (h : Keeps pm org s) : KeepsO pm org (execRemoveOperator q ident s) := by
  have k0 : Within 0 pm := hm.sub rfl
  have k8 : Within 8 pm := hm.sub rfl
  have k4096 : Within 4096 pm := hm.sub rfl
  have k6144 : Within 6144 pm := hm.sub rfl
  have b8 := hm.bit (i := 8) rfl
  unfold execRemoveOperator
  repeat' (first
    | (with_reducible first
        | assumption | intro _ | apply journalOperator_keeps k8 | apply mbxServe_keeps k4096
        | apply setCommissioned_keeps k6144 | apply nextOf_keeps | apply irqEdge_keeps k0
        | (fail_if_no_progress refine keeps_ciph _ b8 ?_) | apply keepsO_next)
    | split)

theorem testFails_keeps {pm : Nat} {org : State} (hm : Within 7272 pm) (s : State) (test : Nat) (h : Keeps pm org s) :
    Keeps pm org (testFails s test) := by
  have k32 : Within 32 pm := hm.sub rfl
  have k4096 : Within 4096 pm := hm.sub rfl
  have k5224 : Within 5224 pm := hm.sub rfl
  have k6144 : Within 6144 pm := hm.sub rfl
  unfold testFails
  repeat' (first
    | (with_reducible first
        | assumption | intro _ | apply abortTx_keeps k5224 | apply assertFault_keeps k6144 | apply setBoundary_keeps k4096
        | apply setSide_keeps k32 | apply wrF_keeps k4096 | apply keeps_ite | apply keeps_ite_fst | apply keeps_foldl
        | apply keeps_foldl_fst)
    | split)

theorem execKekInstall_keeps {pm : Nat} {org : State} (hm : Within 7528 pm) (q : MbxReq) (slot : Fin 64) (kek : KekWrap)
    (s : State) (h : Keeps pm org s) : KeepsO pm org (execKekInstall q slot kek s) := by
  have k0 : Within 0 pm := hm.sub rfl
  have k8 : Within 8 pm := hm.sub rfl
  have k4096 : Within 4096 pm := hm.sub rfl
  have k4104 : Within 4104 pm := hm.sub rfl
  have k7272 : Within 7272 pm := hm.sub rfl
  have b8 := hm.bit (i := 8) rfl
  unfold execKekInstall
  repeat' (first
    | (with_reducible first
        | assumption | intro _ | apply journal_keeps k8 | apply mbxServe_keeps k4096 | apply postHw_keeps k4104
        | apply testFails_keeps k7272 | apply wrB_keeps k4096 | apply keeps_ite | apply keeps_ite_fst | apply nextOf_keeps
        | apply irqEdge_keeps k0 | (fail_if_no_progress refine keeps_ciph _ b8 ?_) | apply keepsO_next)
    | split)

theorem execFwUpdate_keeps {pm : Nat} {org : State} (hm : Within 6152 pm) (q : MbxReq) (svn : Fin 65536) (sigsOk : Bool)
    (s : State) (h : Keeps pm org s) : KeepsO pm org (execFwUpdate q svn sigsOk s) := by
  have k0 : Within 0 pm := hm.sub rfl
  have k4096 : Within 4096 pm := hm.sub rfl
  have k4104 : Within 4104 pm := hm.sub rfl
  have b11 := hm.bit (i := 11) rfl
  unfold execFwUpdate
  repeat' (first
    | (with_reducible first
        | assumption | intro _ | apply mbxServe_keeps k4096 | apply postHw_keeps k4104 | apply keeps_ite
        | apply keeps_ite_fst | apply nextOf_keeps | apply irqEdge_keeps k0
        | (fail_if_no_progress refine keeps_pwr _ b11 ?_) | apply keepsO_next)
    | split)

theorem execCmisRead_keeps {pm : Nat} {org : State} (hm : Within 4096 pm) (q : MbxReq) (answer : Option (List Byte)) (s :
    State) (h : Keeps pm org s) : KeepsO pm org (execCmisRead q answer s) := by
  have k0 : Within 0 pm := hm.sub rfl
  have k4096 : Within 4096 pm := hm.sub rfl
  unfold execCmisRead
  repeat' (first
    | (with_reducible first
        | assumption | intro _ | apply mbxServe_keeps k4096 | apply nextOf_keeps | apply irqEdge_keeps k0
        | apply keepsO_next)
    | split)

theorem execCmisWrite_keeps {pm : Nat} {org : State} (hm : Within 4096 pm) (q : MbxReq) (ok : Bool) (s : State) (h :
    Keeps pm org s) : KeepsO pm org (execCmisWrite q ok s) := by
  have k0 : Within 0 pm := hm.sub rfl
  have k4096 : Within 4096 pm := hm.sub rfl
  unfold execCmisWrite
  repeat' (first
    | (with_reducible first
        | assumption | intro _ | apply emit_keeps k0 | apply mbxServe_keeps k4096 | apply keeps_ite | apply keeps_ite_fst
        | apply nextOf_keeps | apply irqEdge_keeps k0 | apply keepsO_next)
    | split)

theorem execSerdesDiag_keeps {pm : Nat} {org : State} (hm : Within 4096 pm) (q : MbxReq) (answer : Option (List Byte)) (s
    : State) (h : Keeps pm org s) : KeepsO pm org (execSerdesDiag q answer s) := by
  have k0 : Within 0 pm := hm.sub rfl
  have k4096 : Within 4096 pm := hm.sub rfl
  unfold execSerdesDiag
  repeat' (first
    | (with_reducible first
        | assumption | intro _ | apply mbxServe_keeps k4096 | apply nextOf_keeps | apply irqEdge_keeps k0
        | apply keepsO_next)
    | split)

theorem execServoCfg_keeps {pm : Nat} {org : State} (hm : Within 4608 pm) (q : MbxReq) (ok : Bool) (s : State) (h : Keeps
    pm org s) : KeepsO pm org (execServoCfg q ok s) := by
  have k0 : Within 0 pm := hm.sub rfl
  have k4096 : Within 4096 pm := hm.sub rfl
  have b9 := hm.bit (i := 9) rfl
  unfold execServoCfg
  repeat' (first
    | (with_reducible first
        | assumption | intro _ | apply mbxServe_keeps k4096 | apply keeps_ite | apply keeps_ite_fst | apply nextOf_keeps
        | apply irqEdge_keeps k0 | (fail_if_no_progress refine keeps_mp _ b9 ?_) | apply keepsO_next)
    | split)

theorem execTelemetryCfg_keeps {pm : Nat} {org : State} (hm : Within 4608 pm) (q : MbxReq) (ok : Bool) (s : State) (h :
    Keeps pm org s) : KeepsO pm org (execTelemetryCfg q ok s) := by
  have k0 : Within 0 pm := hm.sub rfl
  have k4096 : Within 4096 pm := hm.sub rfl
  have b9 := hm.bit (i := 9) rfl
  unfold execTelemetryCfg
  repeat' (first
    | (with_reducible first
        | assumption | intro _ | apply mbxServe_keeps k4096 | apply keeps_ite | apply keeps_ite_fst | apply nextOf_keeps
        | apply irqEdge_keeps k0 | (fail_if_no_progress refine keeps_mp _ b9 ?_) | apply keepsO_next)
    | split)

theorem mpRestart_keeps {pm : Nat} {org : State} (hm : Within 55022 pm) (s : State) (reqs : List (Nat × Nat × Nat)) (h :
    Keeps pm org s) : Keeps pm org (mpRestart s reqs) := by
  have k4096 : Within 4096 pm := hm.sub rfl
  have k4104 : Within 4104 pm := hm.sub rfl
  have k37994 : Within 37994 pm := hm.sub rfl
  have k54414 : Within 54414 pm := hm.sub rfl
  have b9 := hm.bit (i := 9) rfl
  unfold mpRestart
  repeat' (first
    | (with_reducible first
        | assumption | intro _ | apply bump_keeps k4104 | apply mbxAbort_keeps k4096 | apply postHw_keeps k4104
        | apply ringsReset_keeps k54414 | apply rxDrop_keeps k37994 | apply servoState_keeps k4104 | apply keeps_ite
        | apply keeps_ite_fst | apply keeps_foldl | apply keeps_foldl_fst | (fail_if_no_progress refine keeps_mp _ b9 ?_))
    | split)

theorem execMpWatchdog_keeps {pm : Nat} {org : State} (hm : Within 55022 pm) (reqs : List (Nat × Nat × Nat)) (s : State)
    (h : Keeps pm org s) : KeepsO pm org (execMpWatchdog reqs s) := by
  have k0 : Within 0 pm := hm.sub rfl
  have k55022 : Within 55022 pm := hm.sub rfl
  unfold execMpWatchdog
  repeat' (first
    | (with_reducible first
        | assumption | intro _ | apply mpRestart_keeps k55022 | apply onlyIf_keeps | apply nextOf_keeps
        | apply irqEdge_keeps k0 | apply keepsO_next)
    | split)

theorem execMpRestartComplete_keeps {pm : Nat} {org : State} (hm : Within 520 pm) (s : State) (h : Keeps pm org s) :
    KeepsO pm org (execMpRestartComplete s) := by
  have k0 : Within 0 pm := hm.sub rfl
  have b3 := hm.bit (i := 3) rfl
  have b9 := hm.bit (i := 9) rfl
  unfold execMpRestartComplete
  repeat' (first
    | (with_reducible first
        | assumption | intro _ | apply onlyIf_keeps | apply nextOf_keeps | apply irqEdge_keeps k0
        | (fail_if_no_progress refine keeps_rcd_mp _ _ b3 b9 ?_) | apply keepsO_next)
    | split)

theorem execEntropyTestFail_keeps {pm : Nat} {org : State} (hm : Within 7272 pm) (test : Fin 2) (s : State) (h : Keeps pm
    org s) : KeepsO pm org (execEntropyTestFail test s) := by
  have k0 : Within 0 pm := hm.sub rfl
  have k4104 : Within 4104 pm := hm.sub rfl
  have k7272 : Within 7272 pm := hm.sub rfl
  unfold execEntropyTestFail
  repeat' (first
    | (with_reducible first
        | assumption | intro _ | apply postHw_keeps k4104 | apply testFails_keeps k7272 | apply onlyIf_keeps
        | apply nextOf_keeps | apply irqEdge_keeps k0 | apply keepsO_next)
    | split)

theorem execKeySelftestPiece_keeps {pm : Nat} {org : State} (hm : Within 7272 pm) (unit : Fin 40) (pass : Bool) (s :
    State) (h : Keeps pm org s) : KeepsO pm org (execKeySelftestPiece unit pass s) := by
  have k0 : Within 0 pm := hm.sub rfl
  have k4104 : Within 4104 pm := hm.sub rfl
  have k7272 : Within 7272 pm := hm.sub rfl
  unfold execKeySelftestPiece
  repeat' (first
    | (with_reducible first
        | assumption | intro _ | apply postHw_keeps k4104 | apply testFails_keeps k7272 | apply onlyIf_keeps
        | apply keeps_ite | apply keeps_ite_fst | apply nextOf_keeps | apply irqEdge_keeps k0 | apply keepsO_next)
    | split)

end Sys2Proof.Machine
end

