-- ==== Sys2Proof/Laws/KeepsK.lean ====
section
/-! SUPPORT. Keeps, for every operation of Machine/: HostRows.lean, InsCmds.lean. -/

set_option linter.unusedTactic false
set_option linter.unreachableTactic false
set_option linter.unusedVariables false

namespace Sys2Proof.Machine

theorem setBusMaster_keeps {pm : Nat} {org : State} (hm : Within 16 pm) (s : State) (l v : Bool) (h : Keeps pm org s) :
    Keeps pm org (setBusMaster s l v) := by
  have b4 := hm.bit (i := 4) rfl
  unfold setBusMaster
  repeat' (first
    | (with_reducible first
        | assumption | intro _ | apply keeps_ite | apply keeps_ite_fst | (fail_if_no_progress refine keeps_host _ b4 ?_))
    | split)

theorem fnReset_keeps {pm : Nat} {org : State} (hm : Within 16 pm) (s : State) (l : Bool) (fn : Nat) (h : Keeps pm org s)
    : Keeps pm org (fnReset s l fn) := by
  have b4 := hm.bit (i := 4) rfl
  unfold fnReset
  repeat' (first
    | (with_reducible first
        | assumption | intro _ | apply keeps_ite | apply keeps_ite_fst | (fail_if_no_progress refine keeps_host _ b4 ?_))
    | split)

theorem frStop_keeps {pm : Nat} {org : State} (hm : Within 4096 pm) (s : State) (tx : Bool) (r : Nat) (h : Keeps pm org
    s) : Keeps pm org (frStop s tx r) := by
  have k4096 : Within 4096 pm := hm.sub rfl
  unfold frStop
  repeat' (first
    | (with_reducible first
        | assumption | intro _ | apply setFrState_keeps k4096 | apply keeps_ite | apply keeps_ite_fst)
    | split)

theorem stopFrames_keeps {pm : Nat} {org : State} (hm : Within 4096 pm) (s : State) (l : Bool) (h : Keeps pm org s) :
    Keeps pm org (stopFrames s l) := by
  have k4096 : Within 4096 pm := hm.sub rfl
  unfold stopFrames
  repeat' (first
    | (with_reducible first
        | assumption | intro _ | apply frStop_keeps k4096 | apply keeps_foldl | apply keeps_foldl_fst)
    | split)

theorem resetLinkRings_keeps {pm : Nat} {org : State} (hm : Within 54414 pm) (s : State) (l : Bool) (h : Keeps pm org s)
    : Keeps pm org (resetLinkRings s l) := by
  have k54414 : Within 54414 pm := hm.sub rfl
  unfold resetLinkRings
  repeat' (first | (with_reducible first | assumption | intro _ | apply ringsReset_keeps k54414) | split)

theorem functionsReset_keeps {pm : Nat} {org : State} (hm : Within 16 pm) (s : State) (l : Bool) (h : Keeps pm org s) :
    Keeps pm org (functionsReset s l) := by
  have k16 : Within 16 pm := hm.sub rfl
  unfold functionsReset
  repeat' (first | (with_reducible first | assumption | apply fnReset_keeps k16 | apply setBusMaster_keeps k16) | split)

theorem setLinkStatus_keeps {pm : Nat} {org : State} (hm : Within 4112 pm) (s : State) (l up : Bool) (speed width : Nat)
    (flit : Bool) (h : Keeps pm org s) : Keeps pm org (setLinkStatus s l up speed width flit) := by
  have k4096 : Within 4096 pm := hm.sub rfl
  have b4 := hm.bit (i := 4) rfl
  unfold setLinkStatus
  repeat' (first
    | (with_reducible first
        | assumption | intro _ | apply wrB_keeps k4096 | apply wrF_keeps k4096 | apply keeps_ite | apply keeps_ite_fst
        | (fail_if_no_progress refine keeps_host _ b4 ?_))
    | split)

theorem execHostLinkDown_keeps {pm : Nat} {org : State} (hm : Within 54430 pm) (link : Bool) (cause : Fin 3) (s : State)
    (h : Keeps pm org s) : KeepsO pm org (execHostLinkDown link cause s) := by
  have k0 : Within 0 pm := hm.sub rfl
  have k16 : Within 16 pm := hm.sub rfl
  have k4096 : Within 4096 pm := hm.sub rfl
  have k4104 : Within 4104 pm := hm.sub rfl
  have k4112 : Within 4112 pm := hm.sub rfl
  have k54414 : Within 54414 pm := hm.sub rfl
  unfold execHostLinkDown
  repeat' (first
    | (with_reducible first
        | assumption | intro _ | apply functionsReset_keeps k16 | apply postHw_keeps k4104
        | apply resetLinkRings_keeps k54414 | apply setLinkStatus_keeps k4112 | apply stopFrames_keeps k4096
        | apply wrB_keeps k4096 | apply onlyIf_keeps | apply nextOf_keeps | apply irqEdge_keeps k0 | apply keepsO_next)
    | split)

theorem msixFlush_keeps {pm : Nat} {org : State} (hm : Within 16 pm) (s : State) (l : Bool) (h : Keeps pm org s) : Keeps
    pm org (msixFlush s l) := by
  have k0 : Within 0 pm := hm.sub rfl
  have b4 := hm.bit (i := 4) rfl
  unfold msixFlush
  repeat' (first
    | (with_reducible first
        | assumption | intro _ | apply emit_keeps k0 | apply keeps_foldl | apply keeps_foldl_fst
        | (fail_if_no_progress refine keeps_host _ b4 ?_))
    | split)

theorem execHostLinkUp_keeps {pm : Nat} {org : State} (hm : Within 4120 pm) (link : Bool) (speed : Fin 7) (width : Fin 9)
    (flit msix0 msix1 : Bool) (s : State) (h : Keeps pm org s) : KeepsO pm org (execHostLinkUp link speed width flit
    msix0 msix1 s) := by
  have k0 : Within 0 pm := hm.sub rfl
  have k16 : Within 16 pm := hm.sub rfl
  have k4096 : Within 4096 pm := hm.sub rfl
  have k4104 : Within 4104 pm := hm.sub rfl
  have k4112 : Within 4112 pm := hm.sub rfl
  have b4 := hm.bit (i := 4) rfl
  unfold execHostLinkUp
  repeat' (first
    | (with_reducible first
        | assumption | intro _ | apply msixFlush_keeps k16 | apply postHw_keeps k4104 | apply setLinkStatus_keeps k4112
        | apply wrB_keeps k4096 | apply onlyIf_keeps | apply keeps_ite | apply keeps_ite_fst | apply nextOf_keeps
        | apply irqEdge_keeps k0 | (fail_if_no_progress refine keeps_host _ b4 ?_) | apply keepsO_next)
    | split)

theorem execFlrPf0_keeps {pm : Nat} {org : State} (hm : Within 54430 pm) (link : Bool) (reqs : List (Nat × Nat × Nat)) (s
    : State) (h : Keeps pm org s) : KeepsO pm org (execFlrPf0 link reqs s) := by
  have k0 : Within 0 pm := hm.sub rfl
  have k16 : Within 16 pm := hm.sub rfl
  have k4096 : Within 4096 pm := hm.sub rfl
  have k54414 : Within 54414 pm := hm.sub rfl
  unfold execFlrPf0
  repeat' (first
    | (with_reducible first
        | assumption | intro _ | apply fnReset_keeps k16 | apply mbxAbort_keeps k4096 | apply resetLinkRings_keeps k54414
        | apply setBusMaster_keeps k16 | apply onlyIf_keeps | apply keeps_foldl | apply keeps_foldl_fst
        | apply nextOf_keeps | apply irqEdge_keeps k0 | apply keepsO_next)
    | split)

theorem execFlrPf1_keeps {pm : Nat} {org : State} (hm : Within 4112 pm) (link : Bool) (s : State) (h : Keeps pm org s) :
    KeepsO pm org (execFlrPf1 link s) := by
  have k0 : Within 0 pm := hm.sub rfl
  have k16 : Within 16 pm := hm.sub rfl
  have k4096 : Within 4096 pm := hm.sub rfl
  unfold execFlrPf1
  repeat' (first
    | (with_reducible first
        | assumption | intro _ | apply fnReset_keeps k16 | apply stopFrames_keeps k4096 | apply onlyIf_keeps
        | apply nextOf_keeps | apply irqEdge_keeps k0 | apply keepsO_next)
    | split)

theorem execFlrPf2_keeps {pm : Nat} {org : State} (hm : Within 16 pm) (link : Bool) (s : State) (h : Keeps pm org s) :
    KeepsO pm org (execFlrPf2 link s) := by
  have k0 : Within 0 pm := hm.sub rfl
  have k16 : Within 16 pm := hm.sub rfl
  unfold execFlrPf2
  repeat' (first
    | (with_reducible first
        | assumption | intro _ | apply fnReset_keeps k16 | apply onlyIf_keeps | apply nextOf_keeps
        | apply irqEdge_keeps k0 | apply keepsO_next)
    | split)

theorem execBusMasterDisable_keeps {pm : Nat} {org : State} (hm : Within 16 pm) (link : Bool) (s : State) (h : Keeps pm
    org s) : KeepsO pm org (execBusMasterDisable link s) := by
  have k0 : Within 0 pm := hm.sub rfl
  have k16 : Within 16 pm := hm.sub rfl
  unfold execBusMasterDisable
  repeat' (first
    | (with_reducible first
        | assumption | intro _ | apply setBusMaster_keeps k16 | apply onlyIf_keeps | apply nextOf_keeps
        | apply irqEdge_keeps k0 | apply keepsO_next)
    | split)

theorem execBusMasterEnable_keeps {pm : Nat} {org : State} (hm : Within 16 pm) (link : Bool) (s : State) (h : Keeps pm
    org s) : KeepsO pm org (execBusMasterEnable link s) := by
  have k0 : Within 0 pm := hm.sub rfl
  have k16 : Within 16 pm := hm.sub rfl
  unfold execBusMasterEnable
  repeat' (first
    | (with_reducible first
        | assumption | intro _ | apply setBusMaster_keeps k16 | apply onlyIf_keeps | apply nextOf_keeps
        | apply irqEdge_keeps k0 | apply keepsO_next)
    | split)

theorem execMsixUnmask_keeps {pm : Nat} {org : State} (hm : Within 16 pm) (link : Bool) (fn : Fin 2) (entry : Fin 1536)
    (s : State) (h : Keeps pm org s) : KeepsO pm org (execMsixUnmask link fn entry s) := by
  have k0 : Within 0 pm := hm.sub rfl
  have k16 : Within 16 pm := hm.sub rfl
  have b4 := hm.bit (i := 4) rfl
  unfold execMsixUnmask
  repeat' (first
    | (with_reducible first
        | assumption | intro _ | apply msixFlush_keeps k16 | apply onlyIf_keeps | apply nextOf_keeps
        | apply irqEdge_keeps k0 | (fail_if_no_progress refine keeps_host _ b4 ?_) | apply keepsO_next)
    | split)

theorem execPcieUncorrError_keeps {pm : Nat} {org : State} (hm : Within 4120 pm) (link : Bool) (fn : Fin 3) (status :
    Nat) (s : State) (h : Keeps pm org s) : KeepsO pm org (execPcieUncorrError link fn status s) := by
  have k0 : Within 0 pm := hm.sub rfl
  have k4104 : Within 4104 pm := hm.sub rfl
  have b4 := hm.bit (i := 4) rfl
  unfold execPcieUncorrError
  repeat' (first
    | (with_reducible first
        | assumption | intro _ | apply postHw_keeps k4104 | apply onlyIf_keeps | apply nextOf_keeps
        | apply irqEdge_keeps k0 | (fail_if_no_progress refine keeps_host _ b4 ?_) | apply keepsO_next)
    | split)

theorem execJtagAccess_keeps {pm : Nat} {org : State} (hm : Within 0 pm) (mgmtDie : Bool) (s : State) (h : Keeps pm org
    s) : KeepsO pm org (execJtagAccess mgmtDie s) := by
  have k0 : Within 0 pm := hm.sub rfl
  unfold execJtagAccess
  repeat' (first
    | (with_reducible first
        | assumption | apply nextOf_keeps | apply irqEdge_keeps k0 | apply keepsO_next)
    | split)

theorem execEndProg_keeps {pm : Nat} {org : State} (hm : Within 4106 pm) (ring : Fin 64) (ins : Ins) (s : State) (h :
    Keeps pm org s) : KeepsO pm org (execEndProg ring ins s) := by
  have k0 : Within 0 pm := hm.sub rfl
  have k4106 : Within 4106 pm := hm.sub rfl
  unfold execEndProg
  repeat' (first
    | (with_reducible first
        | assumption | intro _ | apply guardIns_keeps k0 | apply runIns_keeps k4106 | apply nextOf_keeps
        | apply irqEdge_keeps k0 | apply keepsO_next)
    | split)

theorem skipLook_keeps {pm : Nat} {org : State} (hm : Within 32768 pm) (s : State) (l : Bool) (ins : Ins) (h : Keeps pm
    org s) : Keeps pm org (skipLook s l ins).1 := by
  have k32768 : Within 32768 pm := hm.sub rfl
  unfold skipLook
  repeat' (first
    | (with_reducible first
        | assumption | intro _ | apply look_keeps k32768 | apply keeps_ite | apply keeps_ite_fst)
    | split)

theorem skipFree_keeps {pm : Nat} {org : State} (hm : Within 32768 pm) (s : State) (h : Keeps pm org s) : Keeps pm org
    (skipFree s).1 := by
  have k32768 : Within 32768 pm := hm.sub rfl
  unfold skipFree
  repeat' (first | (with_reducible first | assumption | apply draw_keeps k32768) | split)

theorem execSkipif_keeps {pm : Nat} {org : State} (hm : Within 36874 pm) (ring : Fin 64) (ins : Ins) (s : State) (h :
    Keeps pm org s) : KeepsO pm org (execSkipif ring ins s) := by
  have k0 : Within 0 pm := hm.sub rfl
  have k2 : Within 2 pm := hm.sub rfl
  have k4098 : Within 4098 pm := hm.sub rfl
  have k4106 : Within 4106 pm := hm.sub rfl
  have k32768 : Within 32768 pm := hm.sub rfl
  unfold execSkipif
  repeat' (first
    | (with_reducible first
        | assumption | intro _ | apply advanceHead_keeps k4098 | apply guardIns_keeps k0 | apply runIns_keeps k4106
        | apply setRt_keeps k2 | apply skipFree_keeps k32768 | apply skipLook_keeps k32768 | apply keeps_ite
        | apply keeps_ite_fst | apply nextOf_keeps | apply irqEdge_keeps k0 | apply keepsO_next)
    | split)

theorem execNote_keeps {pm : Nat} {org : State} (hm : Within 4106 pm) (ring : Fin 64) (ins : Ins) (s : State) (h : Keeps
    pm org s) : KeepsO pm org (execNote ring ins s) := by
  have k0 : Within 0 pm := hm.sub rfl
  have k4104 : Within 4104 pm := hm.sub rfl
  have k4106 : Within 4106 pm := hm.sub rfl
  unfold execNote
  repeat' (first
    | (with_reducible first
        | assumption | intro _ | apply post_keeps k4104 | apply runIns_keeps k4106 | apply nextOf_keeps
        | apply irqEdge_keeps k0 | apply keepsO_next)
    | split)

theorem execUnlistedOpcode_keeps {pm : Nat} {org : State} (hm : Within 4106 pm) (ring : Fin 64) (opcode : Fin 256) (ins :
    Ins) (s : State) (h : Keeps pm org s) : KeepsO pm org (execUnlistedOpcode ring opcode ins s) := by
  have k0 : Within 0 pm := hm.sub rfl
  have k4106 : Within 4106 pm := hm.sub rfl
  unfold execUnlistedOpcode
  repeat' (first
    | (with_reducible first
        | assumption | intro _ | apply abortProgram_keeps k4106 | apply runIns_keeps k4106 | apply onlyIf_keeps
        | apply keeps_ite | apply keeps_ite_fst | apply nextOf_keeps | apply irqEdge_keeps k0 | apply keepsO_next)
    | split)

theorem holdCaptures_keeps {pm : Nat} {org : State} (hm : Within 2 pm) (s : State) (n variant : Nat) (h : Keeps pm org s)
    : Keeps pm org (holdCaptures s n variant) := by
  have k2 : Within 2 pm := hm.sub rfl
  unfold holdCaptures
  repeat' (first
    | (with_reducible first
        | assumption | intro _ | apply setRt_keeps k2 | apply keeps_ite | apply keeps_ite_fst)
    | split)

theorem quoinPoll_keeps {pm : Nat} {org : State} (hm : Within 4106 pm) (s : State) (n : Nat) (h : Keeps pm org s) : Keeps
    pm org (quoinPoll s n) := by
  have k2 : Within 2 pm := hm.sub rfl
  have k4106 : Within 4106 pm := hm.sub rfl
  unfold quoinPoll
  repeat' (first
    | (with_reducible first
        | assumption | intro _ | apply completeIns_keeps k4106 | apply holdCaptures_keeps k2 | apply keeps_ite
        | apply keeps_ite_fst)
    | split)

theorem quoinRun_keeps {pm : Nat} {org : State} (hm : Within 4106 pm) (s : State) (n variant : Nat) (ins : Ins) (h :
    Keeps pm org s) : Keeps pm org (quoinRun s n variant ins) := by
  have k0 : Within 0 pm := hm.sub rfl
  have k2 : Within 2 pm := hm.sub rfl
  have k4106 : Within 4106 pm := hm.sub rfl
  unfold quoinRun
  repeat' (first
    | (with_reducible first
        | assumption | intro _ | apply guardIns_keeps k0 | apply holdCaptures_keeps k2 | apply quoinPoll_keeps k4106
        | apply runIns_keeps k4106 | apply keeps_ite | apply keeps_ite_fst)
    | split)

theorem execQuoin_keeps {pm : Nat} {org : State} (hm : Within 4106 pm) (ring : Fin 64) (ins : Ins) (s : State) (h : Keeps
    pm org s) : KeepsO pm org (execQuoin ring ins s) := by
  have k0 : Within 0 pm := hm.sub rfl
  have k4106 : Within 4106 pm := hm.sub rfl
  unfold execQuoin
  repeat' (first
    | (with_reducible first
        | assumption | intro _ | apply quoinRun_keeps k4106 | apply keeps_ite | apply keeps_ite_fst | apply nextOf_keeps
        | apply irqEdge_keeps k0 | apply keepsO_next)
    | split)

theorem execQuoinW_keeps {pm : Nat} {org : State} (hm : Within 4106 pm) (ring : Fin 64) (ins : Ins) (s : State) (h :
    Keeps pm org s) : KeepsO pm org (execQuoinW ring ins s) := by
  have k0 : Within 0 pm := hm.sub rfl
  have k4106 : Within 4106 pm := hm.sub rfl
  unfold execQuoinW
  repeat' (first
    | (with_reducible first
        | assumption | apply quoinRun_keeps k4106 | apply nextOf_keeps | apply irqEdge_keeps k0 | apply keepsO_next)
    | split)

theorem execQuoinC_keeps {pm : Nat} {org : State} (hm : Within 4106 pm) (ring : Fin 64) (ins : Ins) (s : State) (h :
    Keeps pm org s) : KeepsO pm org (execQuoinC ring ins s) := by
  have k0 : Within 0 pm := hm.sub rfl
  have k4106 : Within 4106 pm := hm.sub rfl
  unfold execQuoinC
  repeat' (first
    | (with_reducible first
        | assumption | apply quoinRun_keeps k4106 | apply nextOf_keeps | apply irqEdge_keeps k0 | apply keepsO_next)
    | split)

theorem execQuoinT_keeps {pm : Nat} {org : State} (hm : Within 4106 pm) (ring : Fin 64) (ins : Ins) (s : State) (h :
    Keeps pm org s) : KeepsO pm org (execQuoinT ring ins s) := by
  have k0 : Within 0 pm := hm.sub rfl
  have k4106 : Within 4106 pm := hm.sub rfl
  unfold execQuoinT
  repeat' (first
    | (with_reducible first
        | assumption | apply quoinRun_keeps k4106 | apply nextOf_keeps | apply irqEdge_keeps k0 | apply keepsO_next)
    | split)

theorem execQuoinX_keeps {pm : Nat} {org : State} (hm : Within 4106 pm) (ring : Fin 64) (ins : Ins) (s : State) (h :
    Keeps pm org s) : KeepsO pm org (execQuoinX ring ins s) := by
  have k0 : Within 0 pm := hm.sub rfl
  have k4106 : Within 4106 pm := hm.sub rfl
  unfold execQuoinX
  repeat' (first
    | (with_reducible first
        | assumption | apply quoinRun_keeps k4106 | apply nextOf_keeps | apply irqEdge_keeps k0 | apply keepsO_next)
    | split)

theorem ringWrite_keeps {pm : Nat} {org : State} (hm : Within 65519 pm) (s : State) (n isn o : Nat) (value : Word) (env :
    WriteEnv) (result : Nat) (h : Keeps pm org s) : Keeps pm org (ringWrite s n isn o value env result).1 := by
  have k8 : Within 8 pm := hm.sub rfl
  have k4096 : Within 4096 pm := hm.sub rfl
  have k65519 : Within 65519 pm := hm.sub rfl
  have b1 := hm.bit (i := 1) rfl
  unfold ringWrite
  dsimp only
  repeat' (first
    | (with_reducible first
        | assumption | intro _ | apply gateDrain_keeps k65519 | apply perf_keeps k4096 | apply regWrite_keeps k65519
        | apply journal_keeps k8 | apply id_keeps | (fail_if_no_progress refine keeps_ctl _ b1 ?_) | apply keeps_ite
        | apply keeps_foldl | apply keeps_foldl_fst)
    | split)

theorem execRw_keeps {pm : Nat} {org : State} (hm : Within 65519 pm) (ring : Fin 64) (ins : Ins) (env : WriteEnv) (s :
    State) (h : Keeps pm org s) : KeepsO pm org (execRw ring ins env s) := by
  have k0 : Within 0 pm := hm.sub rfl
  have k4106 : Within 4106 pm := hm.sub rfl
  have k65519 : Within 65519 pm := hm.sub rfl
  unfold execRw
  repeat' (first
    | (with_reducible first
        | assumption | intro _ | apply guardIns_keeps k0 | apply ringWrite_keeps k65519 | apply runIns_keeps k4106
        | apply nextOf_keeps | apply irqEdge_keeps k0 | apply keepsO_next)
    | split)

theorem execRrd_keeps {pm : Nat} {org : State} (hm : Within 36874 pm) (ring : Fin 64) (ins : Ins) (destOk : Bool) (s :
    State) (h : Keeps pm org s) : KeepsO pm org (execRrd ring ins destOk s) := by
  have k0 : Within 0 pm := hm.sub rfl
  have k2 : Within 2 pm := hm.sub rfl
  have k4104 : Within 4104 pm := hm.sub rfl
  have k4106 : Within 4106 pm := hm.sub rfl
  have k36864 : Within 36864 pm := hm.sub rfl
  unfold execRrd
  repeat' (first
    | (with_reducible first
        | assumption | intro _ | apply guardIns_keeps k0 | apply operandFault_keeps k4104 | apply readEffect_keeps k36864
        | apply runIns_keeps k4106 | apply valueWrite_keeps k2 | apply keeps_ite | apply keeps_ite_fst
        | apply nextOf_keeps | apply irqEdge_keeps k0 | apply keepsO_next)
    | split)

theorem execRmw_keeps {pm : Nat} {org : State} (hm : Within 65519 pm) (ring : Fin 64) (ins : Ins) (block : Block) (env :
    WriteEnv) (s : State) (h : Keeps pm org s) : KeepsO pm org (execRmw ring ins block env s) := by
  have k0 : Within 0 pm := hm.sub rfl
  have k4104 : Within 4104 pm := hm.sub rfl
  have k4106 : Within 4106 pm := hm.sub rfl
  have k32768 : Within 32768 pm := hm.sub rfl
  have k65519 : Within 65519 pm := hm.sub rfl
  unfold execRmw
  repeat' (first
    | (with_reducible first
        | assumption | intro _ | apply gateDrain_keeps k65519 | apply guardIns_keeps k0 | apply look_keeps k32768
        | apply operandFault_keeps k4104 | apply ringWrite_keeps k65519 | apply runIns_keeps k4106 | apply nextOf_keeps
        | apply irqEdge_keeps k0 | apply keepsO_next)
    | split)

theorem execCclr_keeps {pm : Nat} {org : State} (hm : Within 65519 pm) (ring : Fin 64) (ins : Ins) (s : State) (h : Keeps
    pm org s) : KeepsO pm org (execCclr ring ins s) := by
  have k0 : Within 0 pm := hm.sub rfl
  have k8 : Within 8 pm := hm.sub rfl
  have k4096 : Within 4096 pm := hm.sub rfl
  have k4106 : Within 4106 pm := hm.sub rfl
  have k12288 : Within 12288 pm := hm.sub rfl
  have k65519 : Within 65519 pm := hm.sub rfl
  have b6 := hm.bit (i := 6) rfl
  unfold execCclr
  repeat' (first
    | (with_reducible first
        | assumption | intro _ | apply clearAllLatched_keeps k4096 | apply gateDrain_keeps k65519
        | apply guardIns_keeps k0 | apply journal_keeps k8 | apply runIns_keeps k4106 | apply setValue_keeps k12288
        | apply keeps_ite | apply keeps_ite_fst | apply keeps_foldl | apply keeps_foldl_fst | apply nextOf_keeps
        | apply irqEdge_keeps k0 | (fail_if_no_progress refine keeps_core _ b6 ?_) | apply keepsO_next)
    | split)

theorem execWaitt_keeps {pm : Nat} {org : State} (hm : Within 4106 pm) (ring : Fin 64) (ins : Ins) (block : Block) (s :
    State) (h : Keeps pm org s) : KeepsO pm org (execWaitt ring ins block s) := by
  have k0 : Within 0 pm := hm.sub rfl
  have k4104 : Within 4104 pm := hm.sub rfl
  have k4106 : Within 4106 pm := hm.sub rfl
  unfold execWaitt
  repeat' (first
    | (with_reducible first
        | assumption | intro _ | apply guardIns_keeps k0 | apply operandFault_keeps k4104 | apply runIns_keeps k4106
        | apply keeps_ite | apply keeps_ite_fst | apply nextOf_keeps | apply irqEdge_keeps k0 | apply keepsO_next)
    | split)

theorem waittNow_keeps {pm : Nat} {org : State} (hm : Within 4106 pm) (s : State) (n : Nat) (h : Keeps pm org s) : Keeps
    pm org (waittNow s n) := by
  have k4106 : Within 4106 pm := hm.sub rfl
  unfold waittNow
  repeat' (first
    | (with_reducible first
        | assumption | intro _ | apply completeIns_keeps k4106 | apply onlyIf_keeps | apply keeps_ite
        | apply keeps_ite_fst)
    | split)

theorem execWaittTimeReached_keeps {pm : Nat} {org : State} (hm : Within 4106 pm) (ring : Fin 64) (s : State) (h : Keeps
    pm org s) : KeepsO pm org (execWaittTimeReached ring s) := by
  have k0 : Within 0 pm := hm.sub rfl
  have k4106 : Within 4106 pm := hm.sub rfl
  unfold execWaittTimeReached
  repeat' (first
    | (with_reducible first
        | assumption | apply waittNow_keeps k4106 | apply nextOf_keeps | apply irqEdge_keeps k0 | apply keepsO_next)
    | split)

theorem execTset_keeps {pm : Nat} {org : State} (hm : Within 4687 pm) (ring : Fin 64) (ins : Ins) (block : Block) (s :
    State) (h : Keeps pm org s) : KeepsO pm org (execTset ring ins block s) := by
  have k0 : Within 0 pm := hm.sub rfl
  have k8 : Within 8 pm := hm.sub rfl
  have k4104 : Within 4104 pm := hm.sub rfl
  have k4106 : Within 4106 pm := hm.sub rfl
  have k4687 : Within 4687 pm := hm.sub rfl
  unfold execTset
  repeat' (first
    | (with_reducible first
        | assumption | intro _ | apply guardIns_keeps k0 | apply journal_keeps k8 | apply journalPart_keeps k8
        | apply operandFault_keeps k4104 | apply runIns_keeps k4106 | apply stepDomain_keeps k4687 | apply keeps_ite
        | apply keeps_ite_fst | apply nextOf_keeps | apply irqEdge_keeps k0 | apply keepsO_next)
    | split)

theorem tadjRun_keeps {pm : Nat} {org : State} (hm : Within 4687 pm) (s : State) (n mode : Nat) (ins : Ins) (h : Keeps pm
    org s) : Keeps pm org (tadjRun s n mode ins) := by
  have k0 : Within 0 pm := hm.sub rfl
  have k1 : Within 1 pm := hm.sub rfl
  have k8 : Within 8 pm := hm.sub rfl
  have k4096 : Within 4096 pm := hm.sub rfl
  have k4106 : Within 4106 pm := hm.sub rfl
  have k4687 : Within 4687 pm := hm.sub rfl
  unfold tadjRun
  repeat' (first
    | (with_reducible first
        | assumption | intro _ | apply guardIns_keeps k0 | apply journal_keeps k8 | apply runIns_keeps k4106
        | apply slewDomain_keeps k1 | apply stepDomain_keeps k4687 | apply wr_keeps k4096 | apply keeps_ite
        | apply keeps_ite_fst)
    | split)

theorem execTadjStep_keeps {pm : Nat} {org : State} (hm : Within 4687 pm) (ring : Fin 64) (ins : Ins) (s : State) (h :
    Keeps pm org s) : KeepsO pm org (execTadjStep ring ins s) := by
  have k0 : Within 0 pm := hm.sub rfl
  have k4687 : Within 4687 pm := hm.sub rfl
  unfold execTadjStep
  repeat' (first
    | (with_reducible first
        | assumption | intro _ | apply tadjRun_keeps k4687 | apply keeps_ite | apply keeps_ite_fst | apply nextOf_keeps
        | apply irqEdge_keeps k0 | apply keepsO_next)
    | split)

theorem execTadjSlew_keeps {pm : Nat} {org : State} (hm : Within 4687 pm) (ring : Fin 64) (ins : Ins) (s : State) (h :
    Keeps pm org s) : KeepsO pm org (execTadjSlew ring ins s) := by
  have k0 : Within 0 pm := hm.sub rfl
  have k4687 : Within 4687 pm := hm.sub rfl
  unfold execTadjSlew
  repeat' (first
    | (with_reducible first
        | assumption | intro _ | apply tadjRun_keeps k4687 | apply keeps_ite | apply keeps_ite_fst | apply nextOf_keeps
        | apply irqEdge_keeps k0 | apply keepsO_next)
    | split)

theorem execTadjFreq_keeps {pm : Nat} {org : State} (hm : Within 4687 pm) (ring : Fin 64) (ins : Ins) (s : State) (h :
    Keeps pm org s) : KeepsO pm org (execTadjFreq ring ins s) := by
  have k0 : Within 0 pm := hm.sub rfl
  have k4687 : Within 4687 pm := hm.sub rfl
  unfold execTadjFreq
  repeat' (first
    | (with_reducible first
        | assumption | intro _ | apply tadjRun_keeps k4687 | apply keeps_ite | apply keeps_ite_fst | apply nextOf_keeps
        | apply irqEdge_keeps k0 | apply keepsO_next)
    | split)

end Sys2Proof.Machine
end

