-- ==== Sys2Proof/Laws/KeepsL.lean ====
section
/-! SUPPORT. Keeps, for every operation of Machine/: Startup.lean, MemErrors.lean, ReadRows.lean, Repair.lean. -/

set_option linter.unusedTactic false
set_option linter.unreachableTactic false
set_option linter.unusedVariables false

namespace Sys2Proof.Machine

theorem cipherStored_keeps {pm : Nat} {org : State} (hm : Within 4096 pm) (s : State) (h : Keeps pm org s) : Keeps pm org
    (cipherStored s) := by
  have k4096 : Within 4096 pm := hm.sub rfl
  unfold cipherStored
  repeat' (first | (with_reducible first | assumption | apply wrB_keeps k4096 | apply wrF_keeps k4096) | split)

theorem resetInto_keeps {pm : Nat} {org : State} (hm : Within 32767 pm) (s : State) (cause kind : Nat) (h : Keeps pm org
    s) : Keeps pm org (resetInto s cause kind) := by
  have k8 : Within 8 pm := hm.sub rfl
  have k4096 : Within 4096 pm := hm.sub rfl
  have k4360 : Within 4360 pm := hm.sub rfl
  have k6152 : Within 6152 pm := hm.sub rfl
  have k32767 : Within 32767 pm := hm.sub rfl
  unfold resetInto
  repeat' (first
    | (with_reducible first
        | assumption | apply cipherStored_keeps k4096 | apply closeAllWindows_keeps k6152 | apply endAllRoles_keeps k4360
        | apply journalReset_keeps k8 | apply restart_keeps k32767 | apply setDevState_keeps k4096
        | apply setResetCause_keeps k4096 | apply wrB_keeps k4096)
    | split)

theorem powerOff_keeps {pm : Nat} {org : State} (hm : Within 32767 pm) (s : State) (h : Keeps pm org s) : Keeps pm org
    (powerOff s) := by
  have k32767 : Within 32767 pm := hm.sub rfl
  have b11 := hm.bit (i := 11) rfl
  unfold powerOff
  repeat' (first
    | (with_reducible first
        | assumption | apply restart_keeps k32767 | (fail_if_no_progress refine keeps_pwr _ b11 ?_))
    | split)

theorem execPowerOn_keeps {pm : Nat} {org : State} (hm : Within 32767 pm) (cycled : Bool) (s : State) (h : Keeps pm org
    s) : KeepsO pm org (execPowerOn cycled s) := by
  have k0 : Within 0 pm := hm.sub rfl
  have k4096 : Within 4096 pm := hm.sub rfl
  have k32767 : Within 32767 pm := hm.sub rfl
  have b11 := hm.bit (i := 11) rfl
  unfold execPowerOn
  repeat' (first
    | (with_reducible first
        | assumption | intro _ | apply cipherStored_keeps k4096 | apply restart_keeps k32767
        | apply setDevState_keeps k4096 | apply setResetCause_keeps k4096 | apply wrF_keeps k4096 | apply onlyIf_keeps
        | apply nextOf_keeps | apply irqEdge_keeps k0 | (fail_if_no_progress refine keeps_pwr _ b11 ?_)
        | apply keepsO_next)
    | split)

theorem resumeCounts_keeps {pm : Nat} {org : State} (hm : Within 8 pm) (s : State) (pcycleOk : Bool) (h : Keeps pm org s)
    : Keeps pm org (resumeCounts s pcycleOk) := by
  have b3 := hm.bit (i := 3) rfl
  unfold resumeCounts
  repeat' (first
    | (with_reducible first
        | assumption | intro _ | apply keeps_ite | apply keeps_ite_fst | apply keeps_foldl | apply keeps_foldl_fst
        | (fail_if_no_progress refine keeps_rcd _ b3 ?_))
    | split)

theorem postPending_keeps {pm : Nat} {org : State} (hm : Within 6152 pm) (s : State) (h : Keeps pm org s) : Keeps pm org
    (postPending s) := by
  have k4096 : Within 4096 pm := hm.sub rfl
  have k4104 : Within 4104 pm := hm.sub rfl
  have b11 := hm.bit (i := 11) rfl
  unfold postPending
  repeat' (first
    | (with_reducible first
        | assumption | intro _ | apply postHw_keeps k4104 | apply setBoundary_keeps k4096 | apply wrB_keeps k4096
        | apply keeps_ite | apply keeps_ite_fst | (fail_if_no_progress refine keeps_pwr _ b11 ?_))
    | split)

theorem execSupervise_keeps {pm : Nat} {org : State} (hm : Within 6152 pm) (pcycleOk : Bool) (s : State) (h : Keeps pm
    org s) : KeepsO pm org (execSupervise pcycleOk s) := by
  have k0 : Within 0 pm := hm.sub rfl
  have k8 : Within 8 pm := hm.sub rfl
  have k4096 : Within 4096 pm := hm.sub rfl
  have k4104 : Within 4104 pm := hm.sub rfl
  have k6152 : Within 6152 pm := hm.sub rfl
  have b11 := hm.bit (i := 11) rfl
  unfold execSupervise
  repeat' (first
    | (with_reducible first
        | assumption | intro _ | apply postHw_keeps k4104 | apply postPending_keeps k6152 | apply resumeCounts_keeps k8
        | apply setDevState_keeps k4096 | apply onlyIf_keeps | apply keeps_ite | apply keeps_ite_fst | apply nextOf_keeps
        | apply irqEdge_keeps k0 | (fail_if_no_progress refine keeps_pwr _ b11 ?_) | apply keepsO_next)
    | split)

theorem startStop_keeps {pm : Nat} {org : State} (hm : Within 6664 pm) (scan : State → State) (s : State) (cause memory :
    Nat) (hscan : ∀ y0, Keeps pm org y0 → Keeps pm org (scan y0)) (h : Keeps pm org s) : Keeps pm org (startStop scan s
    cause memory) := by
  have k4104 : Within 4104 pm := hm.sub rfl
  have k6144 : Within 6144 pm := hm.sub rfl
  have b9 := hm.bit (i := 9) rfl
  have b11 := hm.bit (i := 11) rfl
  unfold startStop
  repeat' (first
    | (with_reducible first
        | assumption | intro _ | apply assertFault_keeps k6144 | apply postHw_keeps k4104 | apply keeps_ite
        | apply keeps_ite_fst | (fail_if_no_progress refine keeps_mp _ b9 ?_)
        | (fail_if_no_progress refine keeps_pwr _ b11 ?_) | apply hscan)
    | split)

theorem firmwareBad_keeps {pm : Nat} {org : State} (hm : Within 7272 pm) (s : State) (h : Keeps pm org s) : Keeps pm org
    (firmwareBad s) := by
  have k4104 : Within 4104 pm := hm.sub rfl
  have k7272 : Within 7272 pm := hm.sub rfl
  unfold firmwareBad
  repeat' (first | (with_reducible first | assumption | apply postHw_keeps k4104 | apply testFails_keeps k7272) | split)

theorem fwSelect_keeps {pm : Nat} {org : State} (hm : Within 7784 pm) (s : State) (okA okB : Bool) (h : Keeps pm org s) :
    Keeps pm org (fwSelect s okA okB) := by
  have k4096 : Within 4096 pm := hm.sub rfl
  have k6664 : Within 6664 pm := hm.sub rfl
  have k7272 : Within 7272 pm := hm.sub rfl
  have b11 := hm.bit (i := 11) rfl
  unfold fwSelect
  repeat' (first
    | (with_reducible first
        | assumption | intro _ | apply cipherStored_keeps k4096 | apply firmwareBad_keeps k7272
        | apply startStop_keeps k6664 | (fail_if_no_progress refine keeps_pwr _ b11 ?_))
    | split)

theorem claveStart_keeps {pm : Nat} {org : State} (hm : Within 4106 pm) (s : State) (okA okB : Bool) (h : Keeps pm org s)
    : Keeps pm org (claveStart s okA okB) := by
  have k4096 : Within 4096 pm := hm.sub rfl
  have k4104 : Within 4104 pm := hm.sub rfl
  have b1 := hm.bit (i := 1) rfl
  unfold claveStart
  repeat' (first
    | (with_reducible first
        | assumption | intro _ | apply claveHalt_keeps k4104 | apply setClaveMode_keeps k4096
        | apply setClaveState_keeps k4096 | apply keeps_ite | apply keeps_ite_fst
        | (fail_if_no_progress refine keeps_ctl _ b1 ?_))
    | split)

theorem keyStoreStart_keeps {pm : Nat} {org : State} (hm : Within 35072 pm) (s : State) (h : Keeps pm org s) : Keeps pm
    org (keyStoreStart s) := by
  have k33024 : Within 33024 pm := hm.sub rfl
  have b11 := hm.bit (i := 11) rfl
  unfold keyStoreStart
  repeat' (first
    | (with_reducible first
        | assumption | intro _ | apply drbgDraw_keeps k33024 | apply drbgSeed_keeps k33024 | apply keeps_ite
        | apply keeps_ite_fst | (fail_if_no_progress refine keeps_pwr _ b11 ?_))
    | split)

theorem boundaryStart_keeps {pm : Nat} {org : State} (hm : Within 40296 pm) (s : State) (fail : Option (Fin 10 × Fin 40))
    (h : Keeps pm org s) : Keeps pm org (boundaryStart s fail) := by
  have k4096 : Within 4096 pm := hm.sub rfl
  have k4104 : Within 4104 pm := hm.sub rfl
  have k7272 : Within 7272 pm := hm.sub rfl
  have k35072 : Within 35072 pm := hm.sub rfl
  unfold boundaryStart
  dsimp only
  repeat' (first
    | (with_reducible first
        | assumption | intro _ | apply keyStoreStart_keeps k35072 | apply postHw_keeps k4104
        | apply setBoundary_keeps k4096 | apply testFails_keeps k7272 | apply keeps_ite | apply keeps_ite_fst)
    | split | dsimp only)

theorem execSelftest_keeps {pm : Nat} {org : State} (hm : Within 40810 pm) (repaired : Bool) (fail : Option (Fin 10 × Fin
    40)) (fwA fwB claveA claveB : Bool) (s : State) (h : Keeps pm org s) : KeepsO pm org (execSelftest repaired fail fwA
    fwB claveA claveB s) := by
  have k0 : Within 0 pm := hm.sub rfl
  have k4096 : Within 4096 pm := hm.sub rfl
  have k4106 : Within 4106 pm := hm.sub rfl
  have k7784 : Within 7784 pm := hm.sub rfl
  have k40296 : Within 40296 pm := hm.sub rfl
  unfold execSelftest
  repeat' (first
    | (with_reducible first
        | assumption | intro _ | apply boundaryStart_keeps k40296 | apply claveStart_keeps k4106
        | apply fwSelect_keeps k7784 | apply setDevState_keeps k4096 | apply wrB_keeps k4096 | apply onlyIf_keeps
        | apply nextOf_keeps | apply irqEdge_keeps k0 | apply keepsO_next)
    | split)

theorem scanHead_keeps {pm : Nat} {org : State} (hm : Within 4096 pm) (s : State) (k : Nat) (h : Keeps pm org s) : Keeps
    pm org (scanHead s k) := by
  have k4096 : Within 4096 pm := hm.sub rfl
  unfold scanHead
  repeat' (first | (with_reducible first | assumption | intro _ | apply wr_keeps k4096) | split)

theorem recScan_keeps {pm : Nat} {org : State} (hm : Within 38920 pm) (s : State) (decayed : List (Fin 4 × Nat)) (h :
    Keeps pm org s) : Keeps pm org (recScan s decayed) := by
  have k4096 : Within 4096 pm := hm.sub rfl
  have k4104 : Within 4104 pm := hm.sub rfl
  have k6152 : Within 6152 pm := hm.sub rfl
  have b3 := hm.bit (i := 3) rfl
  have b15 := hm.bit (i := 15) rfl
  unfold recScan
  dsimp only
  repeat' (first
    | (with_reducible first
        | assumption | intro _ | apply handleEvent_keeps k6152 | apply postHw_keeps k4104 | apply scanHead_keeps k4096
        | apply wr_keeps k4096 | apply wrB_keeps k4096 | apply wrF_keeps k4096 | apply keeps_ite | apply keeps_ite_fst
        | apply keeps_foldl | apply keeps_foldl_fst | (fail_if_no_progress refine keeps_fresh_rcd _ b3 b15 ?_)
        | (fail_if_no_progress refine keeps_rcd _ b3 ?_))
    | split | dsimp only)

theorem drawSeeds_keeps {pm : Nat} {org : State} (hm : Within 37120 pm) (s : State) (h : Keeps pm org s) : Keeps pm org
    (drawSeeds s) := by
  have k4096 : Within 4096 pm := hm.sub rfl
  have k33024 : Within 33024 pm := hm.sub rfl
  unfold drawSeeds
  repeat' (first
    | (with_reducible first
        | assumption | intro _ | apply drbgDraw_keeps k33024 | apply wr_keeps k4096 | apply keeps_foldl
        | apply keeps_foldl_fst)
    | split)

theorem execLoad_keeps {pm : Nat} {org : State} (hm : Within 65519 pm) (decayed : List (Fin 4 × Nat)) (sig0 sig1 : Bool)
    (decay : Option (Fin 5)) (s : State) (h : Keeps pm org s) : KeepsO pm org (execLoad decayed sig0 sig1 decay s) := by
  have k0 : Within 0 pm := hm.sub rfl
  have k4096 : Within 4096 pm := hm.sub rfl
  have k4104 : Within 4104 pm := hm.sub rfl
  have k37120 : Within 37120 pm := hm.sub rfl
  have k38920 : Within 38920 pm := hm.sub rfl
  have k65519 : Within 65519 pm := hm.sub rfl
  have b9 := hm.bit (i := 9) rfl
  unfold execLoad
  repeat' (first
    | (with_reducible first
        | assumption | intro _ | apply bootLoad_keeps k65519 | apply drawSeeds_keeps k37120 | apply recScan_keeps k38920
        | apply setDevState_keeps k4096 | apply takeMode_keeps k4104 | apply onlyIf_keeps | apply nextOf_keeps
        | apply irqEdge_keeps k0 | (fail_if_no_progress refine keeps_mp _ b9 ?_) | apply keepsO_next)
    | split)

theorem octetFault_keeps {pm : Nat} {org : State} (hm : Within 4104 pm) (s : State) (n : Nat) (h : Keeps pm org s) :
    Keeps pm org (octetFault s n) := by
  have k4096 : Within 4096 pm := hm.sub rfl
  have k4104 : Within 4104 pm := hm.sub rfl
  unfold octetFault
  repeat' (first | (with_reducible first | assumption | apply postHw_keeps k4104 | apply wrB_keeps k4096) | split)

theorem stackFault_keeps {pm : Nat} {org : State} (hm : Within 4104 pm) (s : State) (k : Nat) (h : Keeps pm org s) :
    Keeps pm org (stackFault s k) := by
  have k4096 : Within 4096 pm := hm.sub rfl
  have k4104 : Within 4104 pm := hm.sub rfl
  unfold stackFault
  repeat' (first | (with_reducible first | assumption | apply postHw_keeps k4104 | apply wrB_keeps k4096) | split)

theorem execTrain_keeps {pm : Nat} {org : State} (hm : Within 4680 pm) (stack0 stack1 : Bool) (octets : List (Fin 32)) (s
    : State) (h : Keeps pm org s) : KeepsO pm org (execTrain stack0 stack1 octets s) := by
  have k0 : Within 0 pm := hm.sub rfl
  have k4096 : Within 4096 pm := hm.sub rfl
  have k4104 : Within 4104 pm := hm.sub rfl
  have b6 := hm.bit (i := 6) rfl
  have b9 := hm.bit (i := 9) rfl
  unfold execTrain
  repeat' (first
    | (with_reducible first
        | assumption | intro _ | apply octetFault_keeps k4104 | apply postHw_keeps k4104 | apply setDevState_keeps k4096
        | apply stackFault_keeps k4104 | apply wrB_keeps k4096 | apply onlyIf_keeps | apply keeps_ite
        | apply keeps_ite_fst | apply keeps_foldl | apply keeps_foldl_fst | apply nextOf_keeps | apply irqEdge_keeps k0
        | (fail_if_no_progress refine keeps_core _ b6 ?_) | (fail_if_no_progress refine keeps_mp _ b9 ?_)
        | apply keepsO_next)
    | split)

theorem execHold_keeps {pm : Nat} {org : State} (hm : Within 6184 pm) (s : State) (h : Keeps pm org s) : KeepsO pm org
    (execHold s) := by
  have k0 : Within 0 pm := hm.sub rfl
  have k4096 : Within 4096 pm := hm.sub rfl
  have k4136 : Within 4136 pm := hm.sub rfl
  have b11 := hm.bit (i := 11) rfl
  unfold execHold
  repeat' (first
    | (with_reducible first
        | assumption | intro _ | apply setDevState_keeps k4096 | apply startRun_keeps k4136 | apply onlyIf_keeps
        | apply keeps_ite | apply keeps_ite_fst | apply nextOf_keeps | apply irqEdge_keeps k0
        | (fail_if_no_progress refine keeps_pwr _ b11 ?_) | apply keepsO_next)
    | split)

theorem execStartStop_keeps {pm : Nat} {org : State} (hm : Within 40552 pm) (cause : Fin 3) (memory : Nat) (s : State) (h
    : Keeps pm org s) : KeepsO pm org (execStartStop cause memory s) := by
  have k0 : Within 0 pm := hm.sub rfl
  have k6664 : Within 6664 pm := hm.sub rfl
  have k7272 : Within 7272 pm := hm.sub rfl
  have k38920 : Within 38920 pm := hm.sub rfl
  unfold execStartStop
  repeat' (first
    | (with_reducible first
        | assumption | intro _ | apply firmwareBad_keeps k7272 | apply recScan_keeps k38920 | apply startStop_keeps k6664
        | apply onlyIf_keeps | apply keeps_ite | apply keeps_ite_fst | apply nextOf_keeps | apply irqEdge_keeps k0
        | apply keepsO_next)
    | split)

theorem execShutdown_keeps {pm : Nat} {org : State} (hm : Within 32767 pm) (vinLost : Bool) (s : State) (h : Keeps pm org
    s) : KeepsO pm org (execShutdown vinLost s) := by
  have k0 : Within 0 pm := hm.sub rfl
  have k6152 : Within 6152 pm := hm.sub rfl
  have k32767 : Within 32767 pm := hm.sub rfl
  have b3 := hm.bit (i := 3) rfl
  have b11 := hm.bit (i := 11) rfl
  unfold execShutdown
  repeat' (first
    | (with_reducible first
        | assumption | intro _ | apply closeAllWindows_keeps k6152 | apply powerOff_keeps k32767 | apply keeps_ite
        | apply keeps_ite_fst | apply nextOf_keeps | apply irqEdge_keeps k0
        | (fail_if_no_progress refine keeps_pwr _ b11 ?_) | (fail_if_no_progress refine keeps_rcd _ b3 ?_)
        | apply keepsO_next)
    | split)

theorem execRailFault_keeps {pm : Nat} {org : State} (hm : Within 32767 pm) (thermal : Bool) (s : State) (h : Keeps pm
    org s) : KeepsO pm org (execRailFault thermal s) := by
  have k0 : Within 0 pm := hm.sub rfl
  have k32767 : Within 32767 pm := hm.sub rfl
  have b11 := hm.bit (i := 11) rfl
  unfold execRailFault
  repeat' (first
    | (with_reducible first
        | assumption | intro _ | apply powerOff_keeps k32767 | apply onlyIf_keeps | apply keeps_ite | apply keeps_ite_fst
        | apply nextOf_keeps | apply irqEdge_keeps k0 | (fail_if_no_progress refine keeps_pwr _ b11 ?_)
        | apply keepsO_next)
    | split)

theorem execThermWarn_keeps {pm : Nat} {org : State} (hm : Within 6728 pm) (sensor : Fin 24) (temp : BitVec 16) (s :
    State) (h : Keeps pm org s) : KeepsO pm org (execThermWarn sensor temp s) := by
  have k0 : Within 0 pm := hm.sub rfl
  have k4096 : Within 4096 pm := hm.sub rfl
  have k4680 : Within 4680 pm := hm.sub rfl
  have k6152 : Within 6152 pm := hm.sub rfl
  unfold execThermWarn
  repeat' (first
    | (with_reducible first
        | assumption | intro _ | apply hbmSample_keeps k4680 | apply thermRefresh_keeps k6152 | apply wrF_keeps k4096
        | apply onlyIf_keeps | apply keeps_ite | apply keeps_ite_fst | apply nextOf_keeps | apply irqEdge_keeps k0
        | apply keepsO_next)
    | split)

theorem execResetN_keeps {pm : Nat} {org : State} (hm : Within 32767 pm) (lowNs : Nat) (taken : Bool) (s : State) (h :
    Keeps pm org s) : KeepsO pm org (execResetN lowNs taken s) := by
  have k0 : Within 0 pm := hm.sub rfl
  have k32767 : Within 32767 pm := hm.sub rfl
  unfold execResetN
  repeat' (first
    | (with_reducible first
        | assumption | intro _ | apply resetInto_keeps k32767 | apply onlyIf_keeps | apply nextOf_keeps
        | apply irqEdge_keeps k0 | apply keepsO_next)
    | split)

theorem execHostFundamentalReset_keeps {pm : Nat} {org : State} (hm : Within 32767 pm) (s : State) (h : Keeps pm org s) :
    KeepsO pm org (execHostFundamentalReset s) := by
  have k0 : Within 0 pm := hm.sub rfl
  have k32767 : Within 32767 pm := hm.sub rfl
  unfold execHostFundamentalReset
  repeat' (first
    | (with_reducible first
        | assumption | intro _ | apply resetInto_keeps k32767 | apply onlyIf_keeps | apply nextOf_keeps
        | apply irqEdge_keeps k0 | apply keepsO_next)
    | split)

theorem zeroise_keeps {pm : Nat} {org : State} (hm : Within 32767 pm) (s : State) (b path : Nat) (h : Keeps pm org s) :
    Keeps pm org (zeroise s b path) := by
  have k8 : Within 8 pm := hm.sub rfl
  have k4096 : Within 4096 pm := hm.sub rfl
  have k4104 : Within 4104 pm := hm.sub rfl
  have k6408 : Within 6408 pm := hm.sub rfl
  have k32767 : Within 32767 pm := hm.sub rfl
  have b11 := hm.bit (i := 11) rfl
  unfold zeroise
  repeat' (first
    | (with_reducible first
        | assumption | intro _ | apply journalZero_keeps k8 | apply postHw_keeps k4104 | apply resetInto_keeps k32767
        | apply wrB_keeps k4096 | apply wrF_keeps k4096 | apply zeroStore_keeps k6408 | apply keeps_ite
        | apply keeps_ite_fst | (fail_if_no_progress refine keeps_pwr _ b11 ?_))
    | split)

theorem execZeroiseN_keeps {pm : Nat} {org : State} (hm : Within 32767 pm) (lowNs : Nat) (taken : Bool) (s : State) (h :
    Keeps pm org s) : KeepsO pm org (execZeroiseN lowNs taken s) := by
  have k0 : Within 0 pm := hm.sub rfl
  have k32767 : Within 32767 pm := hm.sub rfl
  unfold execZeroiseN
  repeat' (first
    | (with_reducible first
        | assumption | intro _ | apply zeroise_keeps k32767 | apply onlyIf_keeps | apply nextOf_keeps
        | apply irqEdge_keeps k0 | apply keepsO_next)
    | split)

theorem execTamperMesh_keeps {pm : Nat} {org : State} (hm : Within 32767 pm) (s : State) (h : Keeps pm org s) : KeepsO pm
    org (execTamperMesh s) := by
  have k0 : Within 0 pm := hm.sub rfl
  have k32767 : Within 32767 pm := hm.sub rfl
  unfold execTamperMesh
  repeat' (first
    | (with_reducible first
        | assumption | apply zeroise_keeps k32767 | apply nextOf_keeps | apply irqEdge_keeps k0 | apply keepsO_next)
    | split)

theorem execBoardLoop_keeps {pm : Nat} {org : State} (hm : Within 32767 pm) (loop : Fin 2) (mismatch : Bool) (s : State)
    (h : Keeps pm org s) : KeepsO pm org (execBoardLoop loop mismatch s) := by
  have k0 : Within 0 pm := hm.sub rfl
  have k32767 : Within 32767 pm := hm.sub rfl
  have b8 := hm.bit (i := 8) rfl
  unfold execBoardLoop
  repeat' (first
    | (with_reducible first
        | assumption | intro _ | apply zeroise_keeps k32767 | apply onlyIf_keeps | apply keeps_ite | apply keeps_ite_fst
        | apply nextOf_keeps | apply irqEdge_keeps k0 | (fail_if_no_progress refine keeps_ciph _ b8 ?_)
        | apply keepsO_next)
    | split)

theorem execVkeepLoss_keeps {pm : Nat} {org : State} (hm : Within 32767 pm) (s : State) (h : Keeps pm org s) : KeepsO pm
    org (execVkeepLoss s) := by
  have k0 : Within 0 pm := hm.sub rfl
  have k32767 : Within 32767 pm := hm.sub rfl
  have b11 := hm.bit (i := 11) rfl
  unfold execVkeepLoss
  repeat' (first
    | (with_reducible first
        | assumption | intro _ | apply zeroise_keeps k32767 | apply onlyIf_keeps | apply nextOf_keeps
        | apply irqEdge_keeps k0 | (fail_if_no_progress refine keeps_pwr _ b11 ?_) | apply keepsO_next)
    | split)

theorem execTamperSelChange_keeps {pm : Nat} {org : State} (hm : Within 32767 pm) (level : Bool) (s : State) (h : Keeps
    pm org s) : KeepsO pm org (execTamperSelChange level s) := by
  have k0 : Within 0 pm := hm.sub rfl
  have k32767 : Within 32767 pm := hm.sub rfl
  have b11 := hm.bit (i := 11) rfl
  unfold execTamperSelChange
  repeat' (first
    | (with_reducible first
        | assumption | intro _ | apply zeroise_keeps k32767 | apply keeps_ite | apply keeps_ite_fst | apply nextOf_keeps
        | apply irqEdge_keeps k0 | (fail_if_no_progress refine keeps_pwr _ b11 ?_) | apply keepsO_next)
    | split)

theorem countCe_keeps {pm : Nat} {org : State} (hm : Within 4096 pm) (s : State) (h : Keeps pm org s) : Keeps pm org
    (countCe s) := by
  have k4096 : Within 4096 pm := hm.sub rfl
  unfold countCe
  repeat' (first | (with_reducible first | assumption | apply wrF_keeps k4096) | split)

theorem countUe_keeps {pm : Nat} {org : State} (hm : Within 4096 pm) (s : State) (h : Keeps pm org s) : Keeps pm org
    (countUe s) := by
  have k4096 : Within 4096 pm := hm.sub rfl
  unfold countUe
  repeat' (first | (with_reducible first | assumption | apply wrF_keeps k4096) | split)

theorem ceRate_keeps {pm : Nat} {org : State} (hm : Within 6728 pm) (s : State) (m : MemUnit) (h : Keeps pm org s) :
    Keeps pm org (ceRate s m) := by
  have k4096 : Within 4096 pm := hm.sub rfl
  have k4104 : Within 4104 pm := hm.sub rfl
  have k4680 : Within 4680 pm := hm.sub rfl
  have b11 := hm.bit (i := 11) rfl
  unfold ceRate
  repeat' (first
    | (with_reducible first
        | assumption | intro _ | apply postRate_keeps k4104 | apply retrain_keeps k4680 | apply wrB_keeps k4096
        | apply keeps_ite | apply keeps_ite_fst | (fail_if_no_progress refine keeps_pwr _ b11 ?_))
    | split)

theorem ceCell_keeps {pm : Nat} {org : State} (hm : Within 2048 pm) (s : State) (t c : Nat) (h : Keeps pm org s) : Keeps
    pm org (ceCell s t c) := by
  have b11 := hm.bit (i := 11) rfl
  unfold ceCell
  repeat' (first
    | (with_reducible first
        | assumption | intro _ | apply keeps_ite | apply keeps_ite_fst | (fail_if_no_progress refine keeps_pwr _ b11 ?_))
    | split)

theorem execMemCe_keeps {pm : Nat} {org : State} (hm : Within 6728 pm) (unit : MemUnit) (cell : Option (Fin 65536)) (s :
    State) (h : Keeps pm org s) : KeepsO pm org (execMemCe unit cell s) := by
  have k0 : Within 0 pm := hm.sub rfl
  have k2048 : Within 2048 pm := hm.sub rfl
  have k4096 : Within 4096 pm := hm.sub rfl
  have k6728 : Within 6728 pm := hm.sub rfl
  unfold execMemCe
  repeat' (first
    | (with_reducible first
        | assumption | intro _ | apply ceCell_keeps k2048 | apply ceRate_keeps k6728 | apply countCe_keeps k4096
        | apply onlyIf_keeps | apply keeps_ite | apply keeps_ite_fst | apply nextOf_keeps | apply irqEdge_keeps k0
        | apply keepsO_next)
    | split)

theorem execCellRetire_keeps {pm : Nat} {org : State} (hm : Within 6152 pm) (tile : Fin 8) (cell : Fin 65536) (s : State)
    (h : Keeps pm org s) : KeepsO pm org (execCellRetire tile cell s) := by
  have k0 : Within 0 pm := hm.sub rfl
  have k4096 : Within 4096 pm := hm.sub rfl
  have k4104 : Within 4104 pm := hm.sub rfl
  have b11 := hm.bit (i := 11) rfl
  unfold execCellRetire
  repeat' (first
    | (with_reducible first
        | assumption | intro _ | apply postHw_keeps k4104 | apply wrF_keeps k4096 | apply onlyIf_keeps
        | apply nextOf_keeps | apply irqEdge_keeps k0 | (fail_if_no_progress refine keeps_pwr _ b11 ?_)
        | apply keepsO_next)
    | split)

theorem cellUeDrop_keeps {pm : Nat} {org : State} (hm : Within 4104 pm) (s : State) (t : Nat) (h : Keeps pm org s) :
    Keeps pm org (cellUeDrop s t) := by
  have k4104 : Within 4104 pm := hm.sub rfl
  unfold cellUeDrop
  repeat' (first | (with_reducible first | assumption | apply tileCount_keeps k4104) | split)

theorem ueFrame_keeps {pm : Nat} {org : State} (hm : Within 5224 pm) (s : State) (f : Frame) (whole : Bool) (h : Keeps pm
    org s) : Keeps pm org (ueFrame s f whole) := by
  have k32 : Within 32 pm := hm.sub rfl
  have k4104 : Within 4104 pm := hm.sub rfl
  have k5224 : Within 5224 pm := hm.sub rfl
  unfold ueFrame
  repeat' (first
    | (with_reducible first
        | assumption | intro _ | apply cellUeDrop_keeps k4104 | apply dropCopy_keeps k5224 | apply putFrame_keeps k32
        | apply removeFrame_keeps k32 | apply stompFrame_keeps k5224 | apply keeps_ite | apply keeps_ite_fst
        | apply keeps_foldl | apply keeps_foldl_fst)
    | split)

theorem ueCell_keeps {pm : Nat} {org : State} (hm : Within 5224 pm) (s : State) (unit index kind frame : Nat) (h : Keeps
    pm org s) : Keeps pm org (ueCell s unit index kind frame) := by
  have k4104 : Within 4104 pm := hm.sub rfl
  have k5224 : Within 5224 pm := hm.sub rfl
  unfold ueCell
  dsimp only
  repeat' (first
    | (with_reducible first
        | assumption | intro _ | apply postHw_keeps k4104 | apply ueFrame_keeps k5224)
    | split | dsimp only)

theorem ueQueue_keeps {pm : Nat} {org : State} (hm : Within 5224 pm) (s : State) (p c q : Nat) (h : Keeps pm org s) :
    Keeps pm org (ueQueue s p c q) := by
  have k4104 : Within 4104 pm := hm.sub rfl
  have k5224 : Within 5224 pm := hm.sub rfl
  unfold ueQueue
  repeat' (first
    | (with_reducible first
        | assumption | intro _ | apply cellUeDrop_keeps k4104 | apply dropCopy_keeps k5224 | apply keeps_foldl
        | apply keeps_foldl_fst)
    | split)

theorem ueEffect_keeps {pm : Nat} {org : State} (hm : Within 65262 pm) (s : State) (u : UeSite)
    (h : Keeps pm org s) : Keeps pm org (ueEffect s u).1 := by
  have k4 : Within 4 pm := hm.sub rfl
  have k64 : Within 64 pm := hm.sub rfl
  have k4096 : Within 4096 pm := hm.sub rfl
  have k4104 : Within 4104 pm := hm.sub rfl
  have k4106 : Within 4106 pm := hm.sub rfl
  have k4108 : Within 4108 pm := hm.sub rfl
  have k5224 : Within 5224 pm := hm.sub rfl
  have k7272 : Within 7272 pm := hm.sub rfl
  have k8192 : Within 8192 pm := hm.sub rfl
  have k16384 : Within 16384 pm := hm.sub rfl
  have k55022 : Within 55022 pm := hm.sub rfl
  have b5 := hm.bit (i := 5) rfl
  have b6 := hm.bit (i := 6) rfl
  cases u <;> dsimp only [ueEffect]
  repeat' (first
    | (with_reducible first
        | assumption | intro _ | apply ueCell_keeps k5224 | apply setCase_keeps k4 | apply asaShadowLost_keeps k4108
        | apply setRow_keeps k16384 | apply wr_keeps k4096 | apply setCtr_keeps k8192 | apply setBucket_keeps k64
        | apply vSet_keeps k64 | apply setCredit_keeps k64 | apply ueQueue_keeps k5224 | apply claveYield_keeps k4106
        | apply postHw_keeps k4104 | apply testFails_keeps k7272 | apply mpRestart_keeps k55022
        | (fail_if_no_progress refine keeps_path _ b5 ?_) | (fail_if_no_progress refine keeps_core _ b6 ?_)
        | apply keeps_ite | apply keeps_foldl | apply keeps_foldl_fst)
    | split)

theorem execMemUe_keeps {pm : Nat} {org : State} (hm : Within 65262 pm) (site : UeSite) (s : State) (h : Keeps pm org s)
    : KeepsO pm org (execMemUe site s) := by
  have k0 : Within 0 pm := hm.sub rfl
  have k4096 : Within 4096 pm := hm.sub rfl
  have k4104 : Within 4104 pm := hm.sub rfl
  have k65262 : Within 65262 pm := hm.sub rfl
  unfold execMemUe
  repeat' (first
    | (with_reducible first
        | assumption | intro _ | apply irqEdge_keeps k0 | apply countUe_keeps k4096 | apply postRate_keeps k4104
        | apply wrB_keeps k4096 | apply ueEffect_keeps k65262 | apply nextOf_keeps | apply onlyIf_keeps | apply keeps_ite
        | apply keeps_foldl | apply keeps_foldl_fst)
    | split)

theorem setLatch_keeps {pm : Nat} {org : State} (hm : Within 16 pm) (s : State) (link : Bool) (fn o hi : Nat) (h : Keeps
    pm org s) : Keeps pm org (setLatch s link fn o hi) := by
  have b4 := hm.bit (i := 4) rfl
  unfold setLatch
  repeat' (first | (with_reducible first | assumption | (fail_if_no_progress refine keeps_host _ b4 ?_)) | split)

theorem dropLatch_keeps {pm : Nat} {org : State} (hm : Within 16 pm) (s : State) (link : Bool) (fn : Nat) (h : Keeps pm
    org s) : Keeps pm org (dropLatch s link fn) := by
  have b4 := hm.bit (i := 4) rfl
  unfold dropLatch
  repeat' (first | (with_reducible first | assumption | (fail_if_no_progress refine keeps_host _ b4 ?_)) | split)

theorem readDoorbells_keeps {pm : Nat} {org : State} (hm : Within 0 pm) (s : State) (r : BarRead) (h : Keeps pm org s) :
    Keeps pm org (readDoorbells s r) := by
  have k0 : Within 0 pm := hm.sub rfl
  unfold readDoorbells
  repeat' (first
    | (with_reducible first
        | assumption | intro _ | apply emit_keeps k0 | apply keeps_ite | apply keeps_ite_fst | apply keeps_foldl
        | apply keeps_foldl_fst)
    | split)

theorem readOne_keeps {pm : Nat} {org : State} (hm : Within 36864 pm) (s : State) (r : BarRead) (o : Nat) (h : Keeps pm
    org s) : Keeps pm org (readOne s r o) := by
  have k0 : Within 0 pm := hm.sub rfl
  have k36864 : Within 36864 pm := hm.sub rfl
  unfold readOne
  repeat' (first
    | (with_reducible first
        | assumption | intro _ | apply emit_keeps k0 | apply readEffect_keeps k36864)
    | split)

theorem execRsRead_keeps {pm : Nat} {org : State} (hm : Within 65535 pm) (r : BarRead) (s : State) (h : Keeps pm org s) :
    KeepsO pm org (execRsRead r s) := by
  have k0 : Within 0 pm := hm.sub rfl
  have k16 : Within 16 pm := hm.sub rfl
  have k36864 : Within 36864 pm := hm.sub rfl
  have k65519 : Within 65519 pm := hm.sub rfl
  unfold execRsRead
  repeat' (first
    | (with_reducible first
        | assumption | intro _ | apply dropLatch_keeps k16 | apply gateDrain_keeps k65519 | apply readDoorbells_keeps k0
        | apply readOne_keeps k36864 | apply onlyIf_keeps | apply keeps_ite | apply keeps_ite_fst | apply keeps_foldl
        | apply keeps_foldl_fst | apply nextOf_keeps | apply irqEdge_keeps k0 | apply keepsO_next)
    | split)

theorem execOpTimeRead_keeps {pm : Nat} {org : State} (hm : Within 65535 pm) (r : BarRead) (s : State) (h : Keeps pm org
    s) : KeepsO pm org (execOpTimeRead r s) := by
  have k0 : Within 0 pm := hm.sub rfl
  have k16 : Within 16 pm := hm.sub rfl
  have k36864 : Within 36864 pm := hm.sub rfl
  have k65519 : Within 65519 pm := hm.sub rfl
  unfold execOpTimeRead
  repeat' (first
    | (with_reducible first
        | assumption | intro _ | apply dropLatch_keeps k16 | apply gateDrain_keeps k65519 | apply readOne_keeps k36864
        | apply onlyIf_keeps | apply nextOf_keeps | apply irqEdge_keeps k0 | apply keepsO_next)
    | split)

theorem narrowValue_keeps {pm : Nat} {org : State} (hm : Within 36872 pm) (s : State) (r : BarRead) (o : Nat) (h : Keeps
    pm org s) : Keeps pm org (narrowValue s r o).1 := by
  have k4096 : Within 4096 pm := hm.sub rfl
  have k4104 : Within 4104 pm := hm.sub rfl
  have k32768 : Within 32768 pm := hm.sub rfl
  unfold narrowValue
  repeat' (first
    | (with_reducible first
        | assumption | intro _ | apply accessErr_keeps k4104 | apply look_keeps k32768 | apply readTime0_keeps k4096
        | apply keeps_ite | apply keeps_ite_fst | apply keeps_elim)
    | split)

theorem execNarrowReadLow_keeps {pm : Nat} {org : State} (hm : Within 65535 pm) (r : BarRead) (s : State) (h : Keeps pm
    org s) : KeepsO pm org (execNarrowReadLow r s) := by
  have k0 : Within 0 pm := hm.sub rfl
  have k16 : Within 16 pm := hm.sub rfl
  have k36872 : Within 36872 pm := hm.sub rfl
  have k65519 : Within 65519 pm := hm.sub rfl
  unfold execNarrowReadLow
  repeat' (first
    | (with_reducible first
        | assumption | intro _ | apply dropLatch_keeps k16 | apply emit_keeps k0 | apply gateDrain_keeps k65519
        | apply narrowValue_keeps k36872 | apply readDoorbells_keeps k0 | apply setLatch_keeps k16 | apply onlyIf_keeps
        | apply keeps_ite | apply keeps_ite_fst | apply nextOf_keeps | apply irqEdge_keeps k0 | apply keepsO_next)
    | split)

theorem execBar0BadRead_keeps {pm : Nat} {org : State} (hm : Within 4120 pm) (r : BarRead) (s : State) (h : Keeps pm org
    s) : KeepsO pm org (execBar0BadRead r s) := by
  have k0 : Within 0 pm := hm.sub rfl
  have k16 : Within 16 pm := hm.sub rfl
  have k4104 : Within 4104 pm := hm.sub rfl
  unfold execBar0BadRead
  repeat' (first
    | (with_reducible first
        | assumption | intro _ | apply accessErr_keeps k4104 | apply dropLatch_keeps k16 | apply emit_keeps k0
        | apply onlyIf_keeps | apply nextOf_keeps | apply irqEdge_keeps k0 | apply keepsO_next)
    | split)

theorem execAsaRepair_keeps {pm : Nat} {org : State} (hm : Within 4 pm) (copy : Fin 32) (s : State) (h : Keeps pm org s)
    : KeepsO pm org (execAsaRepair copy s) := by
  have k0 : Within 0 pm := hm.sub rfl
  have k4 : Within 4 pm := hm.sub rfl
  have b2 := hm.bit (i := 2) rfl
  unfold execAsaRepair
  repeat' (first
    | (with_reducible first
        | assumption | intro _ | apply fixCells_keeps k4 | apply onlyIf_keeps | apply nextOf_keeps
        | apply irqEdge_keeps k0 | (fail_if_no_progress refine keeps_forme _ b2 ?_) | apply keepsO_next)
    | split)

theorem sweepFix_keeps {pm : Nat} {org : State} (hm : Within 4108 pm) (s : State) (x : Nat × Nat × Nat) (h : Keeps pm org
    s) : Keeps pm org (sweepFix s x) := by
  have k4 : Within 4 pm := hm.sub rfl
  have k4104 : Within 4104 pm := hm.sub rfl
  unfold sweepFix
  repeat' (first | (with_reducible first | assumption | apply fixCells_keeps k4 | apply postRate_keeps k4104) | split)

theorem execAsaSweep_keeps {pm : Nat} {org : State} (hm : Within 4108 pm) (differ : List (Nat × Nat × Nat)) (s : State)
    (h : Keeps pm org s) : KeepsO pm org (execAsaSweep differ s) := by
  have k0 : Within 0 pm := hm.sub rfl
  have k4096 : Within 4096 pm := hm.sub rfl
  have k4108 : Within 4108 pm := hm.sub rfl
  have b2 := hm.bit (i := 2) rfl
  unfold execAsaSweep
  repeat' (first
    | (with_reducible first
        | assumption | intro _ | apply sweepFix_keeps k4108 | apply wrF_keeps k4096 | apply onlyIf_keeps | apply keeps_ite
        | apply keeps_ite_fst | apply keeps_foldl | apply keeps_foldl_fst | apply nextOf_keeps | apply irqEdge_keeps k0
        | (fail_if_no_progress refine keeps_forme _ b2 ?_) | apply keepsO_next)
    | split)

end Sys2Proof.Machine
end

