-- ==== Sys2Proof/Laws/KeepsM.lean ====
section
/-! SUPPORT. Keeps, for every operation of Machine/: WriteRows.lean, Tick.lean. -/

set_option linter.unusedTactic false
set_option linter.unreachableTactic false
set_option linter.unusedVariables false

namespace Sys2Proof.Machine

theorem execRegisterWrite_keeps {pm : Nat} {org : State} (hm : Within 65519 pm) (w : BarWrite) (env : WriteEnv) (s :
    State) (h : Keeps pm org s) : KeepsO pm org (execRegisterWrite w env s) := by
  have k0 : Within 0 pm := hm.sub rfl
  have k65519 : Within 65519 pm := hm.sub rfl
  unfold execRegisterWrite
  repeat' (first
    | (with_reducible first
        | assumption | apply directWrite_keeps k65519 | apply nextOf_keeps | apply irqEdge_keeps k0 | apply keepsO_next)
    | split)

theorem execWriteGateWrite_keeps {pm : Nat} {org : State} (hm : Within 65519 pm) (forme : Bool) (env : WriteEnv) (s :
    State) (h : Keeps pm org s) : KeepsO pm org (execWriteGateWrite forme env s) := by
  have k0 : Within 0 pm := hm.sub rfl
  have k4 : Within 4 pm := hm.sub rfl
  have k65519 : Within 65519 pm := hm.sub rfl
  have b1 := hm.bit (i := 1) rfl
  have kf : Within 20620 pm := hm.sub rfl
  unfold execWriteGateWrite
  apply nextOf_keeps
  apply irqEdge_keeps k0
  split
  · split
    · exact h
    · cases e : formeTake s _ with
      | none => exact h
      | some x => exact setTodo_keeps k4 _ _ (formeTake_keeps kf s _ _ _ h (by rw [e]))
  · repeat' (first
      | (with_reducible first
          | assumption | intro _ | apply gateDrain_keeps k65519 | apply gateOne_keeps k65519
          | apply onlyIf_keeps | (fail_if_no_progress refine keeps_ctl _ b1 ?_))
      | split)

theorem execWarmReset_keeps {pm : Nat} {org : State} (hm : Within 65519 pm) (w : BarWrite) (s : State) (h : Keeps pm org
    s) : KeepsO pm org (execWarmReset w s) := by
  have k0 : Within 0 pm := hm.sub rfl
  have k65519 : Within 65519 pm := hm.sub rfl
  unfold execWarmReset
  repeat' (first
    | (with_reducible first
        | assumption | intro _ | apply directWrite_keeps k65519 | apply onlyIf_keeps | apply nextOf_keeps
        | apply irqEdge_keeps k0 | apply keepsO_next)
    | split)

theorem execStart_keeps {pm : Nat} {org : State} (hm : Within 65519 pm) (w : BarWrite) (s : State) (h : Keeps pm org s) :
    KeepsO pm org (execStart w s) := by
  have k0 : Within 0 pm := hm.sub rfl
  have k65519 : Within 65519 pm := hm.sub rfl
  unfold execStart
  repeat' (first
    | (with_reducible first
        | assumption | intro _ | apply directWrite_keeps k65519 | apply onlyIf_keeps | apply nextOf_keeps
        | apply irqEdge_keeps k0 | apply keepsO_next)
    | split)

theorem execBootSave_keeps {pm : Nat} {org : State} (hm : Within 65519 pm) (w : BarWrite) (s : State) (h : Keeps pm org
    s) : KeepsO pm org (execBootSave w s) := by
  have k0 : Within 0 pm := hm.sub rfl
  have k65519 : Within 65519 pm := hm.sub rfl
  unfold execBootSave
  repeat' (first
    | (with_reducible first
        | assumption | intro _ | apply directWrite_keeps k65519 | apply onlyIf_keeps | apply nextOf_keeps
        | apply irqEdge_keeps k0 | apply keepsO_next)
    | split)

theorem execCtrlReset_keeps {pm : Nat} {org : State} (hm : Within 65519 pm) (w : BarWrite) (s : State) (h : Keeps pm org
    s) : KeepsO pm org (execCtrlReset w s) := by
  have k0 : Within 0 pm := hm.sub rfl
  have k65519 : Within 65519 pm := hm.sub rfl
  unfold execCtrlReset
  repeat' (first
    | (with_reducible first
        | assumption | intro _ | apply directWrite_keeps k65519 | apply onlyIf_keeps | apply nextOf_keeps
        | apply irqEdge_keeps k0 | apply keepsO_next)
    | split)

theorem execMbxGoBusy_keeps {pm : Nat} {org : State} (hm : Within 65519 pm) (w : BarWrite) (s : State) (h : Keeps pm org
    s) : KeepsO pm org (execMbxGoBusy w s) := by
  have k0 : Within 0 pm := hm.sub rfl
  have k65519 : Within 65519 pm := hm.sub rfl
  unfold execMbxGoBusy
  repeat' (first
    | (with_reducible first
        | assumption | intro _ | apply directWrite_keeps k65519 | apply onlyIf_keeps | apply nextOf_keeps
        | apply irqEdge_keeps k0 | apply keepsO_next)
    | split)

theorem execIrqRearm_keeps {pm : Nat} {org : State} (hm : Within 65519 pm) (w : BarWrite) (s : State) (h : Keeps pm org
    s) : KeepsO pm org (execIrqRearm w s) := by
  have k0 : Within 0 pm := hm.sub rfl
  have k65519 : Within 65519 pm := hm.sub rfl
  unfold execIrqRearm
  repeat' (first
    | (with_reducible first
        | assumption | intro _ | apply directWrite_keeps k65519 | apply onlyIf_keeps | apply nextOf_keeps
        | apply irqEdge_keeps k0 | apply keepsO_next)
    | split)

theorem execCqHeadWrite_keeps {pm : Nat} {org : State} (hm : Within 65519 pm) (ring : Fin 64) (who : Who) (value : Word)
    (s : State) (h : Keeps pm org s) : KeepsO pm org (execCqHeadWrite ring who value s) := by
  have k0 : Within 0 pm := hm.sub rfl
  have k65519 : Within 65519 pm := hm.sub rfl
  unfold execCqHeadWrite
  repeat' (first
    | (with_reducible first
        | assumption | apply directWrite_keeps k65519 | apply nextOf_keeps | apply irqEdge_keeps k0 | apply keepsO_next)
    | split)

theorem execCrEnable_keeps {pm : Nat} {org : State} (hm : Within 65519 pm) (ring : Fin 64) (who : Who) (value : Word) (s
    : State) (h : Keeps pm org s) : KeepsO pm org (execCrEnable ring who value s) := by
  have k0 : Within 0 pm := hm.sub rfl
  have k65519 : Within 65519 pm := hm.sub rfl
  unfold execCrEnable
  repeat' (first
    | (with_reducible first
        | assumption | apply directWrite_keeps k65519 | apply nextOf_keeps | apply irqEdge_keeps k0 | apply keepsO_next)
    | split)

theorem execCrDisable_keeps {pm : Nat} {org : State} (hm : Within 65519 pm) (ring : Fin 64) (who : Who) (value : Word) (s
    : State) (h : Keeps pm org s) : KeepsO pm org (execCrDisable ring who value s) := by
  have k0 : Within 0 pm := hm.sub rfl
  have k65519 : Within 65519 pm := hm.sub rfl
  unfold execCrDisable
  repeat' (first
    | (with_reducible first
        | assumption | apply directWrite_keeps k65519 | apply nextOf_keeps | apply irqEdge_keeps k0 | apply keepsO_next)
    | split)

theorem execCrAbort_keeps {pm : Nat} {org : State} (hm : Within 65519 pm) (ring : Fin 64) (who : Who) (value : Word) (s :
    State) (h : Keeps pm org s) : KeepsO pm org (execCrAbort ring who value s) := by
  have k0 : Within 0 pm := hm.sub rfl
  have k65519 : Within 65519 pm := hm.sub rfl
  unfold execCrAbort
  repeat' (first
    | (with_reducible first
        | assumption | apply directWrite_keeps k65519 | apply nextOf_keeps | apply irqEdge_keeps k0 | apply keepsO_next)
    | split)

theorem execCrReset_keeps {pm : Nat} {org : State} (hm : Within 65519 pm) (ring : Fin 64) (who : Who) (value : Word) (s :
    State) (h : Keeps pm org s) : KeepsO pm org (execCrReset ring who value s) := by
  have k0 : Within 0 pm := hm.sub rfl
  have k65519 : Within 65519 pm := hm.sub rfl
  unfold execCrReset
  repeat' (first
    | (with_reducible first
        | assumption | apply directWrite_keeps k65519 | apply nextOf_keeps | apply irqEdge_keeps k0 | apply keepsO_next)
    | split)

theorem execPortReset_keeps {pm : Nat} {org : State} (hm : Within 65519 pm) (link : Bool) (port : Fin 256) (value : Word)
    (s : State) (h : Keeps pm org s) : KeepsO pm org (execPortReset link port value s) := by
  have k0 : Within 0 pm := hm.sub rfl
  have k65519 : Within 65519 pm := hm.sub rfl
  unfold execPortReset
  repeat' (first
    | (with_reducible first
        | assumption | apply directWrite_keeps k65519 | apply nextOf_keeps | apply irqEdge_keeps k0 | apply keepsO_next)
    | split)

theorem execAdminDown_keeps {pm : Nat} {org : State} (hm : Within 65519 pm) (link : Bool) (port : Fin 256) (value : Word)
    (s : State) (h : Keeps pm org s) : KeepsO pm org (execAdminDown link port value s) := by
  have k0 : Within 0 pm := hm.sub rfl
  have k65519 : Within 65519 pm := hm.sub rfl
  unfold execAdminDown
  repeat' (first
    | (with_reducible first
        | assumption | apply directWrite_keeps k65519 | apply nextOf_keeps | apply irqEdge_keeps k0 | apply keepsO_next)
    | split)

theorem execOpDomainWrite_keeps {pm : Nat} {org : State} (hm : Within 65519 pm) (link : Bool) (value : Word) (s : State)
    (h : Keeps pm org s) : KeepsO pm org (execOpDomainWrite link value s) := by
  have k0 : Within 0 pm := hm.sub rfl
  have k65519 : Within 65519 pm := hm.sub rfl
  unfold execOpDomainWrite
  repeat' (first
    | (with_reducible first
        | assumption | apply directWrite_keeps k65519 | apply nextOf_keeps | apply irqEdge_keeps k0 | apply keepsO_next)
    | split)

theorem execStormMeterWrite_keeps {pm : Nat} {org : State} (hm : Within 65519 pm) (link : Bool) (port : Fin 256) (meter :
    Fin 3) (value : Word) (s : State) (h : Keeps pm org s) : KeepsO pm org (execStormMeterWrite link port meter value s)
    := by
  have k0 : Within 0 pm := hm.sub rfl
  have k65519 : Within 65519 pm := hm.sub rfl
  unfold execStormMeterWrite
  repeat' (first
    | (with_reducible first
        | assumption | apply directWrite_keeps k65519 | apply nextOf_keeps | apply irqEdge_keeps k0 | apply keepsO_next)
    | split)

theorem execGlobalReserveWrite_keeps {pm : Nat} {org : State} (hm : Within 65519 pm) (link : Bool) (value : Word) (s :
    State) (h : Keeps pm org s) : KeepsO pm org (execGlobalReserveWrite link value s) := by
  have k0 : Within 0 pm := hm.sub rfl
  have k65519 : Within 65519 pm := hm.sub rfl
  unfold execGlobalReserveWrite
  repeat' (first
    | (with_reducible first
        | assumption | apply directWrite_keeps k65519 | apply nextOf_keeps | apply irqEdge_keeps k0 | apply keepsO_next)
    | split)

theorem execCaseSeedWrite_keeps {pm : Nat} {org : State} (hm : Within 65519 pm) (link : Bool) (reg : Fin 4) (value :
    Word) (s : State) (h : Keeps pm org s) : KeepsO pm org (execCaseSeedWrite link reg value s) := by
  have k0 : Within 0 pm := hm.sub rfl
  have k65519 : Within 65519 pm := hm.sub rfl
  unfold execCaseSeedWrite
  repeat' (first
    | (with_reducible first
        | assumption | apply directWrite_keeps k65519 | apply nextOf_keeps | apply irqEdge_keeps k0 | apply keepsO_next)
    | split)

theorem execLearnFlush_keeps {pm : Nat} {org : State} (hm : Within 65519 pm) (link : Bool) (value : Word) (s : State) (h
    : Keeps pm org s) : KeepsO pm org (execLearnFlush link value s) := by
  have k0 : Within 0 pm := hm.sub rfl
  have k65519 : Within 65519 pm := hm.sub rfl
  unfold execLearnFlush
  repeat' (first
    | (with_reducible first
        | assumption | apply directWrite_keeps k65519 | apply nextOf_keeps | apply irqEdge_keeps k0 | apply keepsO_next)
    | split)

theorem execFragFlush_keeps {pm : Nat} {org : State} (hm : Within 65519 pm) (link : Bool) (value : Word) (s : State) (h :
    Keeps pm org s) : KeepsO pm org (execFragFlush link value s) := by
  have k0 : Within 0 pm := hm.sub rfl
  have k65519 : Within 65519 pm := hm.sub rfl
  unfold execFragFlush
  repeat' (first
    | (with_reducible first
        | assumption | apply directWrite_keeps k65519 | apply nextOf_keeps | apply irqEdge_keeps k0 | apply keepsO_next)
    | split)

theorem execRecorderRetry_keeps {pm : Nat} {org : State} (hm : Within 65519 pm) (link : Bool) (value : Word) (pass :
    Bool) (s : State) (h : Keeps pm org s) : KeepsO pm org (execRecorderRetry link value pass s) := by
  have k0 : Within 0 pm := hm.sub rfl
  have k65519 : Within 65519 pm := hm.sub rfl
  unfold execRecorderRetry
  repeat' (first
    | (with_reducible first
        | assumption | apply directWrite_keeps k65519 | apply nextOf_keeps | apply irqEdge_keeps k0 | apply keepsO_next)
    | split)

theorem execPealEnable_keeps {pm : Nat} {org : State} (hm : Within 65519 pm) (link : Bool) (k : Fin 16) (value : Word)
    (entries : Option (List Nat)) (s : State) (h : Keeps pm org s) : KeepsO pm org (execPealEnable link k value entries
    s) := by
  have k0 : Within 0 pm := hm.sub rfl
  have k65519 : Within 65519 pm := hm.sub rfl
  unfold execPealEnable
  repeat' (first
    | (with_reducible first
        | assumption | apply directWrite_keeps k65519 | apply nextOf_keeps | apply irqEdge_keeps k0 | apply keepsO_next)
    | split)

theorem execPealDisable_keeps {pm : Nat} {org : State} (hm : Within 65519 pm) (link : Bool) (k : Fin 16) (value : Word)
    (s : State) (h : Keeps pm org s) : KeepsO pm org (execPealDisable link k value s) := by
  have k0 : Within 0 pm := hm.sub rfl
  have k65519 : Within 65519 pm := hm.sub rfl
  unfold execPealDisable
  repeat' (first
    | (with_reducible first
        | assumption | apply directWrite_keeps k65519 | apply nextOf_keeps | apply irqEdge_keeps k0 | apply keepsO_next)
    | split)

theorem execMirrorSampleWrite_keeps {pm : Nat} {org : State} (hm : Within 65519 pm) (link : Bool) (session : Fin 16)
    (value : Word) (s : State) (h : Keeps pm org s) : KeepsO pm org (execMirrorSampleWrite link session value s) := by
  have k0 : Within 0 pm := hm.sub rfl
  have k65519 : Within 65519 pm := hm.sub rfl
  unfold execMirrorSampleWrite
  repeat' (first
    | (with_reducible first
        | assumption | apply directWrite_keeps k65519 | apply nextOf_keeps | apply irqEdge_keeps k0 | apply keepsO_next)
    | split)

theorem execPerfEvselWrite_keeps {pm : Nat} {org : State} (hm : Within 65519 pm) (w : BarWrite) (s : State) (h : Keeps pm
    org s) : KeepsO pm org (execPerfEvselWrite w s) := by
  have k0 : Within 0 pm := hm.sub rfl
  have k65519 : Within 65519 pm := hm.sub rfl
  unfold execPerfEvselWrite
  repeat' (first
    | (with_reducible first
        | assumption | intro _ | apply directWrite_keeps k65519 | apply onlyIf_keeps | apply nextOf_keeps
        | apply irqEdge_keeps k0 | apply keepsO_next)
    | split)

theorem execPoolEnable_keeps {pm : Nat} {org : State} (hm : Within 65519 pm) (link : Bool) (pool : Fin 16) (value : Word)
    (s : State) (h : Keeps pm org s) : KeepsO pm org (execPoolEnable link pool value s) := by
  have k0 : Within 0 pm := hm.sub rfl
  have k65519 : Within 65519 pm := hm.sub rfl
  unfold execPoolEnable
  repeat' (first
    | (with_reducible first
        | assumption | apply directWrite_keeps k65519 | apply nextOf_keeps | apply irqEdge_keeps k0 | apply keepsO_next)
    | split)

theorem execPoolDisable_keeps {pm : Nat} {org : State} (hm : Within 65519 pm) (link : Bool) (pool : Fin 16) (value :
    Word) (s : State) (h : Keeps pm org s) : KeepsO pm org (execPoolDisable link pool value s) := by
  have k0 : Within 0 pm := hm.sub rfl
  have k65519 : Within 65519 pm := hm.sub rfl
  unfold execPoolDisable
  repeat' (first
    | (with_reducible first
        | assumption | apply directWrite_keeps k65519 | apply nextOf_keeps | apply irqEdge_keeps k0 | apply keepsO_next)
    | split)

theorem execRxRingEnable_keeps {pm : Nat} {org : State} (hm : Within 65519 pm) (link : Bool) (ring : Fin 1024) (value :
    Word) (s : State) (h : Keeps pm org s) : KeepsO pm org (execRxRingEnable link ring value s) := by
  have k0 : Within 0 pm := hm.sub rfl
  have k65519 : Within 65519 pm := hm.sub rfl
  unfold execRxRingEnable
  repeat' (first
    | (with_reducible first
        | assumption | apply directWrite_keeps k65519 | apply nextOf_keeps | apply irqEdge_keeps k0 | apply keepsO_next)
    | split)

theorem execTxRingEnable_keeps {pm : Nat} {org : State} (hm : Within 65519 pm) (link : Bool) (ring : Fin 1024) (value :
    Word) (s : State) (h : Keeps pm org s) : KeepsO pm org (execTxRingEnable link ring value s) := by
  have k0 : Within 0 pm := hm.sub rfl
  have k65519 : Within 65519 pm := hm.sub rfl
  unfold execTxRingEnable
  repeat' (first
    | (with_reducible first
        | assumption | apply directWrite_keeps k65519 | apply nextOf_keeps | apply irqEdge_keeps k0 | apply keepsO_next)
    | split)

theorem raiseMark_keeps {pm : Nat} {org : State} (hm : Within 4096 pm) (s : State) (o v : Nat) (h : Keeps pm org s) :
    Keeps pm org (raiseMark s o v) := by
  have k4096 : Within 4096 pm := hm.sub rfl
  unfold raiseMark
  repeat' (first
    | (with_reducible first
        | assumption | intro _ | apply wr_keeps k4096 | apply keeps_ite | apply keeps_ite_fst)
    | split)

theorem depthMarks_keeps {pm : Nat} {org : State} (hm : Within 4096 pm) (s : State) (p : Nat) (h : Keeps pm org s) :
    Keeps pm org (depthMarks s p) := by
  have k4096 : Within 4096 pm := hm.sub rfl
  unfold depthMarks
  repeat' (first
    | (with_reducible first
        | assumption | intro _ | apply raiseMark_keeps k4096 | apply keeps_foldl | apply keeps_foldl_fst)
    | split)

theorem cycleEvents_keeps {pm : Nat} {org : State} (hm : Within 4096 pm) (s : State) (h : Keeps pm org s) : Keeps pm org
    (cycleEvents s) := by
  have k4096 : Within 4096 pm := hm.sub rfl
  unfold cycleEvents
  repeat' (first
    | (with_reducible first
        | assumption | intro _ | apply perf_keeps k4096 | apply keeps_ite | apply keeps_ite_fst | apply keeps_foldl
        | apply keeps_foldl_fst)
    | split)

theorem timedNow_keeps {pm : Nat} {org : State} (hm : Within 57326 pm) (s : State) (x : Timed) (h : Keeps pm org s) :
    Keeps pm org (timedNow s x) := by
  have k4106 : Within 4106 pm := hm.sub rfl
  have k4160 : Within 4160 pm := hm.sub rfl
  have k4362 : Within 4362 pm := hm.sub rfl
  have k4616 : Within 4616 pm := hm.sub rfl
  have k20622 : Within 20622 pm := hm.sub rfl
  have k40686 : Within 40686 pm := hm.sub rfl
  cases x <;> dsimp only [timedNow]
  repeat' (first
    | (with_reducible first
        | assumption | intro _ | apply lockMissedNow_keeps k20622 | apply lockatNow_keeps k40686
        | apply saSwitchNow_keeps k4362 | apply waittNow_keeps k4106 | apply gateTake_keeps k4160
        | apply pealCapture_keeps k4616 | apply keeps_ite | apply keeps_foldl | apply keeps_foldl_fst)
    | split)

theorem settleDue_keeps {pm : Nat} {org : State} (hm : Within 57326 pm) (s : State) (h : Keeps pm org s) : Keeps pm org
    (settleDue s) := by
  have k4160 : Within 4160 pm := hm.sub rfl
  have kt : Within 57326 pm := hm.sub rfl
  unfold settleDue
  repeat' (first
    | (with_reducible first
        | assumption | intro _ | apply gateRefresh_keeps k4160 | apply timedNow_keeps kt | apply keeps_ite
        | apply keeps_foldl | apply keeps_foldl_fst)
    | split)

theorem runCycle_keeps {pm : Nat} {org : State} (hm : Within 131055 pm) (s : State) (h : Keeps pm org s) : Keeps pm org
    (runCycle s) := by
  have k1 : Within 1 pm := hm.sub rfl
  have k2 : Within 2 pm := hm.sub rfl
  have k32 : Within 32 pm := hm.sub rfl
  have k64 : Within 64 pm := hm.sub rfl
  have k512 : Within 512 pm := hm.sub rfl
  have k4096 : Within 4096 pm := hm.sub rfl
  have k4106 : Within 4106 pm := hm.sub rfl
  have k4136 : Within 4136 pm := hm.sub rfl
  have k4160 : Within 4160 pm := hm.sub rfl
  have k4192 : Within 4192 pm := hm.sub rfl
  have k5224 : Within 5224 pm := hm.sub rfl
  have k6152 : Within 6152 pm := hm.sub rfl
  have k46186 : Within 46186 pm := hm.sub rfl
  have k57326 : Within 57326 pm := hm.sub rfl
  have k65544 : Within 65544 pm := hm.sub rfl
  have b6 := hm.bit (i := 6) rfl
  unfold runCycle
  repeat' (first
    | (with_reducible first
        | assumption | intro _ | apply advCycle_keeps k65544 | apply advTime_keeps k1 | apply countHolds_keeps k4160
        | apply crdPoll_keeps k4106 | apply cycleEvents_keeps k4096 | apply deliverMatches_keeps k5224
        | apply depthMarks_keeps k4096 | apply fragDrain_keeps k4136 | apply macNext_keeps k4192
        | apply pealHold_keeps k512 | apply poolCycle_keeps k46186 | apply quoinPoll_keeps k4106
        | apply raiseMark_keeps k4096 | apply retagAll_keeps k64 | apply settleDue_keeps k57326
        | apply verifyTick_keeps k32 | apply wdogTick_keeps k2 | apply windowTick_keeps k4106
        | apply windowsTick_keeps k6152 | apply keeps_foldl | apply keeps_foldl_fst
        | (fail_if_no_progress refine keeps_core _ b6 ?_))
    | split)

theorem tick_keeps {pm : Nat} {org : State} (hm : Within 131055 pm) (s : State) (h : Keeps pm org s) : Keeps pm org (tick
    s) := by
  have k0 : Within 0 pm := hm.sub rfl
  have k131055 : Within 131055 pm := hm.sub rfl
  have b16 := hm.bit (i := 16) rfl
  unfold tick
  repeat' (first
    | (with_reducible first
        | assumption | intro _ | apply irqEdge_keeps k0 | apply runCycle_keeps k131055 | apply keeps_ite
        | apply keeps_ite_fst | (fail_if_no_progress refine keeps_cycle b16 ?_))
    | split)

end Sys2Proof.Machine
end

