-- ==== Sys2Proof/Laws/State.lean ====
section
/-! SUPPORT. What each plain update of State leaves as it is, field by field: a later proof cites these and unfolds no record
update. -/

namespace Sys2Proof.Machine

@[simp] theorem wr_pending (s : State) (o : Nat) (v : Word) : (wr s o v).pending = s.pending := rfl
@[simp] theorem wr_variant (s : State) (o : Nat) (v : Word) : (wr s o v).variant = s.variant := rfl
@[simp] theorem wr_serial (s : State) (o : Nat) (v : Word) : (wr s o v).serial = s.serial := rfl
@[simp] theorem wr_fresh (s : State) (o : Nat) (v : Word) : (wr s o v).fresh = s.fresh := rfl
@[simp] theorem wr_cycle (s : State) (o : Nat) (v : Word) : (wr s o v).cycle = s.cycle := rfl
@[simp] theorem wr_ctrs (s : State) (o : Nat) (v : Word) : (wr s o v).ctrs = s.ctrs := rfl
@[simp] theorem wr_tab0 (s : State) (o : Nat) (v : Word) : (wr s o v).tab0 = s.tab0 := rfl
@[simp] theorem wr_tab1 (s : State) (o : Nat) (v : Word) : (wr s o v).tab1 = s.tab1 := rfl
@[simp] theorem wr_out (s : State) (o : Nat) (v : Word) : (wr s o v).out = s.out := rfl
@[simp] theorem wr_clk (s : State) (o : Nat) (v : Word) : (wr s o v).clk = s.clk := rfl
@[simp] theorem wr_ctl (s : State) (o : Nat) (v : Word) : (wr s o v).ctl = s.ctl := rfl
@[simp] theorem wr_forme (s : State) (o : Nat) (v : Word) : (wr s o v).forme = s.forme := rfl
@[simp] theorem wr_rcd (s : State) (o : Nat) (v : Word) : (wr s o v).rcd = s.rcd := rfl
@[simp] theorem wr_host (s : State) (o : Nat) (v : Word) : (wr s o v).host = s.host := rfl
@[simp] theorem wr_path (s : State) (o : Nat) (v : Word) : (wr s o v).path = s.path := rfl
@[simp] theorem wr_core (s : State) (o : Nat) (v : Word) : (wr s o v).core = s.core := rfl
@[simp] theorem wr_learn (s : State) (o : Nat) (v : Word) : (wr s o v).learn = s.learn := rfl
@[simp] theorem wr_ciph (s : State) (o : Nat) (v : Word) : (wr s o v).ciph = s.ciph := rfl
@[simp] theorem wr_mp (s : State) (o : Nat) (v : Word) : (wr s o v).mp = s.mp := rfl
@[simp] theorem wr_pool (s : State) (o : Nat) (v : Word) : (wr s o v).pool = s.pool := rfl
@[simp] theorem wr_pwr (s : State) (o : Nat) (v : Word) : (wr s o v).pwr = s.pwr := rfl

@[simp] theorem wrF_pending (s : State) (o hi lo v : Nat) : (wrF s o hi lo v).pending = s.pending := rfl
@[simp] theorem wrF_variant (s : State) (o hi lo v : Nat) : (wrF s o hi lo v).variant = s.variant := rfl
@[simp] theorem wrF_serial (s : State) (o hi lo v : Nat) : (wrF s o hi lo v).serial = s.serial := rfl
@[simp] theorem wrF_fresh (s : State) (o hi lo v : Nat) : (wrF s o hi lo v).fresh = s.fresh := rfl
@[simp] theorem wrF_cycle (s : State) (o hi lo v : Nat) : (wrF s o hi lo v).cycle = s.cycle := rfl
@[simp] theorem wrF_ctrs (s : State) (o hi lo v : Nat) : (wrF s o hi lo v).ctrs = s.ctrs := rfl
@[simp] theorem wrF_tab0 (s : State) (o hi lo v : Nat) : (wrF s o hi lo v).tab0 = s.tab0 := rfl
@[simp] theorem wrF_tab1 (s : State) (o hi lo v : Nat) : (wrF s o hi lo v).tab1 = s.tab1 := rfl
@[simp] theorem wrF_out (s : State) (o hi lo v : Nat) : (wrF s o hi lo v).out = s.out := rfl
@[simp] theorem wrF_clk (s : State) (o hi lo v : Nat) : (wrF s o hi lo v).clk = s.clk := rfl
@[simp] theorem wrF_ctl (s : State) (o hi lo v : Nat) : (wrF s o hi lo v).ctl = s.ctl := rfl
@[simp] theorem wrF_forme (s : State) (o hi lo v : Nat) : (wrF s o hi lo v).forme = s.forme := rfl
@[simp] theorem wrF_rcd (s : State) (o hi lo v : Nat) : (wrF s o hi lo v).rcd = s.rcd := rfl
@[simp] theorem wrF_host (s : State) (o hi lo v : Nat) : (wrF s o hi lo v).host = s.host := rfl
@[simp] theorem wrF_path (s : State) (o hi lo v : Nat) : (wrF s o hi lo v).path = s.path := rfl
@[simp] theorem wrF_core (s : State) (o hi lo v : Nat) : (wrF s o hi lo v).core = s.core := rfl
@[simp] theorem wrF_learn (s : State) (o hi lo v : Nat) : (wrF s o hi lo v).learn = s.learn := rfl
@[simp] theorem wrF_ciph (s : State) (o hi lo v : Nat) : (wrF s o hi lo v).ciph = s.ciph := rfl
@[simp] theorem wrF_mp (s : State) (o hi lo v : Nat) : (wrF s o hi lo v).mp = s.mp := rfl
@[simp] theorem wrF_pool (s : State) (o hi lo v : Nat) : (wrF s o hi lo v).pool = s.pool := rfl
@[simp] theorem wrF_pwr (s : State) (o hi lo v : Nat) : (wrF s o hi lo v).pwr = s.pwr := rfl

@[simp] theorem wrB_pending (s : State) (o i : Nat) (v : Bool) : (wrB s o i v).pending = s.pending := rfl
@[simp] theorem wrB_variant (s : State) (o i : Nat) (v : Bool) : (wrB s o i v).variant = s.variant := rfl
@[simp] theorem wrB_serial (s : State) (o i : Nat) (v : Bool) : (wrB s o i v).serial = s.serial := rfl
@[simp] theorem wrB_fresh (s : State) (o i : Nat) (v : Bool) : (wrB s o i v).fresh = s.fresh := rfl
@[simp] theorem wrB_cycle (s : State) (o i : Nat) (v : Bool) : (wrB s o i v).cycle = s.cycle := rfl
@[simp] theorem wrB_ctrs (s : State) (o i : Nat) (v : Bool) : (wrB s o i v).ctrs = s.ctrs := rfl
@[simp] theorem wrB_tab0 (s : State) (o i : Nat) (v : Bool) : (wrB s o i v).tab0 = s.tab0 := rfl
@[simp] theorem wrB_tab1 (s : State) (o i : Nat) (v : Bool) : (wrB s o i v).tab1 = s.tab1 := rfl
@[simp] theorem wrB_out (s : State) (o i : Nat) (v : Bool) : (wrB s o i v).out = s.out := rfl
@[simp] theorem wrB_clk (s : State) (o i : Nat) (v : Bool) : (wrB s o i v).clk = s.clk := rfl
@[simp] theorem wrB_ctl (s : State) (o i : Nat) (v : Bool) : (wrB s o i v).ctl = s.ctl := rfl
@[simp] theorem wrB_forme (s : State) (o i : Nat) (v : Bool) : (wrB s o i v).forme = s.forme := rfl
@[simp] theorem wrB_rcd (s : State) (o i : Nat) (v : Bool) : (wrB s o i v).rcd = s.rcd := rfl
@[simp] theorem wrB_host (s : State) (o i : Nat) (v : Bool) : (wrB s o i v).host = s.host := rfl
@[simp] theorem wrB_path (s : State) (o i : Nat) (v : Bool) : (wrB s o i v).path = s.path := rfl
@[simp] theorem wrB_core (s : State) (o i : Nat) (v : Bool) : (wrB s o i v).core = s.core := rfl
@[simp] theorem wrB_learn (s : State) (o i : Nat) (v : Bool) : (wrB s o i v).learn = s.learn := rfl
@[simp] theorem wrB_ciph (s : State) (o i : Nat) (v : Bool) : (wrB s o i v).ciph = s.ciph := rfl
@[simp] theorem wrB_mp (s : State) (o i : Nat) (v : Bool) : (wrB s o i v).mp = s.mp := rfl
@[simp] theorem wrB_pool (s : State) (o i : Nat) (v : Bool) : (wrB s o i v).pool = s.pool := rfl
@[simp] theorem wrB_pwr (s : State) (o i : Nat) (v : Bool) : (wrB s o i v).pwr = s.pwr := rfl

@[simp] theorem emit_pending (s : State) (o : Output) : (emit s o).pending = s.pending := rfl
@[simp] theorem emit_variant (s : State) (o : Output) : (emit s o).variant = s.variant := rfl
@[simp] theorem emit_serial (s : State) (o : Output) : (emit s o).serial = s.serial := rfl
@[simp] theorem emit_fresh (s : State) (o : Output) : (emit s o).fresh = s.fresh := rfl
@[simp] theorem emit_cycle (s : State) (o : Output) : (emit s o).cycle = s.cycle := rfl
@[simp] theorem emit_regs (s : State) (o : Output) : (emit s o).regs = s.regs := rfl
@[simp] theorem emit_ctrs (s : State) (o : Output) : (emit s o).ctrs = s.ctrs := rfl
@[simp] theorem emit_tab0 (s : State) (o : Output) : (emit s o).tab0 = s.tab0 := rfl
@[simp] theorem emit_tab1 (s : State) (o : Output) : (emit s o).tab1 = s.tab1 := rfl
@[simp] theorem emit_clk (s : State) (o : Output) : (emit s o).clk = s.clk := rfl
@[simp] theorem emit_ctl (s : State) (o : Output) : (emit s o).ctl = s.ctl := rfl
@[simp] theorem emit_forme (s : State) (o : Output) : (emit s o).forme = s.forme := rfl
@[simp] theorem emit_rcd (s : State) (o : Output) : (emit s o).rcd = s.rcd := rfl
@[simp] theorem emit_host (s : State) (o : Output) : (emit s o).host = s.host := rfl
@[simp] theorem emit_path (s : State) (o : Output) : (emit s o).path = s.path := rfl
@[simp] theorem emit_core (s : State) (o : Output) : (emit s o).core = s.core := rfl
@[simp] theorem emit_learn (s : State) (o : Output) : (emit s o).learn = s.learn := rfl
@[simp] theorem emit_ciph (s : State) (o : Output) : (emit s o).ciph = s.ciph := rfl
@[simp] theorem emit_mp (s : State) (o : Output) : (emit s o).mp = s.mp := rfl
@[simp] theorem emit_pool (s : State) (o : Output) : (emit s o).pool = s.pool := rfl
@[simp] theorem emit_pwr (s : State) (o : Output) : (emit s o).pwr = s.pwr := rfl

@[simp] theorem setCtr_pending (s : State) (k v : Nat) : (setCtr s k v).pending = s.pending := rfl
@[simp] theorem setCtr_variant (s : State) (k v : Nat) : (setCtr s k v).variant = s.variant := rfl
@[simp] theorem setCtr_serial (s : State) (k v : Nat) : (setCtr s k v).serial = s.serial := rfl
@[simp] theorem setCtr_fresh (s : State) (k v : Nat) : (setCtr s k v).fresh = s.fresh := rfl
@[simp] theorem setCtr_cycle (s : State) (k v : Nat) : (setCtr s k v).cycle = s.cycle := rfl
@[simp] theorem setCtr_regs (s : State) (k v : Nat) : (setCtr s k v).regs = s.regs := rfl
@[simp] theorem setCtr_tab0 (s : State) (k v : Nat) : (setCtr s k v).tab0 = s.tab0 := rfl
@[simp] theorem setCtr_tab1 (s : State) (k v : Nat) : (setCtr s k v).tab1 = s.tab1 := rfl
@[simp] theorem setCtr_out (s : State) (k v : Nat) : (setCtr s k v).out = s.out := rfl
@[simp] theorem setCtr_clk (s : State) (k v : Nat) : (setCtr s k v).clk = s.clk := rfl
@[simp] theorem setCtr_ctl (s : State) (k v : Nat) : (setCtr s k v).ctl = s.ctl := rfl
@[simp] theorem setCtr_forme (s : State) (k v : Nat) : (setCtr s k v).forme = s.forme := rfl
@[simp] theorem setCtr_rcd (s : State) (k v : Nat) : (setCtr s k v).rcd = s.rcd := rfl
@[simp] theorem setCtr_host (s : State) (k v : Nat) : (setCtr s k v).host = s.host := rfl
@[simp] theorem setCtr_path (s : State) (k v : Nat) : (setCtr s k v).path = s.path := rfl
@[simp] theorem setCtr_core (s : State) (k v : Nat) : (setCtr s k v).core = s.core := rfl
@[simp] theorem setCtr_learn (s : State) (k v : Nat) : (setCtr s k v).learn = s.learn := rfl
@[simp] theorem setCtr_ciph (s : State) (k v : Nat) : (setCtr s k v).ciph = s.ciph := rfl
@[simp] theorem setCtr_mp (s : State) (k v : Nat) : (setCtr s k v).mp = s.mp := rfl
@[simp] theorem setCtr_pool (s : State) (k v : Nat) : (setCtr s k v).pool = s.pool := rfl
@[simp] theorem setCtr_pwr (s : State) (k v : Nat) : (setCtr s k v).pwr = s.pwr := rfl

@[simp] theorem journal_pending (s : State) (kind origin : Nat) (d : List (Nat × Nat)) : (journal s kind origin d).pending = s.pending := rfl
@[simp] theorem journal_variant (s : State) (kind origin : Nat) (d : List (Nat × Nat)) : (journal s kind origin d).variant = s.variant := rfl
@[simp] theorem journal_serial (s : State) (kind origin : Nat) (d : List (Nat × Nat)) : (journal s kind origin d).serial = s.serial := rfl
@[simp] theorem journal_fresh (s : State) (kind origin : Nat) (d : List (Nat × Nat)) : (journal s kind origin d).fresh = s.fresh := rfl
@[simp] theorem journal_cycle (s : State) (kind origin : Nat) (d : List (Nat × Nat)) : (journal s kind origin d).cycle = s.cycle := rfl
@[simp] theorem journal_regs (s : State) (kind origin : Nat) (d : List (Nat × Nat)) : (journal s kind origin d).regs = s.regs := rfl
@[simp] theorem journal_ctrs (s : State) (kind origin : Nat) (d : List (Nat × Nat)) : (journal s kind origin d).ctrs = s.ctrs := rfl
@[simp] theorem journal_tab0 (s : State) (kind origin : Nat) (d : List (Nat × Nat)) : (journal s kind origin d).tab0 = s.tab0 := rfl
@[simp] theorem journal_tab1 (s : State) (kind origin : Nat) (d : List (Nat × Nat)) : (journal s kind origin d).tab1 = s.tab1 := rfl
@[simp] theorem journal_out (s : State) (kind origin : Nat) (d : List (Nat × Nat)) : (journal s kind origin d).out = s.out := rfl
@[simp] theorem journal_clk (s : State) (kind origin : Nat) (d : List (Nat × Nat)) : (journal s kind origin d).clk = s.clk := rfl
@[simp] theorem journal_ctl (s : State) (kind origin : Nat) (d : List (Nat × Nat)) : (journal s kind origin d).ctl = s.ctl := rfl
@[simp] theorem journal_forme (s : State) (kind origin : Nat) (d : List (Nat × Nat)) : (journal s kind origin d).forme = s.forme := rfl
@[simp] theorem journal_host (s : State) (kind origin : Nat) (d : List (Nat × Nat)) : (journal s kind origin d).host = s.host := rfl
@[simp] theorem journal_path (s : State) (kind origin : Nat) (d : List (Nat × Nat)) : (journal s kind origin d).path = s.path := rfl
@[simp] theorem journal_core (s : State) (kind origin : Nat) (d : List (Nat × Nat)) : (journal s kind origin d).core = s.core := rfl
@[simp] theorem journal_learn (s : State) (kind origin : Nat) (d : List (Nat × Nat)) : (journal s kind origin d).learn = s.learn := rfl
@[simp] theorem journal_ciph (s : State) (kind origin : Nat) (d : List (Nat × Nat)) : (journal s kind origin d).ciph = s.ciph := rfl
@[simp] theorem journal_mp (s : State) (kind origin : Nat) (d : List (Nat × Nat)) : (journal s kind origin d).mp = s.mp := rfl
@[simp] theorem journal_pool (s : State) (kind origin : Nat) (d : List (Nat × Nat)) : (journal s kind origin d).pool = s.pool := rfl
@[simp] theorem journal_pwr (s : State) (kind origin : Nat) (d : List (Nat × Nat)) : (journal s kind origin d).pwr = s.pwr := rfl

@[simp] theorem journalPart_pending (s : State) (kind origin part : Nat) (d : List (Nat × Nat)) : (journalPart s kind origin part d).pending = s.pending := rfl
@[simp] theorem journalPart_variant (s : State) (kind origin part : Nat) (d : List (Nat × Nat)) : (journalPart s kind origin part d).variant = s.variant := rfl
@[simp] theorem journalPart_serial (s : State) (kind origin part : Nat) (d : List (Nat × Nat)) : (journalPart s kind origin part d).serial = s.serial := rfl
@[simp] theorem journalPart_fresh (s : State) (kind origin part : Nat) (d : List (Nat × Nat)) : (journalPart s kind origin part d).fresh = s.fresh := rfl
@[simp] theorem journalPart_cycle (s : State) (kind origin part : Nat) (d : List (Nat × Nat)) : (journalPart s kind origin part d).cycle = s.cycle := rfl
@[simp] theorem journalPart_regs (s : State) (kind origin part : Nat) (d : List (Nat × Nat)) : (journalPart s kind origin part d).regs = s.regs := rfl
@[simp] theorem journalPart_ctrs (s : State) (kind origin part : Nat) (d : List (Nat × Nat)) : (journalPart s kind origin part d).ctrs = s.ctrs := rfl
@[simp] theorem journalPart_tab0 (s : State) (kind origin part : Nat) (d : List (Nat × Nat)) : (journalPart s kind origin part d).tab0 = s.tab0 := rfl
@[simp] theorem journalPart_tab1 (s : State) (kind origin part : Nat) (d : List (Nat × Nat)) : (journalPart s kind origin part d).tab1 = s.tab1 := rfl
@[simp] theorem journalPart_out (s : State) (kind origin part : Nat) (d : List (Nat × Nat)) : (journalPart s kind origin part d).out = s.out := rfl
@[simp] theorem journalPart_clk (s : State) (kind origin part : Nat) (d : List (Nat × Nat)) : (journalPart s kind origin part d).clk = s.clk := rfl
@[simp] theorem journalPart_ctl (s : State) (kind origin part : Nat) (d : List (Nat × Nat)) : (journalPart s kind origin part d).ctl = s.ctl := rfl
@[simp] theorem journalPart_forme (s : State) (kind origin part : Nat) (d : List (Nat × Nat)) : (journalPart s kind origin part d).forme = s.forme := rfl
@[simp] theorem journalPart_host (s : State) (kind origin part : Nat) (d : List (Nat × Nat)) : (journalPart s kind origin part d).host = s.host := rfl
@[simp] theorem journalPart_path (s : State) (kind origin part : Nat) (d : List (Nat × Nat)) : (journalPart s kind origin part d).path = s.path := rfl
@[simp] theorem journalPart_core (s : State) (kind origin part : Nat) (d : List (Nat × Nat)) : (journalPart s kind origin part d).core = s.core := rfl
@[simp] theorem journalPart_learn (s : State) (kind origin part : Nat) (d : List (Nat × Nat)) : (journalPart s kind origin part d).learn = s.learn := rfl
@[simp] theorem journalPart_ciph (s : State) (kind origin part : Nat) (d : List (Nat × Nat)) : (journalPart s kind origin part d).ciph = s.ciph := rfl
@[simp] theorem journalPart_mp (s : State) (kind origin part : Nat) (d : List (Nat × Nat)) : (journalPart s kind origin part d).mp = s.mp := rfl
@[simp] theorem journalPart_pool (s : State) (kind origin part : Nat) (d : List (Nat × Nat)) : (journalPart s kind origin part d).pool = s.pool := rfl
@[simp] theorem journalPart_pwr (s : State) (kind origin part : Nat) (d : List (Nat × Nat)) : (journalPart s kind origin part d).pwr = s.pwr := rfl

@[simp] theorem setLedger_pending (s : State) (e v : Nat) : (setLedger s e v).pending = s.pending := rfl
@[simp] theorem setLedger_variant (s : State) (e v : Nat) : (setLedger s e v).variant = s.variant := rfl
@[simp] theorem setLedger_serial (s : State) (e v : Nat) : (setLedger s e v).serial = s.serial := rfl
@[simp] theorem setLedger_fresh (s : State) (e v : Nat) : (setLedger s e v).fresh = s.fresh := rfl
@[simp] theorem setLedger_cycle (s : State) (e v : Nat) : (setLedger s e v).cycle = s.cycle := rfl
@[simp] theorem setLedger_regs (s : State) (e v : Nat) : (setLedger s e v).regs = s.regs := rfl
@[simp] theorem setLedger_ctrs (s : State) (e v : Nat) : (setLedger s e v).ctrs = s.ctrs := rfl
@[simp] theorem setLedger_tab0 (s : State) (e v : Nat) : (setLedger s e v).tab0 = s.tab0 := rfl
@[simp] theorem setLedger_tab1 (s : State) (e v : Nat) : (setLedger s e v).tab1 = s.tab1 := rfl
@[simp] theorem setLedger_out (s : State) (e v : Nat) : (setLedger s e v).out = s.out := rfl
@[simp] theorem setLedger_clk (s : State) (e v : Nat) : (setLedger s e v).clk = s.clk := rfl
@[simp] theorem setLedger_ctl (s : State) (e v : Nat) : (setLedger s e v).ctl = s.ctl := rfl
@[simp] theorem setLedger_forme (s : State) (e v : Nat) : (setLedger s e v).forme = s.forme := rfl
@[simp] theorem setLedger_rcd (s : State) (e v : Nat) : (setLedger s e v).rcd = s.rcd := rfl
@[simp] theorem setLedger_host (s : State) (e v : Nat) : (setLedger s e v).host = s.host := rfl
@[simp] theorem setLedger_path (s : State) (e v : Nat) : (setLedger s e v).path = s.path := rfl
@[simp] theorem setLedger_core (s : State) (e v : Nat) : (setLedger s e v).core = s.core := rfl
@[simp] theorem setLedger_learn (s : State) (e v : Nat) : (setLedger s e v).learn = s.learn := rfl
@[simp] theorem setLedger_ciph (s : State) (e v : Nat) : (setLedger s e v).ciph = s.ciph := rfl
@[simp] theorem setLedger_mp (s : State) (e v : Nat) : (setLedger s e v).mp = s.mp := rfl
@[simp] theorem setLedger_pwr (s : State) (e v : Nat) : (setLedger s e v).pwr = s.pwr := rfl

@[simp] theorem setFifo_pending (s : State) (k : Nat) (l : List PoolWait) : (setFifo s k l).pending = s.pending := rfl
@[simp] theorem setFifo_variant (s : State) (k : Nat) (l : List PoolWait) : (setFifo s k l).variant = s.variant := rfl
@[simp] theorem setFifo_serial (s : State) (k : Nat) (l : List PoolWait) : (setFifo s k l).serial = s.serial := rfl
@[simp] theorem setFifo_fresh (s : State) (k : Nat) (l : List PoolWait) : (setFifo s k l).fresh = s.fresh := rfl
@[simp] theorem setFifo_cycle (s : State) (k : Nat) (l : List PoolWait) : (setFifo s k l).cycle = s.cycle := rfl
@[simp] theorem setFifo_regs (s : State) (k : Nat) (l : List PoolWait) : (setFifo s k l).regs = s.regs := rfl
@[simp] theorem setFifo_ctrs (s : State) (k : Nat) (l : List PoolWait) : (setFifo s k l).ctrs = s.ctrs := rfl
@[simp] theorem setFifo_tab0 (s : State) (k : Nat) (l : List PoolWait) : (setFifo s k l).tab0 = s.tab0 := rfl
@[simp] theorem setFifo_tab1 (s : State) (k : Nat) (l : List PoolWait) : (setFifo s k l).tab1 = s.tab1 := rfl
@[simp] theorem setFifo_out (s : State) (k : Nat) (l : List PoolWait) : (setFifo s k l).out = s.out := rfl
@[simp] theorem setFifo_clk (s : State) (k : Nat) (l : List PoolWait) : (setFifo s k l).clk = s.clk := rfl
@[simp] theorem setFifo_ctl (s : State) (k : Nat) (l : List PoolWait) : (setFifo s k l).ctl = s.ctl := rfl
@[simp] theorem setFifo_forme (s : State) (k : Nat) (l : List PoolWait) : (setFifo s k l).forme = s.forme := rfl
@[simp] theorem setFifo_rcd (s : State) (k : Nat) (l : List PoolWait) : (setFifo s k l).rcd = s.rcd := rfl
@[simp] theorem setFifo_host (s : State) (k : Nat) (l : List PoolWait) : (setFifo s k l).host = s.host := rfl
@[simp] theorem setFifo_path (s : State) (k : Nat) (l : List PoolWait) : (setFifo s k l).path = s.path := rfl
@[simp] theorem setFifo_core (s : State) (k : Nat) (l : List PoolWait) : (setFifo s k l).core = s.core := rfl
@[simp] theorem setFifo_learn (s : State) (k : Nat) (l : List PoolWait) : (setFifo s k l).learn = s.learn := rfl
@[simp] theorem setFifo_ciph (s : State) (k : Nat) (l : List PoolWait) : (setFifo s k l).ciph = s.ciph := rfl
@[simp] theorem setFifo_mp (s : State) (k : Nat) (l : List PoolWait) : (setFifo s k l).mp = s.mp := rfl
@[simp] theorem setFifo_pwr (s : State) (k : Nat) (l : List PoolWait) : (setFifo s k l).pwr = s.pwr := rfl

@[simp] theorem setBootSlot_pending (s : State) (k : Nat) (x : Option BootImage) : (setBootSlot s k x).pending = s.pending := rfl
@[simp] theorem setBootSlot_variant (s : State) (k : Nat) (x : Option BootImage) : (setBootSlot s k x).variant = s.variant := rfl
@[simp] theorem setBootSlot_serial (s : State) (k : Nat) (x : Option BootImage) : (setBootSlot s k x).serial = s.serial := rfl
@[simp] theorem setBootSlot_fresh (s : State) (k : Nat) (x : Option BootImage) : (setBootSlot s k x).fresh = s.fresh := rfl
@[simp] theorem setBootSlot_cycle (s : State) (k : Nat) (x : Option BootImage) : (setBootSlot s k x).cycle = s.cycle := rfl
@[simp] theorem setBootSlot_regs (s : State) (k : Nat) (x : Option BootImage) : (setBootSlot s k x).regs = s.regs := rfl
@[simp] theorem setBootSlot_ctrs (s : State) (k : Nat) (x : Option BootImage) : (setBootSlot s k x).ctrs = s.ctrs := rfl
@[simp] theorem setBootSlot_tab0 (s : State) (k : Nat) (x : Option BootImage) : (setBootSlot s k x).tab0 = s.tab0 := rfl
@[simp] theorem setBootSlot_tab1 (s : State) (k : Nat) (x : Option BootImage) : (setBootSlot s k x).tab1 = s.tab1 := rfl
@[simp] theorem setBootSlot_out (s : State) (k : Nat) (x : Option BootImage) : (setBootSlot s k x).out = s.out := rfl
@[simp] theorem setBootSlot_clk (s : State) (k : Nat) (x : Option BootImage) : (setBootSlot s k x).clk = s.clk := rfl
@[simp] theorem setBootSlot_ctl (s : State) (k : Nat) (x : Option BootImage) : (setBootSlot s k x).ctl = s.ctl := rfl
@[simp] theorem setBootSlot_forme (s : State) (k : Nat) (x : Option BootImage) : (setBootSlot s k x).forme = s.forme := rfl
@[simp] theorem setBootSlot_rcd (s : State) (k : Nat) (x : Option BootImage) : (setBootSlot s k x).rcd = s.rcd := rfl
@[simp] theorem setBootSlot_host (s : State) (k : Nat) (x : Option BootImage) : (setBootSlot s k x).host = s.host := rfl
@[simp] theorem setBootSlot_path (s : State) (k : Nat) (x : Option BootImage) : (setBootSlot s k x).path = s.path := rfl
@[simp] theorem setBootSlot_core (s : State) (k : Nat) (x : Option BootImage) : (setBootSlot s k x).core = s.core := rfl
@[simp] theorem setBootSlot_learn (s : State) (k : Nat) (x : Option BootImage) : (setBootSlot s k x).learn = s.learn := rfl
@[simp] theorem setBootSlot_ciph (s : State) (k : Nat) (x : Option BootImage) : (setBootSlot s k x).ciph = s.ciph := rfl
@[simp] theorem setBootSlot_mp (s : State) (k : Nat) (x : Option BootImage) : (setBootSlot s k x).mp = s.mp := rfl
@[simp] theorem setBootSlot_pool (s : State) (k : Nat) (x : Option BootImage) : (setBootSlot s k x).pool = s.pool := rfl

@[simp] theorem setRt_pending (s : State) (n : Nat) (r : RingRt) : (setRt s n r).pending = s.pending := rfl
@[simp] theorem setRt_variant (s : State) (n : Nat) (r : RingRt) : (setRt s n r).variant = s.variant := rfl
@[simp] theorem setRt_serial (s : State) (n : Nat) (r : RingRt) : (setRt s n r).serial = s.serial := rfl
@[simp] theorem setRt_fresh (s : State) (n : Nat) (r : RingRt) : (setRt s n r).fresh = s.fresh := rfl
@[simp] theorem setRt_cycle (s : State) (n : Nat) (r : RingRt) : (setRt s n r).cycle = s.cycle := rfl
@[simp] theorem setRt_regs (s : State) (n : Nat) (r : RingRt) : (setRt s n r).regs = s.regs := rfl
@[simp] theorem setRt_ctrs (s : State) (n : Nat) (r : RingRt) : (setRt s n r).ctrs = s.ctrs := rfl
@[simp] theorem setRt_tab0 (s : State) (n : Nat) (r : RingRt) : (setRt s n r).tab0 = s.tab0 := rfl
@[simp] theorem setRt_tab1 (s : State) (n : Nat) (r : RingRt) : (setRt s n r).tab1 = s.tab1 := rfl
@[simp] theorem setRt_out (s : State) (n : Nat) (r : RingRt) : (setRt s n r).out = s.out := rfl
@[simp] theorem setRt_clk (s : State) (n : Nat) (r : RingRt) : (setRt s n r).clk = s.clk := rfl
@[simp] theorem setRt_forme (s : State) (n : Nat) (r : RingRt) : (setRt s n r).forme = s.forme := rfl
@[simp] theorem setRt_rcd (s : State) (n : Nat) (r : RingRt) : (setRt s n r).rcd = s.rcd := rfl
@[simp] theorem setRt_host (s : State) (n : Nat) (r : RingRt) : (setRt s n r).host = s.host := rfl
@[simp] theorem setRt_path (s : State) (n : Nat) (r : RingRt) : (setRt s n r).path = s.path := rfl
@[simp] theorem setRt_core (s : State) (n : Nat) (r : RingRt) : (setRt s n r).core = s.core := rfl
@[simp] theorem setRt_learn (s : State) (n : Nat) (r : RingRt) : (setRt s n r).learn = s.learn := rfl
@[simp] theorem setRt_ciph (s : State) (n : Nat) (r : RingRt) : (setRt s n r).ciph = s.ciph := rfl
@[simp] theorem setRt_mp (s : State) (n : Nat) (r : RingRt) : (setRt s n r).mp = s.mp := rfl
@[simp] theorem setRt_pool (s : State) (n : Nat) (r : RingRt) : (setRt s n r).pool = s.pool := rfl
@[simp] theorem setRt_pwr (s : State) (n : Nat) (r : RingRt) : (setRt s n r).pwr = s.pwr := rfl

@[simp] theorem yieldTurn_pending (s : State) (n : Nat) : (yieldTurn s n).pending = s.pending := rfl
@[simp] theorem yieldTurn_variant (s : State) (n : Nat) : (yieldTurn s n).variant = s.variant := rfl
@[simp] theorem yieldTurn_serial (s : State) (n : Nat) : (yieldTurn s n).serial = s.serial := rfl
@[simp] theorem yieldTurn_fresh (s : State) (n : Nat) : (yieldTurn s n).fresh = s.fresh := rfl
@[simp] theorem yieldTurn_cycle (s : State) (n : Nat) : (yieldTurn s n).cycle = s.cycle := rfl
@[simp] theorem yieldTurn_regs (s : State) (n : Nat) : (yieldTurn s n).regs = s.regs := rfl
@[simp] theorem yieldTurn_ctrs (s : State) (n : Nat) : (yieldTurn s n).ctrs = s.ctrs := rfl
@[simp] theorem yieldTurn_tab0 (s : State) (n : Nat) : (yieldTurn s n).tab0 = s.tab0 := rfl
@[simp] theorem yieldTurn_tab1 (s : State) (n : Nat) : (yieldTurn s n).tab1 = s.tab1 := rfl
@[simp] theorem yieldTurn_out (s : State) (n : Nat) : (yieldTurn s n).out = s.out := rfl
@[simp] theorem yieldTurn_clk (s : State) (n : Nat) : (yieldTurn s n).clk = s.clk := rfl
@[simp] theorem yieldTurn_forme (s : State) (n : Nat) : (yieldTurn s n).forme = s.forme := rfl
@[simp] theorem yieldTurn_rcd (s : State) (n : Nat) : (yieldTurn s n).rcd = s.rcd := rfl
@[simp] theorem yieldTurn_host (s : State) (n : Nat) : (yieldTurn s n).host = s.host := rfl
@[simp] theorem yieldTurn_path (s : State) (n : Nat) : (yieldTurn s n).path = s.path := rfl
@[simp] theorem yieldTurn_core (s : State) (n : Nat) : (yieldTurn s n).core = s.core := rfl
@[simp] theorem yieldTurn_learn (s : State) (n : Nat) : (yieldTurn s n).learn = s.learn := rfl
@[simp] theorem yieldTurn_ciph (s : State) (n : Nat) : (yieldTurn s n).ciph = s.ciph := rfl
@[simp] theorem yieldTurn_mp (s : State) (n : Nat) : (yieldTurn s n).mp = s.mp := rfl
@[simp] theorem yieldTurn_pool (s : State) (n : Nat) : (yieldTurn s n).pool = s.pool := rfl
@[simp] theorem yieldTurn_pwr (s : State) (n : Nat) : (yieldTurn s n).pwr = s.pwr := rfl

@[simp] theorem takeIsn_pending (s : State) : (takeIsn s).pending = s.pending := rfl
@[simp] theorem takeIsn_variant (s : State) : (takeIsn s).variant = s.variant := rfl
@[simp] theorem takeIsn_serial (s : State) : (takeIsn s).serial = s.serial := rfl
@[simp] theorem takeIsn_fresh (s : State) : (takeIsn s).fresh = s.fresh := rfl
@[simp] theorem takeIsn_cycle (s : State) : (takeIsn s).cycle = s.cycle := rfl
@[simp] theorem takeIsn_regs (s : State) : (takeIsn s).regs = s.regs := rfl
@[simp] theorem takeIsn_ctrs (s : State) : (takeIsn s).ctrs = s.ctrs := rfl
@[simp] theorem takeIsn_tab0 (s : State) : (takeIsn s).tab0 = s.tab0 := rfl
@[simp] theorem takeIsn_tab1 (s : State) : (takeIsn s).tab1 = s.tab1 := rfl
@[simp] theorem takeIsn_out (s : State) : (takeIsn s).out = s.out := rfl
@[simp] theorem takeIsn_clk (s : State) : (takeIsn s).clk = s.clk := rfl
@[simp] theorem takeIsn_forme (s : State) : (takeIsn s).forme = s.forme := rfl
@[simp] theorem takeIsn_rcd (s : State) : (takeIsn s).rcd = s.rcd := rfl
@[simp] theorem takeIsn_host (s : State) : (takeIsn s).host = s.host := rfl
@[simp] theorem takeIsn_path (s : State) : (takeIsn s).path = s.path := rfl
@[simp] theorem takeIsn_core (s : State) : (takeIsn s).core = s.core := rfl
@[simp] theorem takeIsn_learn (s : State) : (takeIsn s).learn = s.learn := rfl
@[simp] theorem takeIsn_ciph (s : State) : (takeIsn s).ciph = s.ciph := rfl
@[simp] theorem takeIsn_mp (s : State) : (takeIsn s).mp = s.mp := rfl
@[simp] theorem takeIsn_pool (s : State) : (takeIsn s).pool = s.pool := rfl
@[simp] theorem takeIsn_pwr (s : State) : (takeIsn s).pwr = s.pwr := rfl

@[simp] theorem setPeal_pending (s : State) (k : Nat) (p : Peal) : (setPeal s k p).pending = s.pending := rfl
@[simp] theorem setPeal_variant (s : State) (k : Nat) (p : Peal) : (setPeal s k p).variant = s.variant := rfl
@[simp] theorem setPeal_serial (s : State) (k : Nat) (p : Peal) : (setPeal s k p).serial = s.serial := rfl
@[simp] theorem setPeal_fresh (s : State) (k : Nat) (p : Peal) : (setPeal s k p).fresh = s.fresh := rfl
@[simp] theorem setPeal_cycle (s : State) (k : Nat) (p : Peal) : (setPeal s k p).cycle = s.cycle := rfl
@[simp] theorem setPeal_regs (s : State) (k : Nat) (p : Peal) : (setPeal s k p).regs = s.regs := rfl
@[simp] theorem setPeal_ctrs (s : State) (k : Nat) (p : Peal) : (setPeal s k p).ctrs = s.ctrs := rfl
@[simp] theorem setPeal_tab0 (s : State) (k : Nat) (p : Peal) : (setPeal s k p).tab0 = s.tab0 := rfl
@[simp] theorem setPeal_tab1 (s : State) (k : Nat) (p : Peal) : (setPeal s k p).tab1 = s.tab1 := rfl
@[simp] theorem setPeal_out (s : State) (k : Nat) (p : Peal) : (setPeal s k p).out = s.out := rfl
@[simp] theorem setPeal_clk (s : State) (k : Nat) (p : Peal) : (setPeal s k p).clk = s.clk := rfl
@[simp] theorem setPeal_ctl (s : State) (k : Nat) (p : Peal) : (setPeal s k p).ctl = s.ctl := rfl
@[simp] theorem setPeal_forme (s : State) (k : Nat) (p : Peal) : (setPeal s k p).forme = s.forme := rfl
@[simp] theorem setPeal_rcd (s : State) (k : Nat) (p : Peal) : (setPeal s k p).rcd = s.rcd := rfl
@[simp] theorem setPeal_host (s : State) (k : Nat) (p : Peal) : (setPeal s k p).host = s.host := rfl
@[simp] theorem setPeal_path (s : State) (k : Nat) (p : Peal) : (setPeal s k p).path = s.path := rfl
@[simp] theorem setPeal_core (s : State) (k : Nat) (p : Peal) : (setPeal s k p).core = s.core := rfl
@[simp] theorem setPeal_learn (s : State) (k : Nat) (p : Peal) : (setPeal s k p).learn = s.learn := rfl
@[simp] theorem setPeal_ciph (s : State) (k : Nat) (p : Peal) : (setPeal s k p).ciph = s.ciph := rfl
@[simp] theorem setPeal_pool (s : State) (k : Nat) (p : Peal) : (setPeal s k p).pool = s.pool := rfl
@[simp] theorem setPeal_pwr (s : State) (k : Nat) (p : Peal) : (setPeal s k p).pwr = s.pwr := rfl

@[simp] theorem ppsDone_pending (s : State) (i : Nat) : (ppsDone s i).pending = s.pending := rfl
@[simp] theorem ppsDone_variant (s : State) (i : Nat) : (ppsDone s i).variant = s.variant := rfl
@[simp] theorem ppsDone_serial (s : State) (i : Nat) : (ppsDone s i).serial = s.serial := rfl
@[simp] theorem ppsDone_fresh (s : State) (i : Nat) : (ppsDone s i).fresh = s.fresh := rfl
@[simp] theorem ppsDone_cycle (s : State) (i : Nat) : (ppsDone s i).cycle = s.cycle := rfl
@[simp] theorem ppsDone_regs (s : State) (i : Nat) : (ppsDone s i).regs = s.regs := rfl
@[simp] theorem ppsDone_ctrs (s : State) (i : Nat) : (ppsDone s i).ctrs = s.ctrs := rfl
@[simp] theorem ppsDone_tab0 (s : State) (i : Nat) : (ppsDone s i).tab0 = s.tab0 := rfl
@[simp] theorem ppsDone_tab1 (s : State) (i : Nat) : (ppsDone s i).tab1 = s.tab1 := rfl
@[simp] theorem ppsDone_out (s : State) (i : Nat) : (ppsDone s i).out = s.out := rfl
@[simp] theorem ppsDone_clk (s : State) (i : Nat) : (ppsDone s i).clk = s.clk := rfl
@[simp] theorem ppsDone_ctl (s : State) (i : Nat) : (ppsDone s i).ctl = s.ctl := rfl
@[simp] theorem ppsDone_forme (s : State) (i : Nat) : (ppsDone s i).forme = s.forme := rfl
@[simp] theorem ppsDone_rcd (s : State) (i : Nat) : (ppsDone s i).rcd = s.rcd := rfl
@[simp] theorem ppsDone_host (s : State) (i : Nat) : (ppsDone s i).host = s.host := rfl
@[simp] theorem ppsDone_path (s : State) (i : Nat) : (ppsDone s i).path = s.path := rfl
@[simp] theorem ppsDone_learn (s : State) (i : Nat) : (ppsDone s i).learn = s.learn := rfl
@[simp] theorem ppsDone_ciph (s : State) (i : Nat) : (ppsDone s i).ciph = s.ciph := rfl
@[simp] theorem ppsDone_mp (s : State) (i : Nat) : (ppsDone s i).mp = s.mp := rfl
@[simp] theorem ppsDone_pool (s : State) (i : Nat) : (ppsDone s i).pool = s.pool := rfl
@[simp] theorem ppsDone_pwr (s : State) (i : Nat) : (ppsDone s i).pwr = s.pwr := rfl

@[simp] theorem setFrames_pending (s : State) (l : List Frame) : (setFrames s l).pending = s.pending := rfl
@[simp] theorem setFrames_variant (s : State) (l : List Frame) : (setFrames s l).variant = s.variant := rfl
@[simp] theorem setFrames_serial (s : State) (l : List Frame) : (setFrames s l).serial = s.serial := rfl
@[simp] theorem setFrames_fresh (s : State) (l : List Frame) : (setFrames s l).fresh = s.fresh := rfl
@[simp] theorem setFrames_cycle (s : State) (l : List Frame) : (setFrames s l).cycle = s.cycle := rfl
@[simp] theorem setFrames_regs (s : State) (l : List Frame) : (setFrames s l).regs = s.regs := rfl
@[simp] theorem setFrames_ctrs (s : State) (l : List Frame) : (setFrames s l).ctrs = s.ctrs := rfl
@[simp] theorem setFrames_tab0 (s : State) (l : List Frame) : (setFrames s l).tab0 = s.tab0 := rfl
@[simp] theorem setFrames_tab1 (s : State) (l : List Frame) : (setFrames s l).tab1 = s.tab1 := rfl
@[simp] theorem setFrames_out (s : State) (l : List Frame) : (setFrames s l).out = s.out := rfl
@[simp] theorem setFrames_clk (s : State) (l : List Frame) : (setFrames s l).clk = s.clk := rfl
@[simp] theorem setFrames_ctl (s : State) (l : List Frame) : (setFrames s l).ctl = s.ctl := rfl
@[simp] theorem setFrames_forme (s : State) (l : List Frame) : (setFrames s l).forme = s.forme := rfl
@[simp] theorem setFrames_rcd (s : State) (l : List Frame) : (setFrames s l).rcd = s.rcd := rfl
@[simp] theorem setFrames_host (s : State) (l : List Frame) : (setFrames s l).host = s.host := rfl
@[simp] theorem setFrames_core (s : State) (l : List Frame) : (setFrames s l).core = s.core := rfl
@[simp] theorem setFrames_learn (s : State) (l : List Frame) : (setFrames s l).learn = s.learn := rfl
@[simp] theorem setFrames_ciph (s : State) (l : List Frame) : (setFrames s l).ciph = s.ciph := rfl
@[simp] theorem setFrames_mp (s : State) (l : List Frame) : (setFrames s l).mp = s.mp := rfl
@[simp] theorem setFrames_pool (s : State) (l : List Frame) : (setFrames s l).pool = s.pool := rfl
@[simp] theorem setFrames_pwr (s : State) (l : List Frame) : (setFrames s l).pwr = s.pwr := rfl

@[simp] theorem setCopies_pending (s : State) (l : List Copy) : (setCopies s l).pending = s.pending := rfl
@[simp] theorem setCopies_variant (s : State) (l : List Copy) : (setCopies s l).variant = s.variant := rfl
@[simp] theorem setCopies_serial (s : State) (l : List Copy) : (setCopies s l).serial = s.serial := rfl
@[simp] theorem setCopies_fresh (s : State) (l : List Copy) : (setCopies s l).fresh = s.fresh := rfl
@[simp] theorem setCopies_cycle (s : State) (l : List Copy) : (setCopies s l).cycle = s.cycle := rfl
@[simp] theorem setCopies_regs (s : State) (l : List Copy) : (setCopies s l).regs = s.regs := rfl
@[simp] theorem setCopies_ctrs (s : State) (l : List Copy) : (setCopies s l).ctrs = s.ctrs := rfl
@[simp] theorem setCopies_tab0 (s : State) (l : List Copy) : (setCopies s l).tab0 = s.tab0 := rfl
@[simp] theorem setCopies_tab1 (s : State) (l : List Copy) : (setCopies s l).tab1 = s.tab1 := rfl
@[simp] theorem setCopies_out (s : State) (l : List Copy) : (setCopies s l).out = s.out := rfl
@[simp] theorem setCopies_clk (s : State) (l : List Copy) : (setCopies s l).clk = s.clk := rfl
@[simp] theorem setCopies_ctl (s : State) (l : List Copy) : (setCopies s l).ctl = s.ctl := rfl
@[simp] theorem setCopies_forme (s : State) (l : List Copy) : (setCopies s l).forme = s.forme := rfl
@[simp] theorem setCopies_rcd (s : State) (l : List Copy) : (setCopies s l).rcd = s.rcd := rfl
@[simp] theorem setCopies_host (s : State) (l : List Copy) : (setCopies s l).host = s.host := rfl
@[simp] theorem setCopies_core (s : State) (l : List Copy) : (setCopies s l).core = s.core := rfl
@[simp] theorem setCopies_learn (s : State) (l : List Copy) : (setCopies s l).learn = s.learn := rfl
@[simp] theorem setCopies_ciph (s : State) (l : List Copy) : (setCopies s l).ciph = s.ciph := rfl
@[simp] theorem setCopies_mp (s : State) (l : List Copy) : (setCopies s l).mp = s.mp := rfl
@[simp] theorem setCopies_pool (s : State) (l : List Copy) : (setCopies s l).pool = s.pool := rfl
@[simp] theorem setCopies_pwr (s : State) (l : List Copy) : (setCopies s l).pwr = s.pwr := rfl

@[simp] theorem addFrame_pending (s : State) (f : Frame) : (addFrame s f).pending = s.pending := rfl
@[simp] theorem addFrame_variant (s : State) (f : Frame) : (addFrame s f).variant = s.variant := rfl
@[simp] theorem addFrame_serial (s : State) (f : Frame) : (addFrame s f).serial = s.serial := rfl
@[simp] theorem addFrame_fresh (s : State) (f : Frame) : (addFrame s f).fresh = s.fresh := rfl
@[simp] theorem addFrame_cycle (s : State) (f : Frame) : (addFrame s f).cycle = s.cycle := rfl
@[simp] theorem addFrame_regs (s : State) (f : Frame) : (addFrame s f).regs = s.regs := rfl
@[simp] theorem addFrame_ctrs (s : State) (f : Frame) : (addFrame s f).ctrs = s.ctrs := rfl
@[simp] theorem addFrame_tab0 (s : State) (f : Frame) : (addFrame s f).tab0 = s.tab0 := rfl
@[simp] theorem addFrame_tab1 (s : State) (f : Frame) : (addFrame s f).tab1 = s.tab1 := rfl
@[simp] theorem addFrame_out (s : State) (f : Frame) : (addFrame s f).out = s.out := rfl
@[simp] theorem addFrame_clk (s : State) (f : Frame) : (addFrame s f).clk = s.clk := rfl
@[simp] theorem addFrame_ctl (s : State) (f : Frame) : (addFrame s f).ctl = s.ctl := rfl
@[simp] theorem addFrame_forme (s : State) (f : Frame) : (addFrame s f).forme = s.forme := rfl
@[simp] theorem addFrame_rcd (s : State) (f : Frame) : (addFrame s f).rcd = s.rcd := rfl
@[simp] theorem addFrame_host (s : State) (f : Frame) : (addFrame s f).host = s.host := rfl
@[simp] theorem addFrame_core (s : State) (f : Frame) : (addFrame s f).core = s.core := rfl
@[simp] theorem addFrame_learn (s : State) (f : Frame) : (addFrame s f).learn = s.learn := rfl
@[simp] theorem addFrame_ciph (s : State) (f : Frame) : (addFrame s f).ciph = s.ciph := rfl
@[simp] theorem addFrame_mp (s : State) (f : Frame) : (addFrame s f).mp = s.mp := rfl
@[simp] theorem addFrame_pool (s : State) (f : Frame) : (addFrame s f).pool = s.pool := rfl
@[simp] theorem addFrame_pwr (s : State) (f : Frame) : (addFrame s f).pwr = s.pwr := rfl

@[simp] theorem addCopy_pending (s : State) (c : Copy) : (addCopy s c).pending = s.pending := rfl
@[simp] theorem addCopy_variant (s : State) (c : Copy) : (addCopy s c).variant = s.variant := rfl
@[simp] theorem addCopy_serial (s : State) (c : Copy) : (addCopy s c).serial = s.serial := rfl
@[simp] theorem addCopy_fresh (s : State) (c : Copy) : (addCopy s c).fresh = s.fresh := rfl
@[simp] theorem addCopy_cycle (s : State) (c : Copy) : (addCopy s c).cycle = s.cycle := rfl
@[simp] theorem addCopy_regs (s : State) (c : Copy) : (addCopy s c).regs = s.regs := rfl
@[simp] theorem addCopy_ctrs (s : State) (c : Copy) : (addCopy s c).ctrs = s.ctrs := rfl
@[simp] theorem addCopy_tab0 (s : State) (c : Copy) : (addCopy s c).tab0 = s.tab0 := rfl
@[simp] theorem addCopy_tab1 (s : State) (c : Copy) : (addCopy s c).tab1 = s.tab1 := rfl
@[simp] theorem addCopy_out (s : State) (c : Copy) : (addCopy s c).out = s.out := rfl
@[simp] theorem addCopy_clk (s : State) (c : Copy) : (addCopy s c).clk = s.clk := rfl
@[simp] theorem addCopy_ctl (s : State) (c : Copy) : (addCopy s c).ctl = s.ctl := rfl
@[simp] theorem addCopy_forme (s : State) (c : Copy) : (addCopy s c).forme = s.forme := rfl
@[simp] theorem addCopy_rcd (s : State) (c : Copy) : (addCopy s c).rcd = s.rcd := rfl
@[simp] theorem addCopy_host (s : State) (c : Copy) : (addCopy s c).host = s.host := rfl
@[simp] theorem addCopy_core (s : State) (c : Copy) : (addCopy s c).core = s.core := rfl
@[simp] theorem addCopy_learn (s : State) (c : Copy) : (addCopy s c).learn = s.learn := rfl
@[simp] theorem addCopy_ciph (s : State) (c : Copy) : (addCopy s c).ciph = s.ciph := rfl
@[simp] theorem addCopy_mp (s : State) (c : Copy) : (addCopy s c).mp = s.mp := rfl
@[simp] theorem addCopy_pool (s : State) (c : Copy) : (addCopy s c).pool = s.pool := rfl
@[simp] theorem addCopy_pwr (s : State) (c : Copy) : (addCopy s c).pwr = s.pwr := rfl

@[simp] theorem setSpilling_pending (s : State) (e src c : Nat) (v : Bool) : (setSpilling s e src c v).pending = s.pending := rfl
@[simp] theorem setSpilling_variant (s : State) (e src c : Nat) (v : Bool) : (setSpilling s e src c v).variant = s.variant := rfl
@[simp] theorem setSpilling_serial (s : State) (e src c : Nat) (v : Bool) : (setSpilling s e src c v).serial = s.serial := rfl
@[simp] theorem setSpilling_fresh (s : State) (e src c : Nat) (v : Bool) : (setSpilling s e src c v).fresh = s.fresh := rfl
@[simp] theorem setSpilling_cycle (s : State) (e src c : Nat) (v : Bool) : (setSpilling s e src c v).cycle = s.cycle := rfl
@[simp] theorem setSpilling_regs (s : State) (e src c : Nat) (v : Bool) : (setSpilling s e src c v).regs = s.regs := rfl
@[simp] theorem setSpilling_ctrs (s : State) (e src c : Nat) (v : Bool) : (setSpilling s e src c v).ctrs = s.ctrs := rfl
@[simp] theorem setSpilling_tab0 (s : State) (e src c : Nat) (v : Bool) : (setSpilling s e src c v).tab0 = s.tab0 := rfl
@[simp] theorem setSpilling_tab1 (s : State) (e src c : Nat) (v : Bool) : (setSpilling s e src c v).tab1 = s.tab1 := rfl
@[simp] theorem setSpilling_out (s : State) (e src c : Nat) (v : Bool) : (setSpilling s e src c v).out = s.out := rfl
@[simp] theorem setSpilling_clk (s : State) (e src c : Nat) (v : Bool) : (setSpilling s e src c v).clk = s.clk := rfl
@[simp] theorem setSpilling_ctl (s : State) (e src c : Nat) (v : Bool) : (setSpilling s e src c v).ctl = s.ctl := rfl
@[simp] theorem setSpilling_forme (s : State) (e src c : Nat) (v : Bool) : (setSpilling s e src c v).forme = s.forme := rfl
@[simp] theorem setSpilling_rcd (s : State) (e src c : Nat) (v : Bool) : (setSpilling s e src c v).rcd = s.rcd := rfl
@[simp] theorem setSpilling_host (s : State) (e src c : Nat) (v : Bool) : (setSpilling s e src c v).host = s.host := rfl
@[simp] theorem setSpilling_path (s : State) (e src c : Nat) (v : Bool) : (setSpilling s e src c v).path = s.path := rfl
@[simp] theorem setSpilling_learn (s : State) (e src c : Nat) (v : Bool) : (setSpilling s e src c v).learn = s.learn := rfl
@[simp] theorem setSpilling_ciph (s : State) (e src c : Nat) (v : Bool) : (setSpilling s e src c v).ciph = s.ciph := rfl
@[simp] theorem setSpilling_mp (s : State) (e src c : Nat) (v : Bool) : (setSpilling s e src c v).mp = s.mp := rfl
@[simp] theorem setSpilling_pool (s : State) (e src c : Nat) (v : Bool) : (setSpilling s e src c v).pool = s.pool := rfl
@[simp] theorem setSpilling_pwr (s : State) (e src c : Nat) (v : Bool) : (setSpilling s e src c v).pwr = s.pwr := rfl

@[simp] theorem setRefilling_pending (s : State) (e src c : Nat) (v : Bool) : (setRefilling s e src c v).pending = s.pending := rfl
@[simp] theorem setRefilling_variant (s : State) (e src c : Nat) (v : Bool) : (setRefilling s e src c v).variant = s.variant := rfl
@[simp] theorem setRefilling_serial (s : State) (e src c : Nat) (v : Bool) : (setRefilling s e src c v).serial = s.serial := rfl
@[simp] theorem setRefilling_fresh (s : State) (e src c : Nat) (v : Bool) : (setRefilling s e src c v).fresh = s.fresh := rfl
@[simp] theorem setRefilling_cycle (s : State) (e src c : Nat) (v : Bool) : (setRefilling s e src c v).cycle = s.cycle := rfl
@[simp] theorem setRefilling_regs (s : State) (e src c : Nat) (v : Bool) : (setRefilling s e src c v).regs = s.regs := rfl
@[simp] theorem setRefilling_ctrs (s : State) (e src c : Nat) (v : Bool) : (setRefilling s e src c v).ctrs = s.ctrs := rfl
@[simp] theorem setRefilling_tab0 (s : State) (e src c : Nat) (v : Bool) : (setRefilling s e src c v).tab0 = s.tab0 := rfl
@[simp] theorem setRefilling_tab1 (s : State) (e src c : Nat) (v : Bool) : (setRefilling s e src c v).tab1 = s.tab1 := rfl
@[simp] theorem setRefilling_out (s : State) (e src c : Nat) (v : Bool) : (setRefilling s e src c v).out = s.out := rfl
@[simp] theorem setRefilling_clk (s : State) (e src c : Nat) (v : Bool) : (setRefilling s e src c v).clk = s.clk := rfl
@[simp] theorem setRefilling_ctl (s : State) (e src c : Nat) (v : Bool) : (setRefilling s e src c v).ctl = s.ctl := rfl
@[simp] theorem setRefilling_forme (s : State) (e src c : Nat) (v : Bool) : (setRefilling s e src c v).forme = s.forme := rfl
@[simp] theorem setRefilling_rcd (s : State) (e src c : Nat) (v : Bool) : (setRefilling s e src c v).rcd = s.rcd := rfl
@[simp] theorem setRefilling_host (s : State) (e src c : Nat) (v : Bool) : (setRefilling s e src c v).host = s.host := rfl
@[simp] theorem setRefilling_path (s : State) (e src c : Nat) (v : Bool) : (setRefilling s e src c v).path = s.path := rfl
@[simp] theorem setRefilling_learn (s : State) (e src c : Nat) (v : Bool) : (setRefilling s e src c v).learn = s.learn := rfl
@[simp] theorem setRefilling_ciph (s : State) (e src c : Nat) (v : Bool) : (setRefilling s e src c v).ciph = s.ciph := rfl
@[simp] theorem setRefilling_mp (s : State) (e src c : Nat) (v : Bool) : (setRefilling s e src c v).mp = s.mp := rfl
@[simp] theorem setRefilling_pool (s : State) (e src c : Nat) (v : Bool) : (setRefilling s e src c v).pool = s.pool := rfl
@[simp] theorem setRefilling_pwr (s : State) (e src c : Nat) (v : Bool) : (setRefilling s e src c v).pwr = s.pwr := rfl

@[simp] theorem setHdrWait_pending (s : State) (p : Nat) (v : Bool) : (setHdrWait s p v).pending = s.pending := rfl
@[simp] theorem setHdrWait_variant (s : State) (p : Nat) (v : Bool) : (setHdrWait s p v).variant = s.variant := rfl
@[simp] theorem setHdrWait_serial (s : State) (p : Nat) (v : Bool) : (setHdrWait s p v).serial = s.serial := rfl
@[simp] theorem setHdrWait_fresh (s : State) (p : Nat) (v : Bool) : (setHdrWait s p v).fresh = s.fresh := rfl
@[simp] theorem setHdrWait_cycle (s : State) (p : Nat) (v : Bool) : (setHdrWait s p v).cycle = s.cycle := rfl
@[simp] theorem setHdrWait_regs (s : State) (p : Nat) (v : Bool) : (setHdrWait s p v).regs = s.regs := rfl
@[simp] theorem setHdrWait_ctrs (s : State) (p : Nat) (v : Bool) : (setHdrWait s p v).ctrs = s.ctrs := rfl
@[simp] theorem setHdrWait_tab0 (s : State) (p : Nat) (v : Bool) : (setHdrWait s p v).tab0 = s.tab0 := rfl
@[simp] theorem setHdrWait_tab1 (s : State) (p : Nat) (v : Bool) : (setHdrWait s p v).tab1 = s.tab1 := rfl
@[simp] theorem setHdrWait_out (s : State) (p : Nat) (v : Bool) : (setHdrWait s p v).out = s.out := rfl
@[simp] theorem setHdrWait_clk (s : State) (p : Nat) (v : Bool) : (setHdrWait s p v).clk = s.clk := rfl
@[simp] theorem setHdrWait_ctl (s : State) (p : Nat) (v : Bool) : (setHdrWait s p v).ctl = s.ctl := rfl
@[simp] theorem setHdrWait_forme (s : State) (p : Nat) (v : Bool) : (setHdrWait s p v).forme = s.forme := rfl
@[simp] theorem setHdrWait_rcd (s : State) (p : Nat) (v : Bool) : (setHdrWait s p v).rcd = s.rcd := rfl
@[simp] theorem setHdrWait_host (s : State) (p : Nat) (v : Bool) : (setHdrWait s p v).host = s.host := rfl
@[simp] theorem setHdrWait_core (s : State) (p : Nat) (v : Bool) : (setHdrWait s p v).core = s.core := rfl
@[simp] theorem setHdrWait_learn (s : State) (p : Nat) (v : Bool) : (setHdrWait s p v).learn = s.learn := rfl
@[simp] theorem setHdrWait_ciph (s : State) (p : Nat) (v : Bool) : (setHdrWait s p v).ciph = s.ciph := rfl
@[simp] theorem setHdrWait_mp (s : State) (p : Nat) (v : Bool) : (setHdrWait s p v).mp = s.mp := rfl
@[simp] theorem setHdrWait_pool (s : State) (p : Nat) (v : Bool) : (setHdrWait s p v).pool = s.pool := rfl
@[simp] theorem setHdrWait_pwr (s : State) (p : Nat) (v : Bool) : (setHdrWait s p v).pwr = s.pwr := rfl

@[simp] theorem setCtlQ_pending (s : State) (p : Nat) (l : List (Nat × Nat)) : (setCtlQ s p l).pending = s.pending := rfl
@[simp] theorem setCtlQ_variant (s : State) (p : Nat) (l : List (Nat × Nat)) : (setCtlQ s p l).variant = s.variant := rfl
@[simp] theorem setCtlQ_serial (s : State) (p : Nat) (l : List (Nat × Nat)) : (setCtlQ s p l).serial = s.serial := rfl
@[simp] theorem setCtlQ_fresh (s : State) (p : Nat) (l : List (Nat × Nat)) : (setCtlQ s p l).fresh = s.fresh := rfl
@[simp] theorem setCtlQ_cycle (s : State) (p : Nat) (l : List (Nat × Nat)) : (setCtlQ s p l).cycle = s.cycle := rfl
@[simp] theorem setCtlQ_regs (s : State) (p : Nat) (l : List (Nat × Nat)) : (setCtlQ s p l).regs = s.regs := rfl
@[simp] theorem setCtlQ_ctrs (s : State) (p : Nat) (l : List (Nat × Nat)) : (setCtlQ s p l).ctrs = s.ctrs := rfl
@[simp] theorem setCtlQ_tab0 (s : State) (p : Nat) (l : List (Nat × Nat)) : (setCtlQ s p l).tab0 = s.tab0 := rfl
@[simp] theorem setCtlQ_tab1 (s : State) (p : Nat) (l : List (Nat × Nat)) : (setCtlQ s p l).tab1 = s.tab1 := rfl
@[simp] theorem setCtlQ_out (s : State) (p : Nat) (l : List (Nat × Nat)) : (setCtlQ s p l).out = s.out := rfl
@[simp] theorem setCtlQ_clk (s : State) (p : Nat) (l : List (Nat × Nat)) : (setCtlQ s p l).clk = s.clk := rfl
@[simp] theorem setCtlQ_ctl (s : State) (p : Nat) (l : List (Nat × Nat)) : (setCtlQ s p l).ctl = s.ctl := rfl
@[simp] theorem setCtlQ_forme (s : State) (p : Nat) (l : List (Nat × Nat)) : (setCtlQ s p l).forme = s.forme := rfl
@[simp] theorem setCtlQ_rcd (s : State) (p : Nat) (l : List (Nat × Nat)) : (setCtlQ s p l).rcd = s.rcd := rfl
@[simp] theorem setCtlQ_host (s : State) (p : Nat) (l : List (Nat × Nat)) : (setCtlQ s p l).host = s.host := rfl
@[simp] theorem setCtlQ_core (s : State) (p : Nat) (l : List (Nat × Nat)) : (setCtlQ s p l).core = s.core := rfl
@[simp] theorem setCtlQ_learn (s : State) (p : Nat) (l : List (Nat × Nat)) : (setCtlQ s p l).learn = s.learn := rfl
@[simp] theorem setCtlQ_ciph (s : State) (p : Nat) (l : List (Nat × Nat)) : (setCtlQ s p l).ciph = s.ciph := rfl
@[simp] theorem setCtlQ_mp (s : State) (p : Nat) (l : List (Nat × Nat)) : (setCtlQ s p l).mp = s.mp := rfl
@[simp] theorem setCtlQ_pool (s : State) (p : Nat) (l : List (Nat × Nat)) : (setCtlQ s p l).pool = s.pool := rfl
@[simp] theorem setCtlQ_pwr (s : State) (p : Nat) (l : List (Nat × Nat)) : (setCtlQ s p l).pwr = s.pwr := rfl

@[simp] theorem fragFlush_pending (s : State) : (fragFlush s).pending = s.pending := rfl
@[simp] theorem fragFlush_variant (s : State) : (fragFlush s).variant = s.variant := rfl
@[simp] theorem fragFlush_serial (s : State) : (fragFlush s).serial = s.serial := rfl
@[simp] theorem fragFlush_fresh (s : State) : (fragFlush s).fresh = s.fresh := rfl
@[simp] theorem fragFlush_cycle (s : State) : (fragFlush s).cycle = s.cycle := rfl
@[simp] theorem fragFlush_regs (s : State) : (fragFlush s).regs = s.regs := rfl
@[simp] theorem fragFlush_ctrs (s : State) : (fragFlush s).ctrs = s.ctrs := rfl
@[simp] theorem fragFlush_tab0 (s : State) : (fragFlush s).tab0 = s.tab0 := rfl
@[simp] theorem fragFlush_tab1 (s : State) : (fragFlush s).tab1 = s.tab1 := rfl
@[simp] theorem fragFlush_out (s : State) : (fragFlush s).out = s.out := rfl
@[simp] theorem fragFlush_clk (s : State) : (fragFlush s).clk = s.clk := rfl
@[simp] theorem fragFlush_ctl (s : State) : (fragFlush s).ctl = s.ctl := rfl
@[simp] theorem fragFlush_forme (s : State) : (fragFlush s).forme = s.forme := rfl
@[simp] theorem fragFlush_rcd (s : State) : (fragFlush s).rcd = s.rcd := rfl
@[simp] theorem fragFlush_host (s : State) : (fragFlush s).host = s.host := rfl
@[simp] theorem fragFlush_core (s : State) : (fragFlush s).core = s.core := rfl
@[simp] theorem fragFlush_learn (s : State) : (fragFlush s).learn = s.learn := rfl
@[simp] theorem fragFlush_ciph (s : State) : (fragFlush s).ciph = s.ciph := rfl
@[simp] theorem fragFlush_mp (s : State) : (fragFlush s).mp = s.mp := rfl
@[simp] theorem fragFlush_pool (s : State) : (fragFlush s).pool = s.pool := rfl
@[simp] theorem fragFlush_pwr (s : State) : (fragFlush s).pwr = s.pwr := rfl

@[simp] theorem setBadCells_pending (s : State) (copy : Nat) (l : List (Nat × Nat)) : (setBadCells s copy l).pending = s.pending := rfl
@[simp] theorem setBadCells_variant (s : State) (copy : Nat) (l : List (Nat × Nat)) : (setBadCells s copy l).variant = s.variant := rfl
@[simp] theorem setBadCells_serial (s : State) (copy : Nat) (l : List (Nat × Nat)) : (setBadCells s copy l).serial = s.serial := rfl
@[simp] theorem setBadCells_fresh (s : State) (copy : Nat) (l : List (Nat × Nat)) : (setBadCells s copy l).fresh = s.fresh := rfl
@[simp] theorem setBadCells_cycle (s : State) (copy : Nat) (l : List (Nat × Nat)) : (setBadCells s copy l).cycle = s.cycle := rfl
@[simp] theorem setBadCells_regs (s : State) (copy : Nat) (l : List (Nat × Nat)) : (setBadCells s copy l).regs = s.regs := rfl
@[simp] theorem setBadCells_ctrs (s : State) (copy : Nat) (l : List (Nat × Nat)) : (setBadCells s copy l).ctrs = s.ctrs := rfl
@[simp] theorem setBadCells_tab0 (s : State) (copy : Nat) (l : List (Nat × Nat)) : (setBadCells s copy l).tab0 = s.tab0 := rfl
@[simp] theorem setBadCells_tab1 (s : State) (copy : Nat) (l : List (Nat × Nat)) : (setBadCells s copy l).tab1 = s.tab1 := rfl
@[simp] theorem setBadCells_out (s : State) (copy : Nat) (l : List (Nat × Nat)) : (setBadCells s copy l).out = s.out := rfl
@[simp] theorem setBadCells_clk (s : State) (copy : Nat) (l : List (Nat × Nat)) : (setBadCells s copy l).clk = s.clk := rfl
@[simp] theorem setBadCells_ctl (s : State) (copy : Nat) (l : List (Nat × Nat)) : (setBadCells s copy l).ctl = s.ctl := rfl
@[simp] theorem setBadCells_rcd (s : State) (copy : Nat) (l : List (Nat × Nat)) : (setBadCells s copy l).rcd = s.rcd := rfl
@[simp] theorem setBadCells_host (s : State) (copy : Nat) (l : List (Nat × Nat)) : (setBadCells s copy l).host = s.host := rfl
@[simp] theorem setBadCells_path (s : State) (copy : Nat) (l : List (Nat × Nat)) : (setBadCells s copy l).path = s.path := rfl
@[simp] theorem setBadCells_core (s : State) (copy : Nat) (l : List (Nat × Nat)) : (setBadCells s copy l).core = s.core := rfl
@[simp] theorem setBadCells_learn (s : State) (copy : Nat) (l : List (Nat × Nat)) : (setBadCells s copy l).learn = s.learn := rfl
@[simp] theorem setBadCells_ciph (s : State) (copy : Nat) (l : List (Nat × Nat)) : (setBadCells s copy l).ciph = s.ciph := rfl
@[simp] theorem setBadCells_mp (s : State) (copy : Nat) (l : List (Nat × Nat)) : (setBadCells s copy l).mp = s.mp := rfl
@[simp] theorem setBadCells_pool (s : State) (copy : Nat) (l : List (Nat × Nat)) : (setBadCells s copy l).pool = s.pool := rfl
@[simp] theorem setBadCells_pwr (s : State) (copy : Nat) (l : List (Nat × Nat)) : (setBadCells s copy l).pwr = s.pwr := rfl

@[simp] theorem setPtr_pending (s : State) (k p i v : Nat) : (setPtr s k p i v).pending = s.pending := rfl
@[simp] theorem setPtr_variant (s : State) (k p i v : Nat) : (setPtr s k p i v).variant = s.variant := rfl
@[simp] theorem setPtr_serial (s : State) (k p i v : Nat) : (setPtr s k p i v).serial = s.serial := rfl
@[simp] theorem setPtr_fresh (s : State) (k p i v : Nat) : (setPtr s k p i v).fresh = s.fresh := rfl
@[simp] theorem setPtr_cycle (s : State) (k p i v : Nat) : (setPtr s k p i v).cycle = s.cycle := rfl
@[simp] theorem setPtr_regs (s : State) (k p i v : Nat) : (setPtr s k p i v).regs = s.regs := rfl
@[simp] theorem setPtr_ctrs (s : State) (k p i v : Nat) : (setPtr s k p i v).ctrs = s.ctrs := rfl
@[simp] theorem setPtr_tab0 (s : State) (k p i v : Nat) : (setPtr s k p i v).tab0 = s.tab0 := rfl
@[simp] theorem setPtr_tab1 (s : State) (k p i v : Nat) : (setPtr s k p i v).tab1 = s.tab1 := rfl
@[simp] theorem setPtr_out (s : State) (k p i v : Nat) : (setPtr s k p i v).out = s.out := rfl
@[simp] theorem setPtr_clk (s : State) (k p i v : Nat) : (setPtr s k p i v).clk = s.clk := rfl
@[simp] theorem setPtr_ctl (s : State) (k p i v : Nat) : (setPtr s k p i v).ctl = s.ctl := rfl
@[simp] theorem setPtr_forme (s : State) (k p i v : Nat) : (setPtr s k p i v).forme = s.forme := rfl
@[simp] theorem setPtr_rcd (s : State) (k p i v : Nat) : (setPtr s k p i v).rcd = s.rcd := rfl
@[simp] theorem setPtr_host (s : State) (k p i v : Nat) : (setPtr s k p i v).host = s.host := rfl
@[simp] theorem setPtr_path (s : State) (k p i v : Nat) : (setPtr s k p i v).path = s.path := rfl
@[simp] theorem setPtr_learn (s : State) (k p i v : Nat) : (setPtr s k p i v).learn = s.learn := rfl
@[simp] theorem setPtr_ciph (s : State) (k p i v : Nat) : (setPtr s k p i v).ciph = s.ciph := rfl
@[simp] theorem setPtr_mp (s : State) (k p i v : Nat) : (setPtr s k p i v).mp = s.mp := rfl
@[simp] theorem setPtr_pool (s : State) (k p i v : Nat) : (setPtr s k p i v).pool = s.pool := rfl
@[simp] theorem setPtr_pwr (s : State) (k p i v : Nat) : (setPtr s k p i v).pwr = s.pwr := rfl

@[simp] theorem setCredit_pending (s : State) (e c : Nat) (v : Int) : (setCredit s e c v).pending = s.pending := rfl
@[simp] theorem setCredit_variant (s : State) (e c : Nat) (v : Int) : (setCredit s e c v).variant = s.variant := rfl
@[simp] theorem setCredit_serial (s : State) (e c : Nat) (v : Int) : (setCredit s e c v).serial = s.serial := rfl
@[simp] theorem setCredit_fresh (s : State) (e c : Nat) (v : Int) : (setCredit s e c v).fresh = s.fresh := rfl
@[simp] theorem setCredit_cycle (s : State) (e c : Nat) (v : Int) : (setCredit s e c v).cycle = s.cycle := rfl
@[simp] theorem setCredit_regs (s : State) (e c : Nat) (v : Int) : (setCredit s e c v).regs = s.regs := rfl
@[simp] theorem setCredit_ctrs (s : State) (e c : Nat) (v : Int) : (setCredit s e c v).ctrs = s.ctrs := rfl
@[simp] theorem setCredit_tab0 (s : State) (e c : Nat) (v : Int) : (setCredit s e c v).tab0 = s.tab0 := rfl
@[simp] theorem setCredit_tab1 (s : State) (e c : Nat) (v : Int) : (setCredit s e c v).tab1 = s.tab1 := rfl
@[simp] theorem setCredit_out (s : State) (e c : Nat) (v : Int) : (setCredit s e c v).out = s.out := rfl
@[simp] theorem setCredit_clk (s : State) (e c : Nat) (v : Int) : (setCredit s e c v).clk = s.clk := rfl
@[simp] theorem setCredit_ctl (s : State) (e c : Nat) (v : Int) : (setCredit s e c v).ctl = s.ctl := rfl
@[simp] theorem setCredit_forme (s : State) (e c : Nat) (v : Int) : (setCredit s e c v).forme = s.forme := rfl
@[simp] theorem setCredit_rcd (s : State) (e c : Nat) (v : Int) : (setCredit s e c v).rcd = s.rcd := rfl
@[simp] theorem setCredit_host (s : State) (e c : Nat) (v : Int) : (setCredit s e c v).host = s.host := rfl
@[simp] theorem setCredit_path (s : State) (e c : Nat) (v : Int) : (setCredit s e c v).path = s.path := rfl
@[simp] theorem setCredit_learn (s : State) (e c : Nat) (v : Int) : (setCredit s e c v).learn = s.learn := rfl
@[simp] theorem setCredit_ciph (s : State) (e c : Nat) (v : Int) : (setCredit s e c v).ciph = s.ciph := rfl
@[simp] theorem setCredit_mp (s : State) (e c : Nat) (v : Int) : (setCredit s e c v).mp = s.mp := rfl
@[simp] theorem setCredit_pool (s : State) (e c : Nat) (v : Int) : (setCredit s e c v).pool = s.pool := rfl
@[simp] theorem setCredit_pwr (s : State) (e c : Nat) (v : Int) : (setCredit s e c v).pwr = s.pwr := rfl

@[simp] theorem setBucket_pending (s : State) (k : Nat) (b : Option Bucket) : (setBucket s k b).pending = s.pending := rfl
@[simp] theorem setBucket_variant (s : State) (k : Nat) (b : Option Bucket) : (setBucket s k b).variant = s.variant := rfl
@[simp] theorem setBucket_serial (s : State) (k : Nat) (b : Option Bucket) : (setBucket s k b).serial = s.serial := rfl
@[simp] theorem setBucket_fresh (s : State) (k : Nat) (b : Option Bucket) : (setBucket s k b).fresh = s.fresh := rfl
@[simp] theorem setBucket_cycle (s : State) (k : Nat) (b : Option Bucket) : (setBucket s k b).cycle = s.cycle := rfl
@[simp] theorem setBucket_regs (s : State) (k : Nat) (b : Option Bucket) : (setBucket s k b).regs = s.regs := rfl
@[simp] theorem setBucket_ctrs (s : State) (k : Nat) (b : Option Bucket) : (setBucket s k b).ctrs = s.ctrs := rfl
@[simp] theorem setBucket_tab0 (s : State) (k : Nat) (b : Option Bucket) : (setBucket s k b).tab0 = s.tab0 := rfl
@[simp] theorem setBucket_tab1 (s : State) (k : Nat) (b : Option Bucket) : (setBucket s k b).tab1 = s.tab1 := rfl
@[simp] theorem setBucket_out (s : State) (k : Nat) (b : Option Bucket) : (setBucket s k b).out = s.out := rfl
@[simp] theorem setBucket_clk (s : State) (k : Nat) (b : Option Bucket) : (setBucket s k b).clk = s.clk := rfl
@[simp] theorem setBucket_ctl (s : State) (k : Nat) (b : Option Bucket) : (setBucket s k b).ctl = s.ctl := rfl
@[simp] theorem setBucket_forme (s : State) (k : Nat) (b : Option Bucket) : (setBucket s k b).forme = s.forme := rfl
@[simp] theorem setBucket_rcd (s : State) (k : Nat) (b : Option Bucket) : (setBucket s k b).rcd = s.rcd := rfl
@[simp] theorem setBucket_host (s : State) (k : Nat) (b : Option Bucket) : (setBucket s k b).host = s.host := rfl
@[simp] theorem setBucket_path (s : State) (k : Nat) (b : Option Bucket) : (setBucket s k b).path = s.path := rfl
@[simp] theorem setBucket_learn (s : State) (k : Nat) (b : Option Bucket) : (setBucket s k b).learn = s.learn := rfl
@[simp] theorem setBucket_ciph (s : State) (k : Nat) (b : Option Bucket) : (setBucket s k b).ciph = s.ciph := rfl
@[simp] theorem setBucket_mp (s : State) (k : Nat) (b : Option Bucket) : (setBucket s k b).mp = s.mp := rfl
@[simp] theorem setBucket_pool (s : State) (k : Nat) (b : Option Bucket) : (setBucket s k b).pool = s.pool := rfl
@[simp] theorem setBucket_pwr (s : State) (k : Nat) (b : Option Bucket) : (setBucket s k b).pwr = s.pwr := rfl

@[simp] theorem mpLineTake_pending (s : State) (inward : Bool) (n : Nat) : (mpLineTake s inward n).pending = s.pending := rfl
@[simp] theorem mpLineTake_variant (s : State) (inward : Bool) (n : Nat) : (mpLineTake s inward n).variant = s.variant := rfl
@[simp] theorem mpLineTake_serial (s : State) (inward : Bool) (n : Nat) : (mpLineTake s inward n).serial = s.serial := rfl
@[simp] theorem mpLineTake_fresh (s : State) (inward : Bool) (n : Nat) : (mpLineTake s inward n).fresh = s.fresh := rfl
@[simp] theorem mpLineTake_cycle (s : State) (inward : Bool) (n : Nat) : (mpLineTake s inward n).cycle = s.cycle := rfl
@[simp] theorem mpLineTake_regs (s : State) (inward : Bool) (n : Nat) : (mpLineTake s inward n).regs = s.regs := rfl
@[simp] theorem mpLineTake_ctrs (s : State) (inward : Bool) (n : Nat) : (mpLineTake s inward n).ctrs = s.ctrs := rfl
@[simp] theorem mpLineTake_tab0 (s : State) (inward : Bool) (n : Nat) : (mpLineTake s inward n).tab0 = s.tab0 := rfl
@[simp] theorem mpLineTake_tab1 (s : State) (inward : Bool) (n : Nat) : (mpLineTake s inward n).tab1 = s.tab1 := rfl
@[simp] theorem mpLineTake_out (s : State) (inward : Bool) (n : Nat) : (mpLineTake s inward n).out = s.out := rfl
@[simp] theorem mpLineTake_clk (s : State) (inward : Bool) (n : Nat) : (mpLineTake s inward n).clk = s.clk := rfl
@[simp] theorem mpLineTake_ctl (s : State) (inward : Bool) (n : Nat) : (mpLineTake s inward n).ctl = s.ctl := rfl
@[simp] theorem mpLineTake_forme (s : State) (inward : Bool) (n : Nat) : (mpLineTake s inward n).forme = s.forme := rfl
@[simp] theorem mpLineTake_rcd (s : State) (inward : Bool) (n : Nat) : (mpLineTake s inward n).rcd = s.rcd := rfl
@[simp] theorem mpLineTake_host (s : State) (inward : Bool) (n : Nat) : (mpLineTake s inward n).host = s.host := rfl
@[simp] theorem mpLineTake_path (s : State) (inward : Bool) (n : Nat) : (mpLineTake s inward n).path = s.path := rfl
@[simp] theorem mpLineTake_learn (s : State) (inward : Bool) (n : Nat) : (mpLineTake s inward n).learn = s.learn := rfl
@[simp] theorem mpLineTake_ciph (s : State) (inward : Bool) (n : Nat) : (mpLineTake s inward n).ciph = s.ciph := rfl
@[simp] theorem mpLineTake_mp (s : State) (inward : Bool) (n : Nat) : (mpLineTake s inward n).mp = s.mp := rfl
@[simp] theorem mpLineTake_pool (s : State) (inward : Bool) (n : Nat) : (mpLineTake s inward n).pool = s.pool := rfl
@[simp] theorem mpLineTake_pwr (s : State) (inward : Bool) (n : Nat) : (mpLineTake s inward n).pwr = s.pwr := rfl

@[simp] theorem vSet_pending (s : State) (k v : Nat) : (vSet s k v).pending = s.pending := rfl
@[simp] theorem vSet_variant (s : State) (k v : Nat) : (vSet s k v).variant = s.variant := rfl
@[simp] theorem vSet_serial (s : State) (k v : Nat) : (vSet s k v).serial = s.serial := rfl
@[simp] theorem vSet_fresh (s : State) (k v : Nat) : (vSet s k v).fresh = s.fresh := rfl
@[simp] theorem vSet_cycle (s : State) (k v : Nat) : (vSet s k v).cycle = s.cycle := rfl
@[simp] theorem vSet_regs (s : State) (k v : Nat) : (vSet s k v).regs = s.regs := rfl
@[simp] theorem vSet_ctrs (s : State) (k v : Nat) : (vSet s k v).ctrs = s.ctrs := rfl
@[simp] theorem vSet_tab0 (s : State) (k v : Nat) : (vSet s k v).tab0 = s.tab0 := rfl
@[simp] theorem vSet_tab1 (s : State) (k v : Nat) : (vSet s k v).tab1 = s.tab1 := rfl
@[simp] theorem vSet_out (s : State) (k v : Nat) : (vSet s k v).out = s.out := rfl
@[simp] theorem vSet_clk (s : State) (k v : Nat) : (vSet s k v).clk = s.clk := rfl
@[simp] theorem vSet_ctl (s : State) (k v : Nat) : (vSet s k v).ctl = s.ctl := rfl
@[simp] theorem vSet_forme (s : State) (k v : Nat) : (vSet s k v).forme = s.forme := rfl
@[simp] theorem vSet_rcd (s : State) (k v : Nat) : (vSet s k v).rcd = s.rcd := rfl
@[simp] theorem vSet_host (s : State) (k v : Nat) : (vSet s k v).host = s.host := rfl
@[simp] theorem vSet_path (s : State) (k v : Nat) : (vSet s k v).path = s.path := rfl
@[simp] theorem vSet_learn (s : State) (k v : Nat) : (vSet s k v).learn = s.learn := rfl
@[simp] theorem vSet_ciph (s : State) (k v : Nat) : (vSet s k v).ciph = s.ciph := rfl
@[simp] theorem vSet_mp (s : State) (k v : Nat) : (vSet s k v).mp = s.mp := rfl
@[simp] theorem vSet_pool (s : State) (k v : Nat) : (vSet s k v).pool = s.pool := rfl
@[simp] theorem vSet_pwr (s : State) (k v : Nat) : (vSet s k v).pwr = s.pwr := rfl

@[simp] theorem setCase_pending (s : State) (c : List CaseEnt) : (setCase s c).pending = s.pending := rfl
@[simp] theorem setCase_variant (s : State) (c : List CaseEnt) : (setCase s c).variant = s.variant := rfl
@[simp] theorem setCase_serial (s : State) (c : List CaseEnt) : (setCase s c).serial = s.serial := rfl
@[simp] theorem setCase_fresh (s : State) (c : List CaseEnt) : (setCase s c).fresh = s.fresh := rfl
@[simp] theorem setCase_cycle (s : State) (c : List CaseEnt) : (setCase s c).cycle = s.cycle := rfl
@[simp] theorem setCase_regs (s : State) (c : List CaseEnt) : (setCase s c).regs = s.regs := rfl
@[simp] theorem setCase_ctrs (s : State) (c : List CaseEnt) : (setCase s c).ctrs = s.ctrs := rfl
@[simp] theorem setCase_tab0 (s : State) (c : List CaseEnt) : (setCase s c).tab0 = s.tab0 := rfl
@[simp] theorem setCase_tab1 (s : State) (c : List CaseEnt) : (setCase s c).tab1 = s.tab1 := rfl
@[simp] theorem setCase_out (s : State) (c : List CaseEnt) : (setCase s c).out = s.out := rfl
@[simp] theorem setCase_clk (s : State) (c : List CaseEnt) : (setCase s c).clk = s.clk := rfl
@[simp] theorem setCase_ctl (s : State) (c : List CaseEnt) : (setCase s c).ctl = s.ctl := rfl
@[simp] theorem setCase_rcd (s : State) (c : List CaseEnt) : (setCase s c).rcd = s.rcd := rfl
@[simp] theorem setCase_host (s : State) (c : List CaseEnt) : (setCase s c).host = s.host := rfl
@[simp] theorem setCase_path (s : State) (c : List CaseEnt) : (setCase s c).path = s.path := rfl
@[simp] theorem setCase_core (s : State) (c : List CaseEnt) : (setCase s c).core = s.core := rfl
@[simp] theorem setCase_learn (s : State) (c : List CaseEnt) : (setCase s c).learn = s.learn := rfl
@[simp] theorem setCase_ciph (s : State) (c : List CaseEnt) : (setCase s c).ciph = s.ciph := rfl
@[simp] theorem setCase_mp (s : State) (c : List CaseEnt) : (setCase s c).mp = s.mp := rfl
@[simp] theorem setCase_pool (s : State) (c : List CaseEnt) : (setCase s c).pool = s.pool := rfl
@[simp] theorem setCase_pwr (s : State) (c : List CaseEnt) : (setCase s c).pwr = s.pwr := rfl

@[simp] theorem nextWrite_pending (s : State) : (nextWrite s).pending = s.pending := rfl
@[simp] theorem nextWrite_variant (s : State) : (nextWrite s).variant = s.variant := rfl
@[simp] theorem nextWrite_serial (s : State) : (nextWrite s).serial = s.serial := rfl
@[simp] theorem nextWrite_fresh (s : State) : (nextWrite s).fresh = s.fresh := rfl
@[simp] theorem nextWrite_cycle (s : State) : (nextWrite s).cycle = s.cycle := rfl
@[simp] theorem nextWrite_regs (s : State) : (nextWrite s).regs = s.regs := rfl
@[simp] theorem nextWrite_ctrs (s : State) : (nextWrite s).ctrs = s.ctrs := rfl
@[simp] theorem nextWrite_tab0 (s : State) : (nextWrite s).tab0 = s.tab0 := rfl
@[simp] theorem nextWrite_tab1 (s : State) : (nextWrite s).tab1 = s.tab1 := rfl
@[simp] theorem nextWrite_out (s : State) : (nextWrite s).out = s.out := rfl
@[simp] theorem nextWrite_clk (s : State) : (nextWrite s).clk = s.clk := rfl
@[simp] theorem nextWrite_ctl (s : State) : (nextWrite s).ctl = s.ctl := rfl
@[simp] theorem nextWrite_forme (s : State) : (nextWrite s).forme = s.forme := rfl
@[simp] theorem nextWrite_rcd (s : State) : (nextWrite s).rcd = s.rcd := rfl
@[simp] theorem nextWrite_host (s : State) : (nextWrite s).host = s.host := rfl
@[simp] theorem nextWrite_path (s : State) : (nextWrite s).path = s.path := rfl
@[simp] theorem nextWrite_core (s : State) : (nextWrite s).core = s.core := rfl
@[simp] theorem nextWrite_ciph (s : State) : (nextWrite s).ciph = s.ciph := rfl
@[simp] theorem nextWrite_mp (s : State) : (nextWrite s).mp = s.mp := rfl
@[simp] theorem nextWrite_pool (s : State) : (nextWrite s).pool = s.pool := rfl
@[simp] theorem nextWrite_pwr (s : State) : (nextWrite s).pwr = s.pwr := rfl

@[simp] theorem setTsq_pending (s : State) (p : Nat) (l : List TsEntry) : (setTsq s p l).pending = s.pending := rfl
@[simp] theorem setTsq_variant (s : State) (p : Nat) (l : List TsEntry) : (setTsq s p l).variant = s.variant := rfl
@[simp] theorem setTsq_serial (s : State) (p : Nat) (l : List TsEntry) : (setTsq s p l).serial = s.serial := rfl
@[simp] theorem setTsq_fresh (s : State) (p : Nat) (l : List TsEntry) : (setTsq s p l).fresh = s.fresh := rfl
@[simp] theorem setTsq_cycle (s : State) (p : Nat) (l : List TsEntry) : (setTsq s p l).cycle = s.cycle := rfl
@[simp] theorem setTsq_regs (s : State) (p : Nat) (l : List TsEntry) : (setTsq s p l).regs = s.regs := rfl
@[simp] theorem setTsq_ctrs (s : State) (p : Nat) (l : List TsEntry) : (setTsq s p l).ctrs = s.ctrs := rfl
@[simp] theorem setTsq_tab0 (s : State) (p : Nat) (l : List TsEntry) : (setTsq s p l).tab0 = s.tab0 := rfl
@[simp] theorem setTsq_tab1 (s : State) (p : Nat) (l : List TsEntry) : (setTsq s p l).tab1 = s.tab1 := rfl
@[simp] theorem setTsq_out (s : State) (p : Nat) (l : List TsEntry) : (setTsq s p l).out = s.out := rfl
@[simp] theorem setTsq_clk (s : State) (p : Nat) (l : List TsEntry) : (setTsq s p l).clk = s.clk := rfl
@[simp] theorem setTsq_ctl (s : State) (p : Nat) (l : List TsEntry) : (setTsq s p l).ctl = s.ctl := rfl
@[simp] theorem setTsq_forme (s : State) (p : Nat) (l : List TsEntry) : (setTsq s p l).forme = s.forme := rfl
@[simp] theorem setTsq_rcd (s : State) (p : Nat) (l : List TsEntry) : (setTsq s p l).rcd = s.rcd := rfl
@[simp] theorem setTsq_host (s : State) (p : Nat) (l : List TsEntry) : (setTsq s p l).host = s.host := rfl
@[simp] theorem setTsq_path (s : State) (p : Nat) (l : List TsEntry) : (setTsq s p l).path = s.path := rfl
@[simp] theorem setTsq_learn (s : State) (p : Nat) (l : List TsEntry) : (setTsq s p l).learn = s.learn := rfl
@[simp] theorem setTsq_ciph (s : State) (p : Nat) (l : List TsEntry) : (setTsq s p l).ciph = s.ciph := rfl
@[simp] theorem setTsq_mp (s : State) (p : Nat) (l : List TsEntry) : (setTsq s p l).mp = s.mp := rfl
@[simp] theorem setTsq_pool (s : State) (p : Nat) (l : List TsEntry) : (setTsq s p l).pool = s.pool := rfl
@[simp] theorem setTsq_pwr (s : State) (p : Nat) (l : List TsEntry) : (setTsq s p l).pwr = s.pwr := rfl

@[simp] theorem setCached_pending (s : State) (k v : Nat) : (setCached s k v).pending = s.pending := rfl
@[simp] theorem setCached_variant (s : State) (k v : Nat) : (setCached s k v).variant = s.variant := rfl
@[simp] theorem setCached_serial (s : State) (k v : Nat) : (setCached s k v).serial = s.serial := rfl
@[simp] theorem setCached_fresh (s : State) (k v : Nat) : (setCached s k v).fresh = s.fresh := rfl
@[simp] theorem setCached_cycle (s : State) (k v : Nat) : (setCached s k v).cycle = s.cycle := rfl
@[simp] theorem setCached_regs (s : State) (k v : Nat) : (setCached s k v).regs = s.regs := rfl
@[simp] theorem setCached_ctrs (s : State) (k v : Nat) : (setCached s k v).ctrs = s.ctrs := rfl
@[simp] theorem setCached_tab0 (s : State) (k v : Nat) : (setCached s k v).tab0 = s.tab0 := rfl
@[simp] theorem setCached_tab1 (s : State) (k v : Nat) : (setCached s k v).tab1 = s.tab1 := rfl
@[simp] theorem setCached_out (s : State) (k v : Nat) : (setCached s k v).out = s.out := rfl
@[simp] theorem setCached_clk (s : State) (k v : Nat) : (setCached s k v).clk = s.clk := rfl
@[simp] theorem setCached_ctl (s : State) (k v : Nat) : (setCached s k v).ctl = s.ctl := rfl
@[simp] theorem setCached_forme (s : State) (k v : Nat) : (setCached s k v).forme = s.forme := rfl
@[simp] theorem setCached_rcd (s : State) (k v : Nat) : (setCached s k v).rcd = s.rcd := rfl
@[simp] theorem setCached_host (s : State) (k v : Nat) : (setCached s k v).host = s.host := rfl
@[simp] theorem setCached_path (s : State) (k v : Nat) : (setCached s k v).path = s.path := rfl
@[simp] theorem setCached_core (s : State) (k v : Nat) : (setCached s k v).core = s.core := rfl
@[simp] theorem setCached_learn (s : State) (k v : Nat) : (setCached s k v).learn = s.learn := rfl
@[simp] theorem setCached_ciph (s : State) (k v : Nat) : (setCached s k v).ciph = s.ciph := rfl
@[simp] theorem setCached_mp (s : State) (k v : Nat) : (setCached s k v).mp = s.mp := rfl
@[simp] theorem setCached_pwr (s : State) (k v : Nat) : (setCached s k v).pwr = s.pwr := rfl

@[simp] theorem setAsa_pending (s : State) (l : List AsaEnt) : (setAsa s l).pending = s.pending := rfl
@[simp] theorem setAsa_variant (s : State) (l : List AsaEnt) : (setAsa s l).variant = s.variant := rfl
@[simp] theorem setAsa_serial (s : State) (l : List AsaEnt) : (setAsa s l).serial = s.serial := rfl
@[simp] theorem setAsa_fresh (s : State) (l : List AsaEnt) : (setAsa s l).fresh = s.fresh := rfl
@[simp] theorem setAsa_cycle (s : State) (l : List AsaEnt) : (setAsa s l).cycle = s.cycle := rfl
@[simp] theorem setAsa_regs (s : State) (l : List AsaEnt) : (setAsa s l).regs = s.regs := rfl
@[simp] theorem setAsa_ctrs (s : State) (l : List AsaEnt) : (setAsa s l).ctrs = s.ctrs := rfl
@[simp] theorem setAsa_tab0 (s : State) (l : List AsaEnt) : (setAsa s l).tab0 = s.tab0 := rfl
@[simp] theorem setAsa_tab1 (s : State) (l : List AsaEnt) : (setAsa s l).tab1 = s.tab1 := rfl
@[simp] theorem setAsa_out (s : State) (l : List AsaEnt) : (setAsa s l).out = s.out := rfl
@[simp] theorem setAsa_clk (s : State) (l : List AsaEnt) : (setAsa s l).clk = s.clk := rfl
@[simp] theorem setAsa_ctl (s : State) (l : List AsaEnt) : (setAsa s l).ctl = s.ctl := rfl
@[simp] theorem setAsa_rcd (s : State) (l : List AsaEnt) : (setAsa s l).rcd = s.rcd := rfl
@[simp] theorem setAsa_host (s : State) (l : List AsaEnt) : (setAsa s l).host = s.host := rfl
@[simp] theorem setAsa_path (s : State) (l : List AsaEnt) : (setAsa s l).path = s.path := rfl
@[simp] theorem setAsa_core (s : State) (l : List AsaEnt) : (setAsa s l).core = s.core := rfl
@[simp] theorem setAsa_learn (s : State) (l : List AsaEnt) : (setAsa s l).learn = s.learn := rfl
@[simp] theorem setAsa_ciph (s : State) (l : List AsaEnt) : (setAsa s l).ciph = s.ciph := rfl
@[simp] theorem setAsa_mp (s : State) (l : List AsaEnt) : (setAsa s l).mp = s.mp := rfl
@[simp] theorem setAsa_pool (s : State) (l : List AsaEnt) : (setAsa s l).pool = s.pool := rfl
@[simp] theorem setAsa_pwr (s : State) (l : List AsaEnt) : (setAsa s l).pwr = s.pwr := rfl

@[simp] theorem setTodo_pending (s : State) (l : List FormeWrite) : (setTodo s l).pending = s.pending := rfl
@[simp] theorem setTodo_variant (s : State) (l : List FormeWrite) : (setTodo s l).variant = s.variant := rfl
@[simp] theorem setTodo_serial (s : State) (l : List FormeWrite) : (setTodo s l).serial = s.serial := rfl
@[simp] theorem setTodo_fresh (s : State) (l : List FormeWrite) : (setTodo s l).fresh = s.fresh := rfl
@[simp] theorem setTodo_cycle (s : State) (l : List FormeWrite) : (setTodo s l).cycle = s.cycle := rfl
@[simp] theorem setTodo_regs (s : State) (l : List FormeWrite) : (setTodo s l).regs = s.regs := rfl
@[simp] theorem setTodo_ctrs (s : State) (l : List FormeWrite) : (setTodo s l).ctrs = s.ctrs := rfl
@[simp] theorem setTodo_tab0 (s : State) (l : List FormeWrite) : (setTodo s l).tab0 = s.tab0 := rfl
@[simp] theorem setTodo_tab1 (s : State) (l : List FormeWrite) : (setTodo s l).tab1 = s.tab1 := rfl
@[simp] theorem setTodo_out (s : State) (l : List FormeWrite) : (setTodo s l).out = s.out := rfl
@[simp] theorem setTodo_clk (s : State) (l : List FormeWrite) : (setTodo s l).clk = s.clk := rfl
@[simp] theorem setTodo_ctl (s : State) (l : List FormeWrite) : (setTodo s l).ctl = s.ctl := rfl
@[simp] theorem setTodo_rcd (s : State) (l : List FormeWrite) : (setTodo s l).rcd = s.rcd := rfl
@[simp] theorem setTodo_host (s : State) (l : List FormeWrite) : (setTodo s l).host = s.host := rfl
@[simp] theorem setTodo_path (s : State) (l : List FormeWrite) : (setTodo s l).path = s.path := rfl
@[simp] theorem setTodo_core (s : State) (l : List FormeWrite) : (setTodo s l).core = s.core := rfl
@[simp] theorem setTodo_learn (s : State) (l : List FormeWrite) : (setTodo s l).learn = s.learn := rfl
@[simp] theorem setTodo_ciph (s : State) (l : List FormeWrite) : (setTodo s l).ciph = s.ciph := rfl
@[simp] theorem setTodo_mp (s : State) (l : List FormeWrite) : (setTodo s l).mp = s.mp := rfl
@[simp] theorem setTodo_pool (s : State) (l : List FormeWrite) : (setTodo s l).pool = s.pool := rfl
@[simp] theorem setTodo_pwr (s : State) (l : List FormeWrite) : (setTodo s l).pwr = s.pwr := rfl

@[simp] theorem setTxNext_pending (s : State) (r v : Nat) : (setTxNext s r v).pending = s.pending := rfl
@[simp] theorem setTxNext_variant (s : State) (r v : Nat) : (setTxNext s r v).variant = s.variant := rfl
@[simp] theorem setTxNext_serial (s : State) (r v : Nat) : (setTxNext s r v).serial = s.serial := rfl
@[simp] theorem setTxNext_fresh (s : State) (r v : Nat) : (setTxNext s r v).fresh = s.fresh := rfl
@[simp] theorem setTxNext_cycle (s : State) (r v : Nat) : (setTxNext s r v).cycle = s.cycle := rfl
@[simp] theorem setTxNext_regs (s : State) (r v : Nat) : (setTxNext s r v).regs = s.regs := rfl
@[simp] theorem setTxNext_ctrs (s : State) (r v : Nat) : (setTxNext s r v).ctrs = s.ctrs := rfl
@[simp] theorem setTxNext_tab0 (s : State) (r v : Nat) : (setTxNext s r v).tab0 = s.tab0 := rfl
@[simp] theorem setTxNext_tab1 (s : State) (r v : Nat) : (setTxNext s r v).tab1 = s.tab1 := rfl
@[simp] theorem setTxNext_out (s : State) (r v : Nat) : (setTxNext s r v).out = s.out := rfl
@[simp] theorem setTxNext_clk (s : State) (r v : Nat) : (setTxNext s r v).clk = s.clk := rfl
@[simp] theorem setTxNext_ctl (s : State) (r v : Nat) : (setTxNext s r v).ctl = s.ctl := rfl
@[simp] theorem setTxNext_forme (s : State) (r v : Nat) : (setTxNext s r v).forme = s.forme := rfl
@[simp] theorem setTxNext_rcd (s : State) (r v : Nat) : (setTxNext s r v).rcd = s.rcd := rfl
@[simp] theorem setTxNext_host (s : State) (r v : Nat) : (setTxNext s r v).host = s.host := rfl
@[simp] theorem setTxNext_path (s : State) (r v : Nat) : (setTxNext s r v).path = s.path := rfl
@[simp] theorem setTxNext_core (s : State) (r v : Nat) : (setTxNext s r v).core = s.core := rfl
@[simp] theorem setTxNext_learn (s : State) (r v : Nat) : (setTxNext s r v).learn = s.learn := rfl
@[simp] theorem setTxNext_ciph (s : State) (r v : Nat) : (setTxNext s r v).ciph = s.ciph := rfl
@[simp] theorem setTxNext_mp (s : State) (r v : Nat) : (setTxNext s r v).mp = s.mp := rfl
@[simp] theorem setTxNext_pwr (s : State) (r v : Nat) : (setTxNext s r v).pwr = s.pwr := rfl

@[simp] theorem clearCounters_pending (s : State) : (clearCounters s).pending = s.pending := rfl
@[simp] theorem clearCounters_variant (s : State) : (clearCounters s).variant = s.variant := rfl
@[simp] theorem clearCounters_serial (s : State) : (clearCounters s).serial = s.serial := rfl
@[simp] theorem clearCounters_fresh (s : State) : (clearCounters s).fresh = s.fresh := rfl
@[simp] theorem clearCounters_cycle (s : State) : (clearCounters s).cycle = s.cycle := rfl
@[simp] theorem clearCounters_tab0 (s : State) : (clearCounters s).tab0 = s.tab0 := rfl
@[simp] theorem clearCounters_tab1 (s : State) : (clearCounters s).tab1 = s.tab1 := rfl
@[simp] theorem clearCounters_out (s : State) : (clearCounters s).out = s.out := rfl
@[simp] theorem clearCounters_clk (s : State) : (clearCounters s).clk = s.clk := rfl
@[simp] theorem clearCounters_ctl (s : State) : (clearCounters s).ctl = s.ctl := rfl
@[simp] theorem clearCounters_forme (s : State) : (clearCounters s).forme = s.forme := rfl
@[simp] theorem clearCounters_rcd (s : State) : (clearCounters s).rcd = s.rcd := rfl
@[simp] theorem clearCounters_host (s : State) : (clearCounters s).host = s.host := rfl
@[simp] theorem clearCounters_path (s : State) : (clearCounters s).path = s.path := rfl
@[simp] theorem clearCounters_core (s : State) : (clearCounters s).core = s.core := rfl
@[simp] theorem clearCounters_learn (s : State) : (clearCounters s).learn = s.learn := rfl
@[simp] theorem clearCounters_ciph (s : State) : (clearCounters s).ciph = s.ciph := rfl
@[simp] theorem clearCounters_mp (s : State) : (clearCounters s).mp = s.mp := rfl
@[simp] theorem clearCounters_pool (s : State) : (clearCounters s).pool = s.pool := rfl
@[simp] theorem clearCounters_pwr (s : State) : (clearCounters s).pwr = s.pwr := rfl

@[simp] theorem setMbxRole_pending (s : State) (c role ident : Nat) : (setMbxRole s c role ident).pending = s.pending := rfl
@[simp] theorem setMbxRole_variant (s : State) (c role ident : Nat) : (setMbxRole s c role ident).variant = s.variant := rfl
@[simp] theorem setMbxRole_serial (s : State) (c role ident : Nat) : (setMbxRole s c role ident).serial = s.serial := rfl
@[simp] theorem setMbxRole_fresh (s : State) (c role ident : Nat) : (setMbxRole s c role ident).fresh = s.fresh := rfl
@[simp] theorem setMbxRole_cycle (s : State) (c role ident : Nat) : (setMbxRole s c role ident).cycle = s.cycle := rfl
@[simp] theorem setMbxRole_regs (s : State) (c role ident : Nat) : (setMbxRole s c role ident).regs = s.regs := rfl
@[simp] theorem setMbxRole_ctrs (s : State) (c role ident : Nat) : (setMbxRole s c role ident).ctrs = s.ctrs := rfl
@[simp] theorem setMbxRole_tab0 (s : State) (c role ident : Nat) : (setMbxRole s c role ident).tab0 = s.tab0 := rfl
@[simp] theorem setMbxRole_tab1 (s : State) (c role ident : Nat) : (setMbxRole s c role ident).tab1 = s.tab1 := rfl
@[simp] theorem setMbxRole_out (s : State) (c role ident : Nat) : (setMbxRole s c role ident).out = s.out := rfl
@[simp] theorem setMbxRole_clk (s : State) (c role ident : Nat) : (setMbxRole s c role ident).clk = s.clk := rfl
@[simp] theorem setMbxRole_ctl (s : State) (c role ident : Nat) : (setMbxRole s c role ident).ctl = s.ctl := rfl
@[simp] theorem setMbxRole_forme (s : State) (c role ident : Nat) : (setMbxRole s c role ident).forme = s.forme := rfl
@[simp] theorem setMbxRole_rcd (s : State) (c role ident : Nat) : (setMbxRole s c role ident).rcd = s.rcd := rfl
@[simp] theorem setMbxRole_host (s : State) (c role ident : Nat) : (setMbxRole s c role ident).host = s.host := rfl
@[simp] theorem setMbxRole_path (s : State) (c role ident : Nat) : (setMbxRole s c role ident).path = s.path := rfl
@[simp] theorem setMbxRole_core (s : State) (c role ident : Nat) : (setMbxRole s c role ident).core = s.core := rfl
@[simp] theorem setMbxRole_learn (s : State) (c role ident : Nat) : (setMbxRole s c role ident).learn = s.learn := rfl
@[simp] theorem setMbxRole_mp (s : State) (c role ident : Nat) : (setMbxRole s c role ident).mp = s.mp := rfl
@[simp] theorem setMbxRole_pool (s : State) (c role ident : Nat) : (setMbxRole s c role ident).pool = s.pool := rfl
@[simp] theorem setMbxRole_pwr (s : State) (c role ident : Nat) : (setMbxRole s c role ident).pwr = s.pwr := rfl

@[simp] theorem drbgSeed_pending (s : State) : (drbgSeed s).pending = s.pending := rfl
@[simp] theorem drbgSeed_variant (s : State) : (drbgSeed s).variant = s.variant := rfl
@[simp] theorem drbgSeed_serial (s : State) : (drbgSeed s).serial = s.serial := rfl
@[simp] theorem drbgSeed_cycle (s : State) : (drbgSeed s).cycle = s.cycle := rfl
@[simp] theorem drbgSeed_regs (s : State) : (drbgSeed s).regs = s.regs := rfl
@[simp] theorem drbgSeed_ctrs (s : State) : (drbgSeed s).ctrs = s.ctrs := rfl
@[simp] theorem drbgSeed_tab0 (s : State) : (drbgSeed s).tab0 = s.tab0 := rfl
@[simp] theorem drbgSeed_tab1 (s : State) : (drbgSeed s).tab1 = s.tab1 := rfl
@[simp] theorem drbgSeed_out (s : State) : (drbgSeed s).out = s.out := rfl
@[simp] theorem drbgSeed_clk (s : State) : (drbgSeed s).clk = s.clk := rfl
@[simp] theorem drbgSeed_ctl (s : State) : (drbgSeed s).ctl = s.ctl := rfl
@[simp] theorem drbgSeed_forme (s : State) : (drbgSeed s).forme = s.forme := rfl
@[simp] theorem drbgSeed_rcd (s : State) : (drbgSeed s).rcd = s.rcd := rfl
@[simp] theorem drbgSeed_host (s : State) : (drbgSeed s).host = s.host := rfl
@[simp] theorem drbgSeed_path (s : State) : (drbgSeed s).path = s.path := rfl
@[simp] theorem drbgSeed_core (s : State) : (drbgSeed s).core = s.core := rfl
@[simp] theorem drbgSeed_learn (s : State) : (drbgSeed s).learn = s.learn := rfl
@[simp] theorem drbgSeed_mp (s : State) : (drbgSeed s).mp = s.mp := rfl
@[simp] theorem drbgSeed_pool (s : State) : (drbgSeed s).pool = s.pool := rfl
@[simp] theorem drbgSeed_pwr (s : State) : (drbgSeed s).pwr = s.pwr := rfl

@[simp] theorem addOperator_pending (s : State) (o : Operator) : (addOperator s o).pending = s.pending := rfl
@[simp] theorem addOperator_variant (s : State) (o : Operator) : (addOperator s o).variant = s.variant := rfl
@[simp] theorem addOperator_serial (s : State) (o : Operator) : (addOperator s o).serial = s.serial := rfl
@[simp] theorem addOperator_fresh (s : State) (o : Operator) : (addOperator s o).fresh = s.fresh := rfl
@[simp] theorem addOperator_cycle (s : State) (o : Operator) : (addOperator s o).cycle = s.cycle := rfl
@[simp] theorem addOperator_regs (s : State) (o : Operator) : (addOperator s o).regs = s.regs := rfl
@[simp] theorem addOperator_ctrs (s : State) (o : Operator) : (addOperator s o).ctrs = s.ctrs := rfl
@[simp] theorem addOperator_tab0 (s : State) (o : Operator) : (addOperator s o).tab0 = s.tab0 := rfl
@[simp] theorem addOperator_tab1 (s : State) (o : Operator) : (addOperator s o).tab1 = s.tab1 := rfl
@[simp] theorem addOperator_out (s : State) (o : Operator) : (addOperator s o).out = s.out := rfl
@[simp] theorem addOperator_clk (s : State) (o : Operator) : (addOperator s o).clk = s.clk := rfl
@[simp] theorem addOperator_ctl (s : State) (o : Operator) : (addOperator s o).ctl = s.ctl := rfl
@[simp] theorem addOperator_forme (s : State) (o : Operator) : (addOperator s o).forme = s.forme := rfl
@[simp] theorem addOperator_rcd (s : State) (o : Operator) : (addOperator s o).rcd = s.rcd := rfl
@[simp] theorem addOperator_host (s : State) (o : Operator) : (addOperator s o).host = s.host := rfl
@[simp] theorem addOperator_path (s : State) (o : Operator) : (addOperator s o).path = s.path := rfl
@[simp] theorem addOperator_core (s : State) (o : Operator) : (addOperator s o).core = s.core := rfl
@[simp] theorem addOperator_learn (s : State) (o : Operator) : (addOperator s o).learn = s.learn := rfl
@[simp] theorem addOperator_mp (s : State) (o : Operator) : (addOperator s o).mp = s.mp := rfl
@[simp] theorem addOperator_pool (s : State) (o : Operator) : (addOperator s o).pool = s.pool := rfl
@[simp] theorem addOperator_pwr (s : State) (o : Operator) : (addOperator s o).pwr = s.pwr := rfl

@[simp] theorem setLatch_pending (s : State) (link : Bool) (fn o hi : Nat) : (setLatch s link fn o hi).pending = s.pending := rfl
@[simp] theorem setLatch_variant (s : State) (link : Bool) (fn o hi : Nat) : (setLatch s link fn o hi).variant = s.variant := rfl
@[simp] theorem setLatch_serial (s : State) (link : Bool) (fn o hi : Nat) : (setLatch s link fn o hi).serial = s.serial := rfl
@[simp] theorem setLatch_fresh (s : State) (link : Bool) (fn o hi : Nat) : (setLatch s link fn o hi).fresh = s.fresh := rfl
@[simp] theorem setLatch_cycle (s : State) (link : Bool) (fn o hi : Nat) : (setLatch s link fn o hi).cycle = s.cycle := rfl
@[simp] theorem setLatch_regs (s : State) (link : Bool) (fn o hi : Nat) : (setLatch s link fn o hi).regs = s.regs := rfl
@[simp] theorem setLatch_ctrs (s : State) (link : Bool) (fn o hi : Nat) : (setLatch s link fn o hi).ctrs = s.ctrs := rfl
@[simp] theorem setLatch_tab0 (s : State) (link : Bool) (fn o hi : Nat) : (setLatch s link fn o hi).tab0 = s.tab0 := rfl
@[simp] theorem setLatch_tab1 (s : State) (link : Bool) (fn o hi : Nat) : (setLatch s link fn o hi).tab1 = s.tab1 := rfl
@[simp] theorem setLatch_out (s : State) (link : Bool) (fn o hi : Nat) : (setLatch s link fn o hi).out = s.out := rfl
@[simp] theorem setLatch_clk (s : State) (link : Bool) (fn o hi : Nat) : (setLatch s link fn o hi).clk = s.clk := rfl
@[simp] theorem setLatch_ctl (s : State) (link : Bool) (fn o hi : Nat) : (setLatch s link fn o hi).ctl = s.ctl := rfl
@[simp] theorem setLatch_forme (s : State) (link : Bool) (fn o hi : Nat) : (setLatch s link fn o hi).forme = s.forme := rfl
@[simp] theorem setLatch_rcd (s : State) (link : Bool) (fn o hi : Nat) : (setLatch s link fn o hi).rcd = s.rcd := rfl
@[simp] theorem setLatch_path (s : State) (link : Bool) (fn o hi : Nat) : (setLatch s link fn o hi).path = s.path := rfl
@[simp] theorem setLatch_core (s : State) (link : Bool) (fn o hi : Nat) : (setLatch s link fn o hi).core = s.core := rfl
@[simp] theorem setLatch_learn (s : State) (link : Bool) (fn o hi : Nat) : (setLatch s link fn o hi).learn = s.learn := rfl
@[simp] theorem setLatch_ciph (s : State) (link : Bool) (fn o hi : Nat) : (setLatch s link fn o hi).ciph = s.ciph := rfl
@[simp] theorem setLatch_mp (s : State) (link : Bool) (fn o hi : Nat) : (setLatch s link fn o hi).mp = s.mp := rfl
@[simp] theorem setLatch_pool (s : State) (link : Bool) (fn o hi : Nat) : (setLatch s link fn o hi).pool = s.pool := rfl
@[simp] theorem setLatch_pwr (s : State) (link : Bool) (fn o hi : Nat) : (setLatch s link fn o hi).pwr = s.pwr := rfl

@[simp] theorem dropLatch_pending (s : State) (link : Bool) (fn : Nat) : (dropLatch s link fn).pending = s.pending := rfl
@[simp] theorem dropLatch_variant (s : State) (link : Bool) (fn : Nat) : (dropLatch s link fn).variant = s.variant := rfl
@[simp] theorem dropLatch_serial (s : State) (link : Bool) (fn : Nat) : (dropLatch s link fn).serial = s.serial := rfl
@[simp] theorem dropLatch_fresh (s : State) (link : Bool) (fn : Nat) : (dropLatch s link fn).fresh = s.fresh := rfl
@[simp] theorem dropLatch_cycle (s : State) (link : Bool) (fn : Nat) : (dropLatch s link fn).cycle = s.cycle := rfl
@[simp] theorem dropLatch_regs (s : State) (link : Bool) (fn : Nat) : (dropLatch s link fn).regs = s.regs := rfl
@[simp] theorem dropLatch_ctrs (s : State) (link : Bool) (fn : Nat) : (dropLatch s link fn).ctrs = s.ctrs := rfl
@[simp] theorem dropLatch_tab0 (s : State) (link : Bool) (fn : Nat) : (dropLatch s link fn).tab0 = s.tab0 := rfl
@[simp] theorem dropLatch_tab1 (s : State) (link : Bool) (fn : Nat) : (dropLatch s link fn).tab1 = s.tab1 := rfl
@[simp] theorem dropLatch_out (s : State) (link : Bool) (fn : Nat) : (dropLatch s link fn).out = s.out := rfl
@[simp] theorem dropLatch_clk (s : State) (link : Bool) (fn : Nat) : (dropLatch s link fn).clk = s.clk := rfl
@[simp] theorem dropLatch_ctl (s : State) (link : Bool) (fn : Nat) : (dropLatch s link fn).ctl = s.ctl := rfl
@[simp] theorem dropLatch_forme (s : State) (link : Bool) (fn : Nat) : (dropLatch s link fn).forme = s.forme := rfl
@[simp] theorem dropLatch_rcd (s : State) (link : Bool) (fn : Nat) : (dropLatch s link fn).rcd = s.rcd := rfl
@[simp] theorem dropLatch_path (s : State) (link : Bool) (fn : Nat) : (dropLatch s link fn).path = s.path := rfl
@[simp] theorem dropLatch_core (s : State) (link : Bool) (fn : Nat) : (dropLatch s link fn).core = s.core := rfl
@[simp] theorem dropLatch_learn (s : State) (link : Bool) (fn : Nat) : (dropLatch s link fn).learn = s.learn := rfl
@[simp] theorem dropLatch_ciph (s : State) (link : Bool) (fn : Nat) : (dropLatch s link fn).ciph = s.ciph := rfl
@[simp] theorem dropLatch_mp (s : State) (link : Bool) (fn : Nat) : (dropLatch s link fn).mp = s.mp := rfl
@[simp] theorem dropLatch_pool (s : State) (link : Bool) (fn : Nat) : (dropLatch s link fn).pool = s.pool := rfl
@[simp] theorem dropLatch_pwr (s : State) (link : Bool) (fn : Nat) : (dropLatch s link fn).pwr = s.pwr := rfl

@[simp] theorem draw_pending (s : State) : (draw s).1.pending = s.pending := rfl
@[simp] theorem draw_variant (s : State) : (draw s).1.variant = s.variant := rfl
@[simp] theorem draw_serial (s : State) : (draw s).1.serial = s.serial := rfl
@[simp] theorem draw_cycle (s : State) : (draw s).1.cycle = s.cycle := rfl
@[simp] theorem draw_regs (s : State) : (draw s).1.regs = s.regs := rfl
@[simp] theorem draw_ctrs (s : State) : (draw s).1.ctrs = s.ctrs := rfl
@[simp] theorem draw_tab0 (s : State) : (draw s).1.tab0 = s.tab0 := rfl
@[simp] theorem draw_tab1 (s : State) : (draw s).1.tab1 = s.tab1 := rfl
@[simp] theorem draw_out (s : State) : (draw s).1.out = s.out := rfl
@[simp] theorem draw_clk (s : State) : (draw s).1.clk = s.clk := rfl
@[simp] theorem draw_ctl (s : State) : (draw s).1.ctl = s.ctl := rfl
@[simp] theorem draw_forme (s : State) : (draw s).1.forme = s.forme := rfl
@[simp] theorem draw_rcd (s : State) : (draw s).1.rcd = s.rcd := rfl
@[simp] theorem draw_host (s : State) : (draw s).1.host = s.host := rfl
@[simp] theorem draw_path (s : State) : (draw s).1.path = s.path := rfl
@[simp] theorem draw_core (s : State) : (draw s).1.core = s.core := rfl
@[simp] theorem draw_learn (s : State) : (draw s).1.learn = s.learn := rfl
@[simp] theorem draw_ciph (s : State) : (draw s).1.ciph = s.ciph := rfl
@[simp] theorem draw_mp (s : State) : (draw s).1.mp = s.mp := rfl
@[simp] theorem draw_pool (s : State) : (draw s).1.pool = s.pool := rfl
@[simp] theorem draw_pwr (s : State) : (draw s).1.pwr = s.pwr := rfl

@[simp] theorem setRow_pending (s : State) (p : Bool) (k r i : Nat) : (setRow s p k r i).pending = s.pending := by cases p <;> rfl
@[simp] theorem setRow_variant (s : State) (p : Bool) (k r i : Nat) : (setRow s p k r i).variant = s.variant := by cases p <;> rfl
@[simp] theorem setRow_serial (s : State) (p : Bool) (k r i : Nat) : (setRow s p k r i).serial = s.serial := by cases p <;> rfl
@[simp] theorem setRow_fresh (s : State) (p : Bool) (k r i : Nat) : (setRow s p k r i).fresh = s.fresh := by cases p <;> rfl
@[simp] theorem setRow_cycle (s : State) (p : Bool) (k r i : Nat) : (setRow s p k r i).cycle = s.cycle := by cases p <;> rfl
@[simp] theorem setRow_regs (s : State) (p : Bool) (k r i : Nat) : (setRow s p k r i).regs = s.regs := by cases p <;> rfl
@[simp] theorem setRow_ctrs (s : State) (p : Bool) (k r i : Nat) : (setRow s p k r i).ctrs = s.ctrs := by cases p <;> rfl
@[simp] theorem setRow_out (s : State) (p : Bool) (k r i : Nat) : (setRow s p k r i).out = s.out := by cases p <;> rfl
@[simp] theorem setRow_clk (s : State) (p : Bool) (k r i : Nat) : (setRow s p k r i).clk = s.clk := by cases p <;> rfl
@[simp] theorem setRow_ctl (s : State) (p : Bool) (k r i : Nat) : (setRow s p k r i).ctl = s.ctl := by cases p <;> rfl
@[simp] theorem setRow_forme (s : State) (p : Bool) (k r i : Nat) : (setRow s p k r i).forme = s.forme := by cases p <;> rfl
@[simp] theorem setRow_rcd (s : State) (p : Bool) (k r i : Nat) : (setRow s p k r i).rcd = s.rcd := by cases p <;> rfl
@[simp] theorem setRow_host (s : State) (p : Bool) (k r i : Nat) : (setRow s p k r i).host = s.host := by cases p <;> rfl
@[simp] theorem setRow_path (s : State) (p : Bool) (k r i : Nat) : (setRow s p k r i).path = s.path := by cases p <;> rfl
@[simp] theorem setRow_core (s : State) (p : Bool) (k r i : Nat) : (setRow s p k r i).core = s.core := by cases p <;> rfl
@[simp] theorem setRow_learn (s : State) (p : Bool) (k r i : Nat) : (setRow s p k r i).learn = s.learn := by cases p <;> rfl
@[simp] theorem setRow_ciph (s : State) (p : Bool) (k r i : Nat) : (setRow s p k r i).ciph = s.ciph := by cases p <;> rfl
@[simp] theorem setRow_mp (s : State) (p : Bool) (k r i : Nat) : (setRow s p k r i).mp = s.mp := by cases p <;> rfl
@[simp] theorem setRow_pool (s : State) (p : Bool) (k r i : Nat) : (setRow s p k r i).pool = s.pool := by cases p <;> rfl
@[simp] theorem setRow_pwr (s : State) (p : Bool) (k r i : Nat) : (setRow s p k r i).pwr = s.pwr := by cases p <;> rfl

@[simp] theorem setDom_pending (s : State) (d : Nat) (x : Dom) : (setDom s d x).pending = s.pending := by
  unfold setDom; split <;> rfl
@[simp] theorem setDom_variant (s : State) (d : Nat) (x : Dom) : (setDom s d x).variant = s.variant := by
  unfold setDom; split <;> rfl
@[simp] theorem setDom_serial (s : State) (d : Nat) (x : Dom) : (setDom s d x).serial = s.serial := by
  unfold setDom; split <;> rfl
@[simp] theorem setDom_fresh (s : State) (d : Nat) (x : Dom) : (setDom s d x).fresh = s.fresh := by
  unfold setDom; split <;> rfl
@[simp] theorem setDom_cycle (s : State) (d : Nat) (x : Dom) : (setDom s d x).cycle = s.cycle := by
  unfold setDom; split <;> rfl
@[simp] theorem setDom_regs (s : State) (d : Nat) (x : Dom) : (setDom s d x).regs = s.regs := by
  unfold setDom; split <;> rfl
@[simp] theorem setDom_ctrs (s : State) (d : Nat) (x : Dom) : (setDom s d x).ctrs = s.ctrs := by
  unfold setDom; split <;> rfl
@[simp] theorem setDom_tab0 (s : State) (d : Nat) (x : Dom) : (setDom s d x).tab0 = s.tab0 := by
  unfold setDom; split <;> rfl
@[simp] theorem setDom_tab1 (s : State) (d : Nat) (x : Dom) : (setDom s d x).tab1 = s.tab1 := by
  unfold setDom; split <;> rfl
@[simp] theorem setDom_out (s : State) (d : Nat) (x : Dom) : (setDom s d x).out = s.out := by
  unfold setDom; split <;> rfl
@[simp] theorem setDom_ctl (s : State) (d : Nat) (x : Dom) : (setDom s d x).ctl = s.ctl := by
  unfold setDom; split <;> rfl
@[simp] theorem setDom_forme (s : State) (d : Nat) (x : Dom) : (setDom s d x).forme = s.forme := by
  unfold setDom; split <;> rfl
@[simp] theorem setDom_rcd (s : State) (d : Nat) (x : Dom) : (setDom s d x).rcd = s.rcd := by
  unfold setDom; split <;> rfl
@[simp] theorem setDom_host (s : State) (d : Nat) (x : Dom) : (setDom s d x).host = s.host := by
  unfold setDom; split <;> rfl
@[simp] theorem setDom_path (s : State) (d : Nat) (x : Dom) : (setDom s d x).path = s.path := by
  unfold setDom; split <;> rfl
@[simp] theorem setDom_core (s : State) (d : Nat) (x : Dom) : (setDom s d x).core = s.core := by
  unfold setDom; split <;> rfl
@[simp] theorem setDom_learn (s : State) (d : Nat) (x : Dom) : (setDom s d x).learn = s.learn := by
  unfold setDom; split <;> rfl
@[simp] theorem setDom_ciph (s : State) (d : Nat) (x : Dom) : (setDom s d x).ciph = s.ciph := by
  unfold setDom; split <;> rfl
@[simp] theorem setDom_mp (s : State) (d : Nat) (x : Dom) : (setDom s d x).mp = s.mp := by
  unfold setDom; split <;> rfl
@[simp] theorem setDom_pool (s : State) (d : Nat) (x : Dom) : (setDom s d x).pool = s.pool := by
  unfold setDom; split <;> rfl
@[simp] theorem setDom_pwr (s : State) (d : Nat) (x : Dom) : (setDom s d x).pwr = s.pwr := by
  unfold setDom; split <;> rfl

/-- What a write sets. -/
@[simp] theorem wr_regs (s : State) (o : Nat) (v : Word) : (wr s o v).regs = smSet resetValue s.regs o v := rfl
@[simp] theorem emit_out (s : State) (o : Output) : (emit s o).out = o :: s.out := rfl
@[simp] theorem setCtr_ctrs (s : State) (k v : Nat) : (setCtr s k v).ctrs = smSet (fun _ => 0) s.ctrs k v := rfl
@[simp] theorem draw_fresh (s : State) : (draw s).1.fresh = s.fresh + 1 := rfl
@[simp] theorem draw_value (s : State) : (draw s).2 = Config.freeValue s.fresh := rfl

end Sys2Proof.Machine
end

