-- ==== Sys2Proof/Laws/Ops.lean ====
section
/-! SUPPORT. What the shared operations over registers, tables and interrupts do, said once: reads after writes, fields of a
register, and the interrupt edge of a command. -/

namespace Sys2Proof.Machine

-- Registers

theorem rd_wr_same {s : State} (h : Canon s) (o : Nat) (v : Word) : rd (wr s o v) o = v := smGet_smSet_same _ h.1.1 _ _

theorem rd_wr_other (s : State) {o q : Nat} (v : Word) (h : q ≠ o) : rd (wr s o v) q = rd s q := smGet_smSet_other _ _ _ h

theorem rd_wr {s : State} (h : Canon s) (o q : Nat) (v : Word) : rd (wr s o v) q = if q = o then v else rd s q := by
  split
  · next e => rw [e, rd_wr_same h]
  · next e => exact rd_wr_other s v e

theorem canon_wr {s : State} (h : Canon s) (o : Nat) (v : Word) : Canon (wr s o v) := ⟨SMap.wf_smSet h.1 _ _, h.2⟩
theorem canon_wrF {s : State} (h : Canon s) (o hi lo v : Nat) : Canon (wrF s o hi lo v) := canon_wr h _ _
theorem canon_wrB {s : State} (h : Canon s) (o i : Nat) (v : Bool) : Canon (wrB s o i v) := canon_wr h _ _

-- Fields of a register

theorem testBit_field (w : Word) (hi lo i : Nat) :
    (field w hi lo).testBit i = (decide (i < hi + 1 - lo) && w.getLsbD (lo + i)) := by
  simp only [field, Nat.testBit_mod_two_pow, Nat.testBit_shiftRight, BitVec.testBit_toNat]

theorem getLsbD_fieldMask (hi lo j : Nat) (h : hi < 64) :
    (fieldMask hi lo).getLsbD j = (decide (lo ≤ j) && decide (j ≤ hi)) := by
  simp only [fieldMask, BitVec.getLsbD_ofNat, Nat.testBit_shiftLeft, Nat.testBit_two_pow_sub_one]
  by_cases a : lo ≤ j <;> by_cases b : j ≤ hi <;> simp [a, b] <;> omega

theorem getLsbD_setField (w : Word) (hi lo v j : Nat) (hl : lo ≤ hi) (h : hi < 64) :
    (setField w hi lo v).getLsbD j = if lo ≤ j ∧ j ≤ hi then v.testBit (j - lo) else w.getLsbD j := by
  simp only [setField, BitVec.getLsbD_or, BitVec.getLsbD_and, BitVec.getLsbD_not, getLsbD_fieldMask _ _ _ h,
    BitVec.getLsbD_ofNat, Nat.testBit_shiftLeft, Nat.testBit_mod_two_pow]
  by_cases a : lo ≤ j <;> by_cases b : j ≤ hi
  · have e1 : j < 64 := by omega
    have e2 : j - lo < hi + 1 - lo := by omega
    simp [a, b, e1, e2]
  · have e2 : ¬ j - lo < hi + 1 - lo := by omega
    by_cases e1 : j < 64
    · simp [a, b, e1, e2]
    · have := BitVec.getLsbD_of_ge w j (by omega)
      simp [a, b, e1, e2, this]
  · have e1 : j < 64 := by omega
    simp [a, b, e1]
  · by_cases e1 : j < 64
    · simp [a, b, e1]
    · have := BitVec.getLsbD_of_ge w j (by omega)
      simp [a, b, e1, this]

theorem field_setField_same (w : Word) {hi lo : Nat} (v : Nat) (hl : lo ≤ hi) (h : hi < 64) :
    field (setField w hi lo v) hi lo = v % 2 ^ (hi + 1 - lo) := by
  apply Nat.eq_of_testBit_eq
  intro i
  rw [testBit_field, getLsbD_setField _ _ _ _ _ hl h, Nat.testBit_mod_two_pow]
  by_cases a : i < hi + 1 - lo
  · have e : lo ≤ lo + i ∧ lo + i ≤ hi := by omega
    simp [a, e]
  · simp [a]

theorem field_setField_apart (w : Word) {hi lo h2 l2 : Nat} (v : Nat) (hl : lo ≤ hi) (h : hi < 64) (a : h2 < lo ∨ hi < l2) :
    field (setField w hi lo v) h2 l2 = field w h2 l2 := by
  apply Nat.eq_of_testBit_eq
  intro i
  rw [testBit_field, testBit_field, getLsbD_setField _ _ _ _ _ hl h]
  by_cases b : i < h2 + 1 - l2
  · have e : ¬ (lo ≤ l2 + i ∧ l2 + i ≤ hi) := by omega
    simp [b, e]
  · simp [b]

theorem rdF_wrF_same {s : State} (c : Canon s) (o : Nat) {hi lo : Nat} (v : Nat) (hl : lo ≤ hi) (h : hi < 64) :
    rdF (wrF s o hi lo v) o hi lo = v % 2 ^ (hi + 1 - lo) := by
  unfold rdF wrF
  rw [rd_wr_same c, field_setField_same _ _ hl h]

theorem rdF_wrF_apart {s : State} (c : Canon s) (o : Nat) {hi lo h2 l2 : Nat} (v : Nat) (hl : lo ≤ hi) (h : hi < 64)
    (a : h2 < lo ∨ hi < l2) : rdF (wrF s o hi lo v) o h2 l2 = rdF s o h2 l2 := by
  unfold rdF wrF
  rw [rd_wr_same c, field_setField_apart _ _ hl h a]

theorem rd_wrF_other (s : State) {o q : Nat} (hi lo v : Nat) (h : q ≠ o) : rd (wrF s o hi lo v) q = rd s q := rd_wr_other s _ h
theorem rd_wrB_other (s : State) {o q : Nat} (i : Nat) (v : Bool) (h : q ≠ o) : rd (wrB s o i v) q = rd s q := rd_wr_other s _ h

theorem rdB_wrB_same {s : State} (c : Canon s) (o : Nat) {i : Nat} (v : Bool) (h : i < 64) : rdB (wrB s o i v) o i = v := by
  unfold rdB wrB wrF
  rw [rd_wr_same c, getLsbD_setField _ _ _ _ _ (le_refl i) h]
  cases v <;> simp [b2n]

theorem rdB_wrB_apart {s : State} (c : Canon s) (o : Nat) {i j : Nat} (v : Bool) (h : i < 64) (a : j ≠ i) :
    rdB (wrB s o i v) o j = rdB s o j := by
  unfold rdB wrB wrF
  rw [rd_wr_same c, getLsbD_setField _ _ _ _ _ (le_refl i) h]
  have e : ¬ (i ≤ j ∧ j ≤ i) := by omega
  simp [e]

theorem rdB_wrF_apart {s : State} (c : Canon s) (o : Nat) {hi lo j : Nat} (v : Nat) (hl : lo ≤ hi) (h : hi < 64)
    (a : j < lo ∨ hi < j) : rdB (wrF s o hi lo v) o j = rdB s o j := by
  unfold rdB wrF
  rw [rd_wr_same c, getLsbD_setField _ _ _ _ _ hl h]
  have e : ¬ (lo ≤ j ∧ j ≤ hi) := by omega
  simp [e]

theorem rdF_wrB_apart {s : State} (c : Canon s) (o : Nat) {i h2 l2 : Nat} (v : Bool) (h : i < 64) (a : h2 < i ∨ i < l2) :
    rdF (wrB s o i v) o h2 l2 = rdF s o h2 l2 := rdF_wrF_apart c o _ (le_refl i) h a

theorem rdF_wr_other (s : State) {o q : Nat} (v : Word) (hi lo : Nat) (h : q ≠ o) : rdF (wr s o v) q hi lo = rdF s q hi lo := by
  unfold rdF; rw [rd_wr_other _ _ h]

-- Tables

theorem row_setRow_same {s : State} (c : Canon s) (p : Bool) (t r i : Nat) : row (setRow s p t r i) p t r = i := by
  unfold row setRow
  cases p
  · exact smGet_smSet_same _ c.2.2.1.1 _ _
  · exact smGet_smSet_same _ c.2.2.2.1 _ _

theorem row_setRow_parity (s : State) {p q : Bool} (t r i t2 r2 : Nat) (h : q ≠ p) :
    row (setRow s p t r i) q t2 r2 = row s q t2 r2 := by
  unfold row setRow
  cases p <;> cases q <;> simp_all

theorem row_setRow_other (s : State) (p : Bool) {t r t2 r2 : Nat} (i : Nat) (h : tkey t2 r2 ≠ tkey t r) :
    row (setRow s p t r i) p t2 r2 = row s p t2 r2 := by
  unfold row setRow
  cases p
  · exact smGet_smSet_other _ _ _ h
  · exact smGet_smSet_other _ _ _ h

-- The interrupt edge of a command changes no register, table or unit

theorem irqEdge_outside (s t : State) : Outside 0 t (irqEdge s t) :=
  (irqEdge_keeps (Within.refl 0) s t (Keeps.refl 0 t)).frame

@[simp] theorem irqEdge_clk (s t : State) : (irqEdge s t).clk = t.clk := (irqEdge_outside s t).time rfl
@[simp] theorem irqEdge_ctl (s t : State) : (irqEdge s t).ctl = t.ctl := (irqEdge_outside s t).rings rfl
@[simp] theorem irqEdge_forme (s t : State) : (irqEdge s t).forme = t.forme := (irqEdge_outside s t).formes rfl
@[simp] theorem irqEdge_rcd (s t : State) : (irqEdge s t).rcd = t.rcd := (irqEdge_outside s t).recorder rfl
@[simp] theorem irqEdge_path (s t : State) : (irqEdge s t).path = t.path := (irqEdge_outside s t).path rfl
@[simp] theorem irqEdge_core (s t : State) : (irqEdge s t).core = t.core := (irqEdge_outside s t).core rfl
@[simp] theorem irqEdge_learn (s t : State) : (irqEdge s t).learn = t.learn := (irqEdge_outside s t).learn rfl
@[simp] theorem irqEdge_ciph (s t : State) : (irqEdge s t).ciph = t.ciph := (irqEdge_outside s t).cipher rfl
@[simp] theorem irqEdge_mp (s t : State) : (irqEdge s t).mp = t.mp := (irqEdge_outside s t).mp rfl
@[simp] theorem irqEdge_pool (s t : State) : (irqEdge s t).pool = t.pool := (irqEdge_outside s t).pools rfl
@[simp] theorem irqEdge_pwr (s t : State) : (irqEdge s t).pwr = t.pwr := (irqEdge_outside s t).power rfl
@[simp] theorem irqEdge_regs (s t : State) : (irqEdge s t).regs = t.regs := (irqEdge_outside s t).regs rfl
@[simp] theorem irqEdge_ctrs (s t : State) : (irqEdge s t).ctrs = t.ctrs := (irqEdge_outside s t).counters rfl
@[simp] theorem irqEdge_fresh (s t : State) : (irqEdge s t).fresh = t.fresh := (irqEdge_outside s t).draws rfl
@[simp] theorem irqEdge_cycle (s t : State) : (irqEdge s t).cycle = t.cycle := (irqEdge_outside s t).cycles rfl
@[simp] theorem irqEdge_tab0 (s t : State) : (irqEdge s t).tab0 = t.tab0 := ((irqEdge_outside s t).tables rfl).1
@[simp] theorem irqEdge_tab1 (s t : State) : (irqEdge s t).tab1 = t.tab1 := ((irqEdge_outside s t).tables rfl).2
@[simp] theorem irqEdge_pending (s t : State) : (irqEdge s t).pending = t.pending := (irqEdge_keeps (Within.refl 0) s t (Keeps.refl 0 t)).pending
@[simp] theorem irqEdge_variant (s t : State) : (irqEdge s t).variant = t.variant := (irqEdge_keeps (Within.refl 0) s t (Keeps.refl 0 t)).variant
@[simp] theorem irqEdge_serial (s t : State) : (irqEdge s t).serial = t.serial := (irqEdge_keeps (Within.refl 0) s t (Keeps.refl 0 t)).serial
@[simp] theorem irqEdge_rd (s t : State) (o : Nat) : rd (irqEdge s t) o = rd t o := by unfold rd; rw [irqEdge_regs]
@[simp] theorem irqEdge_rdF (s t : State) (o hi lo : Nat) : rdF (irqEdge s t) o hi lo = rdF t o hi lo := by
  unfold rdF; rw [irqEdge_rd]
@[simp] theorem irqEdge_rdB (s t : State) (o i : Nat) : rdB (irqEdge s t) o i = rdB t o i := by unfold rdB; rw [irqEdge_rd]
@[simp] theorem irqEdge_ctr (s t : State) (k : Nat) : ctr (irqEdge s t) k = ctr t k := by unfold ctr; rw [irqEdge_ctrs]
@[simp] theorem irqEdge_row (s t : State) (p : Bool) (k r : Nat) : row (irqEdge s t) p k r = row t p k r := by
  unfold row; rw [irqEdge_tab0, irqEdge_tab1]
/-- What left the module only grows. -/
theorem irqEdge_out (s t : State) : t.out <:+ (irqEdge s t).out := (irqEdge_keeps (Within.refl 0) s t (Keeps.refl 0 t)).out

theorem canon_irqEdge {s t : State} (h : Canon t) : Canon (irqEdge s t) :=
  (irqEdge_keeps (Within.refl 0) s t (Keeps.refl 0 t)).canon h

-- Rings

@[simp] theorem rt_setRt (s : State) (n : Nat) (r : RingRt) : rt (setRt s n r) n = r := by
  unfold rt setRt smGet; rw [smFind_smIns_same]; rfl

theorem rt_setRt_other (s : State) {n k : Nat} (r : RingRt) (h : k ≠ n) : rt (setRt s n r) k = rt s k := by
  unfold rt setRt smGet; rw [smFind_smIns_other _ _ h]

/-- An instruction in execution occupies its ring. -/
theorem inExecution_waiting (s : State) (n isn opcode flags : Nat) : (rt (inExecution s n isn opcode flags) n).waiting.isSome := by
  unfold inExecution; rw [rt_setRt]; rfl

theorem issued_waiting (s : State) (n op fl : Nat) : (rt (issued s n op fl) n).waiting.isSome = true :=
  inExecution_waiting _ _ _ _ _

theorem rt_congr {s t : State} (h : t.ctl = s.ctl) (n : Nat) : rt t n = rt s n := by unfold rt; rw [h]

/-- An instruction that issues settles what its meaning answers, unless its effect has reset its own ring. -/
theorem runIns_settle {s : State} {n op : Nat} {i : Ins} {act : Nat → State → State × Verdict}
    (h : Issues s n op i) {a : State × Verdict} (e : act s.ctl.isn (issued s n op i.flags) = a)
    (k : (rt a.1 n).waiting.isSome = true) : runIns s n op i act = settle a.1 n s.ctl.isn op i.flags a.2 := by
  subst e
  unfold runIns
  rw [if_pos (show issueReady s n op = true ∧ i.opcode = op from h)]
  exact if_pos k

/-- The same for a meaning that leaves the rings as it finds them. -/
theorem runIns_still {s : State} {n op : Nat} {i : Ins} {act : Nat → State → State × Verdict}
    (h : Issues s n op i) {a : State × Verdict} (e : act s.ctl.isn (issued s n op i.flags) = a)
    (k : a.1.ctl = (issued s n op i.flags).ctl) : runIns s n op i act = settle a.1 n s.ctl.isn op i.flags a.2 :=
  runIns_settle h e (by rw [rt_congr k]; exact issued_waiting s n op i.flags)

/-- An instruction that does not issue leaves the state as it is. -/
theorem runIns_not {s : State} {n op : Nat} {i : Ins} {act : Nat → State → State × Verdict}
    (h : ¬ Issues s n op i) : runIns s n op i act = s := if_neg h

theorem guardIns_pass {s : State} {checks : List (Bool × Status)} {act : State → State × Verdict} (h : firstFail checks = none) :
    guardIns s checks act = act s := by unfold guardIns; rw [h]

theorem guardIns_fail {s : State} {checks : List (Bool × Status)} {act : State → State × Verdict} {st : Status}
    (h : firstFail checks = some st) : guardIns s checks act = (s, .done st 0) := by unfold guardIns; rw [h]

theorem Keeps.ctl {m : Nat} {a b : State} (h : Keeps m a b) (k : m.testBit 1 = false) : b.ctl = a.ctl := h.frame.rings k

end Sys2Proof.Machine
end

