-- ==== Sys2Proof/Laws/Rings.lean ====
section
/-! SUPPORT. What issue and completion of an instruction do to the rings and registers. -/

namespace Sys2Proof.Machine

theorem ctl_of_keeps {m : Nat} {a b : State} (h : Keeps m a b) (k : m.testBit 1 = false) (n : Nat) : rt b n = rt a n :=
  rt_congr (h.frame.rings k) n

theorem regs_of_keeps {m : Nat} {a b : State} (h : Keeps m a b) (k : m.testBit 12 = false) (o : Nat) : rd b o = rd a o := by
  unfold rd; rw [h.frame.regs k]

theorem rd_raiseReg (s : State) (l : Bool) (q o : Nat) : rd (raiseReg s l q) o = rd s o :=
  regs_of_keeps (raiseReg_keeps (pm := 0) (Within.refl 0) s l q (Keeps.refl 0 s)) rfl o

theorem rd_perfAdd (s : State) (b k n o : Nat) (hk : k < 8) (h : ¬ (rPerf b 0 ≤ o ∧ o < rPerf (b + 1) 0)) :
    rd (perfAdd s b k n) o = rd s o := by
  have e1 : o ≠ rPerf b (0x80 + 8 * k) := by unfold rPerf at *; omega
  have e2 : o ≠ rPerf b 0x10 := by unfold rPerf at *; omega
  unfold perfAdd
  dsimp only
  split
  · exact rd_wr_other _ _ e1
  · split
    · rw [rd_raiseReg, rd_wrB_other _ _ _ e2, rd_wr_other _ _ e1]
    · rw [rd_wrB_other _ _ _ e2, rd_wr_other _ _ e1]

/-- Counting events of a block changes no register outside its performance page. -/
theorem rd_perf (s : State) (b ev n o : Nat) (h : ¬ (rPerf b 0 ≤ o ∧ o < rPerf (b + 1) 0)) : rd (perf s b ev n) o = rd s o := by
  unfold perf
  have main : ∀ (l : List Nat) (x : State), (∀ k ∈ l, k < 8) →
      rd (l.foldl (fun s k => if (perfSel s (rPerf b 8)).getLsbD k ∧ field (perfSel s (rPerf b (0x40 + 8 * k))) 15 0 = ev then
        perfAdd s b k n else s) x) o
        = rd x o := by
    intro l
    induction l with
    | nil => intro x _; rfl
    | cons k l ih =>
      intro x hl
      rw [List.foldl_cons, ih _ (fun j hj => hl j (List.mem_cons_of_mem _ hj))]
      split
      · exact rd_perfAdd _ _ _ _ _ (hl k List.mem_cons_self) h
      · rfl
  exact main _ s (fun k hk => List.mem_range.mp hk)

theorem rt_perf (s : State) (b ev n k : Nat) : rt (perf s b ev n) k = rt s k :=
  ctl_of_keeps (perf_keeps (pm := 4096) (Within.refl _) s b ev n (Keeps.refl _ _)) rfl k

theorem ctl_perf (s : State) (b ev n : Nat) : (perf s b ev n).ctl = s.ctl :=
  (perf_keeps (pm := 4096) (Within.refl _) s b ev n (Keeps.refl _ _)).frame.rings rfl

theorem canon_perf {s : State} (h : Canon s) (b ev n : Nat) : Canon (perf s b ev n) :=
  (perf_keeps (pm := 4096) (Within.refl _) s b ev n (Keeps.refl _ _)).canon h

/-- A register of ring n is not in the performance page of the Claves. -/
theorem ring_not_perf (n k : Nat) (hn : n < 64) (hk : k < 0x100) :
    ¬ (rPerf 40 0 ≤ 0x101000 + k + 0x100 * n ∧ 0x101000 + k + 0x100 * n < rPerf (40 + 1) 0) := by
  unfold rPerf; omega

theorem advanceHead_waiting (x : State) (n k : Nat) (hx : (rt x n).waiting.isSome = true) : (rt (advanceHead x n k) n).waiting.isSome = true := by
  unfold advanceHead
  simp only
  rw [rt_setRt]; exact hx

theorem issues_begun {s : State} {n op : Nat} {i : Ins} (h : Issues s n op i) : (rt s n).begun = true := by
  have := h.1
  simp only [issueReady, couldIssue, Bool.and_eq_true] at this
  exact this.1.1.1.1.1.1.1.1.1

theorem isn_takeTurn (s : State) (n : Nat) : (takeTurn s n).ctl.isn = s.ctl.isn := by
  unfold takeTurn; dsimp only; split <;> rfl

theorem rt_takeTurn (s : State) (n k : Nat) : rt (takeTurn s n) k = rt s k := by
  unfold takeTurn; dsimp only; split <;> rfl

theorem rt_issueIns {s : State} {n op : Nat} {i : Ins} (h : Issues s n op i) :
    rt (issueIns s n) n = { rt s n with
      slots := (rt s n).slots.drop 1, issued := (rt s n).issued + 1, lastIsn := s.ctl.isn
      firstIsn := if (rt s n).firstIsn = 0 then s.ctl.isn else (rt s n).firstIsn, lastOk := none, capHold := false } := by
  have hA : rt (perf (advanceHead (takeIsn (takeTurn s n)) n 1) 40 0x0301 1) n = { rt s n with slots := (rt s n).slots.drop 1 } := by
    rw [rt_perf]
    unfold advanceHead
    dsimp only
    rw [rt_setRt, show rt (takeIsn (takeTurn s n)) n = rt s n from rt_takeTurn s n n]
  unfold issueIns
  dsimp only
  rw [rt_setRt, hA]

theorem rt_issued_same {s : State} {n op : Nat} (fl : Nat) :
    rt (issued s n op fl) n = { rt (issueIns s n) n with waiting := some ⟨s.ctl.isn, op, fl, .exec⟩ } := by
  unfold issued inExecution
  rw [rt_setRt]

theorem rt_issued_other {s : State} {n op k : Nat} (fl : Nat) (hk : k ≠ n) : rt (issued s n op fl) k = rt s k := by
  unfold issued inExecution issueIns
  dsimp only
  rw [rt_setRt_other _ _ hk, rt_setRt_other _ _ hk, rt_perf]
  unfold advanceHead
  dsimp only
  rw [rt_setRt_other _ _ hk]
  exact rt_takeTurn s n k

theorem rd_issued (s : State) (n op fl o : Nat) (h : ¬ (rPerf 40 0 ≤ o ∧ o < rPerf (40 + 1) 0)) :
    rd (issued s n op fl) o = rd (wrF s (rCrHead n) 16 0 ((crHead s n + 1) % (2 * ringSize s n))) o := by
  have : rd (issued s n op fl) o = rd (perf (advanceHead (takeIsn (takeTurn s n)) n 1) 40 0x0301 1) o := rfl
  rw [this, rd_perf _ _ _ _ _ h]
  rfl

theorem canon_issued {s : State} (c : Canon s) (n op fl : Nat) : Canon (issued s n op fl) :=
  (inExecution_keeps (pm := 4106) ((Within.refl _).sub rfl) _ _ _ _ _ (issueIns_keeps (pm := 4106) ((Within.refl _).sub rfl) s n (Keeps.refl _ _))).canon c

theorem isn_issued (s : State) (n op fl : Nat) : (issued s n op fl).ctl.isn = s.ctl.isn + 1 := by
  have : (issued s n op fl).ctl.isn = (perf (advanceHead (takeIsn (takeTurn s n)) n 1) 40 0x0301 1).ctl.isn := rfl
  rw [this, ctl_perf]; exact congrArg (· + 1) (isn_takeTurn s n)

-- refreshState
theorem yieldTurn_rt (s : State) (n k : Nat) : rt (yieldTurn s n) k = rt s k := rfl
theorem yieldIf_rt (s : State) (n k : Nat) (b : Prop) [Decidable b] : rt (if b then yieldTurn s n else s) k = rt s k := by split <;> rfl
theorem yieldIf_isn (s : State) (n : Nat) (b : Prop) [Decidable b] : (if b then yieldTurn s n else s).ctl.isn = s.ctl.isn := by
  split <;> rfl
theorem yieldIf_rd (s : State) (n o : Nat) (b : Prop) [Decidable b] : rd (if b then yieldTurn s n else s) o = rd s o := by split <;> rfl
theorem refreshState_rt (s : State) (n k : Nat) : rt (refreshState s n) k = rt s k := by
  unfold refreshState; split
  · rfl
  · dsimp only
    rw [show ∀ (x : State) (v : Nat), rt (wrF x (rCrStatus n) 10 8 v) k = rt x k from fun _ _ => rfl]
    exact yieldIf_rt _ _ _ _
theorem refreshState_isn (s : State) (n : Nat) : (refreshState s n).ctl.isn = s.ctl.isn := by
  unfold refreshState; split
  · rfl
  · dsimp only
    rw [show ∀ (x : State) (v : Nat), (wrF x (rCrStatus n) 10 8 v).ctl = x.ctl from fun _ _ => rfl]
    exact yieldIf_isn _ _ _
theorem refreshState_rd (s : State) (n o : Nat) (h : o ≠ rCrStatus n) : rd (refreshState s n) o = rd s o := by
  unfold refreshState; split
  · rfl
  · dsimp only
    rw [rd_wrF_other _ _ _ _ h]
    exact yieldIf_rd _ _ _ _

theorem postHw_rt (s : State) (c : Nat) (d) (k : Nat) : rt (postHw s c d) k = rt s k :=
  rt_congr ((postHw_keeps (pm := 4104) (Within.refl _) s c d (Keeps.refl _ _)).ctl rfl) k
theorem postHw_isn (s : State) (c : Nat) (d) : (postHw s c d).ctl.isn = s.ctl.isn := by
  rw [(postHw_keeps (pm := 4104) (Within.refl _) s c d (Keeps.refl _ _)).ctl rfl]
theorem postHw_rd (s : State) (c : Nat) (d) (o : Nat) (h : o ≠ rRecDrop) : rd (postHw s c d) o = rd s o := by
  unfold postHw post; split
  · exact rd_wr_other _ _ h
  · rfl

theorem startProgram_facts (s : State) (n : Nat) (h : (rt s n).records ≠ []) :
    (rt (startProgram s n) n).records = (rt s n).records ∧ (rt (startProgram s n) n).slots = (rt s n).slots ∧
    (startProgram s n).ctl.isn = s.ctl.isn ∧ (∀ k, k ≠ n → rt (startProgram s n) k = rt s k) ∧
    (∀ o, o ≠ rCrStatus n → o ≠ rRecDrop → rd (startProgram s n) o = rd s o) := by
  unfold startProgram
  dsimp only
  split
  · exact ⟨rfl, rfl, rfl, fun _ _ => rfl, fun _ _ _ => rfl⟩
  · split
    · refine ⟨?_, ?_, ?_, ?_, ?_⟩
      · rw [refreshState_rt, rt_setRt]
      · rw [refreshState_rt, rt_setRt]
      · rw [refreshState_isn]; rfl
      · intro k hk; rw [refreshState_rt, rt_setRt_other _ _ hk]
      · intro o h1 h2; rw [refreshState_rd _ _ _ h1]; rfl
    · split
      · refine ⟨?_, ?_, ?_, ?_, ?_⟩
        · rw [postHw_rt]; rfl
        · rw [postHw_rt]; rfl
        · rw [postHw_isn]; rfl
        · intro k hk; rw [postHw_rt]; rfl
        · intro o h1 h2; rw [postHw_rd _ _ _ _ h2]; unfold stopRing; rw [rd_wrF_other _ _ _ _ h1, rd_wrB_other _ _ _ h1]
      · refine ⟨?_, ?_, ?_, ?_, ?_⟩
        · rw [refreshState_rt]
        · rw [refreshState_rt]
        · rw [refreshState_isn]
        · intro k hk; rw [refreshState_rt]
        · intro o h1 h2; rw [refreshState_rd _ _ _ h1]

theorem queueRec_other (s : State) {n k : Nat} (x : Rec) (h : k ≠ n) : rt (queueRec s n x) k = rt s k := rt_setRt_other _ _ h
theorem advanceHead_other (s : State) {n k : Nat} (j : Nat) (h : k ≠ n) : rt (advanceHead s n j) k = rt s k := rt_setRt_other _ _ h
theorem clearProgram_other (s : State) {n k : Nat} (h : k ≠ n) : rt (clearProgram s n) k = rt s k := rt_setRt_other _ _ h

theorem queueRec_rt (s : State) (n : Nat) (x : Rec) :
    rt (queueRec s n x) n = { rt s n with
      records := (rt s n).records ++ [x]
      stallSince := if cqFull s n then stallFrom s (rt s n) else (rt s n).stallSince } := by
  show rt (addRec s n x) n = _; unfold addRec; dsimp only; rw [rt_setRt]
theorem advanceHead_rt (s : State) (n k : Nat) (h : (rt s n).records ≠ []) : rt (advanceHead s n k) n = { rt s n with slots := (rt s n).slots.drop k } := by
  unfold advanceHead; dsimp only; rw [rt_setRt]
theorem clearProgram_rt (s : State) (n : Nat) (h : (rt s n).records ≠ []) : (rt (clearProgram s n) n).records = (rt s n).records ∧ (rt (clearProgram s n) n).slots = (rt s n).slots := by
  unfold clearProgram; dsimp only; rw [rt_setRt]; exact ⟨rfl, rfl⟩
theorem takeIsn_rt (s : State) (n : Nat) : rt (takeIsn s) n = rt s n := rfl
theorem queueRec_rd (s : State) (n : Nat) (x : Rec) (o : Nat) : rd (queueRec s n x) o = rd s o := rfl
theorem clearProgram_rd (s : State) (n : Nat) (o : Nat) : rd (clearProgram s n) o = rd s o := rfl
theorem advanceHead_rd (s : State) (n k o : Nat) : rd (advanceHead s n k) o = rd (wrF s (rCrHead n) 16 0 ((crHead s n + k) % (2 * ringSize s n))) o := rfl
theorem abortProgram_eq (s : State) (n i st : Nat) : abortProgram s n i st false =
   let rem := (rt s n).slots.findIdx (fun o => o = opEnd) + 1
   let b := advanceHead (queueRec (takeIsn s) n { result := rem, isn := s.ctl.isn, status := statusCode .eAbort, opcode := 0 }) n rem
   let d := wrB (wrF b (rCrStatus n) 63 32 (min (rdF b (rCrStatus n) 63 32 + 1) (2 ^ 32 - 1))) (rCrStatus n) 0 true
   refreshState (startProgram (clearProgram (postHw d 0x4904 [(1, n), (8, i), (1, st)]) n) n) n := rfl
theorem wrStat_rt (b : State) (n : Nat) (v : Nat) (k : Nat) : rt (wrB (wrF b (rCrStatus n) 63 32 v) (rCrStatus n) 0 true) k = rt b k := rfl

theorem abort_facts (s : State) (n i st : Nat) (c : Canon s) (hn : n < 64) (rem : Nat) (hrem : (rt s n).slots.findIdx (fun o => o = opEnd) + 1 = rem) :
    (rt (abortProgram s n i st false) n).records = (rt s n).records ++ [{ result := rem, isn := s.ctl.isn, status := statusCode .eAbort, opcode := 0 }] ∧
    (rt (abortProgram s n i st false) n).slots = (rt s n).slots.drop rem ∧ (abortProgram s n i st false).ctl.isn = s.ctl.isn + 1 ∧ (∀ k, k ≠ n → rt (abortProgram s n i st false) k = rt s k) ∧
    crHead (abortProgram s n i st false) n = (crHead s n + rem) % (2 * ringSize s n) % 2 ^ 17 := by
  rw [abortProgram_eq]
  rw [hrem]
  dsimp only
  generalize hq : ({ result := rem, isn := s.ctl.isn, status := statusCode .eAbort, opcode := 0 } : Rec) = q
  generalize ha : queueRec (takeIsn s) n q = a
  generalize hb : advanceHead a n rem = b
  generalize min (rdF b (rCrStatus n) 63 32 + 1) (2 ^ 32 - 1) = v
  generalize hd : wrB (wrF b (rCrStatus n) 63 32 v) (rCrStatus n) 0 true = d
  generalize he : postHw d 0x4904 [(1, n), (8, i), (1, st)] = e
  have ra : (rt a n).records = (rt s n).records ++ [q] ∧ (rt a n).slots = (rt s n).slots := by
    rw [← ha, queueRec_rt]; exact ⟨rfl, rfl⟩
  have rb : (rt b n).records = (rt s n).records ++ [q] ∧ (rt b n).slots = (rt s n).slots.drop rem := by
    rw [← hb, advanceHead_rt _ _ _ (by rw [ra.1]; simp)]; exact ⟨ra.1, by rw [← ra.2]⟩
  have re : rt e n = rt b n := by rw [← he, postHw_rt, ← hd, wrStat_rt]
  generalize hf : clearProgram e n = f
  have rf_ : (rt f n).records = (rt s n).records ++ [q] ∧ (rt f n).slots = (rt s n).slots.drop rem := by
    have := clearProgram_rt e n (by rw [re, rb.1]; simp)
    rw [← hf, this.1, this.2, re]; exact rb
  obtain ⟨s1, s2, s3, s4, s5⟩ := startProgram_facts f n (by rw [rf_.1]; simp)
  refine ⟨?_, ?_, ?_, ?_, ?_⟩
  · rw [refreshState_rt, s1, rf_.1]
  · rw [refreshState_rt, s2, rf_.2]
  · rw [refreshState_isn, s3, ← hf]; show e.ctl.isn = _; rw [← he, postHw_isn, ← hd]; show b.ctl.isn = _; rw [← hb]; show a.ctl.isn = _; rw [← ha]; rfl
  · intro k hk
    rw [refreshState_rt, s4 k hk, ← hf, clearProgram_other _ hk, ← he, postHw_rt, ← hd, wrStat_rt, ← hb, advanceHead_other _ _ hk, ← ha, queueRec_other _ _ hk, takeIsn_rt]
  · have h1 : rCrHead n ≠ rCrStatus n := by unfold rCrHead rCrStatus; omega
    have h2 : rCrHead n ≠ rRecDrop := by unfold rCrHead rRecDrop; omega
    have h3 : crHead a n = crHead s n ∧ ringSize a n = ringSize s n ∧ Canon a := by rw [← ha]; exact ⟨rfl, rfl, c⟩
    unfold crHead rdF
    rw [refreshState_rd _ _ _ h1, s5 _ h1 h2, ← hf, clearProgram_rd, ← he, postHw_rd _ _ _ _ h2, ← hd, rd_wrB_other _ _ _ h1, rd_wrF_other _ _ _ _ h1, ← hb, advanceHead_rd, h3.1, h3.2.1]
    exact rdF_wrF_same h3.2.2 _ _ (by omega) (by omega)

/-- Refreshing ring n: CQ_FULL then shows whether its completion ring is full (R71); its records and slots, the other rings and
every register but its CR_STATUS stay. -/
theorem refreshFull_facts {s : State} (c : Canon s) (n : Nat) :
    Canon (refreshFull s n) ∧ (∀ k, k ≠ n → rt (refreshFull s n) k = rt s k) ∧ (rt (refreshFull s n) n).records = (rt s n).records ∧
    (rt (refreshFull s n) n).slots = (rt s n).slots ∧ (∀ o, o ≠ rCrStatus n → rd (refreshFull s n) o = rd s o) ∧
    rdB (refreshFull s n) (rCrStatus n) 4 = cqFull s n ∧ s.out <:+ (refreshFull s n).out := by
  have kk : Keeps 4098 s (refreshFull s n) := refreshFull_keeps ((Within.refl _).sub rfl) _ _ (Keeps.refl _ _)
  have b4 : ∀ (x : State), Canon x → rdB (refreshState x n) (rCrStatus n) 4 = rdB x (rCrStatus n) 4 := by
    intro x cx
    unfold refreshState; split
    · rfl
    · dsimp only
      have : ∀ (b : Prop) [Decidable b] v,
          rdB (wrF (if b then yieldTurn x n else x) (rCrStatus n) 10 8 v) (rCrStatus n) 4 = rdB x (rCrStatus n) 4 := by
        intro b _ v
        split
        · exact rdB_wrF_apart (s := yieldTurn x n) ⟨cx.1, cx.2⟩ _ _ (by omega) (by omega) (by omega)
        · exact rdB_wrF_apart cx _ _ (by omega) (by omega) (by omega)
      exact this _ _
  have b5 : ∀ (v : Bool) (r : RingRt), rdB (refreshState (setRt (wrB s (rCrStatus n) 4 v) n r) n) (rCrStatus n) 4 = v := by
    intro v r
    have cx : Canon (setRt (wrB s (rCrStatus n) 4 v) n r) := ⟨(canon_wrB c (rCrStatus n) 4 v).1, (canon_wrB c (rCrStatus n) 4 v).2⟩
    rw [b4 _ cx]
    exact rdB_wrB_same c _ _ (by omega)
  refine ⟨kk.canon c, ?_, ?_, ?_, ?_, ?_, kk.out⟩
  · intro k hk; unfold refreshFull; dsimp only; split <;> rw [refreshState_rt, rt_setRt_other _ _ hk] <;> rfl
  · unfold refreshFull; dsimp only; split <;> rw [refreshState_rt, rt_setRt]
  · unfold refreshFull; dsimp only; split <;> rw [refreshState_rt, rt_setRt]
  · intro o ho; unfold refreshFull; dsimp only
    split <;> rw [refreshState_rd _ _ _ ho, show ∀ (x : State) r, rd (setRt x n r) o = rd x o from fun _ _ => rfl,
      rd_wrB_other _ _ _ ho]
  · unfold refreshFull; dsimp only; split
    · rename_i h; rw [b5, h]
    · rename_i h; rw [b5]; rw [Bool.not_eq_true] at h; rw [h]

end Sys2Proof.Machine
end

