-- ==== Sys2Proof/Machine/Package.lean ====
section
/-! DEFINITION. The ball map: rows, octet blocks, low-speed regions, and the balls of absent units (chapter Power, Thermal and
Package). -/

namespace Sys2Proof.Machine

/-- The names of the 56 rows, row A the first (R16). -/
def ballRows : List String :=
  ["A", "B", "C", "D", "E", "F", "G", "H", "J", "K", "L", "M", "N", "P", "T", "U", "V", "W", "Y",
   "AA", "AB", "AC", "AD", "AE", "AF", "AG", "AH", "AJ", "AK", "AL", "AM", "AN", "AP", "AT", "AU", "AV", "AW", "AY",
   "BA", "BB", "BC", "BD", "BE", "BF", "BG", "BH", "BJ", "BK", "BL", "BM", "BN", "BP", "BT", "BU", "BV", "BW"]

/-- Four balls carry a lane. -/
inductive LanePin where
  | txp | txn | rxp | rxn
  deriving DecidableEq, Repr

/-- What a ball is (R1143, Table 19.4): a low-speed ball by its position in its region. -/
inductive Ball where
  | lane (n : Nat) (pin : LanePin)
  | gnd
  | vin
  | left (k : Nat)
  | right (k : Nat)
  deriving DecidableEq, Repr

/-- The ball at a row and a column, both counted from 1 (R1143 to R1145). -/
def ballAt (row col : Nat) : Ball :=
  let c := (col - 1) % 7 + 1
  if row ≤ 16 ∨ 41 ≤ row then
    let g := if row ≤ 16 then (row - 1) / 8 else (row - 25) / 8
    let lane := 8 * (8 * g + (col - 1) / 7) + (row - 1) % 8
    if c = 1 then .lane lane .txp else if c = 2 then .lane lane .txn else if c = 5 then .lane lane .rxp
    else if c = 6 then .lane lane .rxn else .gnd
  else if col ≤ 5 then .left (5 * (row - 17) + (col - 1))
  else if 52 ≤ col then .right (5 * (row - 17) + (col - 52))
  else if 21 ≤ row ∧ row ≤ 36 ∧ 21 ≤ col ∧ col ≤ 36 then .vin
  else .gnd

/-- The row and the column of a lane's ball (R1144). -/
def lanePlace (lane : Nat) (pin : LanePin) : Nat × Nat :=
  let n := lane / 8
  let b := if n < 8 then 0 else if n < 16 then 8 else if n < 24 then 40 else 48
  (lane % 8 + 1 + b, 7 * (n % 8) + (match pin with
    | .txp => 1
    | .txn => 2
    | .rxp => 5
    | .rxn => 6))

/-- The row and the column of position k of a low-speed region (R1145). -/
def lowSpeedPlace (onRight : Bool) (k : Nat) : Nat × Nat := (17 + k / 5, (if onRight then 52 else 1) + k % 5)

/-- Names that the table repeats for the numbers below n. -/
def numbered (n : Nat) (names : List String) : List (String × Nat) :=
  (List.range n).flatMap (fun i => names.map (fun x => (x, i)))

/-- The left region in order (Table 19.5): a name, with the number it carries, 0 for the first or only one. -/
def leftBalls : List (String × Nat) :=
  numbered 8 ["PCIE_TXP", "PCIE_TXN", "PCIE_RXP", "PCIE_RXN"]
    ++ [("PCIE_REFCLK_P", 0), ("PCIE_REFCLK_N", 0), ("PERST_N", 0), ("PERST_N", 1)]
    ++ numbered 4 ["SDREFCLK_P", "SDREFCLK_N"]
    ++ numbered 1 ["MGMT_TXP", "MGMT_TXN", "MGMT_RXP", "MGMT_RXN", "MDC", "MDIO", "TCK", "TMS", "TDI", "TDO", "TRST_N",
        "SPI_SCK", "SPI_MOSI", "SPI_MISO", "SPI_CS_N", "SPI_WP_N", "SPI_HOLD_N",
        "RESET_N", "PWR_EN", "PG", "READY", "FAULT_N", "ALERT_N", "THERM_N", "ZEROISE_N", "VKEEP", "VKEEP",
        "TAMPER_DRV_A", "TAMPER_SNS_A", "TAMPER_DRV_B", "TAMPER_SNS_B", "TAMPER_SEL", "TAMPER_REF"]
    ++ [("PPS_IN", 0), ("PPS_IN", 1), ("PPS_OUT", 0), ("PPS_OUT", 1)]
    ++ numbered 1 ["REF10M_P", "REF10M_N", "TOD_TXD", "TOD_RXD", "TOD_DE", "TIME_GND"]
    ++ List.replicate 24 ("reserved", 0) ++ List.replicate 9 ("GND", 0)

/-- The right region in order (Table 19.6). -/
def rightBalls : List (String × Nat) :=
  numbered 32 ["I2C_SCL", "I2C_SDA"] ++ numbered 32 ["OPT_INT_N"] ++ numbered 16 ["OPT_GPIO"] ++ List.replicate 8 ("GND", 0)

/-- A ball belongs to a unit that this variant has: on the HC, those of lanes L128 to L255 and of SDREFCLK2 and SDREFCLK3 are
unpowered and high-impedance (R1153); no other variant leaves a ball without a function (R1154). -/
def ballPowered (s : State) : Ball → Bool
  | .lane n _ => tilePresent s (n / 32)
  | .left k => decide (k < 40) || decide (44 ≤ k) || tilePresent s 7
  | _ => true

end Sys2Proof.Machine
end

