-- ==== Sys2Proof/WellFormed.lean ====
section
/-! DEFINITION. Which terms of Instr the environment can send: every field within the width the spec gives it. -/

namespace Sys2Proof

/-- Byte 0 of a slot holds the opcode of its row (Tables 4.1 and 4.2). -/
def insWf (opcode : Nat) (i : Ins) : Bool := i.opcode = opcode

/-- An operand block is at most 16 KiB long (R186). -/
def blockWf (b : Block) : Bool := b.elim true (fun l => decide (l.length ≤ 16384))

/-- A BAR write: within a 64 MiB BAR, with at least one octet (R1015). -/
def barWriteWf (w : BarWrite) : Bool := decide (w.offset + w.data.length ≤ 2 ^ 26) && decide (0 < w.data.length)

/-- A BAR read: PF0, PF1 or PF2, within the BAR, of at least one octet. -/
def barReadWf (r : BarRead) : Bool := decide (r.fn < 3) && decide (r.offset + r.size ≤ 2 ^ 26) && decide (0 < r.size)

/-- A doorbell write lies within one 8-byte location. -/
def dbWriteWf (w : DbWrite) : Bool := decide (0 < w.size) && decide (w.off + w.size ≤ 8) && decide (w.value < 2 ^ (8 * w.size))

/-- A received frame has octets, no more than a MAC takes before it cuts the frame (Table 5.9). -/
def rxFrameWf (f : RxFrame) : Bool := decide (0 < f.octets.length) && decide (f.octets.length ≤ 16384)

/-- What the header gather releases: a frame number, or the first octets of a frame on a front port. -/
def gatherWf (g : Gather) : Bool :=
  decide (g.port < 256) && decide (g.octets.length ≤ g.length) && decide (g.length ≤ 16384)

/-- A mailbox request (R933): channel 0 to 7, a TAG of 32 bits, at most 4,088 octets. -/
def mbxReqWf (q : MbxReq) : Bool := decide (q.channel < 8) && decide (q.tag < 2 ^ 32) && decide (q.payload.length ≤ 4088)

/-- Requests on the mailbox channels: channel, SERVICE and TAG. -/
def reqsWf (l : List (Nat × Nat × Nat)) : Bool :=
  l.all (fun x => decide (x.1 < 8) && decide (x.2.1 < 2 ^ 16) && decide (x.2.2 < 2 ^ 32))

/-- The site of an uncorrectable error: its numbers within their event fields. -/
def ueSiteWf : UeSite → Bool
  | .cell _ u i _ _ => decide (u < 2 ^ 8) && decide (i < 2 ^ 32)
  | .caseSlot _ loc _ => decide (loc < 2 ^ 20)
  | .fragment i => decide (i < 16384)
  | .asaShadow t loc => decide (t < 2 ^ 16) && decide (loc < 65536)
  | .tableRow t r _ _ => decide (t < 2 ^ 16) && decide (r < 2 ^ 20)
  | .counterReg o => decide (o < 2 ^ 26)
  | .counterWord k => decide (k < 2 ^ 40)
  | .bucket k => decide (k < 2 ^ 24)
  | .vtime k => decide (k < 2 ^ 32)
  | .credit _ _ => true
  | .pointer k => decide (k < 2 ^ 24)
  | .queueLink _ _ _ => true
  | .clave _ => true
  | .keyStore => true
  | .mpMemory reqs => reqsWf reqs
  | .recorder _ i => decide (i < 262144)

/-- Well-formed commands, constructor by constructor. -/
def wellFormed : Instr → Bool
  | .endProg _ ins => insWf 0x01 ins
  | .quoin _ ins => insWf 0x02 ins
  | .quoinW _ ins => insWf 0x02 ins
  | .quoinC _ ins => insWf 0x02 ins
  | .quoinT _ ins => insWf 0x02 ins
  | .quoinX _ ins => insWf 0x02 ins
  | .skipif _ ins => insWf 0x08 ins
  | .note _ ins => insWf 0x09 ins
  | .gopen _ ins => insWf 0x10 ins
  | .tw _ ins block => insWf 0x11 ins && blockWf block
  | .td _ ins block => insWf 0x12 ins && blockWf block
  | .tm _ ins block => insWf 0x13 ins && blockWf block
  | .lock _ ins => insWf 0x18 ins
  | .lockat _ ins block => insWf 0x19 ins && blockWf block
  | .gdrop _ ins => insWf 0x1A ins
  | .trd _ ins _ _ => insWf 0x20 ins
  | .rw _ ins _ => insWf 0x21 ins
  | .rrd _ ins _ => insWf 0x22 ins
  | .rmw _ ins block _ => insWf 0x23 ins && blockWf block
  | .csnap _ ins _ => insWf 0x30 ins
  | .cclr _ ins => insWf 0x31 ins
  | .crd _ ins _ => insWf 0x32 ins
  | .waitt _ ins block => insWf 0x40 ins && blockWf block
  | .tset _ ins block => insWf 0x41 ins && blockWf block
  | .tadjStep _ ins => insWf 0x42 ins
  | .tadjSlew _ ins => insWf 0x42 ins
  | .tadjFreq _ ins => insWf 0x42 ins
  | .palloc _ ins _ => insWf 0x50 ins
  | .pfree _ ins => insWf 0x51 ins
  | .pref _ ins => insWf 0x52 ins
  | .kload _ ins block _ => insWf 0x60 ins && blockWf block
  | .kzeroSa _ ins => insWf 0x61 ins
  | .kzeroKek _ ins => insWf 0x61 ins
  | .kzeroSaAll _ ins => insWf 0x61 ins
  | .kzeroAll _ ins => insWf 0x61 ins
  | .sasw _ ins block => insWf 0x62 ins && blockWf block
  | .ringDoorbell _ w opcodes => dbWriteWf w && opcodes.all (fun x => decide (x < 256))
  | .ringFetchErr _ => true
  | .cqHeadWrite _ _ _ => true
  | .completionRecordWrite _ => true
  | .cqErr _ => true
  | .cqStall _ => true
  | .crEnable _ _ _ => true
  | .crDisable _ _ _ => true
  | .crAbort _ _ _ => true
  | .crReset _ _ _ => true
  | .galleyTimeout => true
  | .impositionStart => true
  | .impositionFail => true
  | .lockup => true
  | .lockatTime => true
  | .lockMissed => true
  | .drainEnd => true
  | .catchUpEnd => true
  | .recircAged _ => true
  | .frameReceive _ f => rxFrameWf f
  | .pfcFrameReceive _ f => rxFrameWf f
  | .pauseFrameReceive _ f => rxFrameWf f
  | .pauseHoldExpire _ _ => true
  | .receiveSecyCheck _ _ _ => true
  | .stompIcvDecided _ _ => true
  | .headerGatherRelease g => gatherWf g
  | .fragInsertLost => true
  | .fragHoldExpire => true
  | .fragFlush _ _ => true
  | .lastOctetWritten _ => true
  | .xoffSend _ _ => true
  | .xoffRefresh _ _ => true
  | .xonSend _ _ => true
  | .sharedFetch _ _ => true
  | .roundsMatch _ => true
  | .planeCrossing _ => true
  | .creditIssue _ => true
  | .spillCopy _ => true
  | .refill _ => true
  | .schedulerSelect _ _ => true
  | .egressPipeline _ _ _ => true
  | .frameTransmitEnd _ txTime => decide (txTime < 2 ^ 112)
  | .stomp _ _ => true
  | .launchLate _ => true
  | .mmVerifyFail _ => true
  | .linkDown _ _ => true
  | .linkUp _ => true
  | .linkHoldExpire _ => true
  | .anFail _ abilities => decide (abilities < 2 ^ 32)
  | .portReset _ _ _ => true
  | .adminDown _ _ _ => true
  | .learnOperation => true
  | .rebalancerRetry => true
  | .ageClockTick => true
  | .ageingRemoval bd mac => decide (bd < 2 ^ 14) && decide (mac < 2 ^ 48)
  | .learnFlush _ _ => true
  | .flushComplete => true
  | .caseSeedWrite _ _ _ => true
  | .globalReserveWrite _ _ => true
  | .asaRepair _ => true
  | .asaSweep _ => true
  | .asaShadowUe table loc => decide (table < 2 ^ 16) && decide (loc < 2 ^ 32)
  | .saSwitch => true
  | .saRetire _ => true
  | .secyTxCurWrite _ _ => true
  | .cipherModeWrite _ _ => true
  | .mpStatus q _ => mbxReqWf q
  | .authChallenge q => mbxReqWf q
  | .authResponse q _ _ _ => mbxReqWf q
  | .logout q _ => mbxReqWf q
  | .enrol q _ _ _ _ => mbxReqWf q
  | .removeOperator q _ => mbxReqWf q
  | .kekInstall q _ _ => mbxReqWf q
  | .fwUpdate q _ _ => mbxReqWf q
  | .attest q _ => mbxReqWf q
  | .cmisRead q _ => mbxReqWf q
  | .cmisWrite q _ => mbxReqWf q
  | .serdesDiag q _ => mbxReqWf q
  | .servoCfg q _ => mbxReqWf q
  | .telemetryCfg q _ => mbxReqWf q
  | .timeDomainSwitch => true
  | .domainSwitchDone => true
  | .opTimeRead r => barReadWf r
  | .ppsInEdge _ => true
  | .ppsInLoss _ => true
  | .ppsOutPulse _ => true
  | .refLoss => true
  | .refReturn => true
  | .todTransmit _ => true
  | .todReceive _ => true
  | .timestampRecordWrite _ => true
  | .gateEntryStart _ => true
  | .gateListChange _ => true
  | .pealCapture _ => true
  | .pealFault _ addr => decide (addr < 2 ^ 64)
  | .pealEnable _ _ _ _ => true
  | .pealDisable _ _ _ => true
  | .mirrorSampleWrite _ _ _ => true
  | .stormMeterWrite _ _ _ _ => true
  | .perfEvselWrite w => barWriteWf w
  | .rsRead r => barReadWf r
  | .narrowReadLow r => barReadWf r
  | .registerWrite w _ => barWriteWf w
  | .claveFault _ _ _ => true
  | .claveWatchdog _ => true
  | .claveCorr _ => true
  | .handoverWindowClose => true
  | .claveMismatch isn output => decide (isn < 2 ^ 64) && decide (output < 2 ^ 32)
  | .claveDiagEnd _ _ => true
  | .ctrlReset w => barWriteWf w
  | .claveSelftestEnd _ _ => true
  | .shadowPeriodEnd _ => true
  | .mpWatchdog reqs => reqsWf reqs
  | .mpShedStep util => decide (util < 101)
  | .mpUnshedStep util => decide (util < 101)
  | .maintRequest _ unit => decide (unit < 2 ^ 32)
  | .maintActivityEnd _ unit _ reason => decide (unit < 2 ^ 32) && decide (reason < 2 ^ 32)
  | .holdMaxExpire _ unit => decide (unit < 2 ^ 32)
  | .keySelftestPiece _ _ => true
  | .recordWrite _ _ _ => true
  | .coalesceWindowClose => true
  | .hoursCellWrite => true
  | .recorderRetry _ _ _ => true
  | .mbxGoBusy w => barWriteWf w
  | .irqRearm w => barWriteWf w
  | .warmReset w => barWriteWf w
  | .start w => barWriteWf w
  | .bootSave w => barWriteWf w
  | .bootSaveEnd _ => true
  | .powerOn _ => true
  | .supervise _ => true
  | .selftest _ _ _ _ _ _ => true
  | .load decayed _ _ _ => decayed.all (fun x => decide (x.2 < 262144))
  | .train _ _ _ => true
  | .hold => true
  | .startStop _ memory => decide (memory < 2 ^ 32)
  | .shutdown _ => true
  | .railFault _ => true
  | .thermWarn _ _ => true
  | .resetN _ _ => true
  | .zeroiseN _ _ => true
  | .tamperMesh => true
  | .boardLoop _ _ => true
  | .vkeepLoss => true
  | .hostFundamentalReset => true
  | .hostLinkDown _ _ => true
  | .hostLinkUp _ _ _ _ _ _ => true
  | .flrPf0 _ reqs => reqsWf reqs
  | .flrPf1 _ => true
  | .flrPf2 _ => true
  | .busMasterDisable _ => true
  | .memCe _ _ => true
  | .memUe site => ueSiteWf site
  | .cellRetire _ _ => true
  | .poolEnable _ _ _ => true
  | .poolInitDone _ => true
  | .poolDisable _ _ _ => true
  | .pallocTimeout _ => true
  | .poolFault _ addr => decide (addr < 2 ^ 64)
  | .hostRxDeliver _ => true
  | .rxWaitExpire _ => true
  | .rxDoorbell _ w => dbWriteWf w
  | .txDoorbell _ w => dbWriteWf w
  | .txFrameFetch _ descs _ => descs.all (fun x => x.length = 32)
  | .txWriteBack _ first => decide (first < 2 ^ 17)
  | .ringDmaFault _ _ addr descs => decide (addr < 2 ^ 64) && descs.all (fun x => x.length = 32)
  | .rxRingEnable _ _ _ => true
  | .txRingEnable _ _ _ => true
  | .opDomainWrite _ _ => true
  | .impositionComplete => true
  | .waittTimeReached _ => true
  | .writeGateWrite _ _ => true
  | .entropyTestFail _ => true
  | .tamperSelChange _ => true
  | .mpRestartComplete => true
  | .servoUpdate _ _ _ => true
  | .mpTransmit _ flags tag _ => decide (flags < 2 ^ 8) && decide (tag < 2 ^ 32)
  | .busMasterEnable _ => true
  | .msixUnmask _ _ _ => true
  | .bar0BadRead r => barReadWf r
  | .pcieUncorrError _ _ status => decide (status < 2 ^ 32)
  | .mmVerifyResponse _ => true
  | .jtagAccess _ => true
  | .opticsAlarm _ => true
  | .unlistedOpcode _ opcode ins => insWf opcode.val ins

end Sys2Proof
end

