-- ==== Sys2Proof/Tests/Slice0.lean ====
section
/-! SUPPORT. Tests: worked values of the spec, ill-formed commands, and for each statement with hypotheses a state and operands
that meet them. -/

namespace Sys2Proof.Tests

set_option Elab.async false

open Sys2Proof Sys2Proof.Machine

-- Small states

/-- A running device: RUN, the MP up, its host bus master. -/
def up : State :=
  let s := wrF State.reset rDevState 2 0 stRun
  { s with host := { s.host with busMaster0 := true }, mp := { s.mp with mpUp := true } }

/-- Ring n of a state enabled and running, with these opcodes in its slots. -/
def onRing (s : State) (n : Nat) (ops : List Nat) : State :=
  setRt (wrF (wrF (wrB s (rCrCtrl n) 0 true) (rCrStatus n) 10 8 rsRun) (rCrTail n) 16 0 ops.length) n
    { rt s n with slots := ops, begun := true }

/-- Ring 0 about to issue one instruction. -/
def at0 (op : Nat) : State := onRing up 0 [op, opEnd]

/-- An instruction's bytes. -/
def i0 : Ins := Ins.make 0 0 0 0 0

/-- An instruction of an opcode with every other byte 0. -/
def bare (op : Nat) : Ins := Ins.make op 0 0 0 0

/-- Ring 0 has an open galley. -/
def gal (s : State) : State := wrF (setGalleyState s gsOpen) rFormeStatus 29 24 0

-- Witnesses: each clause of a statement has a state and operands that meet its hypotheses

theorem wit_idleStep : State.reset.pending = [] ∧ devState State.reset < stSupervise := by decide +kernel

theorem wit_invariant : Canon State.reset ∧ Canon up ∧ (∃ t, step { up with pending := [.hold] } = .next t) :=
  ⟨by decide +kernel, by decide +kernel, _, rfl⟩

theorem wit_parts : ∃ t, exec (.jtagAccess false) State.reset = .next t := ⟨_, rfl⟩

theorem wit_step : ∃ t, step State.reset = .next t := ⟨_, rfl⟩

theorem wit_okCompletion : Canon (at0 opRrd) ∧ issueReady (at0 opRrd) 0 opRrd = true ∧ opRrd ≠ opEnd ∧
    (rt (at0 opRrd) 0).abortAfter = none ∧ (bare opRrd).opcode = opRrd := by decide +kernel

theorem wit_failure : Canon (at0 opTw) ∧ issueReady (at0 opTw) 0 opTw = true ∧ opTw ≠ opEnd ∧ Status.eCheck ≠ .ok ∧
    contOf (bare opTw).flags = false ∧ (bare opTw).opcode = opTw := by decide +kernel

theorem wit_order : issueReady (at0 opEnd) 0 opEnd = true ∧ insPlain (bare opEnd) = true ∧ (bare opEnd).flags < 4 ∧
    issueReady (at0 opNote) 0 opNote = true ∧ (bare opNote).opcode = opNote := by
  decide +kernel

/-- SKIPIF with COND 1: fails, holds within the program, and holds past its END. -/
theorem wit_skipif :
    let s := at0 opSkipif
    let i : Ins := Ins.make opSkipif 4 1 0 0
    let j : Ins := Ins.make opSkipif 4 4095 0 0
    let k := setRt s 0 { rt s 0 with lastOk := some true, slots := [opSkipif, opNote, opEnd] }
    let f := Ins.make opSkipif 28 1 7 9
    i.opcode = opSkipif ∧ skipBad f = false ∧ 4 ≤ bits f.flags 4 2 ∧
    issueReady s 0 opSkipif = true ∧ skipBad i = false ∧ skipBad j = false ∧
    (let x := skipLook (issued s 0 opSkipif 4) (ringLink (issued s 0 opSkipif 4) 0) i
     skipHolds x.2 i (rt s 0).lastOk = false) ∧ issueReady k 0 opSkipif = true ∧
    (let x := skipLook (issued k 0 opSkipif 4) (ringLink (issued k 0 opSkipif 4) 0) i
     let y := skipLook (issued k 0 opSkipif 4) (ringLink (issued k 0 opSkipif 4) 0) j
     skipHolds x.2 i (rt k 0).lastOk = true ∧ skipHolds y.2 j (rt k 0).lastOk = true ∧
     i.unit ≤ (rt x.1 0).slots.findIdx (fun o => o = opEnd) ∧ (rt y.1 0).slots.findIdx (fun o => o = opEnd) < j.unit) := by
  decide +kernel

theorem wit_unlisted : listedOpcodes.contains 0xFF = false ∧ issueReady (at0 0xFF) 0 0xFF = true ∧ (bare 0xFF).opcode = 0xFF ∧
    listedOpcodes.contains 0 = false ∧ issueReady (at0 0) 0 0 = true := by decide +kernel

/-- A QUOIN whose condition holds, one that waits for a record, one already waiting, and VARIANT 7. -/
theorem wit_quoin :
    let s := at0 opQuoin
    let k := setRt s 0 { rt s 0 with records := [{ result := 0, isn := 1, status := 0, opcode := 1 }] }
    let w := setRt s 0 { rt s 0 with waiting := some ⟨1, opQuoin, 0, .quoin 1 0 0 0 0 0⟩ }
    issueReady s 0 opQuoin = true ∧ onQuoin s 0 = false ∧ bits 0 4 2 < 5 ∧ insPlain i0 = true ∧
    quoinHolds (issued s 0 opQuoin 0) 0 0 (issued s 0 opQuoin 0).ctl.gateIn (formeIn (issued s 0 opQuoin 0)) (opNs s) = true ∧
    issueReady k 0 opQuoin = true ∧
    quoinHolds (issued k 0 opQuoin 0) 0 0 (issued k 0 opQuoin 0).ctl.gateIn (formeIn (issued k 0 opQuoin 0)) (opNs k) = false ∧
    quoinHolds w 0 1 0 0 (tNs 0 0) = true ∧ 5 ≤ bits 28 4 2 := by decide +kernel

/-- RW and RRD of TIME_CTRL's neighbour SCRATCH-like register MAINT_CFG by an MP ring and a host ring. -/
theorem wit_registers :
    let s := at0 opRw
    let i : Ins := Ins.make opRw 0 0 rFormeCtrl 5
    let t := issued s 0 opRw 0
    issueReady s 0 opRw = true ∧ i.opcode = opRw ∧ regRefersAbsent t i.index 5#64 = false ∧ firstFail (regChecks t 0 i false true) = none ∧
    (regWrite t (writeKey (ringLink t 0) i.index) (BitVec.allOnes 64) 5#64 noEnv 0 id).2 = .took ∧
    (rt (regWrite t rFormeCtrl (BitVec.allOnes 64) 5#64 noEnv 0 id).1 0).waiting.isSome = true ∧
    firstFail (regChecks t 0 (Ins.make opRw 0 0 0x101000 0) false true) = some .ePerm ∧
    firstFail (regChecks t 0 (Ins.make opRw 0 0 3 0) false true) = some .eAddr := by decide +kernel

theorem wit_plainWrite : Canon up ∧ (regInfo rFormeCtrl).isSome = true ∧ rFormeCtrl < 2 ^ 32 := by decide +kernel

/-- WAITT, TSET and TADJ of an MP ring. -/
theorem wit_time :
    let s (op : Nat) := onRing up 60 [op, opEnd]
    let t := issued (s opTset) 60 opTset 0
    issueReady (s opWaitt) 60 opWaitt = true ∧ issueReady (s opTset) 60 opTset = true ∧
    firstFail (timeChecks t 60 0 i0 (decide (bits 0 3 2 ≠ 0))) = none ∧
    issueReady (s opTadj) 60 opTadj = true ∧ bits 8 3 2 = 2 ∧ (signedOf 64 32768000000).natAbs ≤ 32768000000 ∧
    firstFail (timeChecks t 60 0 (Ins.make opTadj 8 0 0 32768000000) false) = none := by decide +kernel

/-- A step of the followed domain from 5, and one of the other. -/
theorem wit_steps : Canon up ∧ opDomain up = 0 ∧ opDomain up ≠ 1 ∧ up.clk.resid ≤ (domOf up 0).t ∧
    0 ≤ ((domOf up 0).t : Int) + 65535 := by decide +kernel

theorem wit_gopen : Canon (at0 opGopen) ∧ issueReady (at0 opGopen) 0 opGopen = true ∧ allZero i0 = true ∧
    galleyState (at0 opGopen) = gsNone ∧ galleyState (gal (at0 opGopen)) = gsOpen ∧
    issueReady (gal (at0 opGopen)) 0 opGopen = true := by decide +kernel

theorem wit_log : ([⟨0x620, 0, 0, false, 7⟩, ⟨0x620, 1, 0, false, 7⟩] : List GWrite).Pairwise
    (fun a b => sameTarget a b = false) := by decide +kernel

/-- TW of shaper row 0 that passes, an image that does not fit, and a log at its bound. -/
theorem wit_table :
    let s := gal (at0 opTw)
    let i : Ins := Ins.make opTw 0 0x620 0 0
    let t := touchGalley (issued s 0 opTw 0) 0
    issueReady s 0 opTw = true ∧ firstFail (tableChecks t 0 i (imageLen t t.forme.galley 0x620 0)) = none ∧
    (placeRows t [] 0x620 [(0, 0)]).isLeft = true := by decide +kernel

theorem wit_lock :
    let s := gal (at0 opLock)
    let t := touchGalley (issued s 0 opLock 0) 0
    let u := issued (gal (at0 opLockat)) 0 opLockat 0
    issueReady s 0 opLock = true ∧ firstFail (galleyChecks t 0) = none ∧ gatesPast t (opNs t) = false ∧
    issueReady (gal (at0 opLockat)) 0 opLockat = true ∧ firstFail (galleyChecks u 0) = none ∧ pendingTimed u < 1024 ∧
    opNs u ≤ tNs 0 0 ∧ gatesPast u (tNs 0 0) = false ∧
    tNs 0 0 < opNs { u with clk := { u.clk with domA := { t := 65536 } } } := by decide +kernel

/-- A pending LOCKAT of ring 0. -/
def pend (timed : Bool) : PendLock :=
  { isn := 1, ring := 0, origin := 0, flags := 0, timed := timed, lateOk := false, sec := 0, ns := 0 }

/-- A galley pending in a phase. -/
def pending (timed : Bool) (phase : Nat) : State :=
  let s := setPhase (setGalleyState up gsPending) phase
  { s with forme := { s.forme with pendLock := some (pend timed) } }

theorem wit_gdropTrd :
    let s := gal (at0 opGdrop)
    let t := issued s 0 opGdrop 0
    let i : Ins := Ins.make opGdrop 0 0x620 0 0
    let k := onRing (setGalleyState (pending true 0) gsPending) 0 [opGdrop, opEnd]
    let u := issued k 0 opGdrop 0
    issueReady s 0 opGdrop = true ∧ galleyOwner t = 0 ∧ galleyState t = gsOpen ∧ t.forme.pendLock = none ∧
    galleyState u = gsPending ∧ u.forme.pendLock = some (pend true) ∧ (withdraw u).forme.pendLock = some (pend true) ∧
    (rt (finishLock (withdraw u) (pend true) .eAbort 0) 0).waiting.isSome = true ∧
    issueReady (at0 opTrd) 0 opTrd = true ∧ tableListed i.unit = true ∧
    32 + entryCount i * (8 + trdImageLen (at0 opTrd) i.unit) ≤ 65568 ∧ 0 + entryCount i ≤ trdSize i.unit ∧
    rowAbsent (at0 opTrd) i.unit 0 = false := by decide +kernel

theorem wit_imposition :
    galleyState (pending false 0) = gsPending ∧ prevState (pending false 0) = 0 ∧ pendPhase (pending false 0) = 0 ∧
    impositionFault (setPhase (endBankTests (pending false 0)) 1) = none ∧
    pendPhase (pending false 1) = 1 ∧ (runTodo (pending false 1)).forme.impFail = none ∧
    pendPhase (pending false 2) = 2 ∧ lockDue (pending false 2) (pend false) = true ∧
    tNs (pend true).sec (pend true).ns ≤ opNs (pending true 2) ∧ pendPhase (pending true 1) ≠ 2 := by decide +kernel

theorem wit_impositionFail :
    let s := { pending false 1 with forme := { (pending false 1).forme with impFail := some (.eFormeFull, 0x200, 0, 0) } }
    (runTodo s).forme.impFail = some (.eFormeFull, 0x200, 0, 0) ∧ (runTodo s).forme.pendLock = some (pend false) ∧
    (impositionFault (setPhase (endBankTests { wrF (pending false 0) rCoreCtrl 48 32 60000 with
      forme := { (pending false 0).forme with galley := [⟨0x630, 0, 0, false, 0⟩] } }) 1)).isSome = true := by decide +kernel

theorem wit_emptyGalley : Canon (pending false 2) ∧ Canon (pending true 2) ∧ (pending false 2).forme.galley = [] ∧
    (pend true).ring < 64 ∧ tNs (pend true).sec (pend true).ns ≤ opNs (pending true 2) := by decide +kernel

theorem wit_retirement :
    let s := gal { up with cycle := 10 ^ 13 }
    galleyState s = gsOpen ∧ s.forme.galleyCycle + max (rdF s rFormeCtrl 15 0) 1 * cyclesPerMs ≤ s.cycle ∧
    prevState (setPrev up 1) = 1 ∧ retirePending (setPrev up 1) = 0 ∧ Canon (setPrev up 1) ∧ prevState (setPrev up 2) = 2 := by
  decide +kernel

theorem wit_counters :
    let i : Ins := Ins.make opCsnap 0 0x0804 0 0
    issueReady (at0 opCsnap) 0 opCsnap = true ∧ firstFail (ctrChecks (issued (at0 opCsnap) 0 opCsnap 0) i 4 true) = none ∧
    issueReady (at0 opCrd) 0 opCrd = true ∧ firstFail (ctrChecks (issued (at0 opCrd) 0 opCrd 0) i 8 true) = none ∧
    issueReady (at0 opCclr) 0 opCclr = true ∧ firstFail (ctrChecks (issued (at0 opCclr) 0 opCclr 0) i 8 false) = none := by
  decide +kernel

theorem wit_clearing : Canon up ∧ setInfo 0x0804 = some (65536, 3, false) ∧ setInfo 0x0805 = some (48, 9, true) ∧
    ¬ (0x0805 = 0x0805 ∧ (8 = 0 ∨ 7 = 0)) ∧ ((65535, 2) : Nat × Nat) ≠ (0, 0) := by decide +kernel

/-- A frame counter one frame before its bit 47 rises, and one just after. -/
theorem wit_half :
    let s := setCtr up (ctrKey 0x0806 0 0) (2 ^ 47 - 1)
    let t := setCtr up (ctrKey 0x0806 0 0) (2 ^ 47)
    Canon s ∧ (ctr s (ctrKey 0x0806 0 0)).testBit 47 = false ∧
    (ctr (frameCount s (ctrKey 0x0806 0 0) (rQueueHalf 0) 0) (ctrKey 0x0806 0 0)).testBit 47 = true ∧
    (ctr t (ctrKey 0x0806 0 0)).testBit 47 = true := by decide +kernel

/-- Pool k of 16 buffers of 256 bytes at ledger base 0, enabled and initialised, in REGION r. -/
def pooled (s : State) (k r : Nat) : State :=
  wrB (wrF (wrF (wrF s (rPoolCfg k) 20 0 16) (rPoolCfg k) 60 52 1) (rPoolCfg k) 62 61 r) (rPoolCfg k) 63 true

/-- PALLOC of an enabled pool with a FREE buffer, of one whose buffers are all taken, and a wait past its time. -/
theorem wit_pool :
    let s := pooled (at0 opPalloc) 0 0
    let t := issued s 0 opPalloc 0
    let none_ := { t with pool := { t.pool with ledger := (List.range 16).map (fun e => (e, leMake 0 1 lsInUse)) } }
    let f := pooled (at0 opPfree) 0 0
    let g := { pooled (at0 opPref) 0 0 with pool := { (at0 opPref).pool with ledger := [(0, leMake 0 63 lsInUse), (1, leMake 0 1 lsInUse)] } }
    issueReady s 0 opPalloc = true ∧ pallocPool t 0 0x0C00 0 = some 0 ∧ poolGrants t 0 = true ∧ poolFifo t 0 = [] ∧ 0 < poolFree t 0 ∧
    ¬ (poolGrants none_ 0 = true ∧ poolFifo none_ 0 = [] ∧ 0 < poolFree none_ 0) ∧
    issueReady f 0 opPfree = true ∧
    (rt (freeBuf (issued f 0 opPfree 0) (ringMemory f 0) (ringRights f 0) 0 0).1 0).waiting.isSome = true ∧
    issueReady g 0 opPref = true ∧ (bufCheck (issued g 0 opPref 0) (ringMemory g 0) (ringRights g 0) 0).1 = .ok ∧
    63 ≤ leRefs (ledger (issued g 0 opPref 0) 0) ∧
    (bufCheck (issued g 0 opPref 0) (ringMemory g 0) (ringRights g 0) 256).1 = .ok ∧
    leRefs (ledger (issued g 0 opPref 0) 1) < 63 := by decide +kernel

theorem wit_pallocTimeout :
    let s := setRt up 0 { rt up 0 with waiting := some ⟨1, opPalloc, 0, .palloc 0 0 0⟩ }
    (rt s 0).waiting = some ⟨1, opPalloc, 0, .palloc 0 0 0⟩ ∧ 0 ≤ s.cycle := by decide +kernel

/-- A free that fails, one that leaves a reference, and the last one. -/
theorem wit_ledger :
    let s := { pooled up 0 0 with pool := { up.pool with ledger := [(0, leMake 5 2 lsInUse), (1, leMake 5 1 lsInUse)] } }
    let ok := fun _ : Nat => true
    leMake 5 1 lsInUse ≠ 0 ∧ (bufCheck s ok ok 1).1 ≠ .ok ∧ (bufCheck s ok ok 0).1 = .ok ∧ 2 ≤ leRefs (ledger s 0) ∧
    (bufCheck s ok ok 256).1 = .ok ∧ leRefs (ledger s 1) ≤ 1 ∧ poolFaulted s 0 = false ∧ poolFifo s 0 = [] := by decide +kernel

/-- Ring 60 with KEK 0 installed, and ring 0 with the crypto officer's role. -/
def user (op : Nat) : State := wrB (onRing up 60 [op, opEnd]) rKekStatus 0 true
def officer (op : Nat) : State := wr (at0 op) (rRingRole 0) 2#64

def kblock : List Byte := leBytes 2 24 ++ List.replicate 70 0#8

theorem wit_keys :
    let s := user opKload
    let t := issued s 60 opKload 0
    let o := officer opKzero
    issueReady s 60 opKload = true ∧ hasCipher t = true ∧ ringRole t 60 = 1 ∧ boundary t ≤ 1 ∧
    kloadBlockOk kblock = true ∧ kekHeld t 0 = true ∧ leAt kblock 0 2 = (if leAt kblock 2 1 % 2 = 0 then 24 else 40) ∧
    saInUse t false 0 = false ∧ saInUse t true 16383 = false ∧
    issueReady (user opKzero) 60 opKzero = true ∧ ringRole (issued (user opKzero) 60 opKzero 0) 60 = 1 ∧
    issueReady o 0 opKzero = true ∧ ringRole (issued o 0 opKzero 0) 0 = 2 := by decide +kernel

theorem wit_loading : Canon up ∧ leAt kblock 2 1 < 4 ∧ leAt kblock 24 8 < 2 ^ 64 ∧ saKeyIx true 0 ≠ saKeyIx false 0 := by
  decide +kernel

/-- A SecY whose transmit SA 0 holds a key. -/
def keyed (s : State) : State := loadSa (wrB s rKekStatus 0 true) false 0 0 kblock []

theorem wit_sasw :
    let s := keyed (onRing up 60 [opSasw, opEnd])
    let t := issued s 60 opSasw 0
    let sw (x : Sasw) (u : State) : State := { u with ctl := { u.ctl with sasws := [x] } }
    let x : Sasw := ⟨1, 60, 0, 0, 0, false, 0, 0, 0, false, false⟩
    let y : Sasw := { x with dir := true }
    let r := loadSa (wr up (rSecySa 0) (BitVec.ofNat 64 (2 ^ 14))) true 0 0 kblock []
    issueReady s 60 opSasw = true ∧ ringRole t 60 = 1 ∧ pendingTimed t < 1024 ∧ saHasKey t false 0 = true ∧
    opNs t ≤ tNs 0 0 ∧
    (sw x up).ctl.sasws.find? (fun x => decide (tNs x.sec x.ns ≤ opNs up)) = some x ∧ saHasKey (sw x up) false 0 = false ∧
    saHasKey (sw x (keyed up)) false 0 = true ∧ saHasKey (sw y r) true 0 = true ∧ anOf (sw y r) 0 0 = some 0 := by decide +kernel

theorem wit_saRetire :
    let s := setSaState up true 16383 saRetiring
    saState s true 16383 = saRetiring ∧ smGet (fun _ => 0) s.ciph.saRetireAt 16383 ≤ s.cycle := by decide +kernel

theorem wit_cipherWrites :
    let s := keyed up
    let z := wrB (setBoundary s 1) rCipherStatus 4 true
    hasCipher s = true ∧ Canon s ∧ saState s false 0 ≠ saEmpty ∧ rdF s (rSa false 0 0) 9 0 = 0 ∧ boundary s = 0 ∧
    (1#64).getLsbD 0 ≠ approved z ∧ boundary z = 1 ∧ commissioned z = true ∧ (0#64).getLsbD 0 = approved s := by decide +kernel

/-- A frame of 60 octets protected under the current SA 0. -/
theorem wit_protect :
    let s := wr (keyed up) (rTxCur 0) (BitVec.ofNat 64 (2 ^ 14))
    Canon s ∧ currentSa s 0 = some 0 ∧
    (match (protect s false 0 (List.replicate 60 0#8) [] 60 1600).2 with | .prot _ _ _ _ _ => true | _ => false) = true := by decide +kernel

/-- A frame with PN 1 on an SA whose lowest acceptable PN is 2, replay protection on. -/
theorem wit_replay :
    let s := loadSa (wr up (rSecySa 0) (BitVec.ofNat 64 (2 ^ 14))) true 0 0 (kblock.set 24 2#8) []
    let s := wrB s (rSecyCfg 0) 29 true
    let o := List.replicate 12 0#8 ++ [0x88#8, 0xE5#8, 0#8, 0#8] ++ beBytes 4 1 ++ List.replicate 80 0#8
    let b := afterTags o (min (rdF s (rSecyCfg 0) 25 24) 2)
    let g := secTagAt o b
    Canon s ∧ beAt o b 2 = 0x88E5 ∧ badTag g (o.length - 4) = false ∧ sciOk s 0 o g = true ∧ anMap s 0 (tagAn g) = some 0 ∧
    saState s true 0 ≠ saEmpty ∧ saState s true 0 ≠ saRetired ∧ cipherRuns s = true ∧ rdB s (rSecyCfg 0) 29 = true ∧
    recoverPn s 0 g.pn < saLow s 0 := by decide +kernel

/-- A doorbell within the ring, one past it, and one of a foreign link. -/
theorem wit_doorbell : stHold ≤ devState up ∧ ringOwner up 0 = .host false ∧ doorbellOk (onRing up 0 []) 0 1 = true ∧
    doorbellOk (onRing up 0 []) 0 257 = false ∧ ringOwner up 60 ≠ .host false := by decide +kernel

theorem wit_ringWrites :
    let s := onRing up 0 []
    let t := wrF s (rCqTail 0) 16 0 1
    hostOk s false (rCrCtrl 0) = true ∧ s.ctl.gateQ = [] ∧ staged s < 960 ∧
    ringDist t 0 (cqHead t 0) 1 ≤ ringDist t 0 (cqHead t 0) (cqTail t 0) ∧
    ringDist t 0 (cqHead t 0) (cqTail t 0) < ringDist t 0 (cqHead t 0) 2 ∧ (1#64).getLsbD 1 = false ∧ (1#64).getLsbD 2 = false := by
  decide +kernel

theorem wit_ringReset : Canon (gal up) ∧ galleyState (gal up) = gsOpen ∧ galleyOwner (gal up) = 0 ∧
    (rt (gal up) 0).waiting = none ∧ galleyState (pending true 0) = gsPending ∧ galleyOwner (pending true 0) = 0 ∧
    Canon (pending true 0) := by decide +kernel

/-- One record waits; the completion ring has room, or holds 256 records. -/
def recorded (tail : Nat) : State :=
  let s := onRing up 0 []
  wrF (setRt s 0 { rt s 0 with records := [{ result := 0, isn := 1, status := 0, opcode := 1 }], stallSince := some 0 })
    (rCqTail 0) 16 0 tail

theorem wit_records : Canon (recorded 255) ∧ ringState (recorded 255) 0 ≠ rsStopped ∧
    busMaster (recorded 255) (ringOwner (recorded 255) 0) = true ∧ (rt (recorded 255) 0).records ≠ [] ∧
    cqFull (recorded 255) 0 = false ∧ cqFull (recorded 256) 0 = true := by decide +kernel

theorem wit_ringErrors :
    let s := { recorded 256 with cycle := 1600001 }
    ringState (at0 opEnd) 0 ≠ rsStopped ∧ ringEnabled (at0 opEnd) 0 = true ∧ (rt (at0 opEnd) 0).slots ≠ [] ∧
    (rt (recorded 255) 0).records ≠ [] ∧ cqFull (recorded 255) 0 = false ∧
    (rt s 0).stallSince = some 0 ∧ cqFull s 0 = true ∧ 0 + 1600000 < s.cycle ∧ (rt s 0).stallPosted = false ∧
    (rt (setRt s 0 { rt s 0 with stallPosted := true }) 0).stallPosted = true := by decide +kernel

theorem wit_directWrites :
    let w := hostWrite false rFormeCtrl 5#64
    rFormeCtrl % 8 = 0 ∧ rFormeCtrl < 2 ^ 26 ∧ hostOk up false rFormeCtrl = true ∧ (regInfo rFormeCtrl).isSome = true ∧
    foreignReg up w rFormeCtrl = false ∧ regInfo 0xFFF8 = none ∧ tlpWrites 4 (List.replicate 8 0#8) = none ∧
    stSelftest ≤ devState up ∧ (setTodo up [.syncRow 0x620 0 false]).forme.formeTodo = [.syncRow 0x620 0 false] := by decide +kernel

theorem wit_gateWrite :
    let s := { up with ctl := { up.ctl with gateQ := [⟨rFormeCtrl, BitVec.allOnes 64, 5#64, 0xFFF, 0, noEnv⟩] } }
    s.ctl.gateQ ≠ [] ∧ staged s < 960 := by decide +kernel

theorem wit_deviceControl :
    let h := wrF up rDevState 2 0 stHold
    up.ctl.gateQ = [] ∧ staged up < 960 ∧ hostOk up false rDevCtrl = true ∧ stHold ≤ devState up ∧ stHold ≤ devState h ∧
    (BitVec.ofNat 64 (0x5741524D * 2 ^ 32 + 2)).getLsbD 1 = true ∧ field (BitVec.ofNat 64 (0x5741524D * 2 ^ 32 + 2)) 63 32 = 0x5741524D ∧
    hostOk h false rDevCtrl = true ∧ devState h = stHold ∧ (1#64).getLsbD 1 = false ∧ (1#64).getLsbD 0 = true ∧
    hostOk up false rBootCtrl = true ∧ field (BitVec.ofNat 64 (0x53415645 * 2 ^ 32 + 1)) 63 32 = 0x53415645 ∧
    hostOk up false rClaveCtrl = true ∧ (4#64).getLsbD 2 = true ∧
    hostOk up false (rMbxCtrl 7) = true ∧ mbxLink up 7 = false ∧ rdB (wrB up (rMbxStatus 7) 1 true) (rMbxStatus 7) 1 = true ∧
    hostOk up false rIrqCtrl = true ∧ hostOk up false rRecCtrl = true ∧ recState (wrF up rRecStatus 1 0 1) = 1 := by decide +kernel

theorem wit_dataPathWrites :
    let big := fieldMask 48 32
    let busy := setCase up [{ loc := 0, key := 0, slots := 1, result := 0, learned := true, v0 := true, v1 := true }]
    let q : FlushReq := ⟨0, 0, 0, 0, true, 0⟩
    Canon up ∧ hostOk up false (rPortCfg 255) = true ∧ (0#64).getLsbD 18 = false ∧ hostOk up false rTimeCtrl = true ∧
    hasDomB up = true ∧ hostOk up false (rStorm 255 2) = true ∧ hostOk up false rCoreCtrl = true ∧
    (field 0#64 48 32 = globalReserve up ∨ reserveFails up (field 0#64 48 32) = none) ∧
    field big 48 32 ≠ globalReserve up ∧ reserveFails up (field big 48 32) = some 0 ∧
    hostOk up false (rCaseSeed 3) = true ∧ caseSlots up true + caseSlots up false = 0 ∧
    caseSlots busy true + caseSlots busy false ≠ 0 ∧ hostOk up false rLearnFlush = true ∧ field 0#64 38 36 < 5 ∧
    (up.learn.flushQ.filter (fun q => q.host)).length < 16 ∧
    16 ≤ ((List.replicate 16 q).filter (fun q => q.host)).length ∧ hostOk up false rFragCtrl = true := by decide +kernel

theorem wit_observation :
    let v := BitVec.ofNat 64 (2 ^ 16 + 2 ^ 36)
    let w := v ||| fieldMask 63 63
    let a := perf { up with ctl := { up.ctl with gateIn := up.ctl.gateIn + 1 } } 40 0x0303 1
    let m := fieldMask 63 63 ||| fieldMask 47 36 ||| fieldMask 22 16
    let p := wrF up (rPeal 15 0x18) 39 0 1000000000
    let pa := perf { p with ctl := { p.ctl with gateIn := p.ctl.gateIn + 1 } } 40 0x0303 1
    let b := wr pa (rPeal 15 0) (setField ((rd pa (rPeal 15 0) &&& ~~~ m) ||| (w &&& m)) 63 63 0)
    let l := [0x0805 * 2 ^ 48]
    hostOk up false (rPeal 15 0) = true ∧ pealEnabled up 15 = false ∧ field v 22 16 ≤ l.length ∧ a.regs ≠ [] ∧
    (∀ x ∈ l.take (field v 22 16), pealEntryBad b x = false) ∧
    pealEnabled (wrB up (rPeal 15 0) 63 true) 15 = true ∧ hostOk up false (rMirrorSample 15) = true ∧
    hostOk up false (rPerf 42 (0x40 + 8 * 7)) = true ∧ hostOk up false (rPoolCfg 15) = true ∧ poolEnabled up 15 = false ∧
    poolEnabled (pooled up 15 0) 15 = true ∧ poolFree (pooled up 15 0) 15 = poolCount (pooled up 15 0) 15 ∧
    poolFifo (pooled up 15 0) 15 = [] ∧ poolNamed (pooled up 15 0) 15 = false ∧
    hostOk up false (rFr false 1023 8) = true ∧ frameLink up 1023 = false ∧ rdB up (rFr false 1023 8) 0 = false ∧
    (poolEnabled (pooled up 0 0) (field 1#64 35 32) = true ∧ poolRegion (pooled up 0 0) (field 1#64 35 32) = b2n false) ∧
    poolEnabled up (field 1#64 35 32) = false ∧ hostOk up false (rFr true 1023 8) = true ∧
    rdB (wrB up (rFr true 1023 8) 0 true) (rFr true 1023 8) 0 = true := by decide +kernel

theorem wit_reads :
    stSelftest ≤ devState up ∧ readTarget (gateDrain up) 0 rDevState = some rDevState ∧
    readTarget (gateDrain up) 0 0xFFF8 = none ∧ readTarget (gateDrain up) 0 rOpTime0 = some rOpTime0 ∧
    readTarget (gateDrain up) 0 (rDomTime0 1) = some (rDomTime0 1) ∧
    (regInfo rDevState).map (fun i => i.rs) = some 0 ∧ isTime0 rDevState = false ∧ rDevState ≠ rPwrStatus ∧
    smFind { up with host := { up.host with latch := [(0, rDevState, 0)] } }.host.latch 0 = some (rDevState, 0) ∧
    readWide ⟨false, 0, 4, 8, false⟩ = false ∧ readNarrow ⟨false, 0, 4, 8, false⟩ = false := by decide +kernel

theorem wit_readClear : Canon up ∧ (regInfo (rPort 0 0x840)).elim false (fun i => i.rs ≠ 0) = true ∧ isTime0 (rPort 0 0x840) = false ∧
    isTime0 rOpTime0 = true := by decide +kernel

theorem wit_hostLink :
    let s := setLinkStatus up false true 6 8 true
    hostLinkUp s false = true ∧ stSupervise ≤ devState up ∧ (false = true → up.host.bifNow = true) := by decide +kernel

theorem wit_functionReset :
    let s := { up with host := { up.host with msixEn := [(1, true)], msixMask := [(4096 + 1535, false)] } }
    smGet (fun _ => false) up.host.msixEn 1 = false ∧ smGet (fun _ => false) s.host.msixEn 1 = true ∧
    smGet (fun _ => true) s.host.msixMask 4096 = true ∧ smGet (fun _ => true) s.host.msixMask (4096 + 1535) = false := by
  decide +kernel

/-- Port 0 in a 1.6T mode, enabled, its link up. -/
def linked : State := wrB (setRow up false 0x600 0 (1 + 2 ^ 16 + 2 ^ 24)) (rPortStatus 0) 0 true
/-- Octets of a frame of an EtherType and opcode. -/
def oct (e op : Nat) : List Byte := List.replicate 12 0#8 ++ beBytes 2 e ++ beBytes 2 op ++ List.replicate 48 0#8
def fc (mode : Nat) : State := wr linked (rFcCfg 0) (BitVec.ofNat 64 (mode + 0xFF00))

theorem wit_port :
    let a (e op : Nat) : RxFrame := ⟨oct e op, false, false, 0, .plain, {}, []⟩
    portRuns linked 0 = true ∧ (linked.path.frames.find? (fun x => x.port = 0 && x.receiving && x.mirrorOf.isNone)) = none ∧
    rxClass (maxLen linked 0) (a 0x0800 0) = 2 ∧ beAt (oct 0x0800 0) 12 2 ≠ 0x8808 ∧
    rxClass (maxLen linked 0) ⟨oct 0x0800 0, true, false, 0, .plain, {}, []⟩ ≠ 2 ∧ beAt (oct 0x8808 0x0101) 14 2 = 0x0101 ∧
    beAt (oct 0x8808 0x0001) 12 2 = 0x8808 ∧ beAt (oct 0x8808 0x0001) 14 2 = 0x0001 := by decide +kernel

theorem wit_flowControl :
    let x := setRow (fc 2) false 0x630 0 0
    let f : Frame := { id := 0, octets := [], port := 0, firstPort := 0, stage := .held, charge := 5 }
    let y := { x with path := { x.path with frames := [f] } }
    let on := wrB y (rPortStatus 0) 32 true
    let old := { on with cycle := 10 ^ 10, path := { on.path with xoff := [(0, 1)] } }
    let held := { up with path := { up.path with holds := [(8, 1)] }, cycle := 1 }
    smGet (fun _ => 0) held.path.holds (0 * 16 + 8) = 1 ∧ 1 ≤ held.cycle ∧
    portRuns y 0 = true ∧ fcGenerates y 0 0 = true ∧ txXoff y 0 0 = false ∧
    xoffThr (admRow y 0 (ingressClass y 0 0)) < accU y 0 0 ∧
    txXoff old 0 0 = true ∧ smGet (fun _ => 0) old.path.xoff 0 = 0 + 1 ∧
    0 + (txQuanta old 0 * 256 * 1600) / max (portRate old 0) 1 ≤ old.cycle ∧ xonThr (admRow old 0 (ingressClass old 0 0)) < accU old 0 0 ∧
    txXoff (wrB x (rPortStatus 0) 32 true) 0 0 = true ∧ accU x 0 0 ≤ xonThr (admRow x 0 (ingressClass x 0 0)) := by decide +kernel

theorem wit_links :
    let down := wrB linked (rPortStatus 0) 0 false
    let held := wrB down (rPortStatus 0) 11 true
    let an := wrB (setRow up false 0x600 0 (1 + 2 ^ 16 + 2 ^ 8)) (rPortStatus 0) 0 false
    let mm := wrF linked (rPortStatus 0) 19 17 2
    let slow := wrF down (rLinkCfg 0) 23 16 10
    let soon := wrF down (rLinkCfg 0) 23 16 0
    let after := { slow with path := { slow.path with settleAt := [(0, 1)] }, cycle := 16000000 }
    rdB linked (rPortStatus 0) 0 = true ∧ rdB down (rPortStatus 0) 0 = false ∧ portRunning down 0 = true ∧
    linkUpOk slow 0 = true ∧ linkSettled slow 0 = false ∧ Canon soon ∧ linkUpOk soon 0 = true ∧ linkSettled soon 0 = true ∧
    Canon after ∧ linkUpOk after 0 = true ∧ linkSettled after 0 = true ∧ rdB held (rPortStatus 0) 11 = true ∧
    rdB held (rPortStatus 0) 0 = false ∧ smGet (fun _ => 0) held.path.linkHold 0 ≤ held.cycle ∧
    devState an = stRun ∧ portActive an 0 = true ∧ portEn an 0 = true ∧ (octetImage an 0).testBit 8 = true ∧
    mmEn mm 0 = true ∧ rdF mm (rPortStatus 0) 19 18 = 1 ∧ Canon linked := by decide +kernel

theorem wit_linkDown :
    let h := wrF linked (rLinkCfg 0) 9 0 5
    Canon linked ∧ linkHoldMs linked 0 = 0 ∧ Canon h ∧ linkHoldMs h 0 = 5 ∧ Canon (wrF linked (rPortStatus 255) 11 11 1) := by
  decide +kernel

-- Pools, frames and the path

/-- A frame held in tile 0 for one copy. -/
def frame0 : Frame :=
  { id := 0, octets := List.replicate 64 0#8, port := 0, firstPort := 0, stage := .held, charge := 1, cells := 1, len := 64 }
def copy0 : Copy := { id := 0, frame := 0, port := 0, cls := 0, queue := 0, stage := .queued, charge := 1 }
/-- The state s with frames and copies. -/
def path (s : State) (fs : List Frame) (cs : List Copy) : State :=
  { s with path := { s.path with frames := fs, copies := cs, nextFrame := 9, nextCopy := 9 } }
/-- Frame ring r running, its free or waiting descriptors 0 to n. -/
def frOn (s : State) (tx : Bool) (r n : Nat) : State :=
  wrF (setFrState (wrB s (rFr tx r 8) 0 true) tx r frRun) (rFr tx r 0x18) 16 0 n
/-- Copy 0 in the receive path of ring 0, with these buffers. -/
def hosted (s : State) (bufs : Option (List Nat)) : State :=
  let s := path s [frame0] [{ copy0 with port := 264, stage := .hostWait }]
  { s with pool := { s.pool with rx := [{ copy := 0, ring := 0, pool := 0, bufs := bufs }] } }
/-- A descriptor with FIRST, LAST and 60 octets. -/
def desc (bytes : Nat) : List Byte :=
  leBytes 8 0 ++ leBytes 8 0 ++ leBytes 8 bytes ++ leBytes 8 (2 ^ 62 + 2 ^ 61)

theorem wit_hostFrames :
    let p := pooled up 15 0
    let b := { p with pool := { p.pool with poolInit := [(15, true)] } }
    let rx := frOn (hosted up (some [0])) false 0 0
    let full := frOn (hosted up (some [0])) false 0 256
    let late := { hosted up none with cycle := 10 ^ 9 }
    let tx := frOn up true 1023 1
    let run (n : Nat) := runOf ([desc n].take (frDist tx true 1023 (txNext tx 1023) (frTail tx true 1023)))
    let w := { up with pool := { up.pool with txOut := [{ ring := 1023, first := 0, slots := 1, addr := 0, w3 := 0 }] } }
    poolEnabled p 15 = true ∧ poolEnabled b 15 = true ∧ poolBusy b 15 = true ∧
    chainOf rx 0 = some ⟨0, 0, 0, some [0]⟩ ∧ (findCopy rx 0).isSome = true ∧ (findFrame rx 0).isSome = true ∧
    devState rx = stRun ∧ frState rx false 0 = frRun ∧ 1 ≤ rxSlots rx 0 ∧
    rxWaitMax late 0 ≤ late.cycle ∧ rxSlots full 0 = 0 ∧ frameLink up 1023 = false ∧
    (300 < 2 * frSize tx true 1023 ∧ frDist tx true 1023 (frHead tx true 1023) (frTail tx true 1023) ≤
      frDist tx true 1023 (frHead tx true 1023) 300 ∧ ¬ frDist tx true 1023 (frHead tx true 1023) 300 ≤ frSize tx true 1023) ∧
    txReady tx 1023 = true ∧ run 59 ≠ [] ∧ runOk (run 59) = false ∧ run 60 ≠ [] ∧ runOk (run 60) = true ∧
    (w.pool.txOut.find? (fun x => x.ring = 1023 && x.first = 0 && !x.written)).isSome = true ∧ txGone w 1023 0 = true := by decide +kernel

/-- Receive SecY 0 on port 0 for untagged frames, VALIDATE v, its SA 0 loaded with lowest PN 2. -/
def rxSecy (v : Nat) : State :=
  let s := loadSa (wr up (rSecySa 0) (BitVec.ofNat 64 (2 ^ 14))) true 0 0 (kblock.set 24 2#8) []
  wrB (wrF s (rSecyCfg 0) 27 26 v) (rSecyCfg 0) 31 true
/-- A frame of MACsec with PN 2, or of another EtherType, just received. -/
def arrived (pn : Nat) : Frame :=
  { frame0 with stage := .mac, octets := List.replicate 12 0#8 ++ [0x88#8, 0xE5#8, 0#8, 0#8] ++ beBytes 4 pn ++ List.replicate 80 0#8 }

theorem wit_ingress :
    let s := path (rxSecy 2) [arrived 2] []
    let p := path (rxSecy 1) [{ arrived 2 with octets := List.replicate 100 0#8 }] []
    let st := path (wrB (rxSecy 1) (rSecyCfg 0) 28 true) [arrived 2] []
    let pend := path up [{ frame0 with icvPending := true }] []
    let clear := path up [{ frame0 with stage := .clear }] []
    let early : Gather := ⟨none, 0, List.replicate 1000 0#8, 64, 0, false, false, [], false, []⟩
    let early2 : Gather := ⟨none, 0, List.replicate 256 0#8, 1000, 0, false, false, [], false, []⟩
    let old := { path up [{ frame0 with stage := .reentry, stamped := true, pass := 1 }] [] with cycle := residencyMax up }
    let r : FragReq := ⟨[], [], 1, 15, 0⟩
    let fq := { up with cycle := 16, path := { up.path with fragQ := [r], frags := [⟨[], [], 0, 16⟩] } }
    rxSecyOf s 0 (arrived 2).octets = some 0 ∧ beforeStage3 (arrived 2) = true ∧
    (match (rxCheck s 0 (arrived 2).octets 96 false false []).2 with | .drop => true | _ => false) = true ∧
    (match (rxCheck s 0 (arrived 2).octets 96 false true []).2 with | .pass _ true => true | _ => false) = true ∧
    (match (rxCheck p 0 (List.replicate 100 0#8) 96 false true []).2 with | .pass _ false => true | _ => false) = true ∧
    (match (rxCheck st 0 (arrived 2).octets 96 false false []).2 with | .pending _ 0 2 false _ => true | _ => false) = true ∧
    (findFrame pend 0).map (fun f => f.icvPending) = some true ∧
    (findFrame clear 0).map (fun f => gatherReady clear f) = some true ∧ (arriving linked early).isSome = false ∧
    (arriving linked early2).isSome = true ∧
    (findFrame old 0).map (fun f => f.stamped && f.stage = .reentry && decide (0 < f.pass)
      && decide (residencyMax old ≤ old.cycle - f.firstStamp)) = some true ∧ old.path.copies = [] ∧
    fq.path.fragQ.find? (fun r => decide (r.since + 16 ≤ fq.cycle)) = some r ∧
    (fq.path.frags.find? (fun e => decide (e.expire ≤ fq.cycle))).isSome = true := by decide +kernel

/-- The state with CORE_STATUS VOQ mode. -/
def voq (s : State) : State := wrB s rCoreStatus 0 true
def deepUp (s : State) : State := wrB s rCoreStatus 2 true
/-- One frame and one copy of it at a stage. -/
def one (s : State) (st : CopyStage) : State := path s [frame0] [{ copy0 with stage := st }]

theorem wit_core :
    let f := one up .selected
    let x := one up .crossing
    let d := deepUp (voq (one up .deep))
    let l := path up [{ frame0 with complete := false }] []
    let v := voq (one linked .queued)
    let bad := path up [{ frame0 with bad := some 3 }] []
    voqMode f = false ∧ sendBusy f 0 0 = false ∧
    findFrom 8 (ptr f 2 0 0) (fun u => (fetchOf f 0 0 u).isSome && !recvBusy f u 0) = some 0 ∧ (fetchOf f 0 0 0).isSome = true ∧
    voqMode v = true ∧ (findCopy x 0).map (fun c => c.stage = .crossing && !c.cutting) = some true ∧
    (findFrame x 0).map (fun f => f.complete && !f.receiving) = some true ∧ voqMode x = false ∧
    rdB (deepUp (voq (one up .staged))) rCoreStatus 2 = true ∧
    ((deepUp (voq (one up .staged))).path.copies.find? (fun c => c.stage = .staged && copyTile (deepUp (voq (one up .staged))) c = 0
        && (findFrame (deepUp (voq (one up .staged))) c.frame).elim false (fun f => f.complete && !f.receiving))).isSome = true ∧
    rdB d rCoreStatus 2 = true ∧
    (findFrame l 0).map (fun f => !f.complete && !f.receiving && f.stage = .held) = some true ∧ voqMode l = false ∧
    portPresent v 0 = true ∧ vGet v (vKey 1 0 60) ≤ v.cycle ∧ creditEligible v 0 0 = true ∧
    (findFrame bad 0).map (fun f => f.stage = .held && f.bad = some 3) = some true := by decide +kernel

/-- The head of port 0's QT, with a launch time. -/
def launched (s : State) (l : Nat) : State :=
  path s [frame0] [{ copy0 with queue := 8, launch := some l }]

theorem wit_transmit :
    let k (s : State) := spCount (schedRow s 0)
    let elig (s : State) (q : Nat) : Bool := (!mmActive s 0 || isExpress s 0 q == true) && queueEligible s 0 q
    let a := one linked .queued
    let q8 := launched linked 0
    let lateS := { launched linked 1 with clk := { linked.clk with domA := { t := 10 ^ 12 } } }
    let u := retag a 0 0 (k a) (fun q => if queueEligible a 0 q then (queueHead a 0 q).map (·.id) else none)
      (fun q => (queueHead a 0 q).elim 0 (fun c => chargedLen (shaperRow a 0 9) (copyLen a c))) (weightOf (schedRow a 0))
    let e := path up [frame0] [{ copy0 with stage := .egress }, { copy0 with id := 1, kind := 1, stage := .egress }]
    let r := stage12 e (live e) frame0 { copy0 with stage := .egress } []
    let m (p : Nat) := path up [frame0] [{ copy0 with port := p, stage := .mac, started := true }]
    devState a = stRun ∧ portPresent a 0 = true ∧ streamFree a 0 true = true ∧ lanesIdle a 0 = false ∧
    elig a 8 = false ∧ chooseQueue u 0 0 (k a) (elig a) (committed u 0) = some 0 ∧ (queueHead a 0 0).isSome = true ∧
    streamFree q8 0 true = true ∧ elig q8 8 = true ∧ (queueHead q8 0 8).isSome = true ∧
    (queueHead lateS 0 8).map (fun c => !c.late && launchLate lateS 0 c) = some true ∧
    (findCopy e 0).map (fun c => egressReady e c) = some true ∧ (findCopy e 1).map (fun c => egressReady e c) = some true ∧
    r.octets.isSome = true ∧ lanesIdle (m 0) 0 = false ∧ lanesIdle (m 256) 256 = false ∧ portPresent (m 265) 265 = true ∧
    up.mp.mpUp = true ∧ devState up = stRun ∧ mpLineFree up true = true := by
  decide +kernel

/-- A learned entry of bridge domain 1 and address 2, last seen at clock 0. -/
def learnedIn (s : State) : State :=
  setCase s [{ loc := 0, key := fdbKey 1 2, slots := 1, result := 0, learned := true, v0 := true, v1 := true }]

theorem wit_housekeeping :
    let r : LearnReq := ⟨1, 2, 3, 0, 0⟩
    let q := { up with learn := { up.learn with learnQ := [(7, [r])], learnRr := 7 } }
    let b := { up with learn := { up.learn with rebal := [r] } }
    let age := { learnedIn (wrF up rCaseCtrl 15 0 10) with learn := { up.learn with ageClock := 10 }, cycle := 160000000 }
    let sweep := { up with forme := { up.forme with sweepRow := 2046 } }
    let asa := { up with forme := { up.forme with asa := [⟨0x0300, 5, 0, 0, true, false⟩] } }
    let pair := setClaveMode up cmPairedA
    let win := { up with ctl := { up.ctl with claveWindow := some (1, 3, 9) } }
    let sh := { setClaveState up true 2 with cycle := 160000000 }
    let mt := { up with mp := { up.mp with maintRun := [⟨7, 39, 0⟩], maintHeld := [⟨8, 0, 0⟩] } }
    findFrom 8 q.learn.learnRr (fun t => !(smGet (fun _ => []) q.learn.learnQ t).isEmpty) = some 7 ∧
    (q.learn.rebal.any (fun q => q.bd = r.bd && q.mac = r.mac)) = false ∧ b.learn.rebal = [r] ∧
    age.learn.ageAt + 100 * cyclesPerMs ≤ age.cycle ∧ (learnedFind age 1 2).map (fun e => decide (ageLimit age ≤ ageOf age e)) = some true ∧
    0 < ageLimit age ∧ stLoad ≤ devState sweep ∧ rdB sweep rAsaCtrl 0 = true ∧ sweep.forme.sweepRow ≠ 2047 ∧
    asa.forme.asa.any (fun e => e.table = 0x0300 && e.loc = 5) = true ∧ claveRuns pair false = true ∧ claveRuns pair true = true ∧
    ringState (onRing pair 63 [opEnd]) 63 = rsRun ∧ smGet (fun _ => []) pair.ctl.claveCorr 1 = [] ∧ Canon pair ∧
    win.ctl.claveWindow = some (1, 3, 9) ∧ claveMode pair = cmPairedA ∧ claveState pair false ≠ 2 ∧ claveState pair true ≠ 2 ∧
    claveMode (setClaveMode up cmDiagnosing) = cmDiagnosing ∧ claveState sh true = 2 ∧ sh.ctl.shadowSince + 160000000 ≤ sh.cycle ∧
    up.mp.mpUp = true ∧ shedThreshold up < 100 ∧ shedStep up < 3 ∧ 0 < shedStep (wrF up rMpStatus 2 1 3) ∧
    0 + 10 < shedThreshold (wrF up rMpStatus 2 1 3) ∧ State.reset.mp.mpUp = false ∧
    stTrain ≤ devState { up with mp := { up.mp with mpUp := false } } ∧
    maintEnabled mt 8 = true ∧ rdB mt rMaintCtrl (32 + 8) = false ∧ maintBlock up 8 0 = none ∧
    (maintBlock { up with mp := { up.mp with maintRun := [⟨5, 255, 0⟩] } } 5 255).isSome = true ∧
    mt.mp.maintRun.any (fun x => x.act = 7 && x.unit = 39) = true ∧
    (mt.mp.maintHeld.find? (fun x => x.act = 8 && x.unit = 0)).isSome = true ∧ hasCipher mt = true ∧ stSelftest ≤ devState mt := by
  decide +kernel

theorem wit_time2 :
    let p := wrB up (rPpsInCfg 1) 63 true
    let old := { p with cycle := 2400000000 }
    let o := { wrB up (rPpsOutCfg 1) 63 true with clk := { up.clk with domA := { t := unitsPerSec } } }
    let t := wrB (wrB (wrB up rTodCfg 63 true) rTodCfg 62 true) (rPpsOutCfg 0) 63 true
    let e : TsEntry := ⟨0, 0, 0, false, 0, true, 0⟩
    let q := { wrB up (rMpTsrBase + 8) 0 true with core := { up.core with tsq := [(301, [e, e])], tsqRr := 300 } }
    let g := wrB up (rGateStatus 255) 62 true
    let sv := { wrB up (rDomCtrl 1) 63 true with clk := { up.clk with servoFirst := [(1, true)] } }
    let k := { wrB up (rPeal 15 0x48) 0 true with clk := { up.clk with domA := { t := unitsPerSec } } }
    let post : Posting := ⟨0x0805, hwOrigin, [], 0, 0, 0, 0, 0, 0, false, 0, false, 1⟩
    let j := { wrF up rRecStatus 1 0 0 with rcd := { up.rcd with jrQ := [post], evQ := [post] } }
    let w := { up with rcd := { up.rcd with windows := [⟨0x0805, hwOrigin, [], 0, 1, post⟩] }, cycle := 10 ^ 12 }
    let h := { up with rcd := { up.rcd with opCycles := 60 * cyclesPerSec } }
    w.rcd.windows = [⟨0x0805, hwOrigin, [], 0, 1, post⟩] ∧ 0 + coalesceCycles w ≤ w.cycle ∧
    h.rcd.hoursCell + 60 * cyclesPerSec ≤ h.rcd.opCycles ∧ stSupervise ≤ devState h ∧
    ({ up with pwr := { up.pwr with bootSaving := some 1 } }).pwr.bootSaving = some 1 ∧
    rdB (wrB up rTimeStatus 3 true) rTimeStatus 3 = true ∧ hasDomB up = true ∧
    (rdB (wrB up rTimeStatus 2 true) rTimeStatus 2 = true ∧ (wrB up rTimeStatus 2 true).clk.resid = 0) ∧
    (rd p (rPpsInCfg 1)).getLsbD 63 = true ∧ (rd p (rPpsInCfg 1)).getLsbD 61 = false ∧ rdB old rTimeStatus 5 = false ∧
    smGet (fun _ => 0) old.core.ptrs (9 * 2 ^ 16 + 1) + 2400000000 ≤ old.cycle ∧
    (rd o (rPpsOutCfg 1)).getLsbD 63 = true ∧
    (((timeSel o (field (rd o (rPpsOutCfg 1)) 57 56)).1 : Int) - signedOf 32 (field (rd o (rPpsOutCfg 1)) 31 0)) % unitsPerSec <
      2 * unitsPerCycle ∧
    smGet (fun _ => 0) o.core.ptrs (9 * 2 ^ 16 + 9) ≠ (ppsSecond o 1).toNat + 1 ∧
    rdB (wrB up rRefCfg 63 true) rRefCfg 63 = true ∧ rdB up rTimeStatus 6 = false ∧
    rdB t rTodCfg 63 = true ∧ rdB t rTodCfg 62 = true ∧ rdB t (rPpsOutCfg 0) 63 = true ∧ t.mp.mpUp = true ∧
    tsqNext q true = some 301 ∧ tsqOf q 301 = [e, e] ∧ rdB q (rMpTsrBase + 8) 0 = true ∧
    (rdF q (rMpTsrBase + 0x18) 12 0 + 8192 - rdF q (rMpTsrBase + 0x10) 12 0) % 8192 ≠ 4096 ∧
    rdB g (rGateStatus 255) 62 = true ∧ smGet (fun _ => 0) g.core.gateChange 255 ≤ opNs g ∧
    rdB sv (rDomCtrl 1) 63 = true ∧ rdF sv (rDomStatus 1) 2 0 = 0 ∧ smGet (fun _ => false) sv.clk.servoFirst 1 = true ∧
    pealDue k 15 = true ∧ recState j ≠ 3 ∧ j.rcd.jrQ = [post] ∧ j.rcd.evQ = [post] ∧ j.mp.mpUp = true := by decide +kernel

/-- The device in a DEV_STATE. -/
def inState (k : Nat) : State := wrF State.reset rDevState 2 0 k

theorem wit_power :
    let m := { up with ciph := { up.ciph with loopMiss := [(1, 1)] }, pwr := { up.pwr with tamperSel := true } }
    let c := { up with pwr := { up.pwr with retired := [(cellKey 7 65535, 1)] } }
    devState State.reset = stOff ∧ State.reset.pwr.latch = 0 ∧ devState (inState stPower) = stPower ∧
    (inState stPower).pwr.stopped = false ∧ devState (inState stSupervise) = stSupervise ∧ devState (inState stSelftest) = stSelftest ∧
    devState (inState stLoad) = stLoad ∧ devState (inState stTrain) = stTrain ∧ stSupervise ≤ devState up ∧ stOff < devState up ∧
    devState (closeAllWindows up) ≠ stOff ∧ (1000 : Nat) ≤ 1000 ∧ (10000 : Nat) ≤ 10000 ∧ m.pwr.tamperSel = true ∧
    smGet (fun _ => 0) m.ciph.loopMiss 1 = 1 ∧ up.pwr.vinOk = false ∧ stSelftest ≤ devState up ∧
    smGet (fun _ => 0) c.pwr.retired (cellKey 7 65535) = 1 ∧ retiredCells c 7 < 1024 := by decide +kernel

theorem wit_resets : Canon up ∧ Canon (gal (keyed up)) ∧ ¬ keptReg false rFormeCtrl = true ∧ rFormeCtrl ≠ rDevState ∧
    rFormeCtrl ≠ rResetCause ∧ rFormeCtrl ≠ rCipherStatus ∧ rFormeCtrl ≠ rCipherMode ∧ rFormeCtrl ≠ rMirrorPermit ∧
    rFormeCtrl ≠ rTamperStatus ∧ (7 : Nat) < 8 := by decide +kernel

/-- A request on channel 7, and the channel's role. -/
def req : MbxReq := ⟨7, 0, []⟩
def asking (s : State) (role : Nat) : State := setMbxRole (wrB s (rMbxStatus 7) 1 true) 7 role 1

theorem wit_mailbox :
    let a := asking (setBoundary up bsOperational) 2
    let op : Operator := ⟨15, 2, []⟩
    let k := { a with ciph := { a.ciph with operators := [op], challenge := [(7, [1#8])] } }
    let z := setBoundary (asking up 0) bsZeroised
    let held := wrB a rKekStatus 63 true
    let c := wrB k rCipherStatus 4 true
    a.mp.mpUp = true ∧ req.channel < 8 ∧ rdB a (rMbxStatus req.channel) 1 = true ∧ req.payload.length ≤ 4088 ∧
    (List.replicate 4088 0#8 : List Byte).length ≤ 4088 ∧ boundaryUp a = true ∧
    smGet (fun _ => []) k.ciph.challenge 7 ≠ [] ∧
    operatorOf { k with ciph := { k.ciph with challenge := smSet (fun _ => []) k.ciph.challenge 7 [] } } 15 = some op ∧
    mbxRoleOf a 7 = 2 ∧ mbxRoleOf (asking up 1) 7 = 1 ∧ mbxRoleOf (asking up 0) 7 = 0 ∧ commissioned c = true ∧ mbxRoleOf c 7 = 2 ∧
    boundaryUp c = true ∧ commissioned z = false ∧ boundary z = bsZeroised ∧ operatorOf k 15 = some op ∧ hasCipher a = true ∧
    boundary a = bsOperational ∧ kekHeld a 63 = false ∧ kekHeld held 63 = true ∧ a.pwr.nv.fwMin ≤ 0 ∧
    0 < { a.pwr.nv with fwMin := 1 }.fwMin := by decide +kernel

-- Every command runs: its own effect on a small state

/-- What a command answers satisfies p. -/
def ran (c : Instr) (s : State) (p : State → Bool) : Bool :=
  match exec c s with
  | .next t => p t
  | _ => false

/-- An instruction of ring n completes with OK and the state satisfies p. -/
def done (n : Nat) (c : Instr) (s : State) (p : State → Bool) : Bool :=
  ran c s (fun t => (rt t n).lastOk == some true && (rt t n).waiting.isNone && p t)

theorem run_endProg : ran (.endProg 0 (bare opEnd)) (at0 opEnd) (fun t => crHead t 0 = 1 && t.ctl.isn = 2) = true := by decide +kernel
theorem run_note : done 0 (.note 0 (Ins.make opNote 0 1 2 3)) (at0 opNote) (fun t => t.rcd.evQ.length = 1) = true := by decide +kernel
theorem run_skipif : done 0 (.skipif 0 (Ins.make opSkipif 4 1 0 0))
    (let s := onRing up 0 [opSkipif, opNote, opEnd]; setRt s 0 { rt s 0 with lastOk := some true }) (fun t => crHead t 0 = 2) = true := by
  decide +kernel
/-- R190: the record of an opcode above 127 does not read 0x00, which R95's record keeps. -/
theorem test_recOpcode (n : Nat) (h : n ≠ 0) : recOpcode n ≠ 0 := by
  unfold recOpcode; split <;> omega
theorem run_unlistedOpcode : ran (.unlistedOpcode 0 255 (bare 255)) (at0 255)
    (fun t => (rt t 0).records.map (fun r => (r.isn, r.status)) = [(1, statusCode .eCheck), (2, statusCode .eAbort)]) = true := by
  decide +kernel
theorem run_zeroOpcode : ran (.unlistedOpcode 0 0 (bare 0)) (at0 0)
    (fun t => (rt t 0).records.map (fun r => (r.isn, r.status, r.opcode)) = [(1, statusCode .eAbort, 0)]) = true := by decide +kernel
theorem run_quoin : done 0 (.quoin 0 (bare opQuoin)) (at0 opQuoin) (fun _ => true) = true := by decide +kernel
theorem run_quoinW : done 0 (.quoinW 0 (Ins.make opQuoin 4 0 0 0)) (at0 opQuoin) (fun _ => true) = true := by decide +kernel
theorem run_quoinC : done 0 (.quoinC 0 (Ins.make opQuoin 8 0 0 0)) (at0 opQuoin) (fun t => captureFree t 1 == false) = true := by
  decide +kernel
theorem run_quoinT : done 0 (.quoinT 0 (Ins.make opQuoin 12 0 0 0)) (at0 opQuoin) (fun t => captureFree t 1) = true := by decide +kernel
theorem run_quoinX : done 0 (.quoinX 0 (Ins.make opQuoin 16 0 0 0)) (at0 opQuoin) (fun t => captureFree t 1 == false) = true := by
  decide +kernel

/-- Ring 0 owns an open galley and is about to issue one instruction. -/
def galAt (op : Nat) : State := gal (at0 op)

theorem run_gopen : done 0 (.gopen 0 (bare opGopen)) (at0 opGopen) (fun t => galleyState t = gsOpen && galleyOwner t = 0) = true := by
  decide +kernel
theorem run_tw : done 0 (.tw 0 (Ins.make opTw 0 0x620 5 0) (some (List.replicate 64 0#8))) (galAt opTw)
    (fun t => t.forme.galley = [⟨0x620, 5, 0, false, 0⟩]) = true := by decide +kernel
theorem run_td : done 0 (.td 0 (Ins.make opTd 0 0x620 5 0) (some [])) (galAt opTd) (fun t => t.forme.galley.length = 1) = true := by
  decide +kernel
theorem run_tm : done 0 (.tm 0 (Ins.make opTm 0 0x620 5 0) (some (List.replicate 128 0#8))) (galAt opTm)
    (fun t => t.forme.galley = [⟨0x620, 5, 0, false, 0⟩]) = true := by decide +kernel
theorem run_lock : ran (.lock 0 (bare opLock)) (galAt opLock)
    (fun t => galleyState t = gsPending && (rt t 0).waiting.isSome && t.forme.pendLock.isSome) = true := by decide +kernel
theorem run_lockat : ran (.lockat 0 (bare opLockat) (some (leBytes 8 5 ++ leBytes 8 0))) (galAt opLockat)
    (fun t => galleyState t = gsPending && (rt t 0).waiting.isNone && t.forme.pendLock.isSome) = true := by decide +kernel
theorem run_lockatPast : ran (.lockat 0 (bare opLockat) (some (List.replicate 16 0#8)))
    { galAt opLockat with clk := { up.clk with domA := { t := 65536 } } }
    (fun t => galleyState t = gsOpen && ((rt t 0).records.map (fun r => r.status)).head? == some (statusCode .eTimePast)) = true := by
  decide +kernel
theorem run_gdrop : done 0 (.gdrop 0 (bare opGdrop)) (galAt opGdrop) (fun t => galleyState t = gsNone) = true := by decide +kernel
theorem run_gdropPending : done 0 (.gdrop 0 (bare opGdrop)) (let s := onRing (pending true 0) 0 [opGdrop, opEnd]; { s with ctl := { s.ctl with isn := 5 } })
    (fun t => galleyState t = gsNone && t.forme.pendLock.isNone) = true := by decide +kernel
theorem run_trd : done 0 (.trd 0 (Ins.make opTrd 0 0x620 0 16) true []) (at0 opTrd) (fun t => t.out.length = 1) = true := by decide +kernel
theorem run_trdKeyBad : ran (.trd 0 (Ins.make opTrd 0 0x200 (2 ^ 31) 16) true [List.replicate 16 255#8]) (at0 opTrd)
    (fun t => ((rt t 0).records.map (fun r => r.status)).head? == some (statusCode .eCheck) && t.out.isEmpty) = true := by decide +kernel

theorem run_rw : done 0 (.rw 0 (Ins.make opRw 0 0 rFormeCtrl 5) noEnv) (at0 opRw) (fun t => rd t rFormeCtrl = 5#64) = true := by
  decide +kernel
/-- R7's own example: selecting domain B on the HC. -/
theorem run_rwAbsent : ran (.rw 0 (Ins.make opRw 0 0 rTimeCtrl 1) noEnv) { at0 opRw with variant := .hc }
    (fun t => ((rt t 0).records.map (fun r => r.status)).head? == some (statusCode .eAbsent) && !rdB t rTimeCtrl 0) = true := by
  decide +kernel
theorem run_rrd : done 0 (.rrd 0 (Ins.make opRrd 0 0 rFormeCtrl 16) true) (at0 opRrd) (fun t => t.out.length = 1) = true := by
  decide +kernel
theorem run_rrdOperand : ran (.rrd 0 (Ins.make opRrd 0 0 rFormeCtrl 16) false) (at0 opRrd)
    (fun t => t.out.isEmpty && (t.rcd.evQ.map (fun p => p.code)).head? == some 0x4921) = true := by decide +kernel
theorem run_rmw : done 0 (.rmw 0 (Ins.make opRmw 0 0 rFormeCtrl 0) (some (leBytes 8 0xF0 ++ leBytes 8 0xFF)) noEnv)
    (wr (at0 opRmw) rFormeCtrl 5#64) (fun t => rd t rFormeCtrl = 0xF5#64) = true := by decide +kernel

theorem run_csnap : done 0 (.csnap 0 (Ins.make opCsnap 0 0x0804 0 16) true) (at0 opCsnap) (fun t => t.out.length = 1) = true := by
  decide +kernel
theorem run_crd : done 0 (.crd 0 (Ins.make opCrd 0 0x0804 0 16) true) (at0 opCrd) (fun t => t.out.length = 1) = true := by decide +kernel
/-- A CRD of two units reads the second in the next cycle. -/
theorem run_crdTwo : ran (.crd 0 (Ins.make opCrd 0 0x0804 (2 ^ 20) 16) true) (at0 opCrd)
    (fun t => (rt t 0).waiting.isSome && ((rt (crdPoll t 0) 0).lastOk == some true)) = true := by decide +kernel
theorem run_cclr : done 0 (.cclr 0 (Ins.make opCclr 0 0x0806 0 0)) (setCtr (at0 opCclr) (ctrKey 0x0806 0 0) 7)
    (fun t => ctr t (ctrKey 0x0806 0 0) = 0) = true := by decide +kernel

/-- Ring 60, of the MP, about to issue one instruction. -/
def mpAt (op : Nat) : State := onRing up 60 [op, opEnd]

theorem run_waitt : done 60 (.waitt 60 (bare opWaitt) (some (List.replicate 16 0#8))) (mpAt opWaitt) (fun _ => true) = true := by
  decide +kernel
theorem run_waittWaits : ran (.waitt 60 (bare opWaitt) (some (leBytes 8 9 ++ leBytes 8 0))) (mpAt opWaitt)
    (fun t => (rt t 60).waiting.isSome) = true := by decide +kernel
theorem run_waittTimeReached : done 0 (.waittTimeReached 0)
    (let s := at0 opWaitt; setRt s 0 { rt s 0 with waiting := some ⟨1, opWaitt, 0, .waitt 0 0 false⟩ }) (fun _ => true) = true := by
  decide +kernel
theorem run_tset : done 60 (.tset 60 (bare opTset) (some (leBytes 8 7 ++ leBytes 8 0))) (mpAt opTset)
    (fun t => (domOf t 0).t = 7 * unitsPerSec && domGen t 0 = 1) = true := by decide +kernel
theorem run_tadjStep : done 60 (.tadjStep 60 (Ins.make opTadj 0 0 0 65536)) (mpAt opTadj) (fun t => (domOf t 0).t = 65536) = true := by
  decide +kernel
theorem run_tadjSlew : done 60 (.tadjSlew 60 (Ins.make opTadj 4 0 0 65536)) (mpAt opTadj) (fun t => (domOf t 0).slew = 65536) = true := by
  decide +kernel
theorem run_tadjFreq : done 60 (.tadjFreq 60 (Ins.make opTadj 8 0 0 32768000000)) (mpAt opTadj)
    (fun t => rd t (rDomFreq 0) = 32768000000#64) = true := by decide +kernel

/-- Ring 0 and a pool of 16 buffers whose first entries are as given. -/
def poolAt (op : Nat) (ledger : List (Nat × Nat)) : State :=
  { pooled (at0 op) 0 0 with pool := { up.pool with ledger := ledger } }

theorem run_palloc : done 0 (.palloc 0 (Ins.make opPalloc 0 0x0C00 0 16) true) (poolAt opPalloc [])
    (fun t => t.out.length = 1 && t.fresh = 1) = true := by decide +kernel
theorem run_pallocWaits : ran (.palloc 0 (Ins.make opPalloc 0 0x0C00 (2 ^ 17) 16) true)
    (poolAt opPalloc ((List.range 16).map (fun e => (e, leMake 0 1 lsInUse)))) (fun t => (rt t 0).waiting.isSome && (poolFifo t 0).length = 1) = true := by
  decide +kernel
theorem run_pallocTimeout : ran (.pallocTimeout 0)
    (let s := poolAt opPalloc []; setRt s 0 { rt s 0 with waiting := some ⟨1, opPalloc, 0, .palloc 0 0 0⟩ })
    (fun t => ((rt t 0).records.map (fun r => r.status)).head? == some (statusCode .eTimeout)) = true := by decide +kernel
theorem run_pfree : done 0 (.pfree 0 (Ins.make opPfree 0 0 0 0)) (poolAt opPfree [(0, leMake 0 1 lsInUse)]) (fun t => ledger t 0 = 0) = true := by
  decide +kernel
theorem run_pref : done 0 (.pref 0 (Ins.make opPref 0 0 0 0)) (poolAt opPref [(0, leMake 0 1 lsInUse)])
    (fun t => leRefs (ledger t 0) = 2) = true := by decide +kernel

theorem run_kload : done 60 (.kload 60 (bare opKload) (some kblock) (some [7#8])) (user opKload)
    (fun t => saState t false 0 = saLoaded && t.ciph.saKeys.length = 1) = true := by decide +kernel
theorem run_kzeroSa : done 60 (.kzeroSa 60 (bare opKzero)) (keyed (user opKzero)) (fun t => t.ciph.saKeys.isEmpty) = true := by decide +kernel
theorem run_kzeroKek : done 0 (.kzeroKek 0 (Ins.make opKzero 4 0 0 0)) (keyed (officer opKzero)) (fun t => !kekHeld t 0) = true := by
  decide +kernel
theorem run_kzeroSaAll : done 60 (.kzeroSaAll 60 (Ins.make opKzero 8 0 0 0)) (keyed (user opKzero)) (fun t => t.ciph.saKeys.isEmpty) = true := by
  decide +kernel
theorem run_kzeroAll : ran (.kzeroAll 0 (Ins.make opKzero 12 0 0 0x5A45524F)) (keyed (officer opKzero))
    (fun t => t.ciph.saKeys.isEmpty && boundary t = bsZeroised) = true := by decide +kernel
theorem run_sasw : ran (.sasw 60 (bare opSasw) (some (List.replicate 16 0#8))) (keyed (user opSasw)) (fun t => t.ctl.sasws.length = 1) = true := by
  decide +kernel
theorem run_saSwitch : ran .saSwitch (let s := keyed (user opSasw); { s with ctl := { s.ctl with sasws := [⟨1, 60, 0, 0, 0, false, 0, 0, 0, false, false⟩] } })
    (fun t => t.ctl.sasws.isEmpty && saState t false 0 = saCurrent) = true := by decide +kernel
theorem run_saRetire : ran (.saRetire 16383) (setSaState up true 16383 saRetiring) (fun t => saState t true 16383 = saRetired) = true := by
  decide +kernel
theorem run_secyTxCurWrite : ran (.secyTxCurWrite 0 (BitVec.ofNat 64 (2 ^ 14))) (keyed up)
    (fun t => saState t false 0 = saCurrent && rd t (rTxCur 0) = BitVec.ofNat 64 (2 ^ 14)) = true := by decide +kernel
theorem run_cipherModeWrite : ran (.cipherModeWrite 1 1#64) (wrB (setBoundary (keyed up) 1) rCipherStatus 4 true)
    (fun t => approved t && t.ciph.saKeys.isEmpty) = true := by decide +kernel

theorem run_ringDoorbell : ran (.ringDoorbell 0 ⟨false, false, 0, 8, 2⟩ [opNote, opEnd]) (onRing up 0 [])
    (fun t => crTail t 0 = 2 && (rt t 0).slots = [opNote, opEnd] && !rdB t (rCrStatus 0) 3) = true := by decide +kernel
/-- The value is taken modulo twice the ring size (R54): 2 · 256 + 2. -/
theorem run_doorbellModulo : ran (.ringDoorbell 0 ⟨false, false, 0, 8, 514⟩ [opNote, opEnd]) (onRing up 0 [])
    (fun t => crTail t 0 = 2 && (rt t 0).slots = [opNote, opEnd]) = true := by decide +kernel
theorem run_doorbellFar : ran (.ringDoorbell 0 ⟨false, false, 0, 8, 257⟩ []) (onRing up 0 [])
    (fun t => crTail t 0 = 0 && rdB t (rCrStatus 0) 3) = true := by decide +kernel
theorem run_ringFetchErr : ran (.ringFetchErr 0) (at0 opEnd) (fun t => ringState t 0 = rsStopped && rdB t (rCrStatus 0) 1) = true := by
  decide +kernel
theorem run_cqHeadWrite : ran (.cqHeadWrite 0 ⟨false, false⟩ 1#64) (recorded 1) (fun t => cqHead t 0 = 1) = true := by decide +kernel
theorem run_completionRecordWrite : ran (.completionRecordWrite 0) (recorded 255)
    (fun t => cqTail t 0 = 256 && (rt t 0).records.isEmpty && t.out.length = 1) = true := by decide +kernel
/-- R69: a record due when its ring stopped is still written. -/
theorem run_recordAfterStop : ran (.completionRecordWrite 0) (wrF (recorded 0) (rCrStatus 0) 10 8 rsStopped)
    (fun t => cqTail t 0 = 1 && (rt t 0).records.isEmpty) = true := by decide +kernel
theorem run_cqErr : ran (.cqErr 0) (recorded 255) (fun t => ringState t 0 = rsStopped && (rt t 0).cqDead) = true := by decide +kernel
theorem run_cqStall : ran (.cqStall 0) { recorded 256 with cycle := 1600001 }
    (fun t => (rt t 0).stallPosted && t.rcd.evQ.length = 1) = true := by decide +kernel
theorem run_crEnable : ran (.crEnable 0 ⟨false, false⟩ 0#64) up (fun t => ringEnabled t 0 && ringState t 0 ≠ rsDisabled) = true := by decide +kernel
theorem run_crDisable : ran (.crDisable 0 ⟨false, false⟩ 1#64) (onRing up 0 []) (fun t => !ringEnabled t 0 && ringState t 0 = rsDisabled) = true := by
  decide +kernel
/-- R92: a ring that waits for room of its completion ring aborts the instruction that waits. -/
theorem run_crAbort : ran (.crAbort 0 ⟨false, false⟩ 1#64) (at0 opNote)
    (fun t => (rt t 0).slots.isEmpty && ((rt t 0).records.map (fun r => r.status)) = [statusCode .eAbort]) = true := by decide +kernel
theorem run_crReset : ran (.crReset 0 ⟨false, false⟩ 0#64) (at0 opNote) (fun t => rt t 0 = {} && crTail t 0 = 0) = true := by decide +kernel

theorem run_galleyTimeout : ran .galleyTimeout (gal { up with cycle := 10 ^ 13 }) (fun t => galleyState t = gsNone && t.rcd.evQ.length = 1) = true := by
  decide +kernel
theorem run_impositionStart : ran .impositionStart { pending false 0 with forme := { (pending false 0).forme with galley := [⟨0x620, 1, 0, false, 7⟩] } }
    (fun t => pendPhase t = 1 && t.forme.formeTodo.length = 1) = true := by decide +kernel
theorem run_impositionFail : ran .impositionFail { pending false 1 with forme := { (pending false 1).forme with impFail := some (.eFormeFull, 0x200, 0, 0) } }
    (fun t => galleyState t = gsOpen && t.forme.pendLock.isNone) = true := by decide +kernel
theorem run_impositionComplete : ran .impositionComplete { pending false 1 with forme := { (pending false 1).forme with formeTodo := [.syncRow 0x620 0 false] } }
    (fun t => pendPhase t = 2 && t.forme.formeTodo.isEmpty) = true := by decide +kernel
theorem run_lockup : ran .lockup (pending false 2) (fun t => live t && prevState t = 1 && rd t rFormeGen = 1#64) = true := by decide +kernel
theorem run_lockatTime : ran .lockatTime (pending true 2) (fun t => live t && galleyState t = gsNone) = true := by decide +kernel
theorem run_lockMissed : ran .lockMissed (pending true 1) (fun t => galleyState t = gsOpen && !live t && t.rcd.evQ.length ≠ 0) = true := by
  decide +kernel
theorem run_drainEnd : ran .drainEnd (setPrev up 1) (fun t => prevState t = 2) = true := by decide +kernel
theorem run_catchUpEnd : ran .catchUpEnd (setTodo (setPrev (setRow up true 0x620 3 7) 2) [.syncRow 0x620 3 false])
    (fun t => prevState t = 0 && row t false 0x620 3 = 7) = true := by decide +kernel
theorem run_writeGateForme : ran (.writeGateWrite true noEnv) (setTodo (setRow up true 0x620 3 7) [.syncRow 0x620 3 false])
    (fun t => row t false 0x620 3 = 7 && t.forme.formeTodo.isEmpty) = true := by decide +kernel
theorem run_writeGateRegister : ran (.writeGateWrite false noEnv) { up with ctl := { up.ctl with gateQ := [⟨rFormeCtrl, BitVec.allOnes 64, 5#64, 0xFFF, 0, noEnv⟩] } }
    (fun t => rd t rFormeCtrl = 5#64 && t.ctl.gateQ.isEmpty) = true := by decide +kernel

theorem run_registerWrite : ran (.registerWrite (hostWrite false rFormeCtrl 5#64) noEnv) up (fun t => rd t rFormeCtrl = 5#64) = true := by
  decide +kernel
/-- R1010 over link 1 of a bifurcated host: KEY_ERR, and ACCESS_ADDR names the link (Table 16.5). -/
theorem run_wrongKey : ran (.warmReset (hostWrite true rDevCtrl 2#64)) { up with host := { up.host with bifNow := true } }
    (fun t => rdB t rAccessStatus 3 && rdB t rAccessAddr 56 && devState t = stRun) = true := by decide +kernel
theorem run_warmReset : ∃ t, exec (.warmReset (hostWrite false rDevCtrl (BitVec.ofNat 64 (0x5741524D * 2 ^ 32 + 2)))) (galAt opNote) = .next t := ⟨_, rfl⟩
theorem run_start : ∃ t, exec (.start (hostWrite false rDevCtrl 1#64)) (wrF up rDevState 2 0 stHold) = .next t := ⟨_, rfl⟩
theorem run_bootSave : ran (.bootSave (hostWrite false rBootCtrl (BitVec.ofNat 64 (0x53415645 * 2 ^ 32 + 1)))) (wr up rFormeGen 1#64)
    (fun t => t.pwr.bootSaving.isSome) = true := by decide +kernel
theorem run_ctrlReset : ran (.ctrlReset (hostWrite false rClaveCtrl 4#64)) (at0 opNote) (fun t => (rt t 0).slots.isEmpty && claveMode t = cmResetting) = true := by
  decide +kernel
theorem run_mbxGoBusy : ran (.mbxGoBusy (hostWrite false (rMbxCtrl 7) 1#64)) (wrB up (rMbxStatus 7) 1 true) (fun t => rdB t (rMbxStatus 7) 3) = true := by
  decide +kernel
theorem run_irqRearm : ran (.irqRearm (hostWrite false rIrqCtrl 1#64)) up (fun t => t.ctl.gateOut = 1) = true := by decide +kernel
theorem run_recorderRetry : ran (.recorderRetry false 0#64 true) (wrF up rRecStatus 1 0 1) (fun t => recState t = 0) = true := by decide +kernel
theorem run_portReset : ran (.portReset false 255 0#64) (wrB up (rPortStatus 255) 0 true) (fun t => !rdB t (rPortStatus 255) 0) = true := by
  decide +kernel
theorem run_adminDown : ran (.adminDown false 255 0#64) (wrB up (rPortStatus 255) 0 true)
    (fun t => !rdB t (rPortStatus 255) 0 && rdB t (rPortCfg 255) 18) = true := by decide +kernel
/-- Both bits in one write: the port is down and stays down. -/
theorem run_resetAndDown : ran (.portReset false 255 (fieldMask 18 18)) (wrB up (rPortStatus 255) 0 true)
    (fun t => !rdB t (rPortStatus 255) 0 && rdB t (rPortCfg 255) 18) = true := by decide +kernel
theorem run_opDomainWrite : ran (.opDomainWrite false 1#64) up (fun t => rdB t rTimeStatus 3) = true := by decide +kernel
theorem run_opDomainAbsent : ran (.opDomainWrite false 1#64) { up with variant := .hc } (fun t => !rdB t rTimeStatus 3 && !rdB t rTimeCtrl 0) = true := by
  decide +kernel
theorem run_stormMeterWrite : ran (.stormMeterWrite false 255 2 (fieldMask 32 32)) up (fun t => rd t (rStorm 255 2) = fieldMask 32 32) = true := by
  decide +kernel
theorem run_globalReserveWrite : ran (.globalReserveWrite false (BitVec.ofNat 64 (2 ^ 32))) up (fun t => globalReserve t = 1) = true := by decide +kernel
theorem run_globalReserveReject : ran (.globalReserveWrite false (fieldMask 48 32)) up
    (fun t => globalReserve t = globalReserve up && rdB t rCoreStatus 1) = true := by decide +kernel
theorem run_caseSeedWrite : ran (.caseSeedWrite false 3 5#64) up (fun t => rd t (rCaseSeed 3) = 5#64) = true := by decide +kernel
theorem run_learnFlush : ran (.learnFlush false 0#64) up (fun t => t.learn.flushQ.length = 1) = true := by decide +kernel
theorem run_fragFlush : ran (.fragFlush false 1#64) { up with path := { up.path with frags := [⟨[], [], 0, 16⟩] } }
    (fun t => t.path.frags.isEmpty) = true := by decide +kernel
theorem run_pealEnable : ran (.pealEnable false 15 (BitVec.ofNat 64 (2 ^ 16 + 2 ^ 36)) (some [0x0805 * 2 ^ 48]))
    (wr (wrF up (rPeal 15 0x18) 39 0 1000000000) (rPeal 15 0x30) (BitVec.ofNat 64 (2 ^ 32 + 1))) (fun t => pealEnabled t 15 && rdB t (rPeal 15 0x48) 0) = true := by decide +kernel
theorem run_pealUnreadable : ran (.pealEnable false 15 0#64 none) up (fun t => !pealEnabled t 15 && rdB t (rPeal 15 0x48) 1) = true := by
  decide +kernel
theorem run_pealDisable : ran (.pealDisable false 15 0#64) (wrB up (rPeal 15 0) 63 true) (fun t => !pealEnabled t 15) = true := by decide +kernel
theorem run_mirrorSampleWrite : ran (.mirrorSampleWrite false 15 5#64) { up with mp := { up.mp with mirrorCount := [(15, 3)] } }
    (fun t => rd t (rMirrorSample 15) = 5#64 && t.mp.mirrorCount.isEmpty) = true := by decide +kernel
theorem run_perfEvselWrite : ran (.perfEvselWrite (hostWrite false (rPerf 42 0x78) 5#64)) up (fun t => rd t (rPerf 42 0x78) = 5#64) = true := by
  decide +kernel
theorem run_poolEnable : ran (.poolEnable false 15 (BitVec.ofNat 64 (16 + 2 ^ 52))) up (fun t => poolEnabled t 15) = true := by decide +kernel
theorem run_poolReject : ran (.poolEnable false 15 0#64) up (fun t => !poolEnabled t 15 && rdB t (rPoolStatus 15) 61) = true := by decide +kernel
theorem run_poolDisable : ran (.poolDisable false 15 0#64) (pooled up 15 0) (fun t => !poolEnabled t 15) = true := by decide +kernel
theorem run_rxRingEnable : ran (.rxRingEnable false 1023 1#64) (pooled up 0 0)
    (fun t => rdB t (rFr false 1023 8) 0 && frState t false 1023 = frRun) = true := by decide +kernel
theorem run_txRingEnable : ran (.txRingEnable false 1023 1#64) up (fun t => rdB t (rFr true 1023 8) 0 && frState t true 1023 = frRun) = true := by
  decide +kernel

theorem run_rsRead : ran (.rsRead ⟨false, 0, rDevState, 8, false⟩) up
    (fun t => t.out = [.readData false rDevState (rd up rDevState)]) = true := by decide +kernel
/-- R999: a doorbell reads CR_TAIL of its ring. -/
theorem run_doorbellRead : ran (.rsRead ⟨false, 0, 0, 8, true⟩) (at0 opNote) (fun t => t.out = [.readData false 0 2#64]) = true := by decide +kernel
theorem run_opTimeRead : ran (.opTimeRead ⟨false, 0, rOpTime0, 8, false⟩) { up with clk := { up.clk with domA := { t := 3 * unitsPerSec } } }
    (fun t => t.out = [.readData false rOpTime0 3#64]) = true := by decide +kernel
theorem run_narrowReadLow : ran (.narrowReadLow ⟨false, 0, rDevState, 4, false⟩) up (fun t => smFind t.host.latch 0 == some (rDevState, (rd up rDevState).toNat / 2 ^ 32)) = true := by
  decide +kernel
theorem run_bar0BadRead : ran (.bar0BadRead ⟨false, 0, 1, 3, false⟩) up (fun t => t.out = [.readData false 1 0#64] && rdB t rAccessStatus 0) = true := by
  decide +kernel

def good (e op : Nat) : RxFrame := { octets := oct e op ++ leBytes 4 (crc32 (oct e op)), fcsErr := false, codeErr := false, rxTime := 0 }

theorem run_frameReceive : ran (.frameReceive 0 (good 0x0800 0)) linked (fun t => t.path.frames.map (fun f => (f.port, f.octets.length)) = [(0, 68)]) = true := by
  decide +kernel
/-- R313: an mPacket with an unknown SMD brings no frame. -/
theorem run_smdErr : ran (.frameReceive 0 { good 0x0800 0 with mac := .smdErr }) (wrB linked (rMmCfg 0) 31 true)
    (fun t => t.path.frames.isEmpty) = true := by decide +kernel
theorem run_pfcFrameReceive : ran (.pfcFrameReceive 0 (good 0x8808 0x0101)) (fc 2) (fun t => t.path.frames.isEmpty) = true := by decide +kernel
theorem run_pauseFrameReceive : ran (.pauseFrameReceive 0 { good 0x8808 0x0001 with octets := (oct 0x8808 0x0001).take 16 ++ beBytes 2 9 ++ List.replicate 50 0#8 }) (fc 1)
    (fun t => t.path.frames.isEmpty && smGet (fun _ => 0) t.path.holds 8 ≠ 0) = true := by decide +kernel
theorem run_pauseHoldExpire : ran (.pauseHoldExpire 0 8) { linked with path := { up.path with holds := [(8, 1)] }, cycle := 1 }
    (fun t => t.path.holds.isEmpty) = true := by decide +kernel

/-- Frame 0 held for port 0 with a charge that passes XOFF, XOFF_STATE as given. -/
def loaded (xoff : Bool) (charge : Nat) : State :=
  let x := setRow (fc 2) false 0x630 0 0
  wrF { x with path := { x.path with frames := [{ id := 0, octets := [], port := 0, firstPort := 0, stage := .held, charge := charge }] } }
    (rPortStatus 0) 32 32 (b2n xoff)

theorem run_xoffSend : ran (.xoffSend 0 0) (loaded false 5) (fun t => txXoff t 0 0 && t.out.length = 1) = true := by decide +kernel
theorem run_xoffRefresh : ran (.xoffRefresh 0 0) (let s := loaded true 5; { s with cycle := 10 ^ 10, path := { s.path with xoff := [(0, 1)] } })
    (fun t => txXoff t 0 0 && t.out.length = 1) = true := by decide +kernel
theorem run_xonSend : ran (.xonSend 0 0) (loaded true 0) (fun t => !txXoff t 0 0 && t.out.length = 1) = true := by decide +kernel

def lost : State := wrB linked (rPortStatus 0) 0 false

theorem run_linkDown : ran (.linkDown 0 2) linked (fun t => !rdB t (rPortStatus 0) 0 && rdF t (rPortStatus 0) 10 9 = 2) = true := by decide +kernel
theorem run_linkUp : ran (.linkUp 0) (wrF lost (rLinkCfg 0) 23 16 0) (fun t => rdB t (rPortStatus 0) 0 && smGet (fun _ => 0) t.path.txSide 0 = 2) = true := by
  decide +kernel
theorem run_linkSettles : ran (.linkUp 0) (wrF lost (rLinkCfg 0) 23 16 10) (fun t => !rdB t (rPortStatus 0) 0 && t.path.settleAt.length = 1) = true := by
  decide +kernel
theorem run_linkHoldExpire : ran (.linkHoldExpire 0) (wrB lost (rPortStatus 0) 11 true) (fun t => !rdB t (rPortStatus 0) 11) = true := by
  decide +kernel
theorem run_anFail : ran (.anFail 0 7) (wrB (setRow up false 0x600 0 (1 + 2 ^ 16 + 2 ^ 8)) (rPortStatus 0) 0 false)
    (fun t => rdB t (rPortStatus 0) 16 && rdB t (rPortEvents 0) 6) = true := by decide +kernel

/-- Port 0 verifying MAC merge, n attempts made. -/
def verifying (n : Nat) : State :=
  let s := wrF (wrB linked (rMmCfg 0) 31 true) (rPortStatus 0) 19 17 2
  { s with path := { s.path with mmTry := [(0, (n, 0))] }, cycle := 10 ^ 12 }

theorem wit_verify : mmEn (verifying 3) 0 = true ∧ rdF (verifying 3) (rPortStatus 0) 19 18 = 1 ∧
    smGet (fun _ => (0, 0)) (verifying 3).path.mmTry 0 = (3, 0) ∧ max (rdF (verifying 3) (rMmCfg 0) 15 8) 1 * cyclesPerMs ≤ (verifying 3).cycle := by
  decide +kernel
theorem run_mmVerifyFail : ran (.mmVerifyFail 0) (verifying 3) (fun t => rdF t (rPortStatus 0) 19 17 = 6) = true := by decide +kernel
theorem run_mmVerifyResponse : ran (.mmVerifyResponse 0) (verifying 1) (fun t => mmActive t 0) = true := by decide +kernel

theorem run_poolFault : ran (.poolFault 15 7) (pooled up 15 0) (fun t => poolFaulted t 15) = true := by decide +kernel
theorem run_poolInitDone : ran (.poolInitDone 15) (let p := pooled up 15 0; { p with pool := { p.pool with poolInit := [(15, true)] } })
    (fun t => !poolBusy t 15) = true := by decide +kernel
theorem run_hostRxDeliver : ran (.hostRxDeliver 0) (frOn (hosted up (some [0])) false 0 0)
    (fun t => t.path.copies.isEmpty && t.pool.rx.isEmpty && t.out.length ≠ 0 && frTail t false 0 = 1) = true := by decide +kernel
theorem run_rxWaitExpire : ran (.rxWaitExpire 0) { hosted up none with cycle := 10 ^ 9 } (fun t => t.path.copies.isEmpty && rd t (rRxDrop 0 0) = 1#64) = true := by
  decide +kernel
theorem run_rxDoorbell : ran (.rxDoorbell 1023 ⟨false, false, 0, 8, 1⟩) (frOn up false 1023 1) (fun t => frHead t false 1023 = 1) = true := by
  decide +kernel
theorem run_txDoorbell : ran (.txDoorbell 1023 ⟨false, false, 0, 8, 256⟩) (frOn up true 1023 0) (fun t => frTail t true 1023 = 256) = true := by
  decide +kernel
theorem run_txDoorbellFar : ran (.txDoorbell 1023 ⟨false, false, 0, 8, 257⟩) (frOn up true 1023 0)
    (fun t => frTail t true 1023 = 0 && rdB t (rFr true 1023 0x20) 9) = true := by decide +kernel
theorem wit_txServed : txServed (frOn up true 1023 1) 1023 = true ∧ stHold ≤ devState up ∧ frameLink up 1023 = false := by decide +kernel
theorem run_txFrameFetch : ran (.txFrameFetch 1023 [desc 60] (List.replicate 60 0#8)) (frOn up true 1023 1)
    (fun t => t.path.frames.map (fun f => (f.port, f.octets.length)) = [(264, 64)]) = true := by decide +kernel
theorem run_txFrameRefused : ran (.txFrameFetch 1023 [desc 59] (List.replicate 59 0#8)) (frOn up true 1023 1)
    (fun t => t.path.frames.isEmpty && t.pool.txOut.length = 1) = true := by decide +kernel
theorem run_txWriteBack : ran (.txWriteBack 1023 0) { up with pool := { up.pool with txOut := [{ ring := 1023, first := 0, slots := 1, addr := 0, w3 := 0 }] } }
    (fun t => t.out.length = 1) = true := by decide +kernel
theorem run_ringDmaFault : ran (.ringDmaFault true 1023 9 [desc 60]) (frOn up true 1023 1) (fun t => frState t true 1023 = frStopped) = true := by
  decide +kernel
theorem run_ringDmaFaultRx : ran (.ringDmaFault false 0 9 []) (frOn (hosted up (some [0])) false 0 0)
    (fun t => frState t false 0 = frStopped && t.path.copies.isEmpty) = true := by decide +kernel

theorem wit_stage3 : stage3Turn (path (rxSecy 2) [arrived 2] []) (arrived 2) = true ∧
    stage3Turn (path (rxSecy 2) [arrived 2, { arrived 2 with id := 1 }] []) { arrived 2 with id := 1 } = false := by decide +kernel
theorem run_receiveSecyCheck : ran (.receiveSecyCheck 0 true [1#8]) (path (rxSecy 2) [arrived 2] [])
    (fun t => t.path.frames.map (fun f => (f.stage, f.decrypted)) = [(.clear, true)]) = true := by decide +kernel
theorem run_receiveSecyDrop : ran (.receiveSecyCheck 0 false []) (path (rxSecy 2) [arrived 2] []) (fun t => t.path.frames.isEmpty) = true := by
  decide +kernel
theorem run_stompIcvDecided : ran (.stompIcvDecided 0 true) (path up [{ frame0 with icvPending := true }] [copy0])
    (fun t => t.path.frames.map (fun f => f.icvPending) = [false]) = true := by decide +kernel

/-- What releases frame 0. -/
def rel : Gather := { frame := some 0, port := 0, octets := [], length := 0, rxTime := 0, slipA := false, slipB := false, flipped := [] }

theorem wit_gather :
    let s := path up [{ frame0 with stage := .clear }] []
    let e : Gather := { rel with frame := none, octets := List.replicate 256 0#8, length := 1000 }
    headerTurn s { frame0 with stage := .clear } = true ∧ rxSecyOf linked 0 e.octets = none ∧
    ((arriving linked e).bind (fun f => earlyFrame linked f e.user)).map (fun x => (x.2.receiving, x.2.len,
      headerTurn linked x.2, headerTurn { linked with path := { linked.path with hdrUsed := [(0, 3)], hdrCycle := 1 } } x.2))
      = some (true, 1000, true, false) ∧ min 1000 (gatherReach linked 0) ≤ 256 := by decide +kernel
theorem run_headerGatherEarly : ran (.headerGatherRelease { rel with frame := none, octets := List.replicate 256 0#8, length := 1000 }) linked
    (fun t => t.path.frames.map (fun f => (f.receiving, f.len)) = [(true, 1000)]) = true := by decide +kernel
theorem run_headerGatherRelease : ran (.headerGatherRelease rel) (path up [{ frame0 with stage := .clear }] [])
    (fun t => t.path.frames.all (fun f => f.stage ≠ .clear)) = true := by decide +kernel
theorem run_recircAged : ran (.recircAged 0) { path up [{ frame0 with stage := .reentry, stamped := true, pass := 1 }] [] with cycle := residencyMax up }
    (fun t => t.path.frames.isEmpty && (rd t (rTileCtr 0 48)) = 1#64) = true := by decide +kernel
theorem run_fragInsertLost : ran .fragInsertLost { up with cycle := 16, path := { up.path with fragQ := [⟨[], [], 1, 15, 0⟩] } }
    (fun t => t.path.fragQ.isEmpty && rd t (rTileCtr 7 5) = 1#64) = true := by decide +kernel
theorem run_fragHoldExpire : ran .fragHoldExpire { up with cycle := 16, path := { up.path with frags := [⟨[], [], 0, 16⟩] } }
    (fun t => t.path.frags.isEmpty) = true := by decide +kernel
theorem run_lastOctetWritten : ran (.lastOctetWritten 0) (path up [{ frame0 with complete := false, charge := 9 }] [{ copy0 with charge := 9 }])
    (fun t => t.path.frames.map (fun f => (f.complete, f.charge)) = [(true, 1)] && t.path.copies.map (fun c => c.charge) = [1]) = true := by decide +kernel

theorem run_sharedFetch : ran (.sharedFetch 0 0) (one up .selected) (fun t => t.path.copies.map (fun c => c.stage) = [.crossing]) = true := by
  decide +kernel
theorem run_roundsMatch : ran (.roundsMatch 0) (voq (one linked .queued)) (fun t => t.core.matchQ.length = 1) = true := by decide +kernel
theorem run_planeCrossing : ran (.planeCrossing 0) { one up .crossing with cycle := 1 } (fun t => t.path.copies.map (fun c => c.stage) = [.egress]) = true := by
  decide +kernel
theorem run_creditIssue : ran (.creditIssue 0) (voq (one linked .queued)) (fun t => vGet t (vKey 1 0 60) = 4) = true := by decide +kernel
theorem run_spillCopy : ran (.spillCopy 0) (deepUp (voq (one up .staged))) (fun t => t.path.copies.map (fun c => c.stage) = [.deep]) = true := by
  decide +kernel
theorem run_refill : ran (.refill 0) (deepUp (voq (one (setRow up false 0x630 0 (9 * 2 ^ 88 + 9 * 2 ^ 68)) .deep))) (fun t => t.path.copies.map (fun c => c.stage) = [.queued]) = true := by
  decide +kernel
theorem run_stomp : ran (.stomp 0 1) (path up [{ frame0 with bad := some 1 }] [copy0]) (fun t => t.path.copies.isEmpty) = true := by decide +kernel
theorem run_stompReceiving : ran (.stomp 0 4) (path up [{ frame0 with receiving := true }] [copy0])
    (fun t => t.path.frames.map (fun f => f.bad) = [some 4] && t.path.copies.length = 1) = true := by decide +kernel

theorem run_schedulerSelect : ran (.schedulerSelect 0 true) (one linked .queued) (fun t => t.path.copies.map (fun c => c.stage) = [.selected]) = true := by
  decide +kernel
theorem run_launchLate : ran (.launchLate 0) { launched linked 1 with clk := { linked.clk with domA := { t := 10 ^ 12 } } }
    (fun t => t.path.copies.map (fun c => c.late) = [true]) = true := by decide +kernel
theorem run_egressPipeline : ran (.egressPipeline 0 [] []) (one up .egress) (fun t => t.path.copies.map (fun c => c.stage) = [.mac]) = true := by
  decide +kernel
theorem run_frameTransmitEnd : ran (.frameTransmitEnd 0 0) (path linked [frame0] [{ copy0 with stage := .mac, started := true, out := List.replicate 60 0#8 }])
    (fun t => t.path.copies.isEmpty && t.out.length = 1) = true := by decide +kernel
theorem run_recirculate : ran (.frameTransmitEnd 0 0) (path up [frame0] [{ copy0 with port := 256, stage := .mac, started := true, out := List.replicate 60 0#8 }])
    (fun t => t.path.frames.map (fun f => (f.port, f.pass)) = [(256, 1)]) = true := by decide +kernel
theorem run_mpTransmit : ran (.mpTransmit (List.replicate 60 0#8) 0 0 none) up (fun t => t.path.frames.map (fun f => f.port) = [265]) = true := by
  decide +kernel

def learnAsk : LearnReq := ⟨1, 2, 3, 0, 0⟩

theorem run_learnOperation : ran .learnOperation { up with learn := { up.learn with learnQ := [(7, [learnAsk])], learnRr := 7 } }
    (fun t => t.learn.learnRr = 0 && t.forme.case.length = 1) = true := by decide +kernel
theorem run_rebalancerRetry : ran .rebalancerRetry { up with learn := { up.learn with rebal := [learnAsk] } }
    (fun t => t.learn.rebal.isEmpty && t.forme.case.length = 1) = true := by decide +kernel
theorem run_ageClockTick : ran .ageClockTick { up with cycle := 160000000 } (fun t => t.learn.ageClock = 1) = true := by decide +kernel
theorem run_ageingRemoval : ran (.ageingRemoval 1 2) { learnedIn (wrF up rCaseCtrl 15 0 10) with learn := { up.learn with ageClock := 10 }, cycle := 160000000 }
    (fun t => t.forme.case.isEmpty) = true := by decide +kernel
theorem run_flushComplete : ran .flushComplete { learnedIn up with learn := { up.learn with flushQ := [⟨0, 0, 0, 0, true, 0⟩] } }
    (fun t => t.learn.flushQ.isEmpty && t.forme.case.isEmpty) = true := by decide +kernel
theorem run_asaRepair : ran (.asaRepair 31) { up with cycle := 42, forme := { up.forme with asaRepair := [(31, [(1, 2)])] } }
    (fun t => t.forme.asaRepair.isEmpty) = true := by decide +kernel
theorem run_asaSweep : ran (.asaSweep []) { up with cycle := 42 } (fun t => t.forme.sweepRow = 1) = true := by decide +kernel
theorem run_asaShadowUe : ran (.asaShadowUe 0x0300 5) { up with forme := { up.forme with asa := [⟨0x0300, 5, 0, 0, true, false⟩] } }
    (fun t => t.forme.asa.isEmpty) = true := by decide +kernel

/-- Both Claves paired, A active. -/
def pair : State := setClaveMode up cmPairedA

theorem run_claveFault : ran (.claveFault false 0 8) pair (fun t => t.ctl.active && claveMode t ≠ cmPairedA) = true := by decide +kernel
theorem run_claveWatchdog : ran (.claveWatchdog false) (let s := onRing pair 63 [opEnd]; { s with cycle := 4096, ctl := { s.ctl with wdogKey := progress s } })
    (fun t => t.ctl.active && claveMode t ≠ cmPairedA) = true := by decide +kernel
theorem run_claveCorr : ran (.claveCorr true) pair (fun t => rdF t rClaveCorr 63 32 = 1) = true := by decide +kernel
theorem run_handoverWindowClose : ran .handoverWindowClose { up with ctl := { up.ctl with claveWindow := some (1, 3, 9) } }
    (fun t => t.ctl.claveWindow.isNone && rdF t rClaveStatus 63 48 = 1) = true := by decide +kernel
theorem run_claveMismatch : ran (.claveMismatch 4 7) pair (fun t => claveMode t = cmDiagnosing && t.ctl.diagIsn = 4) = true := by decide +kernel
theorem run_claveDiagEnd : ran (.claveDiagEnd false false) (setClaveMode up cmDiagnosing) (fun t => claveMode t = cmUndecided) = true := by decide +kernel
theorem run_claveSelftestEnd : ran (.claveSelftestEnd true true) (setClaveMode up cmResetting) (fun t => claveMode t = cmPairedA) = true := by
  decide +kernel
theorem run_shadowPeriodEnd : ran (.shadowPeriodEnd true) { setClaveState up true 2 with cycle := 160000000 }
    (fun t => claveState t true = 0) = true := by decide +kernel
theorem run_mpWatchdog : ran (.mpWatchdog [(0, 1, 2)]) (wrB up (rMbxStatus 0) 1 true) (fun t => !t.mp.mpUp && t.rcd.evQ.length ≠ 0) = true := by decide +kernel
theorem run_mpRestartComplete : ran .mpRestartComplete { up with mp := { up.mp with mpUp := false } } (fun t => t.mp.mpUp) = true := by decide +kernel
theorem run_opticsAlarm : ran (.opticsAlarm 31) up (fun t => t.out = [.opticsAlarm 31]) = true := by decide +kernel
theorem run_mpShedStep : ran (.mpShedStep 100) up (fun t => shedStep t = 1 && rdB t rMpStatus 0) = true := by decide +kernel
theorem run_mpUnshedStep : ran (.mpUnshedStep 0) { wrB (wrF up rMpStatus 2 1 1) rMpStatus 0 true with cycle := 10 ^ 10 }
    (fun t => shedStep t = 0 && !rdB t rMpStatus 0) = true := by decide +kernel

/-- Maintenance with an activity running and one held. -/
def maintaining : State := { up with mp := { up.mp with maintRun := [⟨7, 39, 0⟩], maintHeld := [⟨8, 0, 0⟩] }, cycle := 10 ^ 12 }

theorem run_maintRequest : ran (.maintRequest 8 0) up (fun t => t.mp.maintRun.length = 1) = true := by decide +kernel
/-- R8: a request for an absent stack is none. -/
theorem run_maintAbsent : ran (.maintRequest 1 0) { up with variant := .ec } (fun t => t.mp.maintRun.isEmpty && t.mp.maintQ.isEmpty && t.rcd.evQ.isEmpty) = true := by
  decide +kernel
theorem run_maintActivityEnd : ran (.maintActivityEnd 7 39 false 0) maintaining (fun t => t.mp.maintRun.isEmpty) = true := by decide +kernel
theorem run_holdMaxExpire : ran (.holdMaxExpire 8 0) maintaining (fun t => t.mp.maintHeld.isEmpty) = true := by decide +kernel
theorem run_keySelftestPiece : ran (.keySelftestPiece 39 false) maintaining (fun t => boundary t = bsError) = true := by decide +kernel
theorem run_entropyTestFail : ran (.entropyTestFail 1) up (fun t => boundary t = bsError) = true := by decide +kernel

theorem run_timeDomainSwitch : ran .timeDomainSwitch (wrB (wrB up rTimeStatus 3 true) rTimeCtrl 0 true) (fun t => opDomain t = 1 && rdB t rTimeStatus 2) = true := by
  decide +kernel
theorem run_domainSwitchDone : ran .domainSwitchDone (wrB up rTimeStatus 2 true) (fun t => !rdB t rTimeStatus 2) = true := by decide +kernel
theorem run_ppsInEdge : ran (.ppsInEdge 1) { wrB up (rPpsInCfg 1) 63 true with clk := { up.clk with domA := { t := 5 * unitsPerSec } } }
    (fun t => rd t (rPpsInCap0 1) = 5#64) = true := by decide +kernel
theorem run_ppsInLoss : ran (.ppsInLoss 1) { wrB up (rPpsInCfg 1) 63 true with cycle := 2400000000 } (fun t => rdB t rTimeStatus 5) = true := by
  decide +kernel
/-- Whole seconds: output 1 pulses. -/
def onSecond : State := { wrB up (rPpsOutCfg 1) 63 true with clk := { up.clk with domA := { t := unitsPerSec } } }
theorem run_ppsOutPulse : ran (.ppsOutPulse 1) onSecond (fun t => t.out.length = 1) = true := by decide +kernel
theorem run_refLoss : ran .refLoss (wrB up rRefCfg 63 true) (fun t => rdB t rTimeStatus 6) = true := by decide +kernel
theorem run_refReturn : ran .refReturn (wrB (wrB up rRefCfg 63 true) rTimeStatus 6 true) (fun t => !rdB t rTimeStatus 6) = true := by decide +kernel
theorem run_todTransmit : ran (.todTransmit [1#8]) { wrB (wrB up rTodCfg 63 true) (rPpsOutCfg 0) 63 true with core := { up.core with ptrs := [(9 * 2 ^ 16 + 16, 1)] }, cycle := 10 ^ 12 }
    (fun t => t.out.length = 1) = true := by decide +kernel
theorem run_todReceive : ran (.todReceive [1#8]) (wrB up rTodCfg 62 true) (fun t => t.out = [.todToMp [1#8]]) = true := by decide +kernel
theorem run_timestampRecordWrite : ran (.timestampRecordWrite true)
    { wrB up (rMpTsrBase + 8) 0 true with core := { up.core with tsq := [(301, [⟨0, 0, 0, false, 0, true, 0⟩])], tsqRr := 300 } }
    (fun t => t.core.tsqRr = 301 && t.out.length = 1) = true := by decide +kernel
theorem run_gateListChange : ran (.gateListChange 255) (wrB up (rGateStatus 255) 62 true) (fun t => !rdB t (rGateStatus 255) 62) = true := by decide +kernel
theorem run_gateEntryStart : ran (.gateEntryStart 255) up (fun t => t.out.isEmpty) = true := by decide +kernel
theorem run_servoUpdate : ran (.servoUpdate 1 (-70000) 0) { wrF (wrB up (rDomCtrl 1) 63 true) (rDomCtrl 1) 31 0 1 with clk := { up.clk with servoFirst := [(1, true)] } }
    (fun t => (domOf t 1).t = 70000 && rd t (rDomOffset 1) = BitVec.ofInt 64 (-70000)) = true := by decide +kernel
/-- Peal 15 due. -/
def peals : State := { wrB up (rPeal 15 0x48) 0 true with clk := { up.clk with domA := { t := unitsPerSec } } }
theorem run_pealCapture : ran (.pealCapture 15) peals (fun t => t.rcd.evQ.length ≠ 0 || t.out.length ≠ 0 || (pealOf t 15).next ≠ 0) = true := by decide +kernel
theorem run_pealFault : ran (.pealFault 15 7) (wr peals (rPeal 15 0x30) (BitVec.ofNat 64 (2 ^ 32 + 1))) (fun t => rdB t (rPeal 15 0x48) 2 && !pealActive t 15) = true := by
  decide +kernel
/-- R871: a ring whose QUOIN.C has completed holds the capture back. -/
theorem run_pealHeld : ran (.pealCapture 15) (setRt peals 3 { rt peals 3 with capHold := true }) (fun t => (pealOf t 15).held && t.out.isEmpty) = true := by
  decide +kernel

/-- One posting of each queue. -/
def posted : State :=
  let post : Posting := ⟨0x0805, hwOrigin, [], 0, 0, 0, 0, 0, 0, false, 0, false, 1⟩
  { wrF up rRecStatus 1 0 0 with rcd := { up.rcd with jrQ := [post], evQ := [post], windows := [⟨0x0805, hwOrigin, [], 0, 1, post⟩] }, cycle := 10 ^ 12 }
theorem run_recordJournal : ran (.recordWrite true true 0) posted (fun t => t.rcd.jrQ.isEmpty && t.rcd.recs.length = 1) = true := by decide +kernel
theorem run_recordEvent : ran (.recordWrite false true 0) posted (fun t => t.rcd.evQ.isEmpty) = true := by decide +kernel
theorem run_coalesceWindowClose : ran .coalesceWindowClose posted (fun t => t.rcd.windows.isEmpty) = true := by decide +kernel
theorem run_hoursCellWrite : ran .hoursCellWrite { up with rcd := { up.rcd with opCycles := 60 * cyclesPerSec } }
    (fun t => t.rcd.hoursCell = 60 * cyclesPerSec) = true := by decide +kernel
theorem run_bootSaveEnd : ran (.bootSaveEnd false) { up with pwr := { up.pwr with bootSaving := some 1 } } (fun t => t.pwr.bootSaving.isNone) = true := by
  decide +kernel

theorem run_powerOn : ran (.powerOn false) State.reset (fun t => devState t = stPower) = true := by decide +kernel
theorem run_supervise : ran (.supervise true) (inState stPower) (fun t => devState t = stSupervise) = true := by decide +kernel
theorem run_selftest : ran (.selftest false none true true true true) (inState stSupervise) (fun t => devState t = stSelftest) = true := by
  decide +kernel
theorem run_load : ∃ t, exec (.load [] true true none) (inState stSelftest) = .next t := ⟨_, rfl⟩
theorem run_train : ran (.train false false []) (inState stLoad) (fun t => devState t = stTrain && rdB t rCoreStatus 2 = hasDeep t) = true := by
  decide +kernel
theorem run_hold : ran .hold (inState stTrain) (fun t => devState t = stHold && t.pwr.ready) = true := by decide +kernel
theorem run_startStop : ran (.startStop 0 7) (inState stSupervise) (fun t => t.pwr.stopped) = true := by decide +kernel
theorem run_shutdown : ran (.shutdown true) up (fun t => devState t = stOff && !t.pwr.vinOk) = true := by decide +kernel
theorem run_railFault : ran (.railFault true) up (fun t => devState t = stOff && t.pwr.latch = 7) = true := by decide +kernel
theorem run_thermWarn : ran (.thermWarn 23 50#16) up (fun t => rdF t (rTemp 23) 15 0 = 50) = true := by decide +kernel
theorem run_resetN : ran (.resetN 1000 false) up (fun t => devState t = stSupervise && rdF t rResetCause 2 0 = 1) = true := by decide +kernel
theorem run_zeroiseN : ran (.zeroiseN 10000 false) (keyed up) (fun t => t.ciph.saKeys.isEmpty) = true := by decide +kernel
theorem run_tamperMesh : ran .tamperMesh (keyed up) (fun t => t.ciph.saKeys.isEmpty) = true := by decide +kernel
theorem run_boardLoop : ran (.boardLoop 1 true) { keyed up with ciph := { (keyed up).ciph with loopMiss := [(1, 1)] }, pwr := { up.pwr with tamperSel := true } }
    (fun t => t.ciph.saKeys.isEmpty) = true := by decide +kernel
theorem run_vkeepLoss : ran .vkeepLoss { keyed up with pwr := { up.pwr with vinOk := false } } (fun t => t.ciph.keks.isEmpty) = true := by decide +kernel
theorem run_tamperSelChange : ran (.tamperSelChange true) { keyed up with pwr := { up.pwr with nv := { up.pwr.nv with commissioned := true } } }
    (fun t => t.ciph.saKeys.isEmpty && t.pwr.tamperSel) = true := by decide +kernel
theorem run_hostFundamentalReset : ran .hostFundamentalReset up (fun t => devState t = stSupervise && rdF t rResetCause 2 0 = 2) = true := by
  decide +kernel
theorem run_memCe : ran (.memCe (.slice 0) none) up (fun t => t.regs ≠ up.regs) = true := by decide +kernel
theorem run_memCeAbsent : ran (.memCe (.caseCopy 3) none) { up with variant := .hc } (fun t => t.regs = up.regs) = true := by decide +kernel
theorem run_memUe : ran (.memUe (.counterReg (rTileCtr 0 48))) (wr up (rTileCtr 0 48) 5#64) (fun t => rdB t rErrStatus 11 && t.rcd.evQ.length = 1) = true := by
  decide +kernel
theorem run_cellRetire : ran (.cellRetire 7 65535) { up with pwr := { up.pwr with retired := [(cellKey 7 65535, 1)] } }
    (fun t => retiredCells t 7 = 1) = true := by decide +kernel

/-- The host link 0 up. -/
def hostUp : State := setLinkStatus up false true 6 8 true
theorem run_hostLinkDown : ∃ t, exec (.hostLinkDown false 0) hostUp = .next t := ⟨_, rfl⟩
theorem run_hostLinkUp : ran (.hostLinkUp false 6 8 true true true) up (fun t => hostLinkUp t false && smGet (fun _ => false) t.host.msixEn 1) = true := by
  decide +kernel
theorem run_flrPf0 : ran (.flrPf0 false []) (at0 opNote) (fun t => (rt t 0).slots.isEmpty && !busMaster t (.host false)) = true := by decide +kernel
theorem run_flrPf1 : ∃ t, exec (.flrPf1 false) (frOn up false 1 0) = .next t := ⟨_, rfl⟩
theorem run_flrPf2 : ran (.flrPf2 false) up (fun t => t.regs = up.regs) = true := by decide +kernel
theorem run_busMasterDisable : ran (.busMasterDisable false) up (fun t => !busMaster t (.host false)) = true := by decide +kernel
theorem run_busMasterEnable : ran (.busMasterEnable false) State.reset (fun t => busMaster t (.host false)) = true := by decide +kernel
theorem run_msixUnmask : ran (.msixUnmask false 1 1535) { up with host := { up.host with msixEn := [(1, true)], msixPend := [(4096 + 1535, true)] } }
    (fun t => t.out = [.msix false 1 1535] && t.host.msixPend.isEmpty) = true := by decide +kernel
theorem run_pcieUncorrError : ran (.pcieUncorrError false 2 5) up (fun t => smGet (fun _ => 0) t.host.aer 2 = 5) = true := by decide +kernel
theorem run_jtagAccess : ran (.jtagAccess true) up (fun t => t = up) = true := by decide +kernel

/-- An officer's channel, a user's, and the operator 15 with a challenge held. -/
def officerCh : State := asking (setBoundary up bsOperational) 2
def userCh : State := asking (setBoundary up bsOperational) 1
def known : State := { officerCh with ciph := { officerCh.ciph with operators := [⟨15, 2, []⟩], challenge := [(7, [1#8])] } }
theorem run_mpStatus : ran (.mpStatus req 8) officerCh (fun t => !rdB t (rMbxStatus 7) 1 && rdB t (rMbxStatus 7) 2) = true := by decide +kernel
theorem run_attest : ran (.attest req 8) officerCh (fun t => !rdB t (rMbxStatus 7) 1) = true := by decide +kernel
theorem run_authChallenge : ran (.authChallenge req) officerCh (fun t => !rdB t (rMbxStatus 7) 1 && rdB t (rMbxStatus 7) 2) = true := by decide +kernel
theorem run_authResponse : ran (.authResponse req 0 15 true) known (fun t => ringRole t 0 = 2 && mbxRoleOf t 7 = 2 && t.ciph.challenge.isEmpty) = true := by
  decide +kernel
theorem run_authRefused : ran (.authResponse req 0 15 false) known (fun t => ringRole t 0 = 0 && t.rcd.evQ.length ≠ 0) = true := by decide +kernel
theorem run_logout : ran (.logout req 0) officerCh (fun t => mbxRoleOf t 7 = 0) = true := by decide +kernel
theorem run_enrol : ran (.enrol req 3 false [] 0) (wrB known rCipherStatus 4 true) (fun t => (operatorOf t 3).isSome) = true := by decide +kernel
theorem run_enrolFirst : ran (.enrol req 3 true [] 0) (setBoundary (asking up 0) bsZeroised) (fun t => commissioned t && ringRole t 0 = 2) = true := by
  decide +kernel
theorem run_removeOperator : ran (.removeOperator req 15) known (fun t => t.ciph.operators.isEmpty) = true := by decide +kernel
theorem run_kekInstall : ran (.kekInstall req 63 (.key [1#8])) officerCh (fun t => kekHeld t 63) = true := by decide +kernel
theorem run_kekPairBad : ran (.kekInstall req 63 .pairBad) officerCh (fun t => !kekHeld t 63 && boundary t = bsError) = true := by decide +kernel
theorem run_fwUpdate : ran (.fwUpdate req 9 true) officerCh (fun t => t.pwr.nv.fwA = some 9 || t.pwr.nv.fwB = some 9) = true := by decide +kernel
theorem run_cmisRead : ran (.cmisRead req (some [1#8])) userCh (fun t => !rdB t (rMbxStatus 7) 1) = true := by decide +kernel
theorem run_cmisWrite : ran (.cmisWrite req true) userCh (fun t => t.out.any (fun o => o == .cmisWrite [])) = true := by decide +kernel
theorem run_serdesDiag : ran (.serdesDiag req (some [1#8])) userCh (fun t => !rdB t (rMbxStatus 7) 1) = true := by decide +kernel
theorem run_servoCfg : ran (.servoCfg { req with payload := [1#8] } true) userCh (fun t => t.mp.servoCfg = [1#8]) = true := by decide +kernel
theorem run_telemetryCfg : ran (.telemetryCfg { req with payload := [1#8] } true) userCh (fun t => t.mp.telemetryCfg = [1#8]) = true := by decide +kernel

-- Hypotheses of clauses that the witnesses above leave out

/-- RW, RMW and RRD: no check fails, no unit absent is named, and the ring still waits after the Write Gate; or a unit is absent. -/
theorem wit_registers2 :
    let hc := { at0 opRw with variant := .hc }
    let t := issued hc 0 opRw 0
    let m := issued (at0 opRmw) 0 opRmw 0
    let r := issued (at0 opRrd) 0 opRrd 0
    issueReady hc 0 opRw = true ∧ (Ins.make opRw 0 0 rTimeCtrl 1).opcode = opRw ∧
    firstFail (regChecks t 0 (Ins.make opRw 0 0 rTimeCtrl 1) false true) = none ∧
    regRefersAbsent (gateDrain t) rTimeCtrl 1#64 = true ∧ (rt (gateDrain t) 0).waiting.isSome = true ∧
    issueReady (at0 opRmw) 0 opRmw = true ∧ firstFail (regChecks m 0 (Ins.make opRmw 0 0 rFormeCtrl 16) false true) = none ∧
    regRefersAbsent (gateDrain m) rFormeCtrl 1#64 = false ∧
    issueReady (at0 opRrd) 0 opRrd = true ∧ firstFail (regChecks r 0 (Ins.make opRrd 0 0 rFormeCtrl 16) false false) = none ∧
    (Ins.make opRrd 0 0 rFormeCtrl 16).operand ≠ 0 ∧
    firstFail (regChecks r 0 (Ins.make opRrd 0 0 rFormeCtrl 8) true false) = some .eCheck := by decide +kernel

/-- TADJ in each mode. -/
theorem wit_tadj :
    let s := mpAt opTadj
    let t := issued s 60 opTadj 0
    issueReady s 60 opTadj = true ∧ bits (Ins.make opTadj 0 0 0 5).flags 3 2 = 0 ∧ bits (Ins.make opTadj 4 0 0 5).flags 3 2 = 1 ∧
    firstFail (timeChecks t 60 0 (Ins.make opTadj 0 0 0 5) false) = none ∧
    firstFail (timeChecks t 60 1 (Ins.make opTadj 20 0 0 5) false) = none := by decide +kernel

/-- TD and TM of a shaper row, and an image that the row does not take. -/
theorem wit_table2 :
    let d := touchGalley (issued (galAt opTd) 0 opTd 0) 0
    let m := touchGalley (issued (galAt opTm) 0 opTm 0) 0
    let w := touchGalley (issued (galAt opTw) 0 opTw 0) 0
    issueReady (galAt opTd) 0 opTd = true ∧ firstFail (tableChecks d 0 (Ins.make opTd 0 0x620 5 0) 0) = none ∧
    issueReady (galAt opTm) 0 opTm = true ∧
    firstFail (tableChecks m 0 (Ins.make opTm 0 0x620 5 0) (2 * imageLen m m.forme.galley 0x620 5)) = none ∧
    (placeRows w [] 0x600 [(0, 2 ^ 512 - 1)]).isRight = true := by decide +kernel

/-- Three writes fit the bound of the log, and a log at the bound is over it. -/
theorem wit_logBound (x : GWrite) : (List.replicate 262145 x).length > 262144 ∧ ([x, x, x]).length ≤ 262144 := by
  rw [List.length_replicate]; exact ⟨by omega, by simp only [List.length_cons, List.length_nil]; omega⟩

theorem wit_trdKeys :
    trdKeyBad (List.replicate 16 255#8) = true ∧ isCase 0x200 = true ∧ tableListed 0x200 = true ∧
    (Ins.make opTrd 0 0x200 (2 ^ 31) 16).index.testBit 31 = true ∧ bits (Ins.make opTrd 0 0x200 (2 ^ 31) 16).index 30 0 = 0 ∧
    32 + 1 * (8 + trdImageLen (at0 opTrd) 0x200) ≤ 65568 := by decide +kernel

/-- A LOCKAT whose T passed while it was imposed, with LATE_OK and without. -/
theorem wit_late :
    let s (ok : Bool) : State := { pending true 1 with
      forme := { (pending true 1).forme with pendLock := some { pend true with lateOk := ok } }, clk := { up.clk with domA := { t := 65536 } } }
    let t := setPhase (runTodo (s true)) 2
    galleyState (s true) = gsPending ∧ pendPhase (s true) = 1 ∧ (s true).forme.impFail = none ∧ (runTodo (s true)).forme.impFail = none ∧
    t.forme.pendLock = some { pend true with lateOk := true } ∧ tNs 0 0 < opNs t ∧
    (setPhase (runTodo (s false)) 2).forme.pendLock = some (pend true) ∧ (pend true).lateOk = false ∧ (pend true).stepLate = false ∧
    (setPhase (runTodo (pending false 1)) 2).forme.pendLock = some (pend false) ∧
    galleyState (setPhase (runTodo (pending false 1)) 2) = gsPending := by decide +kernel

theorem wit_counters2 :
    let l := ctrPlaces (Ins.make opCclr 0 0x0806 0 0)
    let t := gateDrain (issued (at0 opCclr) 0 opCclr 0)
    let w : Waiting := ⟨1, opCrd, 0, .crd 1 0 2 0x0804 false 16 [] 6⟩
    let s := setRt up 0 { rt up 0 with waiting := some w }
    (rt t 0).waiting.isSome = true ∧ l ≠ [] ∧ (rt s 0).waiting = some w ∧ w.kind = .crd 1 0 2 0x0804 false 16 [] 6 ∧ 2 ≤ 1 + 1 ∧
    ciUnits (Ins.make opCrd 0 0x0804 0 16) = 1 ∧ ciUnits (Ins.make opCrd 0 0x0804 (2 ^ 20) 16) ≠ 1 ∧
    firstFail (ctrChecks (issued (at0 opCrd) 0 opCrd 0) (Ins.make opCrd 0 0x0804 (2 ^ 20) 16) 8 true) = none := by decide +kernel

theorem wit_pool2 :
    let t := ringGrant (issued (poolAt opPalloc []) 0 opPalloc 0) 0
    let f := ringGrant (issued (poolAt opPfree [(0, leMake 0 1 lsInUse)]) 0 opPfree 0) 0
    (rt t 0).waiting.isSome = true ∧ pallocPool t 0 0x0CFF 256 = some 0 ∧ pallocPool t 0 0x0C00 0 = some 0 ∧
    poolGrants t 0 = true ∧ poolFifo t 0 = [] ∧ 0 < poolFree t 0 ∧
    (rt (freeBuf f (ringMemory f 0) (ringRights f 0) (ringOrigin 0) 0).1 0).waiting.isSome = true := by decide +kernel

/-- Of two due SASWs the one of least T, and the first accepted among equals. -/
theorem wit_saswDue :
    let x : Sasw := ⟨1, 60, 0, 0, 0, false, 0, 0, 0, false, false⟩
    let s (l : List Sasw) : State := { up with ctl := { up.ctl with sasws := l }, clk := { up.clk with domA := { t := 65536 * 9 } } }
    saswDue (s [{ x with ns := 7 }, x]) = some x ∧ saswDue (s [x, { x with isn := 2 }]) = some x ∧ anOf (s [x]) 5 0 = none ∧
    saHasKey (s [x]) false 0 = false := by decide +kernel

theorem wit_records2 : (rt (recorded 255) 0).cqDead = false ∧ (rt (recorded 255) 0).records = [{ result := 0, isn := 1, status := 0, opcode := 1 }] ∧
    (0 : Nat) < 60 := by decide +kernel

theorem wit_directWrites2 :
    let g : GateWrite := ⟨rFormeCtrl, BitVec.allOnes 64, 5#64, 0xFFF, 0, noEnv⟩
    directJournals rFormeCtrl (BitVec.allOnes 64) 5#64 = true ∧ staged up < 960 ∧ directJournals (rCqHead 0) (BitVec.allOnes 64) 5#64 = false ∧
    (regWrite up g.offset g.mask g.value noEnv 0 gateDrain).2 = .took ∧ hostOk up false 0x3000000 = true ∧
    tlpWrites 0 (List.replicate 64 0#8) ≠ none := by decide +kernel

theorem wit_keys2 : field 2#64 63 32 ≠ 0x5741524D ∧ field 1#64 63 32 ≠ 0x53415645 ∧ hostOk up false rBootCtrl = true := by decide +kernel

theorem wit_dataPathWrites2 :
    let w := fieldMask 18 18 ||| fieldMask 19 19
    w.getLsbD 18 = true ∧ w.getLsbD 19 = true ∧ hasDomB { up with variant := .hc } = false ∧
    hostOk { up with variant := .hc } false rTimeCtrl = true ∧ 5 ≤ field (BitVec.ofNat 64 (7 * 2 ^ 36)) 38 36 := by decide +kernel

theorem wit_wideRead : readWide ⟨false, 0, rFormeCtrl, 64, false⟩ = true ∧ readWide ⟨false, 0, 0, 8, true⟩ = true ∧ readNarrow ⟨false, 0, 0, 4, true⟩ = true ∧
    readTarget (gateDrain up) 0 rFormeCtrl = some rFormeCtrl := by decide +kernel

/-- Port 0 with MAC merge, and a preemptable frame that it releases early. -/
def merging : State := path (wrB linked (rMmCfg 0) 31 true) [{ frame0 with receiving := true, complete := false, rxPre := true }] []
theorem wit_merge :
    mmEn merging 0 = true ∧ rxPreempt merging 0 (.assembled 2) = true ∧ rxPreempt merging 0 .plain = false ∧ portRuns merging 0 = true ∧
    (merging.path.frames.find? (fun x => x.port = 0 && x.receiving && x.mirrorOf.isNone && x.rxPre == rxPreempt merging 0 (.assembled 2))).isSome = true ∧
    (merging.path.frames.find? (fun x => x.port = 0 && x.receiving && x.mirrorOf.isNone && x.rxPre == rxPreempt merging 0 .plain)) = none := by decide +kernel
theorem run_receiveEnd : ran (.frameReceive 0 { good 0x0800 0 with mac := .assembled 2 }) merging
    (fun t => t.path.frames.all (fun f => !f.receiving)) = true := by decide +kernel
/-- R299: an express control frame among the fragments of an early-released frame is consumed. -/
theorem run_controlBetweenFragments : ran (.pauseFrameReceive 0 (good 0x8808 0x0001)) merging
    (fun t => t.path.frames.map (fun f => f.receiving) = [true]) = true := by decide +kernel

theorem wit_links2 :
    let soon := wrF lost (rLinkCfg 0) 23 16 0
    let slow := wrF lost (rLinkCfg 0) 23 16 10
    linkUpOk soon 0 = true ∧ linkSettled (setSide (anComplete soon 0) 0 2) 0 = true ∧ linkUpOk slow 0 = true ∧
    linkSettled (setSide (anComplete slow 0) 0 2) 0 = false ∧ rdB lost (rPortStatus 0) 0 = false ∧ portRunning lost 0 = true := by decide +kernel

theorem wit_hostFrames2 :
    let s := frOn (hosted up (some [0])) false 0 0
    s.pool.rx.find? (fun x => x.ring = 0 && x.bufs.isSome) = some ⟨0, 0, 0, some [0]⟩ ∧ up.pool.txFree = [] ∧ (1 : Nat) ≤ rxSlots s 0 := by
  decide +kernel

/-- Two short copies for one tile: the second shares the crossing. -/
theorem wit_short :
    let c1 : Copy := { copy0 with id := 1, frame := 1, stage := .selected }
    let s := path up [frame0, { frame0 with id := 1 }] [{ copy0 with stage := .selected }, { c1 with port := 1 }]
    (fetchOf s 0 0 0).map (fun c => shortCopy s c) = some true ∧
    (fetchOf (startCrossing s [0]) 0 0 0).map (fun d => d.id) = some 1 := by decide +kernel
theorem run_shortPair :
    let c1 : Copy := { copy0 with id := 1, frame := 1, stage := .selected, port := 1 }
    ran (.sharedFetch 0 0) (path up [frame0, { frame0 with id := 1 }] [{ copy0 with stage := .selected }, c1])
      (fun t => t.path.copies.map (fun c => c.stage) = [.crossing, .crossing]) = true := by decide +kernel

theorem wit_crossed : (one up .crossing).path.copies.map (fun c => c.crossAt) = [0] ∧ cellsOf 64 ≤ 0 + 1 := by decide +kernel

theorem wit_housekeeping2 :
    let w := { onRing pair 63 [opEnd] with cycle := 4096, ctl := { (onRing pair 63 [opEnd]).ctl with wdogKey := progress (onRing pair 63 [opEnd]) } }
    progress w = w.ctl.wdogKey ∧ w.ctl.wdogAt + 4096 ≤ w.cycle ∧ ringState w 63 = rsRun ∧ maintPresent up 8 0 = true ∧
    maintPresent { up with variant := .ec } 1 0 = false ∧ shedStep up = 0 ∧ up.mp.shedAt + 1000 * cyclesPerMs ≤ 10 ^ 10 ∧
    (learnedFind (learnedIn up) 1 2).isSome = true ∧ up.mp.mpUp = true := by decide +kernel

theorem wit_time3 : captureFree peals 64 = true ∧ pealFull (wr peals (rPeal 15 0x30) (BitVec.ofNat 64 (2 ^ 32 + 1))) 15 = false ∧
    captureFree (setRt peals 3 { rt peals 3 with capHold := true }) 64 = false ∧ recState posted ≠ 3 ∧ posted.rcd.jrQ ≠ [] := by decide +kernel

theorem wit_power2 : memPresent up (.slice 7) = true ∧ memPresent { up with variant := .hc } (.caseCopy 3) = false ∧
    uePresent up (.counterReg 0) = true ∧ devState (inState stSupervise) = stSupervise := by decide +kernel

theorem wit_resets2 : rFormeCtrl ≠ rCoreStatus ∧ voqMode (voq up) = true := by decide +kernel

/-- A host's write acts at once on a running device. -/
theorem wit_hostWrites : HostWrites up false (rPortCfg 255) ∧ HostWrites up false rLearnFlush ∧ HostWrites up false (rPeal 15 0) ∧
    HostWrites up false (rFr true 1023 8) ∧ HostWrites up false (rPerf 42 0x78) := by
  refine ⟨⟨?_, ?_, ?_⟩, ⟨?_, ?_, ?_⟩, ⟨?_, ?_, ?_⟩, ⟨?_, ?_, ?_⟩, ⟨?_, ?_, ?_⟩⟩ <;> decide +kernel

theorem wit_links3 :
    let soon := wrF lost (rLinkCfg 0) 23 16 0
    let an := wrB (setRow up false 0x600 0 (1 + 2 ^ 16 + 2 ^ 8)) (rPortStatus 0) 0 false
    Canon soon ∧ anSet an 0 = true ∧ smGet (fun _ => false) an.path.anDone 0 = false ∧ verifyWaited (verifying 3) 0 = true := by
  decide +kernel

/-- An update slot of cycle 42, and none of cycle 0. -/
theorem wit_updateSlot :
    let s := { up with cycle := 42, forme := { up.forme with asaRepair := [(31, [(0x300, 2)])] } }
    updateSlot s.cycle = some 0 ∧ fixOpen s 0 31 (pendingBanks s) (locBanks s 0x300 2) = true ∧ badCells s 0 = [] ∧ s.forme.sweepSlot ≠ 0 + 1 ∧
    updateSlot up.cycle = none ∧ caseBusyNow up = [] ∧ caseOpen up (learnedIn up) = true ∧
    caseOpen { up with forme := { up.forme with caseAt := 1, caseBusy := List.range 256 } } (learnedIn up) = false := by decide +kernel
theorem wit_cleanCells (c : Nat) : badCells up c = [] := rfl

/-- The first write that imposition owes: its slot and banks free, or not. -/
theorem wit_formeTake :
    let s := setTodo (setRow up true 0x620 3 7) [.syncRow 0x620 3 false]
    let b := { s with forme := { s.forme with case := [{ loc := 0, key := fdbKey 1 2, slots := 1, result := 0, learned := false, v0 := true, v1 := false }] } }
    let c := { b with forme := { b.forme with caseAt := 1, caseBusy := List.range 256 } }
    (formeTake s (.syncRow 0x620 3 false)).isSome = true ∧ caseOpen c (setCase c []) = false := by decide +kernel

theorem wit_cells2 : absentOff { up with variant := .hc } (rTemp 18) = true ∧ absentOff up (rTemp 18) = false ∧
    rxUp (frOn up false 0 0) 0 = true ∧ rxUp up 0 = false ∧ frame0.cellIdx = [] := by decide +kernel

theorem wit_cipherWrites2 :
    hasCipher up = true ∧ (boundary up = 0 ∨ boundary up = 1) ∧ (0#64).getLsbD 14 = false ∧
    (BitVec.ofNat 64 (2 ^ 14)).getLsbD 14 = true ∧ saState up false 0 = saEmpty ∧ (1#64).getLsbD 0 = true ∧
    ¬ (boundary up = 1 ∧ commissioned up = true) := by decide +kernel

-- The other forms of commands that have several

/-- R894: a frame too old that waits in a recirculation queue leaves it. -/
theorem run_recircAgedQueued :
    let s := path up [{ frame0 with stamped := true }] [{ copy0 with port := 257 }]
    ran (.recircAged 0) { s with cycle := residencyMax up } (fun t => t.path.copies.isEmpty && rd t (rTileCtr 1 48) = 1#64) = true := by
  decide +kernel
theorem run_egressMirror : ran (.egressPipeline 0 [] []) (path up [frame0] [{ copy0 with stage := .egress, kind := 2 }])
    (fun t => t.path.copies.map (fun c => c.stage) = [.mac]) = true := by decide +kernel
theorem run_resetNShort : ran (.resetN 100 true) up (fun t => devState t = stSupervise) = true ∧
    ran (.resetN 100 false) up (fun t => devState t = stRun) = true := by decide +kernel
theorem run_boardLoopMatch : ran (.boardLoop 1 false) { up with ciph := { up.ciph with loopMiss := [(1, 1)] }, pwr := { up.pwr with tamperSel := true } }
    (fun t => t.ciph.loopMiss = [] && devState t = stRun) = true := by decide +kernel
theorem run_maintFailed : ran (.maintActivityEnd 7 39 true 5) maintaining (fun t => t.mp.maintRun.isEmpty) = true := by decide +kernel
theorem run_servoFirst : ran (.servoUpdate 0 5 1) (wrB up (rDomCtrl 0) 63 true)
    (fun t => t.clk.servoFirst = [(0, true)] && rdF t (rDomStatus 0) 2 0 = 1) = true := by decide +kernel
/-- R1097: KEY_ERR names the link the wrong key came over. -/
theorem test_writeKey : writeKey true 0x20 = 0x20 + 2 ^ 32 ∧ writeKey false 0x20 = 0x20 ∧ writeKey true 0x28 = 0x28 := by decide +kernel

/-- Port 0's operational list: gate 0 open for 600 ns of each 1,000 ns, 100 ns into a cycle. -/
def gated : State :=
  let e (iv gates : Nat) : Nat := iv + gates * 2 ^ 32 + 1000 * 2 ^ 128 + 2 * 2 ^ 224 + 2 ^ 255
  let s := wrB up (rGateStatus 0) 63 true
  { s with core := { s.core with gateOper := [(0, e 600 0x1FF), (1, e 400 0x1FE)] }
           clk := { s.clk with domA := { s.clk.domA with t := 100 * 2 ^ 16 } } }
/-- R819: gate 0 next closes 500 ns on; R818, R826: not at all when a change to a list that is not enabled comes 300 ns on, and
500 ns on all the same when it comes 800 ns on. -/
theorem test_gateClosing :
    let change (n : Nat) : State := { wrB gated (rGateStatus 0) 62 true with core := { gated.core with gateChange := [(0, n)] } }
    opNs gated = 100 ∧ gateClosing gated 0 0 = some 500 ∧ gateClosing gated 0 1 = none ∧
    gateClosing (change 400) 0 0 = none ∧ gateClosing (change 900) 0 0 = some 500 := by decide +kernel
/-- R1144, R1145, R16: lane L200's TXP is ball BL8, and ZEROISE_N ball AL4; both regions have 120 balls. -/
theorem test_balls :
    lanePlace 200 .txp = (49, 8) ∧ ballAt 49 8 = .lane 200 .txp ∧ ballRows[48]? = some "BL" ∧
    leftBalls[68]? = some ("ZEROISE_N", 0) ∧ lowSpeedPlace false 68 = (30, 4) ∧ ballAt 30 4 = .left 68 ∧ ballRows[29]? = some "AL" ∧
    leftBalls.length = 120 ∧ rightBalls.length = 120 := by decide +kernel

theorem wit_catchUp : Canon (setPhase (gal up) 2) ∧ live up = false ∧ live (wrF up rFormeStatus 0 0 1) = true := by decide +kernel

-- Values the spec works out

/-- Table 0.3 of the scope chapter: DEV_CAPS of every variant. -/
theorem test_devCaps : [Variant.ex, .ec, .en, .hc].map devCaps =
    [0x00000100FF30000E#64, 0x00000100FF00000A#64, 0x00000100FF30000C#64, 0x000000800F000002#64] := by decide

/-- R959 of the recorder chapter: CRC-32C of "123456789". -/
theorem test_crc32c : crc32c [0x31#8, 0x32#8, 0x33#8, 0x34#8, 0x35#8, 0x36#8, 0x37#8, 0x38#8, 0x39#8] = 0xE3069283 := by
  decide +kernel

/-- Table 4.17 of the instruction chapter: the records of LOCK and END. -/
theorem test_records :
    recBytes { result := 0x2A, isn := 1002, status := 0, opcode := 0x18 } true = leBytes 8 0x2A ++ leBytes 8 0x98000000000003EA ∧
    recBytes { result := 0, isn := 1003, status := 0, opcode := 0x01 } true = leBytes 8 0 ++ leBytes 8 0x81000000000003EB := by
  decide +kernel

/-- Table 4.16: COUNTM1 1 of a TW stands at [7:2] of its flags. -/
theorem test_count : entryCount (Ins.make opTw 0x04 0x0511 0x11 0) = 2 := by decide

/-- Section "NOTE" example before R205: a SKIPIF's INDEX names FORME_STATUS. -/
theorem test_formeStatusOffset : rFormeStatus = 0x100808 ∧ rFormeCtrl = 0x100800 := by decide

/-- Table 8.4 of the Case chapter: the hash test vectors. -/
theorem test_caseHash :
    let s1 := 0x0123456789ABCDEFFEDCBA9876543210
    let s2 := 0x0F1E2D3C4B5A69788796A5B4C3D2E1F0
    [0, 2 ^ 95, 1, 2 ^ 95 + 1].map (fun k => (hashH s1 k, hashH s2 k)) =
      [(0, 0), (0x01234567, 0x0F1E2D3C), (0x3B2A1908, 0x61E970F8), (0x3A095C6F, 0x6EF75DC4)] ∧
    [0, 2 ^ 95, 1, 2 ^ 95 + 1].map (fun k => bucketsOf s1 s2 k 1) =
      [(0, 32 * 4096), (39 * 4096 + 3349, 60 * 4096 + 2228), (8 * 4096 + 2148, 56 * 4096 + 1475), (47 * 4096 + 1393, 4 * 4096 + 3447)] := by
  decide +kernel

/-- Table 10.6 of the core chapter: one matching on plane 0. -/
theorem test_rounds :
    let m := rounds (fun t u => (t = 0 && (u = 2 || u = 5)) || (t = 1 && u = 2) || (t = 3 && (u = 2 || u = 5 || u = 6)))
      (fun _ _ => false) (fun _ _ _ => true) (fun u => if u = 2 then 1 else if u = 5 then 3 else 0)
      (fun t => if t = 0 then 5 else if t = 3 then 6 else 0) (List.replicate 8 true) (List.replicate 8 true)
    m.pairs = [(1, [2]), (3, [6]), (0, [5])] ∧ m.grants = [(2, 2), (6, 4)] ∧ m.accepts = [(1, 3), (3, 7)] := by decide +kernel

/-- One selection of Table 11.2: Q2 is eligible when `two` holds. -/
def pick64 (s : State) (two : Bool) : State × Option Nat :=
  let u := retag s 0 64 1 (fun q => if q = 0 ∨ q = 1 ∨ (q = 2 ∧ two) then some q else none) (fun _ => 1020)
    (fun q => if q = 1 then 3 else if q = 2 then 2 else 1)
  let c := chooseQueue u 0 64 1 (fun q => q = 0 || q = 1 || (q = 2 && two)) (fun _ => false)
  (servedBy u 0 64 1 (c.getD 9), c)

/-- Table 11.2 of the scheduling chapter: the queues served and V after each selection. -/
theorem test_virtualTime :
    let a := pick64 (vSet up (kLast 0 64 2) 10000000) false
    let b := pick64 a.1 false
    let c := pick64 b.1 false
    let d := pick64 c.1 false
    let e := pick64 d.1 true
    let f := pick64 e.1 true
    [a, b, c, d, e, f].map (fun x => (x.2, vGet x.1 (kV 0 64))) =
      [(some 1, 22282240), (some 1, 44564480), (some 1, 66846720), (some 0, 66846720), (some 1, 89128960),
       (some 2, 100270080)] := by decide +kernel

/-- A template's image from Tables 7.2 to 7.4: header length and kind, type field (offset, width), transitions (value, mask,
next), fields (octet, bits, DEST). -/
def template (hdr kind : Nat) (ty : Option (Nat × Nat)) (tr : List (Nat × Nat × Nat)) (fs : List (Nat × Nat × Nat)) : Nat :=
  let w0 := hdr + kind * 2 ^ 8 + ty.elim 0 (fun t => 2 ^ 30 + (t.2 - 1) * 2 ^ 26 + t.1 * 2 ^ 16)
  let ts := (tr.zip (List.range 8)).foldl (fun a x => a + (2 ^ 39 + x.1.2.2 * 2 ^ 32 + x.1.2.1 * 2 ^ 16 + x.1.1) * 2 ^ (64 * (x.2 + 1))) 0
  (fs.zip (List.range 16)).foldl
    (fun a x => a + (2 ^ 31 + x.1.1 * 2 ^ 24 + (x.1.2.1 - 1) * 2 ^ 14 + x.1.2.2) * 2 ^ (576 + 32 * x.2)) (w0 + ts)

/-- The reference templates ETH, VLAN1, IPV4 and TCP (Tables 7.7 and 7.8), stick 33 and profile 3 for P8. -/
def parsing : State :=
  let eth := [(0x8100, 0xFFFF, 1), (0x88A8, 0xFFFF, 1), (0x8847, 0xFFFF, 4), (0x0800, 0xFFFF, 9)]
  let s := setRow up false 0x102 0 (template 14 0 (some (12, 16)) eth [(0, 48, 544), (6, 48, 496), (12, 16, 432)])
  let s := setRow s false 0x102 1 (template 4 0 (some (2, 16)) (eth.map (fun x => if x.2.2 = 1 then (x.1, x.2.1, 2) else x))
    [(0, 16, 480), (2, 16, 432)])
  let s := setRow s false 0x102 9 (template 20 1 (some (9, 8)) [(6, 255, 13), (17, 255, 12), (1, 255, 14)]
    [(1, 8, 80), (8, 8, 72), (9, 8, 88), (12, 32, 224), (16, 32, 96)])
  let s := setRow s false 0x102 13 (template 20 0 none [] [(0, 16, 56), (2, 16, 40), (13, 8, 32)])
  setRow (setRow s false 0x103 33 0x003B000000349040) false 0x101 3 (2 ^ (64 + 8))

/-- The frame of the example at Table 7.9: 1,000 octets. -/
def parsed : Nat :=
  let o := beBytes 6 0x02005E100001 ++ beBytes 6 0x021A2B3C4D5E ++ beBytes 4 0x81006064 ++ beBytes 2 0x0800 ++
    beBytes 4 0x450003D2 ++ beBytes 4 0x00004000 ++ beBytes 4 0x40060000 ++ beBytes 4 0x0A010203 ++ beBytes 4 0x0A090807 ++
    beBytes 4 0xC00001BB ++ List.replicate 8 0#8 ++ beBytes 4 0x50180000 ++ List.replicate 200 0#8
  (parseFrame parsing { frame0 with octets := o, port := 8, firstPort := 8, len := 1000 } 0).2.hv

/-- Table 7.9 of the parser chapter: the header vector's extracts and its metadata. -/
theorem test_parse :
    let h := parsed
    bits h 639 592 = 0x03E800210C08 ∧ bits h 591 544 = 0x02005E100001 ∧ bits h 543 496 = 0x021A2B3C4D5E ∧
    bits h 495 480 = 0x6064 ∧ bits h 447 432 = 0x0800 ∧ bits h 95 88 = 6 ∧ bits h 87 80 = 0 ∧ bits h 79 72 = 0x40 ∧
    bits h 255 224 = 0x0A010203 ∧ bits h 127 96 = 0x0A090807 ∧ bits h 71 56 = 0xC000 ∧ bits h 55 40 = 0x01BB ∧
    bits h 39 32 = 0x18 := by decide +kernel

/-- Table 9.10 of the search chapter: the key chunks of profile 2, and the two entries that match them. -/
theorem test_asaKey :
    let h := parsed
    let k := [1, 2, 3, 15, 18].map (chunk h)
    let key := (k.zip (List.range 5)).foldl (fun a x => a + x.1 * 2 ^ (32 * x.2)) 0
    let e1 : AsaEnt := ⟨0x0302, 0, 0, 0x060000000001BB00 + 0x000000000A090800 * 2 ^ 64 + 0xFF00000000FFFF00 * 2 ^ 192 +
      0x00000000FFFFFF00 * 2 ^ 256 + 0x01F40000000002BC * 2 ^ 384, true, false⟩
    let e2 : AsaEnt := ⟨0x0302, 1, 0, 0x0600000000000000 + 0xFF00000000000000 * 2 ^ 192 + 0x00C80000000002BE * 2 ^ 384, true, false⟩
    k = [0x0001BB18, 0x060040C0, 0x0A090807, 0x4D5E6064, 0x0C080200] ∧ shadowMatch e1 3 key false = true ∧
    shadowMatch e2 3 key false = true ∧ rankEnt 3 e2 [e1] = [e1, e2] ∧ entPriority e1.image 3 = 500 ∧ entAction e1.image 3 = 700 := by
  decide +kernel

-- What reset leaves

/-- A few reset values of the register tables: GALLEY_TIMEOUT and RECIRC_RESIDENCY_MAX (Table 3.9), SWEEP_EN (Table 9.11). -/
theorem test_reset : devState State.reset = stOff ∧ rdB State.reset rAsaCtrl 0 = true ∧ galleyState State.reset = gsNone ∧
    State.reset.ctl.isn = 1 ∧ State.reset.pending = [] := by decide +kernel

/-- The table gives no row any bits, so no word spells a command. -/
theorem test_noWord : decodeTableWord 64 0 = none ∧ State.reset.withFetchWord 64 0 = State.reset := by decide +kernel

-- Ill-formed commands are refused, one for each check

/-- A slot's first byte is its row's opcode; its fields stand at the bytes of Table 4.1. -/
theorem ill_ins : wellFormed (.gopen 0 (bare opTw)) = false ∧ wellFormed (.gopen 63 (Ins.make opGopen 255 65535 (2 ^ 32 - 1) (2 ^ 64 - 1))) = true := by
  decide +kernel

/-- Table 4.1: OPCODE in byte 0, FLAGS in byte 1, UNIT in bytes 2 and 3, INDEX in bytes 4 to 7, OPERAND in bytes 8 to 15, little-endian. -/
theorem test_slot :
    let i : Ins := ⟨BitVec.ofNat 128 (leNat [0x11#8, 0x04#8, 0x34#8, 0x12#8, 0x78#8, 0x56#8, 0x34#8, 0x12#8, 8#8, 7#8, 6#8, 5#8, 4#8, 3#8, 2#8, 1#8])⟩
    i.opcode = opTw ∧ i.flags = 4 ∧ i.unit = 0x1234 ∧ i.index = 0x12345678 ∧ i.operand = 0x0102030405060708 := by decide +kernel

theorem ill_block : wellFormed (.tw 0 (bare opTw) (some (List.replicate 16385 0#8))) = false ∧ wellFormed (.tw 0 (bare opTw) none) = true := by
  decide +kernel

theorem ill_bar :
    wellFormed (.warmReset ⟨false, false, false, 2 ^ 26 - 1, [0#8, 0#8]⟩) = false ∧ wellFormed (.warmReset ⟨false, false, false, 0, []⟩) = false ∧
    wellFormed (.bar0BadRead ⟨false, 3, 0, 8, false⟩) = false ∧ wellFormed (.bar0BadRead ⟨false, 0, 2 ^ 26, 1, false⟩) = false ∧
    wellFormed (.bar0BadRead ⟨false, 0, 0, 0, false⟩) = false ∧ wellFormed (.bar0BadRead ⟨true, 2, 2 ^ 26 - 8, 8, false⟩) = true := by decide +kernel

theorem ill_doorbell :
    wellFormed (.rxDoorbell 0 ⟨false, false, 0, 0, 0⟩) = false ∧ wellFormed (.rxDoorbell 0 ⟨false, false, 4, 8, 0⟩) = false ∧
    wellFormed (.rxDoorbell 0 ⟨false, false, 0, 1, 256⟩) = false ∧ wellFormed (.ringDoorbell 0 ⟨false, false, 0, 8, 1⟩ [256]) = false := by
  decide +kernel

theorem ill_frame : wellFormed (.frameReceive 0 ⟨[], false, false, 0, .plain, {}, []⟩) = false ∧
    wellFormed (.frameReceive 0 ⟨List.replicate 16385 0#8, false, false, 0, .plain, {}, []⟩) = false ∧
    wellFormed (.headerGatherRelease ⟨none, 256, [], 0, 0, false, false, [], false, []⟩) = false ∧
    wellFormed (.headerGatherRelease ⟨none, 0, [0#8], 0, 0, false, false, [], false, []⟩) = false ∧
    wellFormed (.headerGatherRelease ⟨none, 0, [], 16385, 0, false, false, [], false, []⟩) = false ∧
    wellFormed (.frameTransmitEnd 0 (2 ^ 112)) = false ∧ wellFormed (.mpTransmit [] 256 0 none) = false ∧
    wellFormed (.mpTransmit [] 0 (2 ^ 32) none) = false := by decide +kernel

theorem ill_mailbox : wellFormed (.attest ⟨8, 0, []⟩ 0) = false ∧ wellFormed (.attest ⟨0, 2 ^ 32, []⟩ 0) = false ∧
    wellFormed (.attest ⟨0, 0, List.replicate 4089 0#8⟩ 0) = false ∧ wellFormed (.mpWatchdog [(8, 0, 0)]) = false ∧
    wellFormed (.mpWatchdog [(0, 65536, 0)]) = false ∧ wellFormed (.mpWatchdog [(0, 0, 2 ^ 32)]) = false := by decide +kernel

theorem ill_numbers : ([.anFail 0 (2 ^ 32), .ageingRemoval (2 ^ 14) 0, .ageingRemoval 0 (2 ^ 48), .asaShadowUe 65536 0,
    .asaShadowUe 0 (2 ^ 32), .pealFault 0 (2 ^ 64), .claveMismatch (2 ^ 64) 0, .claveMismatch 0 (2 ^ 32), .mpShedStep 101,
    .mpUnshedStep 101, .maintRequest 0 (2 ^ 32), .maintActivityEnd 0 (2 ^ 32) false 0, .maintActivityEnd 0 0 false (2 ^ 32),
    .holdMaxExpire 0 (2 ^ 32), .load [(0, 262144)] false false none, .startStop 0 (2 ^ 32), .poolFault 0 (2 ^ 64),
    .txFrameFetch 0 [[]] [], .txWriteBack 0 (2 ^ 17), .ringDmaFault true 0 (2 ^ 64) [], .ringDmaFault true 0 0 [[]],
    .pcieUncorrError false 0 (2 ^ 32)] : List Instr).all (fun i => !wellFormed i) = true := by decide +kernel

theorem ill_sites : ([.caseSlot 0 (2 ^ 20) false, .fragment 16384, .asaShadow 65536 0, .asaShadow 0 65536, .tableRow 65536 0 false false,
    .tableRow 0 (2 ^ 20) false false, .counterReg (2 ^ 26), .counterWord (2 ^ 40), .bucket (2 ^ 24), .vtime (2 ^ 32), .pointer (2 ^ 24),
    .mpMemory [(8, 0, 0)], .recorder 0 262144] : List UeSite).all (fun x => !wellFormed (.memUe x)) = true := by decide +kernel

end Sys2Proof.Tests
end

section
/-! PROOFS. Formes and the galley: the log keeps one entry for each key or row (R124), GOPEN (R119, R120), and the
all-or-nothing completion of TW, TD and TM (R123, R211). First what issue and an OK completion leave as it is, which serves
every instruction; then the rules of the galley; then the obligations. -/

namespace Sys2Proof.Machine

-- What issue leaves as it is

theorem issued_keeps (s : State) (n op flags : Nat) : Keeps 4098 s (issued s n op flags) :=
  inExecution_keeps ((Within.refl _).sub rfl) _ _ _ _ _ (issueIns_keeps (Within.refl _) s n (Keeps.refl _ _))

theorem issued_frame (s : State) (n op flags : Nat) : Outside 4098 s (issued s n op flags) := (issued_keeps s n op flags).frame

@[simp] theorem issued_forme (s : State) (n op flags : Nat) : (issued s n op flags).forme = s.forme :=
  (issued_frame s n op flags).formes rfl
@[simp] theorem issued_cycle (s : State) (n op flags : Nat) : (issued s n op flags).cycle = s.cycle :=
  (issued_frame s n op flags).cycles rfl
@[simp] theorem issued_tab0 (s : State) (n op flags : Nat) : (issued s n op flags).tab0 = s.tab0 :=
  ((issued_frame s n op flags).tables rfl).1
@[simp] theorem issued_tab1 (s : State) (n op flags : Nat) : (issued s n op flags).tab1 = s.tab1 :=
  ((issued_frame s n op flags).tables rfl).2

/-- Issue leaves what an accepted LOCKAT or SASW of the program has already failed with. -/
theorem issued_abortAfter {s : State} {n op : Nat} {ins : Ins} (h : Issues s n op ins) (flags : Nat) :
    (rt (issued s n op flags) n).abortAfter = (rt s n).abortAfter := by
  rw [rt_issued_same, rt_issueIns h]

/-- Issue changes CR_HEAD of its ring and the performance page of the Claves, and no FORME_STATUS. -/
theorem issued_formeStatus (s : State) (n op flags : Nat) : rd (issued s n op flags) rFormeStatus = rd s rFormeStatus := by
  rw [rd_issued _ _ _ _ _ (by unfold rPerf rFormeStatus; omega), rd_wrF_other]
  unfold rFormeStatus rCrHead; omega

-- What an OK completion leaves as it is

/-- The record an instruction that ends with OK leaves: one when RPT is 1 (R69). -/
def okRecorded (s : State) (n isn op flags result : Nat) : State :=
  if rptOf flags then queueRec s n { result := result, isn := isn, status := statusCode .ok, opcode := recOpcode op } else s

theorem okRecorded_rd (s : State) (n isn op flags result o : Nat) : rd (okRecorded s n isn op flags result) o = rd s o := by
  unfold okRecorded; split
  · exact queueRec_rd _ _ _ _
  · rfl

theorem okRecorded_abortAfter (s : State) (n isn op flags result : Nat) :
    (rt (okRecorded s n isn op flags result) n).abortAfter = (rt s n).abortAfter := by
  unfold okRecorded; split
  · rw [queueRec_rt]
  · rfl

/-- OK of an instruction other than END whose program nothing aborts: its record, CR_LAST_ISN and the end of its ring's wait. -/
theorem completeIns_ok {s : State} {n op : Nat} (isn flags result : Nat) (force : Bool) (hop : op ≠ opEnd)
    (ha : (rt s n).abortAfter = none) :
    completeIns s n isn op flags .ok result force =
      let x := wr (okRecorded s n isn op flags result) (rCrLastIsn n) (BitVec.ofNat 64 isn)
      refreshState (setRt x n { rt x n with waiting := none, lastOk := some true, notOk := (rt x n).notOk }) n := by
  have hx : (rt (wr (okRecorded s n isn op flags result) (rCrLastIsn n) (BitVec.ofNat 64 isn)) n).abortAfter = none :=
    (okRecorded_abortAfter s n isn op flags result).trans ha
  unfold okRecorded at hx ⊢
  simp [completeIns, hop, hx, b2n]

theorem completeIns_ok_lastOk {s : State} {n op : Nat} (isn flags result : Nat) (force : Bool) (hop : op ≠ opEnd)
    (ha : (rt s n).abortAfter = none) : (rt (completeIns s n isn op flags .ok result force) n).lastOk = some true := by
  rw [completeIns_ok isn flags result force hop ha]
  dsimp only
  rw [refreshState_rt, rt_setRt]

theorem completeIns_ok_rd {s : State} {n op o : Nat} (isn flags result : Nat) (force : Bool) (hop : op ≠ opEnd)
    (ha : (rt s n).abortAfter = none) (hs : o ≠ rCrStatus n) (hl : o ≠ rCrLastIsn n) :
    rd (completeIns s n isn op flags .ok result force) o = rd s o := by
  rw [completeIns_ok isn flags result force hop ha]
  dsimp only
  rw [refreshState_rd _ _ _ hs]
  exact (rd_wr_other _ _ hl).trans (okRecorded_rd s n isn op flags result o)

theorem completeIns_ok_formeStatus {s : State} {n op : Nat} (isn flags result : Nat) (force : Bool) (hop : op ≠ opEnd)
    (ha : (rt s n).abortAfter = none) :
    rd (completeIns s n isn op flags .ok result force) rFormeStatus = rd s rFormeStatus :=
  completeIns_ok_rd isn flags result force hop ha (by unfold rFormeStatus rCrStatus; omega)
    (by unfold rFormeStatus rCrLastIsn; omega)

theorem completeIns_frame (s : State) (n isn op flags : Nat) (st : Status) (result : Nat) (force : Bool) :
    Outside 4106 s (completeIns s n isn op flags st result force) :=
  (completeIns_keeps (Within.refl _) s n isn op flags st result force (Keeps.refl _ _)).frame

-- The galley's timer

@[simp] theorem touchGalley_ctl (s : State) (n : Nat) : (touchGalley s n).ctl = s.ctl := by unfold touchGalley; split <;> rfl
@[simp] theorem touchGalley_rd (s : State) (n o : Nat) : rd (touchGalley s n) o = rd s o := by
  unfold touchGalley; split <;> rfl
@[simp] theorem touchGalley_cycle (s : State) (n : Nat) : (touchGalley s n).cycle = s.cycle := by
  unfold touchGalley; split <;> rfl
@[simp] theorem touchGalley_tab0 (s : State) (n : Nat) : (touchGalley s n).tab0 = s.tab0 := by
  unfold touchGalley; split <;> rfl
@[simp] theorem touchGalley_tab1 (s : State) (n : Nat) : (touchGalley s n).tab1 = s.tab1 := by
  unfold touchGalley; split <;> rfl
@[simp] theorem touchGalley_case (s : State) (n : Nat) : (touchGalley s n).forme.case = s.forme.case := by
  unfold touchGalley; split <;> rfl
@[simp] theorem touchGalley_asa (s : State) (n : Nat) : (touchGalley s n).forme.asa = s.forme.asa := by
  unfold touchGalley; split <;> rfl

theorem canon_touchGalley {s : State} (c : Canon s) (n : Nat) : Canon (touchGalley s n) := by
  unfold touchGalley; split <;> exact c

/-- A galley instruction that has issued finds the FORME_STATUS that stood before its issue. -/
theorem touched_formeStatus (s : State) (n op flags : Nat) :
    rd (touchGalley (issued s n op flags) n) rFormeStatus = rd s rFormeStatus := by
  rw [touchGalley_rd, issued_formeStatus]

-- The fields of FORME_STATUS depend on that register alone

theorem rdF_congr {s t : State} {o : Nat} (h : rd t o = rd s o) (hi lo : Nat) : rdF t o hi lo = rdF s o hi lo := by
  unfold rdF; rw [h]
theorem rdB_congr {s t : State} {o : Nat} (h : rd t o = rd s o) (i : Nat) : rdB t o i = rdB s o i := by
  unfold rdB; rw [h]

section
variable {s t : State} (h : rd t rFormeStatus = rd s rFormeStatus)
include h

theorem galleyState_congr : galleyState t = galleyState s := rdF_congr h _ _
theorem galleyOwner_congr : galleyOwner t = galleyOwner s := rdF_congr h _ _
theorem ownerGone_congr : ownerGone t = ownerGone s := rdB_congr h _
theorem prevState_congr : prevState t = prevState s := rdF_congr h _ _
theorem live_congr : live t = live s := rdB_congr h _

end

theorem touched_galleyState (s : State) (n op flags : Nat) :
    galleyState (touchGalley (issued s n op flags) n) = galleyState s := galleyState_congr (touched_formeStatus s n op flags)

-- Opening the galley

/-- The galley as GOPEN leaves it: OPEN, its log empty, ring n its owner. -/
def opened (g : State) (n : Nat) : State :=
  let s := wrF (setGalleyState (setLog g []) gsOpen) rFormeStatus 29 24 n
  { wrB s rFormeStatus 16 false with forme := { s.forme with galleyCycle := s.cycle } }

section
variable (g : State) (n : Nat)

theorem opened_ctl : (opened g n).ctl = g.ctl := rfl
theorem opened_tab0 : (opened g n).tab0 = g.tab0 := rfl
theorem opened_tab1 : (opened g n).tab1 = g.tab1 := rfl
theorem opened_galley : (opened g n).forme.galley = [] := rfl
theorem opened_galleyCycle : (opened g n).forme.galleyCycle = g.cycle := rfl
theorem opened_case : (opened g n).forme.case = g.forme.case := rfl
theorem opened_asa : (opened g n).forme.asa = g.forme.asa := rfl

end

section
variable {g : State} (c : Canon g) (n : Nat)
include c

/-- FORME_STATUS as GOPEN leaves it: GALLEY_WRITES 0, GALLEY_STATE OPEN, GALLEY_OWNER the ring, its owner not gone. -/
theorem opened_formeStatus : rd (opened g n) rFormeStatus =
    setField (setField (setField (setField (rd g rFormeStatus) 50 32 0) 10 8 gsOpen) 29 24 n) 16 16 0 := by
  have c1 := canon_wrF c rFormeStatus 50 32 0
  have c2 := canon_wrF c1 rFormeStatus 10 8 gsOpen
  have c3 := canon_wrF c2 rFormeStatus 29 24 n
  have e1 : rd (wrF g rFormeStatus 50 32 0) rFormeStatus = setField (rd g rFormeStatus) 50 32 0 := rd_wr_same c _ _
  rw [← e1, ← show rd (wrF _ rFormeStatus 10 8 gsOpen) rFormeStatus = _ from rd_wr_same c1 _ _,
    ← show rd (wrF _ rFormeStatus 29 24 n) rFormeStatus = _ from rd_wr_same c2 _ _]
  exact rd_wr_same c3 _ _

theorem opened_galleyState : galleyState (opened g n) = gsOpen := by
  unfold galleyState rdF
  rw [opened_formeStatus c]
  iterate 2 rw [field_setField_apart _ _ (by omega) (by omega) (by omega)]
  rw [field_setField_same _ _ (by omega) (by omega)]
  rfl

theorem opened_galleyOwner (hn : n < 64) : galleyOwner (opened g n) = n := by
  unfold galleyOwner rdF
  rw [opened_formeStatus c, field_setField_apart _ _ (by omega) (by omega) (by omega),
    field_setField_same _ _ (by omega) (by omega)]
  exact Nat.mod_eq_of_lt hn

theorem opened_ownerGone : ownerGone (opened g n) = false := by
  unfold ownerGone rdB
  rw [opened_formeStatus c, getLsbD_setField _ _ _ _ _ (by omega) (by omega)]
  rfl

theorem opened_galleyWrites : rdF (opened g n) rFormeStatus 50 32 = 0 := by
  unfold rdF
  rw [opened_formeStatus c]
  iterate 3 rw [field_setField_apart _ _ (by omega) (by omega) (by omega)]
  rw [field_setField_same _ _ (by omega) (by omega)]
  rfl

theorem opened_prevState : prevState (opened g n) = prevState g := by
  unfold prevState rdF
  rw [opened_formeStatus c]
  iterate 4 rw [field_setField_apart _ _ (by omega) (by omega) (by omega)]

theorem opened_live : live (opened g n) = live g := by
  unfold live rdB
  rw [opened_formeStatus c]
  iterate 4 rw [getLsbD_setField _ _ _ _ _ (by omega) (by omega), if_neg (by omega)]

end

/-- The checks of GOPEN in their order (R119). -/
def gopenChecks (s : State) (ins : Ins) : List (Bool × Status) :=
  [(decide (4 ≤ ins.flags) || !allZero ins, .eCheck), (galleyState s ≠ gsNone, .eFormeBusy)]

/-- With its unused bytes 0, a GOPEN fails exactly when a galley is OPEN or PENDING. -/
theorem firstFail_gopenChecks {s : State} {ins : Ins} (hf : ins.flags < 4) (hz : allZero ins = true) :
    firstFail (gopenChecks s ins) = if galleyState s = gsNone then none else some .eFormeBusy := by
  have hlt : ¬ 4 ≤ ins.flags := by omega
  by_cases h : galleyState s = gsNone <;> simp [gopenChecks, firstFail, hlt, hz, h]

/-- What a GOPEN of ring n does once it has issued. -/
def gopenAct (n : Nat) (ins : Ins) (s : State) : State × Verdict :=
  guardIns (touchGalley s n) (gopenChecks (touchGalley s n) ins) (fun g => (opened g n, .done .ok 0))

theorem exec_gopen_eq (ring : Fin 64) (ins : Ins) (s : State) : exec (.gopen ring ins) s =
    nextOf s (runIns s ring.val opGopen ins fun _ => gopenAct ring.val ins) := rfl

section
variable {s : State} {n : Nat} {ins : Ins} (hi : Issues s n opGopen ins) (hf : ins.flags < 4) (hz : allZero ins = true)
include hi hf hz

theorem runIns_gopen_opens (hg : galleyState s = gsNone) : runIns s n opGopen ins (fun _ => gopenAct n ins) =
    completeIns (opened (touchGalley (issued s n opGopen ins.flags) n) n) n s.ctl.isn opGopen ins.flags .ok 0 false := by
  have hpass := firstFail_gopenChecks (s := touchGalley (issued s n opGopen ins.flags) n) hf hz
  rw [touched_galleyState, if_pos hg] at hpass
  have hact : gopenAct n ins (issued s n opGopen ins.flags) =
      (opened (touchGalley (issued s n opGopen ins.flags) n) n, .done .ok 0) := guardIns_pass hpass
  exact runIns_still (act := fun _ => gopenAct n ins) hi hact ((opened_ctl _ n).trans (touchGalley_ctl _ n))

theorem runIns_gopen_busy (hg : galleyState s ≠ gsNone) : runIns s n opGopen ins (fun _ => gopenAct n ins) =
    completeIns (touchGalley (issued s n opGopen ins.flags) n) n s.ctl.isn opGopen ins.flags .eFormeBusy 0 false := by
  have hfail := firstFail_gopenChecks (s := touchGalley (issued s n opGopen ins.flags) n) hf hz
  rw [touched_galleyState, if_neg hg] at hfail
  have hact : gopenAct n ins (issued s n opGopen ins.flags) =
      (touchGalley (issued s n opGopen ins.flags) n, .done .eFormeBusy 0) := guardIns_fail hfail
  exact runIns_still (act := fun _ => gopenAct n ins) hi hact (touchGalley_ctl _ n)

end

/-- Settles O16: the galley that `opened` describes, seen through the completion of GOPEN, which leaves FORME_STATUS, the
formes and the tables alone. -/
theorem gopenOpensTheGalley : Obligations.GopenOpensTheGalley := by
  unfold Obligations.GopenOpensTheGalley
  intro ring ins s c n hi hf hz ha
  rw [Lands, exec_gopen_eq]
  refine ⟨fun hg => ?_, fun hg => congrArg (nextOf s) (runIns_gopen_busy hi hf hz hg)⟩
  refine ⟨_, congrArg (nextOf s) (runIns_gopen_opens hi hf hz hg), ?_⟩
  have cg : Canon (touchGalley (issued s n opGopen ins.flags) n) := canon_touchGalley (canon_issued c n opGopen ins.flags) n
  have hgs := touched_formeStatus s n opGopen ins.flags
  have hab : (rt (opened (touchGalley (issued s n opGopen ins.flags) n) n) n).abortAfter = none := by
    rw [rt_congr (opened_ctl _ n), rt_congr (touchGalley_ctl _ n), issued_abortAfter hi, ha]
  have hst := completeIns_ok_formeStatus (op := opGopen) s.ctl.isn ins.flags 0 false (by decide) hab
  have hfr := completeIns_frame (opened (touchGalley (issued s n opGopen ins.flags) n) n) n s.ctl.isn opGopen ins.flags
    .ok 0 false
  obtain ⟨ht0, ht1⟩ := hfr.tables rfl
  have hok := completeIns_ok_lastOk (op := opGopen) s.ctl.isn ins.flags 0 false (by decide) hab
  refine ⟨?_, ?_, ?_, ?_, ?_, ?_, ?_, ?_, ?_, ?_, ?_, ?_, ?_⟩
  · rw [galleyState_congr (irqEdge_rd s _ _), galleyState_congr hst, opened_galleyState cg]
  · rw [galleyOwner_congr (irqEdge_rd s _ _), galleyOwner_congr hst, opened_galleyOwner cg n ring.isLt]
  · rw [ownerGone_congr (irqEdge_rd s _ _), ownerGone_congr hst, opened_ownerGone cg]
  · rw [irqEdge_forme, hfr.formes rfl, opened_galley]
  · rw [irqEdge_rdF, rdF_congr hst, opened_galleyWrites cg]
  · rw [prevState_congr (irqEdge_rd s _ _), prevState_congr hst, opened_prevState cg, prevState_congr hgs]
  · rw [live_congr (irqEdge_rd s _ _), live_congr hst, opened_live cg, live_congr hgs]
  · rw [irqEdge_forme, hfr.formes rfl, opened_galleyCycle, touchGalley_cycle, issued_cycle]
  · rw [irqEdge_forme, hfr.formes rfl, opened_case, touchGalley_case, issued_forme]
  · rw [irqEdge_forme, hfr.formes rfl, opened_asa, touchGalley_asa, issued_forme]
  · rw [irqEdge_tab0, ht0, opened_tab0, touchGalley_tab0, issued_tab0]
  · rw [irqEdge_tab1, ht1, opened_tab1, touchGalley_tab1, issued_tab1]
  · rw [rt_congr (irqEdge_ctl _ _), hok]

-- The log (R124)

@[simp] theorem sameTarget_self (w : GWrite) : sameTarget w w = true := by simp [sameTarget]

theorem filter_same_logPut (l : List GWrite) (w : GWrite) : (logPut l w).filter (fun x => sameTarget x w) = [w] := by
  simp [logPut, List.filter_append, List.filter_filter]

theorem filter_other_logPut (l : List GWrite) (w : GWrite) :
    (logPut l w).filter (fun x => !sameTarget x w) = l.filter (fun x => !sameTarget x w) := by
  simp [logPut, List.filter_append, List.filter_filter]

theorem pairwise_logPut {l : List GWrite} (h : l.Pairwise (fun a b => sameTarget a b = false)) (w : GWrite) :
    (logPut l w).Pairwise (fun a b => sameTarget a b = false) := by
  refine List.pairwise_append.mpr ⟨h.filter _, List.pairwise_singleton _ _, fun a ha b hb => ?_⟩
  have hw : b = w := List.mem_singleton.mp hb
  have hne : (!sameTarget a w) = true := (List.mem_filter.mp ha).2
  simpa [hw] using hne

theorem length_logPut_le (l : List GWrite) (w : GWrite) : (logPut l w).length ≤ l.length + 1 := by
  rw [logPut, List.length_append]
  exact Nat.add_le_add_right (List.length_filter_le _ l) 1

/-- Settles O17: `logPut` drops every entry of the write's own target, keeps the others in order and ends with the write. -/
theorem laterWriteReplacesTheEarlierInTheLog : Obligations.LaterWriteReplacesTheEarlierInTheLog := by
  unfold Obligations.LaterWriteReplacesTheEarlierInTheLog
  intro l w h
  exact ⟨pairwise_logPut h w, List.getLast?_concat, filter_same_logPut l w, filter_other_logPut l w, length_logPut_le l w⟩

-- TW, TD and TM: placing entries, then one of three completions

theorem guardRows_pass {s : State} {ins : Ins} {checks : List (Bool × Status)} {act : State → State × Verdict}
    (h : firstFail checks = none) : guardRows s ins checks act = act s := by unfold guardRows; rw [h]

theorem placed_full {log : List GWrite} (t : State) (h : 262144 < log.length) : placed t (.inl log) = (t, .done .eFull 0) :=
  if_pos h

theorem placed_fits {log : List GWrite} (t : State) (h : log.length ≤ 262144) :
    placed t (.inl log) = (setLog t log, .done .ok log.length) := if_neg (by omega)

/-- Placing entries changes the log and GALLEY_WRITES alone, and no ring. -/
theorem placed_ctl (t : State) (p : List GWrite ⊕ (Status × Nat)) : (placed t p).1.ctl = t.ctl := by
  rcases p with log | f
  · unfold placed; dsimp only; split <;> rfl
  · rfl

/-- The state of a TW, TD or TM of ring n that has issued and whose entries placed as `p` tells. -/
def placedNext (s : State) (n op : Nat) (ins : Ins) (p : List GWrite ⊕ (Status × Nat)) : State :=
  let a := placed (touchGalley (issued s n op ins.flags) n) p
  settle a.1 n s.ctl.isn op ins.flags a.2

/-- A meaning that only places entries settles what their placing answers. -/
theorem runIns_placed {s : State} {n op : Nat} {ins : Ins} {act : Nat → State → State × Verdict}
    {p : List GWrite ⊕ (Status × Nat)} (h : Issues s n op ins)
    (e : act s.ctl.isn (issued s n op ins.flags) = placed (touchGalley (issued s n op ins.flags) n) p) :
    nextOf s (runIns s n op ins act) = .next (irqEdge s (placedNext s n op ins p)) :=
  congrArg (nextOf s) (runIns_still h e ((placed_ctl _ _).trans (touchGalley_ctl _ _)))

section
variable (s : State) (n op : Nat) (ins : Ins)

theorem placedNext_fits {log : List GWrite} (h : log.length ≤ 262144) : placedNext s n op ins (.inl log) =
    completeIns (setLog (touchGalley (issued s n op ins.flags) n) log) n s.ctl.isn op ins.flags .ok log.length false := by
  unfold placedNext; rw [placed_fits _ h]; rfl

theorem placedNext_full {log : List GWrite} (h : 262144 < log.length) : placedNext s n op ins (.inl log) =
    completeIns (touchGalley (issued s n op ins.flags) n) n s.ctl.isn op ins.flags .eFull 0 false := by
  unfold placedNext; rw [placed_full _ h]; rfl

theorem placedNext_fail (st : Status) (i : Nat) : placedNext s n op ins (.inr (st, i)) =
    completeIns (touchGalley (issued s n op ins.flags) n) n s.ctl.isn op ins.flags st i false := rfl

end

-- How each of the three places its entries, in the state `t` it finds

/-- TW: images of the operand block, row by row or key by key (R207). -/
def twPlace (t : State) (ins : Ins) (b : List Byte) : List GWrite ⊕ (Status × Nat) :=
  let l := t.forme.galley
  let len := imageLen t l ins.unit ins.index
  let imgs := (List.range (entryCount ins)).map (blockImage b len)
  if (indexedTable ins.unit).isSome then
    placeRows t l ins.unit ((List.range (entryCount ins)).map (fun i => (ins.index + i, blockImage b len i)))
  else placeAssoc (fun l x => assocWrite t l ins.unit ins.index x) imgs 0 l

/-- TD: rows to 0, or the keys of the operand block (R208). -/
def tdPlace (t : State) (ins : Ins) (b : List Byte) : List GWrite ⊕ (Status × Nat) :=
  let l := t.forme.galley
  if (indexedTable ins.unit).isSome then .inl ((List.range (entryCount ins)).foldl
    (fun l i => logPut l { table := ins.unit, row := ins.index + i, key := 0, del := false, image := 0 }) l)
  else placeAssoc (fun l x => assocDelete t l ins.unit ins.index x)
    ((List.range (entryCount ins)).map (blockImage b (imageLen t l ins.unit ins.index))) 0 l

/-- TM: each row or entry under its mask and value of the operand block (R209). -/
def tmPlace (t : State) (ins : Ins) (b : List Byte) : List GWrite ⊕ (Status × Nat) :=
  let l := t.forme.galley
  let len := imageLen t l ins.unit ins.index
  let mask (i : Nat) : Nat := blockImage b len (2 * i)
  let value (i : Nat) : Nat := blockImage b len (2 * i + 1)
  if (indexedTable ins.unit).isSome then
    placeRows t l ins.unit ((List.range (entryCount ins)).map (fun i =>
      (ins.index + i, maskInto (rowWith t l ins.unit (ins.index + i)) (mask i) (value i) (8 * len))))
  else placeAssoc (fun l i => assocModify t l ins.unit ins.index (mask i) (value i)) (List.range (entryCount ins)) 0 l

section
variable {ring : Fin 64} {ins : Ins} {b : List Byte} {s : State}

theorem exec_tw_placed (h : Issues s ring.val opTw ins)
    (hc : let t := touchGalley (issued s ring.val opTw ins.flags) ring.val
      firstFail (tableChecks t ring.val ins (entryCount ins * imageLen t t.forme.galley ins.unit ins.index)) = none) :
    exec (.tw ring ins (some b)) s = .next (irqEdge s (placedNext s ring.val opTw ins
      (twPlace (touchGalley (issued s ring.val opTw ins.flags) ring.val) ins b))) := by
  rw [exec_tw]
  refine runIns_placed h ((guardRows_pass hc).trans ?_)
  unfold twPlace
  dsimp only
  split <;> rfl

theorem exec_td_placed (h : Issues s ring.val opTd ins) (hz : (indexedTable ins.unit).isSome = true → ins.operand = 0)
    (hc : let t := touchGalley (issued s ring.val opTd ins.flags) ring.val
      firstFail (tableChecks t ring.val ins (if (indexedTable ins.unit).isSome then 0
        else entryCount ins * imageLen t t.forme.galley ins.unit ins.index)) = none) :
    exec (.td ring ins (some b)) s = .next (irqEdge s (placedNext s ring.val opTd ins
      (tdPlace (touchGalley (issued s ring.val opTd ins.flags) ring.val) ins b))) := by
  rw [exec_td]
  refine runIns_placed h ((guardRows_pass ?_).trans ?_)
  · by_cases hx : (indexedTable ins.unit).isSome = true
    · simpa [firstFail, hx, hz hx] using hc
    · simpa [firstFail, hx] using hc
  · unfold tdPlace
    dsimp only
    split <;> rfl

theorem exec_tm_placed (h : Issues s ring.val opTm ins)
    (hc : let t := touchGalley (issued s ring.val opTm ins.flags) ring.val
      firstFail (tableChecks t ring.val ins (entryCount ins * 2 * imageLen t t.forme.galley ins.unit ins.index)) = none) :
    exec (.tm ring ins (some b)) s = .next (irqEdge s (placedNext s ring.val opTm ins
      (tmPlace (touchGalley (issued s ring.val opTm ins.flags) ring.val) ins b))) := by
  rw [exec_tm]
  refine runIns_placed h ((guardRows_pass hc).trans ?_)
  unfold tmPlace
  dsimp only
  split <;> rfl

end

/-- The three completions of a command whose next state is `placedNext`: the log takes all the entries, or is full, or one of
them fails (R123, R211, R214). -/
theorem next_of_placed {c : Instr} {s : State} {n op : Nat} {ins : Ins} {p : List GWrite ⊕ (Status × Nat)}
    (e : exec c s = .next (irqEdge s (placedNext s n op ins p))) :
    let t := touchGalley (issued s n op ins.flags) n
    (∀ log, p = .inl log → log.length ≤ 262144 →
      exec c s = .next (irqEdge s (completeIns (setLog t log) n s.ctl.isn op ins.flags .ok log.length false))) ∧
    (∀ log, p = .inl log → 262144 < log.length →
      exec c s = .next (irqEdge s (completeIns t n s.ctl.isn op ins.flags .eFull 0 false))) ∧
    (∀ st i, p = .inr (st, i) →
      exec c s = .next (irqEdge s (completeIns t n s.ctl.isn op ins.flags st i false))) := by
  refine ⟨?_, ?_, ?_⟩
  · rintro log rfl hl
    exact e.trans (congrArg (nextOf s) (placedNext_fits s n op ins hl))
  · rintro log rfl hl
    exact e.trans (congrArg (nextOf s) (placedNext_full s n op ins hl))
  · rintro st i rfl
    exact e.trans (congrArg (nextOf s) (placedNext_fail s n op ins st i))

/-- Settles O18: each of the three instructions places its entries in its own way, and completes alike. -/
theorem tableInstructionsComplete : Obligations.TableInstructionsComplete := by
  unfold Obligations.TableInstructionsComplete
  intro ring ins b s c op hmem
  have hwm : ¬ opTw = opTm := by decide
  have hwd : ¬ opTw = opTd := by decide
  have hdm : ¬ opTd = opTm := by decide
  have hmd : ¬ opTm = opTd := by decide
  simp only [List.mem_cons, Prod.mk.injEq, List.not_mem_nil, or_false] at hmem
  rcases hmem with ⟨rfl, rfl⟩ | ⟨rfl, rfl⟩ | ⟨rfl, rfl⟩
  case inl =>
    simp only [hwm, hwd, false_and, if_false]
    intro h _ hc
    exact next_of_placed (exec_tw_placed h hc)
  case inr.inl =>
    simp only [hdm, true_and, if_true, if_false]
    intro h hz hc
    exact next_of_placed (exec_td_placed h (hz trivial) hc)
  case inr.inr =>
    simp only [hmd, false_and, if_true, if_false]
    intro h _ hc
    exact next_of_placed (exec_tm_placed h hc)

end Sys2Proof.Machine
end

section
/-! PROOFS. A lock-up of an empty galley (R216): what completion of a LOCK or LOCKAT leaves alone, what the end of a galley
writes, and the lock-up with nothing in its log. -/

namespace Sys2Proof.Machine

/-- A LOCKAT or SASW that takes effect leaves its record and CR_LAST_ISN, unless its ring has been reset since (R69, R81, R99). -/
theorem completeTimed_ok (s : State) (n isn op flags : Nat) (orphan : Bool) (result : Nat) :
    completeTimed s n isn op flags orphan .ok result = if orphan then s
      else wr (okRecorded s n isn op flags result) (rCrLastIsn n) (BitVec.ofNat 64 isn) := by
  simp [completeTimed, okRecorded]

-- Registers below those of the command rings: completion of an instruction reaches none of them

section
variable (s : State) (n : Nat) {o : Nat} (ho : o < 0x101000)
include ho

theorem below_ring_registers : o ≠ rCrHead n ∧ o ≠ rCrStatus n ∧ o ≠ rCrLastIsn n ∧ o ≠ rRecDrop := by
  unfold rCrHead rCrStatus rCrLastIsn rRecDrop; omega

theorem startProgram_rd_below : rd (startProgram s n) o = rd s o := by
  obtain ⟨-, hs, -, hd⟩ := below_ring_registers n ho
  unfold startProgram
  dsimp only
  split
  · rfl
  · split
    · exact refreshState_rd _ n o hs
    · split
      · rw [postHw_rd _ _ _ _ hd]
        exact (rd_wrF_other _ _ _ _ hs).trans (rd_wrB_other _ _ _ hs)
      · exact refreshState_rd _ n o hs

theorem abortProgram_rd_below (i st : Nat) (gone : Bool) : rd (abortProgram s n i st gone) o = rd s o := by
  obtain ⟨hh, hs, -, hd⟩ := below_ring_registers n ho
  unfold abortProgram
  dsimp only
  rw [refreshState_rd _ n o hs, startProgram_rd_below _ n ho, clearProgram_rd, postHw_rd _ _ _ _ hd,
    rd_wrB_other _ _ _ hs, rd_wrF_other _ _ _ _ hs, advanceHead_rd, rd_wrF_other _ _ _ _ hh, queueRec_rd]
  rfl

theorem completeIns_rd_below (isn op flags : Nat) (st : Status) (result : Nat) (force : Bool) :
    rd (completeIns s n isn op flags st result force) o = rd s o := by
  obtain ⟨-, hs, hl, -⟩ := below_ring_registers n ho
  have hrec : ∀ (b : Prop) [Decidable b] (x : Rec) (r : RingRt),
      rd (setRt (wr (if b then queueRec s n x else s) (rCrLastIsn n) (BitVec.ofNat 64 isn)) n r) o = rd s o := by
    intro b _ x r
    refine (rd_wr_other _ _ hl).trans ?_
    split <;> rfl
  unfold completeIns
  dsimp only
  split
  · exact (abortProgram_rd_below _ n ho _ _ _).trans (hrec _ _ _)
  · split
    · exact (abortProgram_rd_below _ n ho _ _ _).trans (hrec _ _ _)
    · split
      · rw [refreshState_rd _ n o hs, startProgram_rd_below _ n ho, clearProgram_rd]
        exact hrec _ _ _
      · exact (refreshState_rd _ n o hs).trans (hrec _ _ _)

theorem finishLock_ok_rd_below (l : PendLock) (result : Nat) : rd (finishLock s l .ok result) o = rd s o := by
  unfold finishLock
  dsimp only
  split
  · obtain ⟨-, -, hl, -⟩ := below_ring_registers l.ring ho
    rw [completeTimed_ok]
    split
    · rfl
    · exact (rd_wr_other _ _ hl).trans (okRecorded_rd _ _ _ _ _ _ _)
  · exact completeIns_rd_below _ _ ho _ _ _ _ _ _

end

/-- A completed LOCK or LOCKAT is pending no more, and nothing else of the formes and no row changes. -/
theorem finishLock_forme (s : State) (l : PendLock) (st : Status) (result : Nat) :
    (finishLock s l st result).forme = { s.forme with pendLock := none } ∧
      (finishLock s l st result).tab0 = s.tab0 ∧ (finishLock s l st result).tab1 = s.tab1 := by
  unfold finishLock
  dsimp only
  split
  · have hf := (completeTimed_keeps (pm := 4106) (Within.refl _) { s with forme := { s.forme with pendLock := none } } l.ring
      l.isn opLockat l.flags (ownerGone s) st result (Keeps.refl _ _)).frame
    exact ⟨hf.formes rfl, hf.tables rfl⟩
  · have hf := completeIns_frame { s with forme := { s.forme with pendLock := none } } l.ring l.isn opLock l.flags st result false
    exact ⟨hf.formes rfl, hf.tables rfl⟩

theorem canon_finishLock {s : State} (c : Canon s) (l : PendLock) (st : Status) (result : Nat) :
    Canon (finishLock s l st result) :=
  (finishLock_keeps (pm := 4110) (Within.refl _) s l st result (Keeps.refl _ _)).canon c

-- Postings of a lock-up: they reach the recorder's queues and REC_DROP alone

theorem postHw_frame (s : State) (code : Nat) (d : List (Nat × Nat)) : Outside 4104 s (postHw s code d) :=
  (postHw_keeps (Within.refl _) s code d (Keeps.refl _ _)).frame

/-- EV_APPROVED_FORCE for each override that a lock-up began changes no register but REC_DROP (R409). -/
theorem forceEvents_rd (before s : State) {o : Nat} (ho : o ≠ rRecDrop) : rd (forceEvents before s) o = rd s o := by
  unfold forceEvents
  dsimp only
  generalize (forceList s).filter _ = l
  induction l generalizing s with
  | nil => rfl
  | cons x l ih => exact (ih _).trans (postHw_rd s _ _ o ho)

/-- What a lock-up of an empty log posts and journals, before it completes its LOCK or LOCKAT. -/
def emptyLockPosts (before s : State) (gen : Nat) (l : PendLock) (late : Bool) : State :=
  let s := journalLock (forceEvents before s) gen l []
  let s := postHw s 0x0910 [(8, gen), (8, l.isn), (1, b2n late)]
  if late ∧ ¬ l.stepLate then postHw s 0x4912 [(8, gen), (8, opNs s - tNs l.sec l.ns)] else s

theorem emptyLockPosts_keeps (before s : State) (gen : Nat) (l : PendLock) (late : Bool) :
    Keeps 4104 s (emptyLockPosts before s gen l late) := by
  have hj : Keeps 4104 s (journalLock (forceEvents before s) gen l []) :=
    journalLock_keeps ((Within.refl _).sub rfl) _ _ _ _ (forceEvents_keeps (Within.refl _) _ _ (Keeps.refl _ _))
  have hp := postHw_keeps (Within.refl _) _ 0x0910 [(8, gen), (8, l.isn), (1, b2n late)] hj
  exact keeps_ite _ (fun _ => postHw_keeps (Within.refl _) _ _ _ hp) (fun _ => hp)

theorem emptyLockPosts_rd (before s : State) (gen : Nat) (l : PendLock) (late : Bool) {o : Nat} (ho : o ≠ rRecDrop) :
    rd (emptyLockPosts before s gen l late) o = rd s o := by
  have hp : rd (postHw (journalLock (forceEvents before s) gen l []) 0x0910 [(8, gen), (8, l.isn), (1, b2n late)]) o = rd s o :=
    (postHw_rd _ _ _ _ ho).trans ((regs_of_keeps (journalLock_keeps (Within.refl 8) _ _ _ _ (Keeps.refl _ _)) rfl o).trans
      (forceEvents_rd before s ho))
  unfold emptyLockPosts
  dsimp only
  split
  · exact (postHw_rd _ _ _ _ ho).trans hp
  · exact hp

-- The registers of a lock-up

/-- LIVE inverts, FORME_GEN increments, and the time and the ISN of the lock-up are noted (R137, R138). -/
def lockRegisters (s : State) (l : PendLock) : State :=
  let s := wrB s rFormeStatus 0 (!live s)
  let s := wr s rFormeGen (BitVec.ofNat 64 (formeGen s + 1))
  let s := wr (wr s rLockupTime0 (BitVec.ofNat 64 (secOf (opTime s)))) rLockupTime1 (BitVec.ofNat 64 (t128w1 (opTime s) s.clk.opGen))
  wr s rLockupIsn (BitVec.ofNat 64 l.isn)

section
variable {s : State} (l : PendLock)

theorem canon_lockRegisters (c : Canon s) : Canon (lockRegisters s l) :=
  canon_wr (canon_wr (canon_wr (canon_wr (canon_wrB c _ _ _) _ _) _ _) _ _) _ _

theorem lockRegisters_formeStatus (c : Canon s) :
    rd (lockRegisters s l) rFormeStatus = setField (rd s rFormeStatus) 0 0 (b2n (!live s)) := by
  unfold lockRegisters
  dsimp only
  iterate 4 rw [rd_wr_other _ _ (by decide)]
  exact rd_wr_same c _ _

theorem lockRegisters_formeGen (c : Canon s) : rd (lockRegisters s l) rFormeGen = rd s rFormeGen + 1 := by
  unfold lockRegisters
  dsimp only
  iterate 3 rw [rd_wr_other _ _ (by decide)]
  rw [rd_wr_same (canon_wrB c _ _ _)]
  unfold formeGen
  rw [rd_wrB_other _ _ _ (by decide), BitVec.ofNat_add, BitVec.ofNat_toNat, BitVec.setWidth_eq]
  rfl

end

-- The lock-up

theorem lockGates_nil (s : State) : lockGates s [] = s := by simp [lockGates]

/-- The log is behind the lock-up: PREV_STATE is LOCKED and no imposition is pending. -/
def asLocked (s : State) : State :=
  setPhase (setPrev { s with forme := { s.forme with lastLog := [], lockCycle := s.cycle } } 1) 0

/-- An empty lock-up up to the completion of its LOCK or LOCKAT. -/
def emptyLocked (s : State) (l : PendLock) (late : Bool) : State :=
  asLocked (emptyLockPosts s (lockRegisters s l) (formeGen (wrB s rFormeStatus 0 (!live s)) + 1) l late)

/-- With nothing in the log, no instant object acts: a lock-up is its registers, its postings and its completion. -/
theorem lockupNow_empty {s : State} (l : PendLock) (late : Bool) (hg : s.forme.galley = []) :
    lockupNow s l late = galleyNone (finishLock (emptyLocked s l late) l .ok
      (b2n late * 2 ^ 63 + (formeGen (wrB s rFormeStatus 0 (!live s)) + 1))) := by
  unfold lockupNow
  simp only [hg, List.any_nil, List.filter_nil, List.foldl_nil, lockGates_nil, Bool.false_eq_true, if_false]
  rfl

section
variable {s : State} (c : Canon s) (l : PendLock) (late : Bool)

theorem asLocked_forme (s : State) : (asLocked s).forme = { s.forme with lastLog := [], lockCycle := s.cycle } := rfl

theorem asLocked_tab0 (s : State) : (asLocked s).tab0 = s.tab0 := rfl
theorem asLocked_tab1 (s : State) : (asLocked s).tab1 = s.tab1 := rfl

theorem emptyLocked_forme (s : State) (l : PendLock) (late : Bool) :
    (emptyLocked s l late).forme = { s.forme with lastLog := [], lockCycle := s.cycle } ∧
      (emptyLocked s l late).tab0 = s.tab0 ∧ (emptyLocked s l late).tab1 = s.tab1 := by
  have hf := (emptyLockPosts_keeps s (lockRegisters s l) (formeGen (wrB s rFormeStatus 0 (!live s)) + 1) l late).frame
  obtain ⟨h0, h1⟩ := hf.tables rfl
  rw [emptyLocked, asLocked_forme, asLocked_tab0, asLocked_tab1, hf.formes rfl, hf.cycles rfl, h0, h1]
  simp [lockRegisters]

include c

theorem canon_emptyLocked : Canon (emptyLocked s l late) := by
  have hp := (emptyLockPosts_keeps s (lockRegisters s l) (formeGen (wrB s rFormeStatus 0 (!live s)) + 1) l late).canon
    (canon_lockRegisters l c)
  exact canon_wrF (canon_wrF hp _ _ _ _) _ _ _ _

/-- FORME_STATUS once an empty lock-up has acted: LIVE inverted, PREV_STATE LOCKED, no phase of imposition. -/
theorem emptyLocked_formeStatus : rd (emptyLocked s l late) rFormeStatus =
    setField (setField (setField (rd s rFormeStatus) 0 0 (b2n (!live s))) 5 4 1) 12 11 0 := by
  have hp := (emptyLockPosts_keeps s (lockRegisters s l) (formeGen (wrB s rFormeStatus 0 (!live s)) + 1) l late).canon
    (canon_lockRegisters l c)
  rw [← lockRegisters_formeStatus l c, ← emptyLockPosts_rd s (lockRegisters s l) _ l late (by decide)]
  refine (rd_wr_same (canon_wrF hp _ _ _ _) _ _).trans ?_
  exact congrArg (fun w => setField w 12 11 0) (rd_wr_same hp _ _)

theorem emptyLocked_formeGen : rd (emptyLocked s l late) rFormeGen = rd s rFormeGen + 1 := by
  rw [← lockRegisters_formeGen l c, ← emptyLockPosts_rd s (lockRegisters s l) _ l late (by decide)]
  exact (rd_wrF_other _ _ _ _ (by decide)).trans (rd_wrF_other _ _ _ _ (by decide))

end

-- The end of a galley

theorem galleyNone_forme (s : State) : (galleyNone s).forme = { s.forme with galley := [] } := rfl

theorem galleyNone_formeGen (s : State) : rd (galleyNone s) rFormeGen = rd s rFormeGen := by
  unfold galleyNone setGalleyState setLog
  rw [rd_wrF_other _ _ _ _ (by decide), rd_wrF_other _ _ _ _ (by decide)]
  exact rd_wrB_other _ _ _ (by decide)

section
variable {s : State} (c : Canon s)
include c

theorem galleyNone_formeStatus : rd (galleyNone s) rFormeStatus =
    setField (setField (setField (rd s rFormeStatus) 16 16 0) 50 32 0) 10 8 gsNone := by
  have c1 := canon_wrB c rFormeStatus 16 false
  have c2 := canon_wrF c1 rFormeStatus 50 32 0
  refine (rd_wr_same c2 _ _).trans (congrArg (fun w => setField w 10 8 gsNone) ?_)
  exact (rd_wr_same c1 _ _).trans (congrArg (fun w => setField w 50 32 0) (rd_wr_same c _ _))

theorem galleyNone_galleyState : galleyState (galleyNone s) = gsNone := by
  unfold galleyState rdF
  rw [galleyNone_formeStatus c, field_setField_same _ _ (by omega) (by omega)]
  rfl

theorem galleyNone_prevState : prevState (galleyNone s) = prevState s := by
  unfold prevState rdF
  rw [galleyNone_formeStatus c]
  iterate 3 rw [field_setField_apart _ _ (by omega) (by omega) (by omega)]

theorem galleyNone_live : live (galleyNone s) = live s := by
  unfold live rdB
  rw [galleyNone_formeStatus c]
  iterate 3 rw [getLsbD_setField _ _ _ _ _ (by omega) (by omega), if_neg (by omega)]

end

-- A boot save that a lock-up abandons

theorem abandonSave_frame (s : State) (cause : Nat) : Outside 6152 s (abandonSave s cause) :=
  (abandonSave_keeps (Within.refl _) s cause (Keeps.refl _ _)).frame

theorem abandonSave_rd (s : State) (cause : Nat) {o : Nat} (hb : o ≠ rBootStatus) (hd : o ≠ rRecDrop) :
    rd (abandonSave s cause) o = rd s o := by
  unfold abandonSave
  split
  · rfl
  · exact (postHw_rd _ _ _ _ hd).trans ((rd_wrB_other _ _ _ hb).trans (rd_wrB_other _ _ _ hb))

-- When a lock-up happens

section
variable {s : State} {l : PendLock} (hg : galleyState s = gsPending) (hp : pendPhase s = 2) (hl : s.forme.pendLock = some l)
include hg hp hl

/-- A LOCK that is imposed locks up with the next LOCKUP (R136). -/
theorem exec_lockup_lock (ht : l.timed = false) :
    exec .lockup s = .next (irqEdge s (abandonSave (lockupNow s l false) 0)) := by
  rw [exec_lockup]
  simp [execLockup, nextOf, onlyIf, lockDue, hg, hp, hl, ht]

/-- A LOCKAT that is imposed locks up once operational time has reached T (R143). -/
theorem exec_lockatTime_reached (ht : l.timed = true) (hT : tNs l.sec l.ns ≤ opNs s) :
    exec .lockatTime s = .next (irqEdge s (abandonSave (lockupNow s l (l.late || l.stepLate)) 0)) := by
  rw [exec_lockatTime]
  simp [execLockatTime, lockatNow, nextOf, onlyIf, hg, hp, hl, ht, hT]

end

/-- A lock-up of an empty galley, late or not, with a boot save that it abandons (R216, R1100): LIVE and FORME_GEN move on, the
galley ends and the old parity is LOCKED, with every row and entry as it was. -/
theorem emptyLockup_facts {s : State} (c : Canon s) (l : PendLock) (late : Bool) (hg : s.forme.galley = []) :
    let t := abandonSave (lockupNow s l late) 0
    live t = !live s ∧ rd t rFormeGen = rd s rFormeGen + 1 ∧ galleyState t = gsNone ∧ prevState t = 1 ∧
      t.tab0 = s.tab0 ∧ t.tab1 = s.tab1 ∧
      t.forme = { s.forme with lastLog := [], lockCycle := s.cycle, pendLock := none, galley := [] } := by
  rw [lockupNow_empty l late hg]
  generalize b2n late * 2 ^ 63 + (formeGen (wrB s rFormeStatus 0 (!live s)) + 1) = result
  intro t
  have cf : Canon (finishLock (emptyLocked s l late) l .ok result) := canon_finishLock (canon_emptyLocked c l late) _ _ _
  have hst : rd t rFormeStatus = rd (galleyNone (finishLock (emptyLocked s l late) l .ok result)) rFormeStatus :=
    abandonSave_rd _ 0 (by decide) (by decide)
  have hfs : rd (finishLock (emptyLocked s l late) l .ok result) rFormeStatus = rd (emptyLocked s l late) rFormeStatus :=
    finishLock_ok_rd_below _ (by decide) l result
  have hfr := abandonSave_frame (galleyNone (finishLock (emptyLocked s l late) l .ok result)) 0
  obtain ⟨hforme, h0, h1⟩ := finishLock_forme (emptyLocked s l late) l .ok result
  obtain ⟨heforme, he0, he1⟩ := emptyLocked_forme s l late
  refine ⟨?_, ?_, ?_, ?_, ?_, ?_, ?_⟩
  · rw [live_congr hst, galleyNone_live cf, live_congr hfs, live, rdB, emptyLocked_formeStatus c]
    iterate 2 rw [getLsbD_setField _ _ _ _ _ (by omega) (by omega), if_neg (by omega)]
    rw [getLsbD_setField _ _ _ _ _ (by omega) (by omega)]
    cases live s <;> rfl
  · rw [show rd t rFormeGen = _ from abandonSave_rd _ 0 (by decide) (by decide), galleyNone_formeGen,
      finishLock_ok_rd_below _ (by decide), emptyLocked_formeGen c]
  · rw [galleyState_congr hst, galleyNone_galleyState cf]
  · rw [prevState_congr hst, galleyNone_prevState cf, prevState_congr hfs, prevState, rdF, emptyLocked_formeStatus c,
      field_setField_apart _ _ (by omega) (by omega) (by omega), field_setField_same _ _ (by omega) (by omega)]
    rfl
  · rw [(hfr.tables rfl).1]
    exact h0.trans he0
  · rw [(hfr.tables rfl).2]
    exact h1.trans he1
  · rw [hfr.formes rfl, galleyNone_forme, hforme, heforme]

/-- Settles O22: LOCK and LOCKAT lock up alike, and with nothing in the log a lock-up moves LIVE, FORME_GEN and the states of
FORME_STATUS alone. -/
theorem anEmptyGalleyLocksUp : Obligations.AnEmptyGalleyLocksUp := by
  unfold Obligations.AnEmptyGalleyLocksUp
  intro s l c cs hpend hphase hl hg _ hc
  obtain ⟨late, hexec⟩ : ∃ late, exec c s = .next (irqEdge s (abandonSave (lockupNow s l late) 0)) := by
    rcases hc with ⟨rfl, ht⟩ | ⟨rfl, ht, hT⟩
    · exact ⟨_, exec_lockup_lock hpend hphase hl ht⟩
    · exact ⟨_, exec_lockatTime_reached hpend hphase hl ht hT⟩
  obtain ⟨hlive, hgen, hgal, hprev, h0, h1, hforme⟩ := emptyLockup_facts cs l late hg
  refine ⟨_, hexec, ?_⟩
  simp only [live_congr (irqEdge_rd s _ _), galleyState_congr (irqEdge_rd s _ _), prevState_congr (irqEdge_rd s _ _),
    irqEdge_rd, irqEdge_tab0, irqEdge_tab1, irqEdge_forme, hforme]
  exact ⟨hlive, hgen, hgal, hprev, h0, h1, trivial, trivial, trivial, trivial⟩

end Sys2Proof.Machine
end

section
/-! PROOFS. Quoins (R89, R90, R199). -/

namespace Sys2Proof.Machine

-- The fields of a slot

theorem bits_shiftLeft_le (n hi lo : Nat) : bits n hi lo <<< lo ≤ n := by
  unfold bits
  rw [Nat.shiftLeft_eq, Nat.shiftRight_eq_div_pow]
  exact (Nat.mul_le_mul_right _ (Nat.mod_le _ _)).trans (Nat.div_mul_le_self _ _)

/-- Putting a field's own value into it changes nothing. -/
theorem setBits_bits (n hi lo : Nat) : setBits n hi lo (bits n hi lo) = n := by
  have hmod : bits n hi lo % 2 ^ (hi + 1 - lo) = bits n hi lo := Nat.mod_mod _ _
  rw [setBits, hmod]
  exact Nat.sub_add_cancel (bits_shiftLeft_le n hi lo)

/-- A slot is made of its fields (Table 4.1). -/
theorem make_fields (i : Ins) : Ins.make i.opcode i.flags i.unit i.index i.operand = i := by
  obtain ⟨x⟩ := i
  refine congrArg Ins.mk (BitVec.eq_of_toNat_eq ?_)
  have hx : x.toNat < 2 ^ 128 := x.isLt
  simp only [Ins.opcode, Ins.flags, Ins.unit, Ins.index, Ins.operand, bits, Nat.shiftRight_eq_div_pow, BitVec.toNat_ofNat]
  omega

/-- A row whose VARIANT or MODE the slot already holds takes the slot as it is. -/
theorem withVariant_same {ins : Ins} {lo v : Nat} (h : bits ins.flags lo 2 = v) : withVariant ins lo v = ins := by
  rw [withVariant, ← h, setBits_bits, Ins.withFlags, make_fields]

-- Quoins

/-- Holding captures back leaves what the ring waits for. -/
theorem holdCaptures_waiting (s : State) (n v : Nat) : (rt (holdCaptures s n v) n).waiting = (rt s n).waiting := by
  unfold holdCaptures
  split
  · rw [rt_setRt]
  · rfl

/-- What a QUOIN of variant v answers in the state it finds. -/
def quoinAct (n v : Nat) (ins : Ins) (s : State) : State × Verdict :=
  guardIns s [(decide (32 ≤ ins.flags) || decide (4 < v) || !insPlain ins, .eCheck)] fun s =>
    let t := opNs s
    if quoinHolds s n v s.ctl.gateIn (formeIn s) t then (holdCaptures s n v, .done .ok (v * 2 ^ 61))
    else (s, .wait (.quoin v s.cycle s.ctl.gateIn (formeIn s) (t / 1000000000) (t % 1000000000)))

/-- With its unused bits 0, a QUOIN of Table 2.5 completes or waits as its condition tells. -/
theorem quoinAct_pass {ins : Ins} {v : Nat} (hv : v ≤ 4) (hf : ins.flags < 32) (hp : insPlain ins = true)
    (n : Nat) (t : State) :
    quoinAct n v ins t =
      if quoinHolds t n v t.ctl.gateIn (formeIn t) (opNs t) then (holdCaptures t n v, .done .ok (v * 2 ^ 61))
      else (t, .wait (.quoin v t.cycle t.ctl.gateIn (formeIn t) (opNs t / 1000000000) (opNs t % 1000000000))) := by
  have hlf : ¬ 32 ≤ ins.flags := by omega
  have hlv : ¬ 4 < v := by omega
  exact guardIns_pass (by simp [firstFail, hlf, hlv, hp])

theorem quoinRun_issue {s : State} {n : Nat} (v : Nat) (ins : Ins) (h : onQuoin s n = false) :
    quoinRun s n v ins = runIns s n opQuoin ins fun _ => quoinAct n v ins := by
  unfold quoinRun
  rw [h]
  rfl

theorem quoinRun_waits {s : State} {n : Nat} (v : Nat) (ins : Ins) (h : onQuoin s n = true) :
    quoinRun s n v ins = quoinPoll s n := if_pos h

section
variable {s : State} {n : Nat} {ins : Ins} (hi : Issues s n opQuoin ins) (hq : onQuoin s n = false)
include hi hq

/-- A VARIANT that Table 2.5 does not list is rejected (R199). -/
theorem quoinRun_unlisted {v : Nat} (hv : 4 < v) : quoinRun s n v ins =
    completeIns (issued s n opQuoin ins.flags) n s.ctl.isn opQuoin ins.flags .eCheck 0 false := by
  have hfail : firstFail [(decide (32 ≤ ins.flags) || decide (4 < v) || !insPlain ins, Status.eCheck)] = some .eCheck := by
    simp [firstFail, hv]
  rw [quoinRun_issue v ins hq]
  exact runIns_still (act := fun _ => quoinAct n v ins) hi (guardIns_fail hfail) rfl

variable {v : Nat} (hv : v ≤ 4) (hf : ins.flags < 32) (hp : insPlain ins = true)
include hv hf hp

theorem quoinRun_holds
    (hh : let t := issued s n opQuoin ins.flags; quoinHolds t n v t.ctl.gateIn (formeIn t) (opNs t) = true) :
    quoinRun s n v ins = completeIns (holdCaptures (issued s n opQuoin ins.flags) n v) n s.ctl.isn opQuoin ins.flags .ok
      (v * 2 ^ 61) false := by
  rw [quoinRun_issue v ins hq]
  refine runIns_settle (act := fun _ => quoinAct n v ins) hi ((quoinAct_pass hv hf hp n _).trans (if_pos hh)) ?_
  rw [holdCaptures_waiting]
  exact issued_waiting _ _ _ _

theorem quoinRun_not_yet
    (hh : let t := issued s n opQuoin ins.flags; quoinHolds t n v t.ctl.gateIn (formeIn t) (opNs t) = false) :
    let t := issued s n opQuoin ins.flags
    quoinRun s n v ins = settle t n s.ctl.isn opQuoin ins.flags
      (.wait (.quoin v t.cycle t.ctl.gateIn (formeIn t) (opNs t / 1000000000) (opNs t % 1000000000))) := by
  rw [quoinRun_issue v ins hq]
  exact runIns_still (act := fun _ => quoinAct n v ins) hi
    ((quoinAct_pass hv hf hp n _).trans (if_neg (by simpa using hh))) rfl

end

/-- A ring that waits on a quoin whose condition holds completes it (R90, R196). -/
theorem quoinPoll_holds {s : State} {n v since mark formeMark sec ns : Nat} {w : Waiting} (hw : (rt s n).waiting = some w)
    (hk : w.kind = .quoin v since mark formeMark sec ns) (hh : quoinHolds s n v mark formeMark (tNs sec ns) = true) :
    onQuoin s n = true ∧ quoinPoll s n = completeIns (holdCaptures s n v) n w.isn w.opcode w.flags .ok
      (v * 2 ^ 61 + min (nsOfCycles (s.cycle - since)) (2 ^ 61 - 1)) false := by
  obtain ⟨isn, op, fl, kind⟩ := w
  subst hk
  exact ⟨by simp only [onQuoin, hw], by simp only [quoinPoll, hw, hh, if_true]⟩

/-- The five rows of QUOIN: each polls the quoin its ring waits on, and else issues its own variant. -/
theorem exec_quoinRow {ring : Fin 64} {ins : Ins} {s : State} {v : Nat} {c : Instr}
    (h : (c, v) ∈ [(Instr.quoin ring ins, 0), (.quoinW ring ins, 1), (.quoinC ring ins, 2), (.quoinT ring ins, 3),
      (.quoinX ring ins, 4)]) :
    v ≤ 4 ∧ (onQuoin s ring.val = true → exec c s = nextOf s (quoinPoll s ring.val)) ∧
      (bits ins.flags 4 2 = v → exec c s = nextOf s (quoinRun s ring.val v ins)) := by
  have hrow : ∀ u, (onQuoin s ring.val = true →
        nextOf s (quoinRun s ring.val u (withVariant ins 4 u)) = nextOf s (quoinPoll s ring.val)) ∧
      (bits ins.flags 4 2 = u →
        nextOf s (quoinRun s ring.val u (withVariant ins 4 u)) = nextOf s (quoinRun s ring.val u ins)) := fun u =>
    ⟨fun hq => by rw [quoinRun_waits _ _ hq], fun hb => by rw [withVariant_same hb]⟩
  simp only [List.mem_cons, Prod.mk.injEq, List.not_mem_nil, or_false] at h
  rcases h with ⟨rfl, rfl⟩ | ⟨rfl, rfl⟩ | ⟨rfl, rfl⟩ | ⟨rfl, rfl⟩ | ⟨rfl, rfl⟩
  case inl =>
    refine ⟨by omega, fun hq => ?_, fun hb => ?_⟩
    · rw [exec_quoin, execQuoin]
      split <;> rw [quoinRun_waits _ _ hq]
    · rw [exec_quoin, execQuoin, hb]
      exact (hrow 0).2 hb
  case inr.inl => exact ⟨by omega, hrow 1⟩
  case inr.inr.inl => exact ⟨by omega, hrow 2⟩
  case inr.inr.inr.inl => exact ⟨by omega, hrow 3⟩
  case inr.inr.inr.inr => exact ⟨by omega, hrow 4⟩

/-- Settles O10: a quoin completes or waits as its condition tells when it issues, and a ring that waits looks at it again. -/
theorem quoinsCompleteOrWait : Obligations.QuoinsCompleteOrWait := by
  unfold Obligations.QuoinsCompleteOrWait
  intro ring ins s v c hrow n isn fl t mark formeMark
  obtain ⟨hv, hpoll, hissue⟩ := exec_quoinRow (s := s) hrow
  refine ⟨fun hi hq hb hf hp => ⟨fun hh => ?_, fun hh => ?_⟩, ?_, fun hi hq hb => ?_⟩
  · exact (hissue hb).trans (congrArg (nextOf s) (quoinRun_holds hi hq hv hf hp hh))
  · exact (hissue hb).trans (congrArg (nextOf s) (quoinRun_not_yet hi hq hv hf hp hh))
  · intro w since mark formeMark sec ns hw hk hh
    obtain ⟨hq, hdone⟩ := quoinPoll_holds hw hk hh
    exact (hpoll hq).trans (congrArg (nextOf s) hdone)
  · rw [exec_quoin, execQuoin, if_pos hb]
    exact congrArg (nextOf s) (quoinRun_unlisted hi hq hb)

end Sys2Proof.Machine
end

section
/-! PROOFS. Time instructions (R243 to R252). A step of operational time marks waits as late or pending and ends none, so an
instruction that steps time still occupies its ring when it completes. -/

namespace Sys2Proof.Machine

-- A ring that holds an instruction, waiting or in execution

def Occupied (n : Nat) (s : State) : Prop := (rt s n).waiting.isSome = true

section
variable {n : Nat} {s : State} (h : Occupied n s)
include h

theorem Occupied.of_rings {t : State} (e : t.ctl.rings = s.ctl.rings) : Occupied n t := by
  unfold Occupied rt
  rw [e]
  exact h

theorem Occupied.of_keeps {m : Nat} {t : State} (k : Keeps m s t) (hm : m.testBit 1 = false) : Occupied n t :=
  h.of_rings (congrArg (·.rings) (k.ctl hm))

theorem Occupied.setRt {k : Nat} {r : RingRt} (hr : r.waiting.isSome = true) : Occupied n (setRt s k r) := by
  unfold Occupied
  by_cases hk : n = k
  · rw [hk, rt_setRt]
    exact hr
  · rw [rt_setRt_other _ _ hk]
    exact h

end

theorem Occupied.foldl {α : Type} {n : Nat} {f : State → α → State} (hf : ∀ s x, Occupied n s → Occupied n (f s x))
    {s : State} (h : Occupied n s) (l : List α) : Occupied n (l.foldl f s) :=
  List.foldlRecOn (motive := Occupied n) l f h fun s hs x _ => hf s x hs

/-- The same for a fold that counts beside the state. -/
theorem Occupied.foldl_fst {α β : Type} {n : Nat} {f : State × β → α → State × β}
    (hf : ∀ a x, Occupied n a.1 → Occupied n (f a x).1) {a : State × β} (h : Occupied n a.1) (l : List α) :
    Occupied n (l.foldl f a).1 :=
  List.foldlRecOn (motive := fun a => Occupied n a.1) l f h fun a ha x _ => hf a x ha

-- A step of operational time, part by part

/-- A backward step makes the late WAITT of a ring pending again (R147). -/
def unpassRing (new : Nat) (s : State) (k : Nat) : State :=
  match (rt s k).waiting with
  | some ⟨i, o, f, .waitt sec ns true⟩ =>
    if new < tNs sec ns then setRt s k { rt s k with waiting := some ⟨i, o, f, .waitt sec ns false⟩ } else s
  | _ => s

/-- A forward step from `old` to `new` makes the WAITT that it passes over late, and counts it (R829). -/
def skipRing (old new : Nat) (a : State × Nat) (k : Nat) : State × Nat :=
  match (rt a.1 k).waiting with
  | some ⟨i, o, f, .waitt sec ns _⟩ =>
    if decide (old < tNs sec ns) && decide (tNs sec ns < new) then
      (setRt a.1 k { rt a.1 k with waiting := some ⟨i, o, f, .waitt sec ns true⟩ }, a.2 + 1)
    else a
  | _ => a

/-- The same for the pending LOCKAT (R148). -/
def skipLock (old new : Nat) (a : State × Nat) : State × Nat :=
  match a.1.forme.pendLock with
  | some l =>
    if l.timed && (decide (old < tNs l.sec l.ns) && decide (tNs l.sec l.ns < new)) then
      ({ a.1 with forme := { a.1.forme with pendLock := some { l with stepLate := true } } }, a.2 + 1)
    else a
  | none => a

/-- The same for the pending SASWs. -/
def skipSasws (old new : Nat) (s : State) : State :=
  { s with ctl := { s.ctl with sasws := s.ctl.sasws.map (fun x =>
      if decide (old < tNs x.sec x.ns) && decide (tNs x.sec x.ns < new) then { x with stepLate := true } else x) } }

/-- A pending gate list that the step passes over takes effect late, and others take their new place (R832, R833). -/
def skipGate (old new : Nat) (a : State × Nat) (p : Nat) : State × Nat :=
  let t := smGet (fun _ => 0) a.1.core.gateChange p
  if rdB a.1 (rGateStatus p) 62 && (decide (old < t) && decide (t < new)) then (gateTake (gateLate a.1 p t) p, a.2 + 1)
  else (gateRefresh a.1 p, a.2)

theorem unpass_rings (s : State) (new : Nat) :
    (unpass s new).ctl.rings = ((List.range 64).foldl (unpassRing new) s).ctl.rings := by
  unfold unpass
  generalize List.range 64 = l
  rfl

theorem afterStep_eq (s : State) (old : Nat) (amount : Int) : afterStep s old amount =
    let new := opNs s
    let a := (List.range 64).foldl (skipRing old new) (s, 0)
    let b := skipLock old new (if new < old then unpass a.1 new else a.1, a.2)
    let c := (List.range 16).foldl (fun (a : State × Nat) k => ((pealStep a.1 k old).1, a.2 + b2n (pealStep a.1 k old).2)) b
    let t := skipSasws old new c.1
    let k := c.2 + (c.1.ctl.sasws.filter (fun x => decide (old < tNs x.sec x.ns) && decide (tNs x.sec x.ns < new))).length
    let d := (gatePorts t).foldl (skipGate old new) (t, k)
    if d.2 = 0 then d.1 else postHw d.1 0x480A [(4, d.2), (8, toTwos 64 amount)] := by
  unfold afterStep
  generalize List.range 64 = l, List.range 16 = m
  rfl

section
variable {n : Nat}

theorem unpassRing_occupied (new : Nat) (s : State) (k : Nat) (h : Occupied n s) : Occupied n (unpassRing new s k) := by
  unfold unpassRing
  split
  · split
    · exact h.setRt rfl
    · exact h
  · exact h

theorem skipRing_occupied (old new : Nat) (a : State × Nat) (k : Nat) (h : Occupied n a.1) :
    Occupied n (skipRing old new a k).1 := by
  unfold skipRing
  split
  · split
    · exact h.setRt rfl
    · exact h
  · exact h

theorem skipLock_occupied (old new : Nat) {a : State × Nat} (h : Occupied n a.1) : Occupied n (skipLock old new a).1 := by
  unfold skipLock
  split
  · split
    · exact h.of_rings rfl
    · exact h
  · exact h

theorem skipGate_occupied (old new : Nat) (a : State × Nat) (p : Nat) (h : Occupied n a.1) :
    Occupied n (skipGate old new a p).1 := by
  unfold skipGate
  dsimp only
  split
  · exact (h.of_keeps (gateLate_keeps (Within.refl 4104) _ _ _ (Keeps.refl _ _)) rfl).of_keeps
      (gateTake_keeps (Within.refl 4160) _ _ (Keeps.refl _ _)) rfl
  · exact h.of_keeps (gateRefresh_keeps (Within.refl 4160) _ _ (Keeps.refl _ _)) rfl

theorem afterStep_occupied {s : State} (h : Occupied n s) (old : Nat) (amount : Int) : Occupied n (afterStep s old amount) := by
  rw [afterStep_eq]
  extract_lets new a b c t k d
  have ha : Occupied n a.1 := Occupied.foldl_fst (skipRing_occupied old new) h _
  have hu : Occupied n (if new < old then unpass a.1 new else a.1) := by
    split
    · exact (Occupied.foldl (unpassRing_occupied new) ha (List.range 64)).of_rings (unpass_rings a.1 new)
    · exact ha
  have hb : Occupied n b.1 := skipLock_occupied old new hu
  have hc : Occupied n c.1 := Occupied.foldl_fst
    (f := fun (a : State × Nat) k => ((pealStep a.1 k old).1, a.2 + b2n (pealStep a.1 k old).2))
    (fun a k h => h.of_keeps (pealStep_keeps (Within.refl 4608) a.1 k old (Keeps.refl _ _)) rfl) hb _
  have ht : Occupied n t := hc.of_rings rfl
  have hd : Occupied n d.1 := Occupied.foldl_fst (a := (t, k)) (skipGate_occupied old new) ht _
  split
  · exact hd
  · exact hd.of_keeps (postHw_keeps (Within.refl 4104) _ _ _ (Keeps.refl _ _)) rfl

theorem ppsStep_occupied {s : State} (h : Occupied n s) (d : Nat) : Occupied n (ppsStep s d) :=
  h.of_keeps (ppsStep_keeps (Within.refl 64) s d (Keeps.refl _ _)) rfl

/-- A step of a domain ends no wait. -/
theorem stepDomain_occupied {s : State} (h : Occupied n s) (d : Nat) (amount : Int) : Occupied n (stepDomain s d amount) := by
  unfold stepDomain
  extract_lets old noted past x stepped g counted clk summed posted
  have hpast : Occupied n past := by
    unfold past
    split <;> exact h.of_rings rfl
  have hstepped : Occupied n stepped := hpast.of_keeps (setDom_keeps (Within.refl 1) _ _ _ (Keeps.refl _ _)) rfl
  have hcounted : Occupied n counted := hstepped.of_rings rfl
  have hsummed : Occupied n summed := by
    unfold summed
    split <;> exact hcounted.of_rings rfl
  have hposted : Occupied n posted := hsummed.of_keeps (postHw_keeps (Within.refl 4104) _ _ _ (Keeps.refl _ _)) rfl
  split
  · refine afterStep_occupied (ppsStep_occupied ?_ d) _ _
    exact hposted.of_rings rfl
  · exact ppsStep_occupied hposted d

end

-- WAITT

/-- What a WAITT of T answers: it waits, or completes with its lateness (R80, R245). -/
def waittVerdict (t : State) (sec ns : Nat) : Verdict :=
  if opNs t < tNs sec ns then .wait (.waitt sec ns false)
  else .done .ok (if opNs t = tNs sec ns then 0 else 2 ^ 63 + (opNs t - tNs sec ns) % 2 ^ 63)

theorem exec_waitt_issued {ring : Fin 64} {ins : Ins} (b : List Byte) {s : State} (hi : Issues s ring.val opWaitt ins)
    (hf : ins.flags < 4) (hu : ins.unit = 0) (hx : ins.index = 0) (ho : ins.operand % 16 = 0) :
    let t := issued s ring.val opWaitt ins.flags
    exec (.waitt ring ins (some b)) s = nextOf s (settle t ring.val s.ctl.isn opWaitt ins.flags
      (waittVerdict t (leAt b 0 8) (leAt b 12 4))) := by
  have hlf : ¬ 4 ≤ ins.flags := by omega
  rw [exec_waitt]
  refine congrArg (nextOf s) (runIns_still (a := (_, waittVerdict _ _ _)) hi ((guardIns_pass ?_).trans ?_) rfl)
  · simp [firstFail, hlf, hu, hx, ho]
  · unfold waittVerdict
    dsimp only [blockSec, blockNs]
    split
    · rfl
    · split <;> rfl

/-- The wait of a WAITT ends once operational time has reached its T (R80, R829). -/
theorem waittNow_reached {s : State} {n sec ns : Nat} {late : Bool} {w : Waiting} (hw : (rt s n).waiting = some w)
    (hk : w.kind = .waitt sec ns late) (hT : tNs sec ns ≤ opNs s) : waittNow s n =
    completeIns s n w.isn w.opcode w.flags .ok (if late then 2 ^ 63 + (opNs s - tNs sec ns) % 2 ^ 63 else 0) false := by
  obtain ⟨isn, op, fl, kind⟩ := w
  subst hk
  simp only [waittNow, hw, onlyIf, hT, decide_true, if_true]

-- TSET

section
variable {ring : Fin 64} {ins : Ins} {s : State}

/-- A TSET of a proper time steps its domain to it and is journaled in two parts (R246, R247, R1168). -/
theorem exec_tset_steps (b : List Byte) (hi : Issues s ring.val opTset ins) (ho : ins.operand % 16 = 0)
    (hns : leAt b 12 4 < 1000000000)
    (hc : firstFail (timeChecks (issued s ring.val opTset ins.flags) ring.val (bits ins.flags 4 4) ins
      (decide (bits ins.flags 3 2 ≠ 0))) = none) :
    let n := ring.val
    let d := bits ins.flags 4 4
    let t := issued s n opTset ins.flags
    let new := leAt b 0 8 * unitsPerSec + leAt b 12 4 * 65536 + leAt b 10 2
    let u := stepDomain t d ((new : Int) - (domOf t d).t)
    exec (.tset ring ins (some b)) s = nextOf s (completeIns
      (journalPart (journal u 0x0030 (ringOrigin n)
          [(8, s.ctl.isn), (1, d), (1, 3), (8, toTwos 64 (clampNs ((nsTotal new : Int) - nsTotal (domOf t d).t)))])
        0x0031 (ringOrigin n) 1 [(8, leAt b 0 8), (4, leAt b 12 4), (2, leAt b 10 2), (2, domGen u d)])
      n s.ctl.isn opTset ins.flags .ok (domGen u d) false) := by
  intro n d t new u
  have hlt : ¬ 1000000000 ≤ blockNs b := by unfold blockNs; omega
  have hocc : Occupied n u := stepDomain_occupied (issued_waiting s n opTset ins.flags) _ _
  rw [exec_tset]
  refine congrArg (nextOf s) (runIns_settle (a := (_, .done .ok (domGen u d))) hi
    ((guardIns_pass ?_).trans (if_neg hlt)) (hocc.of_rings rfl))
  simpa [ho] using hc

-- TADJ

/-- What a TADJ of a MODE does to its domain: STEP, SLEW or FREQ (R248, R249). -/
def tadjEffect (t : State) (d mode : Nat) (amount : Int) : State :=
  if mode = 0 then stepDomain t d amount
  else if mode = 1 then slewDomain t d amount else wr t (rDomFreq d) (BitVec.ofNat 64 (toTwos 64 amount))

theorem tadjEffect_occupied {n : Nat} {t : State} (h : Occupied n t) (d mode : Nat) (amount : Int) :
    Occupied n (tadjEffect t d mode amount) := by
  unfold tadjEffect
  split
  · exact stepDomain_occupied h d amount
  · split
    · exact h.of_keeps (slewDomain_keeps (Within.refl 1) t d amount (Keeps.refl _ _)) rfl
    · exact h.of_rings rfl

theorem tadjRun_effect {mode : Nat} (hi : Issues s ring.val opTadj ins) (hm : bits ins.flags 3 2 = mode) (hmode : mode < 3)
    (hfar : mode = 2 → (signedOf 64 ins.operand).natAbs ≤ 32768000000)
    (hc : firstFail (timeChecks (issued s ring.val opTadj ins.flags) ring.val (bits ins.flags 4 4) ins false) = none) :
    let n := ring.val
    let d := bits ins.flags 4 4
    let amount := signedOf 64 ins.operand
    let u := tadjEffect (issued s n opTadj ins.flags) d mode amount
    tadjRun s n mode ins = completeIns
      (journal u 0x0030 (ringOrigin n) [(8, s.ctl.isn), (1, d), (1, mode), (8, toTwos 64 amount)]) n s.ctl.isn opTadj ins.flags
      .ok (if mode = 0 then domGen u d else if mode = 1 then slewNs u d else 0) false := by
  intro n d amount u
  have hocc : Occupied n u := tadjEffect_occupied (issued_waiting s n opTadj ins.flags) d mode amount
  have hown : (decide (bits ins.flags 3 2 = 3) || (decide (mode = 2) && decide (32768000000 < amount.natAbs))) = false := by
    have h3 : ¬ bits ins.flags 3 2 = 3 := by omega
    simpa [h3] using hfar
  unfold tadjRun
  refine runIns_settle (a := (_, .done .ok _)) hi ((guardIns_pass ?_).trans rfl) (hocc.of_rings rfl)
  rw [hown]
  exact hc

/-- The three rows of TADJ, each with the MODE that its slot holds. -/
theorem exec_tadjRow {mode : Nat} {c : Instr}
    (h : (c, mode) ∈ [(Instr.tadjStep ring ins, 0), (.tadjSlew ring ins, 1), (.tadjFreq ring ins, 2)])
    (hm : bits ins.flags 3 2 = mode) : mode < 3 ∧ exec c s = nextOf s (tadjRun s ring.val mode ins) := by
  have hrow : mode < 3 → nextOf s (tadjRun s ring.val mode (if bits ins.flags 3 2 = 3 then ins else withVariant ins 3 mode)) =
      nextOf s (tadjRun s ring.val mode ins) := by
    intro hlt
    rw [if_neg (by omega), withVariant_same hm]
  simp only [List.mem_cons, Prod.mk.injEq, List.not_mem_nil, or_false] at h
  rcases h with ⟨rfl, rfl⟩ | ⟨rfl, rfl⟩ | ⟨rfl, rfl⟩
  case inl => exact ⟨by omega, hrow (by omega)⟩
  case inr.inl => exact ⟨by omega, hrow (by omega)⟩
  case inr.inr => exact ⟨by omega, hrow (by omega)⟩

end

/-- Settles O14: WAITT by its verdict, TSET and TADJ by their effect, which leaves their ring occupied. -/
theorem timeInstructionsComplete : Obligations.TimeInstructionsComplete := by
  unfold Obligations.TimeInstructionsComplete
  intro ring ins b s n isn sec ns d
  refine ⟨?_, ?_, ?_, ?_⟩
  · intro hi hf hu hx ho t
    rw [exec_waitt_issued b hi hf hu hx ho]
    refine congrArg (nextOf s) ?_
    unfold waittVerdict
    split <;> rfl
  · intro w wsec wns late hw hk hT
    rw [exec_waittTimeReached]
    exact congrArg (nextOf s) (waittNow_reached hw hk hT)
  · intro hi ho hns t hc
    exact exec_tset_steps b hi ho hns hc
  · intro c mode hrow hm hi t amount hfar hc u
    obtain ⟨hlt, hexec⟩ := exec_tadjRow (s := s) hrow hm
    exact hexec.trans (congrArg (nextOf s) (tadjRun_effect hi hm hlt hfar hc))

end Sys2Proof.Machine
end

section
/-! PROOFS. Counter instructions (R233 to R242). -/

namespace Sys2Proof.Machine

-- Counters

/-- A capture holds one value for each counter it names. -/
theorem captureValues_length (s : State) (l : List (Nat × Nat × Nat)) : (captureValues s l).length = l.length :=
  List.length_map _

/-- Writing a destination block leaves every ring as it is. -/
theorem valueWrite_occupied {n : Nat} {s : State} (h : Occupied n s) (m isn addr : Nat) (data : List Byte) :
    Occupied n (valueWrite s m isn addr data) := h.of_rings rfl

theorem crdUnit_occupied {n : Nat} {s : State} (h : Occupied n s) (set u : Nat) (ack : Bool) :
    Occupied n (crdUnit s set u ack).1 := h.of_keeps (crdUnit_keeps (Within.refl 4096) s set u ack (Keeps.refl _ _)) rfl

section
variable {ring : Fin 64} {ins : Ins} {s : State}

/-- CSNAP (R233 to R236): every value in one core cycle. -/
theorem exec_csnap_values (hi : Issues s ring.val opCsnap ins)
    (hc : firstFail (ctrChecks (issued s ring.val opCsnap ins.flags) ins 4 true) = none) :
    let t := issued s ring.val opCsnap ins.flags
    exec (.csnap ring ins true) s = nextOf s (completeIns
      (valueWrite t ring.val s.ctl.isn ins.operand (captureHead t s.ctl.isn (ctrPlaces ins).length ++
        (captureValues t (ctrPlaces ins)).flatMap (leBytes 8))) ring.val s.ctl.isn opCsnap ins.flags .ok
      (ctrPlaces ins).length false) := by
  intro t
  have hocc : Occupied ring.val t := issued_waiting _ _ _ _
  rw [exec_csnap, ← captureValues_length t (ctrPlaces ins)]
  exact congrArg (nextOf s) (runIns_settle (a := (_, .done .ok _)) hi ((guardIns_pass hc).trans rfl)
    (valueWrite_occupied hocc _ _ _ _))

/-- CRD reads its first unit in the cycle it issues in (R237). -/
def crdFirst (t : State) (isn : Nat) (ins : Ins) : State × List Byte :=
  let r := crdUnit t ins.unit (ciFirst ins) (ins.flags.testBit 2)
  (r.1, captureHead t isn (ctrPlaces ins).length ++ r.2)

section
variable (hi : Issues s ring.val opCrd ins)
  (hc : firstFail (ctrChecks (issued s ring.val opCrd ins.flags) ins 8 true) = none)
include hi hc

theorem exec_crd_one (hu : ciUnits ins = 1) :
    let r := crdFirst (issued s ring.val opCrd ins.flags) s.ctl.isn ins
    exec (.crd ring ins true) s = nextOf s (completeIns (valueWrite r.1 ring.val s.ctl.isn ins.operand r.2) ring.val s.ctl.isn
      opCrd ins.flags .ok (ctrPlaces ins).length false) := by
  intro r
  have hocc : Occupied ring.val r.1 := crdUnit_occupied (issued_waiting s ring.val opCrd ins.flags) _ _ _
  rw [exec_crd]
  exact congrArg (nextOf s) (runIns_settle (a := (_, .done .ok _)) hi ((guardIns_pass hc).trans (if_pos hu))
    (valueWrite_occupied hocc _ _ _ _))

theorem exec_crd_more (hu : ciUnits ins ≠ 1) :
    let r := crdFirst (issued s ring.val opCrd ins.flags) s.ctl.isn ins
    exec (.crd ring ins true) s = nextOf s (settle r.1 ring.val s.ctl.isn opCrd ins.flags (.wait
      (.crd 1 (ciFirst ins) (ciUnits ins) ins.unit (ins.flags.testBit 2) ins.operand r.2 (ctrPlaces ins).length))) := by
  intro r
  have hocc : Occupied ring.val r.1 := crdUnit_occupied (issued_waiting s ring.val opCrd ins.flags) _ _ _
  rw [exec_crd]
  exact congrArg (nextOf s) (runIns_settle (a := (_, .wait _)) hi ((guardIns_pass hc).trans (if_neg hu)) hocc)

end

section
variable {n done first units set dest count : Nat} {ack : Bool} {block : List Byte} {w : Waiting}
  (hw : (rt s n).waiting = some w) (hk : w.kind = .crd done first units set ack dest block count)
include hw hk

theorem crdPoll_more (hlt : done + 1 < units) : (rt (crdPoll s n) n).waiting =
    some { w with kind := .crd (done + 1) first units set ack dest (block ++ (crdUnit s set (first + done) ack).2) count } := by
  obtain ⟨isn, op, fl, kind⟩ := w
  subst hk
  simp only [crdPoll, hw, hlt, if_true, rt_setRt]

theorem crdPoll_last (hle : units ≤ done + 1) :
    let r := crdUnit s set (first + done) ack
    crdPoll s n = completeIns (valueWrite r.1 n w.isn dest (block ++ r.2)) n w.isn w.opcode w.flags .ok count false := by
  obtain ⟨isn, op, fl, kind⟩ := w
  subst hk
  simp only [crdPoll, hw, if_neg (Nat.not_lt.mpr hle)]

end

/-- The Write Gate has passed what it had accepted, and what the counters held is kept for a capture of this cycle (R239, R847). -/
def cclrReady (t : State) (l : List (Nat × Nat × Nat)) : State :=
  { t with core := { t.core with now := { t.core.now with cleared := t.core.now.cleared ++ l.zip (placeValues t l) } } }

/-- Every counter named holds what it gained in this cycle, and its latched bits are clear when CLEAR_EVENTS asks for it (R239). -/
def cclrCleared (t : State) (ins : Ins) : State :=
  let l := ctrPlaces ins
  let u := (l.zip (cycleGain t l)).foldl (fun s x => setValue s x.1.1 x.1.2.1 x.1.2.2 x.2) (cclrReady t l)
  if ins.flags.testBit 2 then clearAllLatched u l true else u

theorem cclrCleared_occupied {n : Nat} {t : State} (h : Occupied n t) (ins : Ins) : Occupied n (cclrCleared t ins) := by
  have hready : Occupied n (cclrReady t (ctrPlaces ins)) := h.of_rings rfl
  have hset := hready.foldl (f := fun s (x : (Nat × Nat × Nat) × Nat) => setValue s x.1.1 x.1.2.1 x.1.2.2 x.2)
    (fun s x hs => hs.of_keeps (setValue_keeps (Within.refl 12288) s _ _ _ _ (Keeps.refl _ _)) rfl)
    ((ctrPlaces ins).zip (cycleGain t (ctrPlaces ins)))
  unfold cclrCleared
  dsimp only
  split
  · exact hset.of_keeps (clearAllLatched_keeps (Within.refl 4096) _ _ _ (Keeps.refl _ _)) rfl
  · exact hset

/-- CCLR, unless a write that the Write Gate passed before it has reset its ring (R239 to R241). -/
theorem exec_cclr_clears (hi : Issues s ring.val opCclr ins)
    (hc : firstFail (ctrChecks (issued s ring.val opCclr ins.flags) ins 8 false) = none)
    (hw : Occupied ring.val (gateDrain (issued s ring.val opCclr ins.flags))) :
    let n := ring.val
    exec (.cclr ring ins) s = nextOf s (completeIns
      (journal (cclrCleared (gateDrain (issued s n opCclr ins.flags)) ins) 0x0020 (ringOrigin n)
        [(8, s.ctl.isn), (2, ins.unit), (4, ciFirst ins), (2, ciUnits ins - 1), (1, b2n (ins.flags.testBit 2))])
      n s.ctl.isn opCclr ins.flags .ok (if ins.unit = 0x0805 then 8 else (ctrPlaces ins).length) false) := by
  intro n
  rw [exec_cclr]
  exact congrArg (nextOf s) (runIns_settle (a := (_, .done .ok _)) hi ((guardIns_pass hc).trans rfl)
    ((cclrCleared_occupied hw ins).of_rings rfl))

end

/-- Settles O25: each of CSNAP, CRD and CCLR by what it reads or clears, none of which ends its ring's wait. -/
theorem counterInstructionsComplete : Obligations.CounterInstructionsComplete := by
  unfold Obligations.CounterInstructionsComplete
  intro ring ins s n isn l head
  refine ⟨?_, ?_, ?_, ?_⟩
  · intro hi t hc
    exact exec_csnap_values hi hc
  · intro hi t r hc
    exact ⟨exec_crd_one hi hc, exec_crd_more hi hc⟩
  · intro w done first units set dest count ack block hw hk r
    exact ⟨crdPoll_more hw hk, crdPoll_last hw hk⟩
  · intro hi drained gained t u hc hw
    exact exec_cclr_clears hi hc hw

end Sys2Proof.Machine
end

section
/-! PROOFS. Pool instructions (R253 to R260). -/

namespace Sys2Proof.Machine

section
variable {ring : Fin 64} {ins : Ins} {s : State}

-- PALLOC

/-- The checks of PALLOC in their order (R254, R257). -/
def pallocChecks (ins : Ins) : List (Bool × Status) :=
  let bytes := bits ins.index 16 0
  let listed : Bool := ins.unit = 0x0CFF || (0x0C00 ≤ ins.unit && ins.unit ≤ 0x0C0F)
  [(decide (4 ≤ ins.flags) || ins.operand % 16 ≠ 0
      || (ins.unit = 0x0CFF && (bytes = 0 || decide (65536 < bytes))) || (listed && ins.unit ≠ 0x0CFF && bytes ≠ 0), .eCheck),
    (!listed, .eAddr)]

/-- A PALLOC that names the smallest fit with 1 to 65,536 octets, or one pool with BYTES 0, passes its checks. -/
theorem firstFail_pallocChecks (hf : ins.flags < 4) (ho : ins.operand % 16 = 0)
    (hu : ins.unit = 0x0CFF ∧ 1 ≤ bits ins.index 16 0 ∧ bits ins.index 16 0 ≤ 65536 ∨
      0x0C00 ≤ ins.unit ∧ ins.unit ≤ 0x0C0F ∧ bits ins.index 16 0 = 0) : firstFail (pallocChecks ins) = none := by
  have hlf : ¬ 4 ≤ ins.flags := by omega
  rcases hu with ⟨hfit, hlo, hhi⟩ | ⟨hlo, hhi, hz⟩
  · have h0 : ¬ bits ins.index 16 0 = 0 := by omega
    have hb : ¬ 65536 < bits ins.index 16 0 := by omega
    simp [pallocChecks, firstFail, hlf, ho, hfit, h0, hb]
  · have hne : ¬ ins.unit = 0x0CFF := by omega
    simp [pallocChecks, firstFail, hlf, ho, hne, hlo, hhi, hz]

/-- A PALLOC of an enabled pool k whose turn has come: it takes a buffer, or finds none (R255, R256, R1047, R1050). -/
def pallocAct (n isn k : Nat) (ins : Ins) (destOk : Bool) (t : State) : State × Verdict :=
  let tmo := bits ins.index 31 17
  if poolGrants t k ∧ poolFifo t k = [] ∧ 0 < poolFree t k then
    if ins.operand ≠ 0 ∧ ¬ destOk then operandFault t n isn ins.operand
    else
      let a := takeBuf t k (leMake n 1 lsInUse)
      (if ins.operand ≠ 0 then valueWrite a.1 n isn ins.operand (leBytes 8 (bufAddr t k a.2)) else a.1,
        .done .ok (bufAddr t k a.2))
  else if tmo = 0 then (t, .done .eFull 0)
  else (perf (setFifo t k (poolFifo t k ++ [{ ring := some n, need := 1, destOk := destOk }])) 41 0x0403 1,
    .wait (.palloc k (t.cycle + tmo * cyclesPerUs) ins.operand))

section
variable {n isn k : Nat} {t : State}

theorem pallocAct_takes (hfree : poolGrants t k = true ∧ poolFifo t k = [] ∧ 0 < poolFree t k) :
    let a := takeBuf t k (leMake n 1 lsInUse)
    pallocAct n isn k ins true t =
      (if ins.operand ≠ 0 then valueWrite a.1 n isn ins.operand (leBytes 8 (bufAddr t k a.2)) else a.1,
        .done .ok (bufAddr t k a.2)) := by
  unfold pallocAct
  dsimp only
  rw [if_pos hfree, if_neg (by simp)]

section
variable (hnone : ¬ (poolGrants t k = true ∧ poolFifo t k = [] ∧ 0 < poolFree t k)) (ok : Bool)
include hnone

theorem pallocAct_full (hz : bits ins.index 31 17 = 0) : pallocAct n isn k ins ok t = (t, .done .eFull 0) := by
  unfold pallocAct
  dsimp only
  rw [if_neg hnone, if_pos hz]

theorem pallocAct_waits (hz : bits ins.index 31 17 ≠ 0) : pallocAct n isn k ins ok t =
    (perf (setFifo t k (poolFifo t k ++ [{ ring := some n, need := 1, destOk := ok }])) 41 0x0403 1,
      .wait (.palloc k (t.cycle + bits ins.index 31 17 * cyclesPerUs) ins.operand)) := by
  unfold pallocAct
  dsimp only
  rw [if_neg hnone, if_neg hz]

end

end

theorem takeBuf_occupied {n : Nat} {t : State} (h : Occupied n t) (k v : Nat) : Occupied n (takeBuf t k v).1 :=
  h.of_keeps (takeBuf_keeps (Within.refl 37888) t k v (Keeps.refl _ _)) rfl

section
variable {k : Nat} {t : State} (hi : Issues s ring.val opPalloc ins) (hc : firstFail (pallocChecks ins) = none)
  (ht : ringGrant (issued s ring.val opPalloc ins.flags) ring.val = t)
  (hk : pallocPool t ring.val ins.unit (bits ins.index 16 0) = some k) (hw : Occupied ring.val t)
include hi hc ht hk

theorem exec_palloc_pool {ok : Bool} {a : State × Verdict} (ha : pallocAct ring.val s.ctl.isn k ins ok t = a)
    (hw : Occupied ring.val a.1) :
    exec (.palloc ring ins ok) s = nextOf s (settle a.1 ring.val s.ctl.isn opPalloc ins.flags a.2) := by
  rw [exec_palloc]
  refine congrArg (nextOf s) (runIns_settle hi ((guardIns_pass hc).trans ?_) hw)
  dsimp only
  rw [ht, hk]
  exact ha

include hw

/-- A pool that grants, with no one waiting, gives a FREE buffer at once (R255). -/
theorem exec_palloc_takes (hfree : poolGrants t k = true ∧ poolFifo t k = [] ∧ 0 < poolFree t k) :
    let n := ring.val
    let a := takeBuf t k (leMake n 1 lsInUse)
    exec (.palloc ring ins true) s = nextOf s (completeIns
      (if ins.operand ≠ 0 then valueWrite a.1 n s.ctl.isn ins.operand (leBytes 8 (bufAddr t k a.2)) else a.1)
      n s.ctl.isn opPalloc ins.flags .ok (bufAddr t k a.2) false) := by
  intro n a
  have hbuf : Occupied n a.1 := takeBuf_occupied hw k _
  have hocc : Occupied n (if ins.operand ≠ 0 then valueWrite a.1 n s.ctl.isn ins.operand (leBytes 8 (bufAddr t k a.2))
      else a.1) := by
    split
    · exact valueWrite_occupied hbuf _ _ _ _
    · exact hbuf
  have hexec := exec_palloc_pool hi hc ht hk (pallocAct_takes hfree) hocc
  exact hexec

section
variable (hnone : ¬ (poolGrants t k = true ∧ poolFifo t k = [] ∧ 0 < poolFree t k)) (ok : Bool)
include hnone

theorem exec_palloc_full (hz : bits ins.index 31 17 = 0) : exec (.palloc ring ins ok) s = nextOf s
    (completeIns t ring.val s.ctl.isn opPalloc ins.flags .eFull 0 false) := by
  have hexec := exec_palloc_pool hi hc ht hk (pallocAct_full hnone ok hz) hw
  exact hexec

theorem exec_palloc_waits (hz : bits ins.index 31 17 ≠ 0) :
    let n := ring.val
    exec (.palloc ring ins ok) s = nextOf s (settle
      (perf (setFifo t k (poolFifo t k ++ [{ ring := some n, need := 1, destOk := ok }])) 41 0x0403 1)
      n s.ctl.isn opPalloc ins.flags (.wait (.palloc k (t.cycle + bits ins.index 31 17 * cyclesPerUs) ins.operand))) := by
  intro n
  have hfifo : Occupied n (setFifo t k (poolFifo t k ++ [{ ring := some n, need := 1, destOk := ok }])) := hw.of_rings rfl
  have hexec := exec_palloc_pool hi hc ht hk (pallocAct_waits hnone ok hz)
    (hfifo.of_keeps (perf_keeps (Within.refl 4096) _ _ _ _ (Keeps.refl _ _)) rfl)
  exact hexec

end

end

/-- TIMEOUT_US ends the wait of a PALLOC (R256, R1052). -/
theorem pallocExpire_due {n k deadline dest : Nat} {w : Waiting} (hw : (rt s n).waiting = some w)
    (hk : w.kind = .palloc k deadline dest) (hd : deadline ≤ s.cycle) :
    pallocExpire s n = completeIns (pallocLeave s n) n w.isn w.opcode w.flags .eTimeout 0 false := by
  simp only [pallocExpire, hw, hk, onlyIf, hd, decide_true, if_true]

-- PFREE and PREF

theorem firstFail_poolFields (hf : ins.flags < 4) (hu : ins.unit = 0) (hx : ins.index = 0) :
    firstFail [(poolFieldsBad ins, Status.eCheck)] = none := by
  have hlf : ¬ 4 ≤ ins.flags := by omega
  simp [firstFail, poolFieldsBad, hlf, hu, hx]

/-- PFREE answers what freeing the buffer answers (R258), as long as its ring then still holds it. -/
theorem exec_pfree_frees (hi : Issues s ring.val opPfree ins) (hc : firstFail [(poolFieldsBad ins, Status.eCheck)] = none) :
    let n := ring.val
    let t := ringGrant (issued s n opPfree ins.flags) n
    let r := freeBuf t (ringMemory t n) (ringRights t n) (ringOrigin n) ins.operand
    Occupied n r.1 → exec (.pfree ring ins) s = nextOf s (completeIns r.1 n s.ctl.isn opPfree ins.flags r.2.1 r.2.2 false) := by
  intro n t r hw
  rw [exec_pfree]
  exact congrArg (nextOf s) (runIns_settle (a := (_, .done _ _)) hi ((guardIns_pass hc).trans rfl) hw)

/-- What a PREF of a buffer that passes its checks answers: one reference more, up to 63 (R259, R260). -/
def prefAct (n : Nat) (ins : Ins) (t : State) : State × Verdict :=
  let c := bufCheck t (ringMemory t n) (ringRights t n) ins.operand
  let v := ledger t c.2.2
  if 63 ≤ leRefs v then (t, .done .eFull 0)
  else (setLedger t c.2.2 (leMake (leOwner v) (leRefs v + 1) lsInUse), .done .ok (leRefs v + 1))

theorem exec_pref_counts (hi : Issues s ring.val opPref ins) (hc : firstFail [(poolFieldsBad ins, Status.eCheck)] = none) :
    let n := ring.val
    let t := ringGrant (issued s n opPref ins.flags) n
    (bufCheck t (ringMemory t n) (ringRights t n) ins.operand).1 = .ok → Occupied n t →
    exec (.pref ring ins) s = nextOf s (settle (prefAct n ins t).1 n s.ctl.isn opPref ins.flags (prefAct n ins t).2) := by
  intro n t hok hw
  have hocc : Occupied n (prefAct n ins t).1 := by
    unfold prefAct
    dsimp only
    split
    · exact hw
    · exact hw.of_rings rfl
  rw [exec_pref]
  exact congrArg (nextOf s) (runIns_settle hi ((guardIns_pass hc).trans (if_neg (not_not.mpr hok))) hocc)

end

/-- Settles O28: each pool instruction in the state its turn at the arbitration point leaves, where it still occupies its ring. -/
theorem poolInstructionsComplete : Obligations.PoolInstructionsComplete := by
  unfold Obligations.PoolInstructionsComplete
  intro ring ins s n isn bytes tmo
  refine ⟨?_, ?_, ?_, ?_⟩
  · intro k hi hf ho hu t hw hk
    have hc := firstFail_pallocChecks hf ho hu
    refine ⟨fun hgrants hfifo hfree => exec_palloc_takes hi hc rfl hk hw ⟨hgrants, hfifo, hfree⟩, fun hnone => ⟨?_, ?_⟩⟩
    · intro hz ok
      exact exec_palloc_full hi hc rfl hk hw hnone ok hz
    · intro hz ok
      exact exec_palloc_waits hi hc rfl hk hw hnone ok hz
  · intro w k deadline dest hw hk hd
    rw [exec_pallocTimeout]
    exact congrArg (nextOf s) (pallocExpire_due hw hk hd)
  · intro hi hf hu hx t r hw
    exact exec_pfree_frees hi (firstFail_poolFields hf hu hx) hw
  · intro hi hf hu hx t c v hok hw
    have hpref := exec_pref_counts hi (firstFail_poolFields hf hu hx) hok hw
    refine ⟨fun hfull => hpref.trans ?_, fun hroom => hpref.trans ?_⟩
    · have hact : prefAct n ins t = _ := if_pos hfull
      rw [hact]
      rfl
    · have hact : prefAct n ins t = _ := if_neg (Nat.not_le.mpr hroom)
      rw [hact]
      rfl

end Sys2Proof.Machine
end

section
/-! PROOFS. Steps and slews of a domain (R771, R772, R778). What a step of operational time does to rings, gate lists, Peal
schedules and PPS outputs writes no register of the time block, where both step generations and the followed domain stand, and
none of it touches the clock. -/

namespace Sys2Proof.Machine

-- The registers of the time block, below those of the gates, hold through what a step sets off

section
variable {o : Nat} (ho : 0x800000 ≤ o ∧ o < 0x801000) (s : State)
include ho

theorem postHw_rd_time (code : Nat) (data : List (Nat × Nat)) : rd (postHw s code data) o = rd s o :=
  postHw_rd s code data o (by unfold rRecDrop; omega)

theorem raiseHalf_rd_time (p w b : Nat) : rd (raiseHalf s (rStatHalf p w) b) o = rd s o :=
  rd_wrB_other s b true (by unfold rStatHalf rPort; omega)

theorem macAdd_rd_time (p i n : Nat) : rd (macAdd s p i n) o = rd s o := by
  have hstat : o ≠ rMacStat p i := by unfold rMacStat rPort; omega
  have hwrap : o ≠ rStatWrap p (i / 64) := by unfold rStatWrap rPort; omega
  unfold macAdd
  dsimp only
  split_ifs <;> simp only [rd_wrB_other _ _ _ hwrap, raiseHalf_rd_time ho, rd_wrF_other _ _ _ _ hstat]

theorem setGateHold_rd_time (p : Nat) (v : Bool) : rd (setGateHold s p v) o = rd s o := by
  have hgate : o ≠ rGateStatus p := by unfold rGateStatus; omega
  unfold setGateHold
  dsimp only
  split_ifs <;> simp only [macAdd_rd_time ho, rd_wrB_other _ _ _ hgate]

theorem gateApply_rd_time (p e : Nat) : rd (gateApply s p e) o = rd s o := by
  have hgate : o ≠ rGateStatus p := by unfold rGateStatus; omega
  unfold gateApply
  dsimp only
  split_ifs <;> simp only [setGateHold_rd_time ho, rd_wrF_other _ _ _ _ hgate]

theorem gateRefresh_rd_time (p : Nat) : rd (gateRefresh s p) o = rd s o := by
  unfold gateRefresh
  split
  · exact gateApply_rd_time ho s p _
  · rfl

theorem gateTake_rd_time (p : Nat) : rd (gateTake s p) o = rd s o := by
  have hgate : o ≠ rGateStatus p := by unfold rGateStatus; omega
  have hcopy : rd (gateCopy s p) o = rd s o := regs_of_keeps (gateCopy_keeps (Within.refl 64) s p (Keeps.refl _ _)) rfl o
  unfold gateTake
  dsimp only
  split_ifs <;>
    simp only [gateApply_rd_time ho, setGateHold_rd_time ho, rd_wrF_other _ _ _ _ hgate, rd_wrB_other _ _ _ hgate, hcopy]

theorem skipGate_rd_time (old new : Nat) (a : State × Nat) (p : Nat) : rd (skipGate old new a p).1 o = rd a.1 o := by
  unfold skipGate
  dsimp only
  split
  · exact (gateTake_rd_time ho _ p).trans (postHw_rd_time ho a.1 _ _)
  · exact gateRefresh_rd_time ho a.1 p

theorem setPealNext_rd_time {k : Nat} (hk : k < 16) (t : Nat) : rd (setPealNext s k t) o = rd s o := by
  have hpeal (j : Nat) (hj : j < 0x80) : o ≠ rPeal k j := by unfold rPeal; omega
  unfold setPealNext
  dsimp only
  rw [rd_wr_other _ _ (hpeal 0x58 (by decide)), rd_wr_other _ _ (hpeal 0x50 (by decide))]
  rfl

theorem pealStep_rd_time {k : Nat} (hk : k < 16) (old : Nat) : rd (pealStep s k old).1 o = rd s o := by
  unfold pealStep
  dsimp only
  split
  · exact setPealNext_rd_time ho _ hk _
  · rfl

end

theorem skipRing_rd (old new : Nat) (a : State × Nat) (k o : Nat) : rd (skipRing old new a k).1 o = rd a.1 o := by
  unfold skipRing
  split
  · split <;> rfl
  · rfl

theorem skipLock_rd (old new : Nat) (a : State × Nat) (o : Nat) : rd (skipLock old new a).1 o = rd a.1 o := by
  unfold skipLock
  split
  · split <;> rfl
  · rfl

theorem rd_foldl_fst {α : Type} {o : Nat} {f : State × Nat → α → State × Nat} (l : List α)
    (hf : ∀ a, ∀ x ∈ l, rd (f a x).1 o = rd a.1 o) (a : State × Nat) : rd (l.foldl f a).1 o = rd a.1 o :=
  List.foldlRecOn (motive := fun b => rd b.1 o = rd a.1 o) l f rfl fun b hb x hx => (hf b x hx).trans hb

theorem afterStep_rd_time {o : Nat} (ho : 0x800000 ≤ o ∧ o < 0x801000) (s : State) (old : Nat) (amount : Int) :
    rd (afterStep s old amount) o = rd s o := by
  rw [afterStep_eq]
  extract_lets new a b c t k d
  have hrings : rd a.1 o = rd s o := rd_foldl_fst _ (fun a x _ => skipRing_rd old new a x o) (s, 0)
  have hback : rd (if new < old then unpass a.1 new else a.1) o = rd a.1 o := by
    split
    · exact regs_of_keeps (unpass_keeps (Within.refl 6) a.1 new (Keeps.refl _ _)) rfl o
    · rfl
  have hlock : rd b.1 o = rd (if new < old then unpass a.1 new else a.1) o := skipLock_rd old new _ o
  have hpeals : rd c.1 o = rd b.1 o :=
    rd_foldl_fst (List.range 16) (fun a k hk => pealStep_rd_time ho a.1 (List.mem_range.1 hk) old) b
  have hgates : rd d.1 o = rd c.1 o := rd_foldl_fst _ (fun a p _ => skipGate_rd_time ho old new a p) (t, k)
  have hall : rd d.1 o = rd s o := hgates.trans (hpeals.trans (hlock.trans (hback.trans hrings)))
  split
  · exact hall
  · exact (postHw_rd_time ho d.1 _ _).trans hall

-- Updates of a domain

theorem domOf_setDom_same (s : State) (d : Nat) (x : Dom) : domOf (setDom s d x) d = x := by
  unfold domOf setDom
  split <;> rfl

theorem domOf_setDom_other (s : State) {d e : Nat} (x : Dom) (h : ¬ (e = 1 ↔ d = 1)) : domOf (setDom s d x) e = domOf s e := by
  unfold domOf setDom
  by_cases hd : d = 1
  · have he : ¬ e = 1 := fun he => h (by simp [he, hd])
    rw [if_pos hd, if_neg he, if_neg he]
  · have he : e = 1 := by tauto
    rw [if_neg hd, if_pos he, if_pos he]

theorem setDom_eq_clk (s : State) (d : Nat) (x : Dom) : setDom s d x = { s with clk := (setDom s d x).clk } := by
  unfold setDom
  split <;> rfl

theorem setDom_opGen (s : State) (d : Nat) (x : Dom) : (setDom s d x).clk.opGen = s.clk.opGen := by
  unfold setDom
  split <;> rfl

theorem setDom_resid (s : State) (d : Nat) (x : Dom) : (setDom s d x).clk.resid = s.clk.resid := by
  unfold setDom
  split <;> rfl

theorem setDom_rd (s : State) (d : Nat) (x : Dom) (o : Nat) : rd (setDom s d x) o = rd s o := by
  unfold rd
  rw [setDom_regs]

theorem opDomain_lt_two (s : State) : opDomain s < 2 := by
  unfold opDomain
  split
  · exact Nat.mod_lt _ (by decide)
  · decide

-- States that show the same time

/-- Both domains, the residual, operational time's generation and the time block's registers are the same; the noted past
and the sums of steps, which no clock shows (R773), may differ. -/
structure SameTime (s t : State) : Prop where
  variant : t.variant = s.variant
  regs : ∀ o, 0x800000 ≤ o ∧ o < 0x801000 → rd t o = rd s o
  domA : t.clk.domA = s.clk.domA
  domB : t.clk.domB = s.clk.domB
  resid : t.clk.resid = s.clk.resid
  opGen : t.clk.opGen = s.clk.opGen

theorem SameTime.trans {a b c : State} (h : SameTime a b) (k : SameTime b c) : SameTime a c :=
  ⟨k.variant.trans h.variant, fun o ho => (k.regs o ho).trans (h.regs o ho), k.domA.trans h.domA, k.domB.trans h.domB,
    k.resid.trans h.resid, k.opGen.trans h.opGen⟩

/-- An operation that does not reach the clock shows the same time when it leaves the time block's registers. -/
theorem SameTime.of_keeps {m : Nat} {s t : State} (k : Keeps m s t) (hm : m.testBit 0 = false)
    (hr : ∀ o, 0x800000 ≤ o ∧ o < 0x801000 → rd t o = rd s o) : SameTime s t := by
  have hclk := k.frame.time hm
  exact ⟨k.variant, hr, congrArg _ hclk, congrArg _ hclk, congrArg _ hclk, congrArg _ hclk⟩

section
variable {s t : State} (h : SameTime s t)
include h

theorem SameTime.domOf (d : Nat) : domOf t d = domOf s d := by
  unfold Machine.domOf
  rw [h.domA, h.domB]

theorem SameTime.domGen {d : Nat} (hd : d < 2) : domGen t d = domGen s d :=
  rdF_congr (h.regs _ (by unfold rDomStatus; omega)) _ _

theorem SameTime.opDomain : opDomain t = opDomain s := by
  unfold Machine.opDomain hasDomB
  rw [h.variant, rdF_congr (h.regs rTimeStatus (by decide))]

theorem SameTime.opTime : opTime t = opTime s := by
  unfold Machine.opTime
  rw [h.opDomain, h.domOf, h.resid]

end

theorem postHw_same (s : State) (code : Nat) (data : List (Nat × Nat)) : SameTime s (postHw s code data) :=
  .of_keeps (postHw_keeps (Within.refl 4104) s code data (Keeps.refl _ _)) rfl fun _ ho => postHw_rd_time ho s code data

theorem afterStep_same (s : State) (old : Nat) (amount : Int) : SameTime s (afterStep s old amount) :=
  .of_keeps (afterStep_keeps (Within.refl 4686) s old amount (Keeps.refl _ _)) rfl fun _ ho => afterStep_rd_time ho s old amount

theorem ppsStep_same (s : State) (d : Nat) : SameTime s (ppsStep s d) :=
  have hkeeps := ppsStep_keeps (Within.refl 64) s d (Keeps.refl _ _)
  .of_keeps hkeeps rfl fun o _ => regs_of_keeps hkeeps rfl o

-- What a step does to time

/-- A domain after a step, its time not below 0. [log 103 DESIGN CHOICE] -/
def steppedDom (s : State) (d : Nat) (amount : Int) : Dom := { domOf s d with t := ((domOf s d).t + amount).toNat }

/-- Domain d has moved, and DOM_STATUS.STEP_GEN has counted its step. -/
def domStepped (s : State) (d : Nat) (amount : Int) : State :=
  wrF (setDom s d (steppedDom s d amount)) (rDomStatus d) 63 48 ((domGen s d + 1) % 65536)

/-- Operational time has counted a step of the domain it follows (R771). -/
def opStepped (u : State) (amount : Int) : State :=
  { u with clk := { u.clk with opGen := (u.clk.opGen + 1) % 65536, stepOp := u.clk.stepOp + amount } }

/-- All that a step of domain d does to time. -/
def timeStepped (s : State) (d : Nat) (amount : Int) : State :=
  if opDomain s = d then opStepped (domStepped s d amount) amount else domStepped s d amount

theorem SameTime.opStepped {s t : State} (h : SameTime s t) (amount : Int) : SameTime (opStepped s amount) (opStepped t amount) :=
  ⟨h.variant, h.regs, h.domA, h.domB, h.resid, congrArg (fun g => (g + 1) % 65536) h.opGen⟩

-- A step of the model, in its parts

/-- The past of the scales that a step of domain d moves is noted (R773). -/
def stepNoted (s : State) (d : Nat) : State :=
  if opDomain (notePast s (d + 1)) = d then notePast (notePast s (d + 1)) 0 else notePast s (d + 1)

/-- The step joins the sum of its domain's steps. -/
def stepSummed (u : State) (d : Nat) (amount : Int) : State :=
  if d = 1 then { u with clk := { u.clk with stepB := u.clk.stepB + amount } }
  else { u with clk := { u.clk with stepA := u.clk.stepA + amount } }

/-- What a posted step sets off (R788, R829, R878). -/
def stepFollowed (u : State) (d old : Nat) (amount : Int) : State :=
  if opDomain u = d then afterStep (ppsStep (opStepped u amount) d) old amount else ppsStep u d

section
variable (s : State) (d : Nat) (amount : Int)

theorem stepDomain_eq : ∃ data, stepDomain s d amount =
    stepFollowed (postHw (stepSummed (domStepped (stepNoted s d) d amount) d amount) 0x0804 data) d (opNs s) amount := by
  refine ⟨[(1, d), (8, toTwos 64 amount),
    (2, (domGen (setDom (stepNoted s d) d (steppedDom (stepNoted s d) d amount)) d + 1) % 65536)], ?_⟩
  have hgen : domGen (setDom (stepNoted s d) d (steppedDom (stepNoted s d) d amount)) d = domGen (stepNoted s d) d :=
    rdF_congr (setDom_rd _ d _ _) 63 48
  unfold domStepped
  rw [← hgen]
  rfl

theorem domStepped_notePast_same (k : Nat) : SameTime (domStepped s d amount) (domStepped (notePast s k) d amount) := by
  unfold domStepped setDom
  split <;> exact ⟨rfl, fun _ _ => rfl, rfl, rfl, rfl, rfl⟩

theorem domStepped_stepNoted_same : SameTime (domStepped s d amount) (domStepped (stepNoted s d) d amount) := by
  have hone := domStepped_notePast_same s d amount (d + 1)
  unfold stepNoted
  split
  · exact hone.trans (domStepped_notePast_same (notePast s (d + 1)) d amount 0)
  · exact hone

theorem stepSummed_same (u : State) : SameTime u (stepSummed u d amount) := by
  unfold stepSummed
  split <;> exact ⟨rfl, fun _ _ => rfl, rfl, rfl, rfl, rfl⟩

theorem domStepped_rd_other {o : Nat} (h : o ≠ rDomStatus d) : rd (domStepped s d amount) o = rd s o :=
  (rd_wrF_other _ _ _ _ h).trans (setDom_rd s d _ o)

theorem domStepped_opDomain : opDomain (domStepped s d amount) = opDomain s := by
  have hne : rTimeStatus ≠ rDomStatus d := by unfold rTimeStatus rDomStatus; omega
  have hvariant : (domStepped s d amount).variant = s.variant := setDom_variant _ _ _
  unfold opDomain hasDomB
  rw [hvariant, rdF_congr (domStepped_rd_other s d amount hne)]

/-- What a step sets off after the move shows the same time. -/
theorem stepDomain_same : SameTime (timeStepped s d amount) (stepDomain s d amount) := by
  obtain ⟨data, hstep⟩ := stepDomain_eq s d amount
  have hmoved := ((domStepped_stepNoted_same s d amount).trans (stepSummed_same d amount _)).trans (postHw_same _ 0x0804 data)
  rw [hstep]
  unfold stepFollowed timeStepped
  rw [hmoved.opDomain, domStepped_opDomain]
  split
  · exact ((hmoved.opStepped amount).trans (ppsStep_same _ d)).trans (afterStep_same _ _ amount)
  · exact hmoved.trans (ppsStep_same _ d)

-- The time after a step

theorem timeStepped_rd (o : Nat) : rd (timeStepped s d amount) o = rd (domStepped s d amount) o := by
  unfold timeStepped
  split <;> rfl

theorem timeStepped_domOf (e : Nat) : domOf (timeStepped s d amount) e = domOf (setDom s d (steppedDom s d amount)) e := by
  unfold timeStepped
  split <;> rfl

theorem timeStepped_opDomain : opDomain (timeStepped s d amount) = opDomain s := by
  rw [← domStepped_opDomain s d amount]
  unfold timeStepped
  split <;> rfl

theorem timeStepped_resid : (timeStepped s d amount).clk.resid = s.clk.resid := by
  rw [← setDom_resid s d (steppedDom s d amount)]
  unfold timeStepped
  split <;> rfl

theorem timeStepped_opGen : (timeStepped s d amount).clk.opGen =
    if opDomain s = d then (s.clk.opGen + 1) % 65536 else s.clk.opGen := by
  rw [← setDom_opGen s d (steppedDom s d amount)]
  unfold timeStepped
  split <;> rfl

theorem timeStepped_domGen_same (hc : Canon s) : domGen (timeStepped s d amount) d = (domGen s d + 1) % 65536 := by
  have hcanon : Canon (setDom s d (steppedDom s d amount)) :=
    (setDom_keeps (Within.refl 1) s d _ (Keeps.refl _ _)).canon hc
  unfold domGen
  rw [rdF_congr (timeStepped_rd s d amount _)]
  exact (rdF_wrF_same hcanon _ _ (by decide) (by decide)).trans (Nat.mod_mod _ _)

theorem timeStepped_domGen_other {e : Nat} (h : e ≠ d) : domGen (timeStepped s d amount) e = domGen s e := by
  have hne : rDomStatus e ≠ rDomStatus d := by unfold rDomStatus; omega
  exact rdF_congr ((timeStepped_rd s d amount _).trans (domStepped_rd_other s d amount hne)) _ _

/-- Operational time steps with the domain it follows, where neither is held at 0 before or after. -/
theorem timeStepped_opTime_same (hop : opDomain s = d) (ht : 0 ≤ ((domOf s d).t : Int) + amount)
    (hbefore : s.clk.resid ≤ (domOf s d).t) (hafter : s.clk.resid ≤ (domOf s d).t + amount) :
    (opTime (timeStepped s d amount) : Int) = opTime s + amount := by
  unfold opTime
  rw [timeStepped_opDomain, timeStepped_resid, timeStepped_domOf, hop, domOf_setDom_same]
  unfold steppedDom
  dsimp only
  omega

/-- Operational time stands while a domain that it does not follow steps. -/
theorem timeStepped_opTime_other (hd : d < 2) (hop : opDomain s ≠ d) : opTime (timeStepped s d amount) = opTime s := by
  have hlt := opDomain_lt_two s
  unfold opTime
  rw [timeStepped_opDomain, timeStepped_resid, timeStepped_domOf, domOf_setDom_other s _ (by omega)]

end

/-- Settles O15: a step shows the time of `timeStepped`, whatever else it sets off, and a slew updates one domain. That a time
does not pass below 0 is the model's own choice (log 103). -/
theorem stepsAndSlewsOfADomain : Obligations.StepsAndSlewsOfADomain := by
  unfold Obligations.StepsAndSlewsOfADomain
  intro s d amount hc hd t
  have hother : ¬ (1 - d = 1 ↔ d = 1) := by omega
  have hsame : SameTime (timeStepped s d amount) t := stepDomain_same s d amount
  have hdom (e : Nat) : domOf t e = domOf (setDom s d (steppedDom s d amount)) e :=
    (hsame.domOf e).trans (timeStepped_domOf s d amount e)
  have hgen : t.clk.opGen = _ := hsame.opGen.trans (timeStepped_opGen s d amount)
  have hframe := (stepDomain_keeps (Within.refl 4687) s d amount (Keeps.refl _ _)).frame
  obtain ⟨htab0, htab1⟩ := hframe.tables rfl
  refine ⟨?_, ?_, ?_, ?_, hframe.cycles rfl, hsame.resid.trans (timeStepped_resid s d amount), ?_, ?_,
    htab0, htab1, hframe.path rfl, hframe.cipher rfl, ?_⟩
  · exact congrArg Dom.t ((hdom d).trans (domOf_setDom_same s d _))
  · exact (hsame.domGen hd).trans (timeStepped_domGen_same s d amount hc)
  · exact (hdom (1 - d)).trans (domOf_setDom_other s _ hother)
  · exact (hsame.domGen (by omega)).trans (timeStepped_domGen_other s d amount (by omega))
  · intro hop
    refine ⟨hgen.trans (if_pos hop), fun ht hbefore hafter => ?_⟩
    rw [hsame.opTime]
    exact timeStepped_opTime_same s d amount hop ht hbefore hafter
  · intro hop
    exact ⟨hgen.trans (if_neg hop), hsame.opTime.trans (timeStepped_opTime_other s d amount hd hop)⟩
  · intro u
    have hslew : domOf u d = { domOf s d with slew := (domOf s d).slew + amount } := domOf_setDom_same s d _
    rw [hslew]
    exact ⟨rfl, rfl, domOf_setDom_other s _ hother, setDom_eq_clk s d _, setDom_opGen s d _⟩

end Sys2Proof.Machine
end

section
/-! PROOFS. The step and every command: each command answers a next state, within the parts that it may change, and one core
cycle passes when none waits. -/

namespace Sys2Proof.Machine

-- Every command

/-- Whatever a command does, it ends in a next state, of which the interrupt edge is taken. -/
theorem exec_next (c : Instr) (s : State) : ∃ t, exec c s = .next (irqEdge s t) := by
  cases c <;> exact ⟨_, rfl⟩

/-- Settles O3: the meaning of every command is a next state. -/
theorem everyCommandCompletes : Obligations.EveryCommandCompletes := by
  unfold Obligations.EveryCommandCompletes
  intro c s
  obtain ⟨t, ht⟩ := exec_next c s
  exact ⟨irqEdge s t, ht⟩

/-- Each command keeps what no command may change, and stays within its parts. -/
theorem exec_keeps : ∀ (c : Instr) (s : State), KeepsO (maskOf (partsOf c)) s (exec c s)
  | .endProg .., s => execEndProg_keeps (Within.refl _) _ _ s (.refl _ s)
  | .quoin .., s => execQuoin_keeps (Within.refl _) _ _ s (.refl _ s)
  | .quoinW .., s => execQuoinW_keeps (Within.refl _) _ _ s (.refl _ s)
  | .quoinC .., s => execQuoinC_keeps (Within.refl _) _ _ s (.refl _ s)
  | .quoinT .., s => execQuoinT_keeps (Within.refl _) _ _ s (.refl _ s)
  | .quoinX .., s => execQuoinX_keeps (Within.refl _) _ _ s (.refl _ s)
  | .skipif .., s => execSkipif_keeps (Within.refl _) _ _ s (.refl _ s)
  | .note .., s => execNote_keeps (Within.refl _) _ _ s (.refl _ s)
  | .gopen .., s => execGopen_keeps (Within.refl _) _ _ s (.refl _ s)
  | .tw .., s => execTw_keeps (Within.refl _) _ _ _ s (.refl _ s)
  | .td .., s => execTd_keeps (Within.refl _) _ _ _ s (.refl _ s)
  | .tm .., s => execTm_keeps (Within.refl _) _ _ _ s (.refl _ s)
  | .lock .., s => execLock_keeps (Within.refl _) _ _ s (.refl _ s)
  | .lockat .., s => execLockat_keeps (Within.refl _) _ _ _ s (.refl _ s)
  | .gdrop .., s => execGdrop_keeps (Within.refl _) _ _ s (.refl _ s)
  | .trd .., s => execTrd_keeps (Within.refl _) _ _ _ _ s (.refl _ s)
  | .rw .., s => execRw_keeps (Within.refl _) _ _ _ s (.refl _ s)
  | .rrd .., s => execRrd_keeps (Within.refl _) _ _ _ s (.refl _ s)
  | .rmw .., s => execRmw_keeps (Within.refl _) _ _ _ _ s (.refl _ s)
  | .csnap .., s => execCsnap_keeps (Within.refl _) _ _ _ s (.refl _ s)
  | .cclr .., s => execCclr_keeps (Within.refl _) _ _ s (.refl _ s)
  | .crd .., s => execCrd_keeps (Within.refl _) _ _ _ s (.refl _ s)
  | .waitt .., s => execWaitt_keeps (Within.refl _) _ _ _ s (.refl _ s)
  | .tset .., s => execTset_keeps (Within.refl _) _ _ _ s (.refl _ s)
  | .tadjStep .., s => execTadjStep_keeps (Within.refl _) _ _ s (.refl _ s)
  | .tadjSlew .., s => execTadjSlew_keeps (Within.refl _) _ _ s (.refl _ s)
  | .tadjFreq .., s => execTadjFreq_keeps (Within.refl _) _ _ s (.refl _ s)
  | .palloc .., s => execPalloc_keeps (Within.refl _) _ _ _ s (.refl _ s)
  | .pfree .., s => execPfree_keeps (Within.refl _) _ _ s (.refl _ s)
  | .pref .., s => execPref_keeps (Within.refl _) _ _ s (.refl _ s)
  | .kload .., s => execKload_keeps (Within.refl _) _ _ _ _ s (.refl _ s)
  | .kzeroSa .., s => execKzeroSa_keeps (Within.refl _) _ _ s (.refl _ s)
  | .kzeroKek .., s => execKzeroKek_keeps (Within.refl _) _ _ s (.refl _ s)
  | .kzeroSaAll .., s => execKzeroSaAll_keeps (Within.refl _) _ _ s (.refl _ s)
  | .kzeroAll .., s => execKzeroAll_keeps (Within.refl _) _ _ s (.refl _ s)
  | .sasw .., s => execSasw_keeps (Within.refl _) _ _ _ s (.refl _ s)
  | .ringDoorbell .., s => execRingDoorbell_keeps (Within.refl _) _ _ _ s (.refl _ s)
  | .ringFetchErr .., s => execRingFetchErr_keeps (Within.refl _) _ s (.refl _ s)
  | .cqHeadWrite .., s => execCqHeadWrite_keeps (Within.refl _) _ _ _ s (.refl _ s)
  | .completionRecordWrite .., s => execCompletionRecordWrite_keeps (Within.refl _) _ s (.refl _ s)
  | .cqErr .., s => execCqErr_keeps (Within.refl _) _ s (.refl _ s)
  | .cqStall .., s => execCqStall_keeps (Within.refl _) _ s (.refl _ s)
  | .crEnable .., s => execCrEnable_keeps (Within.refl _) _ _ _ s (.refl _ s)
  | .crDisable .., s => execCrDisable_keeps (Within.refl _) _ _ _ s (.refl _ s)
  | .crAbort .., s => execCrAbort_keeps (Within.refl _) _ _ _ s (.refl _ s)
  | .crReset .., s => execCrReset_keeps (Within.refl _) _ _ _ s (.refl _ s)
  | .galleyTimeout, s => execGalleyTimeout_keeps (Within.refl _) s (.refl _ s)
  | .impositionStart, s => execImpositionStart_keeps (Within.refl _) s (.refl _ s)
  | .impositionFail, s => execImpositionFail_keeps (Within.refl _) s (.refl _ s)
  | .lockup, s => execLockup_keeps (Within.refl _) s (.refl _ s)
  | .lockatTime, s => execLockatTime_keeps (Within.refl _) s (.refl _ s)
  | .lockMissed, s => execLockMissed_keeps (Within.refl _) s (.refl _ s)
  | .drainEnd, s => execDrainEnd_keeps (Within.refl _) s (.refl _ s)
  | .catchUpEnd, s => execCatchUpEnd_keeps (Within.refl _) s (.refl _ s)
  | .recircAged .., s => execRecircAged_keeps (Within.refl _) _ s (.refl _ s)
  | .frameReceive .., s => execFrameReceive_keeps (Within.refl _) _ _ s (.refl _ s)
  | .pfcFrameReceive .., s => execPfcFrameReceive_keeps (Within.refl _) _ _ s (.refl _ s)
  | .pauseFrameReceive .., s => execPauseFrameReceive_keeps (Within.refl _) _ _ s (.refl _ s)
  | .pauseHoldExpire .., s => execPauseHoldExpire_keeps (Within.refl _) _ _ s (.refl _ s)
  | .receiveSecyCheck .., s => execReceiveSecyCheck_keeps (Within.refl _) _ _ _ s (.refl _ s)
  | .stompIcvDecided .., s => execStompIcvDecided_keeps (Within.refl _) _ _ s (.refl _ s)
  | .headerGatherRelease .., s => execHeaderGatherRelease_keeps (Within.refl _) _ s (.refl _ s)
  | .fragInsertLost, s => execFragInsertLost_keeps (Within.refl _) s (.refl _ s)
  | .fragHoldExpire, s => execFragHoldExpire_keeps (Within.refl _) s (.refl _ s)
  | .fragFlush .., s => execFragFlush_keeps (Within.refl _) _ _ s (.refl _ s)
  | .lastOctetWritten .., s => execLastOctetWritten_keeps (Within.refl _) _ s (.refl _ s)
  | .xoffSend .., s => execXoffSend_keeps (Within.refl _) _ _ s (.refl _ s)
  | .xoffRefresh .., s => execXoffRefresh_keeps (Within.refl _) _ _ s (.refl _ s)
  | .xonSend .., s => execXonSend_keeps (Within.refl _) _ _ s (.refl _ s)
  | .sharedFetch .., s => execSharedFetch_keeps (Within.refl _) _ _ s (.refl _ s)
  | .roundsMatch .., s => execRoundsMatch_keeps (Within.refl _) _ s (.refl _ s)
  | .planeCrossing .., s => execPlaneCrossing_keeps (Within.refl _) _ s (.refl _ s)
  | .creditIssue .., s => execCreditIssue_keeps (Within.refl _) _ s (.refl _ s)
  | .spillCopy .., s => execSpillCopy_keeps (Within.refl _) _ s (.refl _ s)
  | .refill .., s => execRefill_keeps (Within.refl _) _ s (.refl _ s)
  | .schedulerSelect .., s => execSchedulerSelect_keeps (Within.refl _) _ _ s (.refl _ s)
  | .egressPipeline .., s => execEgressPipeline_keeps (Within.refl _) _ _ _ s (.refl _ s)
  | .frameTransmitEnd .., s => execFrameTransmitEnd_keeps (Within.refl _) _ _ s (.refl _ s)
  | .stomp .., s => execStomp_keeps (Within.refl _) _ _ s (.refl _ s)
  | .launchLate .., s => execLaunchLate_keeps (Within.refl _) _ s (.refl _ s)
  | .mmVerifyFail .., s => execMmVerifyFail_keeps (Within.refl _) _ s (.refl _ s)
  | .linkDown .., s => execLinkDown_keeps (Within.refl _) _ _ s (.refl _ s)
  | .linkUp .., s => execLinkUp_keeps (Within.refl _) _ s (.refl _ s)
  | .linkHoldExpire .., s => execLinkHoldExpire_keeps (Within.refl _) _ s (.refl _ s)
  | .anFail .., s => execAnFail_keeps (Within.refl _) _ _ s (.refl _ s)
  | .portReset .., s => execPortReset_keeps (Within.refl _) _ _ _ s (.refl _ s)
  | .adminDown .., s => execAdminDown_keeps (Within.refl _) _ _ _ s (.refl _ s)
  | .learnOperation, s => execLearnOperation_keeps (Within.refl _) s (.refl _ s)
  | .rebalancerRetry, s => execRebalancerRetry_keeps (Within.refl _) s (.refl _ s)
  | .ageClockTick, s => execAgeClockTick_keeps (Within.refl _) s (.refl _ s)
  | .ageingRemoval .., s => execAgeingRemoval_keeps (Within.refl _) _ _ s (.refl _ s)
  | .learnFlush .., s => execLearnFlush_keeps (Within.refl _) _ _ s (.refl _ s)
  | .flushComplete, s => execFlushComplete_keeps (Within.refl _) s (.refl _ s)
  | .caseSeedWrite .., s => execCaseSeedWrite_keeps (Within.refl _) _ _ _ s (.refl _ s)
  | .globalReserveWrite .., s => execGlobalReserveWrite_keeps (Within.refl _) _ _ s (.refl _ s)
  | .asaRepair .., s => execAsaRepair_keeps (Within.refl _) _ s (.refl _ s)
  | .asaSweep .., s => execAsaSweep_keeps (Within.refl _) _ s (.refl _ s)
  | .asaShadowUe .., s => execAsaShadowUe_keeps (Within.refl _) _ _ s (.refl _ s)
  | .saSwitch, s => execSaSwitch_keeps (Within.refl _) s (.refl _ s)
  | .saRetire .., s => execSaRetire_keeps (Within.refl _) _ s (.refl _ s)
  | .secyTxCurWrite .., s => execSecyTxCurWrite_keeps (Within.refl _) _ _ s (.refl _ s)
  | .cipherModeWrite .., s => execCipherModeWrite_keeps (Within.refl _) _ _ s (.refl _ s)
  | .mpStatus .., s => execMpStatus_keeps (Within.refl _) _ _ s (.refl _ s)
  | .authChallenge .., s => execAuthChallenge_keeps (Within.refl _) _ s (.refl _ s)
  | .authResponse .., s => execAuthResponse_keeps (Within.refl _) _ _ _ _ s (.refl _ s)
  | .logout .., s => execLogout_keeps (Within.refl _) _ _ s (.refl _ s)
  | .enrol .., s => execEnrol_keeps (Within.refl _) _ _ _ _ _ s (.refl _ s)
  | .removeOperator .., s => execRemoveOperator_keeps (Within.refl _) _ _ s (.refl _ s)
  | .kekInstall .., s => execKekInstall_keeps (Within.refl _) _ _ _ s (.refl _ s)
  | .fwUpdate .., s => execFwUpdate_keeps (Within.refl _) _ _ _ s (.refl _ s)
  | .attest .., s => execAttest_keeps (Within.refl _) _ _ s (.refl _ s)
  | .cmisRead .., s => execCmisRead_keeps (Within.refl _) _ _ s (.refl _ s)
  | .cmisWrite .., s => execCmisWrite_keeps (Within.refl _) _ _ s (.refl _ s)
  | .serdesDiag .., s => execSerdesDiag_keeps (Within.refl _) _ _ s (.refl _ s)
  | .servoCfg .., s => execServoCfg_keeps (Within.refl _) _ _ s (.refl _ s)
  | .telemetryCfg .., s => execTelemetryCfg_keeps (Within.refl _) _ _ s (.refl _ s)
  | .timeDomainSwitch, s => execTimeDomainSwitch_keeps (Within.refl _) s (.refl _ s)
  | .domainSwitchDone, s => execDomainSwitchDone_keeps (Within.refl _) s (.refl _ s)
  | .opTimeRead .., s => execOpTimeRead_keeps (Within.refl _) _ s (.refl _ s)
  | .ppsInEdge .., s => execPpsInEdge_keeps (Within.refl _) _ s (.refl _ s)
  | .ppsInLoss .., s => execPpsInLoss_keeps (Within.refl _) _ s (.refl _ s)
  | .ppsOutPulse .., s => execPpsOutPulse_keeps (Within.refl _) _ s (.refl _ s)
  | .refLoss, s => execRefLoss_keeps (Within.refl _) s (.refl _ s)
  | .refReturn, s => execRefReturn_keeps (Within.refl _) s (.refl _ s)
  | .todTransmit .., s => execTodTransmit_keeps (Within.refl _) _ s (.refl _ s)
  | .todReceive .., s => execTodReceive_keeps (Within.refl _) _ s (.refl _ s)
  | .timestampRecordWrite .., s => execTimestampRecordWrite_keeps (Within.refl _) _ s (.refl _ s)
  | .gateEntryStart .., s => execGateEntryStart_keeps (Within.refl _) _ s (.refl _ s)
  | .gateListChange .., s => execGateListChange_keeps (Within.refl _) _ s (.refl _ s)
  | .pealCapture .., s => execPealCapture_keeps (Within.refl _) _ s (.refl _ s)
  | .pealFault .., s => execPealFault_keeps (Within.refl _) _ _ s (.refl _ s)
  | .pealEnable .., s => execPealEnable_keeps (Within.refl _) _ _ _ _ s (.refl _ s)
  | .pealDisable .., s => execPealDisable_keeps (Within.refl _) _ _ _ s (.refl _ s)
  | .mirrorSampleWrite .., s => execMirrorSampleWrite_keeps (Within.refl _) _ _ _ s (.refl _ s)
  | .stormMeterWrite .., s => execStormMeterWrite_keeps (Within.refl _) _ _ _ _ s (.refl _ s)
  | .perfEvselWrite .., s => execPerfEvselWrite_keeps (Within.refl _) _ s (.refl _ s)
  | .rsRead .., s => execRsRead_keeps (Within.refl _) _ s (.refl _ s)
  | .narrowReadLow .., s => execNarrowReadLow_keeps (Within.refl _) _ s (.refl _ s)
  | .registerWrite .., s => execRegisterWrite_keeps (Within.refl _) _ _ s (.refl _ s)
  | .claveFault .., s => execClaveFault_keeps (Within.refl _) _ _ _ s (.refl _ s)
  | .claveWatchdog .., s => execClaveWatchdog_keeps (Within.refl _) _ s (.refl _ s)
  | .claveCorr .., s => execClaveCorr_keeps (Within.refl _) _ s (.refl _ s)
  | .handoverWindowClose, s => execHandoverWindowClose_keeps (Within.refl _) s (.refl _ s)
  | .claveMismatch .., s => execClaveMismatch_keeps (Within.refl _) _ _ s (.refl _ s)
  | .claveDiagEnd .., s => execClaveDiagEnd_keeps (Within.refl _) _ _ s (.refl _ s)
  | .ctrlReset .., s => execCtrlReset_keeps (Within.refl _) _ s (.refl _ s)
  | .claveSelftestEnd .., s => execClaveSelftestEnd_keeps (Within.refl _) _ _ s (.refl _ s)
  | .shadowPeriodEnd .., s => execShadowPeriodEnd_keeps (Within.refl _) _ s (.refl _ s)
  | .mpWatchdog .., s => execMpWatchdog_keeps (Within.refl _) _ s (.refl _ s)
  | .mpShedStep .., s => execMpShedStep_keeps (Within.refl _) _ s (.refl _ s)
  | .mpUnshedStep .., s => execMpUnshedStep_keeps (Within.refl _) _ s (.refl _ s)
  | .maintRequest .., s => execMaintRequest_keeps (Within.refl _) _ _ s (.refl _ s)
  | .maintActivityEnd .., s => execMaintActivityEnd_keeps (Within.refl _) _ _ _ _ s (.refl _ s)
  | .holdMaxExpire .., s => execHoldMaxExpire_keeps (Within.refl _) _ _ s (.refl _ s)
  | .keySelftestPiece .., s => execKeySelftestPiece_keeps (Within.refl _) _ _ s (.refl _ s)
  | .recordWrite .., s => execRecordWrite_keeps (Within.refl _) _ _ _ s (.refl _ s)
  | .coalesceWindowClose, s => execCoalesceWindowClose_keeps (Within.refl _) s (.refl _ s)
  | .hoursCellWrite, s => execHoursCellWrite_keeps (Within.refl _) s (.refl _ s)
  | .recorderRetry .., s => execRecorderRetry_keeps (Within.refl _) _ _ _ s (.refl _ s)
  | .mbxGoBusy .., s => execMbxGoBusy_keeps (Within.refl _) _ s (.refl _ s)
  | .irqRearm .., s => execIrqRearm_keeps (Within.refl _) _ s (.refl _ s)
  | .warmReset .., s => execWarmReset_keeps (Within.refl _) _ s (.refl _ s)
  | .start .., s => execStart_keeps (Within.refl _) _ s (.refl _ s)
  | .bootSave .., s => execBootSave_keeps (Within.refl _) _ s (.refl _ s)
  | .bootSaveEnd .., s => execBootSaveEnd_keeps (Within.refl _) _ s (.refl _ s)
  | .powerOn .., s => execPowerOn_keeps (Within.refl _) _ s (.refl _ s)
  | .supervise .., s => execSupervise_keeps (Within.refl _) _ s (.refl _ s)
  | .selftest .., s => execSelftest_keeps (Within.refl _) _ _ _ _ _ _ s (.refl _ s)
  | .load .., s => execLoad_keeps (Within.refl _) _ _ _ _ s (.refl _ s)
  | .train .., s => execTrain_keeps (Within.refl _) _ _ _ s (.refl _ s)
  | .hold, s => execHold_keeps (Within.refl _) s (.refl _ s)
  | .startStop .., s => execStartStop_keeps (Within.refl _) _ _ s (.refl _ s)
  | .shutdown .., s => execShutdown_keeps (Within.refl _) _ s (.refl _ s)
  | .railFault .., s => execRailFault_keeps (Within.refl _) _ s (.refl _ s)
  | .thermWarn .., s => execThermWarn_keeps (Within.refl _) _ _ s (.refl _ s)
  | .resetN .., s => execResetN_keeps (Within.refl _) _ _ s (.refl _ s)
  | .zeroiseN .., s => execZeroiseN_keeps (Within.refl _) _ _ s (.refl _ s)
  | .tamperMesh, s => execTamperMesh_keeps (Within.refl _) s (.refl _ s)
  | .boardLoop .., s => execBoardLoop_keeps (Within.refl _) _ _ s (.refl _ s)
  | .vkeepLoss, s => execVkeepLoss_keeps (Within.refl _) s (.refl _ s)
  | .hostFundamentalReset, s => execHostFundamentalReset_keeps (Within.refl _) s (.refl _ s)
  | .hostLinkDown .., s => execHostLinkDown_keeps (Within.refl _) _ _ s (.refl _ s)
  | .hostLinkUp .., s => execHostLinkUp_keeps (Within.refl _) _ _ _ _ _ _ s (.refl _ s)
  | .flrPf0 .., s => execFlrPf0_keeps (Within.refl _) _ _ s (.refl _ s)
  | .flrPf1 .., s => execFlrPf1_keeps (Within.refl _) _ s (.refl _ s)
  | .flrPf2 .., s => execFlrPf2_keeps (Within.refl _) _ s (.refl _ s)
  | .busMasterDisable .., s => execBusMasterDisable_keeps (Within.refl _) _ s (.refl _ s)
  | .memCe .., s => execMemCe_keeps (Within.refl _) _ _ s (.refl _ s)
  | .memUe .., s => execMemUe_keeps (Within.refl _) _ s (.refl _ s)
  | .cellRetire .., s => execCellRetire_keeps (Within.refl _) _ _ s (.refl _ s)
  | .poolEnable .., s => execPoolEnable_keeps (Within.refl _) _ _ _ s (.refl _ s)
  | .poolInitDone .., s => execPoolInitDone_keeps (Within.refl _) _ s (.refl _ s)
  | .poolDisable .., s => execPoolDisable_keeps (Within.refl _) _ _ _ s (.refl _ s)
  | .pallocTimeout .., s => execPallocTimeout_keeps (Within.refl _) _ s (.refl _ s)
  | .poolFault .., s => execPoolFault_keeps (Within.refl _) _ _ s (.refl _ s)
  | .hostRxDeliver .., s => execHostRxDeliver_keeps (Within.refl _) _ s (.refl _ s)
  | .rxWaitExpire .., s => execRxWaitExpire_keeps (Within.refl _) _ s (.refl _ s)
  | .rxDoorbell .., s => execRxDoorbell_keeps (Within.refl _) _ _ s (.refl _ s)
  | .txDoorbell .., s => execTxDoorbell_keeps (Within.refl _) _ _ s (.refl _ s)
  | .txFrameFetch .., s => execTxFrameFetch_keeps (Within.refl _) _ _ _ s (.refl _ s)
  | .txWriteBack .., s => execTxWriteBack_keeps (Within.refl _) _ _ s (.refl _ s)
  | .ringDmaFault .., s => execRingDmaFault_keeps (Within.refl _) _ _ _ _ s (.refl _ s)
  | .rxRingEnable .., s => execRxRingEnable_keeps (Within.refl _) _ _ _ s (.refl _ s)
  | .txRingEnable .., s => execTxRingEnable_keeps (Within.refl _) _ _ _ s (.refl _ s)
  | .opDomainWrite .., s => execOpDomainWrite_keeps (Within.refl _) _ _ s (.refl _ s)
  | .impositionComplete, s => execImpositionComplete_keeps (Within.refl _) s (.refl _ s)
  | .waittTimeReached .., s => execWaittTimeReached_keeps (Within.refl _) _ s (.refl _ s)
  | .writeGateWrite .., s => execWriteGateWrite_keeps (Within.refl _) _ _ s (.refl _ s)
  | .entropyTestFail .., s => execEntropyTestFail_keeps (Within.refl _) _ s (.refl _ s)
  | .tamperSelChange .., s => execTamperSelChange_keeps (Within.refl _) _ s (.refl _ s)
  | .mpRestartComplete, s => execMpRestartComplete_keeps (Within.refl _) s (.refl _ s)
  | .servoUpdate .., s => execServoUpdate_keeps (Within.refl _) _ _ _ s (.refl _ s)
  | .mpTransmit .., s => execMpTransmit_keeps (Within.refl _) _ _ _ _ s (.refl _ s)
  | .busMasterEnable .., s => execBusMasterEnable_keeps (Within.refl _) _ s (.refl _ s)
  | .msixUnmask .., s => execMsixUnmask_keeps (Within.refl _) _ _ _ s (.refl _ s)
  | .bar0BadRead .., s => execBar0BadRead_keeps (Within.refl _) _ s (.refl _ s)
  | .pcieUncorrError .., s => execPcieUncorrError_keeps (Within.refl _) _ _ _ s (.refl _ s)
  | .mmVerifyResponse .., s => execMmVerifyResponse_keeps (Within.refl _) _ s (.refl _ s)
  | .jtagAccess die, s => execJtagAccess_keeps (Within.refl _) die s (.refl _ s)
  | .opticsAlarm .., s => execOpticsAlarm_keeps (Within.refl _) _ s (.refl _ s)
  | .unlistedOpcode .., s => execUnlistedOpcode_keeps (Within.refl _) _ _ _ s (.refl _ s)

/-- Settles O4: the frame of `exec_keeps`. -/
theorem commandsStayWithinTheirParts : Obligations.CommandsStayWithinTheirParts := by
  unfold Obligations.CommandsStayWithinTheirParts
  intro c s t h
  exact (exec_keeps c s t h).frame

-- The step

/-- Settles O1: the step's own equation for a queue that holds a command. -/
theorem stepTakesTheFrontCommand : Obligations.StepTakesTheFrontCommand := by
  unfold Obligations.StepTakesTheFrontCommand
  intro c rest s
  rfl

theorem step_idle {s : State} (h : s.pending = []) : step s = .next (tick s) := by unfold step; rw [h]

theorem step_command {s : State} {c : Instr} {rest : List Instr} (h : s.pending = c :: rest) :
    step s = exec c { s with pending := rest } := by unfold step; rw [h]

theorem tick_keeps_all (s : State) : Keeps 131055 s (tick s) := tick_keeps (Within.refl _) s (Keeps.refl _ s)

/-- Settles O5: on an empty queue the tick keeps the invariant, on any other the front command does. -/
theorem everyStepKeepsTheInvariant : Obligations.EveryStepKeepsTheInvariant := by
  unfold Obligations.EveryStepKeepsTheInvariant
  intro s t h
  cases hq : s.pending with
  | nil =>
    rw [step_idle hq] at h
    cases h
    have k := tick_keeps_all s
    exact ⟨k.canon, k.variant, k.serial, k.pending.trans hq, k.out, k.cycle, k.fresh⟩
  | cons c rest =>
    rw [step_command hq] at h
    have k := exec_keeps c { s with pending := rest } t h
    exact ⟨k.canon, k.variant, k.serial, k.pending, k.out, k.cycle, k.fresh⟩

-- The idle step

/-- A core cycle of the running device up to its end: what is due takes effect, the pools arbitrate, events are counted. -/
def cycleEnding (s : State) : State :=
  let s := poolCycle (cycleEvents (settleDue s))
  let s := s.core.now.marks.foldl (fun s x => raiseMark s x.1 x.2) ((busyPorts s).foldl depthMarks s)
  { s with core := { s.core with now := { start := some (s.regs, s.ctrs) } } }

/-- What the next core cycle begins with. -/
def cycleBegun (s : State) : State :=
  let s := deliverMatches (fragDrain (advTime s))
  let s := verifyTick (countHolds ((busyPorts s).foldl macNext s))
  let s := windowsTick (windowTick (wdogTick (pealHold (retagAll s))))
  (List.range 64).foldl (fun s n => quoinPoll (crdPoll s n) n) s

theorem runCycle_eq (s : State) : runCycle s = cycleBegun (advCycle (cycleEnding s)) := rfl

/-- 65535 is every part of State but the elapsed cycles. -/
theorem within_uncycled {m : Nat} (h : Nat.land m 65535 = m := by rfl) : Within m 65535 := h

theorem cycleEnding_keeps (s : State) : Keeps 65535 s (cycleEnding s) := by
  unfold cycleEnding
  refine keeps_core _ rfl (keeps_foldl _ _ (fun s x h => raiseMark_keeps within_uncycled s _ _ h) (keeps_foldl _ _
    (fun s p h => depthMarks_keeps within_uncycled s p h) ?_))
  exact poolCycle_keeps within_uncycled _ (cycleEvents_keeps within_uncycled _ (settleDue_keeps within_uncycled s (.refl _ s)))

theorem cycleBegun_keeps (s : State) : Keeps 65535 s (cycleBegun s) := by
  unfold cycleBegun
  refine keeps_foldl _ _ (fun s n h => quoinPoll_keeps within_uncycled _ n (crdPoll_keeps within_uncycled s n h)) ?_
  refine windowsTick_keeps within_uncycled _ (windowTick_keeps within_uncycled _ (wdogTick_keeps within_uncycled _ (pealHold_keeps within_uncycled _ (retagAll_keeps within_uncycled _ ?_))))
  refine verifyTick_keeps within_uncycled _ (countHolds_keeps within_uncycled _ (keeps_foldl _ _ (fun s p h => macNext_keeps within_uncycled s p h) ?_))
  exact deliverMatches_keeps within_uncycled _ (fragDrain_keeps within_uncycled _ (advTime_keeps within_uncycled s (.refl _ s)))

theorem advCycle_cycle (s : State) : (advCycle s).cycle = s.cycle + 1 := by unfold advCycle; dsimp only; split <;> rfl

/-- Of all that a cycle of the running device does, only its end counts elapsed time. -/
theorem runCycle_cycle (s : State) : (runCycle s).cycle = s.cycle + 1 := by
  rw [runCycle_eq, (cycleBegun_keeps _).frame.cycles rfl, advCycle_cycle, (cycleEnding_keeps s).frame.cycles rfl]

theorem tick_before_supervise {s : State} (h : devState s < stSupervise) : tick s = { s with cycle := s.cycle + 1 } :=
  if_neg (Nat.not_le.mpr h)

theorem tick_cycle (s : State) : (tick s).cycle = s.cycle + 1 := by
  unfold tick
  split
  · rw [irqEdge_cycle, runCycle_cycle]
  · rfl

/-- Settles O2: the tick counts one cycle and keeps the queue. -/
theorem idleStepIsOneCoreCycle : Obligations.IdleStepIsOneCoreCycle := by
  unfold Obligations.IdleStepIsOneCoreCycle
  intro s h
  exact ⟨tick s, step_idle h, tick_cycle s, (tick_keeps_all s).pending.trans h, tick_before_supervise⟩

end Sys2Proof.Machine
end

section
/-! PROOFS. Rules for a command with a guard: what it answers when the guard holds and when it does not. -/
namespace Sys2Proof.Machine

theorem onlyIf_pos {c : Bool} (h : c = true) (s t : State) : onlyIf c s t = t := if_pos h

theorem onlyIf_neg {c : Bool} (h : c = false) (s t : State) : onlyIf c s t = s := if_neg (by simp [h])

theorem nextOf_eq (s t : State) : nextOf s t = .next (irqEdge s t) := rfl

end Sys2Proof.Machine
end

section
/-! PROOFS. Completion of an instruction (R66, R69, R91, R95): with OK, and with a failure that aborts its program. -/

namespace Sys2Proof.Machine

-- The record of an OK completion

theorem okRecorded_keeps (s : State) (n isn op flags result : Nat) : Keeps 2 s (okRecorded s n isn op flags result) :=
  keeps_ite _ (fun _ => queueRec_keeps (Within.refl 2) s n _ (Keeps.refl 2 s)) fun _ => Keeps.refl 2 s

theorem okRecorded_isn (s : State) (n isn op flags result : Nat) :
    (okRecorded s n isn op flags result).ctl.isn = s.ctl.isn := by
  unfold okRecorded; split <;> rfl

theorem okRecorded_rt_other (s : State) {n k : Nat} (isn op flags result : Nat) (h : k ≠ n) :
    rt (okRecorded s n isn op flags result) k = rt s k := by
  unfold okRecorded; split
  · exact queueRec_other s _ h
  · rfl

theorem okRecorded_slots (s : State) (n isn op flags result : Nat) :
    (rt (okRecorded s n isn op flags result) n).slots = (rt s n).slots := by
  unfold okRecorded; split
  · rw [queueRec_rt]
  · rfl

theorem okRecorded_records (s : State) (n isn op flags result : Nat) :
    (rt (okRecorded s n isn op flags result) n).records = (rt s n).records ++
      (if rptOf flags then [{ result := result, isn := isn, status := 0, opcode := recOpcode op }] else []) := by
  unfold okRecorded; split
  · rw [queueRec_rt]; rfl
  · exact (List.append_nil _).symm

-- Issue, seen in CR_HEAD

/-- CR_HEAD moves over the instruction that issues (R66). -/
theorem crHead_issued {s : State} (c : Canon s) {n : Nat} (hn : n < 64) (op flags : Nat) :
    crHead (issued s n op flags) n = (crHead s n + 1) % (2 * ringSize s n) % 2 ^ 17 := by
  have hrd := rd_issued s n op flags (rCrHead n) (by unfold rPerf rCrHead; omega)
  exact (rdF_congr hrd _ _).trans (rdF_wrF_same c _ _ (by omega) (by omega))

theorem ringSize_issued (s : State) {n : Nat} (hn : n < 64) (op flags : Nat) :
    ringSize (issued s n op flags) n = ringSize s n := by
  have hne : rCrCtrl n ≠ rCrHead n := by unfold rCrCtrl rCrHead; omega
  have hrd := rd_issued s n op flags (rCrCtrl n) (by unfold rPerf rCrCtrl; omega)
  unfold ringSize
  rw [rdF_congr (hrd.trans (rd_wrF_other s _ _ _ hne))]

-- Completion with OK

section
variable {s : State} {n op : Nat} (flags isn result : Nat) (force : Bool) (hop : op ≠ opEnd)
  (ha : (rt s n).abortAfter = none)
include hop ha

theorem completeIns_ok_rt : rt (completeIns s n isn op flags .ok result force) n =
    { rt (okRecorded s n isn op flags result) n with waiting := none, lastOk := some true } := by
  rw [completeIns_ok isn flags result force hop ha]
  dsimp only
  rw [refreshState_rt, rt_setRt]
  rfl

theorem completeIns_ok_rt_other {k : Nat} (hk : k ≠ n) :
    rt (completeIns s n isn op flags .ok result force) k = rt s k := by
  rw [completeIns_ok isn flags result force hop ha]
  dsimp only
  rw [refreshState_rt, rt_setRt_other _ _ hk]
  exact okRecorded_rt_other s isn op flags result hk

theorem completeIns_ok_isn : (completeIns s n isn op flags .ok result force).ctl.isn = s.ctl.isn := by
  rw [completeIns_ok isn flags result force hop ha]
  dsimp only
  rw [refreshState_isn]
  exact okRecorded_isn s n isn op flags result

theorem completeIns_ok_lastIsn (c : Canon s) :
    rd (completeIns s n isn op flags .ok result force) (rCrLastIsn n) = BitVec.ofNat 64 isn := by
  rw [completeIns_ok isn flags result force hop ha]
  dsimp only
  rw [refreshState_rd _ _ _ (by unfold rCrLastIsn rCrStatus; omega)]
  exact rd_wr_same ((okRecorded_keeps s n isn op flags result).canon c) _ _

/-- A completion with OK posts nothing: it stays within the rings and the registers. -/
theorem completeIns_ok_keeps : Keeps 4098 s (completeIns s n isn op flags .ok result force) := by
  rw [completeIns_ok isn flags result force hop ha]
  have hrec : Keeps 4098 s (okRecorded s n isn op flags result) := keeps_ite _
    (fun _ => queueRec_keeps (Within.sub (Within.refl _) rfl) s n _ (Keeps.refl _ s)) fun _ => Keeps.refl _ s
  exact refreshState_keeps (Within.refl _) _ n (setRt_keeps (Within.sub (Within.refl _) rfl) _ n _
    (wr_keeps (Within.sub (Within.refl _) rfl) _ _ _ hrec))

end

/-- Settles O7: `completeIns_ok` after `issued`, ring by ring and register by register. The OPCODE field of a record of an
opcode of 0x80 or more is the model's own choice (log 101). -/
theorem okCompletionOfAnInstruction : Obligations.OkCompletionOfAnInstruction := by
  unfold Obligations.OkCompletionOfAnInstruction
  intro s n op result ins force c hn hi hop ha flags t
  have hab : (rt (issued s n op flags) n).abortAfter = none := (issued_abortAfter hi flags).trans ha
  have hrt := completeIns_ok_rt flags s.ctl.isn result force hop hab
  have hiss : rt (issued s n op flags) n = _ := (rt_issued_same flags).trans (by rw [rt_issueIns hi])
  have hrd {o : Nat} (hs : o ≠ rCrStatus n) (hl : o ≠ rCrLastIsn n) : rd t o = rd (issued s n op flags) o :=
    completeIns_ok_rd s.ctl.isn flags result force hop hab hs hl
  refine ⟨?_, ?_, ?_, ?_, ?_, ?_, ?_, ?_, ?_, ?_⟩
  · exact (completeIns_ok_isn flags s.ctl.isn result force hop hab).trans (isn_issued s n op flags)
  · exact completeIns_ok_lastIsn flags s.ctl.isn result force hop hab (canon_issued c n op flags)
  · rw [← crHead_issued c hn op flags]
    exact rdF_congr (hrd (by unfold rCrHead rCrStatus; omega) (by unfold rCrHead rCrLastIsn; omega)) _ _
  · rw [hrt, okRecorded_slots, hiss]
  · rw [hrt]
  · rw [hrt]
  · rw [hrt, okRecorded_records, hiss]
  · intro k hk
    exact (completeIns_ok_rt_other flags s.ctl.isn result force hop hab hk).trans (rt_issued_other flags hk)
  · intro o hh hs hl hp
    exact (hrd hs hl).trans ((rd_issued s n op flags o hp).trans (rd_wrF_other s _ _ _ hh))
  · exact ((issued_keeps s n op flags).trans (completeIns_ok_keeps flags s.ctl.isn result force hop hab)).frame

-- Completion with a failure

/-- A failed instruction's own record, CR_LAST_ISN and the end of its ring's wait, before its program aborts. -/
def failedRecorded (s : State) (n isn op : Nat) (st : Status) (result : Nat) : State :=
  let x := wr (queueRec s n { result := result, isn := isn, status := statusCode st, opcode := recOpcode op }) (rCrLastIsn n)
    (BitVec.ofNat 64 isn)
  setRt x n { rt x n with waiting := none, lastOk := some false, notOk := (rt x n).notOk + 1 }

/-- An instruction other than END that fails with CONT 0 leaves its record and aborts its program (R91, R95). -/
theorem completeIns_aborts (s : State) {n op flags : Nat} {st : Status} (isn result : Nat) (force : Bool) (hop : op ≠ opEnd)
    (hst : st ≠ .ok) (hc : contOf flags = false) : completeIns s n isn op flags st result force =
      abortProgram (failedRecorded s n isn op st result) n isn (statusCode st) false := by
  simp [completeIns, failedRecorded, hop, hst, hc, b2n]

section
variable (s : State) (n isn op : Nat) (st : Status) (result : Nat)

theorem failedRecorded_rt_other {k : Nat} (hk : k ≠ n) : rt (failedRecorded s n isn op st result) k = rt s k :=
  (rt_setRt_other _ _ hk).trans (queueRec_other s _ hk)

theorem failedRecorded_records : (rt (failedRecorded s n isn op st result) n).records =
    (rt s n).records ++ [{ result := result, isn := isn, status := statusCode st, opcode := recOpcode op }] := by
  unfold failedRecorded
  rw [rt_setRt, rt_congr (wr_ctl _ _ _), queueRec_rt]

theorem failedRecorded_slots : (rt (failedRecorded s n isn op st result) n).slots = (rt s n).slots := by
  unfold failedRecorded
  rw [rt_setRt, rt_congr (wr_ctl _ _ _), queueRec_rt]

theorem failedRecorded_isn : (failedRecorded s n isn op st result).ctl.isn = s.ctl.isn := rfl

theorem failedRecorded_rd {o : Nat} (h : o ≠ rCrLastIsn n) : rd (failedRecorded s n isn op st result) o = rd s o :=
  rd_wr_other (queueRec s n _) _ h

theorem canon_failedRecorded (c : Canon s) : Canon (failedRecorded s n isn op st result) :=
  canon_wr (s := queueRec s n _) c _ _

end

/-- Settles O8: `abort_facts` of the state in which the failed instruction has left its record. -/
theorem failureWithoutContAbortsTheProgram : Obligations.FailureWithoutContAbortsTheProgram := by
  unfold Obligations.FailureWithoutContAbortsTheProgram
  intro s n op result ins st force c hn hi hop hst hc flags t rem
  have hiss : rt (issued s n op flags) n = _ := (rt_issued_same flags).trans (by rw [rt_issueIns hi])
  have hslots : (rt (failedRecorded (issued s n op flags) n s.ctl.isn op st result) n).slots = (rt s n).slots.drop 1 := by
    rw [failedRecorded_slots, hiss]
  have hne : rCrHead n ≠ rCrLastIsn n := by unfold rCrHead rCrLastIsn; omega
  have hne' : rCrCtrl n ≠ rCrLastIsn n := by unfold rCrCtrl rCrLastIsn; omega
  have ht : t = _ := completeIns_aborts (issued s n op flags) s.ctl.isn result force hop hst hc
  obtain ⟨hrec, hsl, hisn, hother, hhead⟩ := abort_facts (failedRecorded (issued s n op flags) n s.ctl.isn op st result) n
    s.ctl.isn (statusCode st) (canon_failedRecorded _ n s.ctl.isn op st result (canon_issued c n op flags)) hn rem
    (by rw [hslots])
  rw [← ht] at hrec hsl hisn hother hhead
  refine ⟨?_, ?_, ?_, ?_, ?_⟩
  · rw [hisn, failedRecorded_isn, isn_issued]
  · rw [hrec, failedRecorded_records, failedRecorded_isn, isn_issued, hiss, List.append_assoc]
    rfl
  · rw [hsl, hslots, List.drop_drop]
  · rw [hhead, ← crHead_issued c hn op flags, ← ringSize_issued s hn op flags]
    unfold crHead ringSize
    rw [rdF_congr (failedRecorded_rd _ n s.ctl.isn op st result hne), rdF_congr (failedRecorded_rd _ n s.ctl.isn op st result hne')]
  · intro k hk
    rw [hother k hk, failedRecorded_rt_other _ n s.ctl.isn op st result hk, rt_issued_other flags hk]

end Sys2Proof.Machine
end

section
/-! PROOFS. COMPLETION_RECORD_WRITE (R69 to R73): the oldest record is written, or its completion ring is full. -/

namespace Sys2Proof.Machine

-- A completion ring that is full

section
variable {s : State} {n : Nat}

/-- Whether a completion ring is full is seen in registers of its ring other than CR_STATUS. -/
theorem cqFull_congr {t : State} (h : ∀ o, o ≠ rCrStatus n → rd t o = rd s o) : cqFull t n = cqFull s n := by
  have hctl := h (rCrCtrl n) (by unfold rCrCtrl rCrStatus; omega)
  have hhead := h (rCqHead n) (by unfold rCqHead rCrStatus; omega)
  have htail := h (rCqTail n) (by unfold rCqTail rCrStatus; omega)
  unfold cqFull ringDist ringSize cqHead cqTail
  rw [rdF_congr hctl, rdF_congr hhead, rdF_congr htail]

/-- An enabled ring that waits for room, with nothing in execution, is in WAIT. -/
theorem refreshState_waits (c : Canon s) (hw : (rt s n).waiting = none) (he : ringEnabled s n = true)
    (h4 : ringState s n ≠ rsStopped) (h5 : ringState s n ≠ rsResetting) (hr : waitsRoom s n = true) :
    ringState (refreshState s n) n = rsWait := by
  have cy : Canon (yieldTurn s n) := c
  simp only [refreshState, h4, h5, or_self, if_false, hw, he, hr, Option.elim_none, Option.isSome_none, if_true,
    Bool.false_eq_true, not_true]
  exact rdF_wrF_same cy _ _ (by omega) (by omega)

/-- An enabled ring that nothing else occupies waits for room in its full completion ring (R71). -/
theorem refreshFull_waits (c : Canon s) (hf : cqFull s n = true) (hr : (rt s n).records ≠ []) (he : ringEnabled s n = true)
    (hw : (rt s n).waiting = none) (h4 : ringState s n ≠ rsStopped) (h5 : ringState s n ≠ rsResetting) :
    ringState (refreshFull s n) n = rsWait := by
  have hfull : ∀ r, cqFull (setRt (wrB s (rCrStatus n) 4 true) n r) n = true := by
    intro r
    rw [cqFull_congr (t := setRt (wrB s (rCrStatus n) 4 true) n r) fun o ho => rd_wrB_other s _ _ ho]
    exact hf
  have hstate : ∀ r, ringState (setRt (wrB s (rCrStatus n) 4 true) n r) n = ringState s n := fun r =>
    rdF_wrB_apart c _ _ (by omega) (by omega)
  have henabled : ∀ r, ringEnabled (setRt (wrB s (rCrStatus n) 4 true) n r) n = true := fun r =>
    (rdB_congr (rd_wrB_other s _ _ (by unfold rCrCtrl rCrStatus; omega)) 0).trans he
  unfold refreshFull
  dsimp only
  rw [if_pos hf]
  refine refreshState_waits (s := setRt _ n _) (canon_wrB c _ _ _) ?_ (henabled _) ?_ ?_ ?_
  · rw [rt_setRt, hw]
  · rwa [hstate]
  · rwa [hstate]
  · unfold waitsRoom
    rw [hfull, rt_setRt]
    simp [hr]

end

-- The interrupt of a record

/-- The record's interrupt: it is raised when the ring enables it and CQ_HEAD has armed it (R73). -/
def recordNotified (b : State) (n : Nat) (armed : Bool) : State :=
  if rdB b (rCrCtrl n) 36 ∧ armed = true then
    let l := match ringOwner b n with
      | .host h => h
      | .mp => false
    setRt (if n < 60 then raise b l (rdF b (rCrCtrl n) 47 37) else b) n { rt b n with irqArmed := false }
  else b

section
variable (b : State) (n : Nat) (armed : Bool)

theorem recordNotified_keeps : Keeps 2 b (recordNotified b n armed) := by
  unfold recordNotified
  refine keeps_ite _ (fun _ => setRt_keeps (Within.refl 2) _ n _ (keeps_ite _ (fun _ => ?_) fun _ => Keeps.refl 2 b))
    fun _ => Keeps.refl 2 b
  exact raise_keeps (Within.sub (Within.refl 2) rfl) b _ _ (Keeps.refl 2 b)

theorem recordNotified_rd (o : Nat) : rd (recordNotified b n armed) o = rd b o :=
  regs_of_keeps (recordNotified_keeps b n armed) rfl o

theorem recordNotified_rt_other {k : Nat} (hk : k ≠ n) : rt (recordNotified b n armed) k = rt b k := by
  unfold recordNotified
  split
  · refine (rt_setRt_other _ _ hk).trans ?_
    split
    · exact ctl_of_keeps (raise_keeps (Within.refl 0) b _ _ (Keeps.refl 0 b)) rfl k
    · rfl
  · rfl

theorem recordNotified_rt : (rt (recordNotified b n armed) n).records = (rt b n).records ∧
    (rt (recordNotified b n armed) n).slots = (rt b n).slots := by
  unfold recordNotified
  split
  · rw [rt_setRt]; exact ⟨rfl, rfl⟩
  · exact ⟨rfl, rfl⟩

end

-- The write of a record

/-- The record x is in its owner's memory, at the slot of CQ_TAIL and with the phase bit of R70; CQ_TAIL has moved one on. -/
def recordPut (s : State) (n : Nat) (x : Rec) : State :=
  let S := ringSize s n
  let t := cqTail s n
  let u := ownerWrite s n ((rd s (rCqBase n)).toNat + 16 * (t % S)) (recBytes x (t % (2 * S) < S))
  setRt (wrF u (rCqTail n) 16 0 ((t + 1) % (2 * S))) n { rt s n with records := (rt s n).records.drop 1 }

theorem writeRecord_eq (s : State) (n : Nat) (x : Rec) :
    writeRecord s n x = recordNotified (refreshFull (recordPut s n x) n) n (rt s n).irqArmed := rfl

theorem canon_recordPut {s : State} (c : Canon s) (n : Nat) (x : Rec) : Canon (recordPut s n x) :=
  canon_wrF (s := ownerWrite s n _ _) c _ _ _ _

section
variable {s : State} {ring : Fin 64} {x : Rec} {l : List Rec} (hrec : (rt s ring.val).records = x :: l)
  (hdead : (rt s ring.val).cqDead = false) (hbus : busMaster s (ringOwner s ring.val) = true)
include hrec hdead hbus

theorem exec_completionRecord_room (hf : cqFull s ring.val = false) :
    exec (.completionRecordWrite ring) s = .next (irqEdge s (writeRecord s ring.val x)) := by
  rw [exec_completionRecordWrite, execCompletionRecordWrite]
  simp only [hrec, hdead, hbus, hf]
  rfl

theorem exec_completionRecord_full (hf : cqFull s ring.val = true) :
    exec (.completionRecordWrite ring) s = .next (irqEdge s (refreshFull s ring.val)) := by
  rw [exec_completionRecordWrite, execCompletionRecordWrite]
  simp only [hrec, hdead, hbus, hf]
  rfl

end

/-- Settles O39: `recordPut`, refreshed and notified, while there is room; `refreshFull` alone while there is none. -/
theorem completionRecordsAreWrittenInOrder : Obligations.CompletionRecordsAreWrittenInOrder := by
  unfold Obligations.CompletionRecordsAreWrittenInOrder
  intro ring s x l n S c hrec hdead hbus
  refine ⟨fun hf => ⟨_, exec_completionRecord_room hrec hdead hbus hf, ?_⟩,
    fun hf => ⟨_, exec_completionRecord_full hrec hdead hbus hf, ?_⟩⟩
  · have cp := canon_recordPut c n x
    obtain ⟨-, hother, hrecs, hslots, hregs, -, hout⟩ := refreshFull_facts cp n
    obtain ⟨hnrec, hnslots⟩ := recordNotified_rt (refreshFull (recordPut s n x) n) n (rt s n).irqArmed
    have hput : rt (recordPut s n x) n = { rt s n with records := (rt s n).records.drop 1 } := rt_setRt _ _ _
    have hne : rCqTail n ≠ rCrStatus n := by unfold rCqTail rCrStatus; omega
    have htail : cqTail (recordPut s n x) n = (cqTail s n + 1) % (2 * S) % 2 ^ 17 :=
      rdF_wrF_same (s := ownerWrite s n _ _) c _ _ (by omega) (by omega)
    rw [writeRecord_eq]
    refine ⟨?_, ?_, ?_, ?_, ?_, ?_⟩
    · refine (irqEdge_out _ _).mem ((recordNotified_keeps _ n _).out.mem (hout.mem ?_))
      exact List.mem_cons_self
    · rw [← htail]
      exact rdF_congr ((irqEdge_rd s _ _).trans ((recordNotified_rd _ n _ _).trans (hregs _ hne))) _ _
    · rw [rt_congr (irqEdge_ctl s _), hnrec, hrecs, hput, hrec]
      rfl
    · rw [rt_congr (irqEdge_ctl s _), hnslots, hslots, hput]
    · intro k hk
      rw [rt_congr (irqEdge_ctl s _), recordNotified_rt_other _ n _ hk, hother k hk]
      exact rt_setRt_other _ _ hk
    · intro o ht hs
      rw [irqEdge_rd, recordNotified_rd, hregs o hs]
      exact rd_wrF_other (ownerWrite s n _ _) _ _ _ ht
  · obtain ⟨-, hother, hrecs, -, hregs, hfull, -⟩ := refreshFull_facts c n
    have hne : rCqTail n ≠ rCrStatus n := by unfold rCqTail rCrStatus; omega
    refine ⟨?_, ?_, ?_, ?_, ?_, ?_⟩
    · rw [rt_congr (irqEdge_ctl s _), hrecs, hrec]
    · rw [irqEdge_rdB, hfull, hf]
    · exact rdF_congr ((irqEdge_rd s _ _).trans (hregs _ hne)) _ _
    · intro he hw h4 h5
      exact (irqEdge_rdF s _ _ _ _).trans (refreshFull_waits c hf (by rw [hrec]; simp) he hw h4 h5)
    · intro k hk
      rw [rt_congr (irqEdge_ctl s _), hother k hk]
    · intro o hs
      rw [irqEdge_rd, hregs o hs]

end Sys2Proof.Machine
end

section
/-! PROOFS. What a register write and a whole register read do to the bits of the register and to every other register. -/
namespace Sys2Proof.Machine

/-- R14, bit by bit: a written W1C bit of 1 clears, a written RW bit takes its value, every other bit stays. -/
theorem getLsbD_mergeReg (i : RegInfo) (old mask value : Word) {j : Nat} (hj : j < 64) :
    (mergeReg i old mask value).getLsbD j =
      if i.w1c.testBit j && mask.getLsbD j && value.getLsbD j then false
      else if i.rw.testBit j && mask.getLsbD j then value.getLsbD j
      else old.getLsbD j := by
  simp only [mergeReg, BitVec.getLsbD_and, BitVec.getLsbD_or, BitVec.getLsbD_not, BitVec.getLsbD_ofNat, hj, decide_true,
    Bool.true_and]
  cases i.w1c.testBit j <;> cases i.rw.testBit j <;> cases mask.getLsbD j <;> cases value.getLsbD j <;> simp

theorem plainWrite_eq (s : State) {o : Nat} (mask value : Word) {i : RegInfo} (ho : o < 2 ^ 32) (h : regInfo o = some i) :
    plainWrite s o mask value = wr s o (mergeReg i (rd s o) mask value) := by
  simp only [plainWrite, Nat.mod_eq_of_lt ho, h]

/-- Settles O13: the write is one `wr` of the merged value, and `mergeReg` is the access codes bit by bit. -/
theorem plainWriteFollowsTheAccessCodes : Obligations.PlainWriteFollowsTheAccessCodes := by
  unfold Obligations.PlainWriteFollowsTheAccessCodes
  intro s o mask value i j hc ho hi hj
  rw [plainWrite_eq s mask value ho hi]
  refine ⟨?_, fun q hq => rd_wr_other s _ hq, rfl⟩
  rw [rd_wr_same hc, getLsbD_mergeReg i _ _ _ hj]

/-- Looking at a register changes nothing but the count of the free values that were drawn. -/
theorem look_state (s : State) (l : Bool) (o : Nat) : (look s l o).1 = { s with fresh := (look s l o).1.fresh } := by
  unfold look laneStatus
  dsimp only
  split_ifs <;> rfl

/-- A read of word 0 of a time writes at most the word 1 it captures. -/
theorem readTime0_state (s : State) (o : Nat) :
    ∃ w v, (w = rOpTime1 ∨ w = rDomTime1 0 ∨ w = rDomTime1 1 ∨ w = rPpsInCap1 0 ∨ w = rPpsInCap1 1) ∧
      ((readTime0 s o).1 = wr s w v ∨ (readTime0 s o).1 = s) := by
  unfold readTime0
  split_ifs with h1 h2 h3 h4 h5
  · exact ⟨_, _, .inl rfl, .inl rfl⟩
  · exact ⟨_, _, .inr (.inr (.inl rfl)), .inl rfl⟩
  · exact ⟨_, _, .inr (.inl rfl), .inl rfl⟩
  · exact ⟨_, _, .inr (.inr (.inr (.inl rfl))), .inl rfl⟩
  · exact ⟨_, _, .inr (.inr (.inr (.inr rfl))), .inl rfl⟩
  · exact ⟨_, 0, .inl rfl, .inr rfl⟩

/-- A whole read of any other register writes that register back with its RS fields cleared. -/
theorem readEffect_state (s : State) (l : Bool) {o : Nat} (ht : isTime0 o = false) :
    (readEffect s l o).1 =
      if (regInfo o).elim 0 (fun i => i.rs) = 0 then (look s l o).1
      else wr (look s l o).1 o (rd s o &&& ~~~ BitVec.ofNat 64 ((regInfo o).elim 0 (fun i => i.rs))) := by
  have hl : rd (look s l o).1 o = rd s o := by rw [look_state]; rfl
  simp only [readEffect, ht, Bool.false_eq_true, if_false, hl]
  split_ifs <;> rfl

/-- Settles O46: a time's word 0 captures its word 1 (`readTime0_state`), any other whole read rewrites its own register
(`readEffect_state`). -/
theorem readsClearOnlyReadClearFields : Obligations.ReadsClearOnlyReadClearFields := by
  unfold Obligations.ReadsClearOnlyReadClearFields
  intro s l o hc
  have hlook := look_state s l o
  have hrd : ∀ q, rd (look s l o).1 q = rd s q := fun q => by rw [hlook]; rfl
  have hcl : Canon (look s l o).1 := by rw [hlook]; exact hc
  refine ⟨fun ht _ i hi hrs => ?_, fun ht i hi hrs => ?_, fun ht q hq => ?_, fun ht q h1 h2 h3 h4 h5 => ?_, ?_⟩
  · rw [readEffect_state s l ht, hi]
    exact (congrArg (rd · o) (if_neg hrs)).trans (rd_wr_same hcl o _)
  · rw [readEffect_state s l ht, hi]
    exact (congrArg State.regs (if_pos hrs)).trans (by rw [hlook])
  · rw [readEffect_state s l ht]
    split_ifs
    · exact hrd q
    · exact (rd_wr_other _ _ hq).trans (hrd q)
  · obtain ⟨w, v, hw, e | e⟩ := readTime0_state s o
    · simp only [readEffect, ht, if_true, e]
      exact rd_wr_other s v (by rintro rfl; grind)
    · simp only [readEffect, ht, if_true, e]
  · cases ht : isTime0 o
    · rw [readEffect_state s l ht]
      split_ifs
      · rw [hlook]
      · rw [hlook, wr]
    · obtain ⟨w, v, -, e | e⟩ := readTime0_state s o
      · simp only [readEffect, ht, if_true, e, wr]
      · simp only [readEffect, ht, if_true, e]

end Sys2Proof.Machine
end

section
/-! PROOFS. Catch-up of one row of a parity, and a frame counter that wraps and marks its half. -/
namespace Sys2Proof.Machine

theorem formeWrite_syncRow (s : State) (n table r : Nat) (parity : Bool) :
    formeWrite (n + 1) s (.syncRow table r parity) = setRow s parity table r (row s (!parity) table r) := rfl

theorem canon_setRow {s : State} (c : Canon s) (parity : Bool) (table r image : Nat) : Canon (setRow s parity table r image) := by
  obtain ⟨hregs, hctrs, h0, h1⟩ := c
  cases parity
  · exact ⟨hregs, hctrs, SMap.wf_smSet h0 _ _, h1⟩
  · exact ⟨hregs, hctrs, h0, SMap.wf_smSet h1 _ _⟩

/-- Settles O24: the pass is one `setRow` of the other parity's image. -/
theorem catchUpMakesARowEqualInBothParities : Obligations.CatchUpMakesARowEqualInBothParities := by
  unfold Obligations.CatchUpMakesARowEqualInBothParities
  intro s n table r parity hc
  rw [formeWrite_syncRow]
  refine ⟨row_setRow_same hc parity table r _, row_setRow_parity s _ _ _ _ _ (by simp), fun t2 r2 h p => ?_, ?_,
    canon_setRow hc _ _ _ _⟩
  · by_cases hp : p = parity
    · subst hp; exact row_setRow_other s p _ h
    · exact row_setRow_parity s _ _ _ _ _ hp
  · cases parity <;> rfl

/-- Bit 47 of a counter modulo 2^48 rises exactly at the count that reaches 2^47. -/
theorem bit47_rises_iff (v : Nat) :
    (v.testBit 47 = false ∧ ((v + 1) % 2 ^ 48).testBit 47 = true) ↔ v % 2 ^ 48 = 2 ^ 47 - 1 := by
  simp only [Nat.testBit_eq_decide_div_mod_eq, decide_eq_true_eq, decide_eq_false_iff_not]
  omega

/-- Counting a frame: the counter, and `raiseHalf` exactly when bit 47 rises. -/
theorem frameCount_eq (s : State) (k half b : Nat) :
    frameCount s k half b =
      if ctr s k % 2 ^ 48 = 2 ^ 47 - 1 then raiseHalf (setCtr s k ((ctr s k + 1) % 2 ^ 48)) half b
      else setCtr s k ((ctr s k + 1) % 2 ^ 48) := rfl

/-- Settles O27: the count itself, and `bit47_rises_iff` for the half-range bit. -/
theorem frameCountersWrapAndMarkTheHalf : Obligations.FrameCountersWrapAndMarkTheHalf := by
  unfold Obligations.FrameCountersWrapAndMarkTheHalf
  intro s k half b hc hb
  have hctr : ∀ q, ctr (frameCount s k half b) q = ctr (setCtr s k ((ctr s k + 1) % 2 ^ 48)) q := fun q => by
    rw [frameCount_eq]; split_ifs <;> rfl
  have hk : ctr (frameCount s k half b) k = (ctr s k + 1) % 2 ^ 48 := (hctr k).trans (smGet_smSet_same _ hc.2.1.1 _ _)
  refine ⟨hk, fun h0 h1 => ?_, fun hno => ?_, ?_, fun o ho => ?_, fun q hq => ?_, ?_⟩
  · rw [hk] at h1
    rw [frameCount_eq, if_pos ((bit47_rises_iff _).1 ⟨h0, h1⟩)]
    exact rdB_wrB_same (s := setCtr s k _) ⟨hc.1, SMap.wf_smSet hc.2.1 _ _, hc.2.2⟩ half true hb
  · rw [hk, bit47_rises_iff] at hno
    rw [frameCount_eq, if_neg hno]; rfl
  · rw [frameCount_eq]; split_ifs <;> rfl
  · rw [frameCount_eq]
    split_ifs
    · exact rd_wrB_other (setCtr s k _) b true ho
    · rfl
  · exact (hctr q).trans (smGet_smSet_other _ _ _ hq)
  · rw [frameCount_eq]; split_ifs <;> rfl

end Sys2Proof.Machine
end

section
/-! PROOFS. The packet numbers of the line cipher: what a protected copy takes, and what replay protection keeps. -/
namespace Sys2Proof.Machine

theorem canon_postHw {s : State} (c : Canon s) (code : Nat) (d : List (Nat × Nat)) : Canon (postHw s code d) :=
  (postHw_keeps (Within.refl _) s code d (Keeps.refl _ _)).canon c

theorem rSa_ne_rRecDrop {rx : Bool} {a k : Nat} (ha : a < 16384) (hk : k < 64) : rSa rx a k ≠ rRecDrop := by
  unfold rSa rRecDrop; cases rx <;> simp <;> omega

theorem rSa_inj {rx : Bool} {a b k l : Nat} (hk : k < 64) (hl : l < 64) : rSa rx a k = rSa rx b l ↔ a = b ∧ k = l := by
  unfold rSa; omega

-- Transmit

theorem currentSa_lt {s : State} {i a : Nat} (h : currentSa s i = some a) : a < 16384 := by
  unfold currentSa at h
  split at h
  · have hlt : rdF s (rTxCur i) 13 0 < 2 ^ 14 := Nat.mod_lt _ (by omega)
    cases h; omega
  · cases h

/-- The packet number of an SA is taken: the next one stands, and the greatest of the suite exhausts the SA (R379, R380). -/
def pnTaken (s : State) (i a : Nat) : State :=
  let t := wr s (rSa false a 0x10) (BitVec.ofNat 64 (saPn s false a + 1))
  if saPn s false a = if saXpn s false a then 2 ^ 64 - 1 else 2 ^ 32 - 1 then
    postHw (setSaState t false a saExhausted) 0x8202 [(2, i), (2, a)]
  else t

/-- The soft expiry of an SA shows once its next packet number `next` reaches the threshold (R382). -/
def softExpired (s : State) (i a threshold next : Nat) : State :=
  if ¬ rdB s (rSa false a 8) 4 ∧ threshold ≤ next then
    postHw (wrB s (rSa false a 8) 4 true) 0x4201 [(2, i), (2, a), (8, next)]
  else s

/-- A protected copy is counted on its SA. -/
def protCounted (s : State) (a len : Nat) (encrypt : Bool) : State :=
  let s := wrapAdd (wrapAdd s (rSa false a 0x20) 48 1) (rSa false a 0x28) 64 len
  if encrypt then wrapAdd s (rSa false a 0x30) 48 1 else s

/-- When stage 13 protects a copy, it does so under the current SA, which is not EXHAUSTED. -/
theorem protect_prot {s t : State} {parity : Bool} {i : Nat} {o secure out : List Byte} {total limit restClear : Nat} {enc : Bool}
    {rest : Option (List Byte)} {clear : List Byte × Nat}
    (h : protect s parity i o secure total limit = (t, .prot out enc rest restClear clear)) :
    ∃ a, currentSa s i = some a ∧ saState s false a ≠ saExhausted ∧
      t = protCounted (softExpired (pnTaken s i a) i a (syThreshold (secyRow s parity i)) (saPn s false a + 1)) a (total + 4) (syEncrypt (secyRow s parity i)) ∧
      ∃ an user body, out = o.take (afterTags o (syClear (secyRow s parity i))) ++
        makeTag (secyRow s parity i) an (saPn s false a) user (sySciValue (secyRow s parity i)) ++ body := by
  unfold protect at h
  dsimp only at h
  obtain ⟨-, h⟩ | ⟨-, h⟩ := ite_eq_iff.1 h
  · cases h
  obtain ⟨-, h⟩ | ⟨-, h⟩ := ite_eq_iff.1 h
  · cases h
  cases ha : (if cipherRuns s then currentSa s i else none) with
  | none => simp only [ha] at h; cases h
  | some a =>
    have hcur : currentSa s i = some a := by
      split at ha
      · exact ha
      · cases ha
    simp only [ha] at h
    by_cases hst : saState s false a = saExhausted
    · rw [if_pos hst] at h; cases h
    · rw [if_neg hst] at h
      simp only [Prod.mk.injEq, TxVerdict.prot.injEq] at h
      obtain ⟨ht, hout, -⟩ := h
      exact ⟨a, hcur, hst, ht.symm, _, _, _, hout.symm⟩

theorem rd_protCounted (s : State) {a : Nat} (len : Nat) (encrypt : Bool) {k : Nat} (hk : k < 0x20) :
    rd (protCounted s a len encrypt) (rSa false a k) = rd s (rSa false a k) := by
  have hne : ∀ l, 0x20 ≤ l → l < 64 → rSa false a k ≠ rSa false a l := fun l h1 h2 => by unfold rSa; omega
  have hbase : rd (wrapAdd (wrapAdd s (rSa false a 0x20) 48 1) (rSa false a 0x28) 64 len) (rSa false a k) =
      rd s (rSa false a k) :=
    (rd_wr_other _ _ (hne 0x28 (by omega) (by omega))).trans (rd_wr_other _ _ (hne 0x20 (by omega) (by omega)))
  unfold protCounted
  dsimp only
  split_ifs
  · exact (rd_wr_other _ _ (hne 0x30 (by omega) (by omega))).trans hbase
  · exact hbase

theorem rd_softExpired (s : State) (i : Nat) {a : Nat} (ha : a < 16384) (threshold next : Nat) :
    rd (softExpired s i a threshold next) (rSa false a 0x10) = rd s (rSa false a 0x10) := by
  unfold softExpired
  split_ifs
  · exact (postHw_rd _ _ _ _ (rSa_ne_rRecDrop ha (by omega))).trans (rd_wrB_other _ _ _ (by unfold rSa; omega))
  · rfl

theorem saState_softExpired {s : State} (hc : Canon s) (i : Nat) {a : Nat} (ha : a < 16384) (threshold next : Nat) :
    saState (softExpired s i a threshold next) false a = saState s false a := by
  unfold softExpired
  split_ifs
  · exact (rdF_congr (postHw_rd _ _ _ _ (rSa_ne_rRecDrop ha (by omega))) _ _).trans
      (rdF_wrB_apart hc _ _ (by omega) (by omega))
  · rfl

/-- The next packet number of an SA that gave one. -/
theorem rd_pnTaken {s : State} (hc : Canon s) (i : Nat) {a : Nat} (ha : a < 16384) :
    rd (pnTaken s i a) (rSa false a 0x10) = BitVec.ofNat 64 (saPn s false a + 1) := by
  unfold pnTaken setSaState
  generalize (if saXpn s false a then 2 ^ 64 - 1 else 2 ^ 32 - 1) = top
  dsimp only
  split_ifs
  · exact (postHw_rd _ _ _ _ (rSa_ne_rRecDrop ha (by omega))).trans
      ((rd_wrF_other _ _ _ _ (by unfold rSa; omega)).trans (rd_wr_same hc _ _))
  · exact rd_wr_same hc _ _

theorem canon_pnTaken {s : State} (hc : Canon s) (i a : Nat) : Canon (pnTaken s i a) := by
  unfold pnTaken setSaState
  generalize (if saXpn s false a then 2 ^ 64 - 1 else 2 ^ 32 - 1) = top
  dsimp only
  split_ifs
  · exact canon_postHw (canon_wrF (canon_wr hc _ _) _ _ _ _) _ _
  · exact canon_wr hc _ _

theorem saState_pnTaken_top {s : State} (hc : Canon s) (i : Nat) {a : Nat} (ha : a < 16384)
    (htop : saPn s false a = if saXpn s false a then 2 ^ 64 - 1 else 2 ^ 32 - 1) :
    saState (pnTaken s i a) false a = saExhausted := by
  unfold pnTaken
  rw [if_pos htop]
  exact (rdF_congr (postHw_rd _ _ _ _ (rSa_ne_rRecDrop ha (by omega))) _ _).trans
    (rdF_wrF_same (canon_wr hc _ _) _ _ (by omega) (by omega))

/-- A protected copy takes its number and is counted in registers and the recorder alone. -/
theorem protected_path (s : State) (i a threshold next len : Nat) (encrypt : Bool) :
    (protCounted (softExpired (pnTaken s i a) i a threshold next) a len encrypt).path = s.path := by
  have hcount : ∀ x, (protCounted x a len encrypt).path = x.path := fun x => by unfold protCounted; dsimp only; split_ifs <;> rfl
  have hsoft : ∀ x, (softExpired x i a threshold next).path = x.path := fun x => by
    unfold softExpired
    split_ifs
    · exact (postHw_frame _ _ _).path rfl
    · rfl
  refine (hcount _).trans ((hsoft _).trans ?_)
  unfold pnTaken
  generalize (if saXpn s false a then 2 ^ 64 - 1 else 2 ^ 32 - 1) = top
  dsimp only
  split_ifs
  · exact (postHw_frame _ _ _).path rfl
  · rfl

/-- The SecTAG begins with the EtherType 0x88E5; octets 4 to 7 are the low half of the packet number (Table 6.1). -/
theorem makeTag_eq (r an pn user sci : Nat) :
    ∃ tci sl rest : List Byte, tci.length = 1 ∧ sl.length = 1 ∧
      makeTag r an pn user sci = [0x88#8, 0xE5#8] ++ tci ++ sl ++ beBytes 4 (pn % 2 ^ 32) ++ rest :=
  ⟨_, _, _, rfl, rfl, rfl⟩

/-- Octets of a list between what stands before and after them. -/
theorem slice_mid (p m q : List Byte) {k n : Nat} (hk : k = p.length) (hn : n = m.length) : slice (p ++ m ++ q) k n = m := by
  subst hk hn
  simp [slice]

/-- Settles O34: `protect_prot` names the state a protected copy leaves, whose registers the lemmas above read. -/
theorem everyProtectedCopyTakesANewPacketNumber : Obligations.EveryProtectedCopyTakesANewPacketNumber := by
  unfold Obligations.EveryProtectedCopyTakesANewPacketNumber
  intro s t parity i o secure out total limit restClear enc rest clear hc h
  have hkeep : Outside 4136 s t := by
    have := (protect_keeps (Within.refl _) s parity i o secure total limit (Keeps.refl _ _)).frame
    rwa [h] at this
  obtain ⟨a, hcur, hst, ht, an, user, body, hout⟩ := protect_prot h
  have ha := currentSa_lt hcur
  refine ⟨a, hcur, hst, ?_, fun htop => ?_, ?_, (hkeep.tables rfl).1, (hkeep.tables rfl).2,
    by rw [ht, protected_path]⟩
  · rw [ht, rd_protCounted _ _ _ (by omega), rd_softExpired _ _ ha, rd_pnTaken hc i ha]
  · rw [ht]
    exact (rdF_congr (rd_protCounted _ _ _ (by omega)) _ _).trans
      ((saState_softExpired (canon_pnTaken hc i a) i ha _ _).trans (saState_pnTaken_top hc i ha htop))
  · obtain ⟨tci, sl, tail, htci, hsl, htag⟩ := makeTag_eq (secyRow s parity i) an (saPn s false a) user
      (sySciValue (secyRow s parity i))
    rw [htag] at hout
    generalize afterTags o (syClear (secyRow s parity i)) = b at hout ⊢
    have hpre : (o.take b).length = min b o.length := List.length_take
    refine ⟨?_, ?_, ?_⟩
    · rw [hout, List.append_assoc, List.take_append_of_le_length hpre.ge, List.take_take]
      congr 1; omega
    · rw [hout, show o.take b ++ ([0x88#8, 0xE5#8] ++ tci ++ sl ++ beBytes 4 (saPn s false a % 2 ^ 32) ++ tail) ++ body =
        o.take b ++ [0x88#8, 0xE5#8] ++ (tci ++ sl ++ beBytes 4 (saPn s false a % 2 ^ 32) ++ tail ++ body) by
          simp only [List.append_assoc]]
      exact slice_mid _ _ _ hpre.symm rfl
    · rw [hout, show o.take b ++ ([0x88#8, 0xE5#8] ++ tci ++ sl ++ beBytes 4 (saPn s false a % 2 ^ 32) ++ tail) ++ body =
        (o.take b ++ [0x88#8, 0xE5#8] ++ tci ++ sl) ++ beBytes 4 (saPn s false a % 2 ^ 32) ++ (tail ++ body) by
          simp only [List.append_assoc]]
      exact slice_mid _ _ _ (by simp [htci, hsl]) (by simp [beBytes, leBytes])

-- Receive

theorem rd_ciph (s : State) (c : CipherSt) (o : Nat) : rd { s with ciph := c } o = rd s o := rfl

/-- The two registers an accepted packet number writes (R369). -/
theorem rd_acceptPn (s : State) (i a pn o : Nat) :
    ∃ w, rd (acceptPn s i a pn) o = rd (wr (wr s (rSa true a 0x10) (BitVec.ofNat 64 (max (saPn s true a) (pn + 1))))
      (rSa true a 0x18) (BitVec.ofNat 64 (max (saLow s a) (pn + 1 - w)))) o := by
  have hlow : saLow (wr s (rSa true a 0x10) (BitVec.ofNat 64 (max (saPn s true a) (pn + 1)))) a = saLow s a :=
    congrArg BitVec.toNat (rd_wr_other _ _ (by unfold rSa; omega))
  refine ⟨replayWindow (wr s (rSa true a 0x10) (BitVec.ofNat 64 (max (saPn s true a) (pn + 1)))) i a, ?_⟩
  unfold acceptPn
  dsimp only
  rw [rd_ciph, hlow]

theorem toNat_ofNat_max {x y : Nat} (hx : x < 2 ^ 64) (hy : y < 2 ^ 64) : (BitVec.ofNat 64 (max x y)).toNat = max x y := by
  rw [BitVec.toNat_ofNat, Nat.mod_eq_of_lt (Nat.max_lt.2 ⟨hx, hy⟩)]

theorem saPn_acceptPn {s : State} (hc : Canon s) (i : Nat) {a pn : Nat} (hpn : pn < 2 ^ 64 - 1) :
    saPn (acceptPn s i a pn) true a = max (saPn s true a) (pn + 1) := by
  obtain ⟨w, hw⟩ := rd_acceptPn s i a pn (rSa true a 0x10)
  have hne : rSa true a 0x10 ≠ rSa true a 0x18 := by unfold rSa; omega
  rw [saPn, hw, rd_wr_other _ _ hne, rd_wr_same hc]
  exact toNat_ofNat_max (rd s (rSa true a 0x10)).isLt (by omega)

theorem saLow_acceptPn {s : State} (hc : Canon s) (i : Nat) {a pn : Nat} (hpn : pn < 2 ^ 64 - 1) :
    ∃ w, saLow (acceptPn s i a pn) a = max (saLow s a) (pn + 1 - w) := by
  obtain ⟨w, hw⟩ := rd_acceptPn s i a pn (rSa true a 0x18)
  refine ⟨w, ?_⟩
  rw [saLow, hw, rd_wr_same (canon_wr hc _ _)]
  exact toNat_ofNat_max (rd s (rSa true a 0x18)).isLt (by omega)

/-- Accepting a packet number on one SA reaches no other SA's window. -/
theorem rd_acceptPn_other (s : State) (i pn : Nat) {a y k : Nat} (hk : k < 64) (h : y ≠ a) :
    rd (acceptPn s i a pn) (rSa true y k) = rd s (rSa true y k) := by
  obtain ⟨w, hw⟩ := rd_acceptPn s i a pn (rSa true y k)
  have hne : ∀ l, l < 64 → rSa true y k ≠ rSa true a l := fun l hl e => h ((rSa_inj hk hl).1 e).1
  rw [hw, rd_wr_other _ _ (hne 0x18 (by omega)), rd_wr_other _ _ (hne 0x10 (by omega))]

/-- Settles O35: the two maxima of `acceptPn`, and row 7 of Table 6.5 for a frame below the lowest acceptable number. -/
theorem replayProtectionHolds : Obligations.ReplayProtectionHolds := by
  unfold Obligations.ReplayProtectionHolds
  intro s i a pn hc ha hpn
  refine ⟨?_, fun o plain len early icv => ?_⟩
  · obtain ⟨w, hlow⟩ := saLow_acceptPn hc i (a := a) hpn
    refine ⟨?_, ?_, ?_, fun y hy => ⟨?_, ?_⟩⟩
    · rw [saPn_acceptPn hc i hpn]; exact le_max_left _ _
    · rw [hlow]; exact le_max_left _ _
    · rw [saPn_acceptPn hc i hpn]; exact Nat.lt_of_lt_of_le (Nat.lt_succ_self pn) (le_max_right _ _)
    · exact congrArg BitVec.toNat (rd_acceptPn_other s i pn (by omega) hy)
    · exact congrArg BitVec.toNat (rd_acceptPn_other s i pn (by omega) hy)
  · intro b g hety htag hsci hmap hne hnr hrun hrep hlow
    simp only [b, g] at hety htag hsci hmap hlow
    simp only [rxCheck, hety, ne_eq, not_true_eq_false, if_false, htag, Bool.false_eq_true, hsci, hmap, hne, hnr, hrun, or_self,
      hrep, hlow, and_self, if_true, secyDrop]

end Sys2Proof.Machine
end

section
/-! PROOFS. The reset of a ring (R98): its registers, its run-time state, the galley it owns, and what it leaves to others. -/
namespace Sys2Proof.Machine

-- Accepted SASWs: no completion and no pool request takes one

theorem refreshState_sasws (s : State) (n : Nat) : (refreshState s n).ctl.sasws = s.ctl.sasws := by
  unfold refreshState
  split
  · rfl
  · have hy : ∀ (c : Prop) [Decidable c], (if c then yieldTurn s n else s).ctl.sasws = s.ctl.sasws :=
      fun c _ => by split <;> rfl
    exact hy _

theorem startProgram_sasws (s : State) (n : Nat) : (startProgram s n).ctl.sasws = s.ctl.sasws := by
  have hpost : ∀ (u : State) d, (postHw u 0x8902 d).ctl = u.ctl := fun u d => (postHw_frame u _ d).rings rfl
  unfold startProgram
  dsimp only
  split_ifs
  · rfl
  · exact refreshState_sasws _ _
  · exact refreshState_sasws _ _
  · rw [hpost]; rfl
  · exact refreshState_sasws _ _

theorem clearProgram_sasws (s : State) (n : Nat) : (clearProgram s n).ctl.sasws = s.ctl.sasws := rfl

theorem abortProgram_sasws (s : State) (n evIsn evStatus : Nat) (endGone : Bool) :
    (abortProgram s n evIsn evStatus endGone).ctl.sasws = s.ctl.sasws := by
  have hpost : ∀ (u : State) c d, (postHw u c d).ctl = u.ctl := fun u c d => (postHw_frame u c d).rings rfl
  unfold abortProgram
  rw [refreshState_sasws, startProgram_sasws, clearProgram_sasws]
  rw [hpost]
  rfl

theorem completeIns_sasws (s : State) (n isn opcode flags : Nat) (st : Status) (result : Nat) (force : Bool) :
    (completeIns s n isn opcode flags st result force).ctl.sasws = s.ctl.sasws := by
  have hrec : ∀ (c : Prop) [Decidable c] (x : Rec), (if c then queueRec s n x else s).ctl.sasws = s.ctl.sasws :=
    fun c _ x => by split <;> rfl
  unfold completeIns
  dsimp only
  split
  · exact (abortProgram_sasws _ _ _ _ _).trans (hrec _ _)
  · split
    · exact (abortProgram_sasws _ _ _ _ _).trans (hrec _ _)
    · split
      · rw [refreshState_sasws, startProgram_sasws]; exact hrec _ _
      · exact (refreshState_sasws _ _).trans (hrec _ _)

theorem poolGrant_sasws (s : State) (k : Nat) (w : PoolWait) : (poolGrant s k w).ctl.sasws = s.ctl.sasws := by
  have hback : ∀ e n isn addr, (operandFault (putBack s k e) n isn addr).1.ctl = s.ctl := fun e n isn addr =>
    (operandFault_keeps (pm := 37896) (Within.sub (Within.refl _) rfl) _ n isn addr
      (putBack_keeps (Within.sub (Within.refl _) rfl) s k e (Keeps.refl _ _))).ctl rfl
  unfold poolGrant
  split
  · rfl
  · split
    · split
      · dsimp only
        split
        · rw [completeIns_sasws, hback]
        · rw [completeIns_sasws]; split <;> rfl
      · rfl
    · rfl

theorem poolFill_ctl (s : State) (k : Nat) (w : PoolWait) : (poolFill s k w).1.ctl = s.ctl :=
  (poolFill_keeps (Within.refl _) s k w (Keeps.refl _ _)).ctl rfl

theorem poolServe_sasws (fuel : Nat) (s : State) (k : Nat) : (poolServe fuel s k).ctl.sasws = s.ctl.sasws := by
  induction fuel generalizing s with
  | zero => rfl
  | succ fuel ih =>
    unfold poolServe
    split
    · rfl
    · dsimp only
      split_ifs
      · rw [ih, poolGrant_sasws]; exact congrArg Control.sasws (poolFill_ctl _ _ _)
      · exact congrArg Control.sasws (poolFill_ctl _ _ _)
      · rfl

theorem putBackAll_ctl (k : Nat) (l : List Nat) (s : State) : (l.foldl (fun s e => putBack s k e) s).ctl = s.ctl := by
  induction l generalizing s with
  | nil => rfl
  | cons e l ih => exact (ih _).trans ((putBack_keeps (Within.refl _) s k e (Keeps.refl _ _)).ctl rfl)

theorem poolLeave_sasws (s : State) (k : Nat) (p : PoolWait → Bool) : (poolLeave s k p).ctl.sasws = s.ctl.sasws := by
  unfold poolLeave
  split
  · rfl
  · unfold poolPass
    split
    · exact congrArg Control.sasws (putBackAll_ctl _ _ _)
    · exact (poolServe_sasws _ _ _).trans (congrArg Control.sasws (putBackAll_ctl _ _ _))

theorem pallocLeave_sasws (s : State) (n : Nat) : (pallocLeave s n).ctl.sasws = s.ctl.sasws := by
  unfold pallocLeave
  generalize List.range 16 = l
  induction l generalizing s with
  | nil => rfl
  | cons k l ih => exact (ih _).trans (poolLeave_sasws _ _ _)

-- The end of a wait

/-- Only a waiting PALLOC, whose buffers pass to other rings, lets the end of a wait reach the rings. -/
theorem endWaiting_ctl (s : State) (n : Nat) (h : ∀ w, (rt s n).waiting = some w → w.opcode ≠ opPalloc) :
    (endWaiting s n).ctl = s.ctl := by
  unfold endWaiting
  split
  · rfl
  · next w hw =>
    rw [if_neg (h w hw)]
    split
    · exact (galleyReopen_keeps (Within.refl _) s (Keeps.refl _ _)).ctl rfl
    · split
      · exact (crdRest_keeps (Within.refl _) _ _ _ _ _ (Keeps.refl _ _)).ctl rfl
      · rfl

theorem endWaiting_sasws (s : State) (n : Nat) : (endWaiting s n).ctl.sasws = s.ctl.sasws := by
  by_cases h : ∀ w, (rt s n).waiting = some w → w.opcode ≠ opPalloc
  · rw [endWaiting_ctl s n h]
  · push Not at h
    obtain ⟨w, hw, hop⟩ := h
    have hno : w.opcode ≠ opLock := by rw [hop]; decide
    simp only [endWaiting, hw, if_neg hno, if_pos hop]
    exact pallocLeave_sasws s n

theorem endWaiting_none (s : State) (n : Nat) (h : (rt s n).waiting = none) : endWaiting s n = s := by
  simp only [endWaiting, h]

-- The parts of a ring reset

/-- The galley of ring n at its reset: an open one is dropped, a pending one loses its owner (R126). -/
def leaveGalley (s : State) (n : Nat) : State :=
  if galleyState s = gsOpen ∧ galleyOwner s = n then setPhase (galleyNone s) 0
  else if galleyState s = gsPending ∧ galleyOwner s = n then wrB s rFormeStatus 16 true else s

/-- Ring n's recent records are forgotten, and its accepted SASWs lose their ring (R98). -/
def leaveTimed (s : State) (n : Nat) : State :=
  { s with ctl := { s.ctl with
    recent := s.ctl.recent.filter (fun x => x.ring ≠ n)
    sasws := s.ctl.sasws.map (fun x => if x.ring = n then { x with orphan := true } else x) } }

/-- The indices, ENABLE, CQ_FULL and STATE of a reset ring (R98). -/
def zeroRing (s : State) (n : Nat) : State :=
  let s := wr (wr (wr (wr s (rCrHead n) 0#64) (rCrTail n) 0#64) (rCqHead n) 0#64) (rCqTail n) 0#64
  wrF (wrB (wrB s (rCrCtrl n) 0 false) (rCrStatus n) 4 false) (rCrStatus n) 10 8 rsDisabled

/-- The ring has ended its wait and left its galley. -/
def leftRing (s : State) (n : Nat) : State := leaveGalley (endWaiting (wrF s (rCrStatus n) 10 8 rsResetting) n) n

/-- A reset in its parts: the wait ends, the galley and the SASWs are left, the ring is emptied and its role ends. -/
theorem ringReset_eq (s : State) (n : Nat) :
    ringReset s n = endRole (setRt (zeroRing (leaveTimed (leftRing s n) n) n) n {}) n := rfl

theorem endRole_ctl (s : State) (n : Nat) : (endRole s n).ctl = s.ctl :=
  (endRole_keeps (Within.refl _) s n (Keeps.refl _ _)).ctl rfl

theorem endRole_forme (s : State) (n : Nat) : (endRole s n).forme = s.forme :=
  (endRole_keeps (Within.refl _) s n (Keeps.refl _ _)).frame.formes rfl

/-- The end of a role writes no register below those of the roles. -/
theorem endRole_rd (s : State) (n : Nat) {o : Nat} (ho : o < 0x3000100) : rd (endRole s n) o = rd s o := by
  have hbind : ∀ v d, rd (postHw (wr s (rRingRole n) v) 0x020E d) o = rd s o := fun v d =>
    (postHw_rd _ _ _ _ (by unfold rRecDrop; omega)).trans (rd_wr_other _ _ (by unfold rRingRole; omega))
  unfold endRole
  split_ifs with h
  · rfl
  · unfold bindRole
    rw [if_neg (by omega)]
    exact hbind _ _

theorem leaveGalley_ctl (s : State) (n : Nat) : (leaveGalley s n).ctl = s.ctl := by
  unfold leaveGalley; split_ifs <;> rfl

theorem canon_leaveGalley {s : State} (c : Canon s) (n : Nat) : Canon (leaveGalley s n) := by
  unfold leaveGalley
  split_ifs
  · exact canon_wrF ((galleyNone_keeps (Within.refl _) s (Keeps.refl _ _)).canon c) _ _ _ _
  · exact canon_wrB c _ _ _
  · exact c

section
variable {s : State} (c : Canon s) (n : Nat)

theorem zeroRing_rd_other {o : Nat} (h : o < 0x101008 ∨ 0x101008 + 0x100 * n + 0x30 < o) : rd (zeroRing s n) o = rd s o := by
  have hne : ∀ q, 0x101008 ≤ q → q ≤ 0x101008 + 0x100 * n + 0x30 → o ≠ q := fun q _ _ => by omega
  unfold zeroRing
  dsimp only
  rw [rd_wrF_other _ _ _ _ (hne _ (by unfold rCrStatus; omega) (by unfold rCrStatus; omega)),
    rd_wrB_other _ _ _ (hne _ (by unfold rCrStatus; omega) (by unfold rCrStatus; omega)),
    rd_wrB_other _ _ _ (hne _ (by unfold rCrCtrl; omega) (by unfold rCrCtrl; omega)),
    rd_wr_other _ _ (hne _ (by unfold rCqTail; omega) (by unfold rCqTail; omega)),
    rd_wr_other _ _ (hne _ (by unfold rCqHead; omega) (by unfold rCqHead; omega)),
    rd_wr_other _ _ (hne _ (by unfold rCrTail; omega) (by unfold rCrTail; omega)),
    rd_wr_other _ _ (hne _ (by unfold rCrHead; omega) (by unfold rCrHead; omega))]

include c

theorem zeroRing_indices : rd (zeroRing s n) (rCrHead n) = 0#64 ∧
    rd (zeroRing s n) (rCrTail n) = 0#64 ∧ rd (zeroRing s n) (rCqHead n) = 0#64 ∧ rd (zeroRing s n) (rCqTail n) = 0#64 := by
  have c1 := canon_wr c (rCrHead n) 0#64
  have c2 := canon_wr c1 (rCrTail n) 0#64
  have c3 := canon_wr c2 (rCqHead n) 0#64
  have hflags : ∀ (u : State) (q : Nat), q ≠ rCrCtrl n → q ≠ rCrStatus n →
      rd (wrF (wrB (wrB u (rCrCtrl n) 0 false) (rCrStatus n) 4 false) (rCrStatus n) 10 8 rsDisabled) q = rd u q :=
    fun u q h1 h2 => by rw [rd_wrF_other _ _ _ _ h2, rd_wrB_other _ _ _ h2, rd_wrB_other _ _ _ h1]
  unfold zeroRing
  dsimp only
  refine ⟨?_, ?_, ?_, ?_⟩
  · rw [hflags _ _ (by unfold rCrHead rCrCtrl; omega) (by unfold rCrHead rCrStatus; omega),
      rd_wr_other _ _ (by unfold rCrHead rCqTail; omega), rd_wr_other _ _ (by unfold rCrHead rCqHead; omega),
      rd_wr_other _ _ (by unfold rCrHead rCrTail; omega), rd_wr_same c]
  · rw [hflags _ _ (by unfold rCrTail rCrCtrl; omega) (by unfold rCrTail rCrStatus; omega),
      rd_wr_other _ _ (by unfold rCrTail rCqTail; omega), rd_wr_other _ _ (by unfold rCrTail rCqHead; omega), rd_wr_same c1]
  · rw [hflags _ _ (by unfold rCqHead rCrCtrl; omega) (by unfold rCqHead rCrStatus; omega),
      rd_wr_other _ _ (by unfold rCqHead rCqTail; omega), rd_wr_same c2]
  · rw [hflags _ _ (by unfold rCqTail rCrCtrl; omega) (by unfold rCqTail rCrStatus; omega), rd_wr_same c3]

theorem zeroRing_disabled : rdB (zeroRing s n) (rCrCtrl n) 0 = false ∧ rdF (zeroRing s n) (rCrStatus n) 10 8 = rsDisabled := by
  have c4 := canon_wr (canon_wr (canon_wr (canon_wr c (rCrHead n) 0#64) (rCrTail n) 0#64) (rCqHead n) 0#64) (rCqTail n) 0#64
  have c5 := canon_wrB (canon_wrB c4 (rCrCtrl n) 0 false) (rCrStatus n) 4 false
  have hne : rCrCtrl n ≠ rCrStatus n := by unfold rCrCtrl rCrStatus; omega
  unfold zeroRing
  dsimp only
  constructor
  · rw [rdB_congr ((rd_wrF_other _ _ _ _ hne).trans (rd_wrB_other _ _ _ hne)), rdB_wrB_same c4 _ _ (by omega)]
  · rw [rdF_wrF_same c5 _ _ (by omega) (by omega)]; rfl

end

theorem resetting_rt (s : State) (n k : Nat) : rt (wrF s (rCrStatus n) 10 8 rsResetting) k = rt s k := rfl

theorem resetting_formeStatus (s : State) (n : Nat) :
    rd (wrF s (rCrStatus n) 10 8 rsResetting) rFormeStatus = rd s rFormeStatus :=
  rd_wrF_other _ _ _ _ (by unfold rFormeStatus rCrStatus; omega)

theorem canon_leftRing {s : State} (c : Canon s) (n : Nat) : Canon (leftRing s n) :=
  canon_leaveGalley ((endWaiting_keeps (Within.refl _) _ n (Keeps.refl _ _)).canon (canon_wrF c _ _ _ _)) n

theorem leftRing_sasws (s : State) (n : Nat) : (leftRing s n).ctl.sasws = s.ctl.sasws := by
  rw [leftRing, leaveGalley_ctl, endWaiting_sasws]; rfl

theorem leftRing_ctl (s : State) (n : Nat) (h : ∀ w, (rt s n).waiting = some w → w.opcode ≠ opPalloc) :
    (leftRing s n).ctl = s.ctl := by
  rw [leftRing, leaveGalley_ctl, endWaiting_ctl _ n (by rwa [resetting_rt])]; rfl

/-- The galley of a ring that waits for nothing, OPEN. -/
theorem leftRing_open {s : State} {n : Nat} (hopen : galleyState s = gsOpen) (hown : galleyOwner s = n)
    (hnone : (rt s n).waiting = none) :
    leftRing s n = setPhase (galleyNone (wrF s (rCrStatus n) 10 8 rsResetting)) 0 := by
  have hfs := resetting_formeStatus s n
  rw [leftRing, endWaiting_none _ n (by rwa [resetting_rt]), leaveGalley,
    if_pos ⟨(galleyState_congr hfs).trans hopen, (galleyOwner_congr hfs).trans hown⟩]

/-- The galley of a ring that waits for nothing, PENDING. -/
theorem leftRing_pending {s : State} {n : Nat} (hpend : galleyState s = gsPending) (hown : galleyOwner s = n)
    (hnone : (rt s n).waiting = none) : leftRing s n = wrB (wrF s (rCrStatus n) 10 8 rsResetting) rFormeStatus 16 true := by
  have hfs := resetting_formeStatus s n
  rw [leftRing, endWaiting_none _ n (by rwa [resetting_rt]), leaveGalley, if_neg (fun h => absurd (h.1.symm.trans ((galleyState_congr hfs).trans hpend)) (by decide)),
    if_pos ⟨(galleyState_congr hfs).trans hpend, (galleyOwner_congr hfs).trans hown⟩]

theorem rd_setRt (s : State) (n : Nat) (r : RingRt) (o : Nat) : rd (setRt s n r) o = rd s o := rfl
theorem rd_leaveTimed (s : State) (n o : Nat) : rd (leaveTimed s n) o = rd s o := rfl
theorem rt_leaveTimed (s : State) (n k : Nat) : rt (leaveTimed s n) k = rt s k := rfl
theorem zeroRing_ctl (s : State) (n : Nat) : (zeroRing s n).ctl = s.ctl := by unfold zeroRing; simp
theorem zeroRing_forme (s : State) (n : Nat) : (zeroRing s n).forme = s.forme := by unfold zeroRing; simp
theorem leaveTimed_forme (s : State) (n : Nat) : (leaveTimed s n).forme = s.forme := rfl
theorem setRt_sasws (s : State) (n : Nat) (r : RingRt) : (setRt s n r).ctl.sasws = s.ctl.sasws := rfl

theorem ringReset_rd_low (s : State) (n : Nat) {o : Nat} (ho : o < 0x3000100) :
    rd (ringReset s n) o = rd (zeroRing (leaveTimed (leftRing s n) n) n) o := by
  rw [ringReset_eq, endRole_rd _ _ ho, rd_setRt]

theorem ringReset_formeStatus (s : State) (n : Nat) : rd (ringReset s n) rFormeStatus = rd (leftRing s n) rFormeStatus := by
  rw [ringReset_rd_low s n (by decide), zeroRing_rd_other n (by unfold rFormeStatus; omega),
    rd_leaveTimed]

theorem ringReset_forme (s : State) (n : Nat) : (ringReset s n).forme = (leftRing s n).forme := by
  rw [ringReset_eq, endRole_forme, setRt_forme, zeroRing_forme, leaveTimed_forme]

theorem ringReset_ctl (s : State) (n : Nat) :
    (ringReset s n).ctl = (setRt (zeroRing (leaveTimed (leftRing s n) n) n) n {}).ctl := by
  rw [ringReset_eq, endRole_ctl]

theorem leaveTimed_sasws (s : State) (n : Nat) :
    (leaveTimed s n).ctl.sasws.map (fun x => x.isn) = s.ctl.sasws.map (fun x => x.isn) := by
  simp only [leaveTimed, List.map_map]
  exact List.map_congr_left fun x _ => by simp only [Function.comp]; split <;> rfl

/-- Settles O38: the parts of `ringReset_eq`, each by its own lemma. -/
theorem aResetRingIsEmpty : Obligations.AResetRingIsEmpty := by
  unfold Obligations.AResetRingIsEmpty
  intro s n hc hn
  have hct : Canon (leaveTimed (leftRing s n) n) := canon_leftRing hc n
  obtain ⟨h0, h1, h2, h3⟩ := zeroRing_indices hct n
  obtain ⟨hen, hst⟩ := zeroRing_disabled hct n
  have hcw := canon_wrF hc (rCrStatus n) 10 8 rsResetting
  refine ⟨?_, ?_, ?_, ?_, ?_, ?_, fun hopen hown hnone => ⟨?_, ?_⟩, fun hpend hown hnone => ⟨?_, ?_⟩, ?_, ?_, fun hnp k hk => ?_⟩
  · rw [crHead, rdF, ringReset_rd_low s n (by unfold rCrHead; omega), h0]; rfl
  · rw [crTail, rdF, ringReset_rd_low s n (by unfold rCrTail; omega), h1]; rfl
  · rw [cqHead, rdF, ringReset_rd_low s n (by unfold rCqHead; omega), h2]; rfl
  · rw [cqTail, rdF, ringReset_rd_low s n (by unfold rCqTail; omega), h3]; rfl
  · exact (rdB_congr (ringReset_rd_low s n (by unfold rCrCtrl; omega)) _).trans hen
  · exact (rdF_congr (ringReset_rd_low s n (by unfold rCrStatus; omega)) _ _).trans hst
  · rw [galleyState_congr (ringReset_formeStatus s n), leftRing_open hopen hown hnone]
    exact (rdF_wrF_apart ((galleyNone_keeps (Within.refl _) _ (Keeps.refl _ _)).canon hcw) _ _ (by omega) (by omega)
      (by omega)).trans (galleyNone_galleyState hcw)
  · rw [ringReset_forme, leftRing_open hopen hown hnone]; rfl
  · rw [ownerGone_congr (ringReset_formeStatus s n), leftRing_pending hpend hown hnone]
    exact rdB_wrB_same hcw _ _ (by omega)
  · rw [ringReset_forme, leftRing_pending hpend hown hnone]; rfl
  · rw [ringReset_ctl, setRt_sasws, zeroRing_ctl, leaveTimed_sasws, leftRing_sasws]
  · rw [rt_congr (ringReset_ctl s n), rt_setRt]
  · rw [rt_congr (ringReset_ctl s n), rt_setRt_other _ _ hk, rt_congr (zeroRing_ctl _ _), rt_leaveTimed]
    exact rt_congr (leftRing_ctl s n hnp) k

end Sys2Proof.Machine
end

section
/-! PROOFS. What a power loss and a cold or zeroise reset keep (Table 18.8). -/
namespace Sys2Proof.Machine

/-- A map whose keys were filtered reads as empty at a key that went. -/
theorem smFind_filter_key_none {α : Type} (m : SMap α) (p : Nat → Bool) {q : Nat} (h : p q = false) :
    smFind (m.filter (fun x => p x.1)) q = none := by
  induction m with
  | nil => rfl
  | cons e m ih =>
    obtain ⟨k, v⟩ := e
    by_cases hk : p k = true
    · have hne : q ≠ k := by rintro rfl; simp [h] at hk
      simp [hk, smFind, hne, ih]
    · simp [hk, ih]

/-- A restart returns every register that it does not keep to its reset value. -/
theorem rd_restart (s : State) (power : Bool) {o : Nat} (h : keptReg power o = false) :
    rd (restart s power) o = resetValue o := by
  show smGet resetValue (s.regs.filter (fun x => keptReg power x.1)) o = resetValue o
  rw [smGet, smFind_filter_key_none s.regs (keptReg power) h]; rfl

theorem canon_restart {s : State} (c : Canon s) (power : Bool) : Canon (restart s power) :=
  (restart_keeps (Within.refl _) s power (Keeps.refl _ _)).canon c

theorem powerOff_devState (s : State) : devState (powerOff s) = stOff := by
  have h : rd (powerOff s) rDevState = resetValue rDevState := rd_restart s true (by decide)
  rw [devState, rdF, h]; decide

/-- The state from which a cold or zeroise reset restarts: the roles have ended, the windows are closed and the reset stands in
the journal. -/
def closedDown (s : State) (kind : Nat) : State := journalReset (closeAllWindows (endAllRoles s)) kind

/-- The registers a reset writes over their reset values: the mode in effect, DEV_STATE and the cause. -/
def restarted (r : State) (mode : Bool) (cause : Nat) : State :=
  setResetCause (setDevState (wrB r rCoreStatus 0 mode) stSupervise) cause

theorem resetInto_eq (s : State) (cause kind : Nat) :
    resetInto s cause kind = cipherStored (restarted (restart (closedDown s kind) false) (voqMode (endAllRoles s)) cause) := rfl

-- Closing the windows reaches the recorder and its registers alone

/-- A record whose writes verify is written without a fault. -/
theorem writeTo_verified_keeps {pm : Nat} {org : State} (hm : Within 4104 pm) (s : State) (k : Nat) (p : Posting)
    (h : Keeps pm org s) : Keeps pm org (writeTo s k p true true true) := by
  have k4096 : Within 4096 pm := hm.sub rfl
  have hput : Keeps pm org (putRecord s k p) := putRecord_keeps hm s k p h
  have hdeg : Keeps pm org (writeDegraded s k p (true || true)) := by
    unfold writeDegraded
    dsimp only
    rw [if_pos (Bool.or_self true)]
    have h2 := putRecord_keeps hm s 2 p h
    exact keeps_ite _ (fun _ => putRecord_keeps hm _ 3 p h2) (fun _ => h2)
  have hrec : Keeps pm org (if recState s = 0 then if true || true then putRecord s k p
      else writeDegraded (recDegrade s k (storeNext s k) true) k p true else writeDegraded s k p (true || true)) :=
    keeps_ite _ (fun _ => by rwa [if_pos (Bool.or_self true)]) (fun _ => hdeg)
  exact keeps_ite _ (fun _ => recNotify_keeps k4096 _ _ hrec) (fun _ => hrec)

theorem closeAllWindows_verified_keeps {pm : Nat} {org : State} (hm : Within 4104 pm) (s : State) (h : Keeps pm org s) :
    Keeps pm org (closeAllWindows s) := by
  have hstep : ∀ (l : List Window) (t : State), Keeps pm org t →
      Keeps pm org (l.foldl (fun s w => closeWindow s w true true true) t) := by
    intro l
    induction l with
    | nil => exact fun t h => h
    | cons w l ih => exact fun t h => ih _ (keeps_ite _ (fun _ => h) (fun _ => writeTo_verified_keeps hm t 0 _ h))
  exact hstep _ _ (keeps_rcd _ (hm.bit (i := 3) rfl) h)

/-- Closing down reaches the registers, the recorder and the roles of the mailbox alone. -/
theorem closedDown_frame (s : State) (kind : Nat) : Outside 4360 s (closedDown s kind) :=
  (journalReset_keeps (pm := 4360) (Within.sub (Within.refl _) rfl) _ kind
    (closeAllWindows_verified_keeps (Within.sub (Within.refl _) rfl) _
      (endAllRoles_keeps (Within.refl _) s (Keeps.refl _ _)))).frame

theorem foldl_endRole_ciph (l : List Nat) (s : State) : (l.foldl endRole s).ciph = s.ciph := by
  induction l generalizing s with
  | nil => rfl
  | cons n l ih => exact (ih _).trans ((endRole_keeps (Within.refl _) s n (Keeps.refl _ _)).frame.cipher rfl)

theorem foldl_endRole_rd (l : List Nat) (s : State) {o : Nat} (ho : o < 0x3000100) : rd (l.foldl endRole s) o = rd s o := by
  induction l generalizing s with
  | nil => rfl
  | cons n l ih => exact (ih _).trans (endRole_rd s n ho)

theorem endAllRoles_ciph (s : State) : (endAllRoles s).ciph = { s.ciph with mbxRole := [] } := by
  unfold endAllRoles
  dsimp only
  rw [foldl_endRole_ciph]

theorem endAllRoles_rd (s : State) {o : Nat} (ho : o < 0x3000100) : rd (endAllRoles s) o = rd s o := by
  unfold endAllRoles
  generalize List.range 60 = l
  exact foldl_endRole_rd l s ho

theorem endAllRoles_voqMode (s : State) : voqMode (endAllRoles s) = voqMode s :=
  rdB_congr (endAllRoles_rd s (by decide)) _

theorem closedDown_ciph (s : State) (kind : Nat) : (closedDown s kind).ciph = { s.ciph with mbxRole := [] } := by
  have hclose : (closedDown s kind).ciph = (endAllRoles s).ciph :=
    (journalReset_keeps (pm := 4104) (Within.sub (Within.refl _) rfl) _ kind
      (closeAllWindows_verified_keeps (Within.refl _) _ (Keeps.refl _ _))).frame.cipher rfl
  rw [hclose, endAllRoles_ciph]

-- The registers that stand again

theorem cipherStored_rd_other (s : State) {o : Nat} (h1 : o ≠ rCipherStatus) (h2 : o ≠ rCipherMode) (h3 : o ≠ rMirrorPermit)
    (h4 : o ≠ rTamperStatus) : rd (cipherStored s) o = rd s o := by
  unfold cipherStored
  dsimp only
  rw [rd_wrF_other _ _ _ _ h4, rd_wrF_other _ _ _ _ h3, rd_wrB_other _ _ _ h2, rd_wrB_other _ _ _ h1, rd_wrB_other _ _ _ h1,
    rd_wrF_other _ _ _ _ h1]

theorem restarted_rd_other (r : State) (mode : Bool) (cause : Nat) {o : Nat} (h1 : o ≠ rDevState) (h2 : o ≠ rResetCause)
    (h3 : o ≠ rCoreStatus) : rd (restarted r mode cause) o = rd r o := by
  unfold restarted setResetCause setDevState
  rw [rd_wrF_other _ _ _ _ h2, rd_wrF_other _ _ _ _ h1, rd_wrB_other _ _ _ h3]

section
variable {r : State} (c : Canon r) (mode : Bool) (cause : Nat)
include c

theorem restarted_devState : devState (restarted r mode cause) = stSupervise := by
  have h := rdF_wrF_same (canon_wrB c rCoreStatus 0 mode) rDevState (hi := 2) (lo := 0) stSupervise (by omega) (by omega)
  exact (rdF_congr (rd_wrF_other _ _ _ _ (by decide)) _ _).trans (h.trans rfl)

theorem restarted_cause (h : cause < 8) : rdF (restarted r mode cause) rResetCause 2 0 = cause :=
  (rdF_wrF_same (canon_wrF (canon_wrB c _ _ _) _ _ _ _) _ _ (by omega) (by omega)).trans (Nat.mod_eq_of_lt h)

theorem restarted_voqMode : voqMode (restarted r mode cause) = mode :=
  (rdB_congr ((rd_wrF_other _ _ _ _ (by decide)).trans (rd_wrF_other _ _ _ _ (by decide))) _).trans
    (rdB_wrB_same c _ _ (by omega))

end

/-- Settles O59: a reset is `resetInto_eq`, a restart of the closed-down state with three registers written over it. -/
theorem resetsKeepWhatTheSpecKeeps : Obligations.ResetsKeepWhatTheSpecKeeps := by
  unfold Obligations.ResetsKeepWhatTheSpecKeeps
  intro s hc
  refine ⟨⟨powerOff_devState s, rfl, rfl, rfl, rfl, rfl, rfl, rfl, rfl, rfl, rfl, rfl, rfl, rfl⟩, fun cause kind hcause => ?_,
    fun o hkept h1 h2 h3 h4 h5 h6 h7 cause kind => ?_⟩
  · have hcr : Canon (restart (closedDown s kind) false) :=
      canon_restart ((journalReset_keeps (pm := 4360) (Within.sub (Within.refl _) rfl) _ kind
        (closeAllWindows_verified_keeps (Within.sub (Within.refl _) rfl) _
          (endAllRoles_keeps (Within.refl _) s (Keeps.refl _ _)))).canon hc) false
    have hciph : (closedDown s kind).ciph = _ := closedDown_ciph s kind
    have hpwr : (closedDown s kind).pwr = s.pwr := (closedDown_frame s kind).power rfl
    rw [resetInto_eq, endAllRoles_voqMode]
    generalize closedDown s kind = d at *
    refine ⟨?_, ?_, rfl, rfl, rfl, rfl, rfl, rfl, ?_, ?_, ?_, ?_⟩
    · exact (rdF_congr (cipherStored_rd_other _ (by decide) (by decide) (by decide) (by decide)) _ _).trans
        (restarted_devState hcr _ _)
    · exact (rdF_congr (cipherStored_rd_other _ (by decide) (by decide) (by decide) (by decide)) _ _).trans
        (restarted_cause hcr _ _ hcause)
    · show d.ciph.keks = s.ciph.keks
      rw [hciph]
    · show d.ciph.operators = s.ciph.operators
      rw [hciph]
    · show d.pwr.nv = s.pwr.nv
      rw [hpwr]
    · exact (rdB_congr (cipherStored_rd_other _ (by decide) (by decide) (by decide) (by decide)) _).trans
        (restarted_voqMode hcr _ _)
  · rw [resetInto_eq, cipherStored_rd_other _ h3 h4 h5 h6, restarted_rd_other _ _ _ h1 h2 h7]
    exact rd_restart _ false (by simpa using hkept)

end Sys2Proof.Machine
end

section
/-! PROOFS. Link-down and the transmit lanes. -/
namespace Sys2Proof.Machine

/-- A state whose map of transmit lanes lists port 0 twice, as sending an idle pattern. `Canon` speaks of registers, counters and
tables alone, so it holds here. -/
def twiceListed : State := { State.reset with path := { State.reset.path with txSide := [(0, 1), (0, 1)] } }

theorem canon_twiceListed : Canon twiceListed := by decide +kernel

/-- ADMIN_DOWN is to take the lanes of port 0 to electrical idle (0): the deletion of one entry leaves the other. -/
theorem linkDown_twiceListed : smGet (fun _ => 0) (linkDown twiceListed 0 3 false false).path.txSide 0 = 1 := by
  decide +kernel

/-- Refutes O51: with port 0 listed twice in the map of transmit lanes, a link-down with cause 3 leaves its lanes as they were,
for `smDel` removes only the first entry and `Canon` does not bind that map. -/
theorem not_aLinkThatGoesDownStopsItsPort : ¬ Obligations.ALinkThatGoesDownStopsItsPort := by
  unfold Obligations.ALinkThatGoesDownStopsItsPort
  intro h
  obtain ⟨-, -, -, -, -, -, hside, -⟩ := h twiceListed 0 3 false false canon_twiceListed (by decide)
  rw [linkDown_twiceListed, if_pos (.inr (.inl rfl))] at hside
  exact absurd hside (by decide)

end Sys2Proof.Machine
end

section
/-! PROOFS. The state after power-on reset. -/
namespace Sys2Proof.Machine

theorem canon_reset : Canon State.reset := ⟨SMap.wf_nil _, SMap.wf_nil _, SMap.wf_nil _, SMap.wf_nil _⟩

theorem rd_reset (o : Nat) : rd State.reset o = resetValue o := rfl

theorem row_reset (p : Bool) (t r : Nat) : row State.reset p t r = 0 := by cases p <;> rfl

/-- Settles O6: every map of the reset state is empty, so each register, row and counter reads its default. -/
theorem resetStateIsCanonicalAndEmpty : Obligations.ResetStateIsCanonicalAndEmpty := by
  unfold Obligations.ResetStateIsCanonicalAndEmpty
  refine ⟨canon_reset, rfl, rd_reset, row_reset, fun _ => rfl, ?_, ?_, ?_, rfl, rfl, rfl, rfl, rfl⟩
  · rw [devState, rdF, rd_reset]; decide
  · rw [live, rdB, rd_reset]; decide
  · rw [galleyState, rdF, rd_reset]; decide

end Sys2Proof.Machine
end

section
/-! PROOFS. The completion of a timed instruction (R81) and the ring whose instruction is in execution meanwhile. -/
namespace Sys2Proof.Machine

theorem startProgram_rt_other (s : State) {n k : Nat} (h : k ≠ n) : rt (startProgram s n) k = rt s k := by
  unfold startProgram
  dsimp only
  split_ifs
  · rfl
  · rw [refreshState_rt, rt_setRt_other _ _ h]
  · rw [refreshState_rt, rt_setRt_other _ _ h]
  · exact postHw_rt _ _ _ k
  · exact refreshState_rt _ _ k

theorem rt_wrF (s : State) (o hi lo v k : Nat) : rt (wrF s o hi lo v) k = rt s k := rfl
theorem rt_wrB (s : State) (o i : Nat) (v : Bool) (k : Nat) : rt (wrB s o i v) k = rt s k := rfl
theorem rt_takeIsn (s : State) (k : Nat) : rt (takeIsn s) k = rt s k := rfl

theorem abortProgram_rt_other (s : State) {n k : Nat} (i st : Nat) (endGone : Bool) (h : k ≠ n) :
    rt (abortProgram s n i st endGone) k = rt s k := by
  unfold abortProgram
  rw [refreshState_rt, startProgram_rt_other _ h, clearProgram_other _ h, postHw_rt, rt_wrB, rt_wrF, advanceHead_other _ _ h,
    queueRec_other _ _ h, rt_takeIsn]

section
variable {k : Nat} {s : State} (h : Occupied k s)
include h

/-- Writing a ring's state leaves ring k occupied when it is another ring or stays occupied itself. -/
theorem Occupied.setRt_of {n : Nat} {r : RingRt} (hr : k = n → r.waiting.isSome = true) : Occupied k (Machine.setRt s n r) := by
  by_cases hk : k = n
  · exact h.setRt (hr hk)
  · unfold Occupied; rw [rt_setRt_other _ _ hk]; exact h

theorem queueRec_occupied (n : Nat) (x : Rec) : Occupied k (queueRec s n x) := by
  have hadd : Occupied k (addRec s n x) := h.setRt_of (fun e => e ▸ h)
  exact hadd.of_rings rfl

/-- A timed instruction that completes leaves every ring occupied that an instruction in execution occupies. -/
theorem completeTimed_occupied (n isn opcode flags : Nat) (orphan : Bool) (st : Status) (result : Nat) :
    Occupied k (completeTimed s n isn opcode flags orphan st result) := by
  unfold completeTimed
  split
  · exact h
  · dsimp only
    have hrec : ∀ (c : Prop) [Decidable c] (x : Rec), Occupied k (if c then queueRec s n x else s) :=
      fun c _ x => by split <;> [exact queueRec_occupied h n x; exact h]
    generalize hr : wr (if st ≠ .ok ∨ rptOf flags = true then
      queueRec s n { result := result, isn := isn, status := statusCode st, opcode := recOpcode opcode } else s)
      (rCrLastIsn n) (BitVec.ofNat 64 isn) = r
    have hocc : Occupied k r := hr ▸ (hrec _ _).of_rings rfl
    generalize hu : (if (((rt r n).begun && (rt r n).firstIsn ≠ 0 && decide ((rt r n).firstIsn ≤ isn)) = true ∧ st ≠ .ok) then
      setRt r n { rt r n with notOk := (rt r n).notOk + 1 } else r) = u
    have hocu : Occupied k u := by
      rw [← hu]
      split
      · exact hocc.setRt_of (fun e => e ▸ hocc)
      · exact hocc
    split
    · split
      next hw => exact hocu.setRt_of (fun _ => hw)
      next hw =>
        have hk : k ≠ n := fun e => hw (e ▸ hocu)
        unfold Occupied
        rw [abortProgram_rt_other _ _ _ _ hk]
        exact hocu
    · exact hocu

theorem finishSasw_occupied (x : Sasw) (st : Status) (result : Nat) : Occupied k (finishSasw s x st result) :=
  completeTimed_occupied (s := { s with ctl := { s.ctl with sasws := s.ctl.sasws.filter (fun y => y.isn ≠ x.isn) } })
    (h.of_rings rfl) _ _ _ _ _ _ _

end

end Sys2Proof.Machine
end

section
/-! PROOFS. Order instructions (END, NOTE, SKIPIF, unlisted opcodes) and register instructions (RW, RMW, RRD). -/
namespace Sys2Proof.Machine

/-- An issued instruction gets the verdict of its meaning while its ring is still occupied. -/
theorem runIns_verdict {s u : State} {n op : Nat} {ins : Ins} {act : Nat → State → State × Verdict} {v : Verdict}
    (h : Issues s n op ins) (e : act s.ctl.isn (issued s n op ins.flags) = (u, v)) (k : Occupied n u) :
    runIns s n op ins act = settle u n s.ctl.isn op ins.flags v :=
  runIns_settle h e k

/-- An issued instruction whose meaning answers a completion, its ring still occupied, completes so. -/
theorem runIns_done {s u : State} {n op : Nat} {ins : Ins} {act : Nat → State → State × Verdict} {st : Status} {result : Nat}
    (h : Issues s n op ins) (e : act s.ctl.isn (issued s n op ins.flags) = (u, .done st result)) (k : Occupied n u) :
    runIns s n op ins act = completeIns u n s.ctl.isn op ins.flags st result false :=
  runIns_settle h e k

theorem issued_occupied (s : State) (n op flags : Nat) : Occupied n (issued s n op flags) := issued_waiting s n op flags

theorem post_occupied {n : Nat} {s : State} (h : Occupied n s) (code origin : Nat) (d : List (Nat × Nat)) :
    Occupied n (post s code origin d) :=
  h.of_keeps (post_keeps (Within.refl _) s code origin d (Keeps.refl _ _)) rfl

theorem look_occupied {n : Nat} {s : State} (h : Occupied n s) (l : Bool) (o : Nat) : Occupied n (look s l o).1 := by
  rw [look_state]; exact h.of_rings rfl

theorem skipLook_occupied {n : Nat} {s : State} (h : Occupied n s) (l : Bool) (ins : Ins) : Occupied n (skipLook s l ins).1 := by
  unfold skipLook
  dsimp only
  split_ifs
  · exact h
  · exact look_occupied h l _

theorem advanceHead_occupied {n : Nat} {s : State} (h : Occupied n s) (k : Nat) : Occupied n (advanceHead s n k) :=
  Occupied.setRt (s := wrF s (rCrHead n) 16 0 ((crHead s n + k) % (2 * ringSize s n))) (h.of_rings rfl) h

section
variable (ring : Fin 64) (ins : Ins) {s : State}

-- Order instructions

theorem exec_endProg_ok (h : Issues s ring.val opEnd ins) (hf : ins.flags < 4) (hp : insPlain ins = true) :
    exec (.endProg ring ins) s = .next (irqEdge s (completeIns (issued s ring.val opEnd ins.flags) ring.val s.ctl.isn opEnd
      ins.flags .ok ((rt (issued s ring.val opEnd ins.flags) ring.val).notOk % 2 ^ 16 +
        (rt (issued s ring.val opEnd ins.flags) ring.val).skipped % 2 ^ 16 * 2 ^ 16) false)) := by
  have hcheck : firstFail [(decide (4 ≤ ins.flags) || !insPlain ins, Status.eCheck)] = none := by
    have : ¬ 4 ≤ ins.flags := by omega
    simp [firstFail, hp, this]
  exact congrArg (nextOf s) (runIns_done h (guardIns_pass hcheck) (issued_occupied _ _ _ _))

theorem exec_note_ok (h : Issues s ring.val opNote ins) :
    exec (.note ring ins) s = .next (irqEdge s (completeIns (post (issued s ring.val opNote ins.flags) 0x0920 (ringOrigin ring.val)
      [(2, ringOrigin ring.val), (2, ins.unit), (4, ins.index), (8, ins.operand)]) ring.val s.ctl.isn opNote ins.flags .ok 0
      false)) :=
  congrArg (nextOf s) (runIns_done h rfl (post_occupied (issued_occupied _ _ _ _) _ _ _))

end

/-- What a SKIPIF does once its own bytes and its count have passed: `k` is 0 not to skip, 1 to skip, 2 to fail the check. -/
def skipAct (u : State) (n : Nat) (ins : Ins) (k : Nat) : State × Verdict :=
  if k = 2 then (u, .done .eCheck 0)
  else if k = 0 then (u, .done .ok 0)
  else
    (setRt (advanceHead u n ins.unit) n { rt (advanceHead u n ins.unit) n with
      skipped := (rt (advanceHead u n ins.unit) n).skipped + ins.unit }, .done .ok 1)

/-- The free outcome of a COND of 4 to 7, with the state that has drawn it. -/
def skipDraw (t : State) (ins : Ins) : State × Nat := if decide (4 ≤ bits ins.flags 4 2) then skipFree t else (t, 0)

/-- Which of the outcomes of `skipAct` a SKIPIF has. -/
def skipKind (t : State) (n : Nat) (ins : Ins) (prev : Option Bool) : Nat :=
  if decide (4 ≤ bits ins.flags 4 2) then (skipDraw t ins).2
  else if skipHolds (skipLook (skipDraw t ins).1 (ringLink t n) ins).2 ins prev then 1 else 0

theorem skipKind_lt (t : State) (n : Nat) (ins : Ins) (prev : Option Bool) : skipKind t n ins prev < 3 := by
  unfold skipKind skipDraw
  split_ifs
  · exact Nat.mod_lt _ (by omega)
  · omega
  · omega

/-- SKIPIF's meaning through its outcome. -/
theorem execSkipif_eq (ring : Fin 64) (ins : Ins) (s : State) (hbad : skipBad ins = false) :
    exec (.skipif ring ins) s = nextOf s (runIns s ring.val opSkipif ins fun _ t =>
      if (rt t ring.val).slots.findIdx (fun o => o = opEnd) < ins.unit then (t, .fatal .eCheck 0)
      else skipAct (skipLook (skipDraw t ins).1 (ringLink t ring.val) ins).1 ring.val ins
        (skipKind t ring.val ins (rt s ring.val).lastOk)) := by
  have hcheck : firstFail [(skipBad ins, Status.eCheck)] = none := by simp [firstFail, hbad]
  rw [exec_skipif, execSkipif]
  refine congrArg (fun act => nextOf s (runIns s ring.val opSkipif ins act)) (funext fun _ => funext fun t => ?_)
  rw [guardIns_pass hcheck]
  refine ite_congr rfl (fun _ => rfl) fun _ => ?_
  unfold skipAct skipKind skipDraw
  by_cases ho : 4 ≤ bits ins.flags 4 2
  · simp only [ho, decide_true, if_true, true_and]
  · simp only [ho, decide_false, Bool.false_eq_true, if_false, false_and]
    split_ifs <;> simp_all

theorem skipDraw_occupied {n : Nat} {t : State} (h : Occupied n t) (ins : Ins) : Occupied n (skipDraw t ins).1 := by
  unfold skipDraw
  split_ifs
  · exact h.of_rings rfl
  · exact h

theorem skipAct_occupied {n : Nat} {u : State} (h : Occupied n u) (ins : Ins) (k : Nat) : Occupied n (skipAct u n ins k).1 := by
  unfold skipAct
  split_ifs
  · exact h
  · exact h
  · exact Occupied.setRt (advanceHead_occupied h _) (advanceHead_occupied h _)

section
variable (ring : Fin 64) (ins : Ins) {s : State} (h : Issues s ring.val opSkipif ins) (hbad : skipBad ins = false)
include h hbad

/-- A SKIPIF whose count would pass its END. -/
theorem exec_skipif_past
    (hp : (rt (issued s ring.val opSkipif ins.flags) ring.val).slots.findIdx (fun o => o = opEnd) < ins.unit) :
    exec (.skipif ring ins) s = nextOf s (completeIns (issued s ring.val opSkipif ins.flags) ring.val s.ctl.isn opSkipif
      ins.flags .eCheck 0 true) := by
  rw [execSkipif_eq ring ins s hbad, runIns_settle h (if_pos hp) (issued_waiting _ _ _ _)]
  rfl

/-- Any other SKIPIF. -/
theorem exec_skipif_inside
    (hp : ¬ (rt (issued s ring.val opSkipif ins.flags) ring.val).slots.findIdx (fun o => o = opEnd) < ins.unit)
    {u : State} {st : Status} {result : Nat}
    (e : skipAct (skipLook (skipDraw (issued s ring.val opSkipif ins.flags) ins).1
      (ringLink (issued s ring.val opSkipif ins.flags) ring.val) ins).1 ring.val ins
      (skipKind (issued s ring.val opSkipif ins.flags) ring.val ins (rt s ring.val).lastOk) = (u, .done st result)) :
    exec (.skipif ring ins) s = nextOf s (completeIns u ring.val s.ctl.isn opSkipif ins.flags st result false) := by
  have hocc := skipAct_occupied (skipLook_occupied (skipDraw_occupied (issued_occupied s ring.val opSkipif ins.flags) ins)
    (ringLink (issued s ring.val opSkipif ins.flags) ring.val) ins) ins
      (skipKind (issued s ring.val opSkipif ins.flags) ring.val ins (rt s ring.val).lastOk)
  rw [e] at hocc
  rw [execSkipif_eq ring ins s hbad, runIns_done h ((if_neg hp).trans e) hocc]

end

section
variable (ring : Fin 64) (ins : Ins) (op : Fin 256) {s : State} (hl : listedOpcodes.contains op.val = false)
  (h : Issues s ring.val op.val ins)
include hl h

theorem exec_unlisted_check (h0 : op.val ≠ 0) :
    exec (.unlistedOpcode ring op ins) s = nextOf s (completeIns (issued s ring.val op.val ins.flags) ring.val s.ctl.isn op.val
      ins.flags .eCheck 0 false) := by
  rw [exec_unlistedOpcode, execUnlistedOpcode, hl, if_neg h0, onlyIf, if_pos Bool.not_false]
  exact congrArg (nextOf s) (runIns_done h rfl (issued_occupied _ _ _ _))

theorem exec_unlisted_zero (h0 : op.val = 0) :
    exec (.unlistedOpcode ring op ins) s = nextOf s (abortProgram s ring.val (rt s ring.val).lastIsn (statusCode .eCheck)
      false) := by
  obtain ⟨hready, hop⟩ := h
  rw [h0] at hready hop
  rw [exec_unlistedOpcode, execUnlistedOpcode, hl, if_pos h0, hready, hop]
  simp [onlyIf]

end

/-- Settles O9: END and NOTE complete at once; SKIPIF by its outcome (`execSkipif_eq`); an unlisted opcode by its two cases. -/
theorem orderInstructionsComplete : Obligations.OrderInstructionsComplete := by
  unfold Obligations.OrderInstructionsComplete
  intro ring ins s n isn
  refine ⟨exec_endProg_ok ring ins, exec_note_ok ring ins, fun h hbad => ?_, fun op hl h =>
    ⟨exec_unlisted_check ring ins op hl h, exec_unlisted_zero ring ins op hl h⟩⟩
  intro t open_ f x k u past
  have hk : k = skipKind t n ins (rt s n).lastOk := rfl
  refine ⟨hk ▸ skipKind_lt t n ins _, fun hp => exec_skipif_past ring ins h hbad (of_decide_eq_true hp), fun hp h0 => ?_,
    fun hp h1 => ?_, fun hp h2 => ?_⟩
  · exact exec_skipif_inside ring ins h hbad (of_decide_eq_false hp) (by rw [← hk, h0]; rfl)
  · exact exec_skipif_inside ring ins h hbad (of_decide_eq_false hp) (by rw [← hk, h1]; rfl)
  · exact exec_skipif_inside ring ins h hbad (of_decide_eq_false hp) (by rw [← hk, h2]; rfl)

-- Register instructions

/-- The state in which a ring's write has passed the Write Gate. -/
def passedGate (g : State) : State :=
  perf { g with ctl := { g.ctl with gateIn := g.ctl.gateIn + 1, gateOut := g.ctl.gateOut + 1 } } 40 0x0303 1

/-- A ring's write that names an absent unit writes nothing. -/
theorem ringWrite_absent {s : State} {n isn o : Nat} {v : Word} (env : WriteEnv) (result : Nat)
    (h : regRefersAbsent (gateDrain s) o v = true) :
    ringWrite s n isn o v env result = (gateDrain s, .done .eAbsent 0) := if_pos h

/-- One that takes effect is journaled. -/
theorem ringWrite_took {s u : State} {n isn o : Nat} {v : Word} {env : WriteEnv} {result : Nat}
    (h : regRefersAbsent (gateDrain s) o v = false)
    (hw : regWrite (passedGate (gateDrain s)) (writeKey (ringLink (passedGate (gateDrain s)) n) o) (BitVec.allOnes 64) v env
      (ringOperator (passedGate (gateDrain s)) n) id = (u, .took)) :
    ringWrite s n isn o v env result =
      (journal u 0x0010 (ringOrigin n) [(8, isn), (4, o), (8, v.toNat)], .done .ok result) := by
  unfold passedGate at hw
  unfold ringWrite
  dsimp only
  rw [if_neg (by rw [h]; decide), hw]

/-- Settles O11: RW and RMW through `ringWrite`, RRD through `readEffect`, each after the checks of R1161. -/
theorem registerInstructionsComplete : Obligations.RegisterInstructionsComplete := by
  unfold Obligations.RegisterInstructionsComplete
  intro ring ins env s n isn gate
  refine ⟨?rw, ?rmw, ?rrd⟩
  case rw =>
    intro h t g v hc
    refine ⟨fun habs hw => ?_, fun u habs hreg hw => ?_⟩
    · exact congrArg (nextOf s) (runIns_done h ((guardIns_pass hc).trans (ringWrite_absent env 0 habs)) hw)
    · exact congrArg (nextOf s) (runIns_done h ((guardIns_pass hc).trans (ringWrite_took habs hreg)) hw)
  case rmw =>
    intro b h t x g old m v hc
    refine ⟨fun habs hw => ?_, fun u habs hreg hw => ?_⟩
    · exact congrArg (nextOf s) (runIns_done h ((guardIns_pass hc).trans (ringWrite_absent env old.toNat habs)) hw)
    · exact congrArg (nextOf s) (runIns_done h ((guardIns_pass hc).trans (ringWrite_took habs hreg)) hw)
  case rrd =>
    intro h t r hc
    have hr : Occupied n r.1 := by
      obtain hk := readEffect_keeps (Within.refl _) t (ringLink t n) ins.index (Keeps.refl _ _)
      exact (issued_occupied s n opRrd ins.flags).of_keeps hk rfl
    have hocc : Occupied n (if ins.operand = 0 then r.1 else valueWrite r.1 n isn ins.operand (leBytes 8 r.2.toNat)) := by
      split_ifs
      · exact hr
      · exact valueWrite_occupied hr _ _ _ _
    refine congrArg (nextOf s) (runIns_done h ((guardIns_pass hc).trans ?_) hocc)
    rw [if_neg (by simp)]

end Sys2Proof.Machine
end

section
/-! PROOFS. LOCK, LOCKAT, GDROP and TRD. -/
namespace Sys2Proof.Machine

theorem firstFail_cons_false {c : Bool} {st : Status} {l : List (Bool × Status)} (hc : c = false) :
    firstFail ((c, st) :: l) = firstFail l := by simp [firstFail, hc]

theorem firstFail_cons_true {c : Bool} {st : Status} {l : List (Bool × Status)} (hc : c = true) :
    firstFail ((c, st) :: l) = some st := by simp [firstFail, hc]

theorem firstFail_append_none {l m : List (Bool × Status)} (hl : firstFail l = none) : firstFail (l ++ m) = firstFail m := by
  induction l with
  | nil => rfl
  | cons x l ih =>
    obtain ⟨c, st⟩ := x
    cases c
    · exact ih hl
    · cases hl

theorem touchGalley_occupied {k : Nat} {s : State} (h : Occupied k s) (n : Nat) : Occupied k (touchGalley s n) := by
  unfold touchGalley
  split_ifs
  · exact h.of_rings rfl
  · exact h

/-- The state a galley instruction of ring n acts on. -/
theorem touched_occupied (s : State) (n op flags : Nat) : Occupied n (touchGalley (issued s n op flags) n) :=
  touchGalley_occupied (issued_occupied s n op flags) n

-- LOCK and LOCKAT

/-- Settles O19: the checks pass, and `acceptLock` leaves the ring occupied. -/
theorem lockAndLockatAreAccepted : Obligations.LockAndLockatAreAccepted := by
  unfold Obligations.LockAndLockatAreAccepted
  intro ring ins b s n isn
  refine ⟨?lock, ?lockat⟩
  case lock =>
    intro h hf hz t hc hg
    have hown : (decide (4 ≤ ins.flags) || !allZero ins) = false := by
      have : ¬ 4 ≤ ins.flags := by omega
      simp [hz, this]
    have hchecks : firstFail ((decide (4 ≤ ins.flags) || !allZero ins, Status.eCheck) :: galleyChecks t n
        ++ [(gatesPast t (opNs t), .eTimePast)]) = none := by
      rw [List.cons_append, firstFail_cons_false hown, firstFail_append_none hc, firstFail_cons_false hg]; rfl
    exact congrArg (nextOf s) (runIns_verdict h (guardIns_pass hchecks) ((touched_occupied s n opLock ins.flags).of_rings rfl))
  case lockat =>
    intro h hf hu hi ho t sec ns hc hp
    have hown : (decide (8 ≤ ins.flags) || ins.unit ≠ 0 || ins.index ≠ 0 || ins.operand % 16 ≠ 0) = false := by
      have : ¬ 8 ≤ ins.flags := by omega
      simp [hu, hi, ho, this]
    have hchecks : firstFail ((decide (8 ≤ ins.flags) || ins.unit ≠ 0 || ins.index ≠ 0 || ins.operand % 16 ≠ 0, Status.eCheck)
        :: galleyChecks t n) = none := (firstFail_cons_false hown).trans hc
    have hfull : decide (1024 ≤ pendingTimed t) = false := by simpa using hp
    refine ⟨fun hle hg => ?_, fun hlt => ?_⟩
    · have htime : (decide (tNs sec ns < opNs t) || gatesPast t (tNs sec ns)) = false := by simpa [hg] using hle
      refine congrArg (nextOf s) (runIns_verdict h ((guardIns_pass hchecks).trans (guardIns_pass ?_))
        ((issued_occupied s n opLockat ins.flags).of_rings rfl))
      rw [firstFail_cons_false hfull, firstFail_cons_false htime]; rfl
    · refine congrArg (nextOf s) (runIns_done h ((guardIns_pass hchecks).trans (guardIns_fail ?_))
        (issued_occupied s n opLockat ins.flags))
      have htime : (decide (tNs sec ns < opNs t) || gatesPast t (tNs sec ns)) = true := by simp [hlt]
      rw [firstFail_cons_false hfull, firstFail_cons_true htime]

-- GDROP

/-- The checks of GDROP. -/
theorem gdropChecks_pass {t : State} {n : Nat} {ins : Ins} (hf : ins.flags < 4) (hz : allZero ins = true)
    (hg : galleyState t ≠ gsNone) (ho : galleyOwner t = n ∨ ownerGone t = true) :
    firstFail [(decide (4 ≤ ins.flags) || !allZero ins, Status.eCheck), (galleyState t = gsNone, .eNoGalley),
      (galleyOwner t ≠ n && !ownerGone t, .ePerm)] = none := by
  have h4 : ¬ 4 ≤ ins.flags := by omega
  obtain ho | ho := ho <;> simp [firstFail, hz, h4, hg, ho]

section
variable {ring : Fin 64} {ins : Ins} {s : State} (h : Issues s ring.val opGdrop ins) (hf : ins.flags < 4)
  (hz : allZero ins = true)
  (ho : galleyOwner (touchGalley (issued s ring.val opGdrop ins.flags) ring.val) = ring.val ∨
    ownerGone (touchGalley (issued s ring.val opGdrop ins.flags) ring.val) = true)
include h hf hz ho

theorem exec_gdrop_drops {u : State} (hg : galleyState (touchGalley (issued s ring.val opGdrop ins.flags) ring.val) ≠ gsNone)
    (hu : cancelLock (if galleyState (touchGalley (issued s ring.val opGdrop ins.flags) ring.val) = gsPending then
      withdraw (touchGalley (issued s ring.val opGdrop ins.flags) ring.val)
      else touchGalley (issued s ring.val opGdrop ins.flags) ring.val) = u) (hw : Occupied ring.val u) :
    exec (.gdrop ring ins) s = nextOf s (completeIns (setPhase (galleyNone u) 0) ring.val s.ctl.isn opGdrop ins.flags .ok 0
      false) := by
  subst hu
  exact congrArg (nextOf s) (runIns_done h (guardIns_pass (gdropChecks_pass hf hz hg ho)) (hw.of_rings rfl))

theorem exec_gdrop_of_open (hg : galleyState (touchGalley (issued s ring.val opGdrop ins.flags) ring.val) = gsOpen)
    (hl : (touchGalley (issued s ring.val opGdrop ins.flags) ring.val).forme.pendLock = none) :
    exec (.gdrop ring ins) s = nextOf s (completeIns
      (setPhase (galleyNone (touchGalley (issued s ring.val opGdrop ins.flags) ring.val)) 0) ring.val s.ctl.isn opGdrop ins.flags
      .ok 0 false) := by
  refine exec_gdrop_drops h hf hz ho (by rw [hg]; decide) ?_ (touched_occupied s _ opGdrop ins.flags)
  rw [if_neg (by rw [hg]; decide), cancelLock, hl]

theorem exec_gdrop_of_pending (hg : galleyState (touchGalley (issued s ring.val opGdrop ins.flags) ring.val) = gsPending)
    {l : PendLock} (hl : (withdraw (touchGalley (issued s ring.val opGdrop ins.flags) ring.val)).forme.pendLock = some l)
    (hw : Occupied ring.val (finishLock (withdraw (touchGalley (issued s ring.val opGdrop ins.flags) ring.val)) l .eAbort 0)) :
    exec (.gdrop ring ins) s = nextOf s (completeIns
      (setPhase (galleyNone (finishLock (withdraw (touchGalley (issued s ring.val opGdrop ins.flags) ring.val)) l .eAbort 0)) 0)
      ring.val s.ctl.isn opGdrop ins.flags .ok 0 false) := by
  refine exec_gdrop_drops h hf hz ho (by rw [hg]; decide) ?_ hw
  rw [if_pos hg, cancelLock, hl]

end

-- TRD

/-- The checks of TRD. -/
theorem trdChecks_pass {t : State} {ins : Ins} (hf : ins.flags < 256) (hl : tableListed ins.unit = true)
    (ho : ins.operand % 16 = 0) (hlen : 32 + entryCount ins * (8 + trdImageLen t ins.unit) ≤ 65568)
    (hk : if ins.index.testBit 31 then isCase ins.unit = true ∧ bits ins.index 30 0 = 0
      else bits ins.index 30 0 + entryCount ins ≤ trdSize ins.unit)
    (ha : (indexedTable ins.unit).isSome = true → ∀ i < entryCount ins, rowAbsent t ins.unit (bits ins.index 30 0 + i) = false) :
    firstFail [(decide (256 ≤ ins.flags) || (ins.index.testBit 31 && (!isCase ins.unit || bits ins.index 30 0 ≠ 0))
        || ins.operand % 16 ≠ 0 || (tableListed ins.unit && decide (65568 < 32 + entryCount ins * (8 + trdImageLen t ins.unit))),
        Status.eCheck),
      (!tableListed ins.unit || (!ins.index.testBit 31 && decide (trdSize ins.unit < bits ins.index 30 0 + entryCount ins)), .eAddr),
      ((indexedTable ins.unit).isSome && (List.range (entryCount ins)).any
        (fun i => rowAbsent t ins.unit (bits ins.index 30 0 + i)), .eAbsent)] = none := by
  have h256 : ¬ 256 ≤ ins.flags := by omega
  have hlen' : ¬ 65568 < 32 + entryCount ins * (8 + trdImageLen t ins.unit) := by omega
  have habs : ((indexedTable ins.unit).isSome && (List.range (entryCount ins)).any
      (fun i => rowAbsent t ins.unit (bits ins.index 30 0 + i))) = false := by
    cases hs : (indexedTable ins.unit).isSome
    · rfl
    · simpa using ha hs
  have hkey : (ins.index.testBit 31 && (!isCase ins.unit || bits ins.index 30 0 ≠ 0)) = false ∧
      (!ins.index.testBit 31 && decide (trdSize ins.unit < bits ins.index 30 0 + entryCount ins)) = false := by
    cases hb : ins.index.testBit 31
    · rw [hb, if_neg (by decide)] at hk
      simpa using hk
    · rw [hb, if_pos rfl] at hk
      simp [hk]
  obtain ⟨hown, hplace⟩ := hkey
  rw [firstFail_cons_false (by rw [hown]; simp [h256, hlen', ho]), firstFail_cons_false (by rw [hplace, hl]; rfl),
    firstFail_cons_false habs]
  rfl

/-- Settles O20: GDROP of an open and of a pending galley; TRD by key and by place. -/
theorem gdropAndTrdComplete : Obligations.GdropAndTrdComplete := by
  unfold Obligations.GdropAndTrdComplete
  intro ring ins keys s n isn
  refine ⟨?gdrop, ?trd⟩
  case gdrop =>
    intro h hf hz t ho
    refine ⟨exec_gdrop_of_open h hf hz ho, ?_⟩
    intro l hg _ _ u hl hw
    exact exec_gdrop_of_pending h hf hz ho hg hl hw
  case trd =>
    intro h t k byKey first hf hl ho hlen hk ha slots
    have hpass := trdChecks_pass hf hl ho hlen hk ha
    refine ⟨fun hgood => ?_, fun i hi hb hbad => ?_⟩
    · refine congrArg (nextOf s) (runIns_done h ((guardIns_pass hpass).trans ?_)
        ((issued_occupied s n opTrd ins.flags).of_rings rfl))
      have hany : ¬ (byKey = true ∧ ((List.range k).any (fun i => trdKeyBad (keys.getD i []))) = true) := by
        rintro ⟨hb, hany⟩
        obtain ⟨i, hi, hbad⟩ := List.any_eq_true.1 hany
        rw [hgood hb i (List.mem_range.1 hi)] at hbad
        cases hbad
      exact (if_neg (by simp)).trans (if_neg hany)
    · refine congrArg (nextOf s) (runIns_done h ((guardIns_pass hpass).trans ?_) (issued_occupied s n opTrd ins.flags))
      have hany : byKey = true ∧ ((List.range k).any (fun i => trdKeyBad (keys.getD i []))) = true :=
        ⟨hb, List.any_eq_true.2 ⟨i, List.mem_range.2 hi, hbad⟩⟩
      exact (if_neg (by simp)).trans (if_pos hany)

end Sys2Proof.Machine
end

section
/-! PROOFS. Imposition, lock-up, galley timeout and retirement. -/
namespace Sys2Proof.Machine

-- Imposition

section
variable {s : State} (hp : galleyState s = gsPending)
include hp

/-- Imposition begins: the phase is IMPOSING, with a fault held or the writes owed. -/
theorem exec_impositionStart_begins {l : PendLock} (hl : s.forme.pendLock = some l) (h0 : prevState s = 0)
    (hph : pendPhase s = 0) :
    exec .impositionStart s = nextOf s (match impositionFault (setPhase (endBankTests s) 1) with
      | some f => { setPhase (endBankTests s) 1 with forme := { (setPhase (endBankTests s) 1).forme with impFail := some f } }
      | none => setTodo (setPhase (endBankTests s) 1) (imposeList (setPhase (endBankTests s) 1).forme.galley)) := by
  have hg : (galleyState s = gsPending && s.forme.pendLock.isSome && prevState s = 0 && pendPhase s = 0) = true := by
    simp [hp, hl, h0, hph]
  exact congrArg (nextOf s) (onlyIf_pos hg _ _)

theorem exec_impositionFail_completes (h1 : pendPhase s = 1) {f : Status × Nat × Nat × Nat} {l : PendLock}
    (hf : (runTodo s).forme.impFail = some f) (hl : (runTodo s).forme.pendLock = some l) :
    exec .impositionFail s = nextOf s (finishLock (postFull (galleyReopen (runTodo s)) f) l f.1 f.2.1) := by
  rw [exec_impositionFail, execImpositionFail, if_pos ⟨hp, h1⟩]
  simp only [hf, hl]

section
variable (h1 : pendPhase s = 1) (hs : s.forme.impFail = none)
include h1 hs

theorem exec_impositionComplete_imposed : exec .impositionComplete s = nextOf s (imposed s) := by
  have hg : (galleyState s = gsPending && pendPhase s = 1 && s.forme.impFail.isNone) = true := by simp [hp, h1, hs]
  exact congrArg (nextOf s) (onlyIf_pos hg _ _)

end

end

/-- Every owed write is made: what becomes of a LOCK or LOCKAT. -/
theorem imposed_eq {s : State} (hf : (runTodo s).forme.impFail = none) (ht : (runTodo s).forme.formeTodo = []) {l : PendLock}
    (hl : (setPhase (runTodo s) 2).forme.pendLock = some l) :
    imposed s =
      if l.timed ∧ ¬ l.lateOk ∧ ¬ l.stepLate ∧ tNs l.sec l.ns < opNs (setPhase (runTodo s) 2) then
        lockMissed (setPhase (runTodo s) 2) l
      else if l.timed ∧ tNs l.sec l.ns < opNs (setPhase (runTodo s) 2) then
        { setPhase (runTodo s) 2 with forme := { (setPhase (runTodo s) 2).forme with pendLock := some { l with late := true } } }
      else setPhase (runTodo s) 2 := by
  unfold imposed
  dsimp only
  rw [if_neg (by rw [hf, ht]; simp), hl]

/-- A LOCK, or a LOCKAT whose T has not passed, stays with its writes made. -/
theorem imposed_waits {s : State} (hf : (runTodo s).forme.impFail = none) (ht : (runTodo s).forme.formeTodo = []) {l : PendLock}
    (hl : (setPhase (runTodo s) 2).forme.pendLock = some l)
    (h : l.timed = false ∨ opNs (setPhase (runTodo s) 2) ≤ tNs l.sec l.ns) : imposed s = setPhase (runTodo s) 2 := by
  have hlate : ¬ (l.timed = true ∧ tNs l.sec l.ns < opNs (setPhase (runTodo s) 2)) := by
    rintro ⟨ht, hlt⟩
    obtain h | h := h
    · simp [h] at ht
    · omega
  rw [imposed_eq hf ht hl, if_neg (fun h => hlate ⟨h.1, h.2.2.2⟩), if_neg hlate]

-- Lock-up

/-- The lock-up of a galley whose imposition is complete. -/
theorem exec_lockup_due {s : State} (hp : galleyState s = gsPending) {l : PendLock} (hl : s.forme.pendLock = some l)
    (h2 : pendPhase s = 2) (hd : lockDue s l = true) :
    exec .lockup s = nextOf s (abandonSave (lockupNow s l (l.timed && (l.late || l.stepLate))) 0) := by
  have hg : (galleyState s = gsPending && pendPhase s = 2 && lockDue s l) = true := by simp [hp, h2, hd]
  rw [exec_lockup, execLockup, if_neg (by rw [h2]; rintro ⟨-, h, -⟩; cases h)]
  simp only [hl, onlyIf_pos hg]

/-- A LOCK whose last write is made locks up in the next cycle. -/
theorem exec_lockup_imposed {s t : State} (hp : galleyState s = gsPending) (h1 : pendPhase s = 1)
    (hs : s.forme.impFail = none) (hi : imposed s = t) {l : PendLock} (hl : t.forme.pendLock = some l) (hlock : l.timed = false)
    (hg : galleyState t = gsPending) (h2 : pendPhase t = 2) :
    exec .lockup s = nextOf s (abandonSave (lockupNow t l false) 0) := by
  have hdue : (galleyState t = gsPending && pendPhase t = 2 && lockDue t l) = true := by simp [hg, h2, lockDue, hlock]
  rw [exec_lockup, execLockup, if_pos ⟨hp, h1, by rw [hs]; rfl⟩, hi]
  simp only [hl, onlyIf_pos hdue, hlock, Bool.false_and]

theorem exec_lockatTime_due {s : State} (hp : galleyState s = gsPending) {l : PendLock} (hl : s.forme.pendLock = some l)
    (h2 : pendPhase s = 2) (htimed : l.timed = true) (ht : tNs l.sec l.ns ≤ opNs s) :
    exec .lockatTime s = nextOf s (abandonSave (lockupNow s l (l.late || l.stepLate)) 0) := by
  have hg : (l.timed && galleyState s = gsPending && pendPhase s = 2 && decide (tNs l.sec l.ns ≤ opNs s)) = true := by
    simp [htimed, hp, h2, ht]
  rw [exec_lockatTime, execLockatTime, lockatNow, hl]
  exact congrArg (nextOf s) (onlyIf_pos hg _ _)

theorem exec_lockMissed_due {s : State} (hp : galleyState s = gsPending) {l : PendLock} (hl : s.forme.pendLock = some l)
    (h2 : pendPhase s ≠ 2) (htimed : l.timed = true) (hok : l.lateOk = false) (hstep : l.stepLate = false)
    (ht : tNs l.sec l.ns ≤ opNs s) : exec .lockMissed s = nextOf s (lockMissed s l) := by
  have hg : (l.timed && !l.lateOk && !l.stepLate && galleyState s = gsPending && pendPhase s ≠ 2
      && decide (tNs l.sec l.ns ≤ opNs s)) = true := by
    simp [htimed, hok, hstep, hp, h2, ht]
  rw [exec_lockMissed, execLockMissed, lockMissedNow, hl]
  exact congrArg (nextOf s) (onlyIf_pos hg _ _)

/-- Settles O21: each command by its own lemma, what the last write leads to by `imposed_eq`. -/
theorem impositionAndLockupRun : Obligations.ImpositionAndLockupRun := by
  unfold Obligations.ImpositionAndLockupRun
  intro s hp
  refine ⟨?start, fun h1 f l hf hl => exec_impositionFail_completes hp h1 hf hl, ?complete, ?locked⟩
  case start =>
    intro l hl h0 hph t
    refine ⟨fun hn => ?_, fun f hf => ?_⟩
    · rw [exec_impositionStart_begins hp hl h0 hph, hn]; rfl
    · rw [exec_impositionStart_begins hp hl h0 hph, hf]; rfl
  case complete =>
    intro h1 hs hf htodo t l hl
    refine ⟨fun h => ?_, fun htimed hlt hlate => ?_, fun htimed hlt hok hstep => ?_, fun hlock hg h2 => ?_⟩
    · rw [exec_impositionComplete_imposed hp h1 hs, imposed_waits hf htodo hl h]; rfl
    · have hno : ¬ (l.timed = true ∧ ¬ l.lateOk = true ∧ ¬ l.stepLate = true ∧ tNs l.sec l.ns < opNs t) :=
        fun h => hlate.elim h.2.1 h.2.2.1
      rw [exec_impositionComplete_imposed hp h1 hs, imposed_eq hf htodo hl, if_neg hno, if_pos ⟨htimed, hlt⟩]; rfl
    · rw [exec_impositionComplete_imposed hp h1 hs, imposed_eq hf htodo hl,
        if_pos ⟨htimed, by simp [hok], by simp [hstep], hlt⟩]; rfl
    · exact exec_lockup_imposed hp h1 hs (imposed_waits hf htodo hl (.inl hlock)) hl hlock hg h2
  case locked =>
    exact fun l hl => ⟨exec_lockup_due hp hl, exec_lockatTime_due hp hl,
      fun h2 htimed hok hstep ht => ⟨exec_lockMissed_due hp hl h2 htimed hok hstep ht, rfl⟩⟩

-- Timeout and retirement

theorem exec_galleyTimeout_due {s : State} (hg : galleyState s = gsOpen)
    (ht : s.forme.galleyCycle + max (rdF s rFormeCtrl 15 0) 1 * cyclesPerMs ≤ s.cycle) :
    exec .galleyTimeout s = nextOf s (galleyNone (postHw s 0x4913 [(1, galleyOwner s), (4, s.forme.galley.length)])) := by
  have hc : (galleyState s = gsOpen
      && decide (s.forme.galleyCycle + max (rdF s rFormeCtrl 15 0) 1 * cyclesPerMs ≤ s.cycle)) = true := by simp [hg, ht]
  exact congrArg (nextOf s) (onlyIf_pos hc _ _)

/-- The state in which catch-up owes what the last lock-up named. -/
def catchUpOwed (s : State) : State :=
  { setTodo (setPrev s 2) (syncList s.forme.lastLog (standby s)) with
    forme := { (setTodo (setPrev s 2) (syncList s.forme.lastLog (standby s))).forme with
      drainNs := nsOfCycles (s.cycle - s.forme.lockCycle) } }

theorem exec_drainEnd_owes {s : State} (h1 : prevState s = 1) (h0 : retirePending s = 0) :
    exec .drainEnd s = nextOf s (catchUpOwed s) := by
  have hc : (prevState s = 1 && retirePending s = 0) = true := by simp [h1, h0]
  exact congrArg (nextOf s) (onlyIf_pos hc _ _)

theorem exec_catchUpEnd_steady {s : State} (h2 : prevState s = 2) (ht : (runTodo s).forme.formeTodo = []) :
    exec .catchUpEnd s = nextOf s (postHw { setPrev (runTodo s) 0 with
      forme := { (setPrev (runTodo s) 0).forme with lastLog := [] } } 0x0911
      [(8, formeGen (setPrev (runTodo s) 0) - 1), (8, (setPrev (runTodo s) 0).forme.drainNs)]) := by
  have hc : (prevState s = 2 && (runTodo s).forme.formeTodo = []) = true := by simp [h2, ht]
  exact congrArg (nextOf s) (onlyIf_pos hc _ _)

theorem exec_drainEnd_lands {s : State} (hc : Canon s) (h1 : prevState s = 1) (h0 : retirePending s = 0) :
    Lands .drainEnd s fun t =>
      prevState t = 2 ∧ t.forme.formeTodo = syncList s.forme.lastLog (standby s) ∧
        t.forme.drainNs = nsOfCycles (s.cycle - s.forme.lockCycle) ∧ t.tab0 = s.tab0 ∧ t.tab1 = s.tab1 ∧
        (∀ o, o ≠ rFormeStatus → rd t o = rd s o) := by
  refine ⟨_, exec_drainEnd_owes h1 h0, ?_, ?_, ?_, ?_, ?_, fun o ho => ?_⟩
  · rw [prevState_congr (irqEdge_rd s _ _)]
    exact rdF_wrF_same hc rFormeStatus 2 (by omega) (by omega)
  · rw [irqEdge_forme]; rfl
  · rw [irqEdge_forme]; rfl
  · rw [irqEdge_tab0]; rfl
  · rw [irqEdge_tab1]; rfl
  · rw [irqEdge_rd]; exact rd_wrF_other s 5 4 2 ho

/-- Settles O23: the three guards hold, and each command answers its own effect. -/
theorem galleyTimeoutAndRetirement : Obligations.GalleyTimeoutAndRetirement := by
  unfold Obligations.GalleyTimeoutAndRetirement
  exact fun s => ⟨exec_galleyTimeout_due, fun h1 h0 hc => exec_drainEnd_lands hc h1 h0, exec_catchUpEnd_steady⟩

end Sys2Proof.Machine
end

section
/-! PROOFS. Key instructions, SA switches and the writes of SECY_TX_CUR and CIPHER_MODE. -/
namespace Sys2Proof.Machine

theorem saIndexOk_of {x : Nat} (h : x < 2 ^ 17) (h0 : bits x 15 14 = 0) : saIndexOk x = true := by
  unfold saIndexOk
  rw [decide_eq_true h, decide_eq_true h0]; rfl

/-- The boundary is in SELFTEST or OPERATIONAL. -/
theorem cipherStopped_false {s : State} (h : boundary s = 0 ∨ boundary s = 1) : cipherStopped s = false := by
  obtain h | h := h <;> simp [cipherStopped, h, bsError, bsZeroised]

-- KLOAD and KZERO

/-- KLOAD once the checks of R1161 and of its block have passed. -/
theorem exec_kload_block {ring : Fin 64} {ins : Ins} {b : List Byte} (unwrapped : Option (List Byte)) {s : State}
    (h : Issues s ring.val opKload ins) {t : State} (ht : issued s ring.val opKload ins.flags = t) (hf : ins.flags < 8)
    (hu : ins.unit < 64) (hi : saIndexOk ins.index = true) (ho : ins.operand % 16 = 0) (hc : hasCipher t = true)
    (hrole : ringRole t ring.val = 1) (hstop : cipherStopped t = false) (hb : kloadBlockOk b = true)
    (hk : kekHeld t ins.unit = true) (hlen : leAt b 0 2 = (if leAt b 2 1 % 2 = 0 then 24 else 40))
    (huse : saInUse t (saIndexDir ins.index) (saIndexSa ins.index) = false) :
    exec (.kload ring ins (some b) unwrapped) s = nextOf s (match unwrapped with
      | none => completeIns t ring.val s.ctl.isn opKload ins.flags .eKey 0 false
      | some k => completeIns (journal (loadSa t (saIndexDir ins.index) (saIndexSa ins.index) ins.unit b k) 0x0040
          (ringOrigin ring.val) [(8, s.ctl.isn), (1, ins.unit), (1, b2n (saIndexDir ins.index)), (2, saIndexSa ins.index),
            (1, leAt b 2 1)]) ring.val s.ctl.isn opKload ins.flags .ok ins.index false) := by
  subst ht
  have hown : (decide (8 ≤ ins.flags) || decide (64 ≤ ins.unit) || !saIndexOk ins.index || ins.operand % 16 ≠ 0) = false := by
    have h8 : ¬ 8 ≤ ins.flags := by omega
    have h64 : ¬ 64 ≤ ins.unit := by omega
    simp [h8, h64, hi, ho]
  have hpass : firstFail [(decide (8 ≤ ins.flags) || decide (64 ≤ ins.unit) || !saIndexOk ins.index || ins.operand % 16 ≠ 0,
      Status.eCheck), (!hasCipher (issued s ring.val opKload ins.flags), .eAbsent),
      (ringRole (issued s ring.val opKload ins.flags) ring.val ≠ 1, .ePerm),
      (cipherStopped (issued s ring.val opKload ins.flags), .eCipherState)] = none := by
    rw [firstFail_cons_false hown, firstFail_cons_false (by rw [hc]; rfl), firstFail_cons_false (by simp [hrole]),
      firstFail_cons_false hstop]; rfl
  have hblock : firstFail [(!kloadBlockOk b, Status.eCheck),
      (!kekHeld (issued s ring.val opKload ins.flags) ins.unit || !(decide (leAt b 0 2 = (if leAt b 2 1 % 2 = 0 then 24 else 40)))
        || saInUse (issued s ring.val opKload ins.flags) (saIndexDir ins.index) (saIndexSa ins.index), .eKey)] = none := by
    rw [firstFail_cons_false (by rw [hb]; rfl), firstFail_cons_false (by simp [hk, huse, ← hlen])]; rfl
  have hocc := issued_occupied s ring.val opKload ins.flags
  cases unwrapped with
  | none =>
    refine congrArg (nextOf s) (runIns_done h ((guardIns_pass hpass).trans ?_) hocc)
    simp only [hblock]
  | some k =>
    have hload := hocc.of_keeps (loadSa_keeps (Within.refl _) _ (saIndexDir ins.index) (saIndexSa ins.index) ins.unit b k
      (Keeps.refl _ _)) rfl
    refine congrArg (nextOf s) (runIns_done h ((guardIns_pass hpass).trans ?_) (hload.of_rings rfl))
    simp only [hblock]

/-- What KZERO zeroises reaches no ring. -/
theorem kzeroAct_occupied {n : Nat} {t : State} (h : Occupied n t) (scope : Nat) (ins : Ins) (operator_ : Nat) :
    Occupied n (kzeroAct t scope ins operator_).1 := by
  unfold kzeroAct
  split
  · exact h.of_keeps (zeroSa_keeps (Within.refl _) t _ _ (Keeps.refl _ _)) rfl
  · split
    · exact h.of_keeps (zeroKek_keeps (Within.refl _) t _ (Keeps.refl _ _)) rfl
    · split
      · exact h.of_keeps (zeroAllSa_keeps (Within.refl _) t (Keeps.refl _ _)) rfl
      · exact h.of_keeps (zeroStore_keeps (Within.refl _) t _ _ (Keeps.refl _ _)) rfl

section
variable {n scope : Nat} {ins : Ins} {s t : State} (h : Issues s n opKzero ins) (ht : issued s n opKzero ins.flags = t)
  (hf : ins.flags < 16) (hu : if scope = 1 then ins.unit < 64 else ins.unit = 0)
  (hi : if scope = 0 then saIndexOk ins.index = true else ins.index = 0)
  (ho : ins.operand = (if scope = 3 then 0x5A45524F else 0)) (hc : hasCipher t = true)
  (hrole : ringRole t n = (if scope = 1 ∨ scope = 3 then 2 else 1)) (hstop : scope = 3 ∨ cipherStopped t = false)
include h ht hf hu hi ho hc hrole hstop

/-- KZERO of a SCOPE once the checks of R1161 have passed. -/
theorem kzero_completes :
    kzero scope n ins s = completeIns (journalZero (kzeroAct t scope ins (ringOperator t n)).1 (ringOrigin n) s.ctl.isn scope
      (if scope = 1 then ins.unit else 0) (if scope = 0 then saIndexSa ins.index else 0)
      (kzeroAct t scope ins (ringOperator t n)).2 (ringOperator t n)) n s.ctl.isn opKzero ins.flags .ok
      (kzeroAct t scope ins (ringOperator t n)).2 false := by
  have hunit : (if scope = 1 then decide (64 ≤ ins.unit) else decide (ins.unit ≠ 0)) = false := by
    split at hu
    · next e => simpa [e] using hu
    · next e => simpa [e] using hu
  have hindex : (if scope = 0 then !saIndexOk ins.index else decide (ins.index ≠ 0)) = false := by
    split at hi
    · next e => simpa [e] using hi
    · next e => simpa [e] using hi
  have hown : (decide (16 ≤ ins.flags) || (if scope = 1 then decide (64 ≤ ins.unit) else ins.unit ≠ 0)
      || (if scope = 0 then !saIndexOk ins.index else ins.index ≠ 0)
      || ins.operand ≠ (if scope = 3 then 0x5A45524F else 0)) = false := by
    have h16 : ¬ 16 ≤ ins.flags := by omega
    rw [hunit, hindex, ← ho]
    simp [h16]
  have hstopped : (scope ≠ 3 && cipherStopped t) = false := by
    obtain e | e := hstop <;> simp [e]
  subst ht
  refine runIns_done h ((guardIns_pass ?_).trans rfl) ((kzeroAct_occupied (issued_occupied _ _ _ _) scope ins _).of_rings rfl)
  rw [firstFail_cons_false hown, firstFail_cons_false (by rw [hc]; rfl), firstFail_cons_false (by rw [← hrole]; simp),
    firstFail_cons_false hstopped]
  rfl

end

/-- The four rows of KZERO. -/
theorem exec_kzeroRow {ring : Fin 64} {ins : Ins} {c : Instr} {scope : Nat} (s : State)
    (h : (c, scope) ∈ [(Instr.kzeroSa ring ins, 0), (.kzeroKek ring ins, 1), (.kzeroSaAll ring ins, 2), (.kzeroAll ring ins, 3)]) :
    exec c s = nextOf s (kzero scope ring.val ins s) ∧ scope < 4 := by
  simp only [List.mem_cons, Prod.mk.injEq, List.not_mem_nil, or_false] at h
  rcases h with ⟨rfl, rfl⟩ | ⟨rfl, rfl⟩ | ⟨rfl, rfl⟩ | ⟨rfl, rfl⟩
  case inl => exact ⟨rfl, by omega⟩
  case inr.inl => exact ⟨rfl, by omega⟩
  case inr.inr.inl => exact ⟨rfl, by omega⟩
  case inr.inr.inr => exact ⟨rfl, by omega⟩

/-- Settles O30: KLOAD by `exec_kload_block`, the rows of KZERO by `kzero_completes`. -/
theorem keyInstructionsComplete : Obligations.KeyInstructionsComplete := by
  unfold Obligations.KeyInstructionsComplete
  intro ring ins b key s n isn rx a indexOk
  refine ⟨?kload, ?kzero⟩
  case kload =>
    intro h t hf hu hi ho hc hrole hb hblock hk hlen huse
    have hrow := fun unwrapped => exec_kload_block (b := b) unwrapped h rfl hf hu (saIndexOk_of hi.1 hi.2) ho hc hrole
      (cipherStopped_false hb) hblock hk hlen huse
    exact ⟨hrow (some key), hrow none⟩
  case kzero =>
    intro c scope hcs h t hf hu hi ho hc hrole hb
    obtain ⟨hexec, hlt⟩ := exec_kzeroRow s hcs
    have hindex : if scope = 0 then saIndexOk ins.index = true else ins.index = 0 := by
      split
      · next e => rw [if_pos e] at hi; exact saIndexOk_of hi.1 hi.2
      · next e => rwa [if_neg e] at hi
    intro z
    have hz : z = kzeroAct t scope ins (ringOperator t n) := rfl
    rw [hexec, kzero_completes h rfl hf hu hindex ho hc hrole (hb.imp id cipherStopped_false), hz]
    rfl

end Sys2Proof.Machine
end

section
/-! PROOFS. Timed SA switches and the register writes of the line cipher. -/
namespace Sys2Proof.Machine

-- The SASW that is due

/-- The earlier of two switches, the first among equals. -/
def earlierSasw (b : Option Sasw) (x : Sasw) : Option Sasw :=
  match b with
  | none => some x
  | some y => if tNs x.sec x.ns < tNs y.sec y.ns then some x else some y

theorem saswDue_eq (s : State) :
    saswDue s = (s.ctl.sasws.filter (fun x => decide (tNs x.sec x.ns ≤ opNs s))).foldl earlierSasw none := rfl

/-- Folding from a switch `y` answers one of the list or `y` itself, no later than any of them. -/
theorem foldl_earlierSasw_some (l : List Sasw) (y : Sasw) :
    ∃ x, l.foldl earlierSasw (some y) = some x ∧ (x = y ∨ x ∈ l) ∧ tNs x.sec x.ns ≤ tNs y.sec y.ns ∧
      ∀ z ∈ l, tNs x.sec x.ns ≤ tNs z.sec z.ns := by
  induction l generalizing y with
  | nil => exact ⟨y, rfl, .inl rfl, le_refl _, by simp⟩
  | cons z l ih =>
    by_cases h : tNs z.sec z.ns < tNs y.sec y.ns
    · obtain ⟨x, hx, hmem, hle, hall⟩ := ih z
      refine ⟨x, by rw [List.foldl_cons, earlierSasw, if_pos h, hx], .inr ?_, by omega, ?_⟩
      · obtain rfl | hmem := hmem
        · exact List.mem_cons_self
        · exact List.mem_cons_of_mem _ hmem
      · intro w hw
        obtain rfl | hw := List.mem_cons.1 hw
        · exact hle
        · exact hall w hw
    · obtain ⟨x, hx, hmem, hle, hall⟩ := ih y
      refine ⟨x, by rw [List.foldl_cons, earlierSasw, if_neg h, hx], hmem.imp id (List.mem_cons_of_mem _), hle, ?_⟩
      intro w hw
      obtain rfl | hw := List.mem_cons.1 hw
      · omega
      · exact hall w hw

/-- The switch that is due has come, is accepted, and no accepted one that has come is due before it. -/
theorem saswDue_least {s : State} {x : Sasw} (h : saswDue s = some x) :
    tNs x.sec x.ns ≤ opNs s ∧ x ∈ s.ctl.sasws ∧
      ∀ y ∈ s.ctl.sasws, tNs x.sec x.ns ≤ tNs y.sec y.ns ∨ opNs s < tNs y.sec y.ns := by
  rw [saswDue_eq] at h
  cases hl : s.ctl.sasws.filter (fun x => decide (tNs x.sec x.ns ≤ opNs s)) with
  | nil => rw [hl] at h; cases h
  | cons y l =>
    rw [hl] at h
    obtain ⟨x', hx, hmem, hle, hall⟩ := foldl_earlierSasw_some l y
    obtain rfl : x' = x := Option.some.inj (hx.symm.trans h)
    have hin : x' ∈ y :: l := by
      obtain rfl | hmem := hmem
      · exact List.mem_cons_self
      · exact List.mem_cons_of_mem _ hmem
    rw [← hl, List.mem_filter] at hin
    refine ⟨of_decide_eq_true hin.2, hin.1, fun z hz => ?_⟩
    by_cases hdue : tNs z.sec z.ns ≤ opNs s
    · have hzl : z ∈ y :: l := by rw [← hl, List.mem_filter]; exact ⟨hz, decide_eq_true hdue⟩
      obtain rfl | hzl := List.mem_cons.1 hzl
      · exact .inl hle
      · exact .inl (hall z hzl)
    · exact .inr (by omega)

-- SASW

/-- A SASW that is accepted displaces the pending one of its SecY and direction. -/
def saswDisplaced (t : State) (i : Nat) (rx : Bool) : State :=
  match t.ctl.sasws.find? (fun x => x.secy = i && x.dir == rx) with
  | some old => finishSasw t old .eAbort 0
  | none => t

theorem saswDisplaced_occupied {n : Nat} {t : State} (h : Occupied n t) (i : Nat) (rx : Bool) :
    Occupied n (saswDisplaced t i rx) := by
  unfold saswDisplaced
  split
  · exact finishSasw_occupied h _ _ _
  · exact h

/-- SASW once all its checks have passed. -/
theorem exec_sasw_accepted {ring : Fin 64} {ins : Ins} {b : List Byte} {s : State} (h : Issues s ring.val opSasw ins) {t : State}
    (ht : issued s ring.val opSasw ins.flags = t) (hf : ins.flags < 4) (hu : ins.unit < 1024)
    (hi : saIndexOk ins.index = true) (ho : ins.operand % 16 = 0) (hc : hasCipher t = true)
    (hrole : ringRole t ring.val = 1) (hstop : cipherStopped t = false)
    (han : saIndexDir ins.index = true → (anOf t ins.unit (saIndexSa ins.index)).isSome = true) (hfull : pendingTimed t < 1024)
    (hkey : saHasKey t (saIndexDir ins.index) (saIndexSa ins.index) = true) (htime : opNs t ≤ tNs (leAt b 0 8) (leAt b 12 4)) :
    exec (.sasw ring ins (some b)) s = nextOf s (settle
      { saswDisplaced t ins.unit (saIndexDir ins.index) with
        ctl := { (saswDisplaced t ins.unit (saIndexDir ins.index)).ctl with
          sasws := (saswDisplaced t ins.unit (saIndexDir ins.index)).ctl.sasws ++
            [⟨s.ctl.isn, ring.val, ins.flags, ringOrigin ring.val, ins.unit, saIndexDir ins.index, saIndexSa ins.index, leAt b 0 8,
              leAt b 12 4, false, false⟩] } } ring.val s.ctl.isn opSasw ins.flags .accepted) := by
  have hown : (decide (4 ≤ ins.flags) || decide (1024 ≤ ins.unit) || !saIndexOk ins.index || ins.operand % 16 ≠ 0) = false := by
    have h4 : ¬ 4 ≤ ins.flags := by omega
    have h1024 : ¬ 1024 ≤ ins.unit := by omega
    simp [h4, h1024, hi, ho]
  have hmap : (saIndexDir ins.index && (anOf t ins.unit (saIndexSa ins.index)).isNone) = false := by
    cases hd : saIndexDir ins.index
    · rfl
    · obtain ⟨an, ha⟩ := Option.isSome_iff_exists.1 (han hd)
      rw [ha]; rfl
  subst ht
  refine congrArg (nextOf s) (runIns_verdict h ((guardIns_pass ?_).trans ((guardIns_pass ?_).trans rfl))
    ((saswDisplaced_occupied (issued_occupied _ _ _ _) ins.unit (saIndexDir ins.index)).of_rings rfl))
  · rw [firstFail_cons_false hown, firstFail_cons_false (by rw [hc]; rfl), firstFail_cons_false (by simp [hrole]),
      firstFail_cons_false hstop]; rfl
  · rw [firstFail_cons_false hmap, firstFail_cons_false (decide_eq_false (by omega)), firstFail_cons_false (by rw [hkey]; rfl),
      firstFail_cons_false (decide_eq_false (by omega))]; rfl

-- The effect of the SASW that is due

/-- A switch that took effect completes, posts EV_SASW and is journaled. -/
def switchDone (s : State) (x : Sasw) (u : State) (prev : Nat) : State :=
  let late := if x.stepLate then (opNs s - tNs x.sec x.ns) % 2 ^ 63 else 0
  let v := postHw (finishSasw u x .ok (b2n x.stepLate * 2 ^ 63 + late)) 0x0203
    [(2, x.secy), (1, b2n x.dir), (2, prev), (2, x.sa), (8, late)]
  journal v 0x0044 x.origin [(8, x.isn), (2, x.secy), (1, b2n x.dir), (2, prev), (2, x.sa)]

theorem exec_saSwitch_due {s : State} {x : Sasw} (h : saswDue s = some x) :
    exec .saSwitch s = nextOf s (if ¬ saHasKey s x.dir x.sa then finishSasw s x .eKey 0
      else if x.dir then
        match anOf s x.secy x.sa with
        | none => finishSasw s x .eCheck 0
        | some an => switchDone s x (rxSwitch s x.secy x.sa an).1 (rxSwitch s x.secy x.sa an).2
      else switchDone s x (makeCurrent s x.secy x.sa) (rdF s (rTxCur x.secy) 13 0)) := by
  rw [exec_saSwitch, execSaSwitch, saSwitchNow, h]
  rfl

theorem exec_saRetire_due {y : Fin 16384} {s : State} (h : saState s true y.val = saRetiring)
    (ht : smGet (fun _ => 0) s.ciph.saRetireAt y.val ≤ s.cycle) :
    exec (.saRetire y) s = nextOf s (postHw
      (setSaState { s with ciph := { s.ciph with saRetireAt := smSet (fun _ => 0) s.ciph.saRetireAt y.val 0 } } true y.val
        saRetired) 0x0204 [(2, rdF s (rSa true y.val 0) 9 0), (2, y.val)]) := by
  have hg : (saState s true y.val = saRetiring && decide (smGet (fun _ => 0) s.ciph.saRetireAt y.val ≤ s.cycle)) = true := by
    rw [decide_eq_true h, decide_eq_true ht]; rfl
  exact congrArg (nextOf s) (onlyIf_pos hg _ _)

/-- Settles O32: the acceptance, the switch that is due (`saswDue_least`) with its four outcomes, and the retirement. -/
theorem saSwitchesHappenAtTheirTime : Obligations.SaSwitchesHappenAtTheirTime := by
  unfold Obligations.SaSwitchesHappenAtTheirTime
  intro ring ins b s n isn rx a sec ns
  refine ⟨?sasw, ?switch, fun y h ht => exec_saRetire_due h ht⟩
  case sasw =>
    intro h t hf hu hx h0 ho hc hrole hb han hfull hkey htime
    exact exec_sasw_accepted h rfl hf hu (saIndexOk_of hx h0) ho hc hrole (cipherStopped_false hb) han hfull hkey htime
  case switch =>
    intro x hx late done
    obtain ⟨hdue, hmem, hleast⟩ := saswDue_least hx
    refine ⟨fun hk => ?_, fun hk hd => ?_, hdue, hmem, hleast, fun hk hd han => ?_, fun an hk hd han => ?_⟩
    · rw [exec_saSwitch_due hx, if_pos (by simp [hk])]; rfl
    · rw [exec_saSwitch_due hx, if_neg (by simp [hk]), if_neg (by simp [hd])]; rfl
    · rw [exec_saSwitch_due hx, if_neg (by simp [hk]), if_pos hd, han]; rfl
    · rw [exec_saSwitch_due hx, if_neg (by simp [hk]), if_pos hd, han]; rfl

end Sys2Proof.Machine
end

section
/-! PROOFS. The writes of SECY_TX_CUR and CIPHER_MODE. -/
namespace Sys2Proof.Machine

-- SECY_TX_CUR

/-- The value a whole write leaves in SECY_TX_CUR (R383). -/
def txCurMerged (s : State) (i : Nat) (value : Word) : Word :=
  (rd s (rTxCur i) &&& ~~~ fieldMask 14 0) ||| (value &&& fieldMask 14 0)

theorem getLsbD_txCurMerged (s : State) (i : Nat) (value : Word) {j : Nat} (h : j < 15) :
    (txCurMerged s i value).getLsbD j = value.getLsbD j := by
  have hj : (fieldMask 14 0).getLsbD j = true := by rw [getLsbD_fieldMask _ _ _ (by omega)]; simp; omega
  simp [txCurMerged, hj]

theorem field_txCurMerged (s : State) (i : Nat) (value : Word) : field (txCurMerged s i value) 13 0 = field value 13 0 := by
  refine Nat.eq_of_testBit_eq fun j => ?_
  rw [testBit_field, testBit_field]
  by_cases h : j < 14
  · rw [Nat.add_comm, Nat.add_zero, getLsbD_txCurMerged s i value (by omega)]
  · simp only [show ¬ j < 13 + 1 - 0 by omega, decide_false, Bool.false_and]

/-- A whole write of SECY_TX_CUR. -/
theorem txCurWrite_whole (s : State) (i : Nat) (value : Word) :
    txCurWrite s i (BitVec.allOnes 64) value =
      if value.getLsbD 14 then
        if saState s false (field value 13 0) = saEmpty then (s, some .eKey)
        else if rdF s (rSa false (field value 13 0) 0) 9 0 ≠ i then (s, some .eCheck)
        else (makeCurrent s i (field value 13 0), none)
      else
        (wr (if rdB s (rTxCur i) 14 ∧ saState s false (rdF s (rTxCur i) 13 0) = saCurrent then
          setSaState s false (rdF s (rTxCur i) 13 0) saLoaded else s) (rTxCur i) (txCurMerged s i value), none) := by
  have hv : (rd s (rTxCur i) &&& ~~~ (BitVec.allOnes 64 &&& fieldMask 14 0)) ||| (value &&& (BitVec.allOnes 64 &&& fieldMask 14 0))
      = txCurMerged s i value := by rw [BitVec.allOnes_and, txCurMerged]
  unfold txCurWrite
  dsimp only
  rw [hv, field_txCurMerged, getLsbD_txCurMerged s i value (by omega)]

/-- The previous SA of a SecY goes back to LOADED before another becomes current. -/
def prevLoaded (s : State) (i a : Nat) : State :=
  if rdB s (rTxCur i) 14 ∧ saState s false (rdF s (rTxCur i) 13 0) ≠ saEmpty ∧ rdF s (rTxCur i) 13 0 ≠ a then
    setSaState s false (rdF s (rTxCur i) 13 0) saLoaded else s

theorem makeCurrent_eq (s : State) (i a : Nat) :
    makeCurrent s i a = setSaState (wr (prevLoaded s i a) (rTxCur i) (BitVec.ofNat 64 (2 ^ 14 + a))) false a
      (if saSpent (wr (prevLoaded s i a) (rTxCur i) (BitVec.ofNat 64 (2 ^ 14 + a))) a then saExhausted else saCurrent) := rfl

theorem rTxCur_ne_rSa {i a k : Nat} {rx : Bool} (hi : i < 1024) : rTxCur i ≠ rSa rx a k := by
  unfold rTxCur rSa; cases rx <;> simp <;> omega

theorem rd_prevLoaded (s : State) (i : Nat) {a k : Nat} (hk : k < 64) : rd (prevLoaded s i a) (rSa false a k) = rd s (rSa false a k) := by
  unfold prevLoaded
  split
  · next h => exact rd_wrF_other _ _ _ _ fun e => h.2.2 ((rSa_inj hk (by omega)).1 e).1.symm
  · rfl

theorem canon_prevLoaded {s : State} (c : Canon s) (i a : Nat) : Canon (prevLoaded s i a) := by
  unfold prevLoaded
  split
  · exact canon_wrF c _ _ _ _
  · exact c

theorem saSpent_congr {s t : State} {a : Nat} (h : ∀ k, k < 64 → rd t (rSa false a k) = rd s (rSa false a k)) :
    saSpent t a = saSpent s a := by
  have hx : saXpn t false a = saXpn s false a := by unfold saXpn; rw [rdF_congr (h 8 (by omega))]
  have hp : saPn t false a = saPn s false a := by unfold saPn; rw [h 0x10 (by omega)]
  unfold saSpent
  rw [hx, hp]

section
variable {s : State} (c : Canon s) {i : Nat} (hi : i < 1024) (a : Nat)
include c hi

theorem rd_makeCurrent_txCur : rd (makeCurrent s i a) (rTxCur i) = BitVec.ofNat 64 (2 ^ 14 + a) := by
  rw [makeCurrent_eq]
  exact (rd_wrF_other _ _ _ _ (rTxCur_ne_rSa hi)).trans (rd_wr_same (canon_prevLoaded c i a) _ _)

theorem saState_makeCurrent : saState (makeCurrent s i a) false a = if saSpent s a then saExhausted else saCurrent := by
  have hspent : saSpent (wr (prevLoaded s i a) (rTxCur i) (BitVec.ofNat 64 (2 ^ 14 + a))) a = saSpent s a :=
    saSpent_congr fun k hk => (rd_wr_other _ _ (rTxCur_ne_rSa hi).symm).trans (rd_prevLoaded s i hk)
  rw [makeCurrent_eq, hspent]
  refine (rdF_wrF_same (canon_wr (canon_prevLoaded c i a) _ _) _ _ (by omega) (by omega)).trans ?_
  split <;> rfl

theorem saState_makeCurrent_prev {p : Nat} (hv : rdB s (rTxCur i) 14 = true) (hp : p = rdF s (rTxCur i) 13 0) (hne : p ≠ a)
    (hst : saState s false p ≠ saEmpty) : saState (makeCurrent s i a) false p = saLoaded := by
  subst hp
  have hother : rSa false (rdF s (rTxCur i) 13 0) 8 ≠ rSa false a 8 := fun e => hne ((rSa_inj (by omega) (by omega)).1 e).1
  have hprev : prevLoaded s i a = setSaState s false (rdF s (rTxCur i) 13 0) saLoaded := if_pos ⟨hv, hst, hne⟩
  rw [makeCurrent_eq, hprev]
  refine (rdF_congr (rd_wrF_other _ _ _ _ hother) _ _).trans ?_
  refine (rdF_congr (rd_wr_other _ _ (rTxCur_ne_rSa hi).symm) _ _).trans ?_
  exact rdF_wrF_same c _ _ (by omega) (by omega)

end

theorem makeCurrent_ciph (s : State) (i a : Nat) : (makeCurrent s i a).ciph = s.ciph :=
  (makeCurrent_keeps (Within.refl _) s i a (Keeps.refl _ _)).frame.cipher rfl

-- CIPHER_MODE

/-- A whole write of CIPHER_MODE. -/
theorem cipherModeWrite_whole (s : State) (value : Word) (operator_ : Nat) :
    cipherModeWrite s (BitVec.allOnes 64) value operator_ =
      if value.getLsbD 0 ∧ ¬ (boundary s = bsOperational ∧ commissioned s) then (s, some .eCipherState)
      else if value.getLsbD 0 = approved s then (s, none)
      else (forceEvents s (journalZero (postHw (setApproved (zeroAllSa s).1 (value.getLsbD 0)) 0x0207
        [(1, b2n (value.getLsbD 0)), (1, operator_)]) hwOrigin 0 5 0 0 (zeroAllSa s).2 operator_), none) := by
  have hm : (BitVec.allOnes 64).getLsbD 0 = true := by decide
  simp only [cipherModeWrite, hm, if_true, true_and]

section
variable {s : State} (hc : hasCipher s = true) (hb : boundary s = 0 ∨ boundary s = 1)
include hc hb

theorem exec_secyTxCurWrite_runs (secy : Fin 1024) (value : Word) :
    exec (.secyTxCurWrite secy value) s = nextOf s (txCurWrite s secy.val (BitVec.allOnes 64) value).1 := by
  have hg : (hasCipher s && !cipherStopped s) = true := by rw [hc, cipherStopped_false hb]; rfl
  exact congrArg (nextOf s) (onlyIf_pos hg _ _)

theorem exec_cipherModeWrite_runs (operator_ : Fin 16) (value : Word) :
    exec (.cipherModeWrite operator_ value) s = nextOf s (cipherModeWrite s (BitVec.allOnes 64) value operator_.val).1 := by
  have hg : (hasCipher s && !cipherStopped s) = true := by rw [hc, cipherStopped_false hb]; rfl
  exact congrArg (nextOf s) (onlyIf_pos hg _ _)

theorem exec_secyTxCurWrite_lands (secy : Fin 1024) {value : Word} (hv : value.getLsbD 14 = true)
    (hst : saState s false (field value 13 0) ≠ saEmpty) (hsecy : rdF s (rSa false (field value 13 0) 0) 9 0 = secy.val)
    (c : Canon s) :
    Lands (.secyTxCurWrite secy value) s fun t =>
      rd t (rTxCur secy.val) = BitVec.ofNat 64 (2 ^ 14 + field value 13 0) ∧
      saState t false (field value 13 0) = (if saSpent s (field value 13 0) then saExhausted else saCurrent) ∧
      (rdB s (rTxCur secy.val) 14 = true → ∀ p, p = rdF s (rTxCur secy.val) 13 0 → p ≠ field value 13 0 →
        saState s false p ≠ saEmpty → saState t false p = saLoaded) ∧
      t.ciph = s.ciph := by
  have hexec := exec_secyTxCurWrite_runs hc hb secy value
  rw [txCurWrite_whole, if_pos hv, if_neg hst, if_neg (not_not.2 hsecy)] at hexec
  refine ⟨_, hexec, ?_, ?_, fun hvalid p hp hne hpst => ?_, ?_⟩
  · rw [irqEdge_rd, rd_makeCurrent_txCur c secy.isLt]
  · exact (rdF_congr (irqEdge_rd _ _ _) _ _).trans (saState_makeCurrent c secy.isLt _)
  · exact (rdF_congr (irqEdge_rd _ _ _) _ _).trans (saState_makeCurrent_prev c secy.isLt _ hvalid hp hne hpst)
  · rw [irqEdge_ciph, makeCurrent_ciph]

end

/-- Settles O33: the two writes by `txCurWrite_whole` and `cipherModeWrite_whole`. -/
theorem cipherRegisterWritesComplete : Obligations.CipherRegisterWritesComplete := by
  unfold Obligations.CipherRegisterWritesComplete
  intro secy operator_ value s hc hb i a
  refine ⟨exec_secyTxCurWrite_lands hc hb secy, fun hv hbad => ?_, fun hv => ?_, fun hv hno => ?_, fun hne hok => ?_, fun heq => ?_⟩
  · rw [exec_secyTxCurWrite_runs hc hb, txCurWrite_whole, if_pos hv]
    by_cases hst : saState s false (field value 13 0) = saEmpty
    · rw [if_pos hst]; rfl
    · rw [if_neg hst, if_pos (hbad.resolve_left hst)]; rfl
  · rw [exec_secyTxCurWrite_runs hc hb, txCurWrite_whole, if_neg (by rw [hv]; decide)]; rfl
  · rw [exec_cipherModeWrite_runs hc hb, cipherModeWrite_whole, if_pos ⟨hv, hno⟩]; rfl
  · rw [exec_cipherModeWrite_runs hc hb, cipherModeWrite_whole, if_neg (fun h => h.2 (hok h.1)), if_neg hne]; rfl
  · rw [exec_cipherModeWrite_runs hc hb, cipherModeWrite_whole, if_pos heq]
    split <;> rfl

end Sys2Proof.Machine
end

section
/-! PROOFS. Direct writes: the octets of a BAR0 write, the way of a whole register through the Write Gate, and its journal
entry. -/
namespace Sys2Proof.Machine

-- Octets

theorem length_leBytes (k n : Nat) : (leBytes k n).length = k := by
  induction k generalizing n with
  | zero => rfl
  | succ k ih => exact congrArg Nat.succ (ih _)

theorem leNat_leBytes (k n : Nat) : leNat (leBytes k n) = n % 256 ^ k := by
  induction k generalizing n with
  | zero => simp [leBytes, leNat, Nat.mod_one]
  | succ k ih =>
    have hb : (BitVec.ofNat 8 (n % 256)).toNat = n % 256 := by
      rw [BitVec.toNat_ofNat]; exact Nat.mod_eq_of_lt (Nat.mod_lt _ (by omega))
    rw [leBytes, leNat, ih, hb, pow_succ', Nat.mod_mul]

theorem leAt_word (v : Word) : leAt (leBytes 8 v.toNat) 0 8 = v.toNat := by
  have hlen : (leBytes 8 v.toNat).length = 8 := length_leBytes 8 _
  rw [leAt, List.drop_zero, List.take_of_length_le hlen.le, leNat_leBytes]
  exact Nat.mod_eq_of_lt v.isLt

/-- Eight octets at an aligned offset are one whole register. -/
theorem tlpWrites_word {o : Nat} (h : o % 8 = 0) (v : Word) : tlpWrites o (leBytes 8 v.toNat) = some [(o, BitVec.allOnes 64, v)] := by
  have hin : o % 64 + 8 ≤ 64 := by omega
  have hval : BitVec.ofNat 64 (leAt (leBytes 8 v.toNat) (8 * 0) 8) = v := by
    rw [Nat.mul_zero, leAt_word, BitVec.ofNat_toNat, BitVec.setWidth_eq]
  unfold tlpWrites
  dsimp only
  rw [length_leBytes, if_neg (by omega), if_pos ⟨by omega, by omega, h, hin⟩]
  simp only [show 8 / 8 = 1 from rfl, List.range_one, List.map_cons, List.map_nil, Nat.mul_zero, Nat.add_zero] at hval ⊢
  rw [hval]

-- One register

theorem writeKey_mod (link : Bool) {o : Nat} (h : o < 2 ^ 26) : writeKey link o % 2 ^ 32 = o := by
  unfold writeKey banked
  split_ifs <;> omega

theorem writeKey_unbanked (link : Bool) {o : Nat} (h : 0x20 ≠ o) (h1 : 0x48 ≠ o) (h2 : 0x50 ≠ o) (h3 : 0x100 ≠ o) :
    writeKey link o = o := by
  unfold writeKey banked
  rw [if_neg (by omega), if_neg (by omega)]

theorem staged_gateTaken (s : State) : staged (gateTaken s) = staged s := by
  have hr : (gateTaken s).rcd = s.rcd :=
    (perf_keeps (pm := 4096) (Within.refl _) { s with ctl := { s.ctl with gateIn := s.ctl.gateIn + 1 } } 40 0x0303 1
      (Keeps.refl _ _)).frame.recorder rfl
  unfold staged
  rw [hr]

/-- A write that finds the Write Gate empty and room in the journal acts at once. -/
theorem gateAccept_now {s : State} (hq : s.ctl.gateQ = []) (hj : staged s < 960) (w : GateWrite) :
    gateAccept s w = gateOne id (gateTaken s) w := by
  have hheld : ¬ gateHeld (gateTaken s) w = true := by
    unfold gateHeld
    rw [staged_gateTaken, decide_eq_false (by omega), Bool.and_false]
    decide
  have hempty : (gateTaken s).ctl.gateQ = [] :=
    (congrArg (·.gateQ) ((perf_keeps (pm := 4096) (Within.refl _)
      { s with ctl := { s.ctl with gateIn := s.ctl.gateIn + 1 } } 40 0x0303 1 (Keeps.refl _ _)).ctl rfl)).trans hq
  exact if_pos ⟨hempty, hheld⟩

/-- A direct write that no access rule discards is accepted by the Write Gate. -/
theorem directReg_accepted {s : State} {w : BarWrite} {env : WriteEnv} {o : Nat} {mask value : Word} (hp : w.pf2 = false)
    (hok : w.mp = true ∨ hostOk s w.link o = true) (habs : absentOff s o = false) (hi : (regInfo o).isSome = true)
    (hcipher : ¬ (0x3000000 ≤ o ∧ o < 0x3800000)) (hforeign : foreignReg s w o = false)
    (hmp : ¬ (w.mp = true ∧ rMpTsrBase ≤ o ∧ o ≤ rMpTsrHead)) :
    directReg s w env o mask value = gateAccept s ⟨writeKey w.link o, mask, value, 0x0FFF, 0, env⟩ := by
  have hno : ¬ (¬ w.mp = true ∧ ¬ hostOk s w.link o = true) := by
    rintro ⟨h1, h2⟩; exact hok.elim h1 h2
  have hthere : ¬ (absentOff s o = true ∨ (regInfo o).isNone = true ∨ (0x3000000 ≤ o ∧ o < 0x3800000)) := by
    rintro (h | h | h)
    · rw [habs] at h; cases h
    · rw [Option.isNone_iff_eq_none] at h; rw [h] at hi; cases hi
    · exact hcipher h
  simp only [directReg, hp, Bool.false_eq_true, if_false, if_neg hno, if_neg hthere, false_and, hforeign, if_neg hmp]

theorem hostOk_present {s : State} {link : Bool} {o : Nat} (h : hostOk s link o = true) : absentOff s o = false := by
  simp only [hostOk, Bool.and_eq_true, Bool.not_eq_true'] at h
  exact h.1.2

/-- A write that took effect and is to be journaled. -/
theorem gateOne_took {flush : State → State} {s u : State} {w : GateWrite}
    (h : regWrite s w.offset w.mask w.value w.env 0 flush = (u, .took))
    (hj : directJournals (w.offset % 2 ^ 32) w.mask w.value = true) :
    gateOne flush s w = journal (gateLeft u) 0x0011 w.origin [(8, 0), (4, w.offset % 2 ^ 32), (8, (w.value &&& w.mask).toNat)] := by
  unfold gateOne
  rw [h]
  exact if_pos ⟨rfl, hj⟩

/-- Any other write. -/
theorem gateOne_unjournaled {flush : State → State} {s u : State} {w : GateWrite} {r : WOut}
    (h : regWrite s w.offset w.mask w.value w.env 0 flush = (u, r))
    (hj : ¬ (r = .took ∧ directJournals (w.offset % 2 ^ 32) w.mask w.value = true)) : gateOne flush s w = gateLeft u := by
  unfold gateOne
  rw [h]
  exact if_neg hj

-- Whole registers

/-- A whole write of a served register that no other agent owns, with the Write Gate empty and room in the journal. -/
theorem directWrite_word {s : State} {w : BarWrite} {env : WriteEnv} {o : Nat} {v : Word} (ho : w.offset = o)
    (hd : w.data = leBytes 8 v.toNat) (h8 : o % 8 = 0) (hp : w.pf2 = false) (hok : w.mp = true ∨ hostOk s w.link o = true)
    (habs : absentOff s o = false) (hi : (regInfo o).isSome = true) (hcipher : ¬ (0x3000000 ≤ o ∧ o < 0x3800000))
    (hforeign : foreignReg s w o = false) (hmp : ¬ (w.mp = true ∧ rMpTsrBase ≤ o ∧ o ≤ rMpTsrHead)) (hq : s.ctl.gateQ = [])
    (hj : staged s < 960) :
    directWrite s w env = gateOne id (gateTaken s) ⟨writeKey w.link o, BitVec.allOnes 64, v, 0x0FFF, 0, env⟩ := by
  unfold directWrite
  rw [ho, hd, tlpWrites_word h8]
  exact (directReg_accepted hp hok habs hi hcipher hforeign hmp).trans (gateAccept_now hq hj _)

section
variable {s : State} {link : Bool} {o : Nat} {v : Word} {env : WriteEnv}

/-- A host's whole write that acts at once. -/
theorem hostWrite_now (h8 : o % 8 = 0) (hi : (regInfo o).isSome = true) (hcipher : ¬ (0x3000000 ≤ o ∧ o < 0x3800000))
    (hforeign : foreignReg s (hostWrite link o v) o = false) (hh : HostWrites s link o) :
    directWrite s (hostWrite link o v) env =
      gateOne id (gateTaken s) ⟨writeKey link o, BitVec.allOnes 64, v, 0x0FFF, 0, env⟩ := by
  obtain ⟨hok, hq, hj⟩ := hh
  exact directWrite_word rfl rfl h8 rfl (.inr hok) (hostOk_present hok) hi hcipher hforeign (by simp [hostWrite]) hq hj

variable (h26 : o < 2 ^ 26)
include h26

theorem gateOne_host_took {u : State} (hj : directJournals o (BitVec.allOnes 64) v = true)
    (hr : regWrite (gateTaken s) (writeKey link o) (BitVec.allOnes 64) v env 0 id = (u, .took)) :
    gateOne id (gateTaken s) ⟨writeKey link o, BitVec.allOnes 64, v, 0x0FFF, 0, env⟩ = hostTook u o v := by
  rw [gateOne_took hr (by rw [writeKey_mod link h26]; exact hj)]
  dsimp only
  rw [writeKey_mod link h26, BitVec.and_allOnes]; rfl

theorem gateOne_host_other {u : State} {r : WOut} (hr : regWrite (gateTaken s) (writeKey link o) (BitVec.allOnes 64) v env 0 id = (u, r))
    (hj : ¬ (r = .took ∧ directJournals o (BitVec.allOnes 64) v = true)) :
    gateOne id (gateTaken s) ⟨writeKey link o, BitVec.allOnes 64, v, 0x0FFF, 0, env⟩ = gateLeft u :=
  gateOne_unjournaled hr (by rw [writeKey_mod link h26]; exact hj)

end

-- The Write Gate's own command

/-- A write that waited in the Write Gate, not withheld. -/
theorem exec_writeGateWrite_head {s : State} {g : GateWrite} {l : List GateWrite} (env : WriteEnv) (hq : s.ctl.gateQ = g :: l) :
    exec (.writeGateWrite false env) s = nextOf s (onlyIf (!gateHeld s g) s
      (gateOne gateDrain { s with ctl := { s.ctl with gateQ := l } } { g with env := env })) := by
  rw [exec_writeGateWrite, execWriteGateWrite, if_neg (by decide), hq]

/-- The first owed write of the forme, when it may reach its table and when it may not. -/
theorem exec_writeGateWrite_forme {s : State} {x : FormeWrite} {l : List FormeWrite} (env : WriteEnv)
    (ht : s.forme.formeTodo = x :: l) :
    exec (.writeGateWrite true env) s =
      nextOf s ((formeTake s x).elim s (fun y => setTodo y.1 (if y.2 then x :: l else l))) := by
  rw [exec_writeGateWrite, execWriteGateWrite, if_pos rfl, ht]

/-- A whole write that the access rules discard. -/
theorem directWrite_discarded {s : State} {link : Bool} {o : Nat} {v : Word} {env : WriteEnv} (h8 : o % 8 = 0)
    (h : hostOk s link o = false ∨ regInfo o = none ∨ 0x3000000 ≤ o ∧ o < 0x3800000) :
    directWrite s (hostWrite link o v) env = s := by
  have hreg : directReg s (hostWrite link o v) env o (BitVec.allOnes 64) v = s := by
    by_cases hok : hostOk s link o = true
    · have hthere : absentOff s o = true ∨ (regInfo o).isNone = true ∨ (0x3000000 ≤ o ∧ o < 0x3800000) := by
        obtain h | h | h := h
        · rw [h] at hok; cases hok
        · exact .inr (.inl (by rw [h]; rfl))
        · exact .inr (.inr h)
      simp only [directReg, hostWrite, Bool.false_eq_true, if_false, hok, not_true_eq_false, and_false, if_pos hthere]
    · simp only [directReg, hostWrite, Bool.false_eq_true, if_false, hok, not_false_eq_true, and_self, if_true]
  unfold directWrite
  rw [show (hostWrite link o v).offset = o from rfl, show (hostWrite link o v).data = leBytes 8 v.toNat from rfl, tlpWrites_word h8]
  exact hreg

/-- Settles O41: a whole write by `hostWrite_now`, a waiting one by `exec_writeGateWrite_head`, and `gateOne` for what both do. -/
theorem directWritesPassTheGate : Obligations.DirectWritesPassTheGate := by
  unfold Obligations.DirectWritesPassTheGate
  intro s link o v env w a
  refine ⟨?whole, fun h8 h => congrArg (nextOf s) (directWrite_discarded h8 h), ?badForm, ?several, ?forme, ?head⟩
  case whole =>
    intro i u r h8 h26 hok hi hcipher hforeign hq hj hr t
    have hnow : directWrite s w env = _ :=
      hostWrite_now h8 (by rw [hi]; rfl) hcipher hforeign ⟨hok, hq, hj⟩
    refine congrArg (nextOf s) (hnow.trans ?_)
    split
    · next h =>
      obtain ⟨rfl, hjr⟩ := h
      exact gateOne_host_took h26 hjr hr
    · next h => exact gateOne_host_other h26 hr h
  case badForm =>
    intro b hb hmp hst hlink
    have hno : ¬ (b.mp = true ∨ devState s < stSelftest ∨ (b.link = true ∧ ¬ s.host.bifNow = true)) := by
      rintro (h | h | ⟨h, h2⟩)
      · rw [hmp] at h; cases h
      · omega
      · exact h2 (hlink h)
    rw [exec_registerWrite, execRegisterWrite, directWrite, hb]
    exact congrArg (nextOf s) (if_neg hno)
  case several =>
    intro b l hb
    rw [exec_registerWrite, execRegisterWrite, directWrite, hb]
    rfl
  case forme =>
    intro x l ht
    exact ⟨fun t more hx => by rw [exec_writeGateWrite_forme env ht, hx]; rfl,
      fun hx => by rw [exec_writeGateWrite_forme env ht, hx]; rfl⟩
  case head =>
    intro g l hq t j
    refine ⟨fun u r hj hr => ?_, fun hj hfull => ?_⟩
    · intro v
      have hheld : (!gateHeld s g) = true := by
        obtain hj | hj := hj
        · rw [gateHeld, show directJournals (g.offset % 2 ^ 32) g.mask g.value = false from hj]; rfl
        · rw [gateHeld, decide_eq_false (by omega), Bool.and_false]; rfl
      rw [exec_writeGateWrite_head env hq, onlyIf_pos hheld]
      refine congrArg (nextOf s) ?_
      split
      · next h =>
        obtain ⟨rfl, hjr⟩ := h
        exact gateOne_took (w := { g with env := env }) hr hjr
      · next h => exact gateOne_unjournaled (w := { g with env := env }) hr h
    · have hheld : (!gateHeld s g) = false := by
        rw [gateHeld, show directJournals (g.offset % 2 ^ 32) g.mask g.value = true from hj, decide_eq_true hfull]; rfl
      rw [exec_writeGateWrite_head env hq, onlyIf_neg hheld]; rfl

end Sys2Proof.Machine
end

section
/-! PROOFS. Which operation a write of a register is (`regWrite` by block), and which whole writes are journaled. -/
namespace Sys2Proof.Machine

-- The block of an offset

section
variable (s : State) {o : Nat} (mask value : Word) (env : WriteEnv) (operator_ : Nat) (flush : State → State)

theorem regWrite_low (h : 2 ^ 32 ≤ o ∨ o < 0x4000) : regWrite s o mask value env operator_ flush = lowWrite s o mask value :=
  if_pos h

theorem regWrite_window (h : 0x4000 ≤ o) (h' : o < 0x100000) :
    regWrite s o mask value env operator_ flush = windowWrite s o mask value env := by
  unfold regWrite; rw [if_neg (by omega), if_pos h']

theorem regWrite_ring (h : 0x101000 ≤ o) (h' : o < 0x105000) :
    regWrite s o mask value env operator_ flush = ringRegWrite s ((o - 0x101000) / 0x100) o mask value := by
  have hclave : o ≠ rClaveCtrl := by unfold rClaveCtrl; omega
  unfold regWrite
  rw [if_neg (by omega), if_neg (by omega), if_neg hclave, if_neg (by omega), if_pos h']

theorem regWrite_pool (h : 0x105000 ≤ o) (h' : o < 0x800000) :
    regWrite s o mask value env operator_ flush = poolRegWrite s o mask value := by
  have hclave : o ≠ rClaveCtrl := by unfold rClaveCtrl; omega
  unfold regWrite
  rw [if_neg (by omega), if_neg (by omega), if_neg hclave, if_neg (by omega), if_neg (by omega), if_pos h']

theorem regWrite_time (h : 0x800000 ≤ o) (h' : o < 0x1000000) :
    regWrite s o mask value env operator_ flush = timeWrite s o mask value := by
  have hclave : o ≠ rClaveCtrl := by unfold rClaveCtrl; omega
  unfold regWrite
  rw [if_neg (by omega), if_neg (by omega), if_neg hclave, if_neg (by omega), if_neg (by omega), if_neg (by omega), if_pos h']

theorem regWrite_port (h : 0x1000000 ≤ o) (h' : o < 0x2000000) :
    regWrite s o mask value env operator_ flush = portWrite s o mask value := by
  have hclave : o ≠ rClaveCtrl := by unfold rClaveCtrl; omega
  unfold regWrite
  rw [if_neg (by omega), if_neg (by omega), if_neg hclave, if_neg (by omega), if_neg (by omega), if_neg (by omega),
    if_neg (by omega), if_pos h']

theorem regWrite_perf (h : 0x3C00000 ≤ o) (h' : o < 2 ^ 32) :
    regWrite s o mask value env operator_ flush = (perfWrite s o mask value, .took) := by
  have hclave : o ≠ rClaveCtrl := by unfold rClaveCtrl; omega
  unfold regWrite
  rw [if_neg (by omega), if_neg (by omega), if_neg hclave, if_neg (by omega), if_neg (by omega), if_neg (by omega),
    if_neg (by omega), if_neg (by omega), if_neg (by omega), if_pos h]

theorem regWrite_clave :
    regWrite s rClaveCtrl mask value env operator_ flush = (claveCtrlWrite s mask value flush, .took) := rfl

theorem regWrite_rec :
    regWrite s rRecCtrl mask value env operator_ flush = (recCtrlWrite s mask value env.recPass, .took) := rfl

end

-- Journaled whole writes

/-- A whole write of the register is journaled when it takes effect, whatever its value. -/
def journaledOff (o : Nat) : Bool :=
  (regInfo o).elim false (fun i => decide (BitVec.ofNat 64 (i.rw ||| i.wo) ≠ 0#64))
    && !(o = rLearnHead || o = rTsrHead || (decide (0x101000 ≤ o) && decide (o < 0x105000) && o % 0x100 = 0x28)
      || (decide (0x24000 ≤ o) && decide (o < 0x24800) && o % 0x80 = 0x38)
      || (decide (0x1000 ≤ o) && decide (o < 0x1200) && o % 0x40 = 0x10))

theorem directJournals_whole {o : Nat} (h : journaledOff o = true) (v : Word) : directJournals o (BitVec.allOnes 64) v = true := by
  unfold journaledOff at h
  unfold directJournals
  cases hi : regInfo o with
  | none => simp [hi] at h
  | some i =>
    simp only [hi, Option.elim_some, BitVec.allOnes_and] at h ⊢
    grind

theorem regInfo_of_journaledOff {o : Nat} (h : journaledOff o = true) : (regInfo o).isSome = true := by
  unfold journaledOff at h
  cases hi : regInfo o with
  | none => simp [hi] at h
  | some i => rfl

theorem whole_of_journaledOff {o : Nat} (h : journaledOff o = true) : o % 8 = 0 := by
  have hi := regInfo_of_journaledOff h
  unfold regInfo at hi
  by_contra h8
  simp [h8] at hi

-- A host's whole write of a journaled register

section
variable {s : State} {link : Bool} {o : Nat} {v : Word} {env : WriteEnv} (hj : journaledOff o = true) (h26 : o < 2 ^ 26)
  (hcipher : ¬ (0x3000000 ≤ o ∧ o < 0x3800000)) (hforeign : foreignReg s (hostWrite link o v) o = false)
  (hh : HostWrites s link o)
include hj h26 hcipher hforeign hh

theorem hostWrite_took {u : State} (hr : regWrite (gateTaken s) (writeKey link o) (BitVec.allOnes 64) v env 0 id = (u, .took)) :
    directWrite s (hostWrite link o v) env = hostTook u o v :=
  (hostWrite_now (whole_of_journaledOff hj) (regInfo_of_journaledOff hj) hcipher hforeign hh).trans
    (gateOne_host_took h26 (directJournals_whole hj v) hr)

theorem hostWrite_untaken {u : State} {r : WOut} (hne : r ≠ .took)
    (hr : regWrite (gateTaken s) (writeKey link o) (BitVec.allOnes 64) v env 0 id = (u, r)) :
    directWrite s (hostWrite link o v) env = gateLeft u :=
  (hostWrite_now (whole_of_journaledOff hj) (regInfo_of_journaledOff hj) hcipher hforeign hh).trans
    (gateOne_host_other h26 hr fun h => hne h.1)

end

/-- Offsets outside the rings', channels' and PF1 rings' blocks belong to every host. -/
theorem foreignReg_common (s : State) (w : BarWrite) {o : Nat} (h1 : ¬ (0x101000 ≤ o ∧ o < 0x105000))
    (h2 : ¬ (0x1000 ≤ o ∧ o < 0x1200)) (h3 : ¬ (0x410000 ≤ o ∧ o < 0x430000)) : foreignReg s w o = false := by
  unfold foreignReg; rw [if_neg h1, if_neg h2, if_neg h3]

end Sys2Proof.Machine
end

section
/-! PROOFS. Doorbells, ring errors and the writes of CR_CTRL and CQ_HEAD. -/
namespace Sys2Proof.Machine

-- Doorbells

/-- The forms of a doorbell that the device takes. -/
theorem exec_ringDoorbell_taken {ring : Fin 64} {w : DbWrite} (opcodes : List Nat) {s : State}
    (hform : w.mp = true ∨ stHold ≤ devState s ∧ w.off = 0 ∧ (w.size = 8 ∨ w.size = 4)) :
    exec (.ringDoorbell ring w opcodes) s = nextOf s (
      if ringOwner s ring.val ≠ (if w.mp then .mp else .host w.link) then
        foreignRing s { mp := w.mp, link := w.link } (ring.val * 0x1000)
      else if doorbellOk s ring.val (w.value % 2 ^ 17 % (2 * ringSize s ring.val)) then
        takeDoorbell s ring.val (w.value % 2 ^ 17 % (2 * ringSize s ring.val)) opcodes
      else dbErr s ring.val w.value) := by
  have hserved : ¬ (¬ w.mp = true ∧ devState s < stHold) := by
    rintro ⟨h1, h2⟩
    obtain h | ⟨h, -⟩ := hform
    · exact h1 h
    · omega
  have hsize : ¬ (¬ w.mp = true ∧ ¬ ((w.size = 8 ∧ w.off = 0) ∨ (w.size = 4 ∧ w.off = 0))) := by
    rintro ⟨h1, h2⟩
    obtain h | ⟨-, h0, h | h⟩ := hform
    · exact h1 h
    · exact h2 (.inl ⟨h, h0⟩)
    · exact h2 (.inr ⟨h, h0⟩)
  rw [exec_ringDoorbell, execRingDoorbell]
  simp only [if_neg hserved, if_neg hsize]
  rfl

/-- Settles O36: `exec_ringDoorbell_taken` and the three cases of owner and window. -/
theorem doorbellsMoveTheTail : Obligations.DoorbellsMoveTheTail := by
  unfold Obligations.DoorbellsMoveTheTail
  intro ring w opcodes s n v k hform
  refine ⟨fun hown => ⟨fun hok => ?_, fun hbad => ?_⟩, fun hown hmp => ?_⟩
  · rw [exec_ringDoorbell_taken opcodes hform, if_neg (not_not.2 hown), if_pos hok]; rfl
  · rw [exec_ringDoorbell_taken opcodes hform, if_neg (not_not.2 hown), if_neg (by rw [hbad]; decide)]; rfl
  · have hdev : stHold ≤ devState s := by
      obtain h | ⟨h, -⟩ := hform
      · rw [hmp] at h; cases h
      · exact h
    have hserved : served s (n * 0x1000) = true := by rw [served, decide_eq_true hdev, Bool.true_or]
    have hforeign : foreignRing s { mp := w.mp, link := w.link } (n * 0x1000) = accessErr s w.link accForeign (n * 0x1000) := by
      unfold foreignRing
      rw [hmp, hserved]
      exact if_neg (by simp only [Bool.false_eq_true, not_true, or_self, not_false_eq_true])
    rw [exec_ringDoorbell_taken opcodes hform, if_pos hown, hforeign]; rfl

-- Ring errors

theorem exec_cqStall_since {ring : Fin 64} {s : State} {c : Nat} (hc : (rt s ring.val).stallSince = some c) :
    exec (.cqStall ring) s = nextOf s (
      onlyIf (cqFull s ring.val && !(rt s ring.val).stallPosted && decide (c + cyclesPerMs < s.cycle)) s
        (postHw (setRt s ring.val { rt s ring.val with stallPosted := true }) 0x0905
          [(1, ring.val), (4, cqHead s ring.val)])) := by
  rw [exec_cqStall, execCqStall]
  simp only [hc]

/-- Settles O40: the guards of the three commands hold. -/
theorem ringErrorsStopTheRing : Obligations.RingErrorsStopTheRing := by
  unfold Obligations.RingErrorsStopTheRing
  intro ring s n stop hn
  refine ⟨fun hst hen hslots => ?_, fun hrec hdead hfull => ?_, fun c hc hfull hlate => ⟨fun hp => ?_, fun hp => ?_⟩⟩
  · have hg : (n < 60 && ringEnabled s n && ringState s n ≠ rsStopped && !(rt s n).slots.isEmpty) = true := by
      simp [hn, hen, hst, hslots]
    exact congrArg (nextOf s) (onlyIf_pos hg _ _)
  · have hg : (n < 60 && !(rt s n).records.isEmpty && !(rt s n).cqDead && !cqFull s n) = true := by
      simp [hn, hrec, hdead, hfull]
    exact congrArg (nextOf s) (onlyIf_pos hg _ _)
  · have hg : (cqFull s n && !(rt s n).stallPosted && decide (c + cyclesPerMs < s.cycle)) = true := by
      rw [hfull, hp, decide_eq_true (show c + cyclesPerMs < s.cycle from hlate)]; rfl
    exact (exec_cqStall_since hc).trans (congrArg (nextOf s) (onlyIf_pos hg _ _))
  · have hg : (cqFull s n && !(rt s n).stallPosted && decide (c + cyclesPerMs < s.cycle)) = false := by
      rw [hp]; simp
    exact (exec_cqStall_since hc).trans (congrArg (nextOf s) (onlyIf_neg hg _ _))

-- Writes of a ring's registers

theorem absentOff_ring (s : State) {o : Nat} (h : 0x101000 ≤ o) (h' : o < 0x105000) : absentOff s o = false := by
  unfold absentOff rPolHalf rCellsRetired rDeepStatus rTemp
  simp
  omega

/-- One ring register is served when another is. -/
theorem hostOk_ring {s : State} {link : Bool} {o q : Nat} (h : hostOk s link q = true) (hq : 0x101000 ≤ q) (hq' : q < 0x105000)
    (ho : 0x101000 ≤ o) (ho' : o < 0x105000) : hostOk s link o = true := by
  have hserved : ∀ x, 0x101000 ≤ x → x < 0x105000 → served s x = decide (stHold ≤ devState s) := fun x h1 h2 => by
    have h3 : ¬ x < 0x1000 := by omega
    have h4 : ¬ (0x3800000 ≤ x) := by omega
    simp [served, h3, h4]
  unfold hostOk at h ⊢
  rw [hserved q hq hq', absentOff_ring s hq hq'] at h
  rwa [hserved o ho ho', absentOff_ring s ho ho']

section
variable {s : State} {w : Who} {n o : Nat} {v : Word} (hown : ringOwner s n = (if w.mp then .mp else .host w.link))
  (hok : w.mp = true ∨ hostOk s w.link (rCrBase n) = true) (hq : s.ctl.gateQ = []) (hj : staged s < 960) (hn : n < 64)
  (hlo : rCrBase n ≤ o) (hhi : o < rCrBase n + 0x100) (hi : (regInfo o).isSome = true)
include hown hok hq hj hn hlo hhi hi

/-- A whole write of a register of ring n by its owner. -/
theorem ringWrite_now :
    directWrite s (whoWrite w o v) noEnv = gateOne id (gateTaken s) ⟨o, BitVec.allOnes 64, v, 0x0FFF, 0, noEnv⟩ := by
  unfold rCrBase at hlo hhi hok
  have hblock : 0x101000 ≤ o ∧ o < 0x105000 := by omega
  have h8 : o % 8 = 0 := by
    by_contra h8
    simp [regInfo, h8] at hi
  have hring : (o - 0x101000) / 0x100 = n := by omega
  have hforeign : foreignReg s (whoWrite w o v) o = false := by
    unfold foreignReg
    rw [if_pos hblock, hring, hown]
    exact decide_eq_false (not_not.2 rfl)
  have hhost : (whoWrite w o v).mp = true ∨ hostOk s (whoWrite w o v).link o = true :=
    hok.imp id fun h => hostOk_ring h (by omega) (by omega) hblock.1 hblock.2
  have hmp : ¬ ((whoWrite w o v).mp = true ∧ rMpTsrBase ≤ o ∧ o ≤ rMpTsrHead) := by
    rintro ⟨-, h1, -⟩; unfold rMpTsrBase at h1; omega
  rw [directWrite_word (o := o) rfl rfl h8 rfl hhost (absentOff_ring s hblock.1 hblock.2) hi (by omega) hforeign hmp hq hj]
  rw [show (whoWrite w o v).link = w.link from rfl, writeKey_unbanked (o := o) w.link (by omega) (by omega) (by omega) (by omega)]

end

theorem merged_whole (old v : Word) : (old &&& ~~~ BitVec.allOnes 64) ||| (v &&& BitVec.allOnes 64) = v := by
  rw [BitVec.not_allOnes, BitVec.and_zero, BitVec.and_allOnes, BitVec.zero_or]

/-- A whole write of CQ_HEAD (R1163). -/
theorem cqHeadWrite_whole (s : State) (n : Nat) (v : Word) :
    cqHeadWrite s n (BitVec.allOnes 64) v =
      if cqHeadOk s n (v.toNat % 2 ^ 17) then
        refreshFull (setRt (wrF s (rCqHead n) 16 0 (v.toNat % 2 ^ 17 % (2 * ringSize s n))) n { rt s n with irqArmed := true }) n
      else dbErr s n v.toNat := by
  unfold cqHeadWrite
  rw [merged_whole]
  rfl

/-- A whole write of CR_CTRL. -/
theorem crCtrlWrite_whole (s : State) (n : Nat) (v : Word) :
    crCtrlWrite s n (BitVec.allOnes 64) v =
      if v.getLsbD 1 then ringReset (crCtrlFields s n v) n
      else if v.getLsbD 2 then ringAbort (crSetEnable (crCtrlFields s n v) n (v.getLsbD 0)) n
      else crSetEnable (crCtrlFields s n v) n (v.getLsbD 0) := by
  unfold crCtrlWrite
  rw [merged_whole, BitVec.and_allOnes]

section
variable {s : State} {w : Who} {ring : Fin 64} (hown : ringOwner s ring.val = (if w.mp then .mp else .host w.link))
  (hok : w.mp = true ∨ hostOk s w.link (rCrBase ring.val) = true) (hq : s.ctl.gateQ = []) (hj : staged s < 960)
include hown hok hq hj

/-- A write of CQ_HEAD is not journaled. -/
theorem directWrite_cqHead (v : Word) :
    directWrite s (whoWrite w (rCqHead ring.val) v) noEnv =
      gateLeft (cqHeadWrite (gateTaken s) ring.val (BitVec.allOnes 64) v) := by
  have hn := ring.isLt
  have hi : (regInfo (rCqHead ring.val)).isSome = true := (by decide : ∀ k : Fin 64, (regInfo (rCqHead k.val)).isSome = true) ring
  have hjr : directJournals (rCqHead ring.val % 2 ^ 32) (BitVec.allOnes 64) v = false := by
    have h1 : rCqHead ring.val % 2 ^ 32 = rCqHead ring.val := by unfold rCqHead; omega
    have h2 : 0x101000 ≤ rCqHead ring.val ∧ rCqHead ring.val < 0x105000 ∧ rCqHead ring.val % 0x100 = 0x28 := by
      unfold rCqHead; omega
    unfold directJournals
    rw [h1]
    split
    · rfl
    · simp [h2]
  have hr : regWrite (gateTaken s) (rCqHead ring.val) (BitVec.allOnes 64) v noEnv 0 id =
      (cqHeadWrite (gateTaken s) ring.val (BitVec.allOnes 64) v, .took) := by
    rw [regWrite_ring _ _ _ _ _ _ (by unfold rCqHead; omega) (by unfold rCqHead; omega)]
    have hring : (rCqHead ring.val - 0x101000) / 0x100 = ring.val := by unfold rCqHead; omega
    unfold ringRegWrite
    rw [hring, if_neg (by unfold rCqHead rCrCtrl; omega), if_pos rfl]
  rw [ringWrite_now hown hok hq hj hn (by unfold rCrBase rCqHead; omega) (by unfold rCrBase rCqHead; omega) hi]
  exact gateOne_unjournaled hr (fun h => by rw [hjr] at h; exact absurd h.2 (by decide))

/-- A write of CR_CTRL is journaled. -/
theorem directWrite_crCtrl (v : Word) :
    directWrite s (whoWrite w (rCrCtrl ring.val) v) noEnv =
      hostTook (crCtrlWrite (gateTaken s) ring.val (BitVec.allOnes 64) v) (rCrCtrl ring.val) v := by
  have hn := ring.isLt
  have hjr : journaledOff (rCrCtrl ring.val) = true := (by decide : ∀ k : Fin 64, journaledOff (rCrCtrl k.val) = true) ring
  have hr : regWrite (gateTaken s) (rCrCtrl ring.val) (BitVec.allOnes 64) v noEnv 0 id =
      (crCtrlWrite (gateTaken s) ring.val (BitVec.allOnes 64) v, .took) := by
    rw [regWrite_ring _ _ _ _ _ _ (by unfold rCrCtrl; omega) (by unfold rCrCtrl; omega)]
    have hring : (rCrCtrl ring.val - 0x101000) / 0x100 = ring.val := by unfold rCrCtrl; omega
    unfold ringRegWrite
    rw [hring, if_pos rfl]
  have hmod : rCrCtrl ring.val % 2 ^ 32 = rCrCtrl ring.val := by unfold rCrCtrl; omega
  rw [ringWrite_now hown hok hq hj hn (by unfold rCrBase rCrCtrl; omega) (by unfold rCrBase rCrCtrl; omega)
    (regInfo_of_journaledOff hjr), gateOne_took hr (by rw [hmod]; exact directJournals_whole hjr v)]
  dsimp only
  rw [hmod, BitVec.and_allOnes]; rfl

end

/-- Settles O37: `directWrite_cqHead` and `directWrite_crCtrl`, with the bits of each command's value. -/
theorem ringRegisterWritesComplete : Obligations.RingRegisterWritesComplete := by
  unfold Obligations.RingRegisterWritesComplete
  intro ring w value s n hown hok hq hj a out h f on off
  have hctrl := fun v => directWrite_crCtrl hown hok hq hj v
  have hbit : ∀ (m : Word) (j : Nat), (value ||| m).getLsbD j = (value.getLsbD j || m.getLsbD j) := fun m j => BitVec.getLsbD_or
  refine ⟨fun hle => ?_, fun hlt => ?_, fun h1 h2 => ⟨?_, ?_, ?_⟩, ?_⟩
  · refine congrArg (nextOf s) ((directWrite_cqHead hown hok hq hj value).trans ?_)
    rw [cqHeadWrite_whole, if_pos (show cqHeadOk (gateTaken s) ring.val (value.toNat % 2 ^ 17) = true from decide_eq_true hle)]; rfl
  · refine congrArg (nextOf s) ((directWrite_cqHead hown hok hq hj value).trans ?_)
    rw [cqHeadWrite_whole, if_neg (show ¬ cqHeadOk (gateTaken s) ring.val (value.toNat % 2 ^ 17) = true from
      fun hok => absurd (of_decide_eq_true hok) (Nat.not_le.2 hlt))]; rfl
  · refine congrArg (nextOf s) ((hctrl (value ||| 1#64)).trans ?_)
    rw [crCtrlWrite_whole, if_neg (by rw [hbit 1#64 1, h1]; decide), if_neg (by rw [hbit 1#64 2, h2]; decide),
      hbit 1#64 0, show (1#64).getLsbD 0 = true by decide, Bool.or_true]; rfl
  · have hoff : ∀ j, (value &&& ~~~ 1#64).getLsbD j = (value.getLsbD j && (decide (j < 64) && !(1#64).getLsbD j)) := fun j => by
      rw [BitVec.getLsbD_and, BitVec.getLsbD_not]
    refine congrArg (nextOf s) ((hctrl (value &&& ~~~ 1#64)).trans ?_)
    rw [crCtrlWrite_whole, if_neg (by rw [hoff, h1]; decide), if_neg (by rw [hoff, h2]; decide), hoff 0,
      show (decide (0 < 64) && !(1#64).getLsbD 0) = false by decide, Bool.and_false]; rfl
  · refine congrArg (nextOf s) ((hctrl (value ||| 4#64)).trans ?_)
    rw [crCtrlWrite_whole, if_neg (by rw [hbit 4#64 1, h1]; decide), if_pos (by rw [hbit 4#64 2, show (4#64).getLsbD 2 = true by decide, Bool.or_true]),
      hbit 4#64 0, show (4#64).getLsbD 0 = false by decide, Bool.or_false]; rfl
  · refine congrArg (nextOf s) ((hctrl (value ||| 2#64)).trans ?_)
    rw [crCtrlWrite_whole, if_pos (by rw [hbit 2#64 1, show (2#64).getLsbD 1 = true by decide, Bool.or_true])]; rfl

end Sys2Proof.Machine
end

section
/-! PROOFS. The recorder that a RETRY restores, with its notification asked for. -/
namespace Sys2Proof.Machine

/-- The state after reset, in HOLD and with the recorder degraded. -/
def degradedRecorder : State := wrF (wrF State.reset rDevState 2 0 stHold) rRecStatus 1 0 1

/-- SEV_MASK asks for a notification of the records of severity 0. -/
def notifySeverity0 : Word := 0x100000000#64

/-- REC_STATUS bit 4 of the state a command answers: a record of a severity in SEV_MASK was stored. -/
def notified : Host.Outcome State Fault Refusal → Bool
  | .next t => rdB t rRecStatus 4
  | _ => false

/-- The event that RETRY stores has severity 0, so it notifies (R991). -/
theorem retry_notifies : notified (exec (.recorderRetry false (notifySeverity0 ||| 0x10000#64) true) degradedRecorder) = true := by
  decide +kernel

/-- Refutes O42: the value of a RETRY write also sets SEV_MASK, and with its bit 0 set the event 0x0B05 that ends a successful
RETRY notifies the host: it sets REC_STATUS bit 4 and raises the vector, of which the statement says nothing. -/
theorem not_deviceControlWritesComplete : ¬ Obligations.DeviceControlWritesComplete := by
  unfold Obligations.DeviceControlWritesComplete
  intro h
  obtain ⟨-, -, -, -, -, -, -, -, hretry⟩ := h degradedRecorder false notifySeverity0 rfl (by decide +kernel)
  obtain ⟨hpass, -⟩ := hretry (by decide +kernel) (by decide +kernel)
  have hnot := congrArg notified hpass
  rw [retry_notifies] at hnot
  exact absurd hnot (by decide +kernel)

end Sys2Proof.Machine
end

section
/-! PROOFS. A host's writes of the data path's registers. -/
namespace Sys2Proof.Machine

-- The fields of a merged value

theorem getLsbD_merged {k : Word} {j : Nat} (hj : k.getLsbD j = true) (old v : Word) :
    ((old &&& ~~~k) ||| (v &&& k)).getLsbD j = v.getLsbD j := by
  simp [hj]

theorem field_merged {k : Word} {hi lo : Nat} (hk : ∀ j, lo ≤ j → j ≤ hi → k.getLsbD j = true) (old v : Word) :
    field ((old &&& ~~~k) ||| (v &&& k)) hi lo = field v hi lo := by
  refine Nat.eq_of_testBit_eq fun j => ?_
  rw [testBit_field, testBit_field]
  by_cases h : j < hi + 1 - lo
  · rw [getLsbD_merged (hk _ (by omega) (by omega))]
  · rw [decide_eq_false h, Bool.false_and, Bool.false_and]

-- What accepting a write leaves

theorem rd_gateTaken (s : State) {o : Nat} (h : ¬ (0x3C28000 ≤ o ∧ o < 0x3C29000)) : rd (gateTaken s) o = rd s o :=
  rd_perf _ 40 0x0303 1 o (by unfold rPerf; exact h)

theorem rdB_gateTaken (s : State) {o : Nat} (h : ¬ (0x3C28000 ≤ o ∧ o < 0x3C29000)) (i : Nat) : rdB (gateTaken s) o i = rdB s o i :=
  rdB_congr (rd_gateTaken s h) i

theorem rdF_gateTaken (s : State) {o : Nat} (h : ¬ (0x3C28000 ≤ o ∧ o < 0x3C29000)) (hi lo : Nat) :
    rdF (gateTaken s) o hi lo = rdF s o hi lo := rdF_congr (rd_gateTaken s h) hi lo

theorem gateTaken_counted (s : State) : Keeps 4096 { s with ctl := { s.ctl with gateIn := s.ctl.gateIn + 1 } } (gateTaken s) :=
  perf_keeps (Within.refl _) _ 40 0x0303 1 (Keeps.refl _ _)

theorem gateTaken_variant (s : State) : (gateTaken s).variant = s.variant := (gateTaken_counted s).variant
theorem gateTaken_forme (s : State) : (gateTaken s).forme = s.forme := (gateTaken_counted s).frame.formes rfl
theorem gateTaken_learn (s : State) : (gateTaken s).learn = s.learn := (gateTaken_counted s).frame.learn rfl
theorem gateTaken_bifNow (s : State) : (gateTaken s).host.bifNow = s.host.bifNow := by
  have h := congrArg HostSt.bifNow ((gateTaken_counted s).frame.host rfl)
  exact h
theorem gateTaken_frameSplit (s : State) : (gateTaken s).host.frameSplitNow = s.host.frameSplitNow := by
  have h := congrArg HostSt.frameSplitNow ((gateTaken_counted s).frame.host rfl)
  exact h
theorem gateTaken_pool (s : State) : (gateTaken s).pool = s.pool := (gateTaken_counted s).frame.pools rfl
theorem gateTaken_path (s : State) : (gateTaken s).path = s.path := (gateTaken_counted s).frame.path rfl
theorem gateTaken_core (s : State) : (gateTaken s).core = s.core := (gateTaken_counted s).frame.core rfl
theorem gateTaken_mp (s : State) : (gateTaken s).mp = s.mp := (gateTaken_counted s).frame.mp rfl

-- PORT_CFG

/-- The value a whole write leaves in PORT_CFG. -/
def portCfgMerged (s : State) (p : Nat) (v : Word) : State :=
  wr s (rPortCfg p) ((rd s (rPortCfg p) &&& ~~~ (fieldMask 18 18 ||| fieldMask 13 0)) ||| (v &&& (fieldMask 18 18 ||| fieldMask 13 0)))

theorem rdB_portCfgMerged {s : State} (c : Canon s) (p : Nat) (v : Word) :
    rdB (portCfgMerged s p v) (rPortCfg p) 18 = v.getLsbD 18 := by
  unfold rdB portCfgMerged
  rw [rd_wr_same c]
  exact getLsbD_merged (by decide) _ _

theorem portCfgWrite_whole (s : State) (p : Nat) (v : Word) :
    portCfgWrite s p (BitVec.allOnes 64) v =
      let m := portCfgMerged s p v
      let d := if rdB m (rPortCfg p) 18 ∧ ¬ rdB s (rPortCfg p) 18 then takeDown m p 3 true false else m
      let t := if rdB s (rPortCfg p) 18 ∧ ¬ rdB d (rPortCfg p) 18 then beginPort d p else d
      if v.getLsbD 19 then beginPort (takeDown t p 4 false false) p else t := by
  unfold portCfgWrite
  rw [BitVec.allOnes_and, BitVec.and_allOnes]
  rfl

/-- ADMIN_DOWN 0: a port that was down begins. -/
theorem portCfgWrite_up {s : State} (c : Canon s) (p : Nat) {v : Word} (hv : v.getLsbD 18 = false) :
    portCfgWrite s p (BitVec.allOnes 64) v =
      let t := if rdB s (rPortCfg p) 18 then beginPort (portCfgMerged s p v) p else portCfgMerged s p v
      if v.getLsbD 19 then beginPort (takeDown t p 4 false false) p else t := by
  simp only [portCfgWrite_whole, rdB_portCfgMerged c, hv, Bool.false_eq_true, false_and, if_false, not_false_eq_true, and_true]

/-- ADMIN_DOWN 1: a port that was not down goes down. -/
theorem portCfgWrite_down {s : State} (c : Canon s) (p : Nat) {v : Word} (hv : v.getLsbD 18 = true) :
    portCfgWrite s p (BitVec.allOnes 64) v =
      let t := if rdB s (rPortCfg p) 18 then portCfgMerged s p v else takeDown (portCfgMerged s p v) p 3 true false
      if v.getLsbD 19 then beginPort (takeDown t p 4 false false) p else t := by
  cases hwas : rdB s (rPortCfg p) 18 <;>
    simp only [portCfgWrite_whole, rdB_portCfgMerged c, hv, hwas, Bool.false_eq_true, not_true_eq_false, not_false_eq_true,
      and_self, and_false, false_and, if_false, if_true]

theorem canon_gateTaken {s : State} (c : Canon s) : Canon (gateTaken s) := (gateTaken_counted s).canon c

-- Where the writes go

section
variable {s : State} {link : Bool} {v : Word}

/-- A host's whole write of PORT_CFG. -/
theorem directWrite_portCfg {p : Fin 256} (h : HostWrites s link (rPortCfg p.val)) :
    directWrite s (hostWrite link (rPortCfg p.val) v) noEnv =
      hostTook (portCfgWrite (gateTaken s) p.val (BitVec.allOnes 64) v) (rPortCfg p.val) v := by
  have hp := p.isLt
  have ho : rPortCfg p.val = 0x1000000 + 0x10000 * p.val := rfl
  refine hostWrite_took ((by decide +kernel : ∀ k : Fin 256, journaledOff (rPortCfg k.val) = true) p) (by omega) (by omega)
    (foreignReg_common _ _ (by omega) (by omega) (by omega)) h ?_
  rw [writeKey_unbanked link (by omega) (by omega) (by omega) (by omega), regWrite_port _ _ _ _ _ _ (by omega) (by omega)]
  unfold portWrite
  dsimp only
  rw [if_pos (by omega), show (rPortCfg p.val - 0x1000000) / 0x10000 = p.val by omega]

/-- A host's whole write of TIME_CTRL. -/
theorem directWrite_timeCtrl (h : HostWrites s link rTimeCtrl) :
    directWrite s (hostWrite link rTimeCtrl v) noEnv =
      if v.getLsbD 0 ∧ ¬ hasDomB s then gateLeft (gateTaken s)
      else hostTook (timeCtrlWrite (gateTaken s) (BitVec.allOnes 64) v) rTimeCtrl v := by
  have ho : rTimeCtrl = 0x800000 := rfl
  have hr : regWrite (gateTaken s) (writeKey link rTimeCtrl) (BitVec.allOnes 64) v noEnv 0 id =
      if v.getLsbD 0 ∧ ¬ hasDomB s then (gateTaken s, .quiet) else (timeCtrlWrite (gateTaken s) (BitVec.allOnes 64) v, .took) := by
    rw [writeKey_unbanked link (by omega) (by omega) (by omega) (by omega), regWrite_time _ _ _ _ _ _ (by omega) (by omega)]
    unfold timeWrite
    rw [if_pos rfl, show hasDomB (gateTaken s) = hasDomB s by unfold hasDomB; rw [gateTaken_variant]]
    simp only [show (BitVec.allOnes 64).getLsbD 0 = true by decide, true_and]
  have hf := foreignReg_common s (hostWrite link rTimeCtrl v) (o := rTimeCtrl) (by omega) (by omega) (by omega)
  split
  · next hb => exact hostWrite_untaken (by decide) (by omega) (by omega) hf h (by decide) (hr.trans (if_pos hb))
  · next hb => exact hostWrite_took (by decide) (by omega) (by omega) hf h (hr.trans (if_neg hb))

theorem timeCtrlWrite_whole (s : State) (h : v.getLsbD 0 = true → hasDomB s = true) :
    timeCtrlWrite s (BitVec.allOnes 64) v =
      wrB (wrB s rTimeCtrl 0 (v.getLsbD 0)) rTimeStatus 3 (decide (b2n (v.getLsbD 0) ≠ opDomain s)) := by
  have hop : opDomain (wrB s rTimeCtrl 0 (v.getLsbD 0)) = opDomain s := by
    unfold opDomain
    rw [show hasDomB (wrB s rTimeCtrl 0 (v.getLsbD 0)) = hasDomB s from rfl, rdF_congr (rd_wrB_other _ _ _ (by decide))]
  unfold timeCtrlWrite
  rw [if_neg (by decide)]
  dsimp only
  rw [if_neg (fun hb => hb.2 (h hb.1)), hop]

/-- A host's whole write of a storm meter. -/
theorem directWrite_storm {p : Fin 256} {m : Fin 3} (h : HostWrites s link (rStorm p.val m.val)) :
    directWrite s (hostWrite link (rStorm p.val m.val) v) noEnv =
      hostTook (stormWrite (gateTaken s) p.val m.val (BitVec.allOnes 64) v) (rStorm p.val m.val) v := by
  have hp := p.isLt
  have hm := m.isLt
  have ho : rStorm p.val m.val = 0x11000 + 32 * p.val + 8 * m.val := rfl
  have hcore : rStorm p.val m.val ≠ rCoreCtrl := by unfold rCoreCtrl; omega
  refine hostWrite_took ((by decide +kernel : ∀ (k : Fin 256) (j : Fin 3), journaledOff (rStorm k.val j.val) = true) p m) (by omega)
    (by omega) (foreignReg_common _ _ (by omega) (by omega) (by omega)) h ?_
  rw [writeKey_unbanked link (by omega) (by omega) (by omega) (by omega), regWrite_window _ _ _ _ _ _ (by omega) (by omega)]
  unfold windowWrite rLearnFlush rPortLearn rLearnBase rLearnCtrl rLearnHead
  rw [if_neg (by omega), if_neg (by omega), if_neg (by omega), if_neg (by omega), if_neg (by omega), if_neg (by omega),
    if_neg hcore, if_neg (by omega), if_pos (by omega), show (rStorm p.val m.val - 0x11000) / 32 = p.val by omega,
    show rStorm p.val m.val % 32 / 8 = m.val by omega]

/-- The writable bits of CORE_CTRL. -/
def coreCtrlMask : Word := fieldMask 48 32 ||| fieldMask 29 12 ||| fieldMask 1 0

/-- The writable bits of a storm meter. -/
def stormMask : Word := fieldMask 63 48 ||| fieldMask 32 32 ||| fieldMask 25 0

theorem field_fieldMask_or {hi lo : Nat} (k : Word) (h : hi < 64) :
    ∀ j, lo ≤ j → j ≤ hi → (fieldMask hi lo ||| k).getLsbD j = true := fun j hlo hhi => by
  rw [BitVec.getLsbD_or, getLsbD_fieldMask _ _ _ h, decide_eq_true hlo, decide_eq_true hhi]; rfl

theorem stormWrite_whole (s : State) (p m : Nat) :
    stormWrite s p m (BitVec.allOnes 64) v =
      wr (if field (rd s (rStorm p m)) 63 48 = field v 63 48 then
          fixBucket s (kStorm p m) (stormInc (rd s (rStorm p m))) (stormBurst (rd s (rStorm p m)) * 2 ^ 32)
        else setBucket s (kStorm p m) none) (rStorm p m)
        ((rd s (rStorm p m) &&& ~~~ stormMask) ||| (v &&& stormMask)) := by
  have hf : ∀ old : Word, field ((old &&& ~~~ stormMask) ||| (v &&& stormMask)) 63 48 = field v 63 48 :=
    fun old => field_merged (fun j hlo hhi => by unfold stormMask; rw [BitVec.or_assoc]; exact field_fieldMask_or _ (by omega) j hlo hhi) old v
  unfold stormWrite
  dsimp only
  rw [BitVec.allOnes_and, ← stormMask, hf]

theorem field_coreCtrl (old v : Word) : field ((old &&& ~~~ coreCtrlMask) ||| (v &&& coreCtrlMask)) 48 32 = field v 48 32 :=
  field_merged (fun j hlo hhi => by unfold coreCtrlMask; rw [BitVec.or_assoc]; exact field_fieldMask_or _ (by omega) j hlo hhi) old v

theorem coreCtrlWrite_fits {s : State}
    (h : (if field v 48 32 = globalReserve s then none else reserveFails s (field v 48 32)) = none) :
    coreCtrlWrite s (BitVec.allOnes 64) v =
      (wr s rCoreCtrl ((rd s rCoreCtrl &&& ~~~ coreCtrlMask) ||| (v &&& coreCtrlMask)), false) := by
  unfold coreCtrlWrite
  dsimp only
  rw [BitVec.allOnes_and, ← coreCtrlMask, field_coreCtrl, h]

theorem coreCtrlWrite_fails {s : State} {t : Nat}
    (h : (if field v 48 32 = globalReserve s then none else reserveFails s (field v 48 32)) = some t) :
    coreCtrlWrite s (BitVec.allOnes 64) v =
      (postHw (wrB s rCoreStatus 1 true) 0x4608 [(4, field v 48 32), (1, t)], true) := by
  unfold coreCtrlWrite
  dsimp only
  rw [BitVec.allOnes_and, ← coreCtrlMask, field_coreCtrl, h]

theorem regWrite_coreCtrl (s : State) :
    regWrite s (writeKey link rCoreCtrl) (BitVec.allOnes 64) v noEnv 0 id =
      ((coreCtrlWrite s (BitVec.allOnes 64) v).1,
        if (coreCtrlWrite s (BitVec.allOnes 64) v).2 then .bad .eHeadroom else .took) := by
  have ho : rCoreCtrl = 0xE000 := rfl
  rw [writeKey_unbanked link (by omega) (by omega) (by omega) (by omega), regWrite_window _ _ _ _ _ _ (by omega) (by omega)]
  unfold windowWrite rLearnFlush rPortLearn rLearnBase rLearnCtrl rLearnHead
  rw [if_neg (by omega), if_neg (by omega), if_neg (by omega), if_neg (by omega), if_neg (by omega), if_neg (by omega),
    if_pos rfl]

/-- A host's whole write of CORE_CTRL with a reserve every tile can hold. -/
theorem directWrite_coreCtrl_fits (h : HostWrites s link rCoreCtrl)
    (hfit : field v 48 32 = globalReserve s ∨ reserveFails (gateTaken s) (field v 48 32) = none) :
    directWrite s (hostWrite link rCoreCtrl v) noEnv = hostTook (wr (gateTaken s) rCoreCtrl
      ((rd (gateTaken s) rCoreCtrl &&& ~~~ coreCtrlMask) ||| (v &&& coreCtrlMask))) rCoreCtrl v := by
  have hnone : (if field v 48 32 = globalReserve (gateTaken s) then none else reserveFails (gateTaken s) (field v 48 32)) = none := by
    rw [show globalReserve (gateTaken s) = globalReserve s from rdF_gateTaken s (by decide) _ _]
    obtain hfit | hfit := hfit
    · exact if_pos hfit
    · rw [hfit, ite_self]
  refine hostWrite_took (by decide) (by decide) (by decide) (foreignReg_common _ _ (by decide) (by decide) (by decide)) h ?_
  rw [regWrite_coreCtrl, coreCtrlWrite_fits hnone]
  rfl

/-- A host's whole write of CORE_CTRL with a reserve that tile t cannot hold. -/
theorem directWrite_coreCtrl_fails (h : HostWrites s link rCoreCtrl) {t : Nat} (hne : field v 48 32 ≠ globalReserve s)
    (hfail : reserveFails (gateTaken s) (field v 48 32) = some t) :
    directWrite s (hostWrite link rCoreCtrl v) noEnv =
      gateLeft (postHw (wrB (gateTaken s) rCoreStatus 1 true) 0x4608 [(4, field v 48 32), (1, t)]) := by
  have hsome : (if field v 48 32 = globalReserve (gateTaken s) then none else reserveFails (gateTaken s) (field v 48 32)) = some t := by
    rw [show globalReserve (gateTaken s) = globalReserve s from rdF_gateTaken s (by decide) _ _, if_neg hne, hfail]
  refine hostWrite_untaken (r := .bad .eHeadroom) (by decide) (by decide) (by decide)
    (foreignReg_common _ _ (by decide) (by decide) (by decide)) h (by decide) ?_
  rw [regWrite_coreCtrl, coreCtrlWrite_fails hsome]
  rfl

/-- A host's whole write of a Case seed. -/
theorem directWrite_caseSeed {i : Fin 4} (h : HostWrites s link (rCaseSeed i.val)) :
    directWrite s (hostWrite link (rCaseSeed i.val) v) noEnv =
      if caseSlots s true + caseSlots s false = 0 then hostTook (wr (gateTaken s) (rCaseSeed i.val) v) (rCaseSeed i.val) v
      else gateLeft (gateTaken s) := by
  have hi := i.isLt
  have ho : rCaseSeed i.val = 0x8010 + 8 * i.val := rfl
  have hw : seedWritable (gateTaken s) = decide (caseSlots s true + caseSlots s false = 0) := by
    unfold seedWritable caseSlots; rw [gateTaken_forme]
  have hr : regWrite (gateTaken s) (writeKey link (rCaseSeed i.val)) (BitVec.allOnes 64) v noEnv 0 id =
      if seedWritable (gateTaken s) then (seedWrite (gateTaken s) i.val (BitVec.allOnes 64) v, .took)
      else (gateTaken s, .bad .eCheck) := by
    rw [writeKey_unbanked link (by omega) (by omega) (by omega) (by omega), regWrite_window _ _ _ _ _ _ (by omega) (by omega)]
    unfold windowWrite
    rw [if_pos (by omega), show (rCaseSeed i.val - 0x8010) / 8 = i.val by omega]
  have hj := (by decide : ∀ k : Fin 4, journaledOff (rCaseSeed k.val) = true) i
  have hf := foreignReg_common s (hostWrite link (rCaseSeed i.val) v) (o := rCaseSeed i.val) (by omega) (by omega) (by omega)
  split
  · next hz =>
    have hseed : seedWrite (gateTaken s) i.val (BitVec.allOnes 64) v = wr (gateTaken s) (rCaseSeed i.val) v := by
      unfold seedWrite
      rw [hw, decide_eq_true hz, if_pos rfl, merged_whole]
    exact hostWrite_took hj (by omega) (by omega) hf h (by rw [hr, hw, decide_eq_true hz, if_pos rfl, hseed])
  · next hz =>
    exact hostWrite_untaken (r := .bad .eCheck) hj (by omega) (by omega) hf h (by decide) (by rw [hr, hw, decide_eq_false hz]; rfl)

/-- A host's whole write of LEARN_FLUSH. -/
theorem directWrite_learnFlush (h : HostWrites s link rLearnFlush) :
    directWrite s (hostWrite link rLearnFlush v) noEnv =
      if learnFlushTaken (gateTaken s) v then hostTook (learnFlushWrite (gateTaken s) v) rLearnFlush v
      else gateLeft (learnFlushWrite (gateTaken s) v) := by
  have ho : rLearnFlush = 0x8038 := rfl
  have hr : regWrite (gateTaken s) (writeKey link rLearnFlush) (BitVec.allOnes 64) v noEnv 0 id =
      (learnFlushWrite (gateTaken s) v, tookIf (learnFlushTaken (gateTaken s) v)) := by
    rw [writeKey_unbanked link (by omega) (by omega) (by omega) (by omega), regWrite_window _ _ _ _ _ _ (by omega) (by omega)]
    unfold windowWrite
    rw [if_neg (by omega), if_pos rfl, BitVec.and_allOnes]
  have hf := foreignReg_common s (hostWrite link rLearnFlush v) (o := rLearnFlush) (by omega) (by omega) (by omega)
  split
  · next ht => exact hostWrite_took (by decide) (by omega) (by omega) hf h (by rw [hr, ht]; rfl)
  · next ht => exact hostWrite_untaken (r := .quiet) (by decide) (by omega) (by omega) hf h (by decide) (by rw [hr, Bool.not_eq_true _ |>.mp ht]; rfl)

/-- A LEARN_FLUSH of no listed scope does nothing, one of a listed scope joins the requests while there is room. -/
theorem directWrite_learnFlush_cases (h : HostWrites s link rLearnFlush) :
    directWrite s (hostWrite link rLearnFlush v) noEnv =
      if 5 ≤ field v 38 36 then gateLeft (gateTaken s)
      else if (s.learn.flushQ.filter (fun q => q.host)).length < 16 then
        hostTook { gateTaken s with learn := { (gateTaken s).learn with flushQ := (gateTaken s).learn.flushQ ++
          [⟨field v 38 36, field v 17 0, if field v 38 36 = 4 then rdF s rLearnFlushKey 61 48 else field v 31 18,
            rdF s rLearnFlushKey 47 0, true, s.learn.writes⟩] } } rLearnFlush v
      else gateLeft (wrB (gateTaken s) rCaseStatus 62 true) := by
  have hkey : ∀ hi lo, rdF (gateTaken s) rLearnFlushKey hi lo = rdF s rLearnFlushKey hi lo := rdF_gateTaken s (by decide)
  rw [directWrite_learnFlush h]
  unfold learnFlushTaken learnFlushWrite
  rw [gateTaken_learn, hkey, hkey]
  by_cases h5 : 5 ≤ field v 38 36
  · rw [decide_eq_false (by omega), Bool.false_and, if_neg (by decide)]
    simp only [if_pos h5]
  · by_cases h16 : (s.learn.flushQ.filter (fun q => q.host)).length < 16
    · have hfull : ¬ 16 ≤ (s.learn.flushQ.filter (fun q => q.host)).length := Nat.not_le.2 h16
      rw [decide_eq_true (by omega), decide_eq_true h16, Bool.true_and, if_pos rfl]
      simp only [if_neg h5, if_neg hfull, if_pos h16]
    · have hfull : 16 ≤ (s.learn.flushQ.filter (fun q => q.host)).length := Nat.not_lt.1 h16
      rw [decide_eq_false h16, Bool.and_false, if_neg (by decide)]
      simp only [if_neg h5, if_pos hfull, if_neg h16]

/-- A host's whole write of FRAG_CTRL. -/
theorem directWrite_fragCtrl (h : HostWrites s link rFragCtrl) :
    directWrite s (hostWrite link rFragCtrl v) noEnv =
      if v.getLsbD 0 then hostTook (fragFlush (gateTaken s)) rFragCtrl v else gateLeft (gateTaken s) := by
  have ho : rFragCtrl = 0x2008 := rfl
  have hr : regWrite (gateTaken s) (writeKey link rFragCtrl) (BitVec.allOnes 64) v noEnv 0 id =
      if v.getLsbD 0 then (fragFlush (gateTaken s), .took) else (gateTaken s, .quiet) := by
    rw [writeKey_unbanked link (by omega) (by omega) (by omega) (by omega), regWrite_low _ _ _ _ _ _ (by omega)]
    unfold lowWrite
    rw [BitVec.and_allOnes]
    rfl
  have hf := foreignReg_common s (hostWrite link rFragCtrl v) (o := rFragCtrl) (by omega) (by omega) (by omega)
  split
  · next hb => exact hostWrite_took (by decide) (by omega) (by omega) hf h (hr.trans (if_pos hb))
  · next hb => exact hostWrite_untaken (by decide) (by omega) (by omega) hf h (by decide) (hr.trans (if_neg hb))

end

theorem getLsbD_or_fieldMask (v : Word) (k : Nat) (j : Nat) (hk : k < 64) :
    (v ||| fieldMask k k).getLsbD j = (v.getLsbD j || decide (k = j)) := by
  rw [BitVec.getLsbD_or, getLsbD_fieldMask _ _ _ hk]
  rw [← Bool.decide_and]
  exact congrArg (v.getLsbD j || ·) (decide_eq_decide.2 (by omega))

/-- Settles O43: one lemma per register, and the branches of its write. -/
theorem dataPathWritesComplete : Obligations.DataPathWritesComplete := by
  unfold Obligations.DataPathWritesComplete
  intro s link port v c p a m cfg lifted
  have hwas : rdB a (rPortCfg p) 18 = rdB s (rPortCfg p) 18 := by
    have hp := port.isLt
    exact rdB_gateTaken s (by rw [show rPortCfg p = 0x1000000 + 0x10000 * port.val from rfl]; omega) 18
  have hca : Canon a := canon_gateTaken c
  refine ⟨fun h => ⟨fun hv => ?_, fun hv => ?_, ?_⟩, fun h => ⟨fun hd => ?_, fun hv hd => ?_⟩, fun meter h => ?_,
    fun h => ⟨fun hfit => ?_, fun t hne hfail => ?_⟩, fun reg h => ?_, fun h => ?_, fun h => ?_⟩
  · intro w
    have h18 : w.getLsbD 18 = false := by rw [getLsbD_or_fieldMask v 19 18 (by omega), hv]; rfl
    have h19 : w.getLsbD 19 = true := by rw [getLsbD_or_fieldMask v 19 19 (by omega)]; exact Bool.or_true _
    refine congrArg (nextOf s) ((directWrite_portCfg h).trans ?_)
    rw [portCfgWrite_up hca p h18, hwas]
    dsimp only
    rw [if_pos h19]; rfl
  · intro w
    have h18 : w.getLsbD 18 = true := by rw [getLsbD_or_fieldMask v 18 18 (by omega)]; exact Bool.or_true _
    have h19 : ¬ w.getLsbD 19 = true := by rw [getLsbD_or_fieldMask v 18 19 (by omega), hv]; decide
    refine congrArg (nextOf s) ((directWrite_portCfg h).trans ?_)
    rw [portCfgWrite_down hca p h18, hwas]
    dsimp only
    rw [if_neg h19]; rfl
  · intro e w he h18 h19 b
    have hexec : exec e s = nextOf s (directWrite s (hostWrite link (rPortCfg p) w) noEnv) := by
      simp only [List.mem_cons, Prod.mk.injEq, List.not_mem_nil, or_false] at he
      obtain ⟨rfl, rfl⟩ | ⟨rfl, rfl⟩ := he <;> rfl
    refine hexec.trans (congrArg (nextOf s) ((directWrite_portCfg h).trans ?_))
    rw [portCfgWrite_down hca p h18, hwas]
    dsimp only
    rw [if_pos h19]; rfl
  · have hdom : hasDomB a = hasDomB s := by unfold hasDomB; rw [gateTaken_variant]
    have hop : opDomain a = opDomain s := by unfold opDomain; rw [hdom, rdF_gateTaken s (by decide)]
    refine congrArg (nextOf s) ((directWrite_timeCtrl h).trans ?_)
    rw [if_neg (fun hb => hb.2 (hd hb.1)), timeCtrlWrite_whole _ (fun hv => hdom.trans (hd hv)), hop]
  · refine congrArg (nextOf s) ((directWrite_timeCtrl h).trans (if_pos ⟨hv, by rw [hd]; decide⟩))
  · refine congrArg (nextOf s) ((directWrite_storm h).trans ?_)
    rw [stormWrite_whole]; rfl
  · exact congrArg (nextOf s) (directWrite_coreCtrl_fits h hfit)
  · exact congrArg (nextOf s) (directWrite_coreCtrl_fails h hne hfail)
  · exact congrArg (nextOf s) (directWrite_caseSeed h)
  · exact congrArg (nextOf s) (directWrite_learnFlush_cases h)
  · exact congrArg (nextOf s) (directWrite_fragCtrl h)

end Sys2Proof.Machine
end

section
/-! PROOFS. A host's writes of the Peal, mirror, performance, pool and frame ring registers. -/
namespace Sys2Proof.Machine

-- Registers of RW fields alone

/-- The register's writable bits are `k`, and no bit of it is W1C. -/
def rwFields (o : Nat) (k : Word) : Bool :=
  (regInfo o).elim false (fun i => decide (BitVec.ofNat 64 i.rw = k) && decide (i.w1c = 0))

theorem plainWrite_rwFields {o : Nat} {k : Word} (h : rwFields o k = true) (ho : o < 2 ^ 32) (s : State) (v : Word) :
    plainWrite s o (BitVec.allOnes 64) v = wr s o ((rd s o &&& ~~~ k) ||| (v &&& k)) := by
  unfold rwFields at h
  cases hi : regInfo o with
  | none => simp [hi] at h
  | some i =>
    simp only [hi, Option.elim_some, Bool.and_eq_true, decide_eq_true_eq] at h
    obtain ⟨hrw, hw1c⟩ := h
    rw [plainWrite_eq s _ v ho hi]
    unfold mergeReg
    dsimp only
    rw [hrw, hw1c, BitVec.allOnes_and, show BitVec.ofNat 64 0 = 0#64 from rfl, BitVec.and_zero, BitVec.not_zero,
      BitVec.and_allOnes]

section
variable {s : State} {link : Bool} {v : Word}

-- Mirrors

theorem directWrite_mirrorSample {j : Fin 16} (h : HostWrites s link (rMirrorSample j.val)) :
    directWrite s (hostWrite link (rMirrorSample j.val) v) noEnv =
      let b := wr (gateTaken s) (rMirrorSample j.val)
        ((rd (gateTaken s) (rMirrorSample j.val) &&& ~~~ fieldMask 23 0) ||| (v &&& fieldMask 23 0))
      hostTook { b with mp := { b.mp with mirrorCount := smSet (fun _ => 0) b.mp.mirrorCount j.val 0 } } (rMirrorSample j.val) v := by
  have hj := j.isLt
  have ho : rMirrorSample j.val = 0x20108 + 0x40 * j.val := rfl
  have hcore : rMirrorSample j.val ≠ rCoreCtrl := by unfold rCoreCtrl; omega
  refine hostWrite_took ((by decide : ∀ k : Fin 16, journaledOff (rMirrorSample k.val) = true) j) (by omega) (by omega)
    (foreignReg_common _ _ (by omega) (by omega) (by omega)) h ?_
  rw [writeKey_unbanked link (by omega) (by omega) (by omega) (by omega), regWrite_window _ _ _ _ _ _ (by omega) (by omega)]
  unfold windowWrite rLearnFlush rPortLearn rLearnBase rLearnCtrl rLearnHead
  rw [if_neg (by omega), if_neg (by omega), if_neg (by omega), if_neg (by omega), if_neg (by omega), if_neg (by omega),
    if_neg hcore, if_neg (by omega), if_neg (by omega), if_neg (by omega), if_pos (by omega),
    show (rMirrorSample j.val - 0x20100) / 0x40 = j.val by omega,
    plainWrite_rwFields ((by decide : ∀ k : Fin 16, rwFields (rMirrorSample k.val) (fieldMask 23 0) = true) j) (by omega)]

-- Performance pages

theorem evsel_bound {b i : Nat} (hb : b < 43) (hi : i < 8) :
    0x3C00000 ≤ rPerf b (0x40 + 8 * i) ∧ rPerf b (0x40 + 8 * i) < 0x3C2B000 := by unfold rPerf; omega

theorem evsel_rwFields {b i : Nat} (hb : b < 43) (hi : i < 8) : rwFields (rPerf b (0x40 + 8 * i)) (fieldMask 15 0) = true :=
  (by decide +kernel : ∀ (x : Fin 43) (y : Fin 8), rwFields (rPerf x.val (0x40 + 8 * y.val)) (fieldMask 15 0) = true) ⟨b, hb⟩ ⟨i, hi⟩

theorem directWrite_evsel {b i : Nat} (hb : b < 43) (hi : i < 8) (h : HostWrites s link (rPerf b (0x40 + 8 * i))) :
    directWrite s (hostWrite link (rPerf b (0x40 + 8 * i)) v) noEnv =
      hostTook (perfWrite (gateTaken s) (rPerf b (0x40 + 8 * i)) (BitVec.allOnes 64) v) (rPerf b (0x40 + 8 * i)) v := by
  obtain ⟨hlo, hhi⟩ := evsel_bound hb hi
  have hj : journaledOff (rPerf b (0x40 + 8 * i)) = true :=
    (by decide +kernel : ∀ (x : Fin 43) (y : Fin 8), journaledOff (rPerf x.val (0x40 + 8 * y.val)) = true) ⟨b, hb⟩ ⟨i, hi⟩
  refine hostWrite_took hj (by omega) (by omega) (foreignReg_common _ _ (by omega) (by omega) (by omega)) h ?_
  rw [writeKey_unbanked link (by omega) (by omega) (by omega) (by omega), regWrite_perf _ _ _ _ _ _ hlo (by omega)]

/-- The value a register had is kept for the events of the cycle. -/
def perfHeld (s : State) (o : Nat) : State :=
  if s.core.now.perfOld.any (fun x => x.1 = o) then s
  else { s with core := { s.core with now := { s.core.now with perfOld := (o, rd s o) :: s.core.now.perfOld } } }

theorem rd_perfHeld (s : State) (o q : Nat) : rd (perfHeld s o) q = rd s q := by unfold perfHeld; split <;> rfl

theorem canon_perfHeld {s : State} (c : Canon s) (o : Nat) : Canon (perfHeld s o) := by
  unfold perfHeld
  split
  · exact c
  · exact c

theorem perfWrite_evsel (s : State) {b i : Nat} (hb : b < 43) (hi : i < 8) (v : Word) :
    perfWrite s (rPerf b (0x40 + 8 * i)) (BitVec.allOnes 64) v =
      wr (perfHeld s (rPerf b (0x40 + 8 * i))) (rPerf b (0x40 + 8 * i))
        ((rd s (rPerf b (0x40 + 8 * i)) &&& ~~~ fieldMask 15 0) ||| (v &&& fieldMask 15 0)) := by
  have hhi := (evsel_bound hb hi).2
  refine (plainWrite_rwFields (evsel_rwFields hb hi) (by omega) (perfHeld s _) v).trans ?_
  rw [rd_perfHeld]

theorem writesPerf_evsel {b i : Nat} (hb : b < 43) (hi : i < 8) : writesPerf (hostWrite link (rPerf b (0x40 + 8 * i)) v) = true := by
  have ho : rPerf b (0x40 + 8 * i) = 0x3C00000 + 0x1000 * b + (0x40 + 8 * i) := rfl
  unfold writesPerf
  rw [show (hostWrite link (rPerf b (0x40 + 8 * i)) v).offset = rPerf b (0x40 + 8 * i) from rfl,
    show (hostWrite link (rPerf b (0x40 + 8 * i)) v).data = leBytes 8 v.toNat from rfl, tlpWrites_word (by omega)]
  simp only [Option.getD_some, List.any_cons, List.any_nil, Bool.or_false, Bool.and_eq_true, Bool.or_eq_true, decide_eq_true_eq]
  omega

-- Peals

/-- A host's whole write of PEAL_CTRL. -/
theorem regWrite_pealCtrl (s : State) (j : Fin 16) (env : WriteEnv) :
    regWrite s (writeKey link (rPeal j.val 0)) (BitVec.allOnes 64) v env 0 id =
      (pealCtrlWrite s j.val (BitVec.allOnes 64) v env.pealList, tookIf (pealCtrlTaken s j.val (BitVec.allOnes 64) v)) := by
  have hj := j.isLt
  have ho : rPeal j.val 0 = 0x24000 + 0x80 * j.val := rfl
  have hcore : rPeal j.val 0 ≠ rCoreCtrl := by unfold rCoreCtrl; omega
  rw [writeKey_unbanked link (by omega) (by omega) (by omega) (by omega), regWrite_window _ _ _ _ _ _ (by omega) (by omega)]
  unfold windowWrite rLearnFlush rPortLearn rLearnBase rLearnCtrl rLearnHead
  rw [if_neg (by omega), if_neg (by omega), if_neg (by omega), if_neg (by omega), if_neg (by omega), if_neg (by omega),
    if_neg hcore, if_neg (by omega), if_neg (by omega), if_neg (by omega), if_neg (by omega), if_pos (by omega)]
  dsimp only
  rw [if_pos (by omega), show (rPeal j.val 0 - 0x24000) / 0x80 = j.val by omega]

theorem directWrite_pealCtrl {j : Fin 16} {env : WriteEnv} (h : HostWrites s link (rPeal j.val 0)) :
    directWrite s (hostWrite link (rPeal j.val 0) v) env =
      if pealCtrlTaken (gateTaken s) j.val (BitVec.allOnes 64) v then
        hostTook (pealCtrlWrite (gateTaken s) j.val (BitVec.allOnes 64) v env.pealList) (rPeal j.val 0) v
      else gateLeft (pealCtrlWrite (gateTaken s) j.val (BitVec.allOnes 64) v env.pealList) := by
  have hj := j.isLt
  have ho : rPeal j.val 0 = 0x24000 + 0x80 * j.val := rfl
  have hjr := (by decide : ∀ k : Fin 16, journaledOff (rPeal k.val 0) = true) j
  have hf := foreignReg_common s (hostWrite link (rPeal j.val 0) v) (o := rPeal j.val 0) (by omega) (by omega) (by omega)
  have hr := regWrite_pealCtrl (link := link) (v := v) (gateTaken s) j env
  split
  · next ht => exact hostWrite_took hjr (by omega) (by omega) hf h (by rw [hr, ht]; rfl)
  · next ht =>
    exact hostWrite_untaken (r := .quiet) hjr (by omega) (by omega) hf h (by decide) (by rw [hr, (Bool.not_eq_true _).mp ht]; rfl)

/-- The writable bits of PEAL_CTRL. -/
def pealCtrlMask : Word := fieldMask 63 63 ||| fieldMask 47 36 ||| fieldMask 22 16

/-- The fields a whole write leaves in PEAL_CTRL, ENABLE apart. -/
def pealMerged (s : State) (k : Nat) (w : Word) : State :=
  wr s (rPeal k 0) (setField ((rd s (rPeal k 0) &&& ~~~ pealCtrlMask) ||| (w &&& pealCtrlMask)) 63 63 0)

theorem pealCtrlWrite_whole (s : State) (k : Nat) (v : Word) (l : Option (List Nat)) :
    pealCtrlWrite s k (BitVec.allOnes 64) v l =
      if pealEnabled s k then if v.getLsbD 63 then s else pealDisable s k
      else if v.getLsbD 63 then pealEnable (pealMerged s k v) k l else pealMerged s k v := by
  have hm : pealCtrlMask.getLsbD 63 = true := by decide
  unfold pealCtrlWrite
  dsimp only
  rw [BitVec.allOnes_and, ← pealCtrlMask, getLsbD_merged hm]
  rfl

theorem pealLen_merged {s : State} (c : Canon s) (k : Nat) (w : Word) :
    rdF (pealMerged s k w) (rPeal k 0) 22 16 = field w 22 16 := by
  unfold rdF pealMerged
  rw [rd_wr_same c, field_setField_apart _ _ (by omega) (by omega) (by omega)]
  refine field_merged (fun j hlo hhi => ?_) _ _
  unfold pealCtrlMask
  rw [BitVec.or_comm]
  exact field_fieldMask_or _ (by omega) j hlo hhi

theorem pealEnabled_gateTaken (s : State) (j : Fin 16) : pealEnabled (gateTaken s) j.val = pealEnabled s j.val := by
  have hj := j.isLt
  exact rdB_gateTaken s (by rw [show rPeal j.val 0 = 0x24000 + 0x80 * j.val from rfl]; omega) 63

-- Pools

/-- A host's whole write of POOL_CFG. -/
theorem directWrite_poolCfg {j : Fin 16} (h : HostWrites s link (rPoolCfg j.val)) :
    directWrite s (hostWrite link (rPoolCfg j.val) v) noEnv =
      if poolCfgTaken (gateTaken s) j.val (BitVec.allOnes 64) v then
        hostTook (poolCfgWrite (gateTaken s) j.val (BitVec.allOnes 64) v) (rPoolCfg j.val) v
      else gateLeft (poolCfgWrite (gateTaken s) j.val (BitVec.allOnes 64) v) := by
  have hj := j.isLt
  have ho : rPoolCfg j.val = 0x400100 + 0x40 * j.val := rfl
  have hr : regWrite (gateTaken s) (writeKey link (rPoolCfg j.val)) (BitVec.allOnes 64) v noEnv 0 id =
      (poolCfgWrite (gateTaken s) j.val (BitVec.allOnes 64) v, tookIf (poolCfgTaken (gateTaken s) j.val (BitVec.allOnes 64) v)) := by
    rw [writeKey_unbanked link (by omega) (by omega) (by omega) (by omega), regWrite_pool _ _ _ _ _ _ (by omega) (by omega)]
    unfold poolRegWrite
    rw [if_pos (by omega)]
    dsimp only
    rw [if_pos (by omega), show (rPoolCfg j.val - 0x400100) / 0x40 = j.val by omega]
  have hjr := (by decide : ∀ k : Fin 16, journaledOff (rPoolCfg k.val) = true) j
  have hf := foreignReg_common s (hostWrite link (rPoolCfg j.val) v) (o := rPoolCfg j.val) (by omega) (by omega) (by omega)
  split
  · next ht => exact hostWrite_took hjr (by omega) (by omega) hf h (by rw [hr, ht]; rfl)
  · next ht =>
    exact hostWrite_untaken (r := .quiet) hjr (by omega) (by omega) hf h (by decide) (by rw [hr, (Bool.not_eq_true _).mp ht]; rfl)

/-- The writable bits of POOL_CFG. -/
def poolCfgMask : Word := fieldMask 63 32 ||| fieldMask 20 0

/-- The fields a whole write leaves in POOL_CFG, ENABLE apart. -/
def poolMerged (s : State) (k : Nat) (w : Word) : State :=
  wr s (rPoolCfg k) (setField ((rd s (rPoolCfg k) &&& ~~~ poolCfgMask) ||| (w &&& poolCfgMask)) 63 63 0)

theorem poolCfgWrite_whole (s : State) (k : Nat) (v : Word) :
    poolCfgWrite s k (BitVec.allOnes 64) v =
      if poolEnabled s k then
        if v.getLsbD 63 then s
        else if poolMayEnd s k then
          { wrB s (rPoolCfg k) 63 false with pool := { (wrB s (rPoolCfg k) 63 false).pool with
            poolInit := smSet (fun _ => false) (wrB s (rPoolCfg k) 63 false).pool.poolInit k false } }
        else wrB s (rPoolStatus k) 60 true
      else if ¬ v.getLsbD 63 then poolMerged s k v
      else if poolCfgOk (poolMerged s k v) k then poolEnable (poolMerged s k v) k
      else wrB (poolMerged s k v) (rPoolStatus k) 61 true := by
  have hm : poolCfgMask.getLsbD 63 = true := by decide
  unfold poolCfgWrite
  dsimp only
  rw [BitVec.allOnes_and, ← poolCfgMask, getLsbD_merged hm]
  rfl

theorem rd_gateTaken_pool (s : State) {o : Nat} (h : o < 0x800000) : rd (gateTaken s) o = rd s o := rd_gateTaken s (by omega)

theorem poolCfg_lt (j : Fin 16) : rPoolCfg j.val < 0x800000 ∧ rPoolStatus j.val < 0x800000 := by
  have hj := j.isLt
  unfold rPoolCfg rPoolStatus
  omega

theorem poolEnabled_gateTaken (s : State) (j : Fin 16) : poolEnabled (gateTaken s) j.val = poolEnabled s j.val :=
  rdB_congr (rd_gateTaken_pool s (poolCfg_lt j).1) 63

theorem poolMayEnd_gateTaken (s : State) (j : Fin 16) : poolMayEnd (gateTaken s) j.val = poolMayEnd s j.val := by
  have hcfg : ∀ hi lo, rdF (gateTaken s) (rPoolCfg j.val) hi lo = rdF s (rPoolCfg j.val) hi lo :=
    rdF_congr (rd_gateTaken_pool s (poolCfg_lt j).1)
  have hfr : ∀ r, r ∈ List.range 1024 → rd (gateTaken s) (rFr false r 8) = rd s (rFr false r 8) := fun r hr =>
    rd_gateTaken_pool s (by rw [List.mem_range] at hr; unfold rFr; rw [if_neg (by decide)]; omega)
  have hnamed : poolNamed (gateTaken s) j.val = poolNamed s j.val := by
    unfold poolNamed
    refine Bool.eq_iff_iff.2 ?_
    simp only [List.any_eq_true]
    exact exists_congr fun r => and_congr_right fun hr => by rw [rdB_congr (hfr r hr), rdF_congr (hfr r hr)]
  unfold poolMayEnd poolFaulted poolFree poolTaken poolCount poolLedger poolFifo
  rw [hnamed, gateTaken_pool, hcfg, hcfg, rdB_congr (rd_gateTaken_pool s (poolCfg_lt j).2)]

theorem poolMayEnd_iff (s : State) (k : Nat) :
    poolMayEnd s k = true ↔
      poolFaulted s k = true ∨ poolFree s k = poolCount s k ∧ poolFifo s k = [] ∧ poolNamed s k = false := by
  simp only [poolMayEnd, Bool.or_eq_true, Bool.and_eq_true, decide_eq_true_eq, List.isEmpty_iff, Bool.not_eq_true', and_assoc]

-- Frame rings

theorem frameLink_gateTaken (s : State) (r : Nat) : frameLink (gateTaken s) r = frameLink s r := by
  unfold frameLink; rw [gateTaken_bifNow, gateTaken_frameSplit]

theorem frEnabled_gateTaken (s : State) (tx : Bool) (r : Fin 1024) :
    rdB (gateTaken s) (rFr tx r.val 8) 0 = rdB s (rFr tx r.val 8) 0 := by
  have hr := r.isLt
  refine rdB_congr (rd_gateTaken_pool s ?_) 0
  rw [show rFr tx r.val 8 = (if tx then 0x420000 else 0x410000) + 0x40 * r.val + 8 from rfl]
  split <;> omega

theorem rxPoolOk_gateTaken (s : State) (r : Nat) (v : Word) :
    rxPoolOk (gateTaken s) r (field v 35 32) = true ↔
      poolEnabled s (field v 35 32) = true ∧ poolRegion s (field v 35 32) = b2n (frameLink s r) := by
  have hk : field v 35 32 < 16 := Nat.mod_lt _ (by decide)
  have hreg : poolRegion (gateTaken s) (field v 35 32) = poolRegion s (field v 35 32) :=
    rdF_congr (rd_gateTaken_pool s (poolCfg_lt ⟨_, hk⟩).1) _ _
  unfold rxPoolOk
  rw [poolEnabled_gateTaken s ⟨_, hk⟩, hreg, frameLink_gateTaken, Bool.and_eq_true, decide_eq_true_eq]

/-- A host's whole write of RX_CTRL or TX_CTRL of a frame ring of its own. -/
theorem directWrite_frCtrl {tx : Bool} {r : Fin 1024} (hown : frameLink s r.val = link) (h : HostWrites s link (rFr tx r.val 8)) :
    directWrite s (hostWrite link (rFr tx r.val 8) v) noEnv =
      if frCtrlTaken (gateTaken s) tx r.val (BitVec.allOnes 64) v then
        hostTook (frCtrlWrite (gateTaken s) tx r.val (BitVec.allOnes 64) v) (rFr tx r.val 8) v
      else gateLeft (frCtrlWrite (gateTaken s) tx r.val (BitVec.allOnes 64) v) := by
  have hr' := r.isLt
  have ho : rFr tx r.val 8 = (if tx then 0x420000 else 0x410000) + 0x40 * r.val + 8 := rfl
  have hblock : 0x410000 ≤ rFr tx r.val 8 ∧ rFr tx r.val 8 < 0x430000 ∧ decide (0x420000 ≤ rFr tx r.val 8) = tx ∧
      (rFr tx r.val 8 - 0x410000) % 0x10000 / 0x40 = r.val ∧ rFr tx r.val 8 % 0x40 = 8 := by
    rw [ho]
    cases tx
    · simp; omega
    · simp; omega
  obtain ⟨hlo, hhi, htx, hring, hreg⟩ := hblock
  have hr : regWrite (gateTaken s) (writeKey link (rFr tx r.val 8)) (BitVec.allOnes 64) v noEnv 0 id =
      (frCtrlWrite (gateTaken s) tx r.val (BitVec.allOnes 64) v, tookIf (frCtrlTaken (gateTaken s) tx r.val (BitVec.allOnes 64) v)) := by
    rw [writeKey_unbanked link (by omega) (by omega) (by omega) (by omega), regWrite_pool _ _ _ _ _ _ (by omega) (by omega)]
    unfold poolRegWrite
    rw [if_neg (by omega), if_pos ⟨hlo, hhi⟩]
    dsimp only
    rw [if_neg (by omega), if_pos hreg, htx, hring]
  have hjr : journaledOff (rFr tx r.val 8) = true :=
    (by decide +kernel : ∀ (b : Bool) (k : Fin 1024), journaledOff (rFr b k.val 8) = true) tx r
  have hf : foreignReg s (hostWrite link (rFr tx r.val 8) v) (rFr tx r.val 8) = false := by
    unfold foreignReg
    rw [if_neg (by omega), if_neg (by omega), if_pos ⟨hlo, hhi⟩, hring, hown]
    exact bne_self_eq_false link
  split
  · next ht => exact hostWrite_took hjr (by omega) (by omega) hf h (by rw [hr, ht]; rfl)
  · next ht =>
    exact hostWrite_untaken (r := .quiet) hjr (by omega) (by omega) hf h (by decide) (by rw [hr, (Bool.not_eq_true _).mp ht]; rfl)

theorem frCtrlWrite_whole (s : State) (tx : Bool) (r : Nat) (v : Word) :
    frCtrlWrite s tx r (BitVec.allOnes 64) v =
      if v.getLsbD 0 then
        if ¬ tx ∧ ¬ rxPoolOk s r (field v 35 32) then wrB s (rFr tx r 0x20) 8 true
        else if rdB s (rFr tx r 8) 0 then wrB (frFields s tx r v) (rFr tx r 8) 0 true
        else setFrState (wrB (frFields s tx r v) (rFr tx r 8) 0 true) tx r frRun
      else frFields (if rdB s (rFr tx r 8) 0 then frDisable s tx r else s) tx r v := by
  unfold frCtrlWrite
  dsimp only
  rw [merged_whole]

theorem frCtrlTaken_whole (s : State) (tx : Bool) (r : Nat) (v : Word) :
    frCtrlTaken s tx r (BitVec.allOnes 64) v = (!v.getLsbD 0 || tx || rxPoolOk s r (field v 35 32)) := by
  unfold frCtrlTaken
  rw [merged_whole]

end

-- What a Peal's list gives

/-- The list is short, holds a bad entry, or a register is out of range (R868). -/
def pealListBad (s : State) (k : Nat) (l : List Nat) : Prop :=
  l.length < rdF s (rPeal k 0) 22 16 ∨ (∃ x ∈ l.take (rdF s (rPeal k 0) 22 16), pealEntryBad s x = true) ∨
    pealRegsBad s k (pealTotal ((l.take (rdF s (rPeal k 0) 22 16)).map pealEntry)) = true

theorem pealListBad_iff (s : State) (k : Nat) (l : List Nat) :
    let m := l.take (rdF s (rPeal k 0) 22 16)
    (m.findIdx (pealEntryBad s) < m.length ∨ m.length < rdF s (rPeal k 0) 22 16 ∨ pealRegsBad s k (pealTotal (m.map pealEntry)) = true)
      ↔ pealListBad s k l := by
  intro m
  have hshort : m.length < rdF s (rPeal k 0) 22 16 ↔ l.length < rdF s (rPeal k 0) 22 16 := by
    rw [List.length_take]; omega
  rw [List.findIdx_lt_length, hshort]
  exact or_left_comm

/-- The state in which a Peal schedule of the list `l` is in operation (R867). -/
def pealStarted (s : State) (k : Nat) (l : List Nat) : State :=
  let c := setPeal (wrB s (rPeal k 0) 63 true) k
    { pealOf s k with list := (l.take (rdF s (rPeal k 0) 22 16)).map pealEntry, seq := 0, passed := 0, sched := 0, held := false }
  wrB (setPealNext c k (pealFirst c k)) (rPeal k 0x48) 0 true

/-- The state in which entry i of a Peal's list stopped it (R868). -/
def pealRefused (s : State) (k i : Nat) : State :=
  postHw (wrB (wrB s (rPeal k 0) 63 false) (rPeal k 0x48) 1 true) 0x8E03 [(1, k), (1, 0), (8, i)]

theorem pealEnable_good {s : State} {k : Nat} {l : List Nat} (h : ¬ pealListBad s k l) : pealEnable s k (some l) = pealStarted s k l :=
  if_neg (mt (pealListBad_iff s k l).1 h)

theorem pealEnable_bad {s : State} {k : Nat} {l : List Nat} (h : pealListBad s k l) :
    pealEnable s k (some l) = pealRefused s k ((l.take (rdF s (rPeal k 0) 22 16)).findIdx (pealEntryBad s)) :=
  if_pos ((pealListBad_iff s k l).2 h)

theorem getLsbD_on (v : Word) : (v ||| fieldMask 63 63).getLsbD 63 = true := by
  rw [getLsbD_or_fieldMask v 63 63 (by omega)]; exact Bool.or_true _

theorem getLsbD_off (v : Word) : (v &&& ~~~ fieldMask 63 63).getLsbD 63 = false := by
  rw [BitVec.getLsbD_and, show (~~~ fieldMask 63 63).getLsbD 63 = false by decide, Bool.and_false]

theorem field_on (v : Word) : field (v ||| fieldMask 63 63) 22 16 = field v 22 16 := by
  refine Nat.eq_of_testBit_eq fun j => ?_
  rw [testBit_field, testBit_field]
  by_cases h : j < 22 + 1 - 16
  · rw [getLsbD_or_fieldMask v 63 _ (by omega), decide_eq_false (show ¬ 63 = 16 + j by omega), Bool.or_false]
  · rw [decide_eq_false h, Bool.false_and, Bool.false_and]

section
variable {s : State} {link : Bool} {v : Word} {j : Fin 16}

/-- ENABLE 1 of a stopped schedule. -/
theorem directWrite_pealOn (h : HostWrites s link (rPeal j.val 0)) (hen : pealEnabled s j.val = false) (env : WriteEnv) :
    directWrite s (hostWrite link (rPeal j.val 0) (v ||| fieldMask 63 63)) env =
      hostTook (pealEnable (pealMerged (gateTaken s) j.val (v ||| fieldMask 63 63)) j.val env.pealList) (rPeal j.val 0)
        (v ||| fieldMask 63 63) := by
  have hen' : pealEnabled (gateTaken s) j.val = false := (pealEnabled_gateTaken s j).trans hen
  rw [directWrite_pealCtrl h, pealCtrlWrite_whole, if_pos (by unfold pealCtrlTaken; rw [hen']; rfl), hen', if_neg (by decide),
    if_pos (getLsbD_on v)]

/-- ENABLE 0 of a stopped schedule. -/
theorem directWrite_pealOff (h : HostWrites s link (rPeal j.val 0)) (hen : pealEnabled s j.val = false) (env : WriteEnv) :
    directWrite s (hostWrite link (rPeal j.val 0) (v &&& ~~~ fieldMask 63 63)) env =
      hostTook (pealMerged (gateTaken s) j.val (v &&& ~~~ fieldMask 63 63)) (rPeal j.val 0) (v &&& ~~~ fieldMask 63 63) := by
  have hen' : pealEnabled (gateTaken s) j.val = false := (pealEnabled_gateTaken s j).trans hen
  rw [directWrite_pealCtrl h, pealCtrlWrite_whole, if_pos (by unfold pealCtrlTaken; rw [hen']; rfl), hen', if_neg (by decide),
    getLsbD_off, if_neg (by decide)]

/-- ENABLE 1 of a schedule in operation. -/
theorem directWrite_pealOn_again (h : HostWrites s link (rPeal j.val 0)) (hen : pealEnabled s j.val = true) (env : WriteEnv) :
    directWrite s (hostWrite link (rPeal j.val 0) (v ||| fieldMask 63 63)) env = gateLeft (gateTaken s) := by
  have hen' : pealEnabled (gateTaken s) j.val = true := (pealEnabled_gateTaken s j).trans hen
  rw [directWrite_pealCtrl h, pealCtrlWrite_whole, if_neg (by unfold pealCtrlTaken; rw [hen', getLsbD_on]; decide), hen', if_pos rfl,
    if_pos (getLsbD_on v)]

/-- ENABLE 0 of a schedule in operation. -/
theorem directWrite_pealStop (h : HostWrites s link (rPeal j.val 0)) (hen : pealEnabled s j.val = true) (env : WriteEnv) :
    directWrite s (hostWrite link (rPeal j.val 0) (v &&& ~~~ fieldMask 63 63)) env =
      hostTook (pealDisable (gateTaken s) j.val) (rPeal j.val 0) (v &&& ~~~ fieldMask 63 63) := by
  have hen' : pealEnabled (gateTaken s) j.val = true := (pealEnabled_gateTaken s j).trans hen
  rw [directWrite_pealCtrl h, pealCtrlWrite_whole, if_pos (by unfold pealCtrlTaken; rw [getLsbD_off, hen']; decide), hen', if_pos rfl,
    getLsbD_off, if_neg (by decide)]

/-- ENABLE 1 of a pool that is not enabled. -/
theorem directWrite_poolOn (h : HostWrites s link (rPoolCfg j.val)) (hen : poolEnabled s j.val = false) :
    directWrite s (hostWrite link (rPoolCfg j.val) (v ||| fieldMask 63 63)) noEnv =
      let b := poolMerged (gateTaken s) j.val (v ||| fieldMask 63 63)
      hostTook (if poolCfgOk b j.val then poolEnable b j.val else wrB b (rPoolStatus j.val) 61 true) (rPoolCfg j.val)
        (v ||| fieldMask 63 63) := by
  have hen' : poolEnabled (gateTaken s) j.val = false := (poolEnabled_gateTaken s j).trans hen
  rw [directWrite_poolCfg h, poolCfgWrite_whole, if_pos (by unfold poolCfgTaken; rw [hen']; rfl), hen', if_neg (by decide),
    if_neg (not_not.2 (getLsbD_on v))]

/-- ENABLE 0 of a pool that is not enabled. -/
theorem directWrite_poolOff (h : HostWrites s link (rPoolCfg j.val)) (hen : poolEnabled s j.val = false) :
    directWrite s (hostWrite link (rPoolCfg j.val) (v &&& ~~~ fieldMask 63 63)) noEnv =
      hostTook (poolMerged (gateTaken s) j.val (v &&& ~~~ fieldMask 63 63)) (rPoolCfg j.val) (v &&& ~~~ fieldMask 63 63) := by
  have hen' : poolEnabled (gateTaken s) j.val = false := (poolEnabled_gateTaken s j).trans hen
  rw [directWrite_poolCfg h, poolCfgWrite_whole, if_pos (by unfold poolCfgTaken; rw [hen']; rfl), hen', if_neg (by decide),
    if_pos (by rw [getLsbD_off]; decide)]

/-- ENABLE 1 of an enabled pool. -/
theorem directWrite_poolOn_again (h : HostWrites s link (rPoolCfg j.val)) (hen : poolEnabled s j.val = true) :
    directWrite s (hostWrite link (rPoolCfg j.val) (v ||| fieldMask 63 63)) noEnv = gateLeft (gateTaken s) := by
  have hen' : poolEnabled (gateTaken s) j.val = true := (poolEnabled_gateTaken s j).trans hen
  rw [directWrite_poolCfg h, poolCfgWrite_whole, if_neg (by unfold poolCfgTaken; rw [hen', getLsbD_on]; simp), hen', if_pos rfl,
    if_pos (getLsbD_on v)]

/-- ENABLE 0 of an enabled pool that may end. -/
theorem directWrite_poolEnd (h : HostWrites s link (rPoolCfg j.val)) (hen : poolEnabled s j.val = true)
    (hend : poolMayEnd s j.val = true) :
    directWrite s (hostWrite link (rPoolCfg j.val) (v &&& ~~~ fieldMask 63 63)) noEnv =
      let c := wrB (gateTaken s) (rPoolCfg j.val) 63 false
      hostTook { c with pool := { c.pool with poolInit := smSet (fun _ => false) c.pool.poolInit j.val false } } (rPoolCfg j.val)
        (v &&& ~~~ fieldMask 63 63) := by
  have hen' : poolEnabled (gateTaken s) j.val = true := (poolEnabled_gateTaken s j).trans hen
  have hend' : poolMayEnd (gateTaken s) j.val = true := (poolMayEnd_gateTaken s j).trans hend
  rw [directWrite_poolCfg h, poolCfgWrite_whole, if_pos (by unfold poolCfgTaken; rw [getLsbD_off, hend', hen']; decide), hen',
    if_pos rfl, getLsbD_off, if_neg (by decide), if_pos hend']

/-- ENABLE 0 of an enabled pool that may not end. -/
theorem directWrite_poolKept (h : HostWrites s link (rPoolCfg j.val)) (hen : poolEnabled s j.val = true)
    (hend : poolMayEnd s j.val = false) :
    directWrite s (hostWrite link (rPoolCfg j.val) (v &&& ~~~ fieldMask 63 63)) noEnv =
      gateLeft (wrB (gateTaken s) (rPoolStatus j.val) 60 true) := by
  have hen' : poolEnabled (gateTaken s) j.val = true := (poolEnabled_gateTaken s j).trans hen
  have hend' : poolMayEnd (gateTaken s) j.val = false := (poolMayEnd_gateTaken s j).trans hend
  rw [directWrite_poolCfg h, poolCfgWrite_whole, if_neg (by unfold poolCfgTaken; rw [hend', hen']; simp), hen',
    if_pos rfl, getLsbD_off, if_neg (by decide), hend', if_neg (by decide)]

end

/-- Settles O44: one lemma per register and per state it is in, and the branches of its write. -/
theorem observationAndPoolWritesComplete : Obligations.ObservationAndPoolWritesComplete := by
  unfold Obligations.ObservationAndPoolWritesComplete
  intro s link v c a
  have hca : Canon a := canon_gateTaken c
  refine ⟨?_, ?_, ?_, ?_, ?_⟩
  · intro j k h m merged on off b failed
    have hlen : rdF b (rPeal k 0) 22 16 = field v 22 16 := (pealLen_merged hca k on).trans (field_on v)
    refine ⟨fun hen => ⟨fun l => ?_, ?_, ?_⟩, fun hen => ⟨fun l => ?_, ?_⟩⟩
    · intro list
      refine ⟨fun hle hgood hregs => ?_, fun hbad => ?_⟩
      · intro c'
        have hok : ¬ pealListBad b k l := by
          unfold pealListBad
          rw [hlen]
          rintro (hshort | ⟨x, hx, hbad⟩ | hrange)
          · omega
          · rw [hgood x hx] at hbad; cases hbad
          · rw [hregs] at hrange; cases hrange
        refine congrArg (nextOf s) ((directWrite_pealOn h hen _).trans (congrArg (hostTook · (rPeal k 0) on) ?_))
        refine (pealEnable_good hok).trans ?_
        unfold pealStarted
        rw [hlen]
      · have hnot : pealListBad b k l := by unfold pealListBad; rw [hlen]; exact hbad
        refine congrArg (nextOf s) ((directWrite_pealOn h hen _).trans (congrArg (hostTook · (rPeal k 0) on) ?_))
        refine (pealEnable_bad hnot).trans ?_
        rw [hlen]; rfl
    · exact congrArg (nextOf s) (directWrite_pealOn h hen _)
    · exact congrArg (nextOf s) (directWrite_pealOff h hen _)
    · exact congrArg (nextOf s) (directWrite_pealOn_again h hen _)
    · exact congrArg (nextOf s) (directWrite_pealStop h hen _)
  · intro j h b
    exact congrArg (nextOf s) (directWrite_mirrorSample h)
  · intro b i hb hi o h
    refine ⟨?_, ?_, fun q hq => ?_⟩
    · exact (congrArg (nextOf s) (onlyIf_pos (writesPerf_evsel hb hi) _ _)).trans (congrArg (nextOf s) (directWrite_evsel hb hi h))
    · rw [perfWrite_evsel _ hb hi, rd_wr_same (canon_perfHeld hca _)]
    · rw [perfWrite_evsel _ hb hi, rd_wr_other _ _ hq, rd_perfHeld]
  · intro j k h m merged on off
    refine ⟨fun hen => ⟨?_, ?_⟩, fun hen => ?_⟩
    · exact congrArg (nextOf s) (directWrite_poolOn h hen)
    · exact congrArg (nextOf s) (directWrite_poolOff h hen)
    · intro free
      refine ⟨fun hfree => ?_, fun hfree => ?_, ?_⟩
      · exact congrArg (nextOf s) (directWrite_poolEnd h hen ((poolMayEnd_iff s k).2 hfree))
      · exact congrArg (nextOf s) (directWrite_poolKept h hen ((Bool.not_eq_true _).mp (mt (poolMayEnd_iff s k).1 hfree)))
      · exact congrArg (nextOf s) (directWrite_poolOn_again h hen)
  · intro ring r hown e tx he h
    have hexec : exec e s = nextOf s (directWrite s (hostWrite link (rFr tx r 8) v) noEnv) := by
      simp only [List.mem_cons, Prod.mk.injEq, List.not_mem_nil, or_false] at he
      obtain ⟨rfl, rfl⟩ | ⟨rfl, rfl⟩ := he <;> rfl
    have hset : rdB a (rFr tx r 8) 0 = rdB s (rFr tx r 8) 0 := frEnabled_gateTaken s tx ring
    have hpool : rxPoolOk a r (field v 35 32) = true ↔
        poolEnabled s (field v 35 32) = true ∧ poolRegion s (field v 35 32) = b2n link := by
      rw [← hown]; exact rxPoolOk_gateTaken s r v
    refine ⟨fun hv => ⟨fun hok => ?_, fun htx hbad => ?_⟩, fun hv => ?_⟩
    · intro b
      have hok' : (tx || rxPoolOk a r (field v 35 32)) = true := by rw [Bool.or_eq_true, hpool]; exact hok
      have hbad : ¬ (¬ tx = true ∧ ¬ rxPoolOk a r (field v 35 32) = true) := by rw [← not_or, not_not, hpool]; exact hok
      refine hexec.trans (congrArg (nextOf s) ((directWrite_frCtrl hown h).trans ?_))
      rw [frCtrlTaken_whole, frCtrlWrite_whole, Bool.or_assoc, hok', Bool.or_true, if_pos rfl, if_pos hv, if_neg hbad, hset]
      rfl
    · have hno : rxPoolOk a r (field v 35 32) = false := (Bool.not_eq_true _).mp (mt hpool.1 hbad)
      refine hexec.trans (congrArg (nextOf s) ((directWrite_frCtrl hown h).trans ?_))
      rw [frCtrlTaken_whole, frCtrlWrite_whole, hv, htx, hno, if_neg (by decide), if_pos rfl,
        if_pos ⟨Bool.false_ne_true, Bool.false_ne_true⟩]
    · refine hexec.trans (congrArg (nextOf s) ((directWrite_frCtrl hown h).trans ?_))
      rw [frCtrlTaken_whole, frCtrlWrite_whole, hv, Bool.not_false, Bool.true_or, Bool.true_or, if_pos rfl, if_neg (by decide), hset]

end Sys2Proof.Machine
end

section
/-! PROOFS. Reads of BAR0 and BAR2. -/
namespace Sys2Proof.Machine

section
variable {s : State} {r : BarRead} (hr : readable s r = true)
include hr

theorem exec_rsRead_bar0 (hw : readWide r = true) (hb : r.bar2 = false) :
    exec (.rsRead r) s = nextOf s
      (dropLatch ((List.range (r.size / 8)).foldl (fun t i => readOne t r (r.offset + 8 * i)) (gateDrain s)) r.link r.fn) := by
  rw [exec_rsRead, execRsRead, onlyIf_pos (by rw [hw, hr]; rfl), hb, if_neg (by decide)]

theorem exec_rsRead_bar2 (hw : readWide r = true) (hb : r.bar2 = true) :
    exec (.rsRead r) s = nextOf s (readDoorbells s r) := by
  rw [exec_rsRead, execRsRead, onlyIf_pos (by rw [hw, hr]; rfl), hb, if_pos rfl]

theorem exec_narrowRead_bar2 (hn : readNarrow r = true) (hb : r.bar2 = true) :
    exec (.narrowReadLow r) s = nextOf s (readDoorbells s r) := by
  rw [exec_narrowReadLow, execNarrowReadLow, onlyIf_pos (by rw [hn, hr]; rfl), hb, if_pos rfl]

theorem exec_opTimeRead_runs (ht : isTime0 r.offset = true) (h8 : r.size = 8) (hfn : r.fn = 0) (hb : r.bar2 = false) :
    exec (.opTimeRead r) s = nextOf s (dropLatch (readOne (gateDrain s) r r.offset) r.link r.fn) := by
  rw [exec_opTimeRead, execOpTimeRead, onlyIf_pos (by simp only [ht, h8, hfn, hb, hr, decide_true, Bool.not_false, Bool.and_self])]

theorem exec_badRead_runs (hw : readWide r = false) (hn : readNarrow r = false) (hb : r.bar2 = false) :
    exec (.bar0BadRead r) s = nextOf s
      (dropLatch (accessErr (emit s (.readData r.link r.offset 0)) r.link accBadRead r.offset) r.link r.fn) := by
  rw [exec_bar0BadRead, execBar0BadRead, onlyIf_pos (by rw [hw, hn, hb, hr]; rfl)]

end

theorem readOne_none {t : State} {r : BarRead} {o : Nat} (h : readTarget t r.fn o = none) :
    readOne t r o = emit t (.readData r.link o 0#64) := by
  unfold readOne; rw [h]; rfl

theorem readOne_some {t : State} {r : BarRead} {o x : Nat} (h : readTarget t r.fn o = some x) :
    readOne t r o = emit (readEffect t r.link x).1 (.readData r.link o (readEffect t r.link x).2) := by
  unfold readOne; rw [h]

/-- A read of word 0 of a time captures word 1 (R774). -/
theorem readEffect_time0 (t : State) (l : Bool) {o : Nat} (h : isTime0 o = true) : readEffect t l o = readTime0 t o := if_pos h

theorem readTime0_dom (t : State) {d : Nat} (hd : d < 2) :
    readTime0 t (rDomTime0 d) =
      (wr t (rDomTime1 d) (BitVec.ofNat 64 (t128w1 (domOf t d).t (domGen t d))), BitVec.ofNat 64 (secOf (domOf t d).t)) := by
  match d, hd with
  | 0, _ => rfl
  | 1, _ => rfl

/-- What a 4-byte read of a register with no RS field finds (R1013). -/
theorem narrowValue_plain {t : State} {r : BarRead} {o : Nat} {i : RegInfo} (ht : readTarget t r.fn o = some o)
    (hi : regInfo o = some i) (hrs : i.rs = 0) (h0 : isTime0 o = false) : narrowValue t r o = look t r.link o := by
  unfold narrowValue
  rw [ht]
  dsimp only
  rw [hi, if_pos (show (some i).elim 0 (fun i => i.rs) = 0 from hrs), h0, if_neg (fun h => Bool.false_ne_true h.1)]

section
variable {s : State} {link : Bool} {o : Nat} (h8 : o % 8 = 0) (hdev : stSelftest ≤ devState s)
  (hlink : link = true → s.host.bifNow = true)
include hdev hlink

theorem readable_of {r : BarRead} (hr : r.link = link) : readable s r = true := by
  unfold readable
  rw [decide_eq_true hdev, hr]
  cases link with
  | false => rfl
  | true => rw [hlink rfl]; rfl

include h8

theorem exec_rsRead_word :
    exec (.rsRead ⟨link, 0, o, 8, false⟩) s = nextOf s (dropLatch (readOne (gateDrain s) ⟨link, 0, o, 8, false⟩ o) link 0) := by
  have hw : readWide ⟨link, 0, o, 8, false⟩ = true := by
    have h64 : o % 64 + 8 ≤ 64 := by omega
    simp only [readWide, h8, h64, decide_true, Bool.and_self, le_refl, Nat.mod_self]
  refine (exec_rsRead_bar0 (readable_of hdev hlink rfl) hw rfl).trans ?_
  rw [show List.range (8 / 8) = [0] from rfl, List.foldl_cons, List.foldl_nil, Nat.mul_zero, Nat.add_zero]

section
variable {i : RegInfo} (ht : readTarget (gateDrain s) 0 o = some o) (hi : regInfo o = some i) (hrs : i.rs = 0)
  (h0 : isTime0 o = false)
include ht hi hrs h0

/-- A 4-byte read of a low half. -/
theorem exec_narrowRead_low :
    exec (.narrowReadLow ⟨link, 0, o, 4, false⟩) s = nextOf s (setLatch
      (emit (look (gateDrain s) link o).1 (.readData link o (BitVec.ofNat 64 ((look (gateDrain s) link o).2.toNat % 2 ^ 32))))
      link 0 o ((look (gateDrain s) link o).2.toNat / 2 ^ 32)) := by
  have hn : readNarrow ⟨link, 0, o, 4, false⟩ = true := by
    simp only [readNarrow, decide_true, Bool.true_and, decide_eq_true_eq]
    omega
  rw [exec_narrowReadLow, execNarrowReadLow, onlyIf_pos (by rw [hn, readable_of hdev hlink rfl]; rfl)]
  simp only [Bool.false_eq_true, if_false, h8, if_true, Nat.sub_zero, narrowValue_plain (r := ⟨link, 0, o, 4, false⟩) ht hi hrs h0]

/-- A 4-byte read of the high half of the register the latch holds. -/
theorem exec_narrowRead_high {hi' : Nat} (hl : latchOf s link 0 = some (o, hi')) :
    exec (.narrowReadLow ⟨link, 0, o + 4, 4, false⟩) s = nextOf s (dropLatch
      (emit (look (gateDrain s) link o).1 (.readData link (o + 4) (BitVec.ofNat 64 hi'))) link 0) := by
  have hn : readNarrow ⟨link, 0, o + 4, 4, false⟩ = true := by
    simp only [readNarrow, decide_true, Bool.true_and, decide_eq_true_eq]
    omega
  have h4 : (o + 4) % 8 = 4 := by omega
  rw [exec_narrowReadLow, execNarrowReadLow, onlyIf_pos (by rw [hn, readable_of hdev hlink rfl]; rfl)]
  simp only [Bool.false_eq_true, if_false, h4, Nat.add_sub_cancel, show ¬ 4 = 0 by decide,
    narrowValue_plain (r := ⟨link, 0, o + 4, 4, false⟩) ht hi hrs h0, hl, if_true]

end
end

/-- Settles O45: one lemma per form of read. -/
theorem registerReadsComplete : Obligations.RegisterReadsComplete := by
  unfold Obligations.RegisterReadsComplete
  intro s link o h8 hdev hlink g drop
  refine ⟨fun x hx => ?_, fun hnone => ?_, fun hx => ?_, fun d hd hx => ?_, fun i hx hi hrs h0 => ?_, fun r hr hw hb => ?_,
    fun r hr hb => ?_, fun r hr hw hn hb => ?_⟩
  · refine (exec_rsRead_word h8 hdev hlink).trans ?_
    rw [readOne_some hx]; rfl
  · refine (exec_rsRead_word h8 hdev hlink).trans ?_
    rw [readOne_none hnone]; rfl
  · refine (exec_opTimeRead_runs (r := ⟨link, 0, rOpTime0, 8, false⟩) (readable_of hdev hlink rfl)
      (show isTime0 rOpTime0 = true by decide) rfl rfl rfl).trans ?_
    rw [readOne_some hx, readEffect_time0 _ _ (by decide)]; rfl
  · have h0 : isTime0 (rDomTime0 d) = true := (by decide : ∀ k : Fin 2, isTime0 (rDomTime0 k.val) = true) ⟨d, hd⟩
    refine (exec_opTimeRead_runs (r := ⟨link, 0, rDomTime0 d, 8, false⟩) (readable_of hdev hlink rfl) h0 rfl rfl rfl).trans ?_
    rw [readOne_some hx, readEffect_time0 _ _ h0, readTime0_dom _ hd]; rfl
  · intro x
    refine ⟨exec_narrowRead_low h8 hdev hlink hx hi hrs h0, fun hi' hl => ?_⟩
    exact exec_narrowRead_high h8 hdev hlink hx hi hrs h0 hl
  · subst hr
    exact exec_rsRead_bar0 (readable_of hdev hlink rfl) hw hb
  · subst hr
    exact ⟨fun hw => exec_rsRead_bar2 (readable_of hdev hlink rfl) hw hb, fun hn => exec_narrowRead_bar2 (readable_of hdev hlink rfl) hn hb⟩
  · subst hr
    exact exec_badRead_runs (readable_of hdev hlink rfl) hw hn hb

end Sys2Proof.Machine
end

section
/-! PROOFS. The events of a host link. -/
namespace Sys2Proof.Machine

/-- The message of one vector that MSIX flushes. -/
def sendPending (l : Bool) (s : State) (k : Nat) : State :=
  emit { s with host := { s.host with msixPend := smSet (fun _ => false) s.host.msixPend k false } } (.msix l (k / 4096 % 2) (k % 4096))

/-- The pending vectors of a link that may be sent (R1022). -/
def pendingDue (s : State) (l : Bool) : List Nat :=
  (s.host.msixPend.map (fun x => x.1)).filter (fun k => k / 4096 / 2 == b2n l
    && !smGet (fun _ => true) s.host.msixMask k && smGet (fun _ => false) s.host.msixEn (k / 4096))

theorem msixFlush_eq (s : State) (l : Bool) : msixFlush s l = (pendingDue s l).foldl (sendPending l) s := rfl

theorem foldl_sendPending_out (l : Bool) (ks : List Nat) (s : State) :
    (ks.foldl (sendPending l) s).out = (ks.map (fun k => Output.msix l (k / 4096 % 2) (k % 4096))).reverse ++ s.out := by
  induction ks generalizing s with
  | nil => rfl
  | cons k ks ih =>
    rw [List.foldl_cons, ih, List.map_cons, List.reverse_cons, List.append_assoc]
    rfl

theorem foldl_sendPending_bifNow (l : Bool) (ks : List Nat) (s : State) :
    (ks.foldl (sendPending l) s).host.bifNow = s.host.bifNow := by
  induction ks generalizing s with
  | nil => rfl
  | cons k ks ih => exact ih _

theorem msixFlush_bifNow (s : State) (l : Bool) : (msixFlush s l).host.bifNow = s.host.bifNow := foldl_sendPending_bifNow l _ s

theorem postHw_bifNow (s : State) (code : Nat) (d : List (Nat × Nat)) : (postHw s code d).host.bifNow = s.host.bifNow := by
  have h := congrArg HostSt.bifNow ((postHw_keeps (Within.refl _) s code d (Keeps.refl _ _)).frame.host rfl)
  exact h

theorem setLinkStatus_bifNow (s : State) (l up : Bool) (speed width : Nat) (flit : Bool) :
    (setLinkStatus s l up speed width flit).host.bifNow = s.host.bifNow := by
  cases l <;> rfl

section
variable {s : State} {link : Bool} (hlink : link = true → s.host.bifNow = true)
include hlink

theorem linkExists_of : linkExists s link = true := by
  cases link with
  | false => rfl
  | true => exact hlink rfl

theorem exec_hostLinkDown_runs {cause : Fin 3} (h : cause.val = 2 ∨ hostLinkUp s link = true) (hl : cause.val = 2 → link = true) :
    exec (.hostLinkDown link cause) s = nextOf s (postHw (wrB
      (setLinkStatus (stopFrames (resetLinkRings (functionsReset s link) link) link) link false 0 0 false) rHostStatus 40 true)
      0x4C01 [(1, b2n link), (1, cause.val)]) := by
  have hg : (linkExists s link && (cause.val = 2 || hostLinkUp s link) && (cause.val ≠ 2 || link)) = true := by
    simp only [linkExists_of hlink, Bool.true_and, Bool.and_eq_true, Bool.or_eq_true, decide_eq_true_eq]
    exact ⟨h, or_iff_not_imp_left.2 fun hne => hl (not_not.1 hne)⟩
  exact congrArg (nextOf s) (onlyIf_pos hg _ _)

/-- The link comes up or retrains. -/
theorem exec_hostLinkUp_runs (speed : Fin 7) (width : Fin 9) (flit m0 m1 : Bool) (hdev : stSupervise ≤ devState s) :
    exec (.hostLinkUp link speed width flit m0 m1) s = nextOf s (
      let u := wrB (setLinkStatus s link true speed.val width.val flit) rHostStatus 40 true
      let u := { u with host := { u.host with
        msixEn := smSet (fun _ => false) (smSet (fun _ => false) u.host.msixEn (b2n link * 2) m0) (b2n link * 2 + 1) m1 } }
      let d := [(1, b2n link), (1, speed.val), (1, width.val)]
      let v := postHw (msixFlush u link) 0x0C02 d
      if speed.val < 6 ∨ width.val < (if v.host.bifNow then 4 else 8) then postHw v 0x4C03 d else v) := by
  have hg : (linkExists s link && decide (stSupervise ≤ devState s)) = true := by
    rw [linkExists_of hlink, decide_eq_true hdev]; rfl
  exact congrArg (nextOf s) (onlyIf_pos hg _ _)

end

/-- Settles O47: each event's guard holds, and its effect is the one of its own row. -/
theorem hostLinkEventsComplete : Obligations.HostLinkEventsComplete := by
  unfold Obligations.HostLinkEventsComplete
  intro s link hlink
  have hex := linkExists_of hlink
  refine ⟨fun cause h hl => exec_hostLinkDown_runs hlink h hl, fun speed width flit m0 m1 hdev => ?_, fun reqs => ?_, ?_, ?_, ?_, ?_,
    fun fn e he => ?_, ?_, fun fn status => ?_, fun die => rfl⟩
  · intro k u u' d v
    refine (exec_hostLinkUp_runs hlink speed width flit m0 m1 hdev).trans ?_
    have hv : v.host.bifNow = s.host.bifNow := by
      rw [postHw_bifNow, msixFlush_bifNow]
      exact setLinkStatus_bifNow s link true speed.val width.val flit
    rw [← hv]; rfl
  · exact congrArg (nextOf s) (onlyIf_pos hex _ _)
  · exact congrArg (nextOf s) (onlyIf_pos hex _ _)
  · exact congrArg (nextOf s) (onlyIf_pos hex _ _)
  · exact congrArg (nextOf s) (onlyIf_pos hex _ _)
  · exact congrArg (nextOf s) (onlyIf_pos hex _ _)
  · have hg : (linkExists s link && (fn.val = 1 || decide (e.val < 512))) = true := by
      have hfn := fn.isLt
      simp only [hex, Bool.true_and, Bool.or_eq_true, decide_eq_true_eq]
      omega
    exact congrArg (nextOf s) (onlyIf_pos hg _ _)
  · exact foldl_sendPending_out link (pendingDue s link) s
  · exact congrArg (nextOf s) (onlyIf_pos hex _ _)

end Sys2Proof.Machine
end

section
/-! PROOFS. Frames received at a port, and its flow control. -/
namespace Sys2Proof.Machine

-- Counting leaves the frames in the path

/-- The state in which the PCS and MAC merge counters of a received frame are counted. -/
def rxCounted (s : State) (p : Nat) (f : RxFrame) : State := mmCount (pcsCount s p f.pcs) p f.mac

/-- The same with the MAC statistics of a whole frame. -/
def rxWhole (s : State) (p : Nat) (f : RxFrame) : State := perf (rxCount (rxCounted s p f) p f) (8 + p / 8) 0x0201 1

theorem rxCounted_keeps (s : State) (p : Nat) (f : RxFrame) : Keeps 4160 s (rxCounted s p f) :=
  mmCount_keeps (Within.refl _) _ _ _ (pcsCount_keeps (Within.refl _) _ _ _ (Keeps.refl _ _))

theorem rxWhole_keeps (s : State) (p : Nat) (f : RxFrame) : Keeps 4160 s (rxWhole s p f) :=
  perf_keeps ((Within.refl _).sub rfl) _ _ _ _ (rxCount_keeps (Within.refl _) _ _ _ (rxCounted_keeps s p f))

theorem arrivingFrame_congr {s t : State} (h : t.path = s.path) (p : Nat) (pre : Bool) : arrivingFrame t p pre = arrivingFrame s p pre := by
  unfold arrivingFrame; rw [h]

theorem rxCounted_path (s : State) (p : Nat) (f : RxFrame) : (rxCounted s p f).path = s.path := (rxCounted_keeps s p f).frame.path rfl

theorem rxWhole_path (s : State) (p : Nat) (f : RxFrame) : (rxWhole s p f).path = s.path := (rxWhole_keeps s p f).frame.path rfl

-- What the MAC makes of a frame

/-- A reassembly error of the SMD brings no frame (R313). -/
theorem macReceive_smdErr {s : State} {p : Nat} {f : RxFrame} (hm : mmEn (rxCounted s p f) p = true) (hmac : f.mac = .smdErr) :
    macReceive s p f = rxCounted s p f := if_pos ⟨hm, hmac⟩

/-- An abandoned reassembly of which nothing has been released brings no frame. -/
theorem macReceive_abandoned {s : State} {p n : Nat} {f : RxFrame} (hm : mmEn (rxCounted s p f) p = true)
    (hmac : f.mac = .abandoned n) (hearly : arrivingFrame s p (rxPreempt (rxCounted s p f) p f.mac) = none) :
    macReceive s p f = setHdrWait (rxCounted s p f) p false := by
  have hnone : arrivingFrame (rxCounted s p f) p (rxPreempt (rxCounted s p f) p f.mac) = none :=
    (arrivingFrame_congr (rxCounted_path s p f) _ _).trans hearly
  unfold macReceive
  rw [← rxCounted]
  rw [hmac] at hnone
  simp only [hm, hmac, hnone, reduceCtorEq, and_false, if_false, Bool.and_self, if_true]
  rfl

/-- A frame that its MAC receives whole. -/
def macWhole (s : State) (p : Nat) (f : RxFrame) : Prop :=
  mmEn (rxCounted s p f) p = false ∨ f.mac = .plain ∨ ∃ n, f.mac = .assembled n

section
variable {s : State} {p : Nat} {f : RxFrame} (hw : macWhole s p f)
include hw

/-- The rest of a frame released early. -/
theorem macReceive_rest {x : Frame} (hearly : arrivingFrame s p (rxPreempt (rxCounted s p f) p f.mac) = some x) :
    macReceive s p f = frameWhole (rxWhole s p f) p (rxClass (maxLen (rxCounted s p f) p) f) x f := by
  have hsome : arrivingFrame (perf (rxCount (rxCounted s p f) p f) (8 + p / 8) 0x0201 1) p (rxPreempt (rxCounted s p f) p f.mac) =
      some x := (arrivingFrame_congr (rxWhole_path s p f) _ _).trans hearly
  unfold macReceive
  rw [← rxCounted]
  obtain hm | hmac | ⟨n, hmac⟩ := hw
  · simp only [hm, hsome, Bool.false_and, Bool.false_eq_true, false_and, if_false]
    rfl
  · rw [hmac] at hsome
    simp only [hmac, hsome, Bool.and_false, Bool.false_eq_true, reduceCtorEq, and_false, if_false]
    rfl
  · rw [hmac] at hsome
    simp only [hmac, hsome, Bool.and_false, Bool.false_eq_true, reduceCtorEq, and_false, if_false]
    rfl

/-- Any other frame received whole. -/
theorem macReceive_new (hearly : arrivingFrame s p (rxPreempt (rxCounted s p f) p f.mac) = none) :
    macReceive s p f =
      let w := setHdrWait (rxWhole s p f) p false
      if rxClass (maxLen (rxCounted s p f) p) f ≠ 2 then w
      else if etherType f.octets = 0x8808 then macControl w p f.octets
      else addFrame w (rxStamp w p f.rxTime { id := 0, octets := f.octets, port := p, firstPort := p, stage := .mac }) := by
  have hnone : arrivingFrame (perf (rxCount (rxCounted s p f) p f) (8 + p / 8) 0x0201 1) p (rxPreempt (rxCounted s p f) p f.mac) =
      none := (arrivingFrame_congr (rxWhole_path s p f) _ _).trans hearly
  unfold macReceive
  rw [← rxCounted]
  obtain hm | hmac | ⟨n, hmac⟩ := hw
  · simp only [hm, hnone, Bool.false_and, Bool.false_eq_true, false_and, if_false]
    rfl
  · rw [hmac] at hnone
    simp only [hmac, hnone, Bool.and_false, Bool.false_eq_true, reduceCtorEq, and_false, if_false]
    rfl
  · rw [hmac] at hnone
    simp only [hmac, hnone, Bool.and_false, Bool.false_eq_true, reduceCtorEq, and_false, if_false]
    rfl

end

-- The rest of a frame released early

/-- The frame as it stands at its end. -/
def atEnd (x : Frame) (f : RxFrame) (c : Nat) : Frame :=
  { x with
    octets := arrived x f, receiving := false, cells := cellsOf (arrived x f).length, bad := x.bad.orElse (fun _ => stompCauseOf c) }

theorem foldl_id_of {α : Type} {f : State → α → State} {l : List α} (h : ∀ x ∈ l, ∀ s, f s x = s) (s : State) : l.foldl f s = s := by
  induction l with
  | nil => rfl
  | cons x l ih => rw [List.foldl_cons, h x (.head _), ih fun y hy => h y (.tail _ hy)]

/-- A frame still received after another was replaced by one that is not. -/
theorem mem_putFrame_receiving {s : State} {x g : Frame} (hx : x.receiving = false) (hg : g ∈ (putFrame s x).path.frames)
    (hr : g.receiving = true) : g ∈ s.path.frames := by
  obtain ⟨y, hy, rfl⟩ := List.mem_map.1 hg
  split at hr
  · rw [hx] at hr; cases hr
  · next hne => rw [if_neg hne]; exact hy

/-- What follows when a frame `y`, put into the state `s`, has reached its end in class c with the octets `o`: its copies get
their part, the mirror copies taken from it their octets, its fragment and its learn request go on (R320, R545, R889). -/
def restArrived (s : State) (p c : Nat) (y : Frame) (o : List Byte) : State :=
  let s := setCopies s (s.path.copies.map (fun z => if z.frame = y.id then arriveTail z (sentBody s p c y o) else z))
  let s := (s.path.frames.filter (fun g => g.port = p && g.receiving && g.rxPre == y.rxPre)).foldl (fun s g =>
    g.mirrorOf.elim s (fun m => mirrorArrive s g m (c = 2) o)) s
  let s := y.fragWait.elim s (fun r => fragAsk s { r.1 with octs := slice (o.take (o.length - 4)) r.2 16, since := s.cycle })
  let s := (s.path.copies.filter (fun z => z.frame = y.id)).foldl (fun s z => macNext s z.port) s
  y.learn.elim (reapFrame s y.id) (fun r =>
    if c = 2 ∧ ¬ y.icvPending then queueLearn (reapFrame s y.id) (ingressTile p) r else reapFrame s y.id)

theorem frameWhole_eq (t : State) (p c : Nat) (x : Frame) (f : RxFrame) :
    frameWhole t p c x f = restArrived
      (putFrame t (if (atEnd x f c).icvPending ∧ c = 2 then { atEnd x f c with fragWait := none }
        else { atEnd x f c with learn := none, fragWait := none })) p c (atEnd x f c) (arrived x f) := by
  unfold frameWhole restArrived
  cases h : x.learn with
  | none => simp only [h, show (atEnd x f c).learn = x.learn from rfl]; rfl
  | some r => simp only [h, show (atEnd x f c).learn = x.learn from rfl]; rfl

/-- A frame without a learn request or a waiting fragment, no mirror copy of its port still arriving. -/
theorem restArrived_plain {s : State} {p c : Nat} {y : Frame} {o : List Byte} (hlearn : y.learn = none) (hfrag : y.fragWait = none)
    (hmirror : ∀ g ∈ s.path.frames, g.port = p → g.receiving = true → g.mirrorOf = none) :
    restArrived s p c y o =
      let v := setCopies s (s.path.copies.map (fun z => if z.frame = y.id then arriveTail z (sentBody s p c y o) else z))
      reapFrame ((v.path.copies.filter (fun z => z.frame = y.id)).foldl (fun v z => macNext v z.port) v) y.id := by
  have hnone : ∀ g ∈ s.path.frames.filter (fun g => g.port = p && g.receiving && g.rxPre == y.rxPre),
      ∀ w : State, g.mirrorOf.elim w (fun m => mirrorArrive w g m (c = 2) o) = w := fun g hg w => by
    obtain ⟨hmem, hg⟩ := List.mem_filter.1 hg
    simp only [Bool.and_eq_true, decide_eq_true_eq] at hg
    obtain ⟨⟨hport, hrec⟩, -⟩ := hg
    rw [hmirror g hmem hport hrec]; rfl
  unfold restArrived
  rw [hlearn, hfrag]
  dsimp only [Option.elim_none]
  rw [show (setCopies s (s.path.copies.map (fun z => if z.frame = y.id then arriveTail z (sentBody s p c y o) else z))).path.frames
    = s.path.frames from rfl, foldl_id_of hnone]

theorem frameWhole_plain {t : State} {p c : Nat} {x : Frame} {f : RxFrame} (hlearn : x.learn = none) (hfrag : x.fragWait = none)
    (hmirror : ∀ g ∈ t.path.frames, g.port = p → g.receiving = true → g.mirrorOf = none) :
    frameWhole t p c x f =
      let u := putFrame t (atEnd x f c)
      let v := setCopies u (u.path.copies.map
        (fun z => if z.frame = x.id then arriveTail z (sentBody u p c (atEnd x f c) (arrived x f)) else z))
      reapFrame ((v.path.copies.filter (fun z => z.frame = x.id)).foldl (fun v z => macNext v z.port) v) x.id := by
  have hput : (if (atEnd x f c).icvPending ∧ c = 2 then { atEnd x f c with fragWait := none }
      else { atEnd x f c with learn := none, fragWait := none }) = atEnd x f c := by
    have h1 : ({ atEnd x f c with fragWait := none } : Frame) = atEnd x f c := by unfold atEnd; rw [← hfrag]
    have h2 : ({ atEnd x f c with learn := none, fragWait := none } : Frame) = atEnd x f c := by
      unfold atEnd; rw [← hfrag, ← hlearn]
    rw [h1, h2, ite_self]
  rw [frameWhole_eq, hput]
  exact restArrived_plain hlearn hfrag fun g hg hport hrec => hmirror g (mem_putFrame_receiving rfl hg hrec) hport hrec

/-- Settles O49: the reception of a frame by the form its MAC gives it, and the guards of the flow control commands. -/
theorem portFramesAndFlowControlComplete : Obligations.PortFramesAndFlowControlComplete := by
  unfold Obligations.PortFramesAndFlowControlComplete
  intro s port f p m t early w
  refine ⟨fun hruns => ⟨fun hm hmac => ?_, fun n hnone hm hmac => ?_, fun hw => ⟨fun hnone => ⟨fun hc hty => ?_, fun hc => ?_,
    fun hc hty hop => ?_, fun hc hty hop => ?_⟩, fun x hx hlearn hfrag hmirror => ?_⟩⟩, fun c => ?_, fun k => ?_⟩
  · exact (congrArg (nextOf s) (if_pos hruns)).trans (congrArg (nextOf s) (macReceive_smdErr hm hmac))
  · exact (congrArg (nextOf s) (if_pos hruns)).trans (congrArg (nextOf s) (macReceive_abandoned hm hmac hnone))
  · refine (congrArg (nextOf s) (if_pos hruns)).trans (congrArg (nextOf s) ((macReceive_new hw hnone).trans ?_))
    exact (if_neg (not_not.2 hc)).trans (if_neg hty)
  · refine (congrArg (nextOf s) (if_pos hruns)).trans (congrArg (nextOf s) ((macReceive_new hw hnone).trans ?_))
    exact if_pos hc
  · have hg : (portRuns s p && isControl f 0x0101) = true := by
      unfold isControl etherType; rw [hruns, decide_eq_true hty, decide_eq_true hop]; rfl
    refine (congrArg (nextOf s) (onlyIf_pos hg _ _)).trans (congrArg (nextOf s) ((macReceive_new hw hnone).trans ?_))
    exact ((if_neg (not_not.2 hc)).trans (if_pos hty)).trans (if_pos hop)
  · have hg : (portRuns s p && isControl f 0x0001) = true := by
      unfold isControl etherType; rw [hruns, decide_eq_true hty, decide_eq_true hop]; rfl
    refine (congrArg (nextOf s) (onlyIf_pos hg _ _)).trans (congrArg (nextOf s) ((macReceive_new hw hnone).trans ?_))
    exact ((if_neg (not_not.2 hc)).trans (if_pos hty)).trans ((if_neg (by rw [hop]; decide)).trans (if_pos hop))
  · intro c o y u v
    have hfr : (rxWhole s p f).path.frames = s.path.frames := by rw [rxWhole_path]
    refine (congrArg (nextOf s) (if_pos hruns)).trans (congrArg (nextOf s) ((macReceive_rest hw hx).trans ?_))
    exact frameWhole_plain hlearn hfrag (by rw [hfr]; exact hmirror)
  · intro e hne hle
    have hg : (e ≠ 0 && e ≤ s.cycle) = true := by rw [decide_eq_true hne, decide_eq_true hle]; rfl
    exact congrArg (nextOf s) (onlyIf_pos hg _ _)
  · intro c u adm send sent hruns hfc
    refine ⟨fun hx hu => ?_, fun last hx hlast hdue hu => ?_, fun hx hu => ?_⟩
    · have hg : (portRuns s p && fcGenerates s p c && !txXoff s p c && decide (xoffThr adm < u)) = true := by
        rw [hruns, hfc, hx, decide_eq_true hu]; rfl
      exact congrArg (nextOf s) (onlyIf_pos hg _ _)
    · have hg : (portRuns s p && fcGenerates s p c && txXoff s p c && smGet (fun _ => 0) s.path.xoff (p * 16 + c) ≠ 0
          && decide (smGet (fun _ => 0) s.path.xoff (p * 16 + c) - 1 + (txQuanta s p * 256 * 1600 + portRate s p - 1) / max (portRate s p) 1
            ≤ s.cycle) && decide (xonThr adm < u)) = true := by
        rw [hruns, hfc, hx, hlast, Nat.add_sub_cancel, decide_eq_true hdue, decide_eq_true hu, decide_eq_true (Nat.succ_ne_zero last)]
        rfl
      exact congrArg (nextOf s) (onlyIf_pos hg _ _)
    · have hg : (portRuns s p && fcGenerates s p c && txXoff s p c && decide (u ≤ xonThr adm)) = true := by
        rw [hruns, hfc, hx, decide_eq_true hu]; rfl
      exact congrArg (nextOf s) (onlyIf_pos hg _ _)

end Sys2Proof.Machine
end

section
/-! PROOFS. Link events: what the MAC of a port holds while its line goes from frame to frame, and link-up. -/
namespace Sys2Proof.Machine

-- What work on the line of a port holds

/-- Work on the line of port p: the low bits of PORT_STATUS, PORT_EVENTS and the liveness register stay, as do the frames, the
number of copies and what the lanes send. -/
structure LineHeld (p : Nat) (s t : State) : Prop where
  canon : Canon s → Canon t
  status : Canon s → ∀ j, j < 24 → rdB t (rPortStatus p) j = rdB s (rPortStatus p) j
  events : rd t (rPortEvents p) = rd s (rPortEvents p)
  live : rd t (rLsLive (p / 64)) = rd s (rLsLive (p / 64))
  frames : t.path.frames = s.path.frames
  copies : t.path.copies.length = s.path.copies.length
  side : t.path.txSide = s.path.txSide

theorem LineHeld.refl (p : Nat) (s : State) : LineHeld p s s := ⟨id, fun _ _ _ => rfl, rfl, rfl, rfl, rfl, rfl⟩

theorem LineHeld.trans {p : Nat} {s t u : State} (h : LineHeld p s t) (k : LineHeld p t u) : LineHeld p s u :=
  ⟨fun c => k.canon (h.canon c), fun c j hj => (k.status (h.canon c) j hj).trans (h.status c j hj), k.events.trans h.events,
    k.live.trans h.live, k.frames.trans h.frames, k.copies.trans h.copies, k.side.trans h.side⟩

theorem LineHeld.ite {p : Nat} {s t u : State} (c : Prop) [Decidable c] (ht : LineHeld p s t) (hu : LineHeld p s u) :
    LineHeld p s (if c then t else u) := by
  split
  · exact ht
  · exact hu

theorem LineHeld.foldl {α : Type} {p : Nat} {f : State → α → State} (h : ∀ s x, LineHeld p s (f s x)) (l : List α) (s : State) :
    LineHeld p s (l.foldl f s) := by
  induction l generalizing s with
  | nil => exact .refl p s
  | cons x l ih => exact (h s x).trans (ih (f s x))

/-- A state with the same registers, whose path differs in nothing that `LineHeld` names. -/
theorem LineHeld.of_regs {p : Nat} {s t : State} (hc : Canon s → Canon t) (hr : ∀ o, rd t o = rd s o)
    (hf : t.path.frames = s.path.frames) (hn : t.path.copies.length = s.path.copies.length) (hs : t.path.txSide = s.path.txSide) :
    LineHeld p s t := ⟨hc, fun _ j _ => rdB_congr (hr _) j, hr _, hr _, hf, hn, hs⟩

theorem lineHeld_putCopy (p : Nat) (s : State) (c : Copy) : LineHeld p s (putCopy s c) :=
  .of_regs id (fun _ => rfl) rfl (List.length_map _) rfl

theorem lineHeld_emit (p : Nat) (s : State) (o : Output) : LineHeld p s (emit s o) := .of_regs id (fun _ => rfl) rfl rfl rfl

theorem lineHeld_setCtlQ (p : Nat) (s : State) (q : Nat) (l : List (Nat × Nat)) : LineHeld p s (setCtlQ s q l) :=
  .of_regs id (fun _ => rfl) rfl rfl rfl

/-- Counting at a port writes no register below its statistics. -/
theorem rd_macAdd {s : State} {p o : Nat} (i n : Nat) (h : o < rPort p 0x100) : rd (macAdd s p i n) o = rd s o := by
  have hstat : o ≠ rMacStat p i := by unfold rMacStat rPort at *; omega
  have hhalf : o ≠ rStatHalf p (i / 64) := by unfold rStatHalf rPort at *; omega
  have hwrap : o ≠ rStatWrap p (i / 64) := by unfold rStatWrap rPort at *; omega
  have hraise : ∀ t : State, rd (raiseHalf t (rStatHalf p (i / 64)) (i % 64)) o = rd t o := fun t => rd_wrB_other _ _ _ hhalf
  unfold macAdd
  dsimp only
  split
  · rw [rd_wrB_other _ _ _ hwrap]
    split
    · rw [hraise, rd_wrF_other _ _ _ _ hstat]
    · exact rd_wrF_other _ _ _ _ hstat
  · split
    · rw [hraise, rd_wrF_other _ _ _ _ hstat]
    · exact rd_wrF_other _ _ _ _ hstat

theorem lineCopy_port {s : State} {p : Nat} {c : Copy} (h : lineCopy s p = some c) : c.port = p := by
  have hc := List.find?_some h
  simp only [Bool.and_eq_true, decide_eq_true_eq] at hc
  exact hc.1.1.1

theorem lineHeld_setXoff {p : Nat} (s : State) (c : Nat) (v : Bool) (hc : c < 8) : LineHeld p s (setXoff s p c v) := by
  have hev : rPortEvents p ≠ rPortStatus p := by unfold rPortEvents rPortStatus rPort; omega
  have hls : rLsLive (p / 64) ≠ rPortStatus p := by unfold rLsLive rPortStatus rPort; omega
  have hwr : ∀ hi lo n, 24 ≤ lo → lo ≤ hi → hi < 64 → LineHeld p s (wrF s (rPortStatus p) hi lo n) := fun hi lo n h1 h2 h3 =>
    ⟨fun k => canon_wrF k _ _ _ _, fun k j hj => rdB_wrF_apart k _ _ h2 h3 (.inl (by omega)), rd_wrF_other _ _ _ _ hev,
      rd_wrF_other _ _ _ _ hls, rfl, rfl, rfl⟩
  exact .ite _ (hwr 39 32 _ (by omega) (by omega) (by omega)) (hwr _ _ _ (by omega) (le_refl _) (by omega))

section
variable {p : Nat} (hp : p < 256)
include hp

/-- An operation that writes no register below the statistics of port p. -/
theorem LineHeld.of_apart {s t : State} (hc : Canon s → Canon t) (hr : ∀ o, o < rPort p 0x100 → rd t o = rd s o)
    (hpath : t.path = s.path) : LineHeld p s t := by
  have hst : rPortStatus p < rPort p 0x100 := by unfold rPortStatus rPort; omega
  have hev : rPortEvents p < rPort p 0x100 := by unfold rPortEvents rPort; omega
  have hls : rLsLive (p / 64) < rPort p 0x100 := by unfold rLsLive rPort; omega
  exact ⟨hc, fun _ j _ => rdB_congr (hr _ hst) j, hr _ hev, hr _ hls, by rw [hpath], by rw [hpath], by rw [hpath]⟩

theorem lineHeld_macAdd (s : State) (i n : Nat) : LineHeld p s (macAdd s p i n) := by
  have hk := macAdd_keeps (Within.refl 4160) s p i n (Keeps.refl _ _)
  exact .of_apart hp hk.canon (fun o ho => rd_macAdd i n ho) (hk.frame.path rfl)

theorem lineHeld_perf (s : State) (b ev n : Nat) : LineHeld p s (perf s b ev n) := by
  have hk := perf_keeps (Within.refl 4096) s b ev n (Keeps.refl _ _)
  exact .of_apart hp hk.canon (fun o ho => rd_perf s b ev n o (by unfold rPerf rPort at *; omega)) (hk.frame.path rfl)

theorem lineHeld_preempt (s : State) {c : Copy} (hc : c.port = p) : LineHeld p s (preempt s c) := by
  have hfrag : ∀ o last, LineHeld p s (fragSent s c o last) := fun o last => by
    unfold fragSent
    rw [hc]
    exact (LineHeld.ite _ (.refl p s) (lineHeld_macAdd hp s 68 1)).trans (lineHeld_emit p _ _)
  exact (hfrag _ _).trans (lineHeld_putCopy p _ _)

theorem LineHeld.count {s t : State} (h : LineHeld p s t) (i n : Nat) : LineHeld p s (macAdd t p i n) :=
  h.trans (lineHeld_macAdd hp t i n)

theorem LineHeld.countIf (c : Prop) [Decidable c] {s t : State} (h : LineHeld p s t) (i n : Nat) :
    LineHeld p s (if c then macAdd t p i n else t) := .ite c (h.count hp i n) h

theorem LineHeld.countEither (c : Prop) [Decidable c] {s t : State} (h : LineHeld p s t) (i j n m : Nat) :
    LineHeld p s (if c then macAdd t p i n else macAdd t p j m) := .ite c (h.count hp i n) (h.count hp j m)

theorem lineHeld_controlOut (s : State) (c q : Nat) : LineHeld p s (controlOut s p c q) := by
  have hout : ∀ (o : Output) (b ev n : Nat), LineHeld p s (perf (emit s o) b ev n) := fun o b ev n =>
    (lineHeld_emit p s o).trans (lineHeld_perf hp _ b ev n)
  unfold controlOut
  dsimp only
  exact .countIf hp _ (.countEither hp _ (.countIf hp _ ((((((hout _ _ _ _).count hp 48 64).count hp 49 64).count hp 50 1).count hp
    51 1).count hp 72 1) _ _) _ _ _ _) _ _

theorem lineHeld_controlNext (s : State) : LineHeld p s (controlNext s p) := by
  unfold controlNext
  refine .ite _ (.refl p s) ?_
  unfold controlLine
  split
  · exact (lineHeld_setCtlQ p s p []).trans (.foldl (fun t (x : Nat × Nat) => lineHeld_controlOut hp t x.1 x.2) _ _)
  · next x hx =>
    split
    · exact ((lineHeld_preempt hp s (lineCopy_port hx)).trans (lineHeld_setCtlQ p _ p [])).trans
        (.foldl (fun t (x : Nat × Nat) => lineHeld_controlOut hp t x.1 x.2) _ _)
    · exact .refl p s

theorem lineHeld_sendControl (s : State) (c q : Nat) : LineHeld p s (sendControl s p c q) :=
  .ite _ (.refl p s) ((lineHeld_setCtlQ p s p _).trans (lineHeld_controlNext hp _))

theorem lineHeld_xoffSend (s : State) (c : Nat) (hc : c < 8) : LineHeld p s (xoffSend s p c) :=
  ((lineHeld_sendControl hp s c _).trans (lineHeld_setXoff _ c true hc)).trans (.of_regs id (fun _ => rfl) rfl rfl rfl)

/-- The line of port p goes from one copy to the next. -/
theorem lineHeld_macNext (s : State) : LineHeld p s (macNext s p) := by
  unfold macNext
  extract_lets start a b c d
  have hstart : ∀ u x, LineHeld p u (start u x) := fun u x => by
    simp only [start]
    split
    · refine LineHeld.trans ?_ (lineHeld_putCopy p _ _)
      split
      · next y hy => exact lineHeld_preempt hp u (lineCopy_port hy)
      · exact .refl p u
    · exact .refl p u
  refine .ite _ (.refl p s) ?_
  have ha : LineHeld p s a := lineHeld_controlNext hp s
  have hb : LineHeld p a b := by
    simp only [b]
    split
    · next y hy => exact .ite _ (lineHeld_preempt hp a (lineCopy_port hy)) (.refl p a)
    · exact .refl p a
  have hd : LineHeld p c d := by
    simp only [d]
    split
    · exact .ite _ (.refl p c) (lineHeld_putCopy p _ _)
    · exact .refl p c
  exact (((ha.trans hb).trans (hstart b true)).trans hd).trans (hstart d false)

end

-- Link-up

/-- The registers that show a link that comes up (R327, R332). -/
def linkUpShown (b : State) (p : Nat) : State :=
  let u : State := { b with path := { b.path with settleAt := smSet (fun _ => 0) b.path.settleAt p 0 } }
  wrB (wrB (wrF (wrB u (rPortStatus p) 0 true) (rPortStatus p) 10 8 1) (rPortStatus p) 16 false) (rPortEvents p) 1 true

/-- A hold ends with its link up (R332). -/
def linkHoldOver (s : State) (p : Nat) : State :=
  if rdB s (rPortStatus p) 11 then
    { wrB s (rPortStatus p) 11 false with path := { s.path with
      linkUpAt := smSet (fun _ => []) s.path.linkUpAt p (smGet (fun _ => []) s.path.linkUpAt p ++ [(s.cycle + 1, 0)]) } }
  else s

/-- The state in which a link that was down for `d` microseconds is posted as up and its hold is over. -/
def linkUpPosted (b : State) (p d : Nat) : State :=
  linkHoldOver (setLiveness (postHw (linkUpShown b p) 0x0102 [(2, p), (8, d)]) p true) p

/-- The classes of a port that stand above their XOFF threshold when its link comes up (R312). -/
def xoffAll (s : State) (p : Nat) : State :=
  (List.range 8).foldl (fun s c =>
    if fcGenerates s p c ∧ xoffThr (admRow s p (ingressClass s p c)) < accU s p c then xoffSend s p c else s) s

theorem exec_linkUp_runs {s : State} {port : Fin 256} (h : linkUpOk s port.val = true) :
    exec (.linkUp port) s = nextOf s (
      let b := setSide (anComplete s port.val) port.val 2
      if ¬ linkSettled b port.val then settleBegin b port.val
      else macNext (xoffAll (mmStart (linkUpPosted b port.val
        ((b.cycle - smGet (fun _ => 0) b.path.linkDownAt port.val) / cyclesPerUs)) port.val) port.val) port.val) :=
  congrArg (nextOf s) (onlyIf_pos h _ _)

theorem LineHeld.foldl_mem {α : Type} {p : Nat} {f : State → α → State} {l : List α} (h : ∀ x ∈ l, ∀ s, LineHeld p s (f s x))
    (s : State) : LineHeld p s (l.foldl f s) := by
  induction l generalizing s with
  | nil => exact .refl p s
  | cons x l ih => exact (h x (.head _) s).trans (ih (fun y hy => h y (.tail _ hy)) (f s x))

theorem lineHeld_xoffAll {p : Nat} (hp : p < 256) (s : State) : LineHeld p s (xoffAll s p) :=
  .foldl_mem (fun c hc t => .ite _ (lineHeld_xoffSend hp t c (List.mem_range.1 hc)) (.refl p t)) s

/-- The state in which the PCS of a port is aligned, with its lanes sending frames. -/
def linkReady (s : State) (p : Nat) : State := setSide (anComplete s p) p 2

theorem setSide_eq (s : State) (p k : Nat) :
    ∃ out side, setSide s p k = { s with out := out, path := { s.path with txSide := side } } ∧
      (k ≠ 0 → smGet (fun _ => 0) side p = k) := by
  unfold setSide
  split
  · next h => exact ⟨s.out, s.path.txSide, rfl, fun _ => h⟩
  · exact ⟨_, _, rfl, fun hk => smGet_smSet_ne _ _ _ hk⟩

theorem linkReady_side (s : State) (p : Nat) : smGet (fun _ => 0) (linkReady s p).path.txSide p = 2 := by
  obtain ⟨out, side, h, hside⟩ := setSide_eq (anComplete s p) p 2
  unfold linkReady
  rw [h]
  exact hside (by decide)

/-- Nothing of the state before stands in the way: `linkReady` writes bit 16 of PORT_STATUS, and what auto-negotiation has done. -/
theorem linkReady_same (s : State) (p : Nat) :
    (linkReady s p).cycle = s.cycle ∧ (linkReady s p).path.linkDownAt = s.path.linkDownAt ∧
    (linkReady s p).path.frames = s.path.frames ∧ (linkReady s p).path.copies = s.path.copies ∧
    (Canon s → Canon (linkReady s p)) ∧ (∀ o, o ≠ rPortStatus p → rd (linkReady s p) o = rd s o) ∧
    (Canon s → ∀ j, j ≠ 16 → rdB (linkReady s p) (rPortStatus p) j = rdB s (rPortStatus p) j) := by
  obtain ⟨out, side, h, -⟩ := setSide_eq (anComplete s p) p 2
  unfold linkReady
  rw [h]
  unfold anComplete
  split
  · exact ⟨rfl, rfl, rfl, rfl, fun c => canon_wrB (s := { s with path := _ }) c _ _ _, fun o ho => rd_wrB_other _ _ _ ho,
      fun c j hj => rdB_wrB_apart (s := { s with path := _ }) c _ _ (by omega) hj⟩
  · exact ⟨rfl, rfl, rfl, rfl, id, fun _ _ => rfl, fun _ _ _ => rfl⟩

/-- A field is its bits. -/
theorem rdF_of_bits {s t : State} {o hi lo : Nat} (h : ∀ j, lo ≤ j → j ≤ hi → rdB t o j = rdB s o j) : rdF t o hi lo = rdF s o hi lo := by
  refine Nat.eq_of_testBit_eq fun j => ?_
  unfold rdF
  rw [testBit_field, testBit_field]
  by_cases hj : j < hi + 1 - lo
  · exact congrArg (decide (j < hi + 1 - lo) && ·) (h _ (by omega) (by omega))
  · rw [decide_eq_false hj, Bool.false_and, Bool.false_and]

section
variable {b : State} {p : Nat} (c : Canon b)
include c

theorem canon_linkUpShown : Canon (linkUpShown b p) :=
  canon_wrB (canon_wrB (canon_wrF (canon_wrB (s := { b with path := _ }) c _ _ _) _ _ _ _) _ _ _) _ _ _

theorem status_linkUpShown :
    rdB (linkUpShown b p) (rPortStatus p) 0 = true ∧ rdF (linkUpShown b p) (rPortStatus p) 10 8 = 1 ∧
    rdB (linkUpShown b p) (rPortStatus p) 16 = false ∧ rdB (linkUpShown b p) (rPortEvents p) 1 = true ∧
    ∀ j, 10 < j → j ≠ 16 → rdB (linkUpShown b p) (rPortStatus p) j = rdB b (rPortStatus p) j := by
  have c0 : Canon (wrB { b with path := { b.path with settleAt := smSet (fun _ => 0) b.path.settleAt p 0 } } (rPortStatus p) 0 true) :=
    canon_wrB c _ _ _
  have c1 := canon_wrF c0 (rPortStatus p) 10 8 1
  have c2 := canon_wrB c1 (rPortStatus p) 16 false
  have hne : rPortStatus p ≠ rPortEvents p := by unfold rPortStatus rPortEvents rPort; omega
  have hev : ∀ j, rdB (linkUpShown b p) (rPortStatus p) j = _ := fun j => rdB_congr (rd_wrB_other _ _ _ hne) j
  refine ⟨?_, ?_, ?_, rdB_wrB_same c2 _ _ (by omega), fun j h10 h16 => ?_⟩
  · rw [hev, rdB_wrB_apart c1 _ _ (by omega) (by omega), rdB_wrF_apart c0 _ _ (by omega) (by omega) (by omega)]
    exact rdB_wrB_same (s := { b with path := _ }) c _ _ (by omega)
  · unfold linkUpShown
    rw [rdF_congr (rd_wrB_other _ _ _ hne), rdF_wrB_apart c1 _ _ (by omega) (by omega), rdF_wrF_same c0 _ _ (by omega) (by omega)]
    rfl
  · rw [hev]; exact rdB_wrB_same c1 _ _ (by omega)
  · rw [hev, rdB_wrB_apart c1 _ _ (by omega) h16, rdB_wrF_apart c0 _ _ (by omega) (by omega) (by omega)]
    exact rdB_wrB_apart (s := { b with path := _ }) c _ _ (by omega) (by omega)

end

section
variable {s : State} {p : Nat} (c : Canon s)
include c

theorem canon_linkHoldOver : Canon (linkHoldOver s p) := by
  unfold linkHoldOver
  split
  · exact canon_wrB c _ _ _
  · exact c

/-- A hold that is over shows in bit 11 of PORT_STATUS alone. -/
theorem rdB_linkHoldOver (j : Nat) :
    rdB (linkHoldOver s p) (rPortStatus p) j = if j = 11 then false else rdB s (rPortStatus p) j := by
  unfold linkHoldOver
  split
  · next h =>
    split
    · next hj => rw [hj]; exact rdB_wrB_same c _ _ (by omega)
    · next hj => exact rdB_wrB_apart c _ _ (by omega) hj
  · next h =>
    split
    · next hj => rw [hj]; exact (Bool.not_eq_true _).mp h
    · rfl

end

theorem rd_linkHoldOver {s : State} {p o : Nat} (h : o ≠ rPortStatus p) : rd (linkHoldOver s p) o = rd s o := by
  unfold linkHoldOver
  split
  · exact rd_wrB_other _ _ _ h
  · rfl

section
variable {b : State} {p : Nat} (c : Canon b) (d : Nat)
include c

theorem canon_linkUpPosted : Canon (linkUpPosted b p d) :=
  canon_linkHoldOver (canon_wrB ((postHw_keeps (Within.refl _) _ _ _ (Keeps.refl _ _)).canon (canon_linkUpShown c)) _ _ _)

omit c in
theorem rd_posted {o : Nat} (h : o ≠ rLsLive (p / 64)) (hr : o ≠ rRecDrop) :
    rd (setLiveness (postHw (linkUpShown b p) 0x0102 [(2, p), (8, d)]) p true) o = rd (linkUpShown b p) o := by
  exact (rd_wrB_other _ _ _ h).trans (postHw_rd _ _ _ _ hr)

/-- What PORT_STATUS, PORT_EVENTS and the liveness register show of a link that has come up. -/
theorem status_linkUpPosted :
    rdB (linkUpPosted b p d) (rPortStatus p) 0 = true ∧ rdB (linkUpPosted b p d) (rPortStatus p) 11 = false ∧
    rdF (linkUpPosted b p d) (rPortStatus p) 10 8 = 1 ∧ rdB (linkUpPosted b p d) (rPortStatus p) 16 = false ∧
    rdB (linkUpPosted b p d) (rPortEvents p) 1 = true ∧ rdB (linkUpPosted b p d) (rLsLive (p / 64)) (p % 64) = true ∧
    rdF (linkUpPosted b p d) (rPortStatus p) 19 17 = rdF b (rPortStatus p) 19 17 := by
  have cp := (postHw_keeps (Within.refl _) _ 0x0102 [(2, p), (8, d)] (Keeps.refl _ _)).canon (canon_linkUpShown c (p := p))
  have cl : Canon (setLiveness (postHw (linkUpShown b p) 0x0102 [(2, p), (8, d)]) p true) := canon_wrB cp _ _ _
  obtain ⟨h0, h10, h16, hev, hrest⟩ := status_linkUpShown c (p := p)
  have hst1 : rPortStatus p ≠ rLsLive (p / 64) := by unfold rPortStatus rLsLive rPort; omega
  have hst2 : rPortStatus p ≠ rRecDrop := by unfold rPortStatus rRecDrop rPort; omega
  have hev1 : rPortEvents p ≠ rLsLive (p / 64) := by unfold rPortEvents rLsLive rPort; omega
  have hev2 : rPortEvents p ≠ rRecDrop := by unfold rPortEvents rRecDrop rPort; omega
  have hev3 : rPortEvents p ≠ rPortStatus p := by unfold rPortEvents rPortStatus rPort; omega
  have hbit : ∀ j, rdB (linkUpPosted b p d) (rPortStatus p) j =
      if j = 11 then false else rdB (linkUpShown b p) (rPortStatus p) j := fun j => by
    unfold linkUpPosted
    rw [rdB_linkHoldOver cl, rdB_congr (rd_posted (b := b) d hst1 hst2)]
  refine ⟨?_, ?_, ?_, ?_, ?_, ?_, ?_⟩
  · rw [hbit, if_neg (by omega), h0]
  · rw [hbit, if_pos rfl]
  · rw [← h10]
    exact rdF_of_bits fun j h1 h2 => (hbit j).trans (if_neg (by omega))
  · rw [hbit, if_neg (by omega), h16]
  · unfold linkUpPosted
    rw [rdB_congr (rd_linkHoldOver hev3), rdB_congr (rd_posted (b := b) d hev1 hev2), hev]
  · unfold linkUpPosted
    rw [rdB_congr (rd_linkHoldOver hst1.symm)]
    exact rdB_wrB_same cp _ _ (Nat.mod_lt _ (by omega))
  · exact rdF_of_bits fun j h1 h2 => ((hbit j).trans (if_neg (by omega))).trans (hrest j (by omega) (by omega))

end

-- The end of link-up: preemption and flow control

/-- What the start of preemption writes of PORT_STATUS (R314, R315). -/
theorem mmStart_eq (s : State) (p : Nat) :
    ∃ out try_, mmStart s p = { (if mmEn s p then wrF s (rPortStatus p) 19 17 (if rdB s (rMmCfg p) 0 then 1 else 2) else s) with
      out := out, path := { s.path with mmTry := try_ } } := by
  unfold mmStart
  by_cases hm : mmEn s p = true
  · rw [if_neg (not_not.2 hm), if_pos hm]
    split
    · exact ⟨_, _, rfl⟩
    · unfold verifySend
      split
      · exact ⟨_, _, rfl⟩
      · exact ⟨_, _, rfl⟩
  · rw [if_pos hm, if_neg hm]
    exact ⟨_, _, rfl⟩

section
variable {s : State} {p : Nat} (c : Canon s)
include c

theorem canon_mmStart : Canon (mmStart s p) := (mmStart_keeps (Within.refl _) s p (Keeps.refl _ _)).canon c

theorem rdB_mmStart {j : Nat} (h : j < 17 ∨ 19 < j) : rdB (mmStart s p) (rPortStatus p) j = rdB s (rPortStatus p) j := by
  obtain ⟨out, try_, hm⟩ := mmStart_eq s p
  rw [hm]
  change rdB (if _ then _ else _) _ _ = _
  split
  · exact rdB_wrF_apart c _ _ (by omega) (by omega) h
  · rfl

theorem rdF_mmStart :
    rdF (mmStart s p) (rPortStatus p) 19 17 =
      if mmEn s p then (if rdB s (rMmCfg p) 0 then 1 else 2) else rdF s (rPortStatus p) 19 17 := by
  obtain ⟨out, try_, hm⟩ := mmStart_eq s p
  rw [hm]
  change rdF (if _ then _ else _) _ _ _ = _
  split
  · rw [rdF_wrF_same c _ _ (by omega) (by omega)]
    split <;> rfl
  · rfl

end

theorem rd_mmStart {s : State} {p o : Nat} (h : o ≠ rPortStatus p) : rd (mmStart s p) o = rd s o := by
  obtain ⟨out, try_, hm⟩ := mmStart_eq s p
  rw [hm]
  change rd (if _ then _ else _) _ = _
  split
  · exact rd_wrF_other _ _ _ _ h
  · rfl

theorem rd_linkUpPosted {b : State} {p o : Nat} (d : Nat) (hst : o ≠ rPortStatus p) (hev : o ≠ rPortEvents p)
    (hls : o ≠ rLsLive (p / 64)) (hr : o ≠ rRecDrop) : rd (linkUpPosted b p d) o = rd b o := by
  refine (rd_linkHoldOver hst).trans ((rd_posted d hls hr).trans ?_)
  unfold linkUpShown
  rw [rd_wrB_other _ _ _ hev, rd_wrB_other _ _ _ hst, rd_wrF_other _ _ _ _ hst]
  exact rd_wrB_other _ _ _ hst

/-- Whether preemption is enabled rests on the tables and the live parity. -/
theorem mmEn_congr {s t : State} (h : t.tab0 = s.tab0 ∧ t.tab1 = s.tab1) (hl : rd t rFormeStatus = rd s rFormeStatus) (p : Nat) :
    mmEn t p = mmEn s p := by
  unfold mmEn octetImage liveRow row
  rw [live_congr hl, h.1, h.2]

theorem linkHoldOver_same (s : State) (p : Nat) :
    (linkHoldOver s p).tab0 = s.tab0 ∧ (linkHoldOver s p).tab1 = s.tab1 ∧ (linkHoldOver s p).rcd = s.rcd ∧
    (linkHoldOver s p).path.frames = s.path.frames ∧ (linkHoldOver s p).path.copies = s.path.copies ∧
    (linkHoldOver s p).path.txSide = s.path.txSide := by
  unfold linkHoldOver
  split <;> exact ⟨rfl, rfl, rfl, rfl, rfl, rfl⟩

/-- Posting the link-up and what follows it changes no table, no frame, no copy and no lane, and posts nothing more. -/
theorem linkUpPosted_same (b : State) (p d : Nat) :
    ((linkUpPosted b p d).tab0 = b.tab0 ∧ (linkUpPosted b p d).tab1 = b.tab1) ∧
    (linkUpPosted b p d).rcd = (postHw (linkUpShown b p) 0x0102 [(2, p), (8, d)]).rcd ∧
    (linkUpPosted b p d).path.frames = b.path.frames ∧ (linkUpPosted b p d).path.copies = b.path.copies ∧
    (linkUpPosted b p d).path.txSide = b.path.txSide := by
  obtain ⟨h0, h1, hr, hf, hc, hs⟩ := linkHoldOver_same (setLiveness (postHw (linkUpShown b p) 0x0102 [(2, p), (8, d)]) p true) p
  have hframe := postHw_frame (linkUpShown b p) 0x0102 [(2, p), (8, d)]
  have hpath : (setLiveness (postHw (linkUpShown b p) 0x0102 [(2, p), (8, d)]) p true).path = (linkUpShown b p).path := hframe.path rfl
  exact ⟨⟨h0.trans (hframe.tables rfl).1, h1.trans (hframe.tables rfl).2⟩, hr, hf.trans (congrArg (·.frames) hpath),
    hc.trans (congrArg (·.copies) hpath), hs.trans (congrArg (·.txSide) hpath)⟩

theorem mmStart_same (s : State) (p : Nat) :
    (mmStart s p).rcd = s.rcd ∧ (mmStart s p).path.frames = s.path.frames ∧ (mmStart s p).path.copies = s.path.copies ∧
    (mmStart s p).path.txSide = s.path.txSide := by
  obtain ⟨out, try_, hm⟩ := mmStart_eq s p
  rw [hm]
  refine ⟨?_, rfl, rfl, rfl⟩
  change (if _ then _ else _ : State).rcd = _
  split <;> rfl

theorem xoffAll_rcd (s : State) (p : Nat) : (macNext (xoffAll s p) p).rcd = s.rcd :=
  (macNext_keeps (Within.refl _) _ p (keeps_foldl _ _ (fun t c h => keeps_ite _ (fun _ => xoffSend_keeps (Within.refl _) t p c h)
    (fun _ => h)) (Keeps.refl 4192 s))).frame.recorder rfl

/-- The state of a link that has come up. -/
def linkIsUp (b : State) (p d : Nat) : State := macNext (xoffAll (mmStart (linkUpPosted b p d) p) p) p

theorem lineHeld_linkIsUp {p : Nat} (hp : p < 256) (b : State) (d : Nat) :
    LineHeld p (mmStart (linkUpPosted b p d) p) (linkIsUp b p d) :=
  (lineHeld_xoffAll hp _).trans (lineHeld_macNext hp _)

section
variable {b : State} {p : Nat} (c : Canon b) (hp : p < 256) (d : Nat)
include c hp

/-- The registers of a link that has come up. -/
theorem linkIsUp_registers :
    rdB (linkIsUp b p d) (rPortStatus p) 0 = true ∧ rdB (linkIsUp b p d) (rPortStatus p) 11 = false ∧
    rdF (linkIsUp b p d) (rPortStatus p) 10 8 = 1 ∧ rdB (linkIsUp b p d) (rPortStatus p) 16 = false ∧
    rdB (linkIsUp b p d) (rPortEvents p) 1 = true ∧ rdB (linkIsUp b p d) (rLsLive (p / 64)) (p % 64) = true ∧
    rdF (linkIsUp b p d) (rPortStatus p) 19 17 =
      if mmEn b p then (if rdB b (rMmCfg p) 0 then 1 else 2) else rdF b (rPortStatus p) 19 17 := by
  obtain ⟨h0, h11, h10, h16, hev, hls, h17⟩ := status_linkUpPosted c (p := p) d
  have cp := canon_linkUpPosted c (p := p) d
  have hheld := lineHeld_linkIsUp hp b d
  have hst := hheld.status (canon_mmStart cp)
  have hbit : ∀ j, j < 17 → rdB (linkIsUp b p d) (rPortStatus p) j = rdB (linkUpPosted b p d) (rPortStatus p) j := fun j hj =>
    (hst j (by omega)).trans (rdB_mmStart cp (.inl hj))
  have hmm : mmEn (linkUpPosted b p d) p = mmEn b p := by
    refine mmEn_congr (linkUpPosted_same b p d).1 ?_ p
    exact rd_linkUpPosted d (by unfold rFormeStatus rPortStatus rPort; omega) (by unfold rFormeStatus rPortEvents rPort; omega)
      (by unfold rFormeStatus rLsLive; omega) (by decide)
  have hcfg : rdB (linkUpPosted b p d) (rMmCfg p) 0 = rdB b (rMmCfg p) 0 :=
    rdB_congr (rd_linkUpPosted d (by unfold rMmCfg rPortStatus rPort; omega) (by unfold rMmCfg rPortEvents rPort; omega)
      (by unfold rMmCfg rLsLive rPort; omega) (by unfold rMmCfg rRecDrop rPort; omega)) 0
  refine ⟨(hbit 0 (by omega)).trans h0, (hbit 11 (by omega)).trans h11, (rdF_of_bits fun j _ hj => hbit j (by omega)).trans h10,
    (hbit 16 (by omega)).trans h16, ?_, ?_, ?_⟩
  · rw [rdB_congr hheld.events, rdB_congr (rd_mmStart (by unfold rPortEvents rPortStatus rPort; omega)), hev]
  · rw [rdB_congr hheld.live, rdB_congr (rd_mmStart (by unfold rLsLive rPortStatus rPort; omega)), hls]
  · rw [rdF_of_bits fun j _ hj => hst j (by omega), rdF_mmStart cp, hmm, hcfg, h17]

end

theorem linkReady_keeps (s : State) (p : Nat) : Keeps 4128 s (linkReady s p) :=
  setSide_keeps ((Within.refl _).sub rfl) _ p 2 (anComplete_keeps (Within.refl _) s p (Keeps.refl _ _))

/-- LINK_UP of a port whose PCS has been aligned for LINK_UP_SETTLE. -/
theorem exec_linkUp_up {s : State} {port : Fin 256} (h : linkUpOk s port.val = true)
    (hset : linkSettled (linkReady s port.val) port.val = true) :
    exec (.linkUp port) s = nextOf s (linkIsUp (linkReady s port.val) port.val
      ((s.cycle - smGet (fun _ => 0) s.path.linkDownAt port.val) / cyclesPerUs)) := by
  obtain ⟨hcyc, hdown, -⟩ := linkReady_same s port.val
  refine (exec_linkUp_runs h).trans (congrArg (nextOf s) ?_)
  refine (if_neg (not_not.2 hset)).trans ?_
  rw [← hcyc, ← hdown]
  rfl

/-- What the whole step keeps: the tables, the forme, the frames and how many copies there are. -/
theorem linkIsUp_keeps {s : State} {port : Fin 256} (h : linkUpOk s port.val = true)
    (hset : linkSettled (linkReady s port.val) port.val = true) :
    Keeps 4200 s (irqEdge s (linkIsUp (linkReady s port.val) port.val
      ((s.cycle - smGet (fun _ => 0) s.path.linkDownAt port.val) / cyclesPerUs))) :=
  execLinkUp_keeps (Within.refl _) port s (Keeps.refl _ _) _ ((exec_linkUp port s).symm.trans (exec_linkUp_up h hset))

/-- What LINK_UP shows, posts and keeps. -/
theorem linkUp_lands {s : State} {port : Fin 256} (h : linkUpOk s port.val = true)
    (hset : linkSettled (linkReady s port.val) port.val = true) (c : Canon s) :
    Lands (.linkUp port) s fun t =>
      rdB t (rPortStatus port.val) 0 = true ∧ rdB t (rPortStatus port.val) 11 = false ∧ rdF t (rPortStatus port.val) 10 8 = 1 ∧
      rdB t (rPortStatus port.val) 16 = false ∧ rdB t (rPortEvents port.val) 1 = true ∧
      rdB t (rLsLive (port.val / 64)) (port.val % 64) = true ∧
      rdF t (rPortStatus port.val) 19 17 =
        (if mmEn s port.val then (if rdB s (rMmCfg port.val) 0 then 1 else 2) else rdF s (rPortStatus port.val) 19 17) ∧
      smGet (fun _ => 0) t.path.txSide port.val = 2 ∧
      t.rcd = (postHw (linkUpShown (linkReady s port.val) port.val) 0x0102
        [(2, port.val), (8, (s.cycle - smGet (fun _ => 0) s.path.linkDownAt port.val) / cyclesPerUs)]).rcd ∧
      t.tab0 = s.tab0 ∧ t.tab1 = s.tab1 ∧ t.forme = s.forme ∧ t.path.frames = s.path.frames ∧
      t.path.copies.length = s.path.copies.length := by
  obtain ⟨-, -, hframes, hcopies, hcanon, hrd, hbits⟩ := linkReady_same s port.val
  have hk := linkIsUp_keeps h hset
  refine ⟨_, exec_linkUp_up h hset, ?_⟩
  generalize (s.cycle - smGet (fun _ => 0) s.path.linkDownAt port.val) / cyclesPerUs = d at hk ⊢
  obtain ⟨h0, h11, h10, h16, hev, hls, h17⟩ := linkIsUp_registers (hcanon c) port.isLt d
  obtain ⟨-, hrcd, hpf, hpc, hps⟩ := linkUpPosted_same (linkReady s port.val) port.val d
  obtain ⟨hmr, hmf, hmc, hms⟩ := mmStart_same (linkUpPosted (linkReady s port.val) port.val d) port.val
  have hheld := lineHeld_linkIsUp port.isLt (linkReady s port.val) d
  have hready := linkReady_keeps s port.val
  simp only [irqEdge_rdB, irqEdge_rdF, irqEdge_path, irqEdge_rcd]
  refine ⟨h0, h11, h10, h16, hev, hls, ?_, ?_, ?_, (hk.frame.tables rfl).1, (hk.frame.tables rfl).2, hk.frame.formes rfl, ?_, ?_⟩
  · have hmm : mmEn (linkReady s port.val) port.val = mmEn s port.val :=
      mmEn_congr (hready.frame.tables rfl) (hrd _ (by unfold rFormeStatus rPortStatus rPort; omega)) _
    rw [h17, hmm, rdB_congr (hrd _ (by unfold rMmCfg rPortStatus rPort; omega)), rdF_of_bits fun j h1 h2 => hbits c j (by omega)]
  · rw [hheld.side, hms, hps, linkReady_side]
  · exact (xoffAll_rcd _ _).trans (hmr.trans hrcd)
  · rw [hheld.frames, hmf, hpf, hframes]
  · rw [hheld.copies, hmc, hpc, hcopies]

/-- Settles O50: a link-up by the registers and parts of `linkIsUp`, the other events by their guards. -/
theorem linkEventsComplete : Obligations.LinkEventsComplete := by
  unfold Obligations.LinkEventsComplete
  intro s port p b
  refine ⟨fun cause => ⟨fun hup => ?_, fun hdown hrun => ?_⟩, fun hok => ⟨fun hset => ?_, fun c hset => ?_⟩, fun h11 h0 hend => ?_,
    fun abilities hdev hact hen han h0 hdone => ?_, fun h0 hmm h19 => ⟨fun htry hwait => ?_, ?_⟩⟩
  · exact congrArg (nextOf s) (if_pos hup)
  · exact congrArg (nextOf s) ((if_neg (by rw [hdown]; decide)).trans (onlyIf_pos hrun _ _))
  · exact (exec_linkUp_runs hok).trans (congrArg (nextOf s) (if_pos (by rw [hset]; decide)))
  · exact linkUp_lands hok hset c
  · have hg : (rdB s (rPortStatus p) 11 && !rdB s (rPortStatus p) 0 && smGet (fun _ => 0) s.path.linkHold p ≤ s.cycle) = true := by
      rw [h11, h0, decide_eq_true hend]; rfl
    exact congrArg (nextOf s) (onlyIf_pos hg _ _)
  · have hg : (devState s = stRun && portActive s p && portEn s p && anSet s p && !rdB s (rPortStatus p) 0
        && !smGet (fun _ => false) s.path.anDone p) = true := by
      rw [decide_eq_true hdev, hact, hen, han, h0, hdone]; rfl
    exact congrArg (nextOf s) (onlyIf_pos hg _ _)
  · have hg : (rdB s (rPortStatus p) 0 && mmEn s p && rdF s (rPortStatus p) 19 18 = 1
        && decide (3 ≤ (smGet (fun _ => (0, 0)) s.path.mmTry p).1) && verifyWaited s p) = true := by
      rw [h0, hmm, decide_eq_true h19, decide_eq_true htry, hwait]; rfl
    exact congrArg (nextOf s) (onlyIf_pos hg _ _)
  · have hg : (rdB s (rPortStatus p) 0 && mmEn s p && rdF s (rPortStatus p) 19 18 = 1) = true := by
      rw [h0, hmm, decide_eq_true h19]; rfl
    exact congrArg (nextOf s) (onlyIf_pos hg _ _)

end Sys2Proof.Machine
end

section
/-! PROOFS. Events of the pools and frame rings. -/
namespace Sys2Proof.Machine

-- Frames to the host

section
variable {s : State} {copy : Nat} {x : RxChain} {c : Copy} (hx : chainOf s copy = some x) (hc : findCopy s copy = some c)
include hx hc

theorem exec_hostRxDeliver_found {l : List Nat} {f : Frame} (hl : x.bufs = some l) (hf : findFrame s c.frame = some f) :
    exec (.hostRxDeliver copy) s = nextOf s
      (onlyIf (devState s = stRun && rxUp s x.ring && decide (l.length ≤ rxSlots s x.ring)) s (rxWrite s x f c l)) := by
  rw [exec_hostRxDeliver, execHostRxDeliver, hx, hc]
  simp only [hl, hf]

/-- The drop of a frame whose wait has ended under a cause (R1061). -/
def rxWaitDrop (s : State) (x : RxChain) (cause : Nat) : State :=
  let u := rxLost s x.ring cause
  rxDrop (postRateFrom u cyclesPerSec x.ring 0x4C23 (frOrigin false x.ring)
    [(2, x.ring), (1, cause), (4, rxLostCount u x.ring cause)]) x

theorem exec_rxWaitExpire_found :
    exec (.rxWaitExpire copy) s = nextOf s
      (onlyIf (c.waitSince + rxWaitMax s x.ring ≤ s.cycle
          && (x.bufs.isNone || decide (rxSlots s x.ring < (x.bufs.getD []).length) || !rxUp s x.ring)) s
        (rxWaitDrop s x (b2n x.bufs.isSome))) := by
  rw [exec_rxWaitExpire, execRxWaitExpire, rxExpire, hx, hc]
  rfl

variable (hwait : c.waitSince + rxWaitMax s x.ring ≤ s.cycle)
include hwait

theorem exec_rxWaitExpire_buffers (hl : x.bufs = none) : exec (.rxWaitExpire copy) s = nextOf s (rxWaitDrop s x 0) := by
  rw [exec_rxWaitExpire_found hx hc, hl, decide_eq_true hwait]
  rfl

theorem exec_rxWaitExpire_slots {l : List Nat} (hl : x.bufs = some l) (h : rxSlots s x.ring < l.length ∨ rxUp s x.ring = false) :
    exec (.rxWaitExpire copy) s = nextOf s (rxWaitDrop s x 1) := by
  have hg : (decide (rxSlots s x.ring < l.length) || !rxUp s x.ring) = true := by
    rw [Bool.or_eq_true, decide_eq_true_eq, Bool.not_eq_true']; exact h
  rw [exec_rxWaitExpire_found hx hc, hl, decide_eq_true hwait]
  exact congrArg (nextOf s) (onlyIf_pos (by simpa using hg) _ _)

end

-- Doorbells

/-- A doorbell of 8 octets by the ring's own host. -/
theorem frDoorbell_taken {s : State} {r v : Nat} {link : Bool} (tx : Bool) (hv : v < 2 ^ 17) (hdev : stHold ≤ devState s)
    (hown : frameLink s r = link) (act : State → Nat → State) :
    frDoorbell s tx r ⟨false, link, 0, 8, v⟩ act = act s (v % (2 * frSize s tx r)) := by
  unfold frDoorbell
  simp only [if_neg (Nat.not_lt.2 hdev), and_self, true_or, not_true_eq_false, if_false, hown, ne_eq, Nat.mod_eq_of_lt hv]

-- Frames from the host

section
variable {s : State} {ring : Fin 1024} {descs : List (List Byte)} {octets : List Byte} (hturn : txServed s ring.val = true)
include hturn

theorem exec_txFrameFetch_runs
    (hrun : runOf (descs.take (frDist s true ring.val (txNext s ring.val) (frTail s true ring.val))) ≠ []) :
    exec (.txFrameFetch ring descs octets) s = nextOf s (
      let r := ring.val
      let run := runOf (descs.take (frDist s true r (txNext s r) (frTail s true r)))
      let u := { s with pool := { s.pool with txLast := smSet (fun _ => 1023) s.pool.txLast (b2n (frameLink s r)) r } }
      if ¬ runOk run then txTake u r run (some 3)
      else
        let o := slice octets 0 (sumBy run descBytes)
        let w3 := descWord (run.headD []) 3
        addFrame (txFrees (txTake u r run none) r (txNext u r) run)
          { id := 0, octets := o ++ leBytes 4 (crc32 o), port := 264, firstPort := 264, stage := .reentry, origin := some (r, txNext u r)
            txFlags := b2n (w3.testBit 60) + 2 * b2n (w3.testBit 59), txTag := bits (descWord (run.headD []) 2) 63 32
            launch := if w3.testBit 58 then some (descWord (run.headD []) 1) else none }) := by
  have hg : (txServed s ring.val
      && !(runOf (descs.take (frDist s true ring.val (txNext s ring.val) (frTail s true ring.val)))).isEmpty) = true := by
    rw [hturn, Bool.true_and, Bool.not_eq_true', List.isEmpty_eq_false_iff]; exact hrun
  exact congrArg (nextOf s) (onlyIf_pos hg _ _)

end

theorem exec_txWriteBack_found {s : State} {ring : Fin 1024} {first : Nat} {x : TxOut}
    (hx : s.pool.txOut.find? (fun x => x.ring = ring.val && x.first = first && !x.written) = some x) :
    exec (.txWriteBack ring first) s = nextOf s
      (onlyIf (txGone s ring.val first && s.pool.txFree.all (fun y => y.1 ≠ ring.val || y.2.1 ≠ first)) s
        (let u := emit s (.memWrite (.host (frameLink s ring.val)) (x.addr + 24) (leBytes 8 (txW3 x)))
         frRaise (txAdvance { u with pool := { u.pool with
           txOut := u.pool.txOut.map (fun y => if y = x then { y with written := true } else y) } } ring.val) true ring.val)) := by
  rw [exec_txWriteBack, execTxWriteBack]
  simp only [hx]

theorem exec_ringDmaFault_rx {s : State} {ring : Fin 1024} {x : RxChain} (addr : Nat) (descs : List (List Byte))
    (hx : s.pool.rx.find? (fun x => x.ring = ring.val && x.bufs.isSome) = some x) :
    exec (.ringDmaFault false ring addr descs) s = nextOf s
      (onlyIf (frState s false ring.val = frRun && decide ((x.bufs.getD []).length ≤ rxSlots s ring.val)) s
        (post (wrB (setFrState (rxDrop s x) false ring.val frStopped) (rFr false ring.val 0x20) 8 true) 0x8C25
          (frOrigin false ring.val) [(1, b2n false), (2, ring.val), (8, addr)])) := by
  rw [exec_ringDmaFault, execRingDmaFault]
  simp only [Bool.false_eq_true, if_false, hx]

/-- Settles O52: each event's guard holds, and its effect is the one of its own row. -/
theorem hostFrameEventsComplete : Obligations.HostFrameEventsComplete := by
  unfold Obligations.HostFrameEventsComplete
  intro s
  refine ⟨fun pool => ?_, fun copy x c l f hx hc hl hf hdev hup hslots => ?_, fun copy x c hx hc hwait => ?_,
    fun ring link v => ?_, fun ring descs octets => ?_, fun ring first x => ?_, fun ring addr descs => ?_⟩
  · intro k hen
    refine ⟨fun addr => congrArg (nextOf s) (onlyIf_pos hen _ _), fun hbusy => ?_⟩
    intro u
    have hg : (poolEnabled s k && poolBusy s k) = true := by rw [hen, hbusy]; rfl
    exact congrArg (nextOf s) (onlyIf_pos hg _ _)
  · have hg : (devState s = stRun && rxUp s x.ring && decide (l.length ≤ rxSlots s x.ring)) = true := by
      rw [decide_eq_true hdev, hup, decide_eq_true hslots]; rfl
    exact (exec_hostRxDeliver_found hx hc hl hf).trans (congrArg (nextOf s) (onlyIf_pos hg _ _))
  · intro drop
    exact ⟨exec_rxWaitExpire_buffers hx hc hwait, fun l hl h => exec_rxWaitExpire_slots hx hc hwait hl h⟩
  · intro r hv hdev hown h d
    exact ⟨congrArg (nextOf s) (frDoorbell_taken false hv hdev hown _), congrArg (nextOf s) (frDoorbell_taken true hv hdev hown _)⟩
  · intro r run u hturn hrun
    refine ⟨fun hbad => ?_, fun hok => ?_⟩
    · exact (exec_txFrameFetch_runs hturn hrun).trans (congrArg (nextOf s) (if_pos (by rw [hbad]; decide)))
    · exact (exec_txFrameFetch_runs hturn hrun).trans (congrArg (nextOf s) (if_neg (not_not.2 hok)))
  · intro r hx hgone hfree u
    have hall : s.pool.txFree.all (fun y => y.1 ≠ r || y.2.1 ≠ first) = true := by
      rw [List.all_eq_true]
      intro y hy
      by_cases h1 : y.1 = r
      · rw [Bool.or_eq_true, decide_eq_true_eq, decide_eq_true_eq]; exact .inr fun h2 => hfree y hy h1 h2
      · rw [decide_eq_true h1]; rfl
    have hg : (txGone s r first && s.pool.txFree.all (fun y => y.1 ≠ r || y.2.1 ≠ first)) = true := by rw [hgone, hall]; rfl
    exact (exec_txWriteBack_found hx).trans (congrArg (nextOf s) (onlyIf_pos hg _ _))
  · intro r fault run
    refine ⟨fun hturn => ?_, fun x l hx hl hst hslots => ?_⟩
    · exact congrArg (nextOf s) ((if_pos rfl).trans (onlyIf_pos hturn _ _))
    · have hg : (frState s false r = frRun && decide ((x.bufs.getD []).length ≤ rxSlots s r)) = true := by
        rw [hl, decide_eq_true hst, Option.getD_some, decide_eq_true hslots]; rfl
      exact (exec_ringDmaFault_rx addr descs hx).trans (congrArg (nextOf s) (onlyIf_pos hg _ _))

end Sys2Proof.Machine
end

section
/-! PROOFS. The stages of the ingress side. -/
namespace Sys2Proof.Machine

-- Stage 3

/-- A verdict of a whole frame: none that stage 3 gives only of one still arriving. -/
def ForWhole (v : RxVerdict) : Prop := v ≠ .whole ∧ ∀ o tag, v ≠ .strip o tag

theorem forWhole_drop : ForWhole .drop := ⟨nofun, nofun⟩
theorem forWhole_pass (o : List Byte) (dec : Bool) : ForWhole (.pass o dec) := ⟨nofun, nofun⟩
theorem forWhole_pending (o : List Byte) (a pn : Nat) (strict : Bool) (tag : Nat × Nat × Bool) :
    ForWhole (.pending o a pn strict tag) := ⟨nofun, nofun⟩

theorem forWhole_ite {c : Prop} [Decidable c] {x y : State × RxVerdict} (hx : ForWhole x.2) (hy : ForWhole y.2) :
    ForWhole (if c then x else y).2 :=
  iteInduction (motive := fun r : State × RxVerdict => ForWhole r.2) (fun _ => hx) (fun _ => hy)

/-- The check of a whole frame decides: it neither waits for the rest nor releases a part (R365 to R375). -/
theorem rxCheck_whole (s : State) (i : Nat) (o : List Byte) (n : Nat) (icvOk : Bool) (plain : List Byte) :
    ForWhole (rxCheck s i o n false icvOk plain).2 := by
  unfold rxCheck
  refine forWhole_ite (forWhole_ite (forWhole_pass _ _) (forWhole_ite forWhole_drop (forWhole_pass _ _)))
    (forWhole_ite forWhole_drop (forWhole_ite forWhole_drop ?_))
  cases anMap s i (tagAn (secTagAt o (afterTags o (min (rdF s (rSecyCfg i) 25 24) 2)))) with
  | none => exact forWhole_drop
  | some a =>
    refine forWhole_ite forWhole_drop (forWhole_ite forWhole_drop (forWhole_ite ?_ (forWhole_ite (forWhole_pending _ _ _ _ _) ?_)))
    · rw [if_neg (fun h => Bool.false_ne_true h.1)]
      exact forWhole_pass _ _
    · rw [if_neg Bool.false_ne_true]
      exact forWhole_ite forWhole_drop (forWhole_ite (forWhole_pass _ _) (forWhole_pass _ _))

/-- What stage 3 makes of its verdict `v` on a whole frame, with its counts in `t` (R365 to R375). -/
def secyDecided (s t : State) (f : Frame) (i frame : Nat) : RxVerdict → State
  | .drop => removeFrame t frame
  | .whole => s
  | .strip _ _ => s
  | .pass o dec => putFrame (if dec then decryptPerf t f.port else t) { f with
      octets := o, stage := .clear, rxSecy := if dec then some i else none, decrypted := f.decrypted || dec }
  | .pending o a pn strict tag => putFrame (decryptPerf t f.port) { f with
      octets := o, stage := .clear, rxSecy := some i, rxSa := a, rxPn := pn, rxStrict := strict, icvPending := true
      decrypted := true, rxTag := some tag }

section
variable {s : State} {frame : Nat} {f : Frame} (hf : findFrame s frame = some f)
include hf

/-- A whole frame whose turn at stage 3 it is. -/
theorem exec_receiveSecyCheck_turn {i : Nat} (hi : rxSecyOf s f.port f.octets = some i) (hb : beforeStage3 f = true)
    (ht : stage3Turn s f = true) (icvOk : Bool) (plain : List Byte) :
    exec (.receiveSecyCheck frame icvOk plain) s = nextOf s (secyDecided s (rxCheck s i f.octets (f.octets.length - 4) false icvOk plain).1
      f i frame (rxCheck s i f.octets (f.octets.length - 4) false icvOk plain).2) := by
  have hg : (beforeStage3 f && stage3Turn s f) = true := by rw [hb, ht]; rfl
  rw [exec_receiveSecyCheck, execReceiveSecyCheck, hf]
  dsimp only
  rw [hi]
  dsimp only
  rw [onlyIf_pos hg]
  generalize rxCheck s i f.octets (f.octets.length - 4) false icvOk plain = r
  obtain ⟨t, v⟩ := r
  cases v <;> rfl

theorem exec_stompIcvDecided_runs (hp : f.icvPending = true) (hr : f.receiving = false) (ho : f.icvOf = none) (ok : Bool) :
    exec (.stompIcvDecided frame ok) s = nextOf s (
      let i := f.rxSecy.getD 0
      let g := { f with icvPending := false }
      if ok then
        reapFrame (settleLearn (putFrame (settleMirrors (acceptPn (rxOk s f.rxSa (cameWith f)) i f.rxSa f.rxPn) frame true) g) g true)
          frame
      else if f.rxStrict then
        icvFailed (settleLearn (putFrame (settleMirrors (rxNotValid s i f.rxSa f.rxPn) frame false) g) g false) { g with learn := none }
      else
        reapFrame (settleLearn (putFrame (settleMirrors (acceptPn (wrapAdd s (rSa true f.rxSa 0x30) 48 1) i f.rxSa f.rxPn) frame true)
          g) g false) frame) := by
  have hg : (f.icvPending && !f.receiving && f.icvOf.isNone) = true := by rw [hp, hr, ho]; rfl
  rw [exec_stompIcvDecided, execStompIcvDecided]
  simp only [hf, onlyIf_pos hg]

end

-- The header gather

section
variable {s : State} {g : Gather} (hdev : devState s = stRun)
include hdev

theorem exec_headerGatherRelease_held {id : Nat} {f : Frame} (hid : g.frame = some id) (hf : findFrame s id = some f)
    (hready : gatherReady s f = true) (hturn : headerTurn s f = true) :
    exec (.headerGatherRelease g) s = nextOf s
      (ingress (takeSlot s f) (withCharge s { f with len := f.octets.length }) (g.slipA, g.slipB) g.flipped) := by
  have hg : (gatherReady s f && headerTurn s f) = true := by rw [hready, hturn]; rfl
  rw [exec_headerGatherRelease, execHeaderGatherRelease, onlyIf_pos (decide_eq_true hdev)]
  simp only [hid, hf, onlyIf_pos hg]

theorem exec_headerGatherRelease_early {a f : Frame} {t : State} (hid : g.frame = none) (ha : arriving s g = some a)
    (he : earlyFrame s a g.user = some (t, f)) (hreach : min f.len (gatherReach s g.port) ≤ f.octets.length) :
    exec (.headerGatherRelease g) s = nextOf s
      (if headerTurn s f then ingress (addFrame (takeSlot t f) f) (withCharge s f) (g.slipA, g.slipB) g.flipped
        else setHdrWait s f.port true) := by
  have hb : (arriving s g).bind (fun f => earlyFrame s f g.user) = some (t, f) := by rw [ha]; exact he
  rw [exec_headerGatherRelease, execHeaderGatherRelease, onlyIf_pos (decide_eq_true hdev)]
  simp only [hid, hb, onlyIf_pos (decide_eq_true hreach)]

end

theorem earlyFrame_none {s : State} {f : Frame} {user : List Byte} (h : rxSecyOf s f.port f.octets = none) :
    earlyFrame s f user = some (s, f) := by
  unfold earlyFrame; rw [h]

/-- Settles O53: each event's guard holds, and its effect is the one of its own row. -/
theorem ingressStagesComplete : Obligations.IngressStagesComplete := by
  unfold Obligations.IngressStagesComplete
  intro s
  refine ⟨fun frame f i icvOk plain hf hi hb ht => ?_, fun frame f hf hp hr ho => ?_, fun g id f hdev hid hf hready hturn => ?_,
    fun g a hdev hid ha => ⟨earlyFrame_none, fun t f he hreach => ⟨fun hturn => ?_, fun hturn => ?_⟩⟩,
    fun frame f hf hst hage => ?_, fun r hr => ?_, fun x hx => ?_⟩
  · intro r d
    have hrun := exec_receiveSecyCheck_turn hf hi hb ht icvOk plain
    exact ⟨fun hv => by rw [hrun, hv]; rfl, fun o dec hv => by rw [hrun, hv]; rfl,
      fun o a pn strict tag hv => by rw [hrun, hv]; rfl, rxCheck_whole _ _ _ _ _ _⟩
  · intro i g
    have hrun := exec_stompIcvDecided_runs hf hp hr ho
    exact ⟨hrun true, fun hs => (hrun false).trans (congrArg (nextOf s) ((if_neg (by decide)).trans (if_pos hs))),
      fun hs => (hrun false).trans (congrArg (nextOf s) ((if_neg (by decide)).trans (if_neg (by rw [hs]; decide))))⟩
  · exact exec_headerGatherRelease_held hdev hid hf hready hturn
  · exact (exec_headerGatherRelease_early hdev hid ha he hreach).trans (congrArg (nextOf s) (if_pos hturn))
  · exact (exec_headerGatherRelease_early hdev hid ha he hreach).trans (congrArg (nextOf s) (if_neg (by rw [hturn]; decide)))
  · intro queued tiles htiles u u'
    have hg : (decide (residencyMax s ≤ s.cycle - f.firstStamp) && f.stamped && !tiles.isEmpty) = true := by
      rw [decide_eq_true hage, hst, List.isEmpty_eq_false_iff.2 htiles]; rfl
    rw [exec_recircAged, execRecircAged, hf]
    exact congrArg (nextOf s) (onlyIf_pos hg _ _)
  · rw [exec_fragInsertLost, execFragInsertLost, hr]; rfl
  · rw [exec_fragHoldExpire, execFragHoldExpire, hx]; rfl

end Sys2Proof.Machine
end

section
/-! PROOFS. The stages of the core: the fetches and matchings of the planes, the deep store, the last octet, credit and stomps. -/
namespace Sys2Proof.Machine

-- SHARED_FETCH

section
variable {s : State} {tile : Fin 8} {plane : Fin 4} {u : Nat} {c : Copy}
  (hmode : voqMode s = false) (hsend : sendBusy s tile.val plane.val = false)
  (hu : findFrom 8 (ptr s 2 plane.val tile.val)
    (fun u => (fetchOf s tile.val plane.val u).isSome && !recvBusy s u plane.val) = some u)
  (hc : fetchOf s tile.val plane.val u = some c)
include hmode hsend hu hc

/-- The second fetch that shares the slot of a short one (R677). -/
def secondFetch (s v : State) (t p u : Nat) (c : Copy) : Option Copy :=
  if shortCopy s c then v.path.copies.find? (fun d => fetchWaits v t p d && tileOf d.port = u && shortCopy v d) else none

/-- The core after the first cohort `l`, in state `v`, and the second fetch. -/
def fetchServed (v : State) (t p : Nat) (l : List Copy) (second : Option Copy) : State :=
  second.elim v (fun d => perf (serveFetch v t p (fetchCohort v t p d (fun x =>
    (l.map (fun y => tileOf y.port)).contains x || !recvBusy v x p)) d.frame) t 0x0109 1)

theorem exec_sharedFetch_serves :
    let t := tile.val
    let p := plane.val
    let l := fetchCohort s t p c (fun v => !recvBusy s v p)
    let v := serveFetch s t p l c.frame
    exec (.sharedFetch tile plane) s = nextOf s (setPtr (fetchServed v t p l (secondFetch s v t p u c)) 2 p t ((u + 1) % 8)) := by
  have hidle : ¬ (voqMode s = true ∨ sendBusy s tile.val plane.val = true) := by rw [hmode, hsend]; decide
  intro t p l v
  rw [exec_sharedFetch, execSharedFetch]
  simp only [if_neg hidle, hu, hc]
  refine congrArg (fun w => nextOf s (setPtr w 2 p t ((u + 1) % 8))) ?_
  unfold secondFetch
  generalize (if shortCopy s c = true then _ else none : Option Copy) = second
  cases second <;> rfl

end

-- LAST_OCTET_WRITTEN

/-- What the credit account of a copy of `frame` paid beyond `n` cells comes back (R671). -/
def creditBack (frame n : Nat) (s : State) (c : Copy) : State :=
  if voqMode s ∧ c.frame = frame ∧ c.stage ≠ .queued ∧ c.stage ≠ .staged ∧ c.stage ≠ .deep ∧ c.port < 266 ∧ n < c.charge then
    setCredit s c.port c.cls (creditOf s c.port c.cls + (c.charge - n : Nat))
  else s

theorem creditBack_cycle (frame n : Nat) (s : State) (c : Copy) : (creditBack frame n s c).cycle = s.cycle :=
  iteInduction (motive := fun t : State => t.cycle = s.cycle) (fun _ => rfl) (fun _ => rfl)

theorem foldl_creditBack_cycle (frame n : Nat) (l : List Copy) (s : State) :
    (l.foldl (creditBack frame n) s).cycle = s.cycle := by
  induction l generalizing s with
  | nil => rfl
  | cons c l ih => exact (ih _).trans (creditBack_cycle frame n s c)

/-- The charges, the holds and the frame once its `n` cells are written, the last in the cycle before `x` (R649). -/
def octetsWritten (w : State) (f : Frame) (frame n x : Nat) : State :=
  let u := setCopies w (w.path.copies.map (fun c => if c.frame = frame then { c with charge := min c.charge n } else c))
  let v : State := { u with core := { u.core with
    holds := u.core.holds.map (fun h => if h.frame = frame ∧ h.cells = 0 then { h with cells := n, wroteAt := x } else h) } }
  releaseCells (putFrame v { f with
    complete := true, cells := n, charge := min f.charge n, cellIdx := f.cellIdx.take n, wroteAt := x }) frame

theorem exec_lastOctetWritten_fits {s : State} {frame : Nat} {f : Frame} (hf : findFrame s frame = some f)
    (hg : (!f.complete && !f.receiving && decide (f.stage = .held)) = true) :
    let n := cellsOf f.octets.length
    let w := s.path.copies.foldl (creditBack frame n) s
    exec (.lastOctetWritten frame) s = nextOf s (octetsWritten w f frame n (w.cycle + 1)) := by
  intro n w
  rw [exec_lastOctetWritten, execLastOctetWritten, hf]
  exact congrArg (nextOf s) (onlyIf_pos hg _ _)

-- PLANE_CROSSING

theorem crossed_of {s : State} {c : Copy} {f : Frame} (hf : findFrame s c.frame = some f) (hc : f.complete = true)
    (hr : f.receiving = false) (hx : c.crossAt + cellsOf f.octets.length ≤ s.cycle) (hw : f.wroteAt < s.cycle) :
    crossed s c = true := by
  rw [crossed, hf]
  simp only [Option.elim_some, hc, hr, decide_eq_true hx, decide_eq_true hw]
  decide

/-- Settles O54: each event's guard holds, and its effect is the one of its own row. -/
theorem coreStagesComplete : Obligations.CoreStagesComplete := by
  unfold Obligations.CoreStagesComplete
  intro s
  refine ⟨fun tile plane u c => ?_, fun plane => ?_, fun copy c f hc hst hf hcomp hrec hx hw => ?_,
    fun tile c f hdeep hf hcomp hrec hc => ?_, fun tile c hdeep hc => ?_, fun frame f hf hcomp hrec hst => ?_,
    fun port q => ?_, fun frame f cause hf hst hbad => ?_⟩
  · intro t p hmode hsend hu hc l v short
    have hrun : exec (.sharedFetch tile plane) s
        = nextOf s (setPtr (fetchServed v t p l (secondFetch s v t p u c)) 2 p t ((u + 1) % 8)) :=
      exec_sharedFetch_serves hmode hsend hu hc
    refine ⟨fun h => hrun.trans (congrArg (fun w => nextOf s (setPtr w 2 p t ((u + 1) % 8))) ?_), fun d hs hd => ?_⟩
    · have hnone : secondFetch s v t p u c = none := by
        rcases h with h | h
        · exact if_neg (by rw [h]; decide)
        · exact ite_eq_right_iff.2 (fun _ => h)
      rw [hnone]; rfl
    · have hsome : secondFetch s v t p u c = some d := (if_pos hs).trans hd
      rw [hrun, hsome]
      intro both
      rfl
  · intro p m u1 u2 u3 pairs hmode hfree
    have hany : s.core.matchQ.any (fun m => decide (m.plane = p) && decide (m.slot = s.cycle + 4)) = false := by
      rw [List.any_eq_false]
      intro x hx
      simp only [Bool.and_eq_true, decide_eq_true_eq, not_and]
      exact hfree x hx
    have hg : (voqMode s && !s.core.matchQ.any (fun m => decide (m.plane = p) && decide (m.slot = s.cycle + 4))) = true := by
      rw [hmode, hany]; rfl
    rw [exec_roundsMatch, execRoundsMatch, onlyIf_pos hg]
    rfl
  · intro late
    have hg : ((decide (c.stage = .crossing) || c.cutting) && crossed s c) = true := by
      rw [crossed_of hf hcomp hrec hx hw]
      rcases hst with h | h
      · rw [decide_eq_true h]; rfl
      · rw [h, Bool.or_true]; rfl
    rw [exec_planeCrossing, execPlaneCrossing, hc]
    simp only [onlyIf_pos hg, hf, Option.elim_some, Bool.not_eq_true]
    rfl
  · rw [exec_spillCopy, execSpillCopy, onlyIf_pos hdeep, hc]
    refine congrArg (nextOf s) (onlyIf_pos ?_ _ _)
    rw [hf, Option.elim_some, hcomp, hrec]; rfl
  · intro u x u' src
    rw [exec_refill, execRefill, onlyIf_pos hdeep, hc]
    rfl
  · intro n s' u l v
    have hg : (!f.complete && !f.receiving && decide (f.stage = .held)) = true := by
      rw [hcomp, hrec, decide_eq_true hst]; rfl
    have hcycle : s'.cycle = s.cycle := foldl_creditBack_cycle frame n s.path.copies s
    exact (exec_lastOctetWritten_fits hf hg).trans
      (congrArg (fun x => nextOf s (octetsWritten s' f frame n (x + 1))) hcycle)
  · intro p img k elig u c v w hmode hport hdue hq
    have hg : (voqMode s && portPresent s p && decide (vGet s (vKey 1 p 60) ≤ s.cycle)) = true := by
      rw [hmode, hport, decide_eq_true hdue]; rfl
    rw [exec_creditIssue, execCreditIssue, onlyIf_pos hg]
    dsimp only
    rw [show chooseQueue _ _ _ _ _ _ = some q from hq]
    rfl
  · have hg : (decide (f.stage = .held) && (decide (f.bad = some cause.val) && decide (cause.val ≠ 3)
        || (f.bad.isNone && decide (cause.val = 4)))) = true := by
      rw [decide_eq_true hst]
      rcases hbad with ⟨h, h3⟩ | ⟨h, h4⟩
      · rw [decide_eq_true h, decide_eq_true h3]; rfl
      · rw [h, decide_eq_true h4, Bool.and_true, Option.isNone_none, Bool.or_true]; rfl
    rw [exec_stomp, execStomp, hf]
    exact congrArg (nextOf s) (onlyIf_pos hg _ _)

end Sys2Proof.Machine
end

section
/-! PROOFS. Selection, stages 12 and 13 and the end of a transmission. -/
namespace Sys2Proof.Machine

theorem txMark_path (s : State) (frame : Nat) (u : TxOut → TxOut) : (txMark s frame u).path = s.path := by
  unfold txMark
  cases (findFrame s frame).bind (fun f => f.origin) <;> rfl

theorem arrivingFrame_txMark (s : State) (frame : Nat) (u : TxOut → TxOut) (p : Nat) (pre : Bool) :
    arrivingFrame (txMark s frame u) p pre = arrivingFrame s p pre := by
  unfold arrivingFrame; rw [txMark_path]

-- SCHEDULER_SELECT

section
variable {s : State} {port : Fin 266} {express : Bool} (hdev : devState s = stRun) (hport : portPresent s port.val = true)
  (hfree : streamFree s port.val express = true) (hlanes : lanesIdle s port.val = false)
include hdev hport hfree hlanes

/-- Queue q of a port may give its stream a frame (R721, R727). -/
def mayServe (s : State) (p : Nat) (express : Bool) (q : Nat) : Bool :=
  (!mmActive s p || isExpress s p q == express) && queueEligible s p q

theorem schedulerSelect_guard :
    (decide (devState s = stRun) && portPresent s port.val && streamFree s port.val express && !lanesIdle s port.val) = true := by
  rw [decide_eq_true hdev, hport, hfree, hlanes]; rfl

theorem exec_schedulerSelect_express {c : Copy} (h8 : mayServe s port.val express 8 = true) (hc : queueHead s port.val 8 = some c) :
    exec (.schedulerSelect port express) s
      = nextOf s (serveQueue (retagPort s port.val) port.val (spCount (schedRow s port.val)) 8 c) := by
  rw [exec_schedulerSelect, execSchedulerSelect, onlyIf_pos (schedulerSelect_guard hdev hport hfree hlanes)]
  exact congrArg (nextOf s) ((if_pos h8).trans (by rw [hc]; rfl))

theorem exec_schedulerSelect_class {q : Nat} {c : Copy} (h8 : mayServe s port.val express 8 = false)
    (hq : chooseQueue (retagPort s port.val) 0 port.val (spCount (schedRow s port.val)) (mayServe s port.val express)
      (committed (retagPort s port.val) port.val) = some q)
    (hc : queueHead s port.val q = some c) :
    exec (.schedulerSelect port express) s
      = nextOf s (serveQueue (retagPort s port.val) port.val (spCount (schedRow s port.val)) q c) := by
  rw [exec_schedulerSelect, execSchedulerSelect, onlyIf_pos (schedulerSelect_guard hdev hport hfree hlanes)]
  refine congrArg (nextOf s) ((if_neg (Bool.eq_false_iff.1 h8)).trans ?_)
  dsimp only
  rw [show chooseQueue _ _ _ _ (fun q => (!mmActive s port.val || isExpress s port.val q == express)
    && queueEligible s port.val q) _ = some q from hq]
  dsimp only
  rw [hc]; rfl

end

theorem exec_launchLate_passed {s : State} {port : Fin 266} {c : Copy} (hc : queueHead s port.val 8 = some c) (hl : c.late = false)
    (hp : launchLate s port.val c = true) :
    exec (.launchLate port) s = nextOf s
      (if rdB s (rPortTimeCfg port.val) 0 then launchCount (dropCopy (txCause (markSojourn s c) c.frame 2) c) port.val true
        else launchCount (putCopy s { c with late := true }) port.val false) := by
  have hg : (!c.late && launchLate s port.val c) = true := by rw [hl, hp]; rfl
  rw [exec_launchLate, execLaunchLate, hc]
  exact congrArg (nextOf s) (onlyIf_pos hg _ _)

-- EGRESS_PIPELINE

section
variable {s : State} {copy : Nat} {c : Copy} {f : Frame} (hc : findCopy s copy = some c) (hf : findFrame s c.frame = some f)
  (hready : egressReady s { c with parity := live s } = true) (hturn : egressTurn s f { c with parity := live s } = true)
  (secure : List Byte) (flipped : List Nat)
include hc hf hready hturn

theorem exec_egressPipeline_snare (hk : c.kind = 1) (hr : f.receiving = false) :
    let c := { c with parity := live s }
    exec (.egressPipeline copy secure flipped) s = nextOf s
      (stage13 (egressSearch (takeEgress s f c) (live s) f c false flipped).1 (live s) f c (bodyOf f) secure none) := by
  have hg : ¬ (¬ egressReady s { c with parity := live s } = true ∨ ¬ egressTurn s f { c with parity := live s } = true) := by
    rw [hready, hturn]; decide
  rw [exec_egressPipeline, execEgressPipeline]
  simp only [hc, hf, if_neg hg, if_pos hk, hr, Bool.false_eq_true, if_false]

theorem exec_egressPipeline_mirror (hk : c.kind = 2) (hr : f.receiving = false) :
    let c := { c with parity := live s }
    let img := row s (live s) 0x511 (rdF s (rMirrorCfg c.reason) 60 49)
    let on := rdB s (rMirrorCfg c.reason) 62
    let o := if on then slugPush img f.flowHash (bodyOf f) else bodyOf f
    exec (.egressPipeline copy secure flipped) s = nextOf s
      (if egressLimit s c.port < o.length + 4 ∧ on = true ∧ 0 < slugLen img then egressDrop s c
        else stage13 s (live s) f c o secure
          (if c.port < 264 ∧ hasCipher s = true then (txSecy s (live s) c.port none).2 else none)) := by
  have hg : ¬ (¬ egressReady s { c with parity := live s } = true ∨ ¬ egressTurn s f { c with parity := live s } = true) := by
    rw [hready, hturn]; decide
  have h1 : ¬ c.kind = 1 := by rw [hk]; decide
  rw [exec_egressPipeline, execEgressPipeline]
  simp only [hc, hf, if_neg hg, if_neg h1, if_pos hk, hr, Bool.false_eq_true, if_false]

theorem exec_egressPipeline_forward (hk : c.kind = 0)
    (hr : f.receiving = false ∨ (stage12 s (live s) f { c with parity := live s } flipped).mirror = 0
      ∧ (stage12 s (live s) f { c with parity := live s } flipped).slug = false) :
    let c := { c with parity := live s }
    let r := stage12 s (live s) f c flipped
    let u := takeEgress r.s f c
    let v (secret : Bool) := if r.mirror = 0 then u else mirrorMask u r.mirror f r.full secret
    exec (.egressPipeline copy secure flipped) s = nextOf s
      (r.octets.elim (dropCopy (v f.decrypted) c)
        (fun o => stage13 (v (f.decrypted || encrypts s (live s) r.secy o)) (live s) f { c with tailCsum := r.csum } o secure r.secy)) := by
  have hg : ¬ (¬ egressReady s { c with parity := live s } = true ∨ ¬ egressTurn s f { c with parity := live s } = true) := by
    rw [hready, hturn]; decide
  have h1 : ¬ c.kind = 1 := by rw [hk]; decide
  have h2 : ¬ c.kind = 2 := by rw [hk]; decide
  intro c' r u v
  have hw : ¬ (f.receiving = true ∧ (r.mirror ≠ 0 ∨ r.slug = true)) := by
    rintro ⟨h, hm⟩
    rcases hr with hr | ⟨hm0, hs0⟩
    · exact Bool.false_ne_true (hr.symm.trans h)
    · rcases hm with hm | hs
      · exact hm hm0
      · exact Bool.false_ne_true (hs0.symm.trans hs)
  rw [exec_egressPipeline, execEgressPipeline]
  simp only [hc, hf, if_neg hg, if_neg h1, if_neg h2]
  rw [if_neg hw]
  cases ho : r.octets with
  | none => simp only [Option.elim_none, Bool.or_false]; rfl
  | some o => rfl

end

-- FRAME_TRANSMIT_END

theorem transmitEnd_guard {s : State} {c : Copy} {f : Frame} (hst : c.stage = .mac) (hstart : c.started = true)
    (hcut : c.cutting = false) (hpre : c.preempted = false) (hrec : f.receiving = false) (hcomp : f.complete = true)
    (hicv : f.icvPending = false) (hbad : f.bad = none) (hlanes : lanesIdle s c.port = false) :
    (decide (c.stage = .mac) && c.started && !c.cutting && !c.preempted && !f.receiving && f.complete && !f.icvPending
      && f.bad.isNone && !lanesIdle s c.port) = true := by
  rw [decide_eq_true hst, hstart, hcut, hpre, hrec, hcomp, hicv, hbad, hlanes]; rfl

/-- Settles O55: each event's guard holds, and its effect is the one of its own row. -/
theorem transmitStagesComplete : Obligations.TransmitStagesComplete := by
  unfold Obligations.TransmitStagesComplete
  intro s
  refine ⟨fun port express => ?_, fun port c => exec_launchLate_passed, fun copy c f secure flipped hc hf => ?_,
    fun copy c f txTime hc hf hst hstart hcut hpre hrec hcomp hicv hbad hlanes => ?_,
    fun octets flags tag launch hup hdev hmin hmax hline => ?_⟩
  · intro p img k elig u hdev hport hfree hlanes
    exact ⟨fun c => exec_schedulerSelect_express hdev hport hfree hlanes,
      fun q c => exec_schedulerSelect_class hdev hport hfree hlanes⟩
  · intro c' hready hturn
    refine ⟨exec_egressPipeline_snare hc hf hready hturn secure flipped, ?_, ?_⟩
    · intro img on o
      exact exec_egressPipeline_mirror hc hf hready hturn secure flipped
    · intro r u hk hr
      have hrun := exec_egressPipeline_forward hc hf hready hturn secure flipped hk hr
      exact ⟨fun ho => hrun.trans (congrArg (nextOf s) (congrArg (fun x => Option.elim x _ _) ho)),
        fun o ho => hrun.trans (congrArg (nextOf s) (congrArg (fun x => Option.elim x _ _) ho))⟩
  · intro tx res o o' o'' u
    have hg := transmitEnd_guard hst hstart hcut hpre hrec hcomp hicv hbad hlanes
    rw [exec_frameTransmitEnd, execFrameTransmitEnd, hc]
    dsimp only
    rw [hf]
    dsimp only
    rw [onlyIf_pos hg]
    refine ⟨fun hp => ⟨fun ha => ?_, fun x ha => ?_⟩, fun hp => congrArg (nextOf s) (if_neg (by omega))⟩
    · refine congrArg (nextOf s) ((if_pos hp).trans ?_)
      rw [arrivingFrame_txMark, ha] <;> rfl
    · refine congrArg (nextOf s) ((if_pos hp).trans ?_)
      rw [arrivingFrame_txMark, ha] <;> rfl
  · have hg : (s.mp.mpUp && decide (devState s = stRun) && decide (60 ≤ octets.length) && decide (octets.length ≤ 16379)
        && mpLineFree s true) = true := by
      rw [hup, decide_eq_true hdev, decide_eq_true hmin, decide_eq_true hmax, hline]; rfl
    rw [exec_mpTransmit, execMpTransmit, onlyIf_pos hg]
    rfl

end Sys2Proof.Machine
end

section
/-! PROOFS. The device's housekeeping: the learn engine, repair and sweep, the Claves, the MP and maintenance. -/
namespace Sys2Proof.Machine

theorem lands_of {c : Instr} {s u : State} {P : State → Prop} (h : exec c s = nextOf s u) (hp : P (irqEdge s u)) : Lands c s P :=
  ⟨_, h, hp⟩

-- The Case

theorem caseOpen_idle {s : State} (h : caseBusyNow s = []) (t : State) : caseOpen s t = true := by
  unfold caseOpen; rw [h]; rfl

theorem exec_learnOperation_takes {s : State} {t : Nat} {r : LearnReq} {rest : List LearnReq}
    (ht : findFrom 8 s.learn.learnRr (fun t => !(smGet (fun _ => []) s.learn.learnQ t).isEmpty) = some t)
    (hq : smGet (fun _ => []) s.learn.learnQ t = r :: rest) :
    exec .learnOperation s = nextOf s (caseTurn s (learnAct { s with learn := { s.learn with
      learnQ := smSet (fun _ => []) s.learn.learnQ t rest, learnRr := (t + 1) % 8 } } r false)) := by
  rw [exec_learnOperation, execLearnOperation, ht]
  dsimp only
  rw [hq]

theorem exec_rebalancerRetry_takes {s : State} {r : LearnReq} {rest : List LearnReq} (hq : s.learn.rebal = r :: rest) :
    exec .rebalancerRetry s = nextOf s (caseTurn s (learnAct { s with learn := { s.learn with rebal := rest } } r true)) := by
  rw [exec_rebalancerRetry, execRebalancerRetry, hq]

theorem ageClockTick_lands {s : State} (h : s.learn.ageAt + 100 * cyclesPerMs ≤ s.cycle) :
    Lands .ageClockTick s fun t => t.learn.ageClock = (s.learn.ageClock + 1) % 65536 ∧
      t.learn.ageAt = s.learn.ageAt + 100 * cyclesPerMs ∧ t.forme = s.forme ∧ t.regs = s.regs := by
  refine lands_of (congrArg (nextOf s) (onlyIf_pos (decide_eq_true h) _ _)) ?_
  simp only [irqEdge_learn, irqEdge_forme, irqEdge_regs, and_self]

theorem learnRecord_forme (s : State) (kind bd mac old new : Nat) : (learnRecord s kind bd mac old new).forme = s.forme :=
  (learnRecord_keeps (Within.refl _) s kind bd mac old new (Keeps.refl _ _)).frame.formes rfl

theorem exec_ageingRemoval_old {s : State} {bd mac : Nat} {e : CaseEnt} (he : learnedFind s bd mac = some e) (h0 : 0 < ageLimit s)
    (hage : ageLimit s ≤ ageOf s e) :
    exec (.ageingRemoval bd mac) s = nextOf s (caseTurn s (learnRecord (removeEnt s e) 2 bd mac (entDest e) 0)) := by
  have hg : (decide (0 < ageLimit s) && decide (ageLimit s ≤ ageOf s e)) = true := by
    rw [decide_eq_true h0, decide_eq_true hage]; rfl
  rw [exec_ageingRemoval, execAgeingRemoval, he]
  exact congrArg (fun t => nextOf s (caseTurn s t)) (onlyIf_pos hg _ _)

theorem not_mem_removeEnt (s : State) (e : CaseEnt) : e ∉ (removeEnt s e).forme.case := fun h =>
  of_decide_eq_true (List.mem_filter.1 h).2 rfl

theorem postRate_frame (s : State) (gap unit code : Nat) (d : List (Nat × Nat)) : Outside 4104 s (postRate s gap unit code d) :=
  (postRate_keeps (Within.refl _) s gap unit code d (Keeps.refl _ _)).frame

theorem postRate_rd (s : State) (gap unit code : Nat) (d : List (Nat × Nat)) (o : Nat) (h : o ≠ rRecDrop) :
    rd (postRate s gap unit code d) o = rd s o := by
  unfold postRate postRateFrom
  dsimp only
  split
  · exact postHw_rd _ code d o h
  · rfl

theorem learnRecord_flushQ (s : State) (kind bd mac old new : Nat) :
    (learnRecord s kind bd mac old new).learn.flushQ = s.learn.flushQ := by
  unfold learnRecord
  split
  · rfl
  dsimp only
  split
  · rw [(postRate_frame _ _ _ _ _).learn rfl, (bump_keeps (Within.refl _) s _ (Keeps.refl _ _)).frame.learn rfl]
  · split
    · rw [(raiseReg_keeps (Within.refl _) _ _ _ (Keeps.refl _ _)).frame.learn rfl]; rfl
    · rfl

theorem foldl_learnRecord_same (l : List CaseEnt) (s : State) :
    (l.foldl (fun s e => learnRecord s 3 (keyBd e.key) (keyMac e.key) (entDest e) 0) s).forme = s.forme ∧
    (l.foldl (fun s e => learnRecord s 3 (keyBd e.key) (keyMac e.key) (entDest e) 0) s).learn.flushQ = s.learn.flushQ := by
  induction l generalizing s with
  | nil => exact ⟨rfl, rfl⟩
  | cons e l ih =>
    obtain ⟨hf, hq⟩ := ih (learnRecord s 3 (keyBd e.key) (keyMac e.key) (entDest e) 0)
    exact ⟨hf.trans (learnRecord_forme _ _ _ _ _ _), hq.trans (learnRecord_flushQ _ _ _ _ _ _)⟩

/-- The oldest request's entries have left, and their records are written (R565). -/
def flushed (s : State) (q : FlushReq) (rest : List FlushReq) : State :=
  (s.forme.case.filter (flushMatch q)).foldl (fun s e => learnRecord s 3 (keyBd e.key) (keyMac e.key) (entDest e) 0)
    (setCase { s with learn := { s.learn with flushQ := rest } } (s.forme.case.filter (fun e => !flushMatch q e)))

theorem exec_flushComplete_idle {s : State} {q : FlushReq} {rest : List FlushReq} (hq : s.learn.flushQ = q :: rest)
    (hidle : caseBusyNow s = []) :
    exec .flushComplete s = nextOf s (postRate (flushed s q rest) cyclesPerSec
      (if (q.scope = 1 ∨ q.scope = 3) ∧ q.dest < 266 then q.dest + 1 else 0) 0x0405
      [(1, q.scope), (4, q.dest), (2, q.bd), (4, (s.forme.case.filter (flushMatch q)).length)]) := by
  rw [exec_flushComplete, execFlushComplete, hq]
  exact congrArg (nextOf s) (if_pos (caseOpen_idle hidle _))

theorem flushComplete_lands {s : State} {q : FlushReq} {rest : List FlushReq} (hq : s.learn.flushQ = q :: rest)
    (hidle : caseBusyNow s = []) :
    Lands .flushComplete s fun t =>
      t.learn.flushQ = rest ∧ (∀ e, e ∈ t.forme.case ↔ e ∈ s.forme.case ∧ flushMatch q e = false) := by
  refine lands_of (exec_flushComplete_idle hq hidle) ?_
  obtain ⟨hf, hl⟩ := foldl_learnRecord_same (s.forme.case.filter (flushMatch q))
    (setCase { s with learn := { s.learn with flushQ := rest } } (s.forme.case.filter (fun e => !flushMatch q e)))
  rw [irqEdge_learn, irqEdge_forme, (postRate_frame _ _ _ _ _).learn rfl, (postRate_frame _ _ _ _ _).formes rfl]
  refine ⟨hl, fun e => ?_⟩
  rw [show (flushed s q rest).forme = _ from hf]
  exact List.mem_filter.trans (and_congr_right fun _ => by rw [Bool.not_eq_true'])

-- Repair and the sweep

theorem asaRepair_lands {s : State} {copy : Fin 32} {x : Nat × Nat} {q : List (Nat × Nat)} {n : Nat}
    (hq : smGet (fun _ => []) s.forme.asaRepair copy.val = x :: q) (hn : updateSlot s.cycle = some n)
    (hopen : fixOpen s n copy.val (pendingBanks s) (locBanks s x.1 x.2) = true) :
    Lands (.asaRepair copy) s fun t =>
      t.forme.asaRepair = smSet (fun _ => []) s.forme.asaRepair copy.val q ∧ t.forme.asa = s.forme.asa := by
  have hrun := exec_asaRepair copy s
  rw [execAsaRepair, hq, hn] at hrun
  refine lands_of (hrun.trans (congrArg (nextOf s) (onlyIf_pos hopen _ _))) ?_
  rw [irqEdge_forme]
  exact ⟨rfl, rfl⟩

theorem exec_asaRepair_noSlot {s : State} (hn : updateSlot s.cycle = none) (copy : Fin 32) :
    exec (.asaRepair copy) s = nextOf s s := by
  rw [exec_asaRepair, execAsaRepair, hn]
  cases smGet (fun _ => []) s.forme.asaRepair copy.val <;> rfl

theorem exec_asaSweep_noSlot {s : State} (hn : updateSlot s.cycle = none) (l : List (Nat × Nat × Nat)) :
    exec (.asaSweep l) s = nextOf s s := by
  rw [exec_asaSweep, execAsaSweep, hn]

/-- The sweep has read one row, in update slot n, and found nothing; `lag` are the banks it was denied so far. -/
def rowSwept (s : State) (n : Nat) (lag : SMap Nat) : State :=
  { s with forme := { s.forme with sweepRow := s.forme.sweepRow + 1, sweepLag := lag, sweepSlot := n + 1 } }

/-- A new pass begins once every bank has finished (R601). -/
def sweepWraps (s : State) : State :=
  if (sweepBanks s).all (fun k => decide (2048 ≤ sweepAt s k)) then
    wrF { s with forme := { s.forme with sweepRow := 0, sweepLag := [] } } rAsaStatus 31 0 (rdF s rAsaStatus 31 0 + 1)
  else s

theorem exec_asaSweep_clean {s : State} {n : Nat} (hst : stLoad ≤ devState s) (hen : rdB s rAsaCtrl 0 = true)
    (hn : updateSlot s.cycle = some n) (hslot : s.forme.sweepSlot ≠ n + 1) (hclean : ∀ c, badCells s c = []) :
    ∃ lag, exec (.asaSweep []) s = nextOf s (sweepWraps (rowSwept s n lag)) := by
  have hg : (decide (stLoad ≤ devState s) && rdB s rAsaCtrl 0 && decide (s.forme.sweepSlot ≠ n + 1)) = true := by
    rw [decide_eq_true hst, hen, decide_eq_true hslot]; rfl
  have hbad : (List.range 32).flatMap (fun c => (badCells s c).map (fun x => (c, x))) = [] := by
    simp only [hclean, List.map_nil, List.flatMap_eq_nil_iff, implies_true]
  rw [exec_asaSweep, execAsaSweep, hn]
  dsimp only
  rw [onlyIf_pos hg, hbad]
  exact ⟨_, rfl⟩

theorem asaSweep_lands {s : State} {n : Nat} (c : Canon s) (hst : stLoad ≤ devState s) (hen : rdB s rAsaCtrl 0 = true)
    (hn : updateSlot s.cycle = some n) (hslot : s.forme.sweepSlot ≠ n + 1) (hclean : ∀ c, badCells s c = []) :
    Lands (.asaSweep []) s fun t =>
      t.forme.asa = s.forme.asa ∧ t.forme.sweepSlot = n + 1 ∧
      (t.forme.sweepRow = s.forme.sweepRow + 1 ∧ t.regs = s.regs ∨
        t.forme.sweepRow = 0 ∧ rdF t rAsaStatus 31 0 = (rdF s rAsaStatus 31 0 + 1) % 2 ^ 32) := by
  obtain ⟨lag, hrun⟩ := exec_asaSweep_clean hst hen hn hslot hclean
  refine lands_of hrun ?_
  rw [irqEdge_forme, irqEdge_regs, irqEdge_rdF]
  unfold sweepWraps
  split
  · exact ⟨rfl, rfl, .inr ⟨rfl, rdF_wrF_same (s := { s with forme := _ }) c rAsaStatus _ (by decide) (by decide)⟩⟩
  · exact ⟨rfl, rfl, .inl ⟨rfl, rfl⟩⟩

theorem asaShadowLost_asa (s : State) (table loc : Nat) :
    (asaShadowLost s table loc).forme.asa = s.forme.asa.filter (fun e => !(e.table = table && e.loc = loc)) := by
  unfold asaShadowLost
  rw [journal_forme, (postHw_frame _ _ _).formes rfl]

-- The Claves

theorem ringsRun_of {s : State} {n : Nat} (hn : n < 64) (h : ringState s n = rsRun) : ringsRun s = true :=
  List.any_eq_true.2 ⟨n, List.mem_range.2 hn, decide_eq_true h⟩

theorem exec_claveFault_runs {s : State} {clave : Bool} (h : claveRuns s clave = true) (cause : Fin 2) (reexec : Fin 9) :
    exec (.claveFault clave cause reexec) s = nextOf s (claveYield s clave (cause.val + 1) reexec.val) :=
  congrArg (nextOf s) (onlyIf_pos h _ _)

theorem exec_claveWatchdog_stuck {s : State} {clave : Bool} (h : claveRuns s clave = true) {n : Nat} (hn : n < 64)
    (hrun : ringState s n = rsRun) (hp : progress s = s.ctl.wdogKey) (ht : s.ctl.wdogAt + 4096 ≤ s.cycle) :
    exec (.claveWatchdog clave) s = nextOf s (claveYield s clave 3 0) := by
  have hg : (claveRuns s clave && ringsRun s && decide (progress s = s.ctl.wdogKey) && decide (s.ctl.wdogAt + 4096 ≤ s.cycle)) = true := by
    rw [h, ringsRun_of hn hrun, decide_eq_true hp, decide_eq_true ht]; rfl
  exact congrArg (nextOf s) (onlyIf_pos hg _ _)

/-- The first correction of a Clave in a while (R900). -/
def claveCorrected (s : State) (clave : Bool) : State :=
  let k := b2n clave
  let hi := if clave then 63 else 31
  let lo := if clave then 32 else 0
  let n := min (rdF s rClaveCorr hi lo + 1) (2 ^ 32 - 1)
  let u := wrF s rClaveCorr hi lo n
  postRate { u with ctl := { u.ctl with claveCorr := smSet (fun _ => []) s.ctl.claveCorr k [s.cycle] } } cyclesPerSec k 0x0936 [(1, k), (4, n)]

theorem exec_claveCorr_first {s : State} {clave : Bool} (h : claveRuns s clave = true)
    (hnone : smGet (fun _ => []) s.ctl.claveCorr (b2n clave) = []) :
    exec (.claveCorr clave) s = nextOf s (claveCorrected s clave) := by
  rw [exec_claveCorr, execClaveCorr, onlyIf_pos h]
  cases clave <;> (simp only [wrF, wr, Bool.false_eq_true, if_false, if_true] ; rw [hnone]; rfl)

theorem claveCorr_lands {s : State} {clave : Bool} (h : claveRuns s clave = true)
    (hnone : smGet (fun _ => []) s.ctl.claveCorr (b2n clave) = []) (c : Canon s) :
    Lands (.claveCorr clave) s fun t =>
      rdF t rClaveCorr (if clave then 63 else 31) (if clave then 32 else 0) =
        min (rdF s rClaveCorr (if clave then 63 else 31) (if clave then 32 else 0) + 1) (2 ^ 32 - 1) ∧
      t.ctl.active = s.ctl.active := by
  refine lands_of (exec_claveCorr_first h hnone) ?_
  rw [irqEdge_rdF, irqEdge_ctl]
  unfold claveCorrected
  refine ⟨?_, by rw [(postRate_frame _ _ _ _ _).rings rfl]; rfl⟩
  rw [rdF_congr (postRate_rd _ _ _ _ _ _ (by decide))]
  refine (rdF_wrF_same c rClaveCorr _ ?_ ?_).trans (Nat.mod_eq_of_lt ?_)
  · cases clave <;> decide
  · cases clave <;> decide
  · cases clave <;> exact lt_of_le_of_lt (Nat.min_le_right _ _) (by decide)

theorem exec_handoverWindowClose_open {s : State} {c cause isn : Nat} (h : s.ctl.claveWindow = some (c, cause, isn)) :
    exec .handoverWindowClose s = nextOf s (postHw (journal
      (wrF { s with ctl := { s.ctl with claveWindow := none } } rClaveStatus 63 48 (min (rdF s rClaveStatus 63 48 + 1) 0xFFFF))
      0x0050 hwOrigin [(1, c), (1, cause), (8, isn)]) 0x8930 [(1, c), (1, cause), (8, isn)]) := by
  rw [exec_handoverWindowClose, execHandoverWindowClose, windowClose, h]
  rfl

theorem exec_claveMismatch_paired {s : State} (hm : claveMode s = cmPairedA ∨ claveMode s = cmPairedB)
    (ha : claveState s false ≠ 2) (hb : claveState s true ≠ 2) (isn output : Nat) :
    exec (.claveMismatch isn output) s = nextOf s
      (postHw (setClaveMode { s with ctl := { s.ctl with diagIsn := isn } } cmDiagnosing) 0x4931 [(8, isn), (4, output)]) := by
  have hg : (decide (claveMode s = cmPairedA) || decide (claveMode s = cmPairedB)) = true := by
    rwa [Bool.or_eq_true, decide_eq_true_eq, decide_eq_true_eq]
  rw [exec_claveMismatch, execClaveMismatch, onlyIf_pos hg, if_neg ha, if_neg hb]

theorem exec_shadowPeriodEnd_over {s : State} {clave : Bool} (h2 : claveState s clave = 2)
    (h : s.ctl.shadowCount + 1024 ≤ s.ctl.isn ∨ s.ctl.shadowSince + 100 * cyclesPerMs ≤ s.cycle) :
    exec (.shadowPeriodEnd clave) s = nextOf s
      (let u := setClaveState s clave 0
       if clave then u
       else postHw (journal { setClaveMode u cmPairedA with ctl := { u.ctl with active := false } } 0x0051 hwOrigin
         [(8, s.ctl.isn)]) 0x0933 [(8, s.ctl.isn - s.ctl.shadowCount)]) := by
  have hg : (decide (claveState s clave = 2) && (decide (s.ctl.shadowCount + 1024 ≤ s.ctl.isn)
      || decide (s.ctl.shadowSince + 100 * cyclesPerMs ≤ s.cycle))) = true := by
    rwa [decide_eq_true h2, Bool.true_and, Bool.or_eq_true, decide_eq_true_eq, decide_eq_true_eq]
  rw [exec_shadowPeriodEnd, execShadowPeriodEnd, onlyIf_pos hg]
  cases clave <;> rfl

-- The MP

theorem exec_mpShedStep_rises {s : State} {util : Nat} (hup : s.mp.mpUp = true) (hlow : shedThreshold s < util) (hmax : util ≤ 100)
    (hstep : shedStep s < 3) (hwait : shedStep s = 0 ∨ s.mp.shedAt + 100 * cyclesPerMs ≤ s.cycle) :
    let u := wrF { s with mp := { s.mp with shedAt := s.cycle } } rMpStatus 63 56 util
    let v := if rdB u rMpStatus 0 then u else postHw (wrB u rMpStatus 0 true) 0x4A01 [(1, util)]
    exec (.mpShedStep util) s = nextOf s (postHw (wrF v rMpStatus 2 1 (shedStep v + 1)) 0x4A02 [(1, shedStep v + 1), (1, 0)]) := by
  have hg : (s.mp.mpUp && decide (shedThreshold s < util) && decide (util ≤ 100) && decide (shedStep s < 3)
      && (decide (shedStep s = 0) || decide (s.mp.shedAt + 100 * cyclesPerMs ≤ s.cycle))) = true := by
    rw [hup, decide_eq_true hlow, decide_eq_true hmax, decide_eq_true hstep]
    rwa [Bool.true_and, Bool.true_and, Bool.true_and, Bool.true_and, Bool.or_eq_true, decide_eq_true_eq, decide_eq_true_eq]
  rw [exec_mpShedStep, execMpShedStep, onlyIf_pos hg]

theorem exec_mpUnshedStep_falls {s : State} {util : Nat} (hup : s.mp.mpUp = true) (hlow : util + 10 < shedThreshold s)
    (hstep : 0 < shedStep s) (hwait : s.mp.shedAt + 1000 * cyclesPerMs ≤ s.cycle) :
    let u := wrF (wrF { s with mp := { s.mp with shedAt := s.cycle } } rMpStatus 63 56 util) rMpStatus 2 1 (shedStep s - 1)
    exec (.mpUnshedStep util) s = nextOf s
      (postHw (if shedStep s = 1 then wrB u rMpStatus 0 false else u) 0x4A02 [(1, shedStep s), (1, 1)]) := by
  have hg : (s.mp.mpUp && decide (util + 10 < shedThreshold s) && decide (0 < shedStep s)
      && decide (s.mp.shedAt + 1000 * cyclesPerMs ≤ s.cycle)) = true := by
    rw [hup, decide_eq_true hlow, decide_eq_true hstep, decide_eq_true hwait]; rfl
  rw [exec_mpUnshedStep, execMpUnshedStep, onlyIf_pos hg]
  rfl

theorem mpRestartComplete_lands {s : State} (hdown : s.mp.mpUp = false) (hst : stTrain ≤ devState s) :
    Lands .mpRestartComplete s fun t => t.mp = { s.mp with mpUp := true } ∧ t.regs = s.regs := by
  have hg : (!s.mp.mpUp && decide (stTrain ≤ devState s)) = true := by rw [hdown, decide_eq_true hst]; rfl
  refine lands_of (congrArg (nextOf s) (onlyIf_pos hg _ _)) ?_
  rw [irqEdge_mp, irqEdge_regs]
  exact ⟨rfl, rfl⟩

-- Maintenance

theorem exec_maintRequest_asks {s : State} {act : Fin 9} {unit : Nat} (hen : maintEnabled s act.val = true)
    (hp : maintPresent s act.val unit = true) (hhold : rdB s rMaintCtrl (32 + act.val) = false) :
    exec (.maintRequest act unit) s = nextOf s (maintAsk s act.val unit false) := by
  have hg : (maintEnabled s act.val && maintPresent s act.val unit) = true := by rw [hen, hp]; rfl
  rw [exec_maintRequest, execMaintRequest, maintRequest, onlyIf_pos hg, if_neg (fun h => Bool.false_ne_true (hhold.symm.trans h.2))]

theorem maintAsk_free {s : State} {a u : Nat} (h : maintBlock s a u = none) (told : Bool) : maintAsk s a u told = maintGrant s a u := by
  unfold maintAsk; rw [h]

theorem maintAsk_blocked {s : State} {a u : Nat} {x : Maint} (h : maintBlock s a u = some x) :
    maintAsk s a u false = maintDefer (maintWait s a u) a u x.act := by
  unfold maintAsk; rw [h]; rfl

/-- Settles O56: each event's guard holds, and its effect is the one of its own row. -/
theorem housekeepingCompletes : Obligations.HousekeepingCompletes := by
  unfold Obligations.HousekeepingCompletes
  intro s
  refine ⟨fun t r rest => exec_learnOperation_takes, fun r rest => exec_rebalancerRetry_takes, ageClockTick_lands,
    fun bd mac e he h0 hage => ⟨exec_ageingRemoval_old he h0 hage, ?_⟩, fun q rest => flushComplete_lands,
    fun copy x q n => asaRepair_lands, fun n => asaSweep_lands,
    fun hn copy l => ⟨exec_asaRepair_noSlot hn copy, exec_asaSweep_noSlot hn l⟩,
    fun table loc h => ⟨congrArg (nextOf s) (onlyIf_pos h _ _), asaShadowLost_asa s table loc⟩,
    fun clave h => ⟨exec_claveFault_runs h, fun n => exec_claveWatchdog_stuck h, claveCorr_lands h⟩,
    fun c cause isn => exec_handoverWindowClose_open, fun isn output hm ha hb => exec_claveMismatch_paired hm ha hb isn output,
    fun a b h => congrArg (nextOf s) (onlyIf_pos (decide_eq_true h) _ _), fun a b => rfl,
    fun clave => exec_shadowPeriodEnd_over,
    fun hup => ⟨fun reqs => ⟨congrArg (nextOf s) (onlyIf_pos hup _ _), rfl⟩, fun cage => congrArg (nextOf s) (onlyIf_pos hup _ _),
      fun util => exec_mpShedStep_rises hup, fun util => exec_mpUnshedStep_falls hup⟩,
    mpRestartComplete_lands, fun act unit => ⟨fun hen hp hhold => ⟨fun hb => ?_, fun x hb => ?_⟩, fun reason hrun => ⟨?_, ?_⟩,
      fun x hx hold => ?_⟩, fun unit pass hc hr => ?_, fun test hst => congrArg (nextOf s) (onlyIf_pos (decide_eq_true hst) _ _)⟩
  · rw [learnRecord_forme]
    exact not_mem_removeEnt s e
  · rw [exec_maintRequest_asks hen hp hhold, maintAsk_free hb]; rfl
  · rw [exec_maintRequest_asks hen hp hhold, maintAsk_blocked hb]; rfl
  · exact congrArg (nextOf s) ((onlyIf_pos hrun _ _).trans (if_neg Bool.false_ne_true))
  · exact congrArg (nextOf s) ((onlyIf_pos hrun _ _).trans (if_pos rfl))
  · rw [exec_holdMaxExpire, execHoldMaxExpire, hx]
    exact congrArg (nextOf s) (onlyIf_pos (decide_eq_true hold) _ _)
  · have hg : (hasCipher s && s.mp.maintRun.any (fun x => x.act = 7)) = true := by rw [hc, hr]; rfl
    exact congrArg (nextOf s) (onlyIf_pos hg _ _)

end Sys2Proof.Machine
end

section
/-! PROOFS. The events of the time block, the Peal schedules and the recorder. -/
namespace Sys2Proof.Machine

-- Domains, PPS, the reference and time of day

theorem exec_timeDomainSwitch_asked {s : State} (h3 : rdB s rTimeStatus 3 = true) (hb : hasDomB s = true) :
    let new := rdF s rTimeCtrl 0 0
    let r : Int := ((domOf s new).t : Int) - opTime s
    let u := wrB (wrB (wrF s rTimeStatus 0 0 new) rTimeStatus 2 true) rTimeStatus 3 false
    let v := { u with clk := { u.clk with resid := r, residRem := 0, switchStart := s.cycle } }
    exec .timeDomainSwitch s = nextOf s (postHw (wrB v rMaintStatus 8 true) 0x0805 [(1, new), (8, toTwos 64 r)]) := by
  have hg : (rdB s rTimeStatus 3 && hasDomB s) = true := by rw [h3, hb]; rfl
  rw [exec_timeDomainSwitch, execTimeDomainSwitch, onlyIf_pos hg]
  intro new r u v
  rfl

theorem exec_domainSwitchDone_over {s : State} (h2 : rdB s rTimeStatus 2 = true) (hr : s.clk.resid = 0) :
    let u := wrB (wrB s rTimeStatus 2 false) rMaintStatus 8 false
    exec .domainSwitchDone s = nextOf s (postHw u 0x0806
      [(1, rdF u rTimeStatus 0 0), (8, (s.cycle - s.clk.switchStart) / cyclesPerUs)]) := by
  have hg : (rdB s rTimeStatus 2 && decide (s.clk.resid = 0)) = true := by rw [h2, decide_eq_true hr]; rfl
  rw [exec_domainSwitchDone, execDomainSwitchDone, onlyIf_pos hg]
  intro u
  rfl

theorem exec_ppsInLoss_late {s : State} {i : Fin 2} (h63 : rdB s (rPpsInCfg i.val) 63 = true)
    (hshown : rdB s rTimeStatus (4 + i.val) = false)
    (hlate : smGet (fun _ => 0) s.core.ptrs (9 * 2 ^ 16 + i.val) + 2400000000 ≤ s.cycle) :
    exec (.ppsInLoss i) s = nextOf s (postHw (wrB s rTimeStatus (4 + i.val) true) 0x4808 [(1, i.val)]) := by
  have hg : (rdB s (rPpsInCfg i.val) 63 && !rdB s rTimeStatus (4 + i.val)
      && decide (smGet (fun _ => 0) s.core.ptrs (9 * 2 ^ 16 + i.val) + 2400000000 ≤ s.cycle)) = true := by
    rw [h63, hshown, decide_eq_true hlate]; rfl
  exact congrArg (nextOf s) (onlyIf_pos hg _ _)

/-- Output 0's edge waits for its message (R791). -/
def edgeKept (s : State) (i : Fin 2) : State :=
  if i = 0 then { s with core := { s.core with ptrs := smSet (fun _ => 0) s.core.ptrs (9 * 2 ^ 16 + 16) (s.cycle + 1) } } else s

theorem exec_ppsOutPulse_due {s : State} {i : Fin 2} (h63 : (rd s (rPpsOutCfg i.val)).getLsbD 63 = true)
    (hz : (((timeSel s (field (rd s (rPpsOutCfg i.val)) 57 56)).1 : Int) - signedOf 32 (field (rd s (rPpsOutCfg i.val)) 31 0))
      % unitsPerSec < 2 * unitsPerCycle)
    (hnew : smGet (fun _ => 0) s.core.ptrs (9 * 2 ^ 16 + 8 + i.val) ≠ (ppsSecond s i.val).toNat + 1) :
    exec (.ppsOutPulse i) s = nextOf s (emit (ppsDone (edgeKept s i) i.val) (.ppsPulse i.val (ppsWidth s i.val))) := by
  have hg : ((rd s (rPpsOutCfg i.val)).getLsbD 63
      && decide ((((timeSel s (field (rd s (rPpsOutCfg i.val)) 57 56)).1 : Int)
        - signedOf 32 (field (rd s (rPpsOutCfg i.val)) 31 0)) % unitsPerSec < 2 * unitsPerCycle)
      && decide (smGet (fun _ => 0) s.core.ptrs (9 * 2 ^ 16 + 8 + i.val) ≠ (ppsSecond s i.val).toNat + 1)) = true := by
    rw [h63, decide_eq_true hz, decide_eq_true hnew]; rfl
  rw [exec_ppsOutPulse, execPpsOutPulse, onlyIf_pos hg]
  fin_cases i <;> rfl

theorem exec_refLoss_new {s : State} (h63 : rdB s rRefCfg 63 = true) (h6 : rdB s rTimeStatus 6 = false) :
    exec .refLoss s = nextOf s (postHw (wrB s rTimeStatus 6 true) 0x4809 []) := by
  have hg : (rdB s rRefCfg 63 && !rdB s rTimeStatus 6) = true := by rw [h63, h6]; rfl
  exact congrArg (nextOf s) (onlyIf_pos hg _ _)

theorem exec_todTransmit_follows {s : State} {edge : Nat} (h63 : rdB s rTodCfg 63 = true) (hout : rdB s (rPpsOutCfg 0) 63 = true)
    (hup : s.mp.mpUp = true) (he : smGet (fun _ => 0) s.core.ptrs (9 * 2 ^ 16 + 16) = edge + 1)
    (hdelay : edge + rdF s rTodCfg 51 32 * cyclesPerUs ≤ s.cycle) (msg : List Byte) :
    exec (.todTransmit msg) s = nextOf s (emit
      { s with core := { s.core with ptrs := smSet (fun _ => 0) s.core.ptrs (9 * 2 ^ 16 + 16) 0 } } (.tod msg)) := by
  have he' : smGet (fun _ => 0) s.core.ptrs kTodEdge = edge + 1 := he
  have hg : (rdB s rTodCfg 63 && rdB s (rPpsOutCfg 0) 63 && s.mp.mpUp && decide (smGet (fun _ => 0) s.core.ptrs kTodEdge ≠ 0)
      && decide (smGet (fun _ => 0) s.core.ptrs kTodEdge + rdF s rTodCfg 51 32 * cyclesPerUs ≤ s.cycle + 1)) = true := by
    rw [h63, hout, hup, he', decide_eq_true (Nat.succ_ne_zero edge), decide_eq_true (by omega)]; rfl
  exact congrArg (nextOf s) (onlyIf_pos hg _ _)

-- Timestamp rings and gate lists

/-- The record of entry `e` of port p's TSQ is in its ring, and `q` is left (R801, R805). -/
def recordTaken (s : State) (mpRing : Bool) (p : Nat) (e : TsEntry) (q : List TsEntry) : State :=
  let b := tsrBase mpRing
  let tail := rdF s (b + 0x18) 12 0
  setTsq (wrF (emit s (.memWrite (if mpRing then .mp else .host (globalLink s)) ((rd s b).toNat + 32 * (tail % 4096))
    (tsRecord e p (tail < 4096)))) (b + 0x18) 12 0 ((tail + 1) % 8192)) p q

/-- The round robin and the loss report after it (R802, R804, R806). -/
def recordDrained (s : State) (mpRing : Bool) (p : Nat) (e : TsEntry) (q : List TsEntry) : State :=
  let u := recordTaken s mpRing p e q
  { u with core := { u.core with
    tsqLostArmed := if q = [] then smSet (fun _ => true) u.core.tsqLostArmed p true else u.core.tsqLostArmed
    tsqRr := p, ptrs := smSet (fun _ => 0) u.core.ptrs (9 * 2 ^ 16 + 20) (u.cycle + 1) } }

theorem recordDrained_eq (s : State) (mpRing : Bool) (p : Nat) (e : TsEntry) (q : List TsEntry) :
    recordDrained s mpRing p e q =
      (let u := recordTaken s mpRing p e q
       let u := if q = [] then
         { u with core := { u.core with tsqLostArmed := smSet (fun _ => true) u.core.tsqLostArmed p true } } else u
       { u with core := { u.core with tsqRr := p, ptrs := smSet (fun _ => 0) u.core.ptrs kTsrCycle (u.cycle + 1) } }) := by
  cases q <;> rfl

theorem exec_timestampRecordWrite_drains {s : State} {mpRing : Bool} {p : Nat} {e : TsEntry} {q : List TsEntry}
    (hp : tsqNext s mpRing = some p) (hq : tsqOf s p = e :: q)
    (hfree : smGet (fun _ => 0) s.core.ptrs (9 * 2 ^ 16 + 20) ≠ s.cycle + 1) :
    exec (.timestampRecordWrite mpRing) s = nextOf s
      (let u := recordDrained s mpRing p e q
       if ¬ mpRing = true ∧ u.core.tsrIrqArmed = true ∧ rdB u rTsrCtrl 36 = true then
         raiseReg { u with core := { u.core with tsrIrqArmed := false } } (globalLink u) rTsrCtrl else u) := by
  rw [exec_timestampRecordWrite, execTimestampRecordWrite]
  refine (congrArg (nextOf s) (onlyIf_pos (decide_eq_true hfree) _ _)).trans ?_
  rw [hp]
  dsimp only
  rw [hq, recordDrained_eq]
  rfl

theorem exec_gateListChange_due {s : State} {port : Fin 256} (h : rdB s (rGateStatus port.val) 62 = true)
    (ht : smGet (fun _ => 0) s.core.gateChange port.val ≤ opNs s) :
    exec (.gateListChange port) s = nextOf s (gateTake s port.val) := by
  have hg : (rdB s (rGateStatus port.val) 62 && decide (smGet (fun _ => 0) s.core.gateChange port.val ≤ opNs s)) = true := by
    rw [h, decide_eq_true ht]; rfl
  exact congrArg (nextOf s) (onlyIf_pos hg _ _)

-- The servo

theorem servoState_clk (s : State) (d v : Nat) : (servoState s d v).clk = s.clk := by
  unfold servoState
  dsimp only
  split
  · rfl
  · exact (postHw_frame _ _ _).time rfl

/-- The domain as a measured offset leaves it, before its correction (R775 to R777). -/
def servoMeasured (s : State) (d : Nat) (offset : Int) (state : Nat) : State :=
  let u := servoState (wr s (rDomOffset d) (BitVec.ofNat 64 (toTwos 64 offset))) d state
  { u with clk := { u.clk with servoFirst := smSet (fun _ => false) u.clk.servoFirst d true } }

/-- The offset is corrected by a step: the first one, and one beyond STEP_THRESHOLD. -/
def servoSteps (s u : State) (d : Nat) (offset : Int) : Bool :=
  !smGet (fun _ => false) s.clk.servoFirst d
    || (decide (rdF u (rDomCtrl d) 31 0 ≠ 0) && decide (rdF u (rDomCtrl d) 31 0 * 65536 < offset.natAbs))

/-- A slew, and the frequency that nothing fixes (R775). -/
def servoSlews (v : State) (d : Nat) (offset : Int) : State :=
  let w := servoAdjust (slewDomain v d (-offset)) d 1 (-offset)
  let ppb : Int := ((Config.freeValue w.fresh).toNat % 65536000001 : Nat) - 32768000000
  servoAdjust (wr { w with fresh := w.fresh + 1 } (rDomFreq d) (BitVec.ofNat 64 (toTwos 64 ppb))) d 2 ppb

theorem exec_servoUpdate_runs {s : State} {domain : Fin 2} (hen : rdB s (rDomCtrl domain.val) 63 = true) (hup : s.mp.mpUp = true)
    (hd : domain.val = 0 ∨ hasDomB s = true) (offset : Int) (state : Fin 5) :
    let d := domain.val
    let u := servoState (wr s (rDomOffset d) (BitVec.ofNat 64 (toTwos 64 offset))) d state.val
    let v := servoMeasured s d offset state.val
    exec (.servoUpdate domain offset state) s = nextOf s
      (if offset = 0 then v
       else if servoSteps s u d offset then servoAdjust (stepDomain v d (-offset)) d 0 (-offset)
       else servoSlews v d offset) := by
  have hg : (rdB s (rDomCtrl domain.val) 63 && s.mp.mpUp && (decide (domain.val = 0) || hasDomB s)) = true := by
    rw [hen, hup, Bool.and_self, Bool.true_and, Bool.or_eq_true, decide_eq_true_eq]
    exact hd
  intro d u v
  have hclk : u.clk = s.clk := servoState_clk _ d state.val
  rw [servoSteps, ← hclk, exec_servoUpdate, execServoUpdate, onlyIf_pos hg]
  rfl

-- Peals and the recorder

theorem exec_pealFault_due {s : State} {k : Fin 16} (hdue : pealDue s k.val = true) (hfree : captureFree s 64 = true)
    (hroom : pealFull s k.val = false) (addr : Nat) :
    exec (.pealFault k addr) s = nextOf s (pealCapture s k.val (some addr)) := by
  have hg : (pealDue s k.val && !pealFull s k.val && captureFree s 64) = true := by rw [hdue, hroom, hfree]; rfl
  exact congrArg (nextOf s) (onlyIf_pos hg _ _)

section
variable {s : State} (hup : s.mp.mpUp = true) (hrec : recState s ≠ 3) (ok1 : Bool) (retry : Fin 3)
include hup hrec

theorem not_recorderWaits : ¬ (¬ s.mp.mpUp = true ∨ recState s = 3) := by
  rw [not_or, not_not]; exact ⟨hup, hrec⟩

theorem exec_recordWrite_journal {p : Posting} {q : List Posting} (hq : s.rcd.jrQ = p :: q) :
    exec (.recordWrite true ok1 retry) s = nextOf s (writeTo { s with rcd := { s.rcd with jrQ := q } } 1 (markLate s p) ok1
      (decide (retry.val = 0)) (decide (retry.val < 2))) := by
  rw [exec_recordWrite, execRecordWrite]
  refine (congrArg (nextOf s) ((if_neg (not_recorderWaits hup hrec)).trans (if_pos rfl))).trans ?_
  rw [hq]

theorem exec_recordWrite_event {p : Posting} {q : List Posting} (hq : s.rcd.evQ = p :: q) :
    let ok2 := decide (retry.val = 0)
    let col := decide (retry.val < 2)
    let u := handleEvent { s with rcd := { s.rcd with evQ := q } } (markLate s p) ok1 ok2 col
    let d := (rd u rRecDrop).toNat
    exec (.recordWrite false ok1 retry) s = nextOf s (if d ≠ u.rcd.dropsReported then
      let v := writeTo u 0 (mkPosting u 0x4B02 hwOrigin [(4, d - u.rcd.dropsReported)]) ok1 ok2 col
      { v with rcd := { v.rcd with dropsReported := d } } else u) := by
  intro ok2 col u d
  rw [exec_recordWrite, execRecordWrite]
  refine (congrArg (nextOf s) ((if_neg (not_recorderWaits hup hrec)).trans (if_neg Bool.false_ne_true))).trans ?_
  rw [hq]

end

/-- Settles O57: each event's guard holds, and its effect is the one of its own row. -/
theorem timeAndRecorderEventsComplete : Obligations.TimeAndRecorderEventsComplete := by
  unfold Obligations.TimeAndRecorderEventsComplete
  intro s
  refine ⟨exec_timeDomainSwitch_asked, exec_domainSwitchDone_over, fun i h => ?_, fun i => exec_ppsInLoss_late, fun i => ?_,
    exec_refLoss_new, fun h => congrArg (nextOf s) (onlyIf_pos h _ _),
    fun msg edge h63 hout hup he hd => exec_todTransmit_follows h63 hout hup he hd msg,
    fun msg h => congrArg (nextOf s) (onlyIf_pos h _ _), fun mpRing p e q hp hq => ?_,
    fun port => ⟨rfl, exec_gateListChange_due⟩, fun domain offset state => ?_,
    fun k hdue => ⟨fun hfree => ⟨?_, fun addr hroom => exec_pealFault_due hdue hfree hroom addr⟩, fun hfree => ?_⟩,
    fun hup hrec ok1 retry => ?_, fun w ws hw ht hup => ?_, fun hst ht => ?_, fun k fail hk => ?_⟩
  · intro c x t u w
    exact congrArg (nextOf s) (onlyIf_pos h _ _)
  · intro c
    exact exec_ppsOutPulse_due
  · intro b tail hfree
    exact (exec_timestampRecordWrite_drains hp hq hfree).trans
      (congrArg (nextOf s) (if_congr (by rw [Bool.not_eq_true]; rfl) rfl rfl))
  · intro d hen hup hd u thr step v noted
    have hrun := exec_servoUpdate_runs hen hup hd offset state
    exact ⟨fun h => hrun.trans (congrArg (nextOf s) (if_pos h)),
      fun h hs => hrun.trans (congrArg (nextOf s) ((if_neg h).trans (if_pos hs))),
      fun h hs => hrun.trans (congrArg (nextOf s) ((if_neg h).trans (if_neg (Bool.eq_false_iff.1 hs))))⟩
  · exact congrArg (nextOf s) ((onlyIf_pos hdue _ _).trans (if_pos hfree))
  · exact congrArg (nextOf s) ((onlyIf_pos hdue _ _).trans (if_neg (Bool.eq_false_iff.1 hfree)))
  · intro ok2 col
    refine ⟨fun p q => exec_recordWrite_journal hup hrec ok1 retry, fun p q hq => ?_⟩
    have hrun := exec_recordWrite_event hup hrec ok1 retry hq
    exact ⟨fun h => hrun.trans (congrArg (nextOf s) (if_neg (not_not.2 h))),
      fun h => hrun.trans (congrArg (nextOf s) (if_pos h))⟩
  · have hg : (decide (w.opened + coalesceCycles s ≤ s.cycle) && s.mp.mpUp) = true := by rw [decide_eq_true ht, hup]; rfl
    rw [exec_coalesceWindowClose, execCoalesceWindowClose, hw]
    exact congrArg (nextOf s) (onlyIf_pos hg _ _)
  · have hg : (decide (stSupervise ≤ devState s) && decide (s.rcd.hoursCell + 60 * cyclesPerSec ≤ s.rcd.opCycles)) = true := by
      rw [decide_eq_true hst, decide_eq_true ht]; rfl
    exact congrArg (nextOf s) (onlyIf_pos hg _ _)
  · rw [exec_bootSaveEnd, execBootSaveEnd, hk]
    rfl

end Sys2Proof.Machine
end

section
/-! PROOFS. The start-up sequence, the end of power, zeroisation and memory errors. -/
namespace Sys2Proof.Machine

-- The start

section
variable {s : State} (hrun : s.pwr.stopped = false)
include hrun

theorem startStep_guard {st : Nat} (h : devState s = st) : (decide (devState s = st) && !s.pwr.stopped) = true := by
  rw [decide_eq_true h, hrun]; rfl

theorem exec_selftest_runs (h : devState s = stSupervise) (repaired : Bool) (fail : Option (Fin 10 × Fin 40)) (fwA fwB ca cb : Bool) :
    exec (.selftest repaired fail fwA fwB ca cb) s = nextOf s (claveStart (fwSelect (boundaryStart
      (wrB (setDevState s stSelftest) rErrStatus 2 repaired) fail) fwA fwB) ca cb) := by
  rw [exec_selftest, execSelftest, onlyIf_pos (startStep_guard hrun h)]

theorem exec_load_runs (h : devState s = stSelftest) (decayed : List (Fin 4 × Nat)) (s0 s1 : Bool) (decay : Option (Fin 5)) :
    let u := recScan (setDevState s stLoad) decayed
    let u := drawSeeds { u with mp := { u.mp with mpUp := true } }
    exec (.load decayed s0 s1 decay) s = nextOf s (takeMode (bootLoad u s0 s1 decay)) := by
  rw [exec_load, execLoad, onlyIf_pos (startStep_guard hrun h)]

theorem exec_train_runs (h : devState s = stLoad) (k0 k1 : Bool) (octets : List (Fin 32)) :
    let u := setDevState { s with mp := { s.mp with hbmTemp := [] } } stTrain
    let u := if hasDeep u && k0 then stackFault u 0 else u
    let u := if hasDeep u && k1 then stackFault u 1 else u
    let u := wrB u rCoreStatus 2 (hasDeep u && !k0 && !k1)
    let u := if hasDeep u && (k0 || k1) then
      postHw { u with core := { u.core with deepDownAt := u.cycle } } 0x4605 [(1, 1)] else u
    exec (.train k0 k1 octets) s = nextOf s
      ((octets.filter (fun n => tilePresent u (n.val / 4))).foldl (fun s n => octetFault s n.val) u) := by
  rw [exec_train, execTrain, onlyIf_pos (startStep_guard hrun h)]

theorem exec_hold_runs (h : devState s = stTrain) :
    let u := setDevState { s with pwr := { s.pwr with ready := true } } stHold
    exec .hold s = nextOf s (if u.pwr.nv.autoStart && rdB u rDevState 8 then startRun u 1 else u) := by
  rw [exec_hold, execHold, onlyIf_pos (startStep_guard hrun h)]

theorem exec_startStop_stops {cause : Fin 3} (h : devState s = (if cause.val = 0 then stSupervise else stSelftest)) (memory : Nat) :
    exec (.startStop cause memory) s = nextOf s (startStop (fun s => recScan s [])
      (if cause.val = 2 then firmwareBad s else s) (cause.val + 2) memory) := by
  have hst : (if cause.val + 2 = 2 then stSupervise else stSelftest) = if cause.val = 0 then stSupervise else stSelftest :=
    if_congr (by omega) rfl rfl
  have hbad : (if cause.val + 2 = 4 then firmwareBad s else s) = if cause.val = 2 then firmwareBad s else s :=
    if_congr (by omega) rfl rfl
  have hg : (!s.pwr.stopped && decide (devState s = (if cause.val + 2 = 2 then stSupervise else stSelftest))) = true := by
    rw [hst, hrun, decide_eq_true h]; rfl
  rw [exec_startStop, execStartStop, ← hbad]
  exact congrArg (nextOf s) (onlyIf_pos hg _ _)

end

theorem exec_powerOn_starts {s : State} {cycled : Bool} (h : devState s = stOff) (hl : s.pwr.latch = 0 ∨ cycled = true) :
    let u := cipherStored (restart s true)
    let u := { u with pwr := { u.pwr with latch := 0, fault := false, pwrEn := true, vinOk := true } }
    exec (.powerOn cycled) s = nextOf s (wrF (setResetCause (setDevState u stPower) 0) rFaultCause 11 8 s.pwr.latch) := by
  have hg : (decide (devState s = stOff) && (decide (s.pwr.latch = 0) || cycled)) = true := by
    rw [decide_eq_true h, Bool.true_and, Bool.or_eq_true, decide_eq_true_eq]
    exact hl
  rw [exec_powerOn, execPowerOn, onlyIf_pos hg]

-- Temperatures, resets and tampers

theorem exec_thermWarn_on {s : State} (hon : stSupervise ≤ devState s) (sensor : Fin 24) (temp : BitVec 16) :
    let t := thermRefresh (wrF s (rTemp sensor.val) 15 0 temp.toNat)
    exec (.thermWarn sensor temp) s = nextOf s
      (if absentOff s (rTemp sensor.val) then s
       else if sensor.val = 18 ∨ sensor.val = 19 then hbmSample t (sensor.val - 18) temp.toNat else t) := by
  rw [exec_thermWarn, execThermWarn, decide_eq_true hon, Bool.true_and]
  cases absentOff s (rTemp sensor.val) <;> rfl

theorem exec_resetN_taken {s : State} (hon : stSupervise ≤ devState s) {lowNs : Nat} {taken : Bool}
    (h : 1000 ≤ lowNs ∨ 100 ≤ lowNs ∧ taken = true) : exec (.resetN lowNs taken) s = nextOf s (resetInto s 1 0) := by
  have hg : (decide (stSupervise ≤ devState s) && (decide (1000 ≤ lowNs) || (decide (100 ≤ lowNs) && taken))) = true := by
    rw [decide_eq_true hon, Bool.true_and, Bool.or_eq_true, Bool.and_eq_true, decide_eq_true_eq, decide_eq_true_eq]
    exact h
  exact congrArg (nextOf s) (onlyIf_pos hg _ _)

theorem exec_zeroiseN_taken {s : State} {lowNs : Nat} {taken : Bool} (h : 10000 ≤ lowNs ∨ 1000 ≤ lowNs ∧ taken = true) :
    exec (.zeroiseN lowNs taken) s = nextOf s (zeroise s 2 2) := by
  have hg : (decide (10000 ≤ lowNs) || (decide (1000 ≤ lowNs) && taken)) = true := by
    rw [Bool.or_eq_true, Bool.and_eq_true, decide_eq_true_eq, decide_eq_true_eq]
    exact h
  exact congrArg (nextOf s) (onlyIf_pos hg _ _)

theorem postHw_ciph (s : State) (code : Nat) (d : List (Nat × Nat)) : (postHw s code d).ciph = s.ciph :=
  (postHw_frame s code d).cipher rfl

/-- A post that only reports leaves the key store. -/
theorem ciph_ite_postHw (c : Prop) [Decidable c] (s : State) (code : Nat) (d : List (Nat × Nat)) :
    (if c then postHw s code d else s).ciph = s.ciph :=
  iteInduction (motive := fun t : State => t.ciph = s.ciph) (fun _ => postHw_ciph s code d) (fun _ => rfl)

theorem setBoundary_ciph (s : State) (v : Nat) : (setBoundary s v).ciph = s.ciph := rfl
theorem setApproved_ciph (s : State) (v : Bool) : (setApproved s v).ciph = s.ciph := rfl
theorem setCommissioned_ciph (s : State) (v : Bool) : (setCommissioned s v).ciph = s.ciph := rfl

theorem zeroStore_empties (s : State) (path operator_ : Nat) :
    (zeroStore s path operator_).1.ciph.saKeys = [] ∧ (zeroStore s path operator_).1.ciph.keks = [] ∧
      (zeroStore s path operator_).1.ciph.operators = [] := by
  unfold zeroStore
  dsimp only
  rw [ciph_ite_postHw, setBoundary_ciph, setApproved_ciph, setCommissioned_ciph, ciph_ite_postHw]
  exact ⟨rfl, rfl, rfl⟩

-- Memory errors

theorem memCe_guard {s : State} (hon : stSelftest ≤ devState s) {unit : MemUnit} (hp : memPresent s unit = true) :
    (decide (stSelftest ≤ devState s) && memPresent s unit) = true := by rw [decide_eq_true hon, hp]; rfl

theorem exec_memCe_counts {s : State} (hon : stSelftest ≤ devState s) {unit : MemUnit} (hp : memPresent s unit = true) :
    exec (.memCe unit none) s = nextOf s (ceRate (countCe s) unit) := by
  rw [exec_memCe, execMemCe, onlyIf_pos (memCe_guard hon hp)]
  cases unit <;> rfl

theorem tilePresent_ceRate (s : State) (unit : MemUnit) (t : Nat) : tilePresent (ceRate (countCe s) unit) t = tilePresent s t := by
  unfold tilePresent
  rw [(ceRate_keeps (Within.refl _) (countCe s) unit (countCe_keeps ((Within.refl _).sub rfl) s (Keeps.refl _ s))).variant]

theorem exec_memCe_cell {s : State} (hon : stSelftest ≤ devState s) {tile : Fin 8} (hp : tilePresent s tile.val = true)
    (cell : Fin 65536) :
    exec (.memCe (.slice tile) (some cell)) s = nextOf s (ceCell (ceRate (countCe s) (.slice tile)) tile.val cell.val) := by
  rw [exec_memCe, execMemCe, onlyIf_pos (memCe_guard (unit := .slice tile) hon hp)]
  exact congrArg (nextOf s) (if_pos ((tilePresent_ceRate s _ _).trans hp))

theorem exec_memUe_contains {s : State} (hon : stSelftest ≤ devState s) {site : UeSite} (hp : uePresent s site = true) :
    let u := wrB (countUe s) rErrStatus 11 true
    let e := ueEffect u site
    exec (.memUe site) s = nextOf s
      (if e.2 then e.1 else postRate e.1 cyclesPerSec (ueName site).1 0x8D08 [(4, (ueName site).1), (4, (ueName site).2)]) := by
  have hg : (decide (stSelftest ≤ devState s) && uePresent s site) = true := by rw [decide_eq_true hon, hp]; rfl
  rw [exec_memUe, execMemUe, onlyIf_pos hg]

theorem exec_cellRetire_free {s : State} {tile : Fin 8} {cell : Fin 65536}
    (hk : smGet (fun _ => 0) s.pwr.retired (cellKey tile.val cell.val) = 1) (hn : retiredCells s tile.val < 1024)
    (hfree : ∀ f ∈ s.path.frames, ingressTile f.port = tile.val → cell.val ∉ f.cellIdx) :
    let u := { s with pwr := { s.pwr with retired := smSet (fun _ => 0) s.pwr.retired (cellKey tile.val cell.val) 2 } }
    exec (.cellRetire tile cell) s = nextOf s (postHw (wrF u (rCellsRetired tile.val) 10 0 (retiredCells s tile.val + 1)) 0x0D09
      [(1, tile.val), (4, cell.val), (2, retiredCells s tile.val + 1)]) := by
  have hany : s.path.frames.any (fun f => decide (ingressTile f.port = tile.val) && f.cellIdx.contains cell.val) = false := by
    rw [List.any_eq_false]
    intro f hf
    rw [Bool.and_eq_true, decide_eq_true_eq, List.contains_iff_mem]
    exact fun h => hfree f hf h.1 h.2
  have hg : (decide (smGet (fun _ => 0) s.pwr.retired (cellKey tile.val cell.val) = 1) && decide (retiredCells s tile.val < 1024)
      && !s.path.frames.any (fun f => decide (ingressTile f.port = tile.val) && f.cellIdx.contains cell.val)) = true := by
    rw [decide_eq_true hk, decide_eq_true hn, hany]; rfl
  rw [exec_cellRetire, execCellRetire, onlyIf_pos hg]

/-- Settles O58: each event's guard holds, and its effect is the one of its own row. -/
theorem powerAndStartupComplete : Obligations.PowerAndStartupComplete := by
  unfold Obligations.PowerAndStartupComplete
  intro s
  refine ⟨fun cycled => exec_powerOn_starts, fun pcycleOk h => ?_,
    fun hrun => ⟨fun repaired fail fwA fwB ca cb h => exec_selftest_runs hrun h repaired fail fwA fwB ca cb,
      fun decayed s0 s1 decay h => exec_load_runs hrun h decayed s0 s1 decay,
      fun k0 k1 octets h => exec_train_runs hrun h k0 k1 octets, exec_hold_runs hrun,
      fun cause memory h => exec_startStop_stops hrun h memory⟩,
    fun hon => ⟨fun lowNs taken => exec_resetN_taken hon, congrArg (nextOf s) (onlyIf_pos (decide_eq_true hon) _ _),
      exec_thermWarn_on hon⟩,
    fun h thermal => congrArg (nextOf s) (onlyIf_pos (decide_eq_true h) _ _), fun vinLost => rfl,
    fun lowNs taken => exec_zeroiseN_taken, rfl, fun loop mismatch h => congrArg (nextOf s) (onlyIf_pos h _ _), fun h => ?_,
    zeroStore_empties s 1 0, fun level => rfl,
    fun hon => ⟨fun unit => exec_memCe_counts hon,
      fun tile cell hp => ⟨(tilePresent_ceRate s _ _).trans hp, exec_memCe_cell hon hp cell⟩,
      fun site => exec_memUe_contains hon⟩,
    fun tile cell => exec_cellRetire_free⟩
  · rw [exec_supervise, execSupervise, onlyIf_pos (decide_eq_true h)]
    intro u prev
    rfl
  · have hg : (!s.pwr.vinOk) = true := by rw [h]; rfl
    exact congrArg (nextOf s) (onlyIf_pos hg _ _)

end Sys2Proof.Machine
end

section
/-! PROOFS. The mailbox services. -/
namespace Sys2Proof.Machine

/-- The MP takes a request of a channel, and its role is the one the service asks for (R934 to R937). -/
theorem mbxServe_runs {s : State} {q : MbxReq} (hup : s.mp.mpUp = true) (hc : q.channel < 8)
    (hbusy : rdB s (rMbxStatus q.channel) 1 = true) (hlen : q.payload.length ≤ 4088) {role : Nat}
    (hrole : ¬ (role ≠ 0 ∧ (if role = 3 then mbxRoleOf s q.channel = 0 else mbxRoleOf s q.channel ≠ role)))
    (service : Nat) (act : State → State × Nat × List Byte) :
    mbxServe s q service role act = mbxReply (act s).1 q.channel service q.tag (act s).2.1 (act s).2.2 := by
  have htaken : ¬ (8 ≤ q.channel ∨ ¬ s.mp.mpUp = true ∨ ¬ rdB s (rMbxStatus q.channel) 1 = true) := by
    rw [hup, hbusy]; simp only [not_true_eq_false, or_false]; omega
  unfold mbxServe
  rw [if_neg htaken, if_neg (by omega), if_neg hrole]

theorem mbxServe_roleRefused {s : State} {q : MbxReq} (hup : s.mp.mpUp = true) (hc : q.channel < 8)
    (hbusy : rdB s (rMbxStatus q.channel) 1 = true) (hlen : q.payload.length ≤ 4088) {role : Nat}
    (hrole : role ≠ 0 ∧ (if role = 3 then mbxRoleOf s q.channel = 0 else mbxRoleOf s q.channel ≠ role))
    (service : Nat) (act : State → State × Nat × List Byte) :
    mbxServe s q service role act = mbxReply s q.channel service q.tag 3 [] := by
  have htaken : ¬ (8 ≤ q.channel ∨ ¬ s.mp.mpUp = true ∨ ¬ rdB s (rMbxStatus q.channel) 1 = true) := by
    rw [hup, hbusy]; simp only [not_true_eq_false, or_false]; omega
  unfold mbxServe
  rw [if_neg htaken, if_neg (by omega), if_pos hrole]

section
variable {s : State} {q : MbxReq} (hup : s.mp.mpUp = true) (hc : q.channel < 8)
  (hbusy : rdB s (rMbxStatus q.channel) 1 = true) (hlen : q.payload.length ≤ 4088)
include hup hc hbusy hlen

/-- The answer of a service that any role may ask for, from what its work answers. -/
theorem served_anyone {service : Nat} {act : State → State × Nat × List Byte} {t : State} {status : Nat} {payload : List Byte}
    (h : act s = (t, status, payload)) :
    nextOf s (mbxServe s q service 0 act) = nextOf s (mbxReply t q.channel service q.tag status payload) := by
  rw [mbxServe_runs hup hc hbusy hlen (fun h => h.1 rfl) service act, h]

/-- The answer of a service that one role may ask for. -/
theorem served_role {service role : Nat} (h3 : role ≠ 3) (hrole : mbxRoleOf s q.channel = role)
    {act : State → State × Nat × List Byte} {t : State} {status : Nat} {payload : List Byte} (h : act s = (t, status, payload)) :
    nextOf s (mbxServe s q service role act) = nextOf s (mbxReply t q.channel service q.tag status payload) := by
  have hr : ¬ (role ≠ 0 ∧ (if role = 3 then mbxRoleOf s q.channel = 0 else mbxRoleOf s q.channel ≠ role)) := by
    rw [if_neg h3]
    exact fun h => h.2 hrole
  rw [mbxServe_runs hup hc hbusy hlen hr service act, h]

-- Services that ask for no role

theorem exec_mpStatus_answers (len : Fin 4089) :
    exec (.mpStatus q len) s = nextOf s (mbxReply (freePayload s len.val).1 q.channel 0x0001 q.tag 0 (freePayload s len.val).2) :=
  served_anyone hup hc hbusy hlen rfl

theorem exec_attest_answers (hb : boundaryUp s = true) (len : Fin 4089) :
    exec (.attest q len) s = nextOf s (mbxReply (freePayload s len.val).1 q.channel 0x0009 q.tag 0 (freePayload s len.val).2) :=
  served_anyone hup hc hbusy hlen (if_neg (not_not.2 hb))

theorem exec_authChallenge_answers (hb : boundaryUp s = true) :
    let f := drbgDraw s 48
    exec (.authChallenge q) s = nextOf s (mbxReply
      { f.1 with ciph := { f.1.ciph with challenge := smSet (fun _ => []) f.1.ciph.challenge q.channel f.2 } }
      q.channel 0x0002 q.tag 0 f.2) :=
  served_anyone hup hc hbusy hlen (if_neg (not_not.2 hb))

theorem exec_authResponse_verified (hb : boundaryUp s = true) {ring : Fin 60} {ident : Fin 16} {sigOk : Bool} {o : Operator}
    (hch : smGet (fun _ => []) s.ciph.challenge q.channel ≠ []) (hs : sigOk = true)
    (ho : operatorOf { s with ciph := { s.ciph with challenge := smSet (fun _ => []) s.ciph.challenge q.channel [] } } ident.val = some o) :
    let u := { s with ciph := { s.ciph with challenge := smSet (fun _ => []) s.ciph.challenge q.channel [] } }
    exec (.authResponse q ring ident sigOk) s = nextOf s (mbxReply
      (setMbxRole (bindRole u ring.val o.role o.ident) q.channel o.role o.ident) q.channel 0x0003 q.tag 0 []) := by
  have hg : (decide (smGet (fun _ => []) s.ciph.challenge q.channel ≠ []) && sigOk) = true := by
    rw [decide_eq_true hch, hs]; rfl
  refine served_anyone hup hc hbusy hlen ((if_neg (not_not.2 hb)).trans ?_)
  dsimp only
  rw [if_pos hg, ho]

theorem exec_authResponse_refused (hb : boundaryUp s = true) (ring : Fin 60) (ident : Fin 16) {sigOk : Bool} (hs : sigOk = false) :
    let u := { s with ciph := { s.ciph with challenge := smSet (fun _ => []) s.ciph.challenge q.channel [] } }
    exec (.authResponse q ring ident sigOk) s = nextOf s (mbxReply (postHw u 0x420F [(1, ring.val), (1, ident.val)])
      q.channel 0x0003 q.tag 4 []) := by
  have hg : ¬ (decide (smGet (fun _ => []) s.ciph.challenge q.channel ≠ []) && sigOk) = true := by
    rw [hs, Bool.and_false]; exact Bool.false_ne_true
  refine served_anyone hup hc hbusy hlen ((if_neg (not_not.2 hb)).trans ?_)
  dsimp only
  rw [if_neg hg]

theorem exec_logout_ends (hr : mbxRoleOf s q.channel ≠ 0) (ring : Fin 60) :
    exec (.logout q ring) s = nextOf s (mbxReply (setMbxRole (endRole s ring.val) q.channel 0 0) q.channel 0x0004 q.tag 0 []) :=
  congrArg (nextOf s) (mbxServe_runs hup hc hbusy hlen (role := 3) (fun h => hr h.2) _ _)

-- Operators

theorem exec_enrol_officer (hcom : commissioned s = true) (hr : mbxRoleOf s q.channel = 2) (hb : boundaryUp s = true)
    (ident : Fin 16) (officer : Bool) (key : List Byte) (ring : Fin 60) :
    let o : Operator := { ident := ident.val, role := if officer then 2 else 1, pubKey := key }
    exec (.enrol q ident officer key ring) s = nextOf s (mbxReply
      (journalOperator (addOperator s o) q.channel o.ident o.role 0) q.channel 0x0005 q.tag 0 []) := by
  rw [exec_enrol, execEnrol]
  exact (congrArg (nextOf s) (if_pos hcom)).trans
    (served_role hup hc hbusy hlen (by decide) hr (if_neg (not_not.2 hb)))

theorem exec_enrol_first (hcom : commissioned s = false) (hz : boundary s = bsZeroised) {officer : Bool} (ho : officer = true)
    (ident : Fin 16) (key : List Byte) (ring : Fin 60) :
    let o : Operator := { ident := ident.val, role := if officer then 2 else 1, pubKey := key }
    exec (.enrol q ident officer key ring) s = nextOf s (mbxReply
      (journalOperator (commission s o ring.val q.channel) q.channel o.ident o.role 0) q.channel 0x0005 q.tag 0 []) := by
  rw [exec_enrol, execEnrol]
  exact (congrArg (nextOf s) (if_neg (Bool.eq_false_iff.1 hcom))).trans
    (served_anyone hup hc hbusy hlen ((if_neg (not_not.2 hz)).trans (if_neg (not_not.2 ho))))

section
variable (h2 : mbxRoleOf s q.channel = 2)
include h2

theorem exec_removeOperator_found {ident : Fin 16} {o : Operator} (ho : operatorOf s ident.val = some o) :
    let u := { s with ciph := { s.ciph with operators := s.ciph.operators.filter (fun x => x.ident ≠ o.ident) } }
    exec (.removeOperator q ident) s = nextOf s (mbxReply
      (journalOperator (setCommissioned u (u.ciph.operators.any (fun x => x.role = 2))) q.channel o.ident o.role 1)
      q.channel 0x0006 q.tag 0 []) := by
  refine served_role hup hc hbusy hlen (by decide) h2 ?_
  rw [ho]

-- KEKs and firmware

theorem exec_kekInstall_free (hcip : hasCipher s = true) (hop : boundary s = bsOperational) {slot : Fin 64}
    (hfree : kekHeld s slot.val = false) (kek : List Byte) :
    let u := { wrB s rKekStatus slot.val true with ciph := { s.ciph with keks := smIns slot.val kek s.ciph.keks } }
    let v := postHw u 0x020D [(1, slot.val), (1, mbxOperator u q.channel)]
    exec (.kekInstall q slot (.key kek)) s = nextOf s (mbxReply
      (journal v 0x0042 (mbxOrigin q.channel) [(1, slot.val), (1, mbxOperator v q.channel)]) q.channel 0x0007 q.tag 0 []) := by
  have hg : ¬ (boundary s ≠ bsOperational ∨ kekHeld s slot.val = true) := by rw [hop, hfree]; decide
  exact served_role hup hc hbusy hlen (by decide) h2 ((if_neg (not_not.2 hcip)).trans (if_neg hg))

theorem exec_kekInstall_bad (hcip : hasCipher s = true) (hop : boundary s = bsOperational) {slot : Fin 64}
    (hfree : kekHeld s slot.val = false) :
    exec (.kekInstall q slot .bad) s = nextOf s (mbxReply s q.channel 0x0007 q.tag 4 []) := by
  have hg : ¬ (boundary s ≠ bsOperational ∨ kekHeld s slot.val = true) := by rw [hop, hfree]; decide
  exact served_role hup hc hbusy hlen (by decide) h2 ((if_neg (not_not.2 hcip)).trans (if_neg hg))

theorem exec_kekInstall_pairBad (hcip : hasCipher s = true) (hop : boundary s = bsOperational) {slot : Fin 64}
    (hfree : kekHeld s slot.val = false) :
    exec (.kekInstall q slot .pairBad) s = nextOf s (mbxReply (postHw (testFails s 10) 0xC208 [(1, 10), (1, 0)])
      q.channel 0x0007 q.tag 4 []) := by
  have hg : ¬ (boundary s ≠ bsOperational ∨ kekHeld s slot.val = true) := by rw [hop, hfree]; decide
  exact served_role hup hc hbusy hlen (by decide) h2 ((if_neg (not_not.2 hcip)).trans (if_neg hg))

theorem exec_kekInstall_held (hcip : hasCipher s = true) {slot : Fin 64} (hheld : kekHeld s slot.val = true) (kek : KekWrap) :
    exec (.kekInstall q slot kek) s = nextOf s (mbxReply s q.channel 0x0007 q.tag 4 []) :=
  served_role hup hc hbusy hlen (by decide) h2 ((if_neg (not_not.2 hcip)).trans (if_pos (.inr hheld)))

theorem exec_fwUpdate_taken (hb : boundaryUp s = true) {svn : Fin 65536} (hmin : s.pwr.nv.fwMin ≤ svn.val) :
    exec (.fwUpdate q svn true) s = nextOf s (mbxReply { s with pwr := { s.pwr with nv :=
      if s.pwr.nv.fwRun then { s.pwr.nv with fwA := some svn.val } else { s.pwr.nv with fwB := some svn.val } } }
      q.channel 0x0008 q.tag 0 []) :=
  served_role hup hc hbusy hlen (by decide) h2
    ((if_neg (not_not.2 hb)).trans ((if_neg (not_not.2 rfl)).trans (if_neg (Nat.not_lt.2 hmin))))

theorem exec_fwUpdate_old (hb : boundaryUp s = true) {svn : Fin 65536} (hmin : svn.val < s.pwr.nv.fwMin) :
    exec (.fwUpdate q svn true) s = nextOf s (mbxReply (postHw s 0x820C [(1, 1), (2, svn.val)]) q.channel 0x0008 q.tag 4 []) :=
  served_role hup hc hbusy hlen (by decide) h2
    ((if_neg (not_not.2 hb)).trans ((if_neg (not_not.2 rfl)).trans (if_pos hmin)))

end

theorem exec_fwUpdate_noRole (h0 : mbxRoleOf s q.channel = 0) (svn : Fin 65536) (sigsOk : Bool) :
    exec (.fwUpdate q svn sigsOk) s = nextOf s (mbxReply s q.channel 0x0008 q.tag 3 []) :=
  congrArg (nextOf s) (mbxServe_roleRefused hup hc hbusy hlen (role := 2) ⟨by decide, by rw [h0]; decide⟩ _ _)

end

/-- Settles O60: a request that the MP takes from its role is answered with what its service's work gives. -/
theorem mailboxServicesComplete : Obligations.MailboxServicesComplete := by
  unfold Obligations.MailboxServicesComplete
  intro s q hup hc hbusy hlen c reply
  refine ⟨exec_mpStatus_answers hup hc hbusy hlen,
    fun hb => ⟨exec_attest_answers hup hc hbusy hlen hb, exec_authChallenge_answers hup hc hbusy hlen hb,
      fun ring ident sigOk => ⟨fun o hch hs ho => exec_authResponse_verified hup hc hbusy hlen hb hch hs ho,
        exec_authResponse_refused hup hc hbusy hlen hb ring ident⟩⟩,
    exec_logout_ends hup hc hbusy hlen,
    fun ident officer key ring => ⟨fun hcom hr hb => exec_enrol_officer hup hc hbusy hlen hcom hr hb ident officer key ring,
      fun hcom hz ho => exec_enrol_first hup hc hbusy hlen hcom hz ho ident key ring⟩,
    fun h2 => ⟨fun ident o => exec_removeOperator_found hup hc hbusy hlen h2,
      fun slot kek hcip hop hfree => exec_kekInstall_free hup hc hbusy hlen h2 hcip hop hfree kek,
      fun slot hcip hop hfree => ⟨exec_kekInstall_bad hup hc hbusy hlen h2 hcip hop hfree,
        exec_kekInstall_pairBad hup hc hbusy hlen h2 hcip hop hfree⟩,
      fun slot kek hheld hcip => exec_kekInstall_held hup hc hbusy hlen h2 hcip hheld kek,
      fun svn hb => exec_fwUpdate_taken hup hc hbusy hlen h2 hb,
      fun svn hb => exec_fwUpdate_old hup hc hbusy hlen h2 hb⟩,
    fun h1 => ⟨fun a => served_role hup hc hbusy hlen (by decide) h1 rfl,
      served_role hup hc hbusy hlen (by decide) h1 rfl, fun a => served_role hup hc hbusy hlen (by decide) h1 rfl,
      served_role hup hc hbusy hlen (by decide) h1 rfl, served_role hup hc hbusy hlen (by decide) h1 rfl⟩,
    exec_fwUpdate_noRole hup hc hbusy hlen⟩

end Sys2Proof.Machine
end
